-- ==== Sys2Proof/Word.lean ====
section
/-!
DEFINITION. The word types of the XM12 (02 R24, 02 R32, 07 R142).
-/

namespace Sys2Proof

/-- A 64-bit A register, predicate, queue entry or system register (02 R32, R36). -/
abbrev Word := BitVec 64

/-- A byte of memory or of the core pool (07 R142). -/
abbrev Byte := BitVec 8

end Sys2Proof
end

