-- ==== Sys2Proof/Config.lean ====
section
/-!
DEFINITION. What the manual leaves open (log 9): opaque constants without a body. Nothing can evaluate them or prove a
value of them, so a statement about them holds for every value.
-/

namespace Sys2Proof.Config

/-- Which entry of a full TLB a new translation replaces (03 R54 gives no rule), by the counter of free values. -/
opaque tlbVictim : Nat → Nat

/-- Whether an inexact FP32 special function gives the upper of the two values that bracket it (07 R165), by the
function value of 02 R38 and the operand's bits. -/
opaque sfuUpper : Nat → Nat → Bool

/-- Bytes of an SPDM response, whose contents the manual leaves to SPDM 1.3 (22 R398), by the counter of free values and
the byte's place. -/
opaque spdmByte : Nat → Nat → Byte

/-- A word the manual gives no value for, by the counter of free values. -/
opaque freeWord : Nat → Word

/-- Word `i` behind the header of the capability record of an identifier (22 R391, which gives its subject and no layout), by the
device index and the partition record that it tells of. -/
opaque capWord : Nat → Nat → Nat → BitVec 512 → Word

/-- The version of the capability record of an identifier (22 R391). -/
opaque capVersion : Nat → BitVec 8

end Sys2Proof.Config
end

