-- ==== Sys2Proof/Syntax.lean ====
section
/-!
DEFINITION. The instruction set as data: one constructor per row of the opcode table, the 204 instruction words
(02 R38) first and the 108 steps without an encoding after them, in the table's order but for ILLEGAL_WORD, which stands
first among the latter and carries its word. The arguments of a word are its fields, named by the table's letters. What
the outside world or the choice of a unit brings to a step without an encoding stands in the state's `turn`, as the
core, context and half of an instruction do.
-/

namespace Sys2Proof



/-- The rows of the opcode table. -/
inductive Instr where
  /-- `NOP` (R168): Does nothing. -/
  | nop
  /-- `TRAP` (R363): Enters the trap vector with a code, or parks with TRAP when TVEC is 0. -/
  | trap (c : BitVec 6)
  /-- `ERET` (R364): Returns from a vectored routine to EPCA and EPCE with the saved privilege. -/
  | eret
  /-- `MFS` (R168): Reads a system register into an A register. -/
  | mfs (d : BitVec 5) (x : BitVec 6)
  /-- `MTS` (R168): Writes an A register to a system register under its access rules. -/
  | mts (s : BitVec 5) (x : BitVec 6)
  /-- `PARK` (R367): PARK 1 frees a saved context for pre-emption; PARK 0 parks it with code TRAP. -/
  | park (x : BitVec 6)
  /-- `CTXSAVE` (R367): Waits for loads and atomics, performs the implicit POD fence and writes the context save area. -/
  | ctxsave
  /-- `CTXREST` (R367): Reads the save area back into the context. -/
  | ctxrest
  /-- `RDCYC` (R168): Reads CYC into an A register. -/
  | rdcyc (d : BitVec 5)
  /-- `RDTIME` (R168): Reads TIME into an A register. -/
  | rdtime (d : BitVec 5)
  /-- `ADD` (R170): Writes x + y modulo 2^64, or the saturated sum under HMOD SAT. -/
  | add (d s t : BitVec 5)
  /-- `SUB` (R170): Writes x − y. -/
  | sub (d s t : BitVec 5)
  /-- `AND` (R170): Writes x and y. -/
  | and (d s t : BitVec 5)
  /-- `OR` (R170): Writes x or y. -/
  | or (d s t : BitVec 5)
  /-- `XOR` (R170): Writes x xor y. -/
  | xor (d s t : BitVec 5)
  /-- `ANDN` (R170): Writes x and not y. -/
  | andn (d s t : BitVec 5)
  /-- `ORN` (R170): Writes x or not y. -/
  | orn (d s t : BitVec 5)
  /-- `SLL` (R170): Shifts x left by y[5:0]. -/
  | sll (d s t : BitVec 5)
  /-- `SRL` (R170): Shifts x logically right by y[5:0]. -/
  | srl (d s t : BitVec 5)
  /-- `SRA` (R170): Shifts x arithmetically right by y[5:0]. -/
  | sra (d s t : BitVec 5)
  /-- `ROL` (R170): Rotates x left by y[5:0]. -/
  | rol (d s t : BitVec 5)
  /-- `ROR` (R170): Rotates x right by y[5:0]. -/
  | ror (d s t : BitVec 5)
  /-- `MUL` (R170): Writes the low 64 bits of x·y. -/
  | mul (d s t : BitVec 5)
  /-- `MULH` (R170): Writes the high 64 bits of the signed product. -/
  | mulh (d s t : BitVec 5)
  /-- `MULHN` (R170): Writes the high 64 bits of the unsigned product. -/
  | mulhn (d s t : BitVec 5)
  /-- `DIV` (R171): Signed division truncating toward zero, with fixed results for divisor 0 and overflow. -/
  | div (d s t : BitVec 5)
  /-- `DIVN` (R171): Unsigned division. -/
  | divn (d s t : BitVec 5)
  /-- `REM` (R171): Signed remainder with the dividend's sign. -/
  | rem (d s t : BitVec 5)
  /-- `REMN` (R171): Unsigned remainder. -/
  | remn (d s t : BitVec 5)
  /-- `MIN` (R170): Signed minimum. -/
  | min (d s t : BitVec 5)
  /-- `MAX` (R170): Signed maximum. -/
  | max (d s t : BitVec 5)
  /-- `MINN` (R170): Unsigned minimum. -/
  | minn (d s t : BitVec 5)
  /-- `MAXN` (R170): Unsigned maximum. -/
  | maxn (d s t : BitVec 5)
  /-- `SLT` (R170): Writes 1 if x < y signed. -/
  | slt (d s t : BitVec 5)
  /-- `SLTN` (R170): Writes 1 if x < y unsigned. -/
  | sltn (d s t : BitVec 5)
  /-- `SEQ` (R170): Writes 1 if x = y. -/
  | seq (d s t : BitVec 5)
  /-- `SNE` (R170): Writes 1 if x ≠ y. -/
  | sne (d s t : BitVec 5)
  /-- `CLZ` (R170): Counts leading zero bits of x. -/
  | clz (d s : BitVec 5)
  /-- `CTZ` (R170): Counts trailing zero bits of x. -/
  | ctz (d s : BitVec 5)
  /-- `POPC` (R170): Counts one bits of x. -/
  | popc (d s : BitVec 5)
  /-- `BSWAP` (R170): Reverses the bytes of x. -/
  | bswap (d s : BitVec 5)
  /-- `HMIX` (R172): Computes the HMIX hash of x and y. -/
  | hmix (d s t : BitVec 5)
  /-- `CRC32C` (R172): Updates a reflected CRC-32C by the eight bytes of y. -/
  | crc32c (d s t : BitVec 5)
  /-- `BFX` (R176): Extracts an unsigned bit field given by immediates. -/
  | bfx (d s : BitVec 5) (p l : BitVec 6)
  /-- `BFXS` (R176): Extracts a sign-extended bit field given by immediates. -/
  | bfxs (d s : BitVec 5) (p l : BitVec 6)
  /-- `BFI` (R176): Inserts the low bits of s into a field of d given by immediates. -/
  | bfi (d s : BitVec 5) (p l : BitVec 6)
  /-- `BFXV` (R176): Extracts an unsigned bit field whose position and width come from a register. -/
  | bfxv (d s t : BitVec 5)
  /-- `BFIV` (R176): Inserts a bit field whose position and width come from a register. -/
  | bfiv (d s t : BitVec 5)
  /-- `ADDI` (R174): Adds the widened signed immediate. -/
  | addi (d s : BitVec 5) (i : BitVec 16)
  /-- `ANDI` (R174): ANDs with the zero-extended immediate. -/
  | andi (d s : BitVec 5) (i : BitVec 16)
  /-- `ORI` (R174): ORs with the zero-extended immediate. -/
  | ori (d s : BitVec 5) (i : BitVec 16)
  /-- `XORI` (R174): XORs with the zero-extended immediate. -/
  | xori (d s : BitVec 5) (i : BitVec 16)
  /-- `SLTI` (R174): Writes 1 if x is below the signed immediate. -/
  | slti (d s : BitVec 5) (i : BitVec 16)
  /-- `SLTNI` (R174): Writes 1 if x is below the immediate, unsigned. -/
  | sltni (d s : BitVec 5) (i : BitVec 16)
  /-- `MULI` (R174): Multiplies by the signed immediate. -/
  | muli (d s : BitVec 5) (i : BitVec 16)
  /-- `LUI` (R174): Writes the signed immediate shifted left by 16. -/
  | lui (d : BitVec 5) (i : BitVec 16)
  /-- `SLLI` (R175): Shifts left by an immediate amount. -/
  | slli (d s : BitVec 5) (n : BitVec 6)
  /-- `SRLI` (R175): Shifts logically right by an immediate amount. -/
  | srli (d s : BitVec 5) (n : BitVec 6)
  /-- `SRAI` (R175): Shifts arithmetically right by an immediate amount. -/
  | srai (d s : BitVec 5) (n : BitVec 6)
  /-- `ROLI` (R175): Rotates left by an immediate amount. -/
  | roli (d s : BitVec 5) (n : BitVec 6)
  /-- `BEQ` (R177): Branches if x = y. -/
  | beq (s t : BitVec 5) (d : BitVec 16)
  /-- `BNE` (R177): Branches if x ≠ y. -/
  | bne (s t : BitVec 5) (d : BitVec 16)
  /-- `BLT` (R177): Branches if x < y signed. -/
  | blt (s t : BitVec 5) (d : BitVec 16)
  /-- `BGE` (R177): Branches if x ≥ y signed. -/
  | bge (s t : BitVec 5) (d : BitVec 16)
  /-- `BLTN` (R177): Branches if x < y unsigned. -/
  | bltn (s t : BitVec 5) (d : BitVec 16)
  /-- `BGEN` (R177): Branches if x ≥ y unsigned. -/
  | bgen (s t : BitVec 5) (d : BitVec 16)
  /-- `B` (R178): Jumps by a 26-bit displacement. -/
  | b (d : BitVec 26)
  /-- `BAL` (R178): Jumps by a 26-bit displacement and links in a1. -/
  | bal (d : BitVec 26)
  /-- `JR` (R179): Jumps to the address in a register. -/
  | jr (s : BitVec 5)
  /-- `JALR` (R179): Jumps to the address in a register and writes the link. -/
  | jalr (d s : BitVec 5)
  /-- `BP` (R180): Waits for older predicate writes and branches on a predicate test by mode. -/
  | bp (p : BitVec 3) (m : BitVec 2) (d : BitVec 16)
  /-- `DBNZ` (R181): Decrements a register and branches if the result is non-zero. -/
  | dbnz (s : BitVec 5) (d : BitVec 16)
  /-- `LD` (R102): Loads one element through a layout into an A register or a q0 entry. -/
  | ld (d c : BitVec 5) (L : BitVec 8) (t : BitVec 4) (a : BitVec 1)
  /-- `ST` (R102): Stores one element through a layout from an A register or a q1 entry. -/
  | st (d c : BitVec 5) (L : BitVec 8) (t : BitVec 4) (r : BitVec 1)
  /-- `LDRO` (R104): Loads one element through the read-only cache. -/
  | ldro (d c : BitVec 5) (L : BitVec 8) (t : BitVec 4)
  /-- `LDQ` (R106): Loads a box into q0 entries as 64-byte strips. -/
  | ldq (c : BitVec 5)
  /-- `STQ` (R106): Stores a box from q1 entries. -/
  | stq (c : BitVec 5)
  /-- `LAYSET` (R107): Writes a layout table entry from eight registers. -/
  | layset (i b : BitVec 5)
  /-- `LAYGET` (R107): Reads a layout table entry into eight registers. -/
  | layget (b i : BitVec 5)
  /-- `LAYSUB` (R107): Writes a sub-layout of a box into a destination entry. -/
  | laysub (i b : BitVec 5)
  /-- `PREF` (R107): Requests fills of every line a box touches, optionally into the read-only cache. -/
  | pref (b : BitVec 5) (r : BitVec 1)
  /-- `AADD` (R258): Atomic add at the home. -/
  | aadd (d c : BitVec 5) (L : BitVec 8) (r q : BitVec 1)
  /-- `AAND` (R258): Atomic AND. -/
  | aand (d c : BitVec 5) (L : BitVec 8) (r q : BitVec 1)
  /-- `AOR` (R258): Atomic OR. -/
  | aor (d c : BitVec 5) (L : BitVec 8) (r q : BitVec 1)
  /-- `AXOR` (R258): Atomic XOR. -/
  | axor (d c : BitVec 5) (L : BitVec 8) (r q : BitVec 1)
  /-- `AMIN` (R258): Atomic signed minimum. -/
  | amin (d c : BitVec 5) (L : BitVec 8) (r q : BitVec 1)
  /-- `AMAX` (R258): Atomic signed maximum. -/
  | amax (d c : BitVec 5) (L : BitVec 8) (r q : BitVec 1)
  /-- `AMINN` (R258): Atomic unsigned minimum. -/
  | aminn (d c : BitVec 5) (L : BitVec 8) (r q : BitVec 1)
  /-- `AMAXN` (R258): Atomic unsigned maximum. -/
  | amaxn (d c : BitVec 5) (L : BitVec 8) (r q : BitVec 1)
  /-- `ASWAP` (R258): Atomic swap. -/
  | aswap (d c : BitVec 5) (L : BitVec 8) (r q : BitVec 1)
  /-- `ACAS` (R259): Atomic compare-and-set, STATUS telling whether it stored. -/
  | acas (d c : BitVec 5) (L : BitVec 8) (r q : BitVec 1)
  /-- `AFADD` (R260): Atomic floating-point add rounded to nearest-even. -/
  | afadd (d c : BitVec 5) (L : BitVec 8) (r q : BitVec 1)
  /-- `WAITA` (R261): Sends a compare value to the home and parks on a watch while the word is equal. -/
  | waita (d c : BitVec 5) (L : BitVec 8) (q : BitVec 1)
  /-- `FENCE` (R253): Full, acquire, release or checkpoint fence at a scope; POD release fences send count markers. -/
  | fence (k : BitVec 2) (s : BitVec 3)
  /-- `QFENCE` (R255): Joins chosen engine queues of the core through the outbox. -/
  | qfence (f : BitVec 5)
  /-- `ROSYNC` (R256): Invalidates the cluster's read-only cache. -/
  | rosync
  /-- `CHNEW` (R303): Creates a channel and places its two ends in end registers. -/
  | chnew (d r : BitVec 5)
  /-- `SEND` (R307): Places a message for a send end in the outbox. -/
  | send (f n : BitVec 5) (e : BitVec 6)
  /-- `SENDE` (R312): Sends a message that also carries one or two ends. -/
  | sende (f n l : BitVec 5) (e : BitVec 6)
  /-- `ECLOSE` (R317): Closes an end at commit. -/
  | eclose (e : BitVec 6)
  /-- `EINFO` (R304): Reads an end register's handle or flags. -/
  | einfo (d s : BitVec 5) (e : BitVec 6)
  /-- `EBIND` (R305): Binds a receive end to a handler. -/
  | ebind (h : BitVec 5) (e : BitVec 6)
  /-- `EMASK` (R306): Sets an end's hold and event enables and sends the enables to the home. -/
  | emask (m : BitVec 5) (e : BitVec 6)
  /-- `SPAWN` (R321): Sends a spawn message to a target core. -/
  | spawn (b a l : BitVec 5) (n : BitVec 6)
  /-- `HEND` (R324): Commits the outbox and ends the activation, optionally exiting the process. -/
  | hend (x : BitVec 1)
  /-- `HSEAL` (R323): Sends the outbox at once and seals the activation. -/
  | hseal
  /-- `RATESET` (R344): Writes a channel's rate loop fields at its home. -/
  | rateset (r : BitVec 5) (e : BitVec 6)
  /-- `RATEGET` (R345): Reads a channel's rate loop fields. -/
  | rateget (r : BitVec 5) (e : BitVec 6)
  /-- `GNAME` (R349): Reads the name of the holder of the other end from the home. -/
  | gname (d : BitVec 5) (e : BitVec 6)
  /-- `GSTV` (R350): Sends 64 bytes of a view to a named process's landing region. -/
  | gstv (n o v : BitVec 5)
  /-- `GHOLD` (R352): Arms holds on landing granules. -/
  | ghold (o n : BitVec 5)
  /-- `GWAIT` (R353): Waits until a landing range is released. -/
  | gwait (o n : BitVec 5)
  /-- `BARINIT` (R139): Initialises a barrier object. -/
  | barinit (r e : BitVec 5)
  /-- `BARARR` (R139): Arrives at a barrier, declaring transfer counts. -/
  | bararr (r a d : BitVec 5)
  /-- `BARWAIT` (R139): Waits for a barrier generation to change or for poison. -/
  | barwait (r g : BitVec 5)
  /-- `BARTEST` (R139): Tests a barrier without waiting. -/
  | bartest (r g d : BitVec 5)
  /-- `WAITANY` (R118): Waits until any masked tag is set. -/
  | waitany (d m : BitVec 5)
  /-- `WAITALL` (R118): Waits until all masked tags are set. -/
  | waitall (d m : BitVec 5)
  /-- `FFR` (R118): Finds the lowest set masked tag without waiting. -/
  | ffr (d m : BitVec 5)
  /-- `TAGCLR` (R118): Clears the error bits of masked tags. -/
  | tagclr (m : BitVec 5)
  /-- `CPY` (R124): Issues a copy command between two boxes. -/
  | cpy (d s : BitVec 5) (t : BitVec 6)
  /-- `CPYRED` (R124): Issues a copy that combines into the destination at its home. -/
  | cpyred (d s : BitVec 5) (t : BitVec 6)
  /-- `GATH` (R127): Issues an indexed gather of rows. -/
  | gath (d s i : BitVec 5) (t : BitVec 6)
  /-- `SCAT` (R127): Issues an indexed scatter of rows. -/
  | scat (d s i : BitVec 5) (t : BitVec 6)
  /-- `HALO` (R129): Issues pushes of a box to neighbour landing regions. -/
  | halo (o b m : BitVec 5) (t : BitVec 6)
  /-- `STRM` (R131): Arms a view as a stream over a box. -/
  | strm (v b : BitVec 5) (t : BitVec 6)
  /-- `FILLW` (R133): Fills a view through a fill window. -/
  | fillw (v b w : BitVec 5) (t : BitVec 6)
  /-- `CPYCAN` (R135): Removes queued and outbox commands holding a tag. -/
  | cpycan (t : BitVec 6)
  /-- `MMA` (R216): Issues a matrix job into a local accumulator tile. -/
  | mma (v a b : BitVec 5) (t : BitVec 6)
  /-- `MMAS` (R225): Issues a matrix job merged into a reduction box. -/
  | mmas (r a b : BitVec 5) (t : BitVec 6)
  /-- `MROT` (R229): Issues one multiply-and-rotate step. -/
  | mrot (v a b : BitVec 5) (t : BitVec 6)
  /-- `MZERO` (R235): Issues a job that zeroes an accumulator tile. -/
  | mzero (v : BitVec 5) (t : BitVec 6)
  /-- `MRD` (R235): Issues a job that converts a tile into a destination box. -/
  | mrd (d v : BitVec 5) (t : BitVec 6)
  /-- `MWAIT` (R236): Waits for a matrix job to complete. -/
  | mwait (j : BitVec 5)
  /-- `MPOLL` (R236): Tests whether a matrix job is complete. -/
  | mpoll (d j : BitVec 5)
  /-- `MCAN` (R237): Removes matrix jobs holding a tag that have not begun. -/
  | mcan (t : BitVec 6)
  /-- `VADD` (R196): Elementwise add. -/
  | vadd (d a b : BitVec 5) (t : BitVec 4)
  /-- `VSUB` (R196): Elementwise subtract. -/
  | vsub (d a b : BitVec 5) (t : BitVec 4)
  /-- `VMUL` (R196): Elementwise multiply. -/
  | vmul (d a b : BitVec 5) (t : BitVec 4)
  /-- `VFMA` (R196): Fused a·b + c. -/
  | vfma (d a b : BitVec 5) (t : BitVec 4)
  /-- `VFMS` (R196): Fused a·b − c. -/
  | vfms (d a b : BitVec 5) (t : BitVec 4)
  /-- `VNFMA` (R196): Fused c − a·b. -/
  | vnfma (d a b : BitVec 5) (t : BitVec 4)
  /-- `VDIV` (R196): Elementwise divide. -/
  | vdiv (d a b : BitVec 5) (t : BitVec 4)
  /-- `VMIN` (R196): Elementwise minimum. -/
  | vmin (d a b : BitVec 5) (t : BitVec 4)
  /-- `VMAX` (R196): Elementwise maximum. -/
  | vmax (d a b : BitVec 5) (t : BitVec 4)
  /-- `VABS` (R196): Elementwise absolute value. -/
  | vabs (d a : BitVec 5) (t : BitVec 4)
  /-- `VNEG` (R196): Elementwise negation. -/
  | vneg (d a : BitVec 5) (t : BitVec 4)
  /-- `VAND` (R196): Bitwise AND. -/
  | vand (d a b : BitVec 5) (t : BitVec 4)
  /-- `VOR` (R196): Bitwise OR. -/
  | vor (d a b : BitVec 5) (t : BitVec 4)
  /-- `VXOR` (R196): Bitwise XOR. -/
  | vxor (d a b : BitVec 5) (t : BitVec 4)
  /-- `VNOT` (R196): Bitwise NOT. -/
  | vnot (d a : BitVec 5) (t : BitVec 4)
  /-- `VSHL` (R196): Shift left. -/
  | vshl (d a b : BitVec 5) (t : BitVec 4)
  /-- `VSHR` (R196): Logical shift right. -/
  | vshr (d a b : BitVec 5) (t : BitVec 4)
  /-- `VSHRA` (R196): Arithmetic shift right. -/
  | vshra (d a b : BitVec 5) (t : BitVec 4)
  /-- `VCLAMP` (R196): Clamps a between b and the old destination element. -/
  | vclamp (d a b : BitVec 5) (t : BitVec 4)
  /-- `VMOV` (R196): Copies elements unchanged. -/
  | vmov (d a : BitVec 5) (t : BitVec 4)
  /-- `VBCAST` (R196): Broadcasts element 0 of za. -/
  | vbcast (d a : BitVec 5) (t : BitVec 4)
  /-- `VIOTA` (R196): Writes each element's position. -/
  | viota (d : BitVec 5) (t : BitVec 4)
  /-- `VADDI` (R199): Adds a broadcast immediate. -/
  | vaddi (d a : BitVec 5) (i : BitVec 16)
  /-- `VMULI` (R199): Multiplies by a broadcast immediate. -/
  | vmuli (d a : BitVec 5) (i : BitVec 16)
  /-- `VMAXI` (R199): Maximum with a broadcast immediate. -/
  | vmaxi (d a : BitVec 5) (i : BitVec 16)
  /-- `VSETI` (R199): Writes a broadcast immediate to every element. -/
  | vseti (d : BitVec 5) (i : BitVec 16)
  /-- `VCMP` (R200): Compares two one-beat views by a condition into a predicate. -/
  | vcmp (a b : BitVec 5) (t : BitVec 4) (c p : BitVec 3)
  /-- `VSEL` (R201): Selects between two views by a predicate. -/
  | vsel (d a b : BitVec 5) (t : BitVec 4) (p : BitVec 3)
  /-- `PAND` (R202): ANDs two predicates. -/
  | pand (a b d : BitVec 3)
  /-- `POR` (R202): ORs two predicates. -/
  | por (a b d : BitVec 3)
  /-- `PXOR` (R202): XORs two predicates. -/
  | pxor (a b d : BitVec 3)
  /-- `PNOT` (R202): Inverts a predicate. -/
  | pnot (a d : BitVec 3)
  /-- `PCNT` (R202): Pushes the count of a predicate's set bits to q3. -/
  | pcnt (s : BitVec 3)
  /-- `PSET` (R202): Sets a predicate from a q2 value, directly or as a first-lanes mask. -/
  | pset (m : BitVec 1) (d : BitVec 3)
  /-- `VCVT` (R203): Converts elements between types. -/
  | vcvt (d a : BitVec 5) (t : BitVec 4)
  /-- `VBQ` (R204): Quantises to a block format, writing scales. -/
  | vbq (d a b : BitVec 5) (t : BitVec 4)
  /-- `VBDQ` (R205): Dequantises a block format. -/
  | vbdq (d a b : BitVec 5) (t : BitVec 4)
  /-- `VRED` (R207): Reduces along an axis by sum, max or min. -/
  | vred (d a : BitVec 5) (t : BitVec 4) (o x : BitVec 2)
  /-- `VSCAN` (R208): Prefix reduction along an axis. -/
  | vscan (d a : BitVec 5) (t : BitVec 4) (o x : BitVec 2)
  /-- `VDOT` (R209): Dot product along an axis. -/
  | vdot (d a b : BitVec 5) (t : BitVec 4) (x : BitVec 2)
  /-- `VTOPK` (R210): Selects the k largest or smallest elements, optionally with indices. -/
  | vtopk (d a b : BitVec 5) (t : BitVec 4) (k o : BitVec 1)
  /-- `VPERM` (R211): Permutes elements by an index view. -/
  | vperm (d a b : BitVec 5) (t : BitVec 4) (w n : BitVec 1)
  /-- `VEXP2` (R212): Computes 2^x. -/
  | vexp2 (d a : BitVec 5) (t : BitVec 4)
  /-- `VEXP` (R212): Computes e^x. -/
  | vexp (d a : BitVec 5) (t : BitVec 4)
  /-- `VLOG2` (R212): Computes log2 x. -/
  | vlog2 (d a : BitVec 5) (t : BitVec 4)
  /-- `VLN` (R212): Computes ln x. -/
  | vln (d a : BitVec 5) (t : BitVec 4)
  /-- `VRCP` (R212): Computes 1/x. -/
  | vrcp (d a : BitVec 5) (t : BitVec 4)
  /-- `VRSQRT` (R212): Computes 1/√x. -/
  | vrsqrt (d a : BitVec 5) (t : BitVec 4)
  /-- `VSQRT` (R212): Computes √x. -/
  | vsqrt (d a : BitVec 5) (t : BitVec 4)
  /-- `VSIN` (R212): Computes sin x. -/
  | vsin (d a : BitVec 5) (t : BitVec 4)
  /-- `VCOS` (R212): Computes cos x. -/
  | vcos (d a : BitVec 5) (t : BitVec 4)
  /-- `VTANH` (R212): Computes tanh x. -/
  | vtanh (d a : BitVec 5) (t : BitVec 4)
  /-- `VSIGM` (R212): Computes the logistic sigmoid. -/
  | vsigm (d a : BitVec 5) (t : BitVec 4)
  /-- `VGELU` (R212): Computes GELU. -/
  | vgelu (d a : BitVec 5) (t : BitVec 4)
  /-- `VSILU` (R212): Computes SiLU. -/
  | vsilu (d a : BitVec 5) (t : BitVec 4)
  /-- `VERF` (R212): Computes erf x. -/
  | verf (d a : BitVec 5) (t : BitVec 4)
  /-- `ZSET` (R109): Sets one field of a view from q2. -/
  | zset (d a s : BitVec 5)
  /-- `ZLD` (R109): Loads a view register from a template. -/
  | zld (d s : BitVec 5)
  /-- `ZST` (R109): Stores a view register into a template. -/
  | zst (a s : BitVec 5)
  /-- `ZINC` (R109): Advances a view's offset by a q2 count. -/
  | zinc (d a s : BitVec 5)
  /-- `VTAG` (R109): Sets the tags of a view's granules to a type or NONE. -/
  | vtag (d : BitVec 5) (n : BitVec 1) (t : BitVec 4)
  /-- `VTAGRD` (R109): Pushes a view's granule tag summary to q3. -/
  | vtagrd (a : BitVec 5)
  /-- `LGRAPH` (R285): Issues a Lintel graph start entry. -/
  | lgraph (f : BitVec 5)
  /-- `LWAIT` (R287): Waits for a Lintel notify register to reach a count. -/
  | lwait (d a c : BitVec 5)
  /-- `HSTALL` (R184): Delays the modified instruction's candidacy by n clocks. -/
  | hstall (n : BitVec 8)
  /-- `HIMM` (R185): Widens the next immediate by 22 bits. -/
  | himm (p : BitVec 22)
  /-- `HMOD` (R186): Modifies the next instruction's rounding, saturation, predicate, ordering, barrier, cache or scope. -/
  | hmod (r : BitVec 3) (t : BitVec 1) (p : BitVec 3) (z o u : BitVec 1) (b : BitVec 5) (c : BitVec 2) (e : BitVec 3)
  /-- `HBR` (R188): Sets the static prediction of the next branch. -/
  | hbr (h : BitVec 2)
  /-- `ILLEGAL_WORD` (R40): A word with an unassigned major, an unlisted function value or a non-zero unused field raises ILLEGAL in the half its major routes to. -/
  | illegalWord (w : BitVec 32)
  /-- `DEVICE_RESET` (R17): Reset sets every arbiter, tag and job record to its reset state. -/
  | deviceReset
  /-- `DEVICE_START` (R396): Runs the start stages in order and records the result in BOOTSTAT. -/
  | deviceStart
  /-- `PART_SET` (R393): Mailbox command that installs a partition and aperture record, or refuses it. -/
  | partSet
  /-- `DEV_SET` (R395): Mailbox command that writes one device-wide field. -/
  | devSet
  /-- `SPDM` (R398): Mailbox command that answers one SPDM message in place. -/
  | spdm
  /-- `IMAGE_LOAD` (R395): Mailbox command that stages a signed image for the next start. -/
  | imageLoad
  /-- `CKPT_START` (R401): Mailbox command that opens a checkpoint session. -/
  | ckptStart
  /-- `MAILBOX_RESET` (R397): Mailbox RESET command that runs a full device start. -/
  | mailboxReset
  /-- `HOST_WINDOW_GO` (R390): A GO write sends the window's payload words on its end, or sets LOST when BUSY. -/
  | hostWindowGo
  /-- `HOST_EVENT_ENTRY` (R390): An event for a window's end is written into the host event ring when there is room, then PROD increments. -/
  | hostEventEntry
  /-- `HOST_BAR2_ACCESS` (R388): A host access through BAR2 is applied, or beyond the range dropped and the function frozen. -/
  | hostBar2Access
  /-- `HOST_CXL_ACCESS` (R425): N0 passes a HOST or CXL access to the link or port in arrival order. -/
  | hostCxlAccess
  /-- `TINVC_GO` (R58): A GO write drops matching TLB entries, or is held until DONE. -/
  | tinvcGo
  /-- `TINVC_DONE` (R58): DONE is set once older walks and accesses through dropped entries have completed. -/
  | tinvcDone
  /-- `SCFG_WRITE` (R71): Writes MCWIN and RWAYS, storing 8 for RWAYS above 8. -/
  | scfgWrite
  /-- `FILLMASK_WRITE` (R69): Writes a partition's fill mask, in force from the next clock. -/
  | fillmaskWrite
  /-- `PCTL_WRITE` (R278): Writes PFTMO, storing 1 for 0. -/
  | pctlWrite
  /-- `PORTSTAT_CLR` (R278): Clears a port's REPLAY, STOMP and DROP counters. -/
  | portstatClr
  /-- `PORTSTAT_RETRAIN` (R278): Retrains a link. -/
  | portstatRetrain
  /-- `RING_CONFIG_WRITE` (R404): Writes a sample or event ring setting, storing LOG2N 0 when it is rejected. -/
  | ringConfigWrite
  /-- `PCNT_WRITE` (R408): Writes a partition counter, adding the events of that clock. -/
  | pcntWrite
  /-- `LATTOL_WRITE` (R400): Writes a partition's latency tolerance, starting an exit when below the current state's latency. -/
  | lattolWrite
  /-- `REGISTER_WRITE` (R4): Writes a register that has no row of its own under its access codes. -/
  | registerWrite
  /-- `HANG` (R339): The activation budget reaches 0 and the context raises HANG. -/
  | hang
  /-- `WAITA_TIMEOUT` (R261): A watch reaches WAITTMO clocks and replies with STATUS 2. -/
  | waitaTimeout
  /-- `COMBINING_WINDOW_CLOSE` (R72): A combining window closes and one reply is sent to every joined cluster. -/
  | combiningWindowClose
  /-- `MARKER_WAIT_EXPIRY` (R274): A count marker waits PFTMO at the target and is acknowledged as a mismatch. -/
  | markerWaitExpiry
  /-- `FENCE_ACK_TIMEOUT` (R274): A path without acknowledgement within 4·PFTMO counts as mismatched. -/
  | fenceAckTimeout
  /-- `REMOTE_REPLY_TIMEOUT` (R277): A remote load or atomic without reply in 4·PFTMO raises DATA_POISON. -/
  | remoteReplyTimeout
  /-- `INGRESS_FLIT_EXPIRY` (R284): An ingress flit that waited 1 ms without a graph is dropped and counted. -/
  | ingressFlitExpiry
  /-- `PACKET_AGEING` (R269): A waiting packet's age rises by 1 each 128 clocks. -/
  | packetAgeing
  /-- `RATE_PERIOD_END` (R340): The receiving core reports the period's occupancy to the home. -/
  | ratePeriodEnd
  /-- `RATE_UPDATE` (R341): The home computes the rate update and sends deltas to producer and consumer. -/
  | rateUpdate
  /-- `RATE_DELTA` (R342): A process applies a weight delta with a clamp and acknowledges it. -/
  | rateDelta
  /-- `RATE_ACK` (R341): The home sets CD from the clamp acknowledgements. -/
  | rateAck
  /-- `PC_SAMPLE` (R406): A core samples one context each PERIOD clocks into the sample ring. -/
  | pcSample
  /-- `IDLE_ENTRY` (R399): An idle cluster enters I1 or I2 after ten times the latency. -/
  | idleEntry
  /-- `DEVICE_IDLE_ENTRY` (R399): The device enters I3 or I4 when every cluster is idle. -/
  | deviceIdleEntry
  /-- `IDLE_WAKE` (R400): A wake event starts the exit of an idle state. -/
  | idleWake
  /-- `IDLE_EXIT_DONE` (R400): The exit completes and waiting accesses proceed. -/
  | idleExitDone
  /-- `TIME_MESSAGE` (R411): A device slews TIME toward the reference's time message. -/
  | timeMessage
  /-- `LOAD_DATA_RETURN` (R19): Load data arrives and fills its register or reserved q0 entry. -/
  | loadDataReturn
  /-- `SLICE_ACCESS` (R63): A slice serves a read or write, hitting or choosing a victim for a fill. -/
  | sliceAccess
  /-- `SLICE_FILL_DATA` (R63): HBM data arrives at the slice and is installed and returned. -/
  | sliceFillData
  /-- `EVICTION_REPORT` (R66): The home clears a die's bit when it reports a remote copy evicted. -/
  | evictionReport
  /-- `REMOTE_INVALIDATION` (R66): An invalidation from a line's home is applied at the caching slice. -/
  | remoteInvalidation
  /-- `INTER_DIE_MESSAGE` (R242): An inter-die write is applied once its vector clock's predecessors are. -/
  | interDieMessage
  /-- `REDUCTION_MERGE` (R125): A near-cache adder adds an element into a reduction accumulator. -/
  | reductionMerge
  /-- `ATOMIC_AT_HOME` (R257): An atomic is applied at its home slice. -/
  | atomicAtHome
  /-- `ATOMIC_REPLY` (R257): An atomic's reply reaches its context and writes the old value. -/
  | atomicReply
  /-- `SCRATCHPAD_ATOMIC` (R426): A SPAD atomic or WAITA is performed by the owning core's controller. -/
  | scratchpadAtomic
  /-- `PAGE_WALK` (R55): A cluster TLB miss takes or joins a walk and installs a translation. -/
  | pageWalk
  /-- `MORTAR_HOP` (R78): A router moves a packet one hop under the bubble rule and stop/go. -/
  | mortarHop
  /-- `LINK_REPLAY` (R266): A flit failing FEC is replayed; after 8 replays the link retrains. -/
  | linkReplay
  /-- `LINK_TRAINING_DONE` (R266): Training ends with STOPAT set, or the link is down. -/
  | linkTrainingDone
  /-- `XANOL_FORWARD` (R267): A Xanol router arbitrates and forwards a packet cut-through. -/
  | xanolForward
  /-- `REMOTE_PACKET_ARRIVAL` (R381): A remote packet is counted on arrival, then applied or held. -/
  | remotePacketArrival
  /-- `ORDERED_PACKET_RELEASE` (R276): A held stamped packet is applied once counts reach its stamp. -/
  | orderedPacketRelease
  /-- `COUNT_MARKER_ARRIVAL` (R274): A count marker waits until the received count matches, then acknowledges. -/
  | countMarkerArrival
  /-- `COUNT_MARKER_ACK` (R274): A marker acknowledgement reaches the fencing context. -/
  | countMarkerAck
  /-- `DRAIN_MARKER` (R346): A die or core passes the name drain marker after its earlier stores. -/
  | drainMarker
  /-- `LINTEL_INGRESS_FLIT` (R284): An ingress flit is delivered to the graph with its KEY and port. -/
  | lintelIngressFlit
  /-- `LINTEL_GRAPH_START` (R285): A start entry starts once earlier entries have and its units are free. -/
  | lintelGraphStart
  /-- `LINTEL_UNIT_FLIT` (R281): An operator unit processes a flit. -/
  | lintelUnitFlit
  /-- `LINTEL_GRAPH_END` (R286): A graph completes and increments DONE as a POD release. -/
  | lintelGraphEnd
  /-- `OUTBOX_ENTRY_LEAVE` (R112): An outbox entry leaves for its queue or channel, waiting for room. -/
  | outboxEntryLeave
  /-- `HOD_LINE_TRANSFER` (R115): The hod chooses a queue and moves one line. -/
  | hodLineTransfer
  /-- `HOD_COMMAND_COMPLETE` (R116): A command completes, decrementing its tag count and setting the bit at 0. -/
  | hodCommandComplete
  /-- `SYSTEM_COPY_TRANSFER` (R141): A system copy engine moves data for a HOST or CXL command. -/
  | systemCopyTransfer
  /-- `BARRIER_OPERATION` (R137): The owning controller applies a barrier operation or count adjustment. -/
  | barrierOperation
  /-- `HALO_PUSH_ARRIVAL` (R130): A HALO push is written at the target, releasing holds and counting HCNT. -/
  | haloPushArrival
  /-- `LANDING_STORE_ARRIVAL` (R347): A GSTV store is handled by the target's process-table state. -/
  | landingStoreArrival
  /-- `MATRIX_STEP_GRANT` (R215): The matrix arbiter grants the next ready step, which fetches and pins operands. -/
  | matrixStepGrant
  /-- `MATRIX_STEP_RETIRE` (R218): A step retires, releasing its pins after its residue check. -/
  | matrixStepRetire
  /-- `MATRIX_JOB_COMPLETE` (R224): A job writes back its tile or merges its MMAS values and completes. -/
  | matrixJobComplete
  /-- `MATRIX_JOB_POISON` (R228): A gated job finding poison completes with status 2 with those queued behind it. -/
  | matrixJobPoison
  /-- `ROTATION_SLOT_ACCEPT` (R229): A target slot accepts a rotated operand when free. -/
  | rotationSlotAccept
  /-- `WRITEBACK_PORT_OP` (R235): MZERO or MRD runs on the write-back port after earlier jobs. -/
  | writebackPortOp
  /-- `ACTIVATION_START` (R291): A free context starts the selected runnable activation. -/
  | activationStart
  /-- `MESSAGE_ARRIVAL` (R309): A message reaches the holding core and is held or refused. -/
  | messageArrival
  /-- `HOME_FORWARD` (R308): A message at the home is forwarded, parked or refused. -/
  | homeForward
  /-- `LOCATION_UPDATE` (R308): A holder's cached receive location is updated. -/
  | locationUpdate
  /-- `END_LANDING_REGISTRATION` (R315): The home records a landed end, sends events and updates locations. -/
  | endLandingRegistration
  /-- `PARKED_DRAIN` (R315): The home offers parked messages to the new core in order as room frees. -/
  | parkedDrain
  /-- `CLOSE_MARKER` (R317): The home records a send-end close and forwards or parks the marker. -/
  | closeMarker
  /-- `RECEIVE_CLOSE` (R318): The home applies a receive-end close and notifies the sender. -/
  | receiveClose
  /-- `SPAWN_ARRIVAL` (R322): A spawn message creates a child or is refused. -/
  | spawnArrival
  /-- `EVENT_DELIVERY` (R325): An event enters handler 0's queue when there is room. -/
  | eventDelivery
  /-- `LAUNCH` (R331): A launch message is checked and the network queued or rejected. -/
  | launch
  /-- `CANCEL` (R336): A cancel removes a queued network or requests a running one to stop. -/
  | cancel
  /-- `NETWORK_DISPATCH` (R333): The scheduler dispatches the ready network as one step. -/
  | networkDispatch
  /-- `NETWORK_DONE` (R335): The last exit sends NETWORK_DONE to the launcher. -/
  | networkDone
  /-- `PREEMPT` (R365): The controller stops dispatch and raises the interrupt in running contexts. -/
  | preempt
  /-- `CORE_ACKNOWLEDGE` (R365): A core acknowledges; the eighth starts the pool copy. -/
  | coreAcknowledge
  /-- `POOL_COPY_DONE` (R365): The copy ends, processes become SWAPPED and queued stores are applied. -/
  | poolCopyDone
  /-- `IMAGE_RESUME` (R369): A saved image is placed, restored and its activations resumed. -/
  | imageResume
  /-- `PROCESS_MOVE` (R374): A restartable process is moved to another core after a rollback. -/
  | processMove
  /-- `RESUME` (R360): Supervisor command that resumes a parked context. -/
  | resume
  /-- `RESTART` (R361): Supervisor command that rolls back and redelivers. -/
  | restart
  /-- `KILL` (R361): Supervisor command that drops the outbox and frees the context. -/
  | kill
  /-- `EXIT` (R361): Supervisor command that kills and exits the process. -/
  | exit
  /-- `CHECKPOINT_GRANULE_COPY` (R402): A system copy engine writes one granule of the copy set. -/
  | checkpointGranuleCopy
  /-- `CKPT_STAGE_COPY` (R402): The home copies a granule into staging before its first write after the cut. -/
  | ckptStageCopy
  /-- `CUT_COMPLETE` (R402): The cut completes and writes its bitmap. -/
  | cutComplete
  /-- `THERMAL_TRIP` (R396): A thermal trip at any start stage fails the start with reason 5. -/
  | thermalTrip
  /-- `HOST_FUNCTION_RESET` (R377): The host resets a frozen PCIe function, after which the Keystone releases it. -/
  | hostFunctionReset
  /-- `MCTP_I3C_MESSAGE` (R398): An SPDM or PLDM message arrives over MCTP on I3C and is answered, or stages an image for firmware update. -/
  | mctpI3cMessage
  deriving DecidableEq, Repr, Inhabited

end Sys2Proof
end

