-- ==== Sys2Proof/WellFormed.lean ====
section
/-!
DEFINITION. The checks on a word's field values that are decided from the word alone (02 R40): register fields (R32,
R33), literal ranges, and type codes (R37). A word that fails one raises ILLEGAL. `Instr.wellFormed` is a Bool on the
instruction as syntax; the steps without an encoding have no fields to check.
-/

namespace Sys2Proof

/-- R32: field 31 is no register outside the data field of LD, ST and LDRO. -/
def regOk (r : BitVec 5) : Bool := r != 31#5

/-- R33: a range of `k` registers from field `b` ends at a29 at the latest. -/
def baseOk (b : BitVec 5) (k : Nat) : Bool := decide (b.toNat + k ≤ 30)

/-- A literal view number 0-29 (09 R199, 10 R233, 14 R350). -/
def viewOk (z : BitVec 5) : Bool := decide (z.toNat ≤ 29)

/-- F of 09 R196: FP32, BF16, FP16. -/
def tyF (t : BitVec 4) : Bool := decide (t.toNat ≤ 2)

/-- I of 09 R196: the integer types 8-15. -/
def tyI (t : BitVec 4) : Bool := decide (8 ≤ t.toNat)

/-- F or I. -/
def tyFI (t : BitVec 4) : Bool := tyF t || tyI t

/-- Types 0-5 and 8-15 (09 R196, R200, R201, R203). -/
def tyMove (t : BitVec 4) : Bool := decide (t.toNat ≤ 5) || tyI t

/-- Types 0-4 and 8-15 (05 R102). -/
def tyLoad (t : BitVec 4) : Bool := decide (t.toNat ≤ 4) || tyI t

/-- Types of max and min reductions and scans (09 R206): F, I, E4M3, E5M2, L6. -/
def tyRed (o : BitVec 2) (t : BitVec 4) : Bool := o != 3#2 && (tyFI t || (o != 0#2 && decide (t.toNat ≤ 5)))

/-- Two register operands and a destination. -/
def reg3 (d s t : BitVec 5) : Bool := regOk d && regOk s && regOk t

/-- Payload registers of SEND, SENDE and SPAWN (13 R302): a count in range, none named for a count of 0. -/
def payloadOk (f n : Nat) (most : Nat) : Bool :=
  decide (n ≤ most) && (if n = 0 then decide (f = 0) else decide (f + n ≤ 30))

/-- HMOD's own limits (08 R186). -/
def hmodOk (r p : BitVec 3) (z : BitVec 1) (b : BitVec 5) (c : BitVec 2) : Bool :=
  decide (r.toNat ≤ 5) && (p != 0#3 || z == 0#1) && decide (b.toNat ≤ 29) && c != 3#2

/-- The field checks of an instruction. -/
def Instr.wellFormed : Instr → Bool
  -- SYS (02 R42, 15 R367)
  | .mfs d x => regOk d && decide (x.toNat ≤ 44)
  | .mts s x => regOk s && decide (x.toNat ≤ 44)
  | .park x => decide (x.toNat ≤ 1)
  | .rdcyc d | .rdtime d => regOk d
  -- ALU, BITF, I format, branches (02 R32, 08 R170-R181)
  | .add d s t | .sub d s t | .and d s t | .or d s t | .xor d s t | .andn d s t | .orn d s t | .sll d s t
  | .srl d s t | .sra d s t | .rol d s t | .ror d s t | .mul d s t | .mulh d s t | .mulhn d s t | .div d s t
  | .divn d s t | .rem d s t | .remn d s t | .min d s t | .max d s t | .minn d s t | .maxn d s t | .slt d s t
  | .sltn d s t | .seq d s t | .sne d s t | .hmix d s t | .crc32c d s t | .bfxv d s t | .bfiv d s t => reg3 d s t
  | .clz d s | .ctz d s | .popc d s | .bswap d s => regOk d && regOk s
  | .bfx d s _ _ | .bfxs d s _ _ | .bfi d s _ _ => regOk d && regOk s
  | .addi d s _ | .andi d s _ | .ori d s _ | .xori d s _ | .slti d s _ | .sltni d s _ | .muli d s _ =>
    regOk d && regOk s
  | .lui d _ => regOk d
  | .slli d s _ | .srli d s _ | .srai d s _ | .roli d s _ => regOk d && regOk s
  | .beq s t _ | .bne s t _ | .blt s t _ | .bge s t _ | .bltn s t _ | .bgen s t _ => regOk s && regOk t
  | .jr s => regOk s
  | .jalr d s => regOk d && regOk s
  | .dbnz s _ => decide (1 ≤ s.toNat) && decide (s.toNat ≤ 29)
  -- loads, stores, layouts (05 R102-R107)
  | .ld _ c _ t _ | .st _ c _ t _ | .ldro _ c _ t => baseOk c 1 && tyLoad t
  | .ldq c | .stq c => baseOk c 3
  | .layset i y => regOk i && baseOk y 8
  | .layget y i => baseOk y 8 && regOk i
  | .laysub i y => regOk i && baseOk y 3
  | .pref y _ => baseOk y 3
  -- atomics and fences (11 R253-R261)
  | .aadd d c _ _ _ | .aand d c _ _ _ | .aor d c _ _ _ | .axor d c _ _ _ | .amin d c _ _ _ | .amax d c _ _ _
  | .aminn d c _ _ _ | .amaxn d c _ _ _ | .aswap d c _ _ _ | .afadd d c _ _ _ => regOk d && baseOk c 1
  | .acas d c _ _ _ => decide (1 ≤ d.toNat) && decide (d.toNat ≤ 28) && baseOk c 1
  | .waita d c _ _ => regOk d && baseOk c 1
  | .fence k s => s != 0#3 && (k != 3#2 || s == 5#3)
  | .qfence f => regOk f
  -- messages (13 R301, R302, R312, R321)
  | .chnew d r => regOk d && regOk r
  | .send f n _ => payloadOk f.toNat n.toNat 8
  | .sende f n l _ => payloadOk f.toNat n.toNat 8 && regOk l && l != 0#5
  | .einfo d s _ => regOk d && decide (s.toNat ≤ 2)
  | .ebind h _ => regOk h
  | .emask m _ => regOk m
  | .spawn y a l n => baseOk y 2 && payloadOk a.toNat n.toNat 6 && regOk l
  | .rateset r _ | .rateget r _ => regOk r
  -- groups, barriers, tags (14 R349-R353, 06 R118, R139)
  | .gname d _ => regOk d
  | .gstv n o v => regOk n && regOk o && viewOk v
  | .ghold o n | .gwait o n => regOk o && regOk n
  | .barinit r e => regOk r && regOk e
  | .bararr r a d => reg3 r a d
  | .barwait r g => regOk r && regOk g
  | .bartest r g d => reg3 r g d
  | .waitany d m | .waitall d m | .ffr d m => regOk d && regOk m
  | .tagclr m => regOk m
  -- copies and matrix jobs (06 R119, 10 R233)
  | .cpy d s _ | .cpyred d s _ => baseOk d 3 && baseOk s 3
  | .gath d s i _ | .scat d s i _ => baseOk d 3 && baseOk s 3 && baseOk i 3
  | .halo o y m _ => regOk o && baseOk y 3 && regOk m
  | .strm v y _ => viewOk v && baseOk y 3
  | .fillw v y w _ => viewOk v && baseOk y 3 && decide (w.toNat ≤ 7)
  | .mma v a y _ | .mrot v a y _ => viewOk v && baseOk a 3 && baseOk y 3
  | .mmas r a y _ => baseOk r 3 && baseOk a 3 && baseOk y 3
  | .mzero v _ => viewOk v
  | .mrd d v _ => baseOk d 3 && viewOk v
  | .mwait j => regOk j
  | .mpoll d j => regOk d && regOk j
  -- E half (09 R196-R212, 05 R109)
  | .vadd _ _ _ t | .vsub _ _ _ t | .vmul _ _ _ t | .vfma _ _ _ t | .vfms _ _ _ t | .vnfma _ _ _ t
  | .vdiv _ _ _ t | .vmin _ _ _ t | .vmax _ _ _ t | .vclamp _ _ _ t => tyFI t
  | .vabs _ _ t | .vneg _ _ t => tyFI t
  | .vand _ _ _ t | .vor _ _ _ t | .vxor _ _ _ t | .vshl _ _ _ t | .vshr _ _ _ t | .vshra _ _ _ t => tyI t
  | .vnot _ _ t => tyI t
  | .vmov _ _ t | .vbcast _ _ t => tyMove t
  | .viota _ t => tyFI t
  | .vaddi d a _ | .vmuli d a _ | .vmaxi d a _ => viewOk d && viewOk a
  | .vseti d _ => viewOk d
  | .vcmp _ _ t _ _ => tyMove t
  | .vsel _ _ _ t _ => tyMove t
  | .vcvt _ a t => tyMove t && a != 31#5
  | .vbq d a y t => viewOk d && viewOk a && viewOk y && (t == 6#4 || t == 7#4)
  | .vbdq d a y t => viewOk d && viewOk a && viewOk y && tyF t
  | .vred d a t o _ => d != 30#5 && viewOk a && tyRed o t
  | .vscan d a t o _ => viewOk d && viewOk a && tyRed o t
  | .vdot d a y t _ => d != 30#5 && viewOk a && viewOk y && tyFI t
  | .vtopk d a y t k _ => viewOk d && viewOk a && tyFI t && (if k == 1#1 then viewOk y else y == 0#5)
  | .vperm d a y t _ _ => viewOk d && viewOk a && viewOk y && tyFI t
  | .vexp2 _ _ t | .vexp _ _ t | .vlog2 _ _ t | .vln _ _ t | .vrcp _ _ t | .vrsqrt _ _ t | .vsqrt _ _ t
  | .vsin _ _ t | .vcos _ _ t | .vtanh _ _ t | .vsigm _ _ t | .vgelu _ _ t | .vsilu _ _ t | .verf _ _ t => tyF t
  | .zset d a s => viewOk d && viewOk a && decide (s.toNat ≤ 9)
  | .zld d s => viewOk d && viewOk s
  | .zst a s => viewOk a && viewOk s
  | .zinc d a s => viewOk d && viewOk a && decide (s.toNat ≤ 4)
  | .vtag d _ _ => viewOk d
  | .vtagrd a => viewOk a
  -- Lintel (12 R285, R287) and hints (08 R186, R188)
  | .lgraph f => baseOk f 3
  | .lwait d a c => reg3 d a c
  | .hmod r _ p z _ _ y c _ => hmodOk r p z y c
  | .hbr h => h == 1#2 || h == 2#2
  | _ => true

end Sys2Proof
end

