-- ==== Sys2Proof/Decode.lean ====
section
/-!
DEFINITION. Decoding and encoding of the 204 instruction words (02 R24-R40). A word is cut into the fields of its
format (R26), the major and the function field choose the instruction (R38), fields an instruction does not use must
be zero (R27), and `Instr.wellFormed` holds the checks on field values (R32, R33, R37, R39). The encoder writes the
same tables the other way.
-/

namespace Sys2Proof

/-- Why a word is no instruction. Every one of them is ILLEGAL (02 R40); PRIVILEGE comes first where 02 R41 says so. -/
inductive DecodeError where
  /-- fewer than four bytes were given -/
  | short
  /-- the major is 0x17 or 0x30-0x3E (02 R38) -/
  | unassignedMajor
  /-- the function value is not listed for the major (02 R38) -/
  | unlistedFunction
  /-- a field the instruction does not use is not zero (02 R27) -/
  | unusedField
  /-- a field value is not one the instruction accepts (02 R32, R33, R37, R39) -/
  | illFormed
  deriving DecidableEq, Repr

/-! ## The fields of R26 -/

/-- bits 31:26 -/
def major (w : BitVec 32) : BitVec 6 := w.extractLsb' 26 6
/-- bits 25:21: d, zd, f1, s of B -/
def f25 (w : BitVec 32) : BitVec 5 := w.extractLsb' 21 5
/-- bits 20:16: s, c, za, f2, t of B -/
def f20 (w : BitVec 32) : BitVec 5 := w.extractLsb' 16 5
/-- bits 15:11: t, zb, f3 -/
def f15 (w : BitVec 32) : BitVec 5 := w.extractLsb' 11 5
/-- bits 10:0: fn of RRR -/
def fn11 (w : BitVec 32) : BitVec 11 := w.extractLsb' 0 11
/-- bits 15:0: imm and disp of I, VI, B and BP -/
def imm16 (w : BitVec 32) : BitVec 16 := w.extractLsb' 0 16
/-- bits 15:10: pos of BF -/
def pos6 (w : BitVec 32) : BitVec 6 := w.extractLsb' 10 6
/-- bits 9:4: len of BF -/
def len6 (w : BitVec 32) : BitVec 6 := w.extractLsb' 4 6
/-- bits 3:0: fn of BF -/
def fn4 (w : BitVec 32) : BitVec 4 := w.extractLsb' 0 4
/-- bits 25:0: disp of J -/
def disp26 (w : BitVec 32) : BitVec 26 := w.extractLsb' 0 26
/-- bits 25:23: pred of BP -/
def pred3 (w : BitVec 32) : BitVec 3 := w.extractLsb' 23 3
/-- bits 22:21: mode of BP -/
def mode2 (w : BitVec 32) : BitVec 2 := w.extractLsb' 21 2
/-- bits 15:8: L of M -/
def lay8 (w : BitVec 32) : BitVec 8 := w.extractLsb' 8 8
/-- bits 7:0: fn of M -/
def fn8 (w : BitVec 32) : BitVec 8 := w.extractLsb' 0 8
/-- bits 10:7: type of V -/
def ty4 (w : BitVec 32) : BitVec 4 := w.extractLsb' 7 4
/-- bits 6:0: fn of V -/
def fn7 (w : BitVec 32) : BitVec 7 := w.extractLsb' 0 7
/-- bits 10:5: x of G -/
def x6 (w : BitVec 32) : BitVec 6 := w.extractLsb' 5 6
/-- bits 4:0: sub of G -/
def sub5 (w : BitVec 32) : BitVec 5 := w.extractLsb' 0 5
/-- bits 25:22: kind of H -/
def kind4 (w : BitVec 32) : BitVec 4 := w.extractLsb' 22 4
/-- bits 21:0: payload of H -/
def pay22 (w : BitVec 32) : BitVec 22 := w.extractLsb' 0 22

/-! ## The formats of R26, written -/

/-- RRR -/
def mkRRR (m : BitVec 6) (d s t : BitVec 5) (fn : BitVec 11) : BitVec 32 := m ++ d ++ s ++ t ++ fn
/-- I, VI and B: two register fields and 16 bits -/
def mkI (m : BitVec 6) (d s : BitVec 5) (imm : BitVec 16) : BitVec 32 := m ++ d ++ s ++ imm
/-- BF -/
def mkBF (m : BitVec 6) (d s : BitVec 5) (pos len : BitVec 6) (fn : BitVec 4) : BitVec 32 :=
  m ++ d ++ s ++ pos ++ len ++ fn
/-- J -/
def mkJ (m : BitVec 6) (disp : BitVec 26) : BitVec 32 := m ++ disp
/-- BP -/
def mkBP (m : BitVec 6) (p : BitVec 3) (mode : BitVec 2) (zero : BitVec 5) (disp : BitVec 16) : BitVec 32 :=
  m ++ p ++ mode ++ zero ++ disp
/-- M -/
def mkM (m : BitVec 6) (d c : BitVec 5) (lay fn : BitVec 8) : BitVec 32 := m ++ d ++ c ++ lay ++ fn
/-- V -/
def mkV (m : BitVec 6) (zd za zb : BitVec 5) (ty : BitVec 4) (fn : BitVec 7) : BitVec 32 :=
  m ++ zd ++ za ++ zb ++ ty ++ fn
/-- G -/
def mkG (m : BitVec 6) (f1 f2 f3 : BitVec 5) (x : BitVec 6) (sub : BitVec 5) : BitVec 32 :=
  m ++ f1 ++ f2 ++ f3 ++ x ++ sub
/-- H -/
def mkH (m : BitVec 6) (kind : BitVec 4) (payload : BitVec 22) : BitVec 32 := m ++ kind ++ payload

/-- R27: an instruction whose unused fields are zero, else the error. -/
def unusedZero (ok : Bool) (i : Instr) : Except DecodeError Instr :=
  if ok then .ok i else .error .unusedField

/-! ## Decoding by the opcode map -/

/-- Major 0x00 by its function field (02 R38, R39). -/
def decodeSys (w : BitVec 32) : Except DecodeError Instr :=
  match sub5 w with
  | 0#5 => unusedZero ((f25 w) == 0#5 && (f20 w) == 0#5 && (f15 w) == 0#5 && (x6 w) == 0#6) (.nop)
  | 1#5 => unusedZero ((f25 w) == 0#5 && (f20 w) == 0#5 && (f15 w) == 0#5) (.trap (x6 w))
  | 2#5 => unusedZero ((f25 w) == 0#5 && (f20 w) == 0#5 && (f15 w) == 0#5 && (x6 w) == 0#6) (.eret)
  | 3#5 => unusedZero ((f20 w) == 0#5 && (f15 w) == 0#5) (.mfs (f25 w) (x6 w))
  | 4#5 => unusedZero ((f25 w) == 0#5 && (f15 w) == 0#5) (.mts (f20 w) (x6 w))
  | 5#5 => unusedZero ((f25 w) == 0#5 && (f20 w) == 0#5 && (f15 w) == 0#5) (.park (x6 w))
  | 6#5 => unusedZero ((f25 w) == 0#5 && (f20 w) == 0#5 && (f15 w) == 0#5 && (x6 w) == 0#6) (.ctxsave)
  | 7#5 => unusedZero ((f25 w) == 0#5 && (f20 w) == 0#5 && (f15 w) == 0#5 && (x6 w) == 0#6) (.ctxrest)
  | 8#5 => unusedZero ((f20 w) == 0#5 && (f15 w) == 0#5 && (x6 w) == 0#6) (.rdcyc (f25 w))
  | 9#5 => unusedZero ((f20 w) == 0#5 && (f15 w) == 0#5 && (x6 w) == 0#6) (.rdtime (f25 w))
  | _ => .error .unlistedFunction

/-- Major 0x01 by its function field (02 R38, R39). -/
def decodeAlu (w : BitVec 32) : Except DecodeError Instr :=
  match fn11 w with
  | 0#11 => .ok (.add (f25 w) (f20 w) (f15 w))
  | 1#11 => .ok (.sub (f25 w) (f20 w) (f15 w))
  | 2#11 => .ok (.and (f25 w) (f20 w) (f15 w))
  | 3#11 => .ok (.or (f25 w) (f20 w) (f15 w))
  | 4#11 => .ok (.xor (f25 w) (f20 w) (f15 w))
  | 5#11 => .ok (.andn (f25 w) (f20 w) (f15 w))
  | 6#11 => .ok (.orn (f25 w) (f20 w) (f15 w))
  | 7#11 => .ok (.sll (f25 w) (f20 w) (f15 w))
  | 8#11 => .ok (.srl (f25 w) (f20 w) (f15 w))
  | 9#11 => .ok (.sra (f25 w) (f20 w) (f15 w))
  | 10#11 => .ok (.rol (f25 w) (f20 w) (f15 w))
  | 11#11 => .ok (.ror (f25 w) (f20 w) (f15 w))
  | 12#11 => .ok (.mul (f25 w) (f20 w) (f15 w))
  | 13#11 => .ok (.mulh (f25 w) (f20 w) (f15 w))
  | 14#11 => .ok (.mulhn (f25 w) (f20 w) (f15 w))
  | 15#11 => .ok (.div (f25 w) (f20 w) (f15 w))
  | 16#11 => .ok (.divn (f25 w) (f20 w) (f15 w))
  | 17#11 => .ok (.rem (f25 w) (f20 w) (f15 w))
  | 18#11 => .ok (.remn (f25 w) (f20 w) (f15 w))
  | 19#11 => .ok (.min (f25 w) (f20 w) (f15 w))
  | 20#11 => .ok (.max (f25 w) (f20 w) (f15 w))
  | 21#11 => .ok (.minn (f25 w) (f20 w) (f15 w))
  | 22#11 => .ok (.maxn (f25 w) (f20 w) (f15 w))
  | 23#11 => .ok (.slt (f25 w) (f20 w) (f15 w))
  | 24#11 => .ok (.sltn (f25 w) (f20 w) (f15 w))
  | 25#11 => .ok (.seq (f25 w) (f20 w) (f15 w))
  | 26#11 => .ok (.sne (f25 w) (f20 w) (f15 w))
  | 27#11 => unusedZero ((f15 w) == 0#5) (.clz (f25 w) (f20 w))
  | 28#11 => unusedZero ((f15 w) == 0#5) (.ctz (f25 w) (f20 w))
  | 29#11 => unusedZero ((f15 w) == 0#5) (.popc (f25 w) (f20 w))
  | 30#11 => unusedZero ((f15 w) == 0#5) (.bswap (f25 w) (f20 w))
  | 31#11 => .ok (.hmix (f25 w) (f20 w) (f15 w))
  | 32#11 => .ok (.crc32c (f25 w) (f20 w) (f15 w))
  | _ => .error .unlistedFunction

/-- Major 0x02 by its function field (02 R38, R39). -/
def decodeBitf (w : BitVec 32) : Except DecodeError Instr :=
  match fn4 w with
  | 0#4 => .ok (.bfx (f25 w) (f20 w) (pos6 w) (len6 w))
  | 1#4 => .ok (.bfxs (f25 w) (f20 w) (pos6 w) (len6 w))
  | 2#4 => .ok (.bfi (f25 w) (f20 w) (pos6 w) (len6 w))
  | 3#4 => unusedZero (((pos6 w).extractLsb' 0 1) == 0#1 && (len6 w) == 0#6) (.bfxv (f25 w) (f20 w) ((pos6 w).extractLsb' 1 5))
  | 4#4 => unusedZero (((pos6 w).extractLsb' 0 1) == 0#1 && (len6 w) == 0#6) (.bfiv (f25 w) (f20 w) ((pos6 w).extractLsb' 1 5))
  | _ => .error .unlistedFunction

/-- Major 0x0B by its function field (02 R38, R39). -/
def decodeShi (w : BitVec 32) : Except DecodeError Instr :=
  match (imm16 w).extractLsb' 14 2 with
  | 0#2 => unusedZero (((imm16 w).extractLsb' 6 8) == 0#8) (.slli (f25 w) (f20 w) ((imm16 w).extractLsb' 0 6))
  | 1#2 => unusedZero (((imm16 w).extractLsb' 6 8) == 0#8) (.srli (f25 w) (f20 w) ((imm16 w).extractLsb' 0 6))
  | 2#2 => unusedZero (((imm16 w).extractLsb' 6 8) == 0#8) (.srai (f25 w) (f20 w) ((imm16 w).extractLsb' 0 6))
  | 3#2 => unusedZero (((imm16 w).extractLsb' 6 8) == 0#8) (.roli (f25 w) (f20 w) ((imm16 w).extractLsb' 0 6))

/-- Major 0x14 by its function field (02 R38, R39). -/
def decodeJmpr (w : BitVec 32) : Except DecodeError Instr :=
  match fn11 w with
  | 0#11 => unusedZero ((f25 w) == 0#5 && (f15 w) == 0#5) (.jr (f20 w))
  | 1#11 => unusedZero ((f15 w) == 0#5) (.jalr (f25 w) (f20 w))
  | _ => .error .unlistedFunction

/-- Major 0x18 by its function field (02 R38, R39). -/
def decodeLd (w : BitVec 32) : Except DecodeError Instr :=
  unusedZero (((fn8 w).extractLsb' 1 3) == 0#3) (.ld (f25 w) (f20 w) (lay8 w) ((fn8 w).extractLsb' 4 4) ((fn8 w).extractLsb' 0 1))

/-- Major 0x19 by its function field (02 R38, R39). -/
def decodeSt (w : BitVec 32) : Except DecodeError Instr :=
  unusedZero (((fn8 w).extractLsb' 2 2) == 0#2 && ((fn8 w).extractLsb' 0 1) == 0#1) (.st (f25 w) (f20 w) (lay8 w) ((fn8 w).extractLsb' 4 4) ((fn8 w).extractLsb' 1 1))

/-- Major 0x1A by its function field (02 R38, R39). -/
def decodeLdro (w : BitVec 32) : Except DecodeError Instr :=
  unusedZero (((fn8 w).extractLsb' 0 4) == 0#4) (.ldro (f25 w) (f20 w) (lay8 w) ((fn8 w).extractLsb' 4 4))

/-- Major 0x1B by its function field (02 R38, R39). -/
def decodeQmem (w : BitVec 32) : Except DecodeError Instr :=
  match fn8 w with
  | 0#8 => unusedZero ((f25 w) == 0#5 && (lay8 w) == 0#8) (.ldq (f20 w))
  | 1#8 => unusedZero ((f25 w) == 0#5 && (lay8 w) == 0#8) (.stq (f20 w))
  | _ => .error .unlistedFunction

/-- Major 0x1C by its function field (02 R38, R39). -/
def decodeLay (w : BitVec 32) : Except DecodeError Instr :=
  match sub5 w with
  | 0#5 => unusedZero ((f15 w) == 0#5 && (x6 w) == 0#6) (.layset (f25 w) (f20 w))
  | 1#5 => unusedZero ((f15 w) == 0#5 && (x6 w) == 0#6) (.layget (f25 w) (f20 w))
  | 2#5 => unusedZero ((f15 w) == 0#5 && (x6 w) == 0#6) (.laysub (f25 w) (f20 w))
  | 3#5 => unusedZero ((f25 w) == 0#5 && (f15 w) == 0#5 && ((x6 w).extractLsb' 1 5) == 0#5) (.pref (f20 w) ((x6 w).extractLsb' 0 1))
  | _ => .error .unlistedFunction

/-- Major 0x1D by its function field (02 R38, R39). -/
def decodeAtom (w : BitVec 32) : Except DecodeError Instr :=
  match (fn8 w).extractLsb' 4 4 with
  | 0#4 => unusedZero (((fn8 w).extractLsb' 2 2) == 0#2) (.aadd (f25 w) (f20 w) (lay8 w) ((fn8 w).extractLsb' 1 1) ((fn8 w).extractLsb' 0 1))
  | 1#4 => unusedZero (((fn8 w).extractLsb' 2 2) == 0#2) (.aand (f25 w) (f20 w) (lay8 w) ((fn8 w).extractLsb' 1 1) ((fn8 w).extractLsb' 0 1))
  | 2#4 => unusedZero (((fn8 w).extractLsb' 2 2) == 0#2) (.aor (f25 w) (f20 w) (lay8 w) ((fn8 w).extractLsb' 1 1) ((fn8 w).extractLsb' 0 1))
  | 3#4 => unusedZero (((fn8 w).extractLsb' 2 2) == 0#2) (.axor (f25 w) (f20 w) (lay8 w) ((fn8 w).extractLsb' 1 1) ((fn8 w).extractLsb' 0 1))
  | 4#4 => unusedZero (((fn8 w).extractLsb' 2 2) == 0#2) (.amin (f25 w) (f20 w) (lay8 w) ((fn8 w).extractLsb' 1 1) ((fn8 w).extractLsb' 0 1))
  | 5#4 => unusedZero (((fn8 w).extractLsb' 2 2) == 0#2) (.amax (f25 w) (f20 w) (lay8 w) ((fn8 w).extractLsb' 1 1) ((fn8 w).extractLsb' 0 1))
  | 6#4 => unusedZero (((fn8 w).extractLsb' 2 2) == 0#2) (.aminn (f25 w) (f20 w) (lay8 w) ((fn8 w).extractLsb' 1 1) ((fn8 w).extractLsb' 0 1))
  | 7#4 => unusedZero (((fn8 w).extractLsb' 2 2) == 0#2) (.amaxn (f25 w) (f20 w) (lay8 w) ((fn8 w).extractLsb' 1 1) ((fn8 w).extractLsb' 0 1))
  | 8#4 => unusedZero (((fn8 w).extractLsb' 2 2) == 0#2) (.aswap (f25 w) (f20 w) (lay8 w) ((fn8 w).extractLsb' 1 1) ((fn8 w).extractLsb' 0 1))
  | 9#4 => unusedZero (((fn8 w).extractLsb' 2 2) == 0#2) (.acas (f25 w) (f20 w) (lay8 w) ((fn8 w).extractLsb' 1 1) ((fn8 w).extractLsb' 0 1))
  | 10#4 => unusedZero (((fn8 w).extractLsb' 2 2) == 0#2) (.afadd (f25 w) (f20 w) (lay8 w) ((fn8 w).extractLsb' 1 1) ((fn8 w).extractLsb' 0 1))
  | 11#4 => unusedZero (((fn8 w).extractLsb' 1 3) == 0#3) (.waita (f25 w) (f20 w) (lay8 w) ((fn8 w).extractLsb' 0 1))
  | _ => .error .unlistedFunction

/-- Major 0x1E by its function field (02 R38, R39). -/
def decodeFence (w : BitVec 32) : Except DecodeError Instr :=
  match sub5 w with
  | 0#5 => unusedZero ((f25 w) == 0#5 && (f20 w) == 0#5 && (f15 w) == 0#5 && ((x6 w).extractLsb' 5 1) == 0#1) (.fence ((x6 w).extractLsb' 3 2) ((x6 w).extractLsb' 0 3))
  | 1#5 => unusedZero ((f20 w) == 0#5 && (f15 w) == 0#5 && (x6 w) == 0#6) (.qfence (f25 w))
  | 2#5 => unusedZero ((f25 w) == 0#5 && (f20 w) == 0#5 && (f15 w) == 0#5 && (x6 w) == 0#6) (.rosync)
  | _ => .error .unlistedFunction

/-- Major 0x1F by its function field (02 R38, R39). -/
def decodeMsg (w : BitVec 32) : Except DecodeError Instr :=
  match sub5 w with
  | 0#5 => unusedZero ((f15 w) == 0#5 && (x6 w) == 0#6) (.chnew (f25 w) (f20 w))
  | 1#5 => unusedZero ((f15 w) == 0#5) (.send (f25 w) (f20 w) (x6 w))
  | 2#5 => .ok (.sende (f25 w) (f20 w) (f15 w) (x6 w))
  | 3#5 => unusedZero ((f25 w) == 0#5 && (f20 w) == 0#5 && (f15 w) == 0#5) (.eclose (x6 w))
  | 4#5 => unusedZero ((f15 w) == 0#5) (.einfo (f25 w) (f20 w) (x6 w))
  | 5#5 => unusedZero ((f20 w) == 0#5 && (f15 w) == 0#5) (.ebind (f25 w) (x6 w))
  | 6#5 => unusedZero ((f20 w) == 0#5 && (f15 w) == 0#5) (.emask (f25 w) (x6 w))
  | 7#5 => .ok (.spawn (f25 w) (f20 w) (f15 w) (x6 w))
  | 8#5 => unusedZero ((f25 w) == 0#5 && (f20 w) == 0#5 && (f15 w) == 0#5 && ((x6 w).extractLsb' 1 5) == 0#5) (.hend ((x6 w).extractLsb' 0 1))
  | 9#5 => unusedZero ((f25 w) == 0#5 && (f20 w) == 0#5 && (f15 w) == 0#5 && (x6 w) == 0#6) (.hseal)
  | 10#5 => unusedZero ((f20 w) == 0#5 && (f15 w) == 0#5) (.rateset (f25 w) (x6 w))
  | 11#5 => unusedZero ((f20 w) == 0#5 && (f15 w) == 0#5) (.rateget (f25 w) (x6 w))
  | _ => .error .unlistedFunction

/-- Major 0x20 by its function field (02 R38, R39). -/
def decodeGrp (w : BitVec 32) : Except DecodeError Instr :=
  match sub5 w with
  | 0#5 => unusedZero ((f20 w) == 0#5 && (f15 w) == 0#5) (.gname (f25 w) (x6 w))
  | 1#5 => unusedZero ((x6 w) == 0#6) (.gstv (f25 w) (f20 w) (f15 w))
  | 2#5 => unusedZero ((f15 w) == 0#5 && (x6 w) == 0#6) (.ghold (f25 w) (f20 w))
  | 3#5 => unusedZero ((f15 w) == 0#5 && (x6 w) == 0#6) (.gwait (f25 w) (f20 w))
  | _ => .error .unlistedFunction

/-- Major 0x21 by its function field (02 R38, R39). -/
def decodeBar (w : BitVec 32) : Except DecodeError Instr :=
  match sub5 w with
  | 0#5 => unusedZero ((f15 w) == 0#5 && (x6 w) == 0#6) (.barinit (f25 w) (f20 w))
  | 1#5 => unusedZero ((x6 w) == 0#6) (.bararr (f25 w) (f20 w) (f15 w))
  | 2#5 => unusedZero ((f15 w) == 0#5 && (x6 w) == 0#6) (.barwait (f25 w) (f20 w))
  | 3#5 => unusedZero ((x6 w) == 0#6) (.bartest (f25 w) (f20 w) (f15 w))
  | _ => .error .unlistedFunction

/-- Major 0x22 by its function field (02 R38, R39). -/
def decodeTag (w : BitVec 32) : Except DecodeError Instr :=
  match sub5 w with
  | 0#5 => unusedZero ((f15 w) == 0#5 && (x6 w) == 0#6) (.waitany (f25 w) (f20 w))
  | 1#5 => unusedZero ((f15 w) == 0#5 && (x6 w) == 0#6) (.waitall (f25 w) (f20 w))
  | 2#5 => unusedZero ((f15 w) == 0#5 && (x6 w) == 0#6) (.ffr (f25 w) (f20 w))
  | 3#5 => unusedZero ((f25 w) == 0#5 && (f15 w) == 0#5 && (x6 w) == 0#6) (.tagclr (f20 w))
  | _ => .error .unlistedFunction

/-- Major 0x23 by its function field (02 R38, R39). -/
def decodeCopy (w : BitVec 32) : Except DecodeError Instr :=
  match sub5 w with
  | 0#5 => unusedZero ((f15 w) == 0#5) (.cpy (f25 w) (f20 w) (x6 w))
  | 1#5 => unusedZero ((f15 w) == 0#5) (.cpyred (f25 w) (f20 w) (x6 w))
  | 2#5 => .ok (.gath (f25 w) (f20 w) (f15 w) (x6 w))
  | 3#5 => .ok (.scat (f25 w) (f20 w) (f15 w) (x6 w))
  | 4#5 => .ok (.halo (f25 w) (f20 w) (f15 w) (x6 w))
  | 5#5 => unusedZero ((f15 w) == 0#5) (.strm (f25 w) (f20 w) (x6 w))
  | 6#5 => .ok (.fillw (f25 w) (f20 w) (f15 w) (x6 w))
  | 7#5 => unusedZero ((f25 w) == 0#5 && (f20 w) == 0#5 && (f15 w) == 0#5) (.cpycan (x6 w))
  | _ => .error .unlistedFunction

/-- Major 0x24 by its function field (02 R38, R39). -/
def decodeMat (w : BitVec 32) : Except DecodeError Instr :=
  match sub5 w with
  | 0#5 => .ok (.mma (f25 w) (f20 w) (f15 w) (x6 w))
  | 1#5 => .ok (.mmas (f25 w) (f20 w) (f15 w) (x6 w))
  | 2#5 => .ok (.mrot (f25 w) (f20 w) (f15 w) (x6 w))
  | 3#5 => unusedZero ((f20 w) == 0#5 && (f15 w) == 0#5) (.mzero (f25 w) (x6 w))
  | 4#5 => unusedZero ((f15 w) == 0#5) (.mrd (f25 w) (f20 w) (x6 w))
  | 5#5 => unusedZero ((f20 w) == 0#5 && (f15 w) == 0#5 && (x6 w) == 0#6) (.mwait (f25 w))
  | 6#5 => unusedZero ((f15 w) == 0#5 && (x6 w) == 0#6) (.mpoll (f25 w) (f20 w))
  | 7#5 => unusedZero ((f25 w) == 0#5 && (f20 w) == 0#5 && (f15 w) == 0#5) (.mcan (x6 w))
  | _ => .error .unlistedFunction

/-- Major 0x25 by its function field (02 R38, R39). -/
def decodeVarith (w : BitVec 32) : Except DecodeError Instr :=
  match fn7 w with
  | 0#7 => .ok (.vadd (f25 w) (f20 w) (f15 w) (ty4 w))
  | 1#7 => .ok (.vsub (f25 w) (f20 w) (f15 w) (ty4 w))
  | 2#7 => .ok (.vmul (f25 w) (f20 w) (f15 w) (ty4 w))
  | 3#7 => .ok (.vfma (f25 w) (f20 w) (f15 w) (ty4 w))
  | 4#7 => .ok (.vfms (f25 w) (f20 w) (f15 w) (ty4 w))
  | 5#7 => .ok (.vnfma (f25 w) (f20 w) (f15 w) (ty4 w))
  | 6#7 => .ok (.vdiv (f25 w) (f20 w) (f15 w) (ty4 w))
  | 7#7 => .ok (.vmin (f25 w) (f20 w) (f15 w) (ty4 w))
  | 8#7 => .ok (.vmax (f25 w) (f20 w) (f15 w) (ty4 w))
  | 9#7 => unusedZero ((f15 w) == 0#5) (.vabs (f25 w) (f20 w) (ty4 w))
  | 10#7 => unusedZero ((f15 w) == 0#5) (.vneg (f25 w) (f20 w) (ty4 w))
  | 11#7 => .ok (.vand (f25 w) (f20 w) (f15 w) (ty4 w))
  | 12#7 => .ok (.vor (f25 w) (f20 w) (f15 w) (ty4 w))
  | 13#7 => .ok (.vxor (f25 w) (f20 w) (f15 w) (ty4 w))
  | 14#7 => unusedZero ((f15 w) == 0#5) (.vnot (f25 w) (f20 w) (ty4 w))
  | 15#7 => .ok (.vshl (f25 w) (f20 w) (f15 w) (ty4 w))
  | 16#7 => .ok (.vshr (f25 w) (f20 w) (f15 w) (ty4 w))
  | 17#7 => .ok (.vshra (f25 w) (f20 w) (f15 w) (ty4 w))
  | 18#7 => .ok (.vclamp (f25 w) (f20 w) (f15 w) (ty4 w))
  | 19#7 => unusedZero ((f15 w) == 0#5) (.vmov (f25 w) (f20 w) (ty4 w))
  | 20#7 => unusedZero ((f15 w) == 0#5) (.vbcast (f25 w) (f20 w) (ty4 w))
  | 21#7 => unusedZero ((f20 w) == 0#5 && (f15 w) == 0#5) (.viota (f25 w) (ty4 w))
  | _ => .error .unlistedFunction

/-- Major 0x26 by its function field (02 R38, R39). -/
def decodeVcmp (w : BitVec 32) : Except DecodeError Instr :=
  match (fn7 w).extractLsb' 3 4 with
  | 0#4 | 1#4 | 2#4 | 3#4 | 4#4 | 5#4 | 6#4 | 7#4 => unusedZero ((f25 w) == 0#5) (.vcmp (f20 w) (f15 w) (ty4 w) ((fn7 w).extractLsb' 3 3) ((fn7 w).extractLsb' 0 3))
  | 8#4 => .ok (.vsel (f25 w) (f20 w) (f15 w) (ty4 w) ((fn7 w).extractLsb' 0 3))
  | 9#4 => unusedZero ((f25 w) == 0#5 && ((f20 w).extractLsb' 3 2) == 0#2 && ((f15 w).extractLsb' 3 2) == 0#2 && (ty4 w) == 0#4) (.pand ((f20 w).extractLsb' 0 3) ((f15 w).extractLsb' 0 3) ((fn7 w).extractLsb' 0 3))
  | 10#4 => unusedZero ((f25 w) == 0#5 && ((f20 w).extractLsb' 3 2) == 0#2 && ((f15 w).extractLsb' 3 2) == 0#2 && (ty4 w) == 0#4) (.por ((f20 w).extractLsb' 0 3) ((f15 w).extractLsb' 0 3) ((fn7 w).extractLsb' 0 3))
  | 11#4 => unusedZero ((f25 w) == 0#5 && ((f20 w).extractLsb' 3 2) == 0#2 && ((f15 w).extractLsb' 3 2) == 0#2 && (ty4 w) == 0#4) (.pxor ((f20 w).extractLsb' 0 3) ((f15 w).extractLsb' 0 3) ((fn7 w).extractLsb' 0 3))
  | 12#4 => unusedZero ((f25 w) == 0#5 && ((f20 w).extractLsb' 3 2) == 0#2 && (f15 w) == 0#5 && (ty4 w) == 0#4) (.pnot ((f20 w).extractLsb' 0 3) ((fn7 w).extractLsb' 0 3))
  | 13#4 => unusedZero ((f25 w) == 31#5 && (f20 w) == 0#5 && (f15 w) == 0#5 && (ty4 w) == 0#4) (.pcnt ((fn7 w).extractLsb' 0 3))
  | 14#4 => unusedZero ((f25 w) == 0#5 && (f20 w) == 31#5 && ((f15 w).extractLsb' 1 4) == 0#4 && (ty4 w) == 0#4) (.pset ((f15 w).extractLsb' 0 1) ((fn7 w).extractLsb' 0 3))
  | _ => .error .unlistedFunction

/-- Major 0x27 by its function field (02 R38, R39). -/
def decodeVconv (w : BitVec 32) : Except DecodeError Instr :=
  match fn7 w with
  | 0#7 => unusedZero ((f15 w) == 0#5) (.vcvt (f25 w) (f20 w) (ty4 w))
  | 1#7 => .ok (.vbq (f25 w) (f20 w) (f15 w) (ty4 w))
  | 2#7 => .ok (.vbdq (f25 w) (f20 w) (f15 w) (ty4 w))
  | _ => .error .unlistedFunction

/-- Major 0x28 by its function field (02 R38, R39). -/
def decodeVred (w : BitVec 32) : Except DecodeError Instr :=
  match (fn7 w).extractLsb' 4 3 with
  | 0#3 => unusedZero ((f15 w) == 0#5) (.vred (f25 w) (f20 w) (ty4 w) ((fn7 w).extractLsb' 2 2) ((fn7 w).extractLsb' 0 2))
  | 1#3 => unusedZero ((f15 w) == 0#5) (.vscan (f25 w) (f20 w) (ty4 w) ((fn7 w).extractLsb' 2 2) ((fn7 w).extractLsb' 0 2))
  | 2#3 => unusedZero (((fn7 w).extractLsb' 2 2) == 0#2) (.vdot (f25 w) (f20 w) (f15 w) (ty4 w) ((fn7 w).extractLsb' 0 2))
  | 3#3 => unusedZero (((fn7 w).extractLsb' 2 2) == 0#2) (.vtopk (f25 w) (f20 w) (f15 w) (ty4 w) ((fn7 w).extractLsb' 1 1) ((fn7 w).extractLsb' 0 1))
  | 4#3 => unusedZero (((fn7 w).extractLsb' 2 2) == 0#2) (.vperm (f25 w) (f20 w) (f15 w) (ty4 w) ((fn7 w).extractLsb' 1 1) ((fn7 w).extractLsb' 0 1))
  | _ => .error .unlistedFunction

/-- Major 0x29 by its function field (02 R38, R39). -/
def decodeVsfu (w : BitVec 32) : Except DecodeError Instr :=
  match fn7 w with
  | 0#7 => unusedZero ((f15 w) == 0#5) (.vexp2 (f25 w) (f20 w) (ty4 w))
  | 1#7 => unusedZero ((f15 w) == 0#5) (.vexp (f25 w) (f20 w) (ty4 w))
  | 2#7 => unusedZero ((f15 w) == 0#5) (.vlog2 (f25 w) (f20 w) (ty4 w))
  | 3#7 => unusedZero ((f15 w) == 0#5) (.vln (f25 w) (f20 w) (ty4 w))
  | 4#7 => unusedZero ((f15 w) == 0#5) (.vrcp (f25 w) (f20 w) (ty4 w))
  | 5#7 => unusedZero ((f15 w) == 0#5) (.vrsqrt (f25 w) (f20 w) (ty4 w))
  | 6#7 => unusedZero ((f15 w) == 0#5) (.vsqrt (f25 w) (f20 w) (ty4 w))
  | 7#7 => unusedZero ((f15 w) == 0#5) (.vsin (f25 w) (f20 w) (ty4 w))
  | 8#7 => unusedZero ((f15 w) == 0#5) (.vcos (f25 w) (f20 w) (ty4 w))
  | 9#7 => unusedZero ((f15 w) == 0#5) (.vtanh (f25 w) (f20 w) (ty4 w))
  | 10#7 => unusedZero ((f15 w) == 0#5) (.vsigm (f25 w) (f20 w) (ty4 w))
  | 11#7 => unusedZero ((f15 w) == 0#5) (.vgelu (f25 w) (f20 w) (ty4 w))
  | 12#7 => unusedZero ((f15 w) == 0#5) (.vsilu (f25 w) (f20 w) (ty4 w))
  | 13#7 => unusedZero ((f15 w) == 0#5) (.verf (f25 w) (f20 w) (ty4 w))
  | _ => .error .unlistedFunction

/-- Major 0x2E by its function field (02 R38, R39). -/
def decodeVview (w : BitVec 32) : Except DecodeError Instr :=
  match fn7 w with
  | 0#7 => unusedZero ((ty4 w) == 0#4) (.zset (f25 w) (f20 w) (f15 w))
  | 1#7 => unusedZero ((f20 w) == 0#5 && (ty4 w) == 0#4) (.zld (f25 w) (f15 w))
  | 2#7 => unusedZero ((f25 w) == 0#5 && (ty4 w) == 0#4) (.zst (f20 w) (f15 w))
  | 3#7 => unusedZero ((ty4 w) == 0#4) (.zinc (f25 w) (f20 w) (f15 w))
  | 4#7 => unusedZero ((f20 w) == 0#5 && ((f15 w).extractLsb' 1 4) == 0#4) (.vtag (f25 w) ((f15 w).extractLsb' 0 1) (ty4 w))
  | 5#7 => unusedZero ((f25 w) == 31#5 && (f15 w) == 0#5 && (ty4 w) == 0#4) (.vtagrd (f20 w))
  | _ => .error .unlistedFunction

/-- Major 0x2F by its function field (02 R38, R39). -/
def decodeLnt (w : BitVec 32) : Except DecodeError Instr :=
  match sub5 w with
  | 0#5 => unusedZero ((f20 w) == 0#5 && (f15 w) == 0#5 && (x6 w) == 0#6) (.lgraph (f25 w))
  | 1#5 => unusedZero ((x6 w) == 0#6) (.lwait (f25 w) (f20 w) (f15 w))
  | _ => .error .unlistedFunction

/-- Major 0x3F by its function field (02 R38, R39). -/
def decodeHint (w : BitVec 32) : Except DecodeError Instr :=
  match kind4 w with
  | 0#4 => unusedZero (((pay22 w).extractLsb' 8 14) == 0#14) (.hstall ((pay22 w).extractLsb' 0 8))
  | 1#4 => .ok (.himm (pay22 w))
  | 2#4 => unusedZero (((pay22 w).extractLsb' 0 2) == 0#2) (.hmod ((pay22 w).extractLsb' 19 3) ((pay22 w).extractLsb' 18 1) ((pay22 w).extractLsb' 15 3) ((pay22 w).extractLsb' 14 1) ((pay22 w).extractLsb' 13 1) ((pay22 w).extractLsb' 12 1) ((pay22 w).extractLsb' 7 5) ((pay22 w).extractLsb' 5 2) ((pay22 w).extractLsb' 2 3))
  | 3#4 => unusedZero (((pay22 w).extractLsb' 2 20) == 0#20) (.hbr ((pay22 w).extractLsb' 0 2))
  | _ => .error .unlistedFunction

/-- The fields of a word, read by its major opcode (02 R25, R38), before the checks of `Instr.wellFormed`. -/
def decodeFields (w : BitVec 32) : Except DecodeError Instr :=
  match major w with
  | 0x00#6 => decodeSys w
  | 0x01#6 => decodeAlu w
  | 0x02#6 => decodeBitf w
  | 0x03#6 => .ok (.addi (f25 w) (f20 w) (imm16 w))
  | 0x04#6 => .ok (.andi (f25 w) (f20 w) (imm16 w))
  | 0x05#6 => .ok (.ori (f25 w) (f20 w) (imm16 w))
  | 0x06#6 => .ok (.xori (f25 w) (f20 w) (imm16 w))
  | 0x07#6 => .ok (.slti (f25 w) (f20 w) (imm16 w))
  | 0x08#6 => .ok (.sltni (f25 w) (f20 w) (imm16 w))
  | 0x09#6 => .ok (.muli (f25 w) (f20 w) (imm16 w))
  | 0x0A#6 => unusedZero ((f20 w) == 0#5) (.lui (f25 w) (imm16 w))
  | 0x0B#6 => decodeShi w
  | 0x0C#6 => .ok (.beq (f25 w) (f20 w) (imm16 w))
  | 0x0D#6 => .ok (.bne (f25 w) (f20 w) (imm16 w))
  | 0x0E#6 => .ok (.blt (f25 w) (f20 w) (imm16 w))
  | 0x0F#6 => .ok (.bge (f25 w) (f20 w) (imm16 w))
  | 0x10#6 => .ok (.bltn (f25 w) (f20 w) (imm16 w))
  | 0x11#6 => .ok (.bgen (f25 w) (f20 w) (imm16 w))
  | 0x12#6 => .ok (.b (disp26 w))
  | 0x13#6 => .ok (.bal (disp26 w))
  | 0x14#6 => decodeJmpr w
  | 0x15#6 => unusedZero ((f20 w) == 0#5) (.bp (pred3 w) (mode2 w) (imm16 w))
  | 0x16#6 => unusedZero ((f20 w) == 0#5) (.dbnz (f25 w) (imm16 w))
  | 0x18#6 => decodeLd w
  | 0x19#6 => decodeSt w
  | 0x1A#6 => decodeLdro w
  | 0x1B#6 => decodeQmem w
  | 0x1C#6 => decodeLay w
  | 0x1D#6 => decodeAtom w
  | 0x1E#6 => decodeFence w
  | 0x1F#6 => decodeMsg w
  | 0x20#6 => decodeGrp w
  | 0x21#6 => decodeBar w
  | 0x22#6 => decodeTag w
  | 0x23#6 => decodeCopy w
  | 0x24#6 => decodeMat w
  | 0x25#6 => decodeVarith w
  | 0x26#6 => decodeVcmp w
  | 0x27#6 => decodeVconv w
  | 0x28#6 => decodeVred w
  | 0x29#6 => decodeVsfu w
  | 0x2A#6 => .ok (.vaddi (f25 w) (f20 w) (imm16 w))
  | 0x2B#6 => .ok (.vmuli (f25 w) (f20 w) (imm16 w))
  | 0x2C#6 => .ok (.vmaxi (f25 w) (f20 w) (imm16 w))
  | 0x2D#6 => unusedZero ((f20 w) == 0#5) (.vseti (f25 w) (imm16 w))
  | 0x2E#6 => decodeVview w
  | 0x2F#6 => decodeLnt w
  | 0x3F#6 => decodeHint w
  | _ => .error .unassignedMajor

/-- A word as the instruction it encodes, or why it encodes none. Total on all 2^32 words. -/
def decode (w : BitVec 32) : Except DecodeError Instr :=
  match decodeFields w with
  | .ok i => if i.wellFormed then .ok i else .error .illFormed
  | .error e => .error e

/-- R24: a word is stored little-endian, its lowest-addressed byte in bits 7:0. -/
def wordOfBytes (b0 b1 b2 b3 : Byte) : BitVec 32 := b3 ++ b2 ++ b1 ++ b0

/-- The bytes of a word from the lowest address up (R24). -/
def bytesOfWord (w : BitVec 32) : List Byte :=
  [w.extractLsb' 0 8, w.extractLsb' 8 8, w.extractLsb' 16 8, w.extractLsb' 24 8]

/-- Decoding of a stream of bytes: the first instruction and the bytes after it. -/
def decodeBytes : List Byte → Except DecodeError (Instr × List Byte)
  | b0 :: b1 :: b2 :: b3 :: rest =>
    match decode (wordOfBytes b0 b1 b2 b3) with
    | .ok i => .ok (i, rest)
    | .error e => .error e
  | _ => .error .short

/-- The host's reading of an opcode-table row: the instruction of the `nbits`-bit word `w`. -/
def decodeTableWord (nbits w : Nat) : Option Instr :=
  if nbits ≤ 32 then
    match decodeBytes (bytesOfWord (BitVec.ofNat 32 (w % 2 ^ nbits))) with
    | .ok (i, _) => some i
    | .error _ => none
  else none

/-! ## The encoder -/

/-- The word of an instruction by the encodings of R26 and R38. The steps without an encoding have none and give 0;
`illegalWord` gives the word it stands for. -/
def encode : Instr → BitVec 32

  | .nop => mkG 0x00#6 0#5 0#5 0#5 0#6 0#5
  | .trap c => mkG 0x00#6 0#5 0#5 0#5 c 1#5
  | .eret => mkG 0x00#6 0#5 0#5 0#5 0#6 2#5
  | .mfs d x => mkG 0x00#6 d 0#5 0#5 x 3#5
  | .mts s x => mkG 0x00#6 0#5 s 0#5 x 4#5
  | .park x => mkG 0x00#6 0#5 0#5 0#5 x 5#5
  | .ctxsave => mkG 0x00#6 0#5 0#5 0#5 0#6 6#5
  | .ctxrest => mkG 0x00#6 0#5 0#5 0#5 0#6 7#5
  | .rdcyc d => mkG 0x00#6 d 0#5 0#5 0#6 8#5
  | .rdtime d => mkG 0x00#6 d 0#5 0#5 0#6 9#5
  | .add d s t => mkRRR 0x01#6 d s t 0#11
  | .sub d s t => mkRRR 0x01#6 d s t 1#11
  | .and d s t => mkRRR 0x01#6 d s t 2#11
  | .or d s t => mkRRR 0x01#6 d s t 3#11
  | .xor d s t => mkRRR 0x01#6 d s t 4#11
  | .andn d s t => mkRRR 0x01#6 d s t 5#11
  | .orn d s t => mkRRR 0x01#6 d s t 6#11
  | .sll d s t => mkRRR 0x01#6 d s t 7#11
  | .srl d s t => mkRRR 0x01#6 d s t 8#11
  | .sra d s t => mkRRR 0x01#6 d s t 9#11
  | .rol d s t => mkRRR 0x01#6 d s t 10#11
  | .ror d s t => mkRRR 0x01#6 d s t 11#11
  | .mul d s t => mkRRR 0x01#6 d s t 12#11
  | .mulh d s t => mkRRR 0x01#6 d s t 13#11
  | .mulhn d s t => mkRRR 0x01#6 d s t 14#11
  | .div d s t => mkRRR 0x01#6 d s t 15#11
  | .divn d s t => mkRRR 0x01#6 d s t 16#11
  | .rem d s t => mkRRR 0x01#6 d s t 17#11
  | .remn d s t => mkRRR 0x01#6 d s t 18#11
  | .min d s t => mkRRR 0x01#6 d s t 19#11
  | .max d s t => mkRRR 0x01#6 d s t 20#11
  | .minn d s t => mkRRR 0x01#6 d s t 21#11
  | .maxn d s t => mkRRR 0x01#6 d s t 22#11
  | .slt d s t => mkRRR 0x01#6 d s t 23#11
  | .sltn d s t => mkRRR 0x01#6 d s t 24#11
  | .seq d s t => mkRRR 0x01#6 d s t 25#11
  | .sne d s t => mkRRR 0x01#6 d s t 26#11
  | .clz d s => mkRRR 0x01#6 d s 0#5 27#11
  | .ctz d s => mkRRR 0x01#6 d s 0#5 28#11
  | .popc d s => mkRRR 0x01#6 d s 0#5 29#11
  | .bswap d s => mkRRR 0x01#6 d s 0#5 30#11
  | .hmix d s t => mkRRR 0x01#6 d s t 31#11
  | .crc32c d s t => mkRRR 0x01#6 d s t 32#11
  | .bfx d s p l => mkBF 0x02#6 d s p l 0#4
  | .bfxs d s p l => mkBF 0x02#6 d s p l 1#4
  | .bfi d s p l => mkBF 0x02#6 d s p l 2#4
  | .bfxv d s t => mkBF 0x02#6 d s (t ++ 0#1) 0#6 3#4
  | .bfiv d s t => mkBF 0x02#6 d s (t ++ 0#1) 0#6 4#4
  | .addi d s i => mkI 0x03#6 d s i
  | .andi d s i => mkI 0x04#6 d s i
  | .ori d s i => mkI 0x05#6 d s i
  | .xori d s i => mkI 0x06#6 d s i
  | .slti d s i => mkI 0x07#6 d s i
  | .sltni d s i => mkI 0x08#6 d s i
  | .muli d s i => mkI 0x09#6 d s i
  | .lui d i => mkI 0x0A#6 d 0#5 i
  | .slli d s n => mkI 0x0B#6 d s (0#10 ++ n)
  | .srli d s n => mkI 0x0B#6 d s (256#10 ++ n)
  | .srai d s n => mkI 0x0B#6 d s (512#10 ++ n)
  | .roli d s n => mkI 0x0B#6 d s (768#10 ++ n)
  | .beq s t d => mkI 0x0C#6 s t d
  | .bne s t d => mkI 0x0D#6 s t d
  | .blt s t d => mkI 0x0E#6 s t d
  | .bge s t d => mkI 0x0F#6 s t d
  | .bltn s t d => mkI 0x10#6 s t d
  | .bgen s t d => mkI 0x11#6 s t d
  | .b d => mkJ 0x12#6 d
  | .bal d => mkJ 0x13#6 d
  | .jr s => mkRRR 0x14#6 0#5 s 0#5 0#11
  | .jalr d s => mkRRR 0x14#6 d s 0#5 1#11
  | .bp p m d => mkBP 0x15#6 p m 0#5 d
  | .dbnz s d => mkI 0x16#6 s 0#5 d
  | .ld d c L t a => mkM 0x18#6 d c L (t ++ 0#3 ++ a)
  | .st d c L t r => mkM 0x19#6 d c L (t ++ 0#2 ++ r ++ 0#1)
  | .ldro d c L t => mkM 0x1A#6 d c L (t ++ 0#4)
  | .ldq c => mkM 0x1B#6 0#5 c 0#8 0#8
  | .stq c => mkM 0x1B#6 0#5 c 0#8 1#8
  | .layset i b => mkG 0x1C#6 i b 0#5 0#6 0#5
  | .layget b i => mkG 0x1C#6 b i 0#5 0#6 1#5
  | .laysub i b => mkG 0x1C#6 i b 0#5 0#6 2#5
  | .pref b r => mkG 0x1C#6 0#5 b 0#5 (0#5 ++ r) 3#5
  | .aadd d c L r q => mkM 0x1D#6 d c L (0#6 ++ r ++ q)
  | .aand d c L r q => mkM 0x1D#6 d c L (4#6 ++ r ++ q)
  | .aor d c L r q => mkM 0x1D#6 d c L (8#6 ++ r ++ q)
  | .axor d c L r q => mkM 0x1D#6 d c L (12#6 ++ r ++ q)
  | .amin d c L r q => mkM 0x1D#6 d c L (16#6 ++ r ++ q)
  | .amax d c L r q => mkM 0x1D#6 d c L (20#6 ++ r ++ q)
  | .aminn d c L r q => mkM 0x1D#6 d c L (24#6 ++ r ++ q)
  | .amaxn d c L r q => mkM 0x1D#6 d c L (28#6 ++ r ++ q)
  | .aswap d c L r q => mkM 0x1D#6 d c L (32#6 ++ r ++ q)
  | .acas d c L r q => mkM 0x1D#6 d c L (36#6 ++ r ++ q)
  | .afadd d c L r q => mkM 0x1D#6 d c L (40#6 ++ r ++ q)
  | .waita d c L q => mkM 0x1D#6 d c L (88#7 ++ q)
  | .fence k s => mkG 0x1E#6 0#5 0#5 0#5 (0#1 ++ k ++ s) 0#5
  | .qfence f => mkG 0x1E#6 f 0#5 0#5 0#6 1#5
  | .rosync => mkG 0x1E#6 0#5 0#5 0#5 0#6 2#5
  | .chnew d r => mkG 0x1F#6 d r 0#5 0#6 0#5
  | .send f n e => mkG 0x1F#6 f n 0#5 e 1#5
  | .sende f n l e => mkG 0x1F#6 f n l e 2#5
  | .eclose e => mkG 0x1F#6 0#5 0#5 0#5 e 3#5
  | .einfo d s e => mkG 0x1F#6 d s 0#5 e 4#5
  | .ebind h e => mkG 0x1F#6 h 0#5 0#5 e 5#5
  | .emask m e => mkG 0x1F#6 m 0#5 0#5 e 6#5
  | .spawn b a l n => mkG 0x1F#6 b a l n 7#5
  | .hend x => mkG 0x1F#6 0#5 0#5 0#5 (0#5 ++ x) 8#5
  | .hseal => mkG 0x1F#6 0#5 0#5 0#5 0#6 9#5
  | .rateset r e => mkG 0x1F#6 r 0#5 0#5 e 10#5
  | .rateget r e => mkG 0x1F#6 r 0#5 0#5 e 11#5
  | .gname d e => mkG 0x20#6 d 0#5 0#5 e 0#5
  | .gstv n o v => mkG 0x20#6 n o v 0#6 1#5
  | .ghold o n => mkG 0x20#6 o n 0#5 0#6 2#5
  | .gwait o n => mkG 0x20#6 o n 0#5 0#6 3#5
  | .barinit r e => mkG 0x21#6 r e 0#5 0#6 0#5
  | .bararr r a d => mkG 0x21#6 r a d 0#6 1#5
  | .barwait r g => mkG 0x21#6 r g 0#5 0#6 2#5
  | .bartest r g d => mkG 0x21#6 r g d 0#6 3#5
  | .waitany d m => mkG 0x22#6 d m 0#5 0#6 0#5
  | .waitall d m => mkG 0x22#6 d m 0#5 0#6 1#5
  | .ffr d m => mkG 0x22#6 d m 0#5 0#6 2#5
  | .tagclr m => mkG 0x22#6 0#5 m 0#5 0#6 3#5
  | .cpy d s t => mkG 0x23#6 d s 0#5 t 0#5
  | .cpyred d s t => mkG 0x23#6 d s 0#5 t 1#5
  | .gath d s i t => mkG 0x23#6 d s i t 2#5
  | .scat d s i t => mkG 0x23#6 d s i t 3#5
  | .halo o b m t => mkG 0x23#6 o b m t 4#5
  | .strm v b t => mkG 0x23#6 v b 0#5 t 5#5
  | .fillw v b w t => mkG 0x23#6 v b w t 6#5
  | .cpycan t => mkG 0x23#6 0#5 0#5 0#5 t 7#5
  | .mma v a b t => mkG 0x24#6 v a b t 0#5
  | .mmas r a b t => mkG 0x24#6 r a b t 1#5
  | .mrot v a b t => mkG 0x24#6 v a b t 2#5
  | .mzero v t => mkG 0x24#6 v 0#5 0#5 t 3#5
  | .mrd d v t => mkG 0x24#6 d v 0#5 t 4#5
  | .mwait j => mkG 0x24#6 j 0#5 0#5 0#6 5#5
  | .mpoll d j => mkG 0x24#6 d j 0#5 0#6 6#5
  | .mcan t => mkG 0x24#6 0#5 0#5 0#5 t 7#5
  | .vadd d a b t => mkV 0x25#6 d a b t 0#7
  | .vsub d a b t => mkV 0x25#6 d a b t 1#7
  | .vmul d a b t => mkV 0x25#6 d a b t 2#7
  | .vfma d a b t => mkV 0x25#6 d a b t 3#7
  | .vfms d a b t => mkV 0x25#6 d a b t 4#7
  | .vnfma d a b t => mkV 0x25#6 d a b t 5#7
  | .vdiv d a b t => mkV 0x25#6 d a b t 6#7
  | .vmin d a b t => mkV 0x25#6 d a b t 7#7
  | .vmax d a b t => mkV 0x25#6 d a b t 8#7
  | .vabs d a t => mkV 0x25#6 d a 0#5 t 9#7
  | .vneg d a t => mkV 0x25#6 d a 0#5 t 10#7
  | .vand d a b t => mkV 0x25#6 d a b t 11#7
  | .vor d a b t => mkV 0x25#6 d a b t 12#7
  | .vxor d a b t => mkV 0x25#6 d a b t 13#7
  | .vnot d a t => mkV 0x25#6 d a 0#5 t 14#7
  | .vshl d a b t => mkV 0x25#6 d a b t 15#7
  | .vshr d a b t => mkV 0x25#6 d a b t 16#7
  | .vshra d a b t => mkV 0x25#6 d a b t 17#7
  | .vclamp d a b t => mkV 0x25#6 d a b t 18#7
  | .vmov d a t => mkV 0x25#6 d a 0#5 t 19#7
  | .vbcast d a t => mkV 0x25#6 d a 0#5 t 20#7
  | .viota d t => mkV 0x25#6 d 0#5 0#5 t 21#7
  | .vaddi d a i => mkI 0x2A#6 d a i
  | .vmuli d a i => mkI 0x2B#6 d a i
  | .vmaxi d a i => mkI 0x2C#6 d a i
  | .vseti d i => mkI 0x2D#6 d 0#5 i
  | .vcmp a b t c p => mkV 0x26#6 0#5 a b t (0#1 ++ c ++ p)
  | .vsel d a b t p => mkV 0x26#6 d a b t (8#4 ++ p)
  | .pand a b d => mkV 0x26#6 0#5 (0#2 ++ a) (0#2 ++ b) 0#4 (9#4 ++ d)
  | .por a b d => mkV 0x26#6 0#5 (0#2 ++ a) (0#2 ++ b) 0#4 (10#4 ++ d)
  | .pxor a b d => mkV 0x26#6 0#5 (0#2 ++ a) (0#2 ++ b) 0#4 (11#4 ++ d)
  | .pnot a d => mkV 0x26#6 0#5 (0#2 ++ a) 0#5 0#4 (12#4 ++ d)
  | .pcnt s => mkV 0x26#6 31#5 0#5 0#5 0#4 (13#4 ++ s)
  | .pset m d => mkV 0x26#6 0#5 31#5 (0#4 ++ m) 0#4 (14#4 ++ d)
  | .vcvt d a t => mkV 0x27#6 d a 0#5 t 0#7
  | .vbq d a b t => mkV 0x27#6 d a b t 1#7
  | .vbdq d a b t => mkV 0x27#6 d a b t 2#7
  | .vred d a t o x => mkV 0x28#6 d a 0#5 t (0#3 ++ o ++ x)
  | .vscan d a t o x => mkV 0x28#6 d a 0#5 t (1#3 ++ o ++ x)
  | .vdot d a b t x => mkV 0x28#6 d a b t (8#5 ++ x)
  | .vtopk d a b t k o => mkV 0x28#6 d a b t (12#5 ++ k ++ o)
  | .vperm d a b t w n => mkV 0x28#6 d a b t (16#5 ++ w ++ n)
  | .vexp2 d a t => mkV 0x29#6 d a 0#5 t 0#7
  | .vexp d a t => mkV 0x29#6 d a 0#5 t 1#7
  | .vlog2 d a t => mkV 0x29#6 d a 0#5 t 2#7
  | .vln d a t => mkV 0x29#6 d a 0#5 t 3#7
  | .vrcp d a t => mkV 0x29#6 d a 0#5 t 4#7
  | .vrsqrt d a t => mkV 0x29#6 d a 0#5 t 5#7
  | .vsqrt d a t => mkV 0x29#6 d a 0#5 t 6#7
  | .vsin d a t => mkV 0x29#6 d a 0#5 t 7#7
  | .vcos d a t => mkV 0x29#6 d a 0#5 t 8#7
  | .vtanh d a t => mkV 0x29#6 d a 0#5 t 9#7
  | .vsigm d a t => mkV 0x29#6 d a 0#5 t 10#7
  | .vgelu d a t => mkV 0x29#6 d a 0#5 t 11#7
  | .vsilu d a t => mkV 0x29#6 d a 0#5 t 12#7
  | .verf d a t => mkV 0x29#6 d a 0#5 t 13#7
  | .zset d a s => mkV 0x2E#6 d a s 0#4 0#7
  | .zld d s => mkV 0x2E#6 d 0#5 s 0#4 1#7
  | .zst a s => mkV 0x2E#6 0#5 a s 0#4 2#7
  | .zinc d a s => mkV 0x2E#6 d a s 0#4 3#7
  | .vtag d n t => mkV 0x2E#6 d 0#5 (0#4 ++ n) t 4#7
  | .vtagrd a => mkV 0x2E#6 31#5 a 0#5 0#4 5#7
  | .lgraph f => mkG 0x2F#6 f 0#5 0#5 0#6 0#5
  | .lwait d a c => mkG 0x2F#6 d a c 0#6 1#5
  | .hstall n => mkH 0x3F#6 0#4 (0#14 ++ n)
  | .himm p => mkH 0x3F#6 1#4 p
  | .hmod r t p z o u b c e => mkH 0x3F#6 2#4 (r ++ t ++ p ++ z ++ o ++ u ++ b ++ c ++ e ++ 0#2)
  | .hbr h => mkH 0x3F#6 3#4 (0#20 ++ h)
  | .illegalWord w => w
  | .deviceReset => 0#32
  | .deviceStart => 0#32
  | .partSet => 0#32
  | .devSet => 0#32
  | .spdm => 0#32
  | .imageLoad => 0#32
  | .ckptStart => 0#32
  | .mailboxReset => 0#32
  | .hostWindowGo => 0#32
  | .hostEventEntry => 0#32
  | .hostBar2Access => 0#32
  | .hostCxlAccess => 0#32
  | .tinvcGo => 0#32
  | .tinvcDone => 0#32
  | .scfgWrite => 0#32
  | .fillmaskWrite => 0#32
  | .pctlWrite => 0#32
  | .portstatClr => 0#32
  | .portstatRetrain => 0#32
  | .ringConfigWrite => 0#32
  | .pcntWrite => 0#32
  | .lattolWrite => 0#32
  | .registerWrite => 0#32
  | .hang => 0#32
  | .waitaTimeout => 0#32
  | .combiningWindowClose => 0#32
  | .markerWaitExpiry => 0#32
  | .fenceAckTimeout => 0#32
  | .remoteReplyTimeout => 0#32
  | .ingressFlitExpiry => 0#32
  | .packetAgeing => 0#32
  | .ratePeriodEnd => 0#32
  | .rateUpdate => 0#32
  | .rateDelta => 0#32
  | .rateAck => 0#32
  | .pcSample => 0#32
  | .idleEntry => 0#32
  | .deviceIdleEntry => 0#32
  | .idleWake => 0#32
  | .idleExitDone => 0#32
  | .timeMessage => 0#32
  | .loadDataReturn => 0#32
  | .sliceAccess => 0#32
  | .sliceFillData => 0#32
  | .evictionReport => 0#32
  | .remoteInvalidation => 0#32
  | .interDieMessage => 0#32
  | .reductionMerge => 0#32
  | .atomicAtHome => 0#32
  | .atomicReply => 0#32
  | .scratchpadAtomic => 0#32
  | .pageWalk => 0#32
  | .mortarHop => 0#32
  | .linkReplay => 0#32
  | .linkTrainingDone => 0#32
  | .xanolForward => 0#32
  | .remotePacketArrival => 0#32
  | .orderedPacketRelease => 0#32
  | .countMarkerArrival => 0#32
  | .countMarkerAck => 0#32
  | .drainMarker => 0#32
  | .lintelIngressFlit => 0#32
  | .lintelGraphStart => 0#32
  | .lintelUnitFlit => 0#32
  | .lintelGraphEnd => 0#32
  | .outboxEntryLeave => 0#32
  | .hodLineTransfer => 0#32
  | .hodCommandComplete => 0#32
  | .systemCopyTransfer => 0#32
  | .barrierOperation => 0#32
  | .haloPushArrival => 0#32
  | .landingStoreArrival => 0#32
  | .matrixStepGrant => 0#32
  | .matrixStepRetire => 0#32
  | .matrixJobComplete => 0#32
  | .matrixJobPoison => 0#32
  | .rotationSlotAccept => 0#32
  | .writebackPortOp => 0#32
  | .activationStart => 0#32
  | .messageArrival => 0#32
  | .homeForward => 0#32
  | .locationUpdate => 0#32
  | .endLandingRegistration => 0#32
  | .parkedDrain => 0#32
  | .closeMarker => 0#32
  | .receiveClose => 0#32
  | .spawnArrival => 0#32
  | .eventDelivery => 0#32
  | .launch => 0#32
  | .cancel => 0#32
  | .networkDispatch => 0#32
  | .networkDone => 0#32
  | .preempt => 0#32
  | .coreAcknowledge => 0#32
  | .poolCopyDone => 0#32
  | .imageResume => 0#32
  | .processMove => 0#32
  | .resume => 0#32
  | .restart => 0#32
  | .kill => 0#32
  | .exit => 0#32
  | .checkpointGranuleCopy => 0#32
  | .ckptStageCopy => 0#32
  | .cutComplete => 0#32
  | .thermalTrip => 0#32
  | .hostFunctionReset => 0#32
  | .mctpI3cMessage => 0#32

end Sys2Proof
end

