-- ==== Sys2Proof/Machine/State.lean ====
section
/-!
DEFINITION. The state of the XM12: every register, table, queue and counter the spec names, as plain data. Numbers that
the spec adds, shifts or masks as words are bit vectors; counts, identifiers and addresses are natural numbers. A field's
docstring names the rule that gives it. The value right after reset stands as the field's default (17 of 01 and the
Reset columns of the register maps; where the spec gives none, log entries 5 and 6).
-/

namespace Sys2Proof.Machine

/-- Sparse data by key, keys strictly rising. An unlisted key holds the default its reader names. -/
abbrev Map (α : Type) := List (Nat × α)

/-- Bytes by address: strictly rising, no entry equal to 0, which is what an unlisted address reads as (log 5). -/
abbrev Memory := List Host.Cell

/-! ## Names of small sets -/

/-- The two halves of a context (01 R16). -/
inductive Half where
  /-- the access half -/
  | A
  /-- the execute half -/
  | E
  deriving DecidableEq, Repr, Inhabited

/-- The fault codes of 15 R354, in its order. -/
inductive FaultCode where
  | illegal | privilege | format | reservedCode | layout | notPresent | protection | tablePoison | dataPoison
  | scopeMismatch | decoupleDeadlock | countMismatch | endInvalid | hang | checker | trap | sealedError | violation
  | streamEnd
  deriving DecidableEq, Repr, Inhabited

/-- The stall reasons of 23 R407, in its order. -/
inductive Stall where
  | none | q0Empty | q1Full | q23 | viewHold | fillWindow | tagWait | barrier | matrixFull | outboxFull | sendRefused
  | atomicPending | fence | fetchMiss | checkerReplay | scoreboard | sfuBusy | streamBuffer | preempting
  deriving DecidableEq, Repr, Inhabited

/-- What a context is doing: it holds no activation (free), runs one (running), stands parked by a fault (parked,
15 R355), or is a frozen master (frozen, 15 R377). -/
inductive CtxStatus where
  | free | running | parked | frozen
  deriving DecidableEq, Repr, Inhabited

/-- A disturbance of the hardware that meets the instruction in hand (01 R22, 15 R370): none; one checker mismatch, after
which the instruction is replayed; a second checker mismatch; a second disagreement of the special-function unit; an uncorrectable
error in data consumed from registers, views, queues or pool. -/
inductive Upset where
  | none | checkerOnce | checkerTwice | sfuTwice | badData
  deriving DecidableEq, Repr, Inhabited

/-- The kinds of activation of 13 R293. -/
inductive ActKind where
  | data | event | spawn | start
  deriving DecidableEq, Repr, Inhabited

/-- States of a process-table entry (14 R347). -/
inductive ProcState where
  | resident | swapped | moving | exited
  deriving DecidableEq, Repr, Inhabited

/-- States of a channel end at its home (13 R298): AT, IN_TRANSIT, CLOSED. -/
inductive EndPlace where
  | here | inTransit | closed
  deriving DecidableEq, Repr, Inhabited

/-- States of an end register (13 R300). -/
inductive EndState where
  | empty | reserved | held
  deriving DecidableEq, Repr, Inhabited

/-- States of a slice way (04 R62). -/
inductive WayState where
  | invalid | clean | dirty | pinned
  deriving DecidableEq, Repr, Inhabited

/-- States of a link (12 R278). -/
inductive LinkState where
  | down | training | up
  deriving DecidableEq, Repr, Inhabited

/-- Packet classes of Mortar in the order of 04 R77. -/
inductive PClass where
  | request | response | stream
  deriving DecidableEq, Repr, Inhabited

/-- Idle states of a cluster or the device (22 R399); `run` is none of them. -/
inductive Idle where
  | run | i1 | i2 | i3 | i4
  deriving DecidableEq, Repr, Inhabited

/-! ## Places a datum lies -/

/-- Where one byte lies: nowhere (reads zero, writes are discarded), at a physical address, at an offset of a core's
pool, or at a physical address read through the read-only cache of a cluster (04 R74). -/
inductive Loc where
  | void
  | phys (a : Nat)
  | pool (core off : Nat)
  | ro (cluster a : Nat)
  deriving DecidableEq, Repr, Inhabited

/-- An entry of q0 or q1 (01 R19, 02 R35): 64 bytes, their format tag, and whether the entry is reserved and its load
data has not arrived. A load from memory is performed at issue and its data is on the way. -/
structure QEntry where
  data : BitVec 512 := 0#512
  tag : BitVec 5 := 0#5
  awaits : Bool := false
  /-- the request whose reply fills the entry; none when its data is on the way already -/
  req : Option Nat := none
  deriving DecidableEq, Repr, Inhabited

/-- A queued E word and its address (15 R358). -/
structure EWord where
  addr : Nat := 0
  word : BitVec 32 := 0#32
  deriving DecidableEq, Repr, Inhabited

/-- A box read at issue (05 R105): the layout id, the entry as it stood, start coordinates and extents. -/
structure Box where
  lid : Nat := 0
  entry : BitVec 512 := 0#512
  start : List Nat := []
  ext : List Nat := []
  deriving DecidableEq, Repr, Inhabited

/-- The reply to a request that left the core. -/
structure Reply where
  value : Word := 0#64
  /-- element codes, for LDQ through a REMOTE layout -/
  codes : List Nat := []
  status : Nat := 0
  fault : Option (FaultCode × Word) := none
  /-- word 4 of the fault message of a fault -/
  extra : Word := 0#64
  /-- what the writers of the value had performed, for the reader to learn (11 R240): agents and counts, as in `Know` -/
  know : Map Nat := []
  /-- the part of a gathered read that it answers -/
  part : Nat := 0
  deriving DecidableEq, Repr, Inhabited

/-- A read of remote bytes under way: one packet asks for the bytes of one 256-byte chunk (12 R271). -/
structure Gather where
  /-- the elements: the addresses of an element's bytes, none for one that reads zero, the bit it starts at and its bits -/
  want : List (List Nat × Nat × Nat) := []
  /-- the parts not yet answered: number and addresses -/
  out : Map (List Nat) := []
  /-- the bytes that have come, by address, and what their writers had performed -/
  got : Map Nat := []
  know : Map Nat := []
  deriving DecidableEq, Repr, Inhabited

/-! ## Engine commands -/

/-- The COPY group by its sub values (06 R119), without CPYCAN, and MRD's writing half is a matrix job. -/
inductive CopyOp where
  | cpy | cpyred | gath | scat | halo | strm | fillw
  deriving DecidableEq, Repr, Inhabited

/-- A source element as the hod has read it: its code, its block's scale byte, and whether its reduction line has OVF set. -/
structure Item where
  code : Nat := 0
  scale : Nat := 127
  ovf : Bool := false
  deriving DecidableEq, Repr, Inhabited

/-- A COPY-group command (06 R112-R141). -/
structure CopyCmd where
  op : CopyOp := .cpy
  dst : Box := {}
  src : Box := {}
  idx : Box := {}
  tag : Nat := 0
  /-- rounding code of 07 R159 taken at issue -/
  rnd : Nat := 0
  sat : Bool := false
  cache : Nat := 0
  /-- sent counts stamped by ORD, one per path (12 R276), and the fence interval they are of -/
  ord : Bool := false
  stamp : List Nat := []
  interval : Nat := 0
  /-- barrier reference named through HMOD -/
  bar : Option Word := none
  core : Nat := 0
  ctx : Nat := 0
  /-- name of the issuing process, and number of the issuing activation -/
  name : Nat := 0
  act : Nat := 0
  /-- handler of the issuing activation (15 R356) -/
  handler : Nat := 0
  /-- the agent that its accesses are of (11 R240, R243) -/
  agent : Nat := 0
  super : Bool := false
  /-- HALO: landing offset, the names of N, S, E, W (0 skips) and the granules; the pushes still out -/
  off : Nat := 0
  names : List Nat := []
  pushes : Nat := 0
  /-- STRM: the view number; FILLW: the type of its view and the window -/
  view : Nat := 0
  ty : Nat := 0
  win : Nat := 0
  /-- pool offset of the ring or of the filled range -/
  base : Nat := 0
  count : Nat := 0
  /-- elements moved; for STRM the strips written -/
  pos : Nat := 0
  /-- GATH and SCAT: the index in use, read once -/
  index : Option Int := none
  begun : Bool := false
  stopped : Bool := false
  /-- HALO: a push met a stale name; a push overran its target's region -/
  staleHit : Bool := false
  overrun : Bool := false
  /-- a REMOTE source: the request that is out, since when, and its reply -/
  req : Option Nat := none
  since : Nat := 0
  gather : Gather := {}
  got : Option Reply := none
  /-- elements read that do not yet fill a block of the destination (07 R154) -/
  hold : List Item := []
  /-- the run of memory that its last writes cover without a gap: first address and the one after the last (11 R249) -/
  run : Nat × Nat := (0, 0)
  lines : Nat := 0
  flags : BitVec 6 := 0#6
  deriving DecidableEq, Repr, Inhabited

/-- The matrix jobs of 10 R213. -/
inductive JobOp where
  | mma | mmas | mrot | mzero | mrd
  deriving DecidableEq, Repr, Inhabited

/-- A matrix operand: its type code and the element codes along k for each of the 32 rows or columns, with the scale
bytes of block types (10 R216, R229). -/
structure Operand where
  ty : Nat := 0
  k : Nat := 0
  codes : List (List Nat) := []
  scales : List (List Nat) := []
  deriving DecidableEq, Repr, Inhabited

/-- A matrix job (10 R213-R237). -/
structure MJob where
  op : JobOp := .mma
  /-- pool offset of the tile in its core -/
  tile : Nat := 0
  a : Option Box := none
  b : Option Box := none
  /-- reduction box of MMAS, destination box of MRD -/
  dst : Box := {}
  areuse : Bool := false
  tag : Nat := 0
  seq : Nat := 0
  /-- number of the job, unique in the device -/
  num : Nat := 0
  rnd : Nat := 0
  stamp : List Nat := []
  gate : Option (Word × Nat) := none
  ringw : Nat := 0
  ringn : Nat := 0
  core : Nat := 0
  ctx : Nat := 0
  /-- name of the issuing process, and number of the issuing activation -/
  name : Nat := 0
  act : Nat := 0
  handler : Nat := 0
  /-- the agent that its accesses are of (11 R240, R243) -/
  agent : Nat := 0
  k : Nat := 0
  /-- steps granted, steps retired -/
  granted : Nat := 0
  done : Nat := 0
  poisoned : Bool := false
  /-- MRD to a remote destination: its packets have been given to the router (18 R380) -/
  sent : Bool := false
  /-- sends of MROT not yet accepted -/
  sendA : Option Operand := none
  sendB : Option Operand := none
  replayed : Bool := false
  flags : BitVec 6 := 0#6
  deriving DecidableEq, Repr, Inhabited

/-- A Lintel start entry (12 R285). -/
structure LStart where
  w0 : Word := 0#64
  w1 : Word := 0#64
  w2 : Word := 0#64
  /-- layout entries of the image, the read ports and the write port, as they stood at issue -/
  lays : List (BitVec 512) := []
  core : Nat := 0
  ctx : Nat := 0
  /-- name of the issuing process, number and handler of the issuing activation -/
  name : Nat := 0
  act : Nat := 0
  handler : Nat := 0
  /-- the agent that its accesses are of (11 R240, R243) -/
  agent : Nat := 0
  deriving DecidableEq, Repr, Inhabited

/-- What an agent's accesses are causally after (11 R240): per agent, the number of its last store that is before.
Agents are numbered device * 2^16 + core * 4 + context, so that a higher triple of 11 R243 is a higher number; an engine's command
is an agent of its own, with its issuing context's number in the low 30 bits. -/
abbrev Know := Map Nat

/-- The last store to an aligned 8-byte word (11 R243): its agent, its number among the agent's stores, what it is
causally after, and whether a later plain store always replaces it: an atomic, a host write, or a store of another device
whose interval has been acknowledged. -/
structure WordMark where
  agent : Nat := 0
  count : Nat := 0
  know : Know := []
  yields : Bool := false
  /-- it came from another device; the clock it was performed -/
  far : Bool := false
  clock : Nat := 0
  deriving DecidableEq, Repr, Inhabited

/-- A message between processes (13 R293-R310). -/
structure Msg where
  kind : ActKind := .data
  chid : Nat := 0
  home : Nat := 0
  seq : Nat := 0
  /-- name, core and end register of the sender -/
  name : Nat := 0
  core : Nat := 0
  reg : Nat := 0
  words : List Word := []
  /-- handles carried and the sender's registers they left -/
  ends : List (BitVec 128 × Nat) := []
  /-- SPAWN: template and entry handler; start messages: handler 1 -/
  tmpl : Nat := 0
  handler : Nat := 0
  /-- host end window (partition * 16 + window) the message came from or a scheduler's message -/
  window : Option Nat := none
  part : Nat := 0
  /-- clock of arrival at the holding core, for age (14 R337) -/
  arrived : Nat := 0
  /-- registers reserved for the ends at the receiving process -/
  lands : List Nat := []
  /-- the ends it carries were accepted once: their old registers are free -/
  taken : Bool := false
  /-- the ends it carries have landed: a redelivery lands them no second time (13 R315) -/
  landed : Bool := false
  /-- its activation was rolled back after its receive end had left: it is dispatched before any other, whatever its sequence
  (13 R311) -/
  again : Bool := false
  /-- what the sender's commit released (11 R246) -/
  know : Know := []
  deriving DecidableEq, Repr, Inhabited

/-- An event for a process (13 R325): code, name, end concerned, detail, further words, ends returned in a REFUSED. -/
structure Evt where
  code : Nat := 0
  name : Nat := 0
  reg : Nat := 0
  detail : Word := 0#64
  words : List Word := []
  lands : List Nat := []
  arrived : Nat := 0
  know : Know := []
  /-- PEER_CLOSED: the channel, and whether the end concerned is its receive end (13 R318) -/
  closes : Option (Nat × Bool) := none
  deriving DecidableEq, Repr, Inhabited

/-- A GSTV or HALO store on its way (14 R350, 06 R130). -/
structure Landing where
  target : Nat := 0
  off : Nat := 0
  /-- the granules, oldest first, 64 bytes each -/
  data : List (BitVec 512) := []
  ty : Nat := 0
  halo : Bool := false
  /-- HALO: the side it counts in (0 N, 1 S, 2 E, 3 W), its tag and queue -/
  side : Nat := 0
  tag : Nat := 0
  /-- the sender -/
  name : Nat := 0
  core : Nat := 0
  ctx : Nat := 0
  part : Nat := 0
  /-- activation number of the sender, to tell whether it still runs (14 R348) -/
  act : Nat := 0
  /-- GSTV: sequence number for the pair (14 R351) -/
  seq : Nat := 0
  /-- HALO to another device: the granules of the whole push, of which this packet carries at most four (12 R265); its packets bear
  one number in `seq` -/
  whole : Nat := 0
  stamp : List Nat := []
  scope : Nat := 0
  know : Know := []
  deriving DecidableEq, Repr, Inhabited

/-- An outbox entry (13 R295). -/
inductive OutEntry where
  | send (reg : Nat) (words : List Word) (ends : List Nat)
  | close (reg : Nat)
  | spawn (core tmpl handler : Nat) (args : List Word) (ends : List Nat)
  | copy (c : CopyCmd)
  | job (j : MJob)
  | qfence (mask : Nat)
  | lgraph (l : LStart)
  | gstv (g : Landing)
  deriving DecidableEq, Repr, Inhabited

/-! ## Contexts -/

/-- A running activation (13 R291-R293). -/
structure Activation where
  /-- slot and name of the process -/
  slot : Nat := 0
  name : Nat := 0
  part : Nat := 0
  kind : ActKind := .data
  handler : Nat := 0
  /-- the receive end the message came through -/
  arrival : Nat := 0
  /-- the message or event that started it, kept for its redelivery (13 R311) -/
  msg : Option Msg := none
  evt : Option Evt := none
  /-- payload of the message, read through an INBOX view (05 R93) -/
  payload : List Word := []
  /-- supervisor process (13 R292) -/
  super : Bool := false
  restartable : Bool := false
  /-- number of the activation, unique in the device -/
  id : Nat := 0
  deriving DecidableEq, Repr, Inhabited

/-- A queue a half is blocked on (01 R20, R21): which queue, whether by a write, and how many entries or free places
it needs. -/
structure QWait where
  queue : Nat := 0
  push : Bool := false
  need : Nat := 1
  deriving DecidableEq, Repr, Inhabited

/-- What the A half waits a reply for: a load from HOST, CXL or a remote device, a remote strip transfer, a remote
atomic, a WAITA, an operation at the home of a channel on another device, a BARWAIT. -/
inductive PendKind where
  | load | gather | atomic | waita | home | barwait
  deriving DecidableEq, Repr, Inhabited

/-- A request of the A half that awaits its reply (11 R261, R425, 12 R277): the instruction retires on it. -/
structure Pend where
  kind : PendKind := .load
  id : Nat := 0
  since : Nat := 0
  va : Nat := 0
  /-- the reply comes from another device, and none within 4·PFTMO is a fault -/
  remote : Bool := false
  dev : Nat := 0
  /-- the operands the instruction took from q3 -/
  popped : List Word := []
  /-- destination field, element type, and whether STATUS is written -/
  dest : BitVec 5 := 0#5
  ty : Nat := 0
  setsStatus : Bool := false
  /-- an ACAS at another device: it writes where its reply says 1 -/
  swaps : Bool := false
  gather : Gather := {}
  reply : Option Reply := none
  deriving DecidableEq, Repr, Inhabited

/-- An A-half fault that waits until the E half has run its older words (15 R358). -/
structure AFault where
  code : FaultCode := .illegal
  x : Word := 0#64
  extra : Word := 0#64
  pc : Nat := 0
  deriving DecidableEq, Repr, Inhabited

/-- Sent counts of a context for one target device (12 R272): the device and four 16-bit counts. -/
structure Sent where
  dev : Nat := 0
  counts : List Nat := [0, 0, 0, 0]
  deriving DecidableEq, Repr, Inhabited

/-- A POD-scope release in progress (12 R274): the interval it ends, since when, the paths and the acknowledgements that are
in, per target and path; a mismatch is `false`. -/
structure PodFence where
  interval : Nat := 0
  /-- it is the implicit fence of an engine's command, not of an instruction (12 R272) -/
  engine : Bool := false
  since : Nat := 0
  paths : List (Nat × Nat) := []
  got : List (Nat × Nat × Bool) := []
  deriving DecidableEq, Repr, Inhabited

/-- A queue entry or a strip of a stream that the E instruction in hand has taken for its source `pos` (09 R191). -/
structure Taken where
  pos : Nat := 0
  strip : Bool := false
  e : QEntry := {}
  deriving DecidableEq, Repr, Inhabited

/-- The E instruction in hand (15 R366, 09 R191): beats done, the governing predicate as read at its first beat, queue
entries and strips taken, flags so far, running values of a reduction. -/
structure EProg where
  beat : Nat := 0
  gov : Word := 0#64
  took : List Taken := []
  /-- q2 entries taken, by the place of the source -/
  tookQ2 : Map Word := []
  flags : BitVec 6 := 0#6
  acc : List Nat := []
  /-- some bytes were in flight at the checks before the first beat: each beat checks its own (09 R191) -/
  late : Bool := false
  deriving DecidableEq, Repr, Inhabited

/-- One hardware context (01 R18). -/
structure Ctx where
  status : CtxStatus := .free
  act : Option Activation := none
  /-- a0-a29; entry 0 is never written (02 R32) -/
  a : Vector Word 32 := Vector.replicate 32 0#64
  /-- z0-z29 (05 R92) -/
  z : Vector (BitVec 256) 32 := Vector.replicate 32 0#256
  /-- p0-p7; entry 0 is never written, p0 reads all ones (02 R36) -/
  p : Vector Word 8 := Vector.replicate 8 0#64
  q0 : List QEntry := []
  q1 : List QEntry := []
  q2 : List Word := []
  q3 : List Word := []
  /-- FLAGS (07 R161), RMODE (07 R159), WAITTMO (11 R261), STATUS (02 R42), JOBID (10 R226), ACTBUD (14 R339) -/
  flags : BitVec 6 := 0#6
  rmode : BitVec 3 := 0#3
  waittmo : BitVec 32 := 0#32
  statusReg : Word := 0#64
  jobid : BitVec 16 := 0#16
  actbud : Word := BitVec.allOnes 64
  /-- PVEC and TVEC (15 R361) -/
  pvec : BitVec 52 := 0#52
  tvec : BitVec 52 := 0#52
  /-- EPCA and EPCE (15 R361) -/
  epca : Word := 0#64
  epce : BitVec 52 := 0#52
  /-- FAULTA, FAULTE, FAULTC, FAULTX (15 R355) -/
  faulta : BitVec 52 := 0#52
  faulte : BitVec 52 := 0#52
  faultc : BitVec 10 := 0#10
  faultx : Word := 0#64
  /-- SUPER privilege (13 R292) -/
  super : Bool := false
  /-- in a vectored routine (15 R362); a CTXSAVE has retired since entry (15 R367) -/
  routine : Bool := false
  saved : Bool := false
  /-- the core itself saves the context, for want of a routine (15 R365) -/
  auto : Bool := false
  /-- the context's activation is being pre-empted: the interrupt is raised and not yet taken (15 R365) -/
  interrupt : Bool := false
  /-- program counter of the front end (02 R24) -/
  pc : BitVec 52 := 0#52
  /-- hints fetched and not yet bound, with their addresses (02 R29) -/
  hints : List EWord := []
  /-- the E half's instruction queue (15 R358) -/
  eq : List EWord := []
  eprog : EProg := {}
  /-- hints of the group at the head of `eq` that have issued in the E half (02 R29), and the clock from which an HSTALL among them
  lets its instruction be a candidate (08 R184) -/
  hinted : Nat := 0
  heldE : Nat := 0
  afault : Option AFault := none
  /-- outbox and SEALED (13 R295) -/
  outbox : List OutEntry := []
  sealed : Bool := false
  /-- registers sent or closed by the activation and still in its outbox (13 R300) -/
  gone : List Nat := []
  /-- a commit has begun and waits for room (13 R324) -/
  committing : Bool := false
  /-- undo window, newest first: offset in the pool and the 32 bytes (15 R371); overflow; unrollable (15 R370) -/
  undo : List (Nat × List Byte) := []
  undoOver : Bool := false
  unroll : Bool := false
  /-- sent counts per target device (12 R272) and the number of their interval, release in progress (12 R274), request -/
  sent : List Sent := []
  interval : Nat := 0
  podFence : Option PodFence := none
  pend : Option Pend := none
  /-- streams armed (06 R131): view, ring offset, strips in all, strips written, strips read, failed -/
  streams : List (Nat × Nat × Nat × Nat × Nat × Bool) := []
  /-- GSTV sequence numbers per target name (14 R351) -/
  gstvSeq : Map Nat := []
  /-- stall reason and queue block of each half (23 R407, 01 R21) -/
  stallA : Stall := .none
  stallE : Stall := .none
  waitA : Option QWait := none
  waitE : Option QWait := none
  /-- the clock from which a register's value is ready for the instructions that read it (08 R166) -/
  aReady : Map Nat := []
  /-- the clock from which the instruction after an HSTALL is a candidate (08 R184), and whether it has lost a slot -/
  heldTo : Nat := 0
  lost : Bool := false
  deriving DecidableEq, Repr, Inhabited

/-! ## Processes and channels -/

/-- An end register (13 R299, R300). -/
structure EndReg where
  state : EndState := .empty
  handle : BitVec 128 := 0#128
  bind : Nat := 0
  hold : Bool := false
  enLanded : Bool := false
  enMoved : Bool := false
  pcl : Bool := false
  /-- send end: core of the receive end, or the home (none) -/
  loc : Option Nat := none
  /-- what the last activation from a receive end released at its end (19 R383) -/
  know : Know := []
  deriving DecidableEq, Repr, Inhabited

/-- Messages held for one channel at the core of its receive end, and its settled sequences (13 R309, R310, R317);
refusals of the running rate period and the clock it began (14 R340). -/
structure Inbox where
  chid : Nat := 0
  home : Nat := 0
  reg : Nat := 0
  slot : Nat := 0
  held : List Msg := []
  settled : List Nat := []
  /-- settled sequences passed over since the last dispatch, for a rollback to restore (13 R311) -/
  passed : List Nat := []
  /-- the close marker's final sequence and the process that closed the send end (13 R317) -/
  fseq : Option Nat := none
  closer : Nat := 0
  /-- CAP, and T of an enabled rate loop or 0, as the home told the core -/
  cap : Nat := 64
  period : Nat := 0
  refused : Nat := 0
  since : Nat := 0
  /-- the inbox of a core control channel, which the core itself holds (15 R361): the partition it is of, and the sequence it
  expects next -/
  control : Option Nat := none
  next : Nat := 0
  /-- messages parked at a home on another device, as that home told (13 R309) -/
  far : Nat := 0
  deriving DecidableEq, Repr, Inhabited

/-- A process and its table entry (13 R289, 14 R346, R347). -/
structure Proc where
  name : Nat := 0
  state : ProcState := .exited
  part : Nat := 0
  /-- network of the process, by its number -/
  net : Nat := 0
  tmpl : Nat := 0
  core : Nat := 0
  super : Bool := false
  restartable : Bool := false
  exiting : Bool := false
  /-- being moved after a hardware error (15 R374) -/
  moving : Bool := false
  /-- handler table (13 R290) -/
  handlers : Map Word := []
  ends : Map EndReg := []
  /-- layout table (05 R98) and view templates (05 R92) -/
  layouts : Map (BitVec 512) := []
  views : Map (BitVec 256) := []
  /-- named regions: offset and size (05 R87); landing region; accumulator tiles: first and number -/
  regions : Map (Nat × Nat) := []
  land : Nat × Nat := (0, 0)
  tiles : Nat × Nat := (0, 0)
  /-- hold map, and the clock in which each granule was last armed (14 R352) -/
  holds : BitVec 128 := 0#128
  armed : Map Nat := []
  /-- WEIGHT (14 R337), pass (14 R337), BUDGET (14 R329), TAGM (06 R114), PFLAGS (07 R162) -/
  weight : BitVec 16 := 0x0100#16
  pass : BitVec 32 := 0#32
  budget : Word := 0#64
  tagm : Word := 0#64
  pflags : BitVec 6 := 0#6
  /-- RINGW, RINGN (10 R229), NBRN, NBRS, NBRE, NBRW (06 R129), HCNT (06 R130) -/
  ringw : BitVec 14 := 0#14
  ringn : BitVec 14 := 0#14
  nbr : Vector (BitVec 32) 4 := Vector.replicate 4 0#32
  hcnt : Word := 0#64
  /-- event queue of 16 (13 R325), and the events that wait at their source for room; what the last event activation
  released (19 R383) -/
  events : List Evt := []
  evtKnow : Know := []
  /-- start and spawn messages not yet dispatched (13 R294) -/
  starts : List Msg := []
  /-- rate LOAD (14 R343), and what the loops of channels with homes on other devices add to it, by channel -/
  load : Nat := 0
  loads : Map Nat := []
  /-- stores queued while MOVING (14 R347) -/
  queued : List Landing := []
  /-- what the stores that released granules of the landing region had released (14 R353) -/
  landKnow : Know := []
  deriving DecidableEq, Repr, Inhabited

/-- A message, marker or settled sequence parked at a home (13 R308, R313, R317); a marker with the closer's name. -/
inductive Parked where
  | msg (m : Msg)
  | settled (seq : Nat)
  /-- a settled sequence that the receiver had passed over since its last dispatch (13 R310, R311) -/
  | passed (seq : Nat)
  | close (fseq name : Nat)
  deriving DecidableEq, Repr, Inhabited

/-- A request that an instruction makes at a channel's home: the name of the holder of the other end (14 R349), the event
enables of an end (13 R306), a new rate word (14 R344), the rate word (14 R345). -/
inductive HomeReq where
  | gname (chid : Nat) (recv : Bool)
  | emask (chid : Nat) (recv landed moved : Bool)
  | rateset (chid : Nat) (w : Word)
  | rateget (chid : Nat)
  deriving DecidableEq, Repr, Inhabited

/-- A channel's home record (13 R298), with the direction kept beside it (14 R341). -/
structure Chan where
  ren : Bool := false
  i : Int := 0
  t : Nat := 0
  gi : Nat := 0
  gp : Nat := 0
  sp : Nat := 0
  dseq : Nat := 0
  fseq : Nat := 0
  sname : Nat := 0
  rname : Nat := 0
  mvs : Nat := 0
  mvr : Nat := 0
  disc : Nat := 0
  sloc : Nat := 0
  rloc : Nat := 0
  cap : Nat := 1
  strm : Bool := false
  rate : Bool := false
  /-- EVS and EVR: END_LANDED, PEER_MOVED enabled -/
  evs : Bool × Bool := (false, false)
  evr : Bool × Bool := (false, false)
  sst : EndPlace := .closed
  rst : EndPlace := .closed
  /-- the home slice (13 R299): cluster identifier * 4 + slice -/
  home : Nat := 0
  /-- end registers of the two holders -/
  sreg : Nat := 0
  rreg : Nat := 0
  /-- registers the ends were held in before they left, and whether END_LANDED was enabled then -/
  sfrom : Nat := 0
  rfrom : Nat := 0
  slanded : Bool := false
  rlanded : Bool := false
  /-- PEER_CLOSED owed to a send end in transit: DISC and the closer -/
  owe : Option (Nat × Nat) := none
  /-- direction CD (14 R341) -/
  cd : Int := 0
  parked : List Parked := []
  /-- the first of what is parked stands offered at the receive end's device, which has not answered yet (13 R315) -/
  offered : Bool := false
  /-- the index waits for the drain marker before its reuse (13 R319) -/
  draining : Bool := false
  /-- host end window of the send end (22 R389) -/
  window : Option Nat := none
  /-- 0 a channel of processes, 1 a launch channel, whose receive end a scheduler holds (14 R327) -/
  role : Nat := 0
  deriving DecidableEq, Repr, Inhabited

/-- States of a network (14 R331-R336). -/
inductive NetState where
  | queued | running | cancelling | done
  deriving DecidableEq, Repr, Inhabited

/-- A network (14 R327-R336). -/
structure Net where
  ticket : Nat := 0
  /-- channel index of its launch channel, dispatching die, partition, priority, acceptance -/
  chan : Nat := 0
  die : Nat := 0
  part : Nat := 0
  prio : Nat := 0
  accepted : Nat := 0
  image : Nat := 0
  prereqs : List Nat := []
  state : NetState := .queued
  /-- launcher: name and end register, or host end window -/
  launcher : Nat := 0
  lreg : Nat := 0
  window : Option Nat := none
  deriving DecidableEq, Repr, Inhabited

/-! ## Cores and clusters -/

/-- A core TLB or cluster TLB entry (03 R54): a leaf of any page size. -/
structure TlbEntry where
  part : Nat := 0
  /-- first virtual address and log2 of the size of the page -/
  va : Nat := 0
  bits : Nat := 12
  pa : Nat := 0
  su : Bool := false
  rd : Bool := false
  wr : Bool := false
  ex : Bool := false
  /-- level of the table that held the leaf (03 R57) -/
  level : Nat := 2
  /-- D has been set through this entry (03 R60) -/
  dset : Bool := false
  /-- the table entries whose D a write through it sets: the address of the first and their number (03 R60) -/
  dirt : Nat × Nat := (0, 0)
  /-- the entry among them that the walk read: its address and the value read, against which D is set (03 R56) -/
  own : Nat × Nat := (0, 0)
  deriving DecidableEq, Repr, Inhabited

/-- A watch (11 R261, R426): the context, the address and width of its word, the clock it was entered, its timeout and
the aligned range that ends it. -/
structure Watch where
  core : Nat := 0
  ctx : Nat := 0
  addr : Nat := 0
  width : Nat := 8
  since : Nat := 0
  tmo : Nat := 0
  /-- a context of another device: its device index and request number -/
  far : Option (Nat × Nat) := none
  deriving DecidableEq, Repr, Inhabited

/-- A core (01 R12). -/
structure Core where
  ctxs : Map Ctx := []
  /-- the pool's 65,536 bytes (05 R85) and its 1,024 granule tags (05 R88) -/
  pool : Memory := []
  tags : Map (BitVec 5) := []
  /-- what the writer of each 8-byte word of the pool was after (11 R240) -/
  poolKnow : Map Know := []
  /-- PARTW (05 R84) -/
  partw : Word := 0x4023#64
  /-- TAGS, error bits, counts (06 R116) -/
  tagDone : Word := BitVec.allOnes 64
  tagErr : Word := 0#64
  tagCnt : Map Nat := []
  /-- what commands and jobs that completed had performed, for those who observe their tags (06 R117) -/
  tagKnow : Know := []
  /-- what the last activation from a receive end released, for ends that have left the core since, by channel (19 R383) -/
  endKnow : Map Know := []
  /-- next job sequence and the 1,024 job records: none is pending, default 4 (10 R227) -/
  jobSeq : BitVec 10 := 0#10
  jobs : Map (Option Nat) := []
  /-- the number of the job last issued with each sequence -/
  jobNum : Map Nat := []
  /-- FWIN0-FWIN7 (06 R133) -/
  fwin : Vector Word 8 := Vector.replicate 8 0#64
  /-- name of the process whose FILLW loaded each window -/
  fwOwner : Map Nat := []
  /-- SAMPLEP, clock of the last sample point and context last sampled (23 R406) -/
  samplep : BitVec 32 := 0#32
  sampleAt : Nat := 0
  sampleLast : Nat := 3
  /-- inboxes of the channels whose receive end is on the core (13 R309) -/
  inboxes : List Inbox := []
  /-- issue selectors: context last chosen by each half (01 R17) -/
  lastA : Nat := 3
  lastE : Nat := 3
  /-- the clock in which each half last issued: it issues at most one instruction per clock (01 R17) -/
  usedA : Option Nat := none
  usedE : Option Nat := none
  tlb : List TlbEntry := []
  /-- scratchpad watches, 16 (11 R426) -/
  watches : List Watch := []
  /-- number of the next fault message (15 R356) -/
  faultSeq : BitVec 16 := 0#16
  /-- clocks of recent hardware errors; retired (15 R376) -/
  errors : List Nat := []
  retired : Bool := false
  /-- pre-emption: dispatch is stopped; the core has acknowledged (15 R365) -/
  stopped : Bool := false
  acked : Bool := false
  deriving DecidableEq, Repr, Inhabited

/-- A way of a slice (04 R62): state, dirty bit of a pinned way, line address, owner, pins. -/
structure Way where
  state : WayState := .invalid
  dirty : Bool := false
  line : Nat := 0
  owner : Nat := 0
  pins : Nat := 0
  deriving DecidableEq, Repr, Inhabited

/-- One set of a slice (04 R61, R63): ways and recency, least recent first. -/
structure SliceSet where
  ways : Map Way := []
  order : List Nat := []
  deriving DecidableEq, Repr, Inhabited

/-- A combining window (04 R72): the line, when it opened, the clusters joined. -/
structure Window where
  line : Nat := 0
  since : Nat := 0
  joined : List Nat := []
  part : Nat := 0
  deriving DecidableEq, Repr, Inhabited

/-- A record of the scope checker (11 R247): scope code, device and identifier of its instance. -/
structure SyncRec where
  scope : Nat := 0
  dev : Nat := 0
  inst : Nat := 0
  deriving DecidableEq, Repr, Inhabited

/-- A slice (04 R61): its sets, open combining windows, watch table of 32 (11 R261). -/
structure Slice where
  sets : Map SliceSet := []
  windows : List Window := []
  watches : List Watch := []
  deriving DecidableEq, Repr, Inhabited

/-- A line of the read-only cache (04 R74). -/
structure RoLine where
  line : Nat := 0
  data : List Byte := []
  deriving DecidableEq, Repr, Inhabited

/-- What a packet on Mortar carries (04 R77). -/
inductive PBody where
  /-- a data or spawn message for a core -/
  | msg (core : Nat) (m : Msg)
  /-- a message that goes to its channel's home -/
  | toHome (m : Msg)
  /-- a refusal on its way back to the sender -/
  | refused (m : Msg) (detail : Nat) (name : Nat)
  /-- the home's update of a holder's cached location of the receive end; `closed` when that end is closed -/
  | location (core chid : Nat) (loc : Option Nat) (closed : Bool)
  /-- a landing registration (13 R315): handle, name, core, register; `back` is a refused end's return -/
  | landing (handle : BitVec 128) (name core reg : Nat) (back : Bool)
  /-- room freed at a core for a channel's parked message (13 R315) -/
  | room (chid : Nat)
  /-- a parked message, settled sequence or marker offered to the receive end's core on another device, with the number of messages
  that stay parked behind it; and the answer: whether the core took it -/
  | parked (core chid : Nat) (p : Parked) (rest : Nat)
  | tookParked (chid : Nat) (p : Parked) (ok : Bool)
  /-- a close marker of a send end to the home (13 R317), and forwarded to a core -/
  | closeMark (chid fseq name : Nat)
  | closeFwd (core chid fseq name : Nat)
  /-- a receive-end close at its home: messages discarded by the core (13 R318) -/
  | recvClose (chid disc name : Nat)
  /-- an event for a process -/
  | event (name : Nat) (e : Evt)
  /-- rate loop (14 R340-R342): report, delta, acknowledgement -/
  | rateReport (chid o : Nat)
  | rateDelta (name chid : Nat) (delta : Int) (producer : Bool)
  | rateAck (chid : Nat) (producer : Bool) (clamp : Int)
  /-- a remote register store or HALO push -/
  | store (l : Landing)
  /-- a word's write invalidates a die's copy (04 R66), and the report of an eviction -/
  | invalidate (line : Nat)
  | evicted (line die : Nat)
  /-- one line for several clusters, with its bytes (04 R73) -/
  | multicast (line : Nat) (data : List Byte)
  /-- a rotated operand (10 R229): the target core, whether it is A -/
  | operand (core : Nat) (isA : Bool) (o : Operand) (fromCore : Nat)
  /-- stream route markers (04 R81) -/
  | openRoute (id : Nat)
  | closeRoute (id : Nat)
  /-- an end leaves its holder (13 R312, R313): its new move count, who held it where, the END_LANDED enable, and for a
  receive end the sequence expected and what its core held -/
  | depart (chid : Nat) (recv : Bool) (moves name reg core : Nat) (landed : Bool) (dseq : Nat) (held : List Parked)
  /-- the ends a message carried were accepted: their old registers become EMPTY (13 R314) -/
  | accepted (name : Nat) (regs : List Nat)
  /-- what the home tells the core of a receive end: CAP, the period of its rate loop (14 R340), and how many messages stand parked
  (13 R309) -/
  | rateStart (core chid cap period parked : Nat)
  /-- what the loop of a channel adds to LOAD of a process of another device (14 R343) -/
  | rateLoad (name chid share : Nat)
  /-- a request of a context of another device at a home, and its number -/
  | ask (dev core ctx req : Nat) (q : HomeReq)
  deriving DecidableEq, Repr, Inhabited

/-- A Mortar packet (04 R76-R81). -/
structure Packet where
  src : Nat := 0
  dst : List Nat := []
  cls : PClass := .request
  part : Nat := 0
  /-- stream: its route -/
  route : Nat := 0
  /-- order of injection, for oldest first -/
  age : Nat := 0
  /-- an opening marker that has found no free entry at an output and claims none from there on (04 R81) -/
  unheld : Bool := false
  body : PBody := .room 0
  deriving DecidableEq, Repr, Inhabited

/-- A cluster's router (04 R76-R81). Ports: 0 east, 1 west, 2 north, 3 south, 4 local. Queues are keyed by
port * 3 + class. -/
structure Router where
  /-- outgoing ring queues of 8 packet buffers -/
  out : Map (List Packet) := []
  /-- input buffers, 6 per class; of the local port's the first 6 stand in its buffers, and the rest wait at their sources (log 4) -/
  inp : Map (List Packet) := []
  /-- STOP raised by the neighbour beyond an output, keyed the same way -/
  stop : Map Bool := []
  /-- class last served at each output (04 R79) -/
  last : Map Nat := []
  /-- route entries claimed at each output, at most 16 (04 R81) -/
  routes : Map (List Nat) := []
  deriving DecidableEq, Repr, Inhabited

/-- A step of the matrix engine in progress (10 R215-R231). -/
structure MStep where
  queue : Nat := 0
  a : Operand := {}
  b : Operand := {}
  /-- the lines pinned, each with the die of the slice that holds the pin (04 R64) -/
  pins : List (Nat × Nat) := []
  deriving DecidableEq, Repr, Inhabited

/-- What an engine queue's QFENCE waits for (11 R255): fence number and the queues joined. -/
structure QFence where
  id : Nat := 0
  /-- the core whose commands it holds back in the queue it stands in, and the core that issued it -/
  core : Nat := 0
  issuer : Nat := 0
  mask : Nat := 0
  deriving DecidableEq, Repr, Inhabited

/-- An entry of a hod queue: a command, or a QFENCE standing in it. -/
inductive HodEntry where
  | cmd (c : CopyCmd)
  | fence (f : QFence)
  deriving DecidableEq, Repr, Inhabited

/-- An entry of a matrix queue. -/
inductive MatEntry where
  | job (j : MJob)
  | fence (f : QFence)
  deriving DecidableEq, Repr, Inhabited

/-- An entry of an array's start queue. -/
inductive LinEntry where
  | start (l : LStart)
  | fence (f : QFence)
  deriving DecidableEq, Repr, Inhabited

/-- The private state and pool of a core in an HBM image (15 R365). -/
structure Image where
  core : Nat := 0
  part : Nat := 0
  pool : Memory := []
  tags : Map (BitVec 5) := []
  partw : Word := 0#64
  tagDone : Word := 0#64
  tagErr : Word := 0#64
  tagCnt : Map Nat := []
  fwin : Vector Word 8 := Vector.replicate 8 0#64
  jobSeq : BitVec 10 := 0#10
  jobs : Map (Option Nat) := []
  jobNum : Map Nat := []
  inboxes : List Inbox := []
  /-- contexts saved, by number, as CTXSAVE left them: what the save area does not hold -/
  ctxs : Map Ctx := []
  hod0 : List HodEntry := []
  hod1 : List HodEntry := []
  /-- its queues that a violation froze, 0 or 1, with the issuing process (15 R377) -/
  frozen : List (Nat × Nat) := []
  mat : List MatEntry := []
  slotA : Option Operand := none
  slotB : Option Operand := none
  /-- the slots of its processes -/
  slots : List Nat := []
  /-- what the readers of its pool and tags learn, and the owners of its fill windows -/
  poolKnow : Map Know := []
  tagKnow : Know := []
  fwOwner : Map Nat := []
  deriving DecidableEq, Repr, Inhabited

/-- A cluster (01 R12). -/
structure Cluster where
  /-- cluster TLB, 1,024 entries (03 R54), and the upper-level cache: partition, table index path, table base -/
  tlb : List TlbEntry := []
  upper : List (Nat × Nat × Nat × Nat) := []
  /-- read-only cache: set to lines, least recent first (04 R74) -/
  ro : Map (List RoLine) := []
  /-- hod queues 0-15 (06 R112), deficits and queue last served (06 R115), frozen queues, each with the
  name of the process whose command broke its rights (15 R377) -/
  hod : Map (List HodEntry) := []
  hodDef : Map Nat := []
  hodLast : Nat := 15
  hodFrozen : List (Nat × Nat) := []
  /-- matrix queues 0-7 (10 R213), deficits and queue last served (10 R215), the step in progress -/
  mat : Map (List MatEntry) := []
  matDef : Map Nat := []
  matLast : Nat := 7
  mstep : Option MStep := none
  /-- resident accumulators (10 R224): 1,024 FP32 codes, n fastest; kept A (10 R219); A and B slots (10 R229) -/
  macc : Map (List Nat) := []
  keptA : Map Operand := []
  slotA : Map Operand := []
  slotB : Map Operand := []
  /-- routes held open by a queue: target of its A send and of its B send (10 R230) -/
  routeA : Map Nat := []
  routeB : Map Nat := []
  slices : Map Slice := []
  router : Router := {}
  /-- packets that reached the local port, oldest first -/
  arrived : List Packet := []
  /-- SFU arbiter: core last served, and the clock from which the unit is free for the next request (01 R12) -/
  sfuLast : Nat := 7
  sfuFree : Nat := 0
  /-- idle state, since when the cluster has been idle, and the clock its exit ends (22 R399, R400) -/
  idle : Idle := .run
  idleSince : Option Nat := none
  idleExit : Option Nat := none
  /-- controller: pre-emption in progress, clock of the interrupt (15 R365) -/
  preempt : Option Nat := none
  copying : Bool := false
  deriving DecidableEq, Repr, Inhabited

/-! ## Dies, links and Lintel -/

/-- An inter-die message (11 R242): receiver, the invalidated line, the sender and the vector it carries. -/
structure DieMsg where
  src : Nat := 0
  dst : Nat := 0
  line : Nat := 0
  vec : List Nat := []
  deriving DecidableEq, Repr, Inhabited

/-- A die's registers (03 R58, 04 R71, 11 R242). Dies 0-3 are D0-D3, 4 and 5 are N0 and N1. -/
structure Die where
  tinva : Word := 0#64
  /-- TINVC: DONE, ERR, PART, SIZE, SCOPE, and a GO held until DONE is set -/
  done : Bool := true
  err : Bool := false
  part : Nat := 0
  size : Nat := 0
  scopeAll : Bool := false
  held : List (Word × Word) := []
  /-- the accesses at N0 that used a translation which the invalidation in progress has dropped, by their numbers -/
  users : List Nat := []
  /-- SCFG (04 R71) -/
  mcwin : Nat := 32
  rways : Nat := 4
  /-- FILLMASK0-7, default 0xFFFF -/
  fillmask : Map (BitVec 16) := []
  /-- the clock of the last write of RWAYS and of each mask, and what still holds for fills in that clock (04 R67, R69) -/
  rwaysWas : Option (Nat × Nat) := none
  maskWas : Map (Nat × BitVec 16) := []
  /-- vector clock of 8 counts (11 R242) -/
  vec : List Nat := [0, 0, 0, 0, 0, 0, 0, 0]
  deriving DecidableEq, Repr, Inhabited

/-- A packet of the pod (12 R265). -/
inductive PodBody where
  /-- a remote store: virtual address, bytes, and the scope of an ST.rel, else 0 -/
  | store (va : Nat) (bytes : List Byte) (scope : Nat)
  /-- a remote load and the scope of an LD.acq, else 0 -/
  | load (va : Nat) (size : Nat) (scope : Nat) (req : Nat)
  /-- bits of memory that change, in one byte each: address, mask, bits (elements of 6 bits) -/
  | storeBits (parts : List (Nat × Nat × Nat))
  /-- bytes of one 256-byte chunk for a remote LDQ, copy or load: their addresses, the request and its part -/
  | gather (addrs : List Nat) (req part scope : Nat)
  | atomic (va : Nat) (size : Nat) (op : Nat) (v cmp : Word) (ty : Nat) (scope : Nat) (req : Nat) (tmo : Nat)
  | reply (req : Nat) (r : Reply)
  /-- the watch of a WAITA that was interrupted is removed (11 R261) -/
  | unwatch (req : Nat)
  /-- a count marker (12 R274) and its acknowledgement -/
  | marker (count : Nat)
  | ack (ok : Bool)
  | landing (l : Landing)
  | stale (name core ctx act : Nat) (l : Landing) (beyond : Bool)
  | halo (core tag : Nat) (failed : Bool)
  /-- a store or push reached a process of another partition (14 R348) -/
  | breach (l : Landing)
  /-- channel traffic to another device: message, registration and the like go as the Mortar body -/
  | chan (b : PBody)
  | time (ns : Nat)
  /-- the drain marker of 14 R346 for a slot -/
  | drain (slot : Nat)
  /-- a flit of a Lintel stream with its KEY (12 R280, R284); the end marker has `last` set -/
  | flit (key seq : Nat) (data : List Byte) (scale : Nat) (last : Bool)
  deriving DecidableEq, Repr, Inhabited

/-- A packet's header and body (12 R265). -/
structure PodPacket where
  src : Nat := 0
  dst : Nat := 0
  core : Nat := 0
  ctx : Nat := 0
  /-- the issuing process, which a fault message at the target names (15 R356) -/
  name : Nat := 0
  part : Nat := 0
  path : Nat := 0
  prio : Nat := 0
  age : Nat := 0
  /-- the clock from which its age counts -/
  since : Nat := 0
  cls : Nat := 0
  stamp : Option (List Nat) := none
  /-- the fence interval of its context that it is sent in (12 R272); the access is an engine's (03 R57) -/
  interval : Nat := 0
  engine : Bool := false
  /-- the port that a flit of a graph leaves by (12 R280) -/
  port : Option Nat := none
  /-- the tail's CRC is inverted: a router further back has stomped it (12 R270) -/
  stomped : Bool := false
  body : PodBody := .time 0
  deriving DecidableEq, Repr, Inhabited

/-- A Xanol port (12 R264-R278): PORTSTAT fields, replays in a row, packets at the port's input per class. -/
structure Port where
  state : LinkState := .down
  replay : Nat := 0
  stomp : Nat := 0
  drop : Nat := 0
  row : Nat := 0
  /-- packets waiting at this router input -/
  inp : List PodPacket := []
  /-- packets sent on the link, oldest first -/
  sent : List PodPacket := []
  /-- output side: input last served per output (12 R269) -/
  last : Nat := 12
  /-- flits that wait for their graph (12 R284): key, sequence, data, scale, end marker, arrival -/
  flits : List (Nat × Nat × List Byte × Nat × Bool × Nat) := []
  /-- STOP raised by the far end per class, STOPAT (12 R266) -/
  stop : List Nat := []
  stopAt : Nat := 4
  /-- STOP that this input raises per class (12 R266, R284), and the far input's free buffers per class as last told -/
  raised : List Nat := []
  room : List Nat := [256, 256, 256]
  deriving DecidableEq, Repr, Inhabited

/-- Received counts at an I/O die for one source context and its four paths (12 R273), the interval they are of, and the
clock of its first packet. -/
structure Recv where
  dev : Nat := 0
  core : Nat := 0
  ctx : Nat := 0
  counts : List Nat := [0, 0, 0, 0]
  interval : Nat := 0
  since : Nat := 0
  deriving DecidableEq, Repr, Inhabited

/-- A fence interval of a context of another device, as its target knows it: the paths acknowledged (12 R274), and the paths on
which an uncounted packet of it was discarded for want of room (12 R276); `failed` when a path was acknowledged as a mismatch. -/
structure Interval where
  dev : Nat := 0
  core : Nat := 0
  ctx : Nat := 0
  number : Nat := 0
  paths : List Nat := []
  spoilt : List Nat := []
  failed : Bool := false
  deriving DecidableEq, Repr, Inhabited

/-- A count marker that waits at its target (12 R274): the packet and the clock it came. -/
structure MarkWait where
  pkt : PodPacket := {}
  since : Nat := 0
  deriving DecidableEq, Repr, Inhabited

/-- A flit of a Lintel stream (12 R280): sequence, 64 bytes, scale byte. `none` in a queue is the end marker. -/
structure Flit where
  seq : Nat := 0
  data : List Byte := []
  scale : Nat := 0
  deriving DecidableEq, Repr, Inhabited

/-- A running Lintel graph (12 R283-R286). -/
structure Graph where
  start : LStart := {}
  image : List Byte := []
  part : Nat := 0
  /-- waiting flits at each sink 0-31, end markers as none -/
  sinks : Map (List (Option Flit)) := []
  /-- flits emitted by each read port, the unit's own sequence or ALIGN position, bytes a unit still holds -/
  read : Map Nat := []
  next : Map Nat := []
  hold : Map (List Byte) := []
  ended : List Nat := []
  written : Nat := 0
  flags : BitVec 6 := 0#6
  deriving DecidableEq, Repr, Inhabited

/-- A Lintel array (12 R279-R287). -/
structure Array12 where
  queue : List LinEntry := []
  graphs : List Graph := []
  /-- notify registers: FAIL and DONE -/
  notify : Map (Nat × Nat) := []
  /-- what the graphs that counted in a register released (12 R286) -/
  notifyKnow : Map Know := []
  /-- partitions the notify registers are allotted to -/
  allot : Map Nat := []
  deriving DecidableEq, Repr, Inhabited

/-- A system copy engine (06 R141, 15 R377). -/
structure SysEngine where
  queue : List HodEntry := []
  frozen : Bool := false
  deriving DecidableEq, Repr, Inhabited

/-! ## Host, Keystone, observation -/

/-- A host end window (22 R389). -/
structure HostWindow where
  payload : Map Word := []
  busy : Bool := false
  lost : Bool := false
  words : Nat := 0
  evbase : Word := 0#64
  prod : Nat := 0
  cons : Nat := 0
  /-- events that wait for ring room (22 R390) -/
  waiting : List Evt := []
  /-- the launch channel whose send end the window holds, by its index, and the next sequence (22 R389) -/
  chan : Option Nat := none
  seq : Nat := 0
  deriving DecidableEq, Repr, Inhabited

/-- A partition's records and registers (22 R389-R401). -/
structure Partition where
  /-- partition record (22 R392) and aperture record (22 R394) -/
  record : BitVec 512 := 0#512
  aperture : BitVec 512 := 0#512
  windows : Map HostWindow := []
  lattol : Nat := 0
  /-- the host function is frozen (15 R377) -/
  frozen : Bool := false
  /-- supervisor slots by die, and fault messages that wait for their channel (15 R357) -/
  supers : Map Nat := []
  deriving DecidableEq, Repr, Inhabited

/-- A fault message on its way to a supervisor (15 R356): partition, die, the eight words and the process named. -/
structure FaultMsg where
  part : Nat := 0
  die : Nat := 0
  name : Nat := 0
  words : List Word := []
  deriving DecidableEq, Repr, Inhabited

/-- A request of a context to HOST or CXL on its way through N0 (11 R425), with the address it was translated from. -/
structure HostReq where
  core : Nat := 0
  ctx : Nat := 0
  part : Nat := 0
  va : Nat := 0
  /-- the addresses of the bytes -/
  addrs : List Nat := []
  /-- a store's bytes, or none for a load -/
  bytes : Option (List Byte) := none
  size : Nat := 8
  /-- its number; a load's is that of the request which waits for the reply -/
  req : Nat := 0
  /-- how a store is marked in the causal order (11 R240) -/
  mark : WordMark := {}
  deriving DecidableEq, Repr, Inhabited

/-- A checkpoint session (22 R401, R402). -/
structure Ckpt where
  part : Nat := 0
  /-- destination base (physical, HOST or CXL) and staging buffer -/
  dest : Nat := 0
  staging : Nat := 0
  active : Bool := false
  err : Bool := false
  /-- a cut has been taken -/
  cut : Bool := false
  /-- granules still to copy, granules in staging with their slot, granules copied -/
  todo : List Nat := []
  staged : List (Nat × Nat) := []
  copied : Nat := 0
  doneSet : List Nat := []
  deriving DecidableEq, Repr, Inhabited

/-- An observation block (23 R404). -/
structure Observe where
  sring : Word := 0#64
  eRing : Word := 0#64
  sidx : Word := 0#64
  eidx : Word := 0#64
  psel : Map (BitVec 8) := []
  pcnt : Map Word := []
  /-- what the increments of PROD have released, of the sample ring and of the event ring (23 R405) -/
  sknow : Know := []
  eknow : Know := []
  /-- what each counter has counted in a clock, and that clock (23 R408) -/
  recent : Map Word := []
  clock : Nat := 0
  deriving DecidableEq, Repr, Inhabited

/-- The Keystone (22 R395-R398). -/
structure Keystone where
  buffer : Memory := []
  cmd : Word := 0#64
  busy : Bool := false
  replyLen : Nat := 0
  result : Nat := 0
  /-- unsolicited replies that wait for the buffer -/
  posts : List (List Word) := []
  /-- BOOTSTAT; FAILS is kept in flash -/
  minimal : Bool := false
  fails : Nat := 0
  stage : Nat := 0
  reason : Nat := 0
  /-- both firmware slots failed: the Kiln serves (22 R397) -/
  kiln : Bool := false
  /-- next LMS leaf index in flash (22 R398) -/
  leaf : Nat := 0
  /-- images staged for the next start -/
  stagedImg : List (List Byte) := []
  /-- the security version in fuses (22 R396) -/
  fused : Nat := 0
  deriving DecidableEq, Repr, Inhabited

/-! ## The whole machine -/

/-- Who acts and what the act brings with it: for an instruction the core, context and half, and the disturbance that
meets it; for a row without an encoding the unit that acts and the operands it receives from outside, as the docstring
of the row's meaning names them. -/
structure Turn where
  core : Nat := 0
  ctx : Nat := 0
  half : Half := .A
  upset : Upset := .none
  /-- the unit: a cluster, die, port, array, engine, partition or window; and a part of it: a slice, queue or register -/
  unit : Nat := 0
  sub : Nat := 0
  /-- a number, a verdict, bytes and words that come from outside -/
  val : Nat := 0
  ok : Bool := true
  bytes : List Byte := []
  words : List Word := []
  deriving DecidableEq, Repr, Inhabited

/-- What happens next (log 1): a half of a context issues, a row of the table without an encoding takes place, clocks
and nanoseconds pass, a line of memory suffers an uncorrectable error (03 R59), or a link delivers a packet from the
neighbouring device to the input of a port (12 R265), the host reads a register of a function's BAR0 (22 R388), or the host or
the memory expander changes memory of its own (11 R425). -/
inductive Act where
  | issue (t : Turn)
  | event (e : Instr) (t : Turn)
  | pass (clocks ns : Nat)
  | softError (line : Nat)
  | arrive (port : Nat) (p : PodPacket)
  | hostRead (fn off : Nat)
  | outside (a : Nat) (bytes : List Byte)
  deriving DecidableEq, Repr, Inhabited

/-- A count adjustment or poisoning on its way to the controller of a barrier whose owner is SWAPPED or MOVING (06 R427):
the partition, the reference, whether it poisons, whether it adjusts the inbound count, what it is after. -/
structure BarOp where
  part : Nat := 0
  ref : Word := 0#64
  poison : Bool := false
  inward : Bool := false
  know : Know := []
  deriving DecidableEq, Repr, Inhabited

/-- A freed slot that waits for its drain markers (14 R346): those still out, by device and path, once they have been sent. -/
structure Drain where
  slot : Nat := 0
  out : Option (List (Nat × Nat)) := none
  deriving DecidableEq, Repr, Inhabited

/-- The machine. -/
structure State where
  /-- the acts chosen to come next, oldest first (log 1) -/
  agenda : List Act := []
  turn : Turn := {}
  /-- counter of free values (log 9) and of numbers handed out -/
  freeCount : Nat := 0
  fresh : Nat := 0
  /-- CYC (08 R169) and TIME (23 R411) -/
  cyc : Nat := 0
  time : Nat := 0
  /-- nanoseconds by which TIME has still to gain on its own pace, or to fall back, to meet the reference (23 R411) -/
  slew : Int := 0
  /-- memory by 48-bit physical address (03 R45) -/
  mem : Memory := []
  /-- lines marked poisoned (03 R59), lines with an uncorrectable error not yet met -/
  poisoned : List Nat := []
  badLines : List Nat := []
  /-- OVF of reduction lines (06 R125), sync lines (11 R247), copies of lines by die (04 R66) -/
  ovf : List Nat := []
  sync : Map SyncRec := []
  copies : Map (List Nat) := []
  /-- causal order (11 R240): what each agent is after; the last store to each word, by address / 8 (11 R243); what the
  arrivals at a barrier released, by bits 47:14 of its reference; adjustments that wait for a barrier's owner -/
  know : Map Know := []
  wrote : Map WordMark := []
  barKnow : Map Know := []
  barOps : List BarOp := []
  cores : Map Core := []
  clusters : Map Cluster := []
  procs : Map Proc := []
  /-- generation of each slot's next name, slots that wait for their drain marker (14 R346) -/
  gens : Map (BitVec 8) := []
  draining : List Drain := []
  images : Map Image := []
  chans : Map Chan := []
  nets : Map Net := []
  /-- networks that could not be dispatched and stay at the head of their queues (14 R333) -/
  netsBlocked : List Nat := []
  parts : Map Partition := []
  dies : Map Die := []
  dieMsgs : List DieMsg := []
  ports : Map Port := []
  /-- packets this device injects, keyed by I/O die (12 R269), received counts, stamped packets, markers that wait -/
  inject : List PodPacket := []
  recv : Map (List Recv) := []
  stamped : Map (List PodPacket) := []
  marks : List MarkWait := []
  /-- stores of other devices, counted and not yet performed (18 R381), and their fence intervals -/
  farWait : Map (List PodPacket) := []
  intervals : List Interval := []
  /-- GSTV order at the target (14 R351): next sequence per source and target, packets that wait -/
  gstvNext : List (Nat × Nat × Nat × Nat) := []
  gstvWait : List Landing := []
  /-- packets of HALO pushes from other devices that wait for the rest of their push (12 R265) -/
  haloParts : List Landing := []
  /-- PCTL (12 R278) -/
  devidx : Nat := 0
  pftmo : Nat := 20
  arrays : Map Array12 := []
  engines : Map SysEngine := []
  hostReqs : List HostReq := []
  /-- the bytes of the last read that the device completed for the host (22 R388), or of the last reply over MCTP (22 R398) -/
  hostReply : List Byte := []
  faultMsgs : List FaultMsg := []
  /-- SCHCTL (14 R332) -/
  ageq : Nat := 10000
  keystone : Keystone := {}
  ckpts : Map Ckpt := []
  observe : Map Observe := []
  /-- device idle state, the time its exit ends, the host's accesses that wait for it (22 R399, R400) -/
  idle : Idle := .run
  idleExit : Option Nat := none
  hostWaits : List Act := []
  deriving DecidableEq, Repr, Inhabited

/-- A step stops the machine with a fault. -/
inductive Fault where
  /-- An act of the agenda names a unit the device does not have (core, context, cluster, queue, port, partition). Raised
  by the rows without an encoding and by the choice of a context; safe: the hardware has no such unit to act on. -/
  | noSuchUnit
  deriving DecidableEq, Repr

/-- A step has no meaning in the model. -/
inductive Refusal where
  /-- The instruction's arm of `exec` has no meaning yet. Raised by that arm only; safe: nothing is claimed of it. -/
  | notModelled (mnemonic : String)
  deriving DecidableEq, Repr

/-- The machine right after reset: the value every rule gives for reset, and the values of log entries 5 and 6 where
none does. No process, no partition and no program stands in it (14 R333, 22 R392; log 2). -/
def State.reset : State := {}

end Sys2Proof.Machine
end

