-- ==== Sys2Proof/Machine/Mem.lean ====
section
/-!
DEFINITION. Sparse maps and byte memory: reading, writing, the canonical form. Wider values are little-endian
(07 R142), decided here once.
-/

namespace Sys2Proof.Machine

/-! ## Maps -/

/-- The entry of a key. -/
def look {α : Type} : Map α → Nat → Option α
  | [], _ => none
  | (j, x) :: m, k => if k = j then some x else look m k

/-- The entry of a key, or the default. -/
def find {α : Type} (m : Map α) (k : Nat) (d : α) : α :=
  match look m k with
  | some x => x
  | none => d

/-- Sets the entry of a key, keys kept rising. -/
def put {α : Type} : Map α → Nat → α → Map α
  | [], k, x => [(k, x)]
  | (j, y) :: m, k, x =>
    if k < j then (k, x) :: (j, y) :: m
    else if k = j then (k, x) :: m
    else (j, y) :: put m k x

/-- Removes the entry of a key. -/
def drop {α : Type} : Map α → Nat → Map α
  | [], _ => []
  | (j, y) :: m, k => if k = j then drop m k else (j, y) :: drop m k

/-! ## Bytes -/

/-- What an unlisted address of memory or of a pool reads as: zero (log 5). -/
def unlisted : Byte := 0#8

/-- Reads one byte. -/
def readByte : Memory → Nat → Byte
  | [], _ => unlisted
  | (b, x) :: m, a => if a = b then x else if a < b then unlisted else readByte m a

/-- Writes one byte and keeps the canonical form: rising addresses, no entry equal to `unlisted`. -/
def writeByte : Memory → Nat → Byte → Memory
  | [], a, v => if v = unlisted then [] else [(a, v)]
  | (b, x) :: m, a, v =>
    if a < b then (if v = unlisted then (b, x) :: m else (a, v) :: (b, x) :: m)
    else if a = b then (if v = unlisted then m else (a, v) :: m)
    else (b, x) :: writeByte m a v

/-- Every address of the memory lies above `lo` and the memory is canonical. -/
def Memory.above : Nat → Memory → Bool
  | _, [] => true
  | lo, (b, x) :: m => decide (lo ≤ b) && decide (x ≠ unlisted) && Memory.above (b + 1) m

/-- The canonical form: addresses strictly rising and no entry equal to what an unlisted address reads as. -/
def Memory.wf (m : Memory) : Bool := Memory.above 0 m

/-- `n` bytes from `a` up. -/
def readBytes (m : Memory) (a : Nat) : Nat → List Byte
  | 0 => []
  | n + 1 => readByte m a :: readBytes m (a + 1) n

/-- Writes bytes from `a` up. -/
def writeBytes (m : Memory) (a : Nat) : List Byte → Memory
  | [] => m
  | b :: bs => writeBytes (writeByte m a b) (a + 1) bs

/-- The number a list of bytes holds, lowest address first (07 R142). -/
def natOfBytes : List Byte → Nat
  | [] => 0
  | b :: bs => b.toNat + 256 * natOfBytes bs

/-- The `n` low bytes of a number, lowest first. -/
def bytesOfNat : Nat → Nat → List Byte
  | 0, _ => []
  | n + 1, x => BitVec.ofNat 8 (x % 256) :: bytesOfNat n (x / 256)

/-- An `n`-byte number in memory. -/
def readNat (m : Memory) (a n : Nat) : Nat := natOfBytes (readBytes m a n)

/-- Writes an `n`-byte number. -/
def writeNat (m : Memory) (a n x : Nat) : Memory := writeBytes m a (bytesOfNat n x)

/-! ## Bits of numbers and words -/

/-- Bits hi down to lo of a number (00 R3). -/
def bitsOf (x hi lo : Nat) : Nat := x / 2 ^ lo % 2 ^ (hi + 1 - lo)

/-- Bits hi down to lo of a word, as a number. -/
def fieldOf {n : Nat} (w : BitVec n) (hi lo : Nat) : Nat := bitsOf w.toNat hi lo

/-- `n` with the low `k` bits of `v` at bit `lo`, for building words. -/
def at_ (v k lo : Nat) : Nat := v % 2 ^ k * 2 ^ lo

/-- A number as a word. -/
def wordOf (x : Nat) : Word := BitVec.ofNat 64 x

/-- An integer as a word, modulo 2^64. -/
def wordOfInt (x : Int) : Word := BitVec.ofInt 64 x

/-- An n-bit number read as two's complement (00 R5). -/
def signedOf (n x : Nat) : Int :=
  if x % 2 ^ n < 2 ^ (n - 1) then ((x % 2 ^ n : Nat) : Int) else ((x % 2 ^ n : Nat) : Int) - ((2 ^ n : Nat) : Int)

/-- An integer as an n-bit number, modulo 2^n. -/
def wrapTo (n : Nat) (x : Int) : Nat := (x % ((2 ^ n : Nat) : Int)).toNat

/-- clamp of 00 R5. -/
def clampInt (x lo hi : Int) : Int := if x < lo then lo else if hi < x then hi else x

/-- The numbers `a`, `a + 1`, … `n` of them. -/
def rangeFrom (a : Nat) : Nat → List Nat
  | 0 => []
  | n + 1 => a :: rangeFrom (a + 1) n

/-- Replaces element `k` of a list. -/
def setAt {α : Type} : List α → Nat → α → List α
  | [], _, _ => []
  | _ :: xs, 0, y => y :: xs
  | x :: xs, k + 1, y => x :: setAt xs k y

/-- The first element of a list that meets a test, and the list without it. -/
def takeFirst {α : Type} (p : α → Bool) : List α → Option (α × List α)
  | [] => none
  | x :: xs =>
    if p x then some (x, xs)
    else match takeFirst p xs with
      | some (y, ys) => some (y, x :: ys)
      | none => none

/-- A list cut into pieces of `n`, on fuel. -/
def chunks {α : Type} (n : Nat) : Nat → List α → List (List α)
  | 0, _ => []
  | f + 1, xs => if xs.isEmpty then [] else xs.take n :: chunks n f (xs.drop n)

end Sys2Proof.Machine
end

