-- ==== Sys2Proof/Machine/Ops.lean ====
section
/-!
DEFINITION. Named operations over the state: access to contexts, cores, clusters, processes and partitions; the free
values; event counters; the fault record, fault messages and parking (15 R355, R356); entering and leaving a vectored
routine (15 R362-R364). Every meaning is written over these.
-/

namespace Sys2Proof.Machine

/-! ## Access to the parts -/

/-- Core `n`. -/
def State.core (s : State) (n : Nat) : Core := find s.cores n {}

/-- Sets core `n`. -/
def State.setCore (s : State) (n : Nat) (c : Core) : State := { s with cores := put s.cores n c }

/-- Changes core `n`. -/
def State.modCore (s : State) (n : Nat) (f : Core → Core) : State := s.setCore n (f (s.core n))

/-- Context `k` of a core. -/
def Core.ctx (c : Core) (k : Nat) : Ctx := find c.ctxs k {}

/-- Context `k` of core `n`. -/
def State.ctx (s : State) (n k : Nat) : Ctx := (s.core n).ctx k

/-- Sets context `k` of core `n`. -/
def State.setCtx (s : State) (n k : Nat) (x : Ctx) : State :=
  s.modCore n fun c => { c with ctxs := put c.ctxs k x }

/-- Changes context `k` of core `n`. -/
def State.modCtx (s : State) (n k : Nat) (f : Ctx → Ctx) : State := s.setCtx n k (f (s.ctx n k))

/-- The context whose turn it is. -/
def State.actor (s : State) : Ctx := s.ctx s.turn.core s.turn.ctx

/-- Changes the context whose turn it is. -/
def State.modActor (s : State) (f : Ctx → Ctx) : State := s.modCtx s.turn.core s.turn.ctx f

/-- Cluster by its identifier (01 R14). -/
def State.cluster (s : State) (n : Nat) : Cluster := find s.clusters n {}

/-- Changes a cluster. -/
def State.modCluster (s : State) (n : Nat) (f : Cluster → Cluster) : State :=
  { s with clusters := put s.clusters n (f (s.cluster n)) }

/-- The process of a slot; an unlisted slot names none. -/
def State.proc (s : State) (slot : Nat) : Proc := find s.procs slot {}

/-- Changes the process of a slot. -/
def State.modProc (s : State) (slot : Nat) (f : Proc → Proc) : State :=
  { s with procs := put s.procs slot (f (s.proc slot)) }

/-- Partition `p`. -/
def State.part (s : State) (p : Nat) : Partition := find s.parts p {}

/-- Changes partition `p`. -/
def State.modPart (s : State) (p : Nat) (f : Partition → Partition) : State :=
  { s with parts := put s.parts p (f (s.part p)) }

/-- Die `d`: 0-3 are D0-D3, 4 and 5 are N0 and N1. -/
def State.die (s : State) (d : Nat) : Die := find s.dies d {}

/-- Changes die `d`. -/
def State.modDie (s : State) (d : Nat) (f : Die → Die) : State :=
  { s with dies := put s.dies d (f (s.die d)) }

/-- Port `p`. -/
def State.port (s : State) (p : Nat) : Port := find s.ports p {}

/-- Changes port `p`. -/
def State.modPort (s : State) (p : Nat) (f : Port → Port) : State :=
  { s with ports := put s.ports p (f (s.port p)) }

/-- Lintel array `k`. -/
def State.lintel (s : State) (k : Nat) : Array12 := find s.arrays k {}

/-- Changes Lintel array `k`. -/
def State.modLintel (s : State) (k : Nat) (f : Array12 → Array12) : State :=
  { s with arrays := put s.arrays k (f (s.lintel k)) }

/-- Channel by its index on this device. -/
def State.chan (s : State) (k : Nat) : Chan := find s.chans k {}

/-- Changes a channel. -/
def State.modChan (s : State) (k : Nat) (f : Chan → Chan) : State :=
  { s with chans := put s.chans k (f (s.chan k)) }

/-- A number not given out before. -/
def State.takeFresh (s : State) : Nat × State := (s.fresh, { s with fresh := s.fresh + 1 })

/-! ## Identifiers (01 R11, R14) -/

/-- A cluster identifier that names a cluster: x below 48. -/
def clusterOk (n : Nat) : Bool := decide (n < 2048) && decide (n % 64 < 48)

/-- A core identifier that names a core. -/
def coreOk (n : Nat) : Bool := clusterOk (n / 8)

/-- x and y of a cluster. -/
def clusterX (n : Nat) : Nat := n % 64
/-- y of a cluster. -/
def clusterY (n : Nat) : Nat := n / 64
/-- The die of a cluster (R11). -/
def dieOf (n : Nat) : Nat := 2 * (clusterY n / 16) + clusterX n / 24
/-- The I/O die a compute die is attached to (R9): 0 N0, 1 N1. -/
def ioOf (die : Nat) : Nat := die % 2

/-- A group name's slot (14 R346). -/
def slotOf (name : Nat) : Nat := bitsOf name 23 8
/-- A group name's device. -/
def devOf (name : Nat) : Nat := bitsOf name 31 24

/-- The process a name stands for on this device: its slot's process, when the generation agrees and it is no EXITED
one. -/
def State.named (s : State) (name : Nat) : Option Proc :=
  let p := s.proc (slotOf name)
  if name ≠ 0 ∧ devOf name = s.devidx ∧ p.name = name ∧ p.state ≠ .exited then some p else none

/-! ## Partition records (22 R392, R394) -/

/-- VALID of a partition record. -/
def Partition.valid (p : Partition) : Bool := fieldOf p.record 0 0 = 1
/-- Bit x of COLS. -/
def Partition.hasColumn (p : Partition) (x : Nat) : Bool := x < 48 && fieldOf p.record (464 + x) (464 + x) = 1
/-- MBASE -/
def Partition.mbase (p : Partition) : Nat := fieldOf p.record 447 384
/-- MSIZE -/
def Partition.msize (p : Partition) : Nat := fieldOf p.record 383 320
/-- ROOT -/
def Partition.root (p : Partition) : Nat := fieldOf p.record 319 256
/-- DIRTY -/
def Partition.dirty (p : Partition) : Nat := fieldOf p.record 255 192
/-- VECP -/
def Partition.vecp (p : Partition) : Nat := fieldOf p.record 191 128
/-- VECT -/
def Partition.vect (p : Partition) : Nat := fieldOf p.record 127 64

/-- A core of the partition's clusters (14 R334). -/
def State.coreInPart (s : State) (core p : Nat) : Bool :=
  coreOk core && (s.part p).valid && (s.part p).hasColumn (clusterX (core / 8))

/-! ## Event counters (23 R408) -/

/-- Adds `n` events of a kind to counters, those that select it. -/
def countIn (psel : Map (BitVec 8)) (kind n : Nat) (c : Map Word) : Nat → Map Word
  | 0 => c
  | k + 1 =>
    let m := countIn psel kind n c k
    if (find psel k 0#8).toNat = kind then put m k (find m k 0#64 + wordOf n) else m

/-- What the counters of an observation block have counted in a clock. -/
def Observe.inClock (o : Observe) (now : Nat) : Map Word := if o.clock = now then o.recent else []

/-- Counts `n` events of a kind on behalf of partition `p`; EVENT 0 and those above 20 count nothing. -/
def State.count (s : State) (p kind n : Nat) : State :=
  match look s.observe p with
  | none => s
  | some o =>
    let o := { o with pcnt := countIn o.psel kind n o.pcnt 64, recent := countIn o.psel kind n (o.inClock s.cyc) 64, clock := s.cyc }
    { s with observe := put s.observe p o }

/-! ## The monad of meanings -/

/-- Why the body of an instruction does not come to an end now. A fault drops every change the body made (15 R358); a
wait drops them too, and the half stays at its instruction with the stall reason of 23 R407. -/
inductive Stop where
  | fault (code : FaultCode) (x : Word) (extra : Word)
  | wait (why : Stall) (q : Option QWait)
  deriving DecidableEq, Repr

/-- A body: state in, and either a result with the state after it, or a stop. -/
abbrev M := StateT State (Except Stop)

/-- How a body that came to an end leaves its half: the instruction retires; it retires and control goes to an address;
its changes stand but it has not retired and waits; its changes stand and it faults (09 R191); the context no longer
runs it, and nothing more is done. -/
inductive Disp where
  | retire
  | jump (target : Nat)
  | hold (why : Stall) (q : Option QWait := none)
  | broken (code : FaultCode) (x : Word)
  | left
  deriving DecidableEq, Repr

/-- Raises a fault. -/
def failWith {α : Type} (code : FaultCode) (x : Word) : M α := fun _ => .error (.fault code x 0#64)

/-- Raises a fault whose message carries an extra detail in word 4 (15 R356). -/
def failExtra {α : Type} (code : FaultCode) (x extra : Word) : M α := fun _ => .error (.fault code x extra)

/-- ILLEGAL from the values of operands; no rule gives it a detail, so FAULTX is 0 (15 R355, log 7). -/
def illegal {α : Type} : M α := failWith .illegal 0#64

/-- Waits. -/
def waitFor {α : Type} (why : Stall) : M α := fun _ => .error (.wait why none)

/-- Waits on a queue (01 R20). -/
def waitQueue {α : Type} (why : Stall) (q : QWait) : M α := fun _ => .error (.wait why (some q))

/-- Reads a part of the state. -/
def gets {α : Type} (f : State → α) : M α := fun s => .ok (f s, s)

/-- Changes the state. -/
def mods (f : State → State) : M Unit := fun s => .ok ((), f s)

/-- The context that acts. -/
def me : M Ctx := gets State.actor

/-- Changes the context that acts. -/
def modMe (f : Ctx → Ctx) : M Unit := mods fun s => s.modActor f

/-- The core that acts. -/
def myCore : M Core := gets fun s => s.core s.turn.core

/-- Changes the core that acts. -/
def modMyCore (f : Core → Core) : M Unit := mods fun s => s.modCore s.turn.core f

/-- The activation of the context that acts; a context without one has the empty activation. -/
def State.activity (s : State) : Activation :=
  match s.actor.act with
  | some a => a
  | none => {}

/-- The process of the activation that acts. -/
def State.self (s : State) : Proc := s.proc s.activity.slot

/-- The process of the activation that acts. -/
def myProc : M Proc := gets State.self

/-- Changes the process of the activation that acts. -/
def modMyProc (f : Proc → Proc) : M Unit := mods fun s => s.modProc s.activity.slot f

/-- Sets STATUS (02 R42). -/
def setStatus (v : Word) : M Unit := modMe fun c => { c with statusReg := v }

/-- Checks a condition, else raises ILLEGAL. -/
def require (ok : Bool) : M Unit := if ok then pure () else illegal

/-- Checks a condition, else raises a fault. -/
def guardFault (ok : Bool) (code : FaultCode) (x : Word) : M Unit := if ok then pure () else failWith code x

/-! ## Hint groups (02 R29, 08 R184-R188) -/

/-- HMOD's fields (08 R186). -/
structure HMod where
  rnd : Nat := 0
  sat : Bool := false
  pred : Nat := 0
  pz : Bool := false
  ord : Bool := false
  areuse : Bool := false
  bar : Nat := 0
  cache : Nat := 0
  scope : Nat := 0
  deriving DecidableEq, Repr

/-- The hints bound to an instruction: HIMM payloads in order, HMOD, HBR, HSTALL, each with its word. -/
structure Hints where
  himm : List (BitVec 22) := []
  himmWord : BitVec 32 := 0#32
  hmod : HMod := {}
  hmodWord : BitVec 32 := 0#32
  hbr : Option (BitVec 2) := none
  hbrWord : BitVec 32 := 0#32
  hstall : Option Nat := none
  deriving DecidableEq, Repr

/-- Adds the hint in a word. -/
def Hints.add (h : Hints) (w : BitVec 32) : Hints :=
  match decode w with
  | .ok (.hstall n) => { h with hstall := some n.toNat }
  | .ok (.himm p) => { h with himm := h.himm ++ [p], himmWord := w }
  | .ok (.hmod r t p z o u b c e) =>
    { h with
      hmodWord := w
      hmod := { rnd := r.toNat, sat := t == 1#1, pred := p.toNat, pz := z == 1#1, ord := o == 1#1,
                areuse := u == 1#1, bar := b.toNat, cache := c.toNat, scope := e.toNat } }
  | .ok (.hbr x) => { h with hbr := some x, hbrWord := w }
  | _ => h

/-- The hints of a run of hint words. -/
def hintsOf (ws : List EWord) : Hints := ws.foldl (fun h w => h.add w.word) {}

/-- A word of the H format. -/
def isHintWord (w : BitVec 32) : Bool := major w == 0x3F#6

/-- The hint words at the head of the E queue and the word after them (02 R29). -/
def headGroup : List EWord → List EWord
  | [] => []
  | e :: es => if isHintWord e.word then e :: headGroup es else [e]

/-! ## Faults (15 R354-R360) -/

/-- The 8-bit code (15 R354). -/
def FaultCode.toByte : FaultCode → BitVec 8
  | .illegal => 0x01#8 | .privilege => 0x02#8 | .format => 0x03#8 | .reservedCode => 0x04#8 | .layout => 0x05#8
  | .notPresent => 0x06#8 | .protection => 0x07#8 | .tablePoison => 0x08#8 | .dataPoison => 0x09#8
  | .scopeMismatch => 0x0A#8 | .decoupleDeadlock => 0x0B#8 | .countMismatch => 0x0C#8 | .endInvalid => 0x0D#8
  | .hang => 0x0E#8 | .checker => 0x0F#8 | .trap => 0x10#8 | .sealedError => 0x11#8 | .violation => 0x12#8
  | .streamEnd => 0x13#8

/-- The activation can still be rolled back (15 R370). While an ACAS of it is on its way to another device, which may have written
there already, it cannot (log 89). -/
def Ctx.rollable (c : Ctx) : Bool := !(c.unroll || c.sealed || c.undoOver || (c.pend.map Pend.swaps).getD false)

/-- Where the A half restarts: the first hint fetched, or the program counter (02 R30). -/
def Ctx.nextA (c : Ctx) : BitVec 52 :=
  match c.hints with
  | [] => c.pc
  | e :: _ => BitVec.ofNat 52 e.addr

/-- The E half's instruction address: the oldest queued word, or the A half's when none is queued (15 R366). -/
def Ctx.nextE (c : Ctx) : BitVec 52 :=
  match c.eq with
  | [] => c.nextA
  | e :: _ => BitVec.ofNat 52 e.addr

/-- Word 0 of a fault message (15 R356). -/
def faultWord0 (seq unit core source ctx faultc : Nat) : Word :=
  wordOf (at_ seq 16 48 + at_ unit 8 32 + at_ core 14 16 + at_ source 4 12 + at_ ctx 2 10 + at_ faultc 10 0)

/-- Sends a fault message to the supervisor of the partition on the die of the core (15 R356, R357); word 0's sequence
number is the core's next. -/
def State.post (s : State) (part core source unit ctx faultc : Nat) (name : Nat) (ws : List Word) : State :=
  let seq := (s.core core).faultSeq
  let s := s.modCore core fun c => { c with faultSeq := seq + 1#16 }
  let words := faultWord0 seq.toNat unit core source ctx faultc :: ws
  { s with faultMsgs := s.faultMsgs ++ [{ part := part, die := dieOf (core / 8), name := name, words := words }] }

/-- Posts words to the host through the Keystone mailbox (15 R357, R377, 22 R395). -/
def State.tellHost (s : State) (ws : List Word) : State :=
  { s with keystone := { s.keystone with posts := s.keystone.posts ++ [ws] } }

/-- The fault record and the stop of both halves (15 R355): the context parks, or is frozen as a violating master
(15 R377), and the fault message goes out. A supervisor's own fault goes to the host's mailbox (15 R357). -/
def State.park (s : State) (n k : Nat) (code : FaultCode) (half : Nat) (fa fe : BitVec 52) (x extra : Word) : State :=
  let c := s.ctx n k
  let a : Activation := match c.act with
    | some a => a
    | none => {}
  let fc : BitVec 10 := BitVec.ofNat 10 (half * 256 + code.toByte.toNat)
  let frozen := decide (code = .violation)
  let s := s.setCtx n k
    { c with
      status := if frozen then .frozen else .parked
      faulta := fa, faulte := fe, faultc := fc, faultx := x
      afault := none, stallA := .none, stallE := .none, waitA := none, waitE := none }
  let w5 := wordOf (at_ a.handler 6 0 + (if a.restartable then 256 else 0) + (if c.rollable then 512 else 0)
    + (if c.undoOver then 0 else 1024))
  let ws := [fa.setWidth 64, fe.setWidth 64, x, extra, w5, 0#64, 0#64]
  let s := if code = .scopeMismatch then s.count a.part 17 1 else s
  if a.super then
    s.tellHost (faultWord0 0 0 n 0 k fc.toNat :: ws)
  else
    let s := s.post a.part n 0 0 k fc.toNat a.name ws
    if frozen then s.tellHost (faultWord0 0 0 n 0 k fc.toNat :: ws) else s

/-- The A half's fault, when the E half has run every older word (15 R358): the context parks. -/
def State.settleFault (s : State) (n k : Nat) : State :=
  let c := s.ctx n k
  match c.afault with
  | some f => s.park n k f.code 1 (BitVec.ofNat 52 f.pc) (if c.eq.isEmpty then BitVec.ofNat 52 f.pc else c.nextE) f.x f.extra
  | none => s

/-- The reply of a request is a fault. -/
def Pend.faulted (p : Pend) : Bool := match p.reply with
  | some r => r.fault.isSome
  | none => false

/-- The context waits for no reply any more: the entries of q0 that the reply would have filled go with the request. -/
def Ctx.dropPend (c : Ctx) : Ctx := match c.pend with
  | some p => { c with pend := none, q0 := c.q0.filter fun e => e.req != some p.id }
  | none => c

/-- A line of a translation table that a walk finds lost is marked poisoned at its home slice (03 R59). -/
def State.poisonLine (s : State) (line : Nat) : State :=
  if s.poisoned.contains line then s else { s with poisoned := s.poisoned ++ [line], badLines := s.badLines.filter (· != line) }

/-- What a failed access leaves behind: TABLE_POISON marks the line that its word 4 names (03 R59). -/
def State.noteLost (s : State) (code : FaultCode) (extra : Word) : State :=
  if code = .tablePoison then s.poisonLine extra.toNat else s

/-- A fault in the A half (15 R358): the half stands at the faulting instruction's group; it parks at once with an empty E
queue, else once the queue has drained, which in a vectored routine it does not (15 R362). A request that the fault answers
is over. -/
def State.raiseA (s : State) (n k : Nat) (code : FaultCode) (x extra : Word) : State :=
  let c := s.ctx n k
  let c := if (c.pend.map Pend.faulted).getD false then c.dropPend else c
  let s := (s.noteLost code extra).setCtx n k
    { c with hints := [], pc := c.nextA, afault := some { code := code, x := x, extra := extra, pc := c.nextA.toNat } }
  if c.eq.isEmpty || c.routine then s.settleFault n k else s

/-- A fault in the E half (15 R358): the context parks; the faulting word and the younger ones stay queued, and the A
half stops at its next instruction. -/
def State.raiseE (s : State) (n k : Nat) (code : FaultCode) (x extra : Word) : State :=
  let c := s.ctx n k
  let s := (s.noteLost code extra).setCtx n k { c with hints := [], eprog := {}, hinted := 0, pc := c.nextA }
  s.park n k code 2 c.nextA c.nextE x extra

/-! ## Queue blocks and DECOUPLE_DEADLOCK (01 R20, R21) -/

/-- The entries in queue 0-3. -/
def Ctx.queueLen (c : Ctx) : Nat → Nat
  | 0 => c.q0.length
  | 1 => c.q1.length
  | 2 => c.q2.length
  | _ => c.q3.length

/-- The depth of queue 0-3 (01 R19). -/
def queueDepth (q : Nat) : Nat := if q < 2 then 16 else 8

/-- An entry of the queue is reserved by a load in flight. -/
def Ctx.reserved (c : Ctx) (q : Nat) : Bool :=
  q == 0 && c.q0.any fun e => e.awaits

/-- The half is blocked by R20 still, and only the other half can end it: the queue lacks the entries or the room, and
none of its entries awaits load data. -/
def Ctx.stuck (c : Ctx) (w : QWait) : Bool :=
  !c.reserved w.queue &&
    (if w.push then decide (queueDepth w.queue < c.queueLen w.queue + w.need) else decide (c.queueLen w.queue < w.need))

/-- R21: both halves are blocked by queues and neither queue awaits a load. -/
def Ctx.deadlocked (c : Ctx) : Bool :=
  match c.waitA, c.waitE with
  | some a, some e => c.stuck a && c.stuck e
  | _, _ => false

/-- A half that could not proceed: its stall reason and queue block are noted; both halves blocked on queues raise
DECOUPLE_DEADLOCK (01 R21); an A fault whose older E word can never run settles (15 R358). -/
def State.stall (s : State) (n k : Nat) (half : Half) (why : Stall) (q : Option QWait) : State :=
  let c := s.ctx n k
  let c := match half with
    | .A => { c with stallA := why, waitA := q }
    | .E => { c with stallE := why, waitE := q }
  let s := s.setCtx n k c
  if c.deadlocked then
    (s.setCtx n k { c with hints := [], pc := c.nextA }).park n k .decoupleDeadlock 3 c.nextA c.nextE 0#64 0#64
  else match c.afault, q with
    | some _, some w => if half = .E && c.stuck w then s.settleFault n k else s
    | _, _ => s

/-! ## End handles and registers (13 R299) -/

/-- Replaces bits hi down to lo of an entry. -/
def setField {n : Nat} (e : BitVec n) (hi lo v : Nat) : BitVec n :=
  (e &&& ~~~(BitVec.ofNat n (at_ (2 ^ (hi + 1 - lo) - 1) (hi + 1 - lo) lo))) ||| BitVec.ofNat n (at_ v (hi + 1 - lo) lo)

/-- CHID -/
def hChid (h : BitVec 128) : Nat := fieldOf h 127 96
/-- SEQ -/
def hSeq (h : BitVec 128) : Nat := fieldOf h 95 64
/-- MOVES -/
def hMoves (h : BitVec 128) : Nat := fieldOf h 63 48
/-- HOME: cluster identifier and slice -/
def hHome (h : BitVec 128) : Nat := fieldOf h 44 32
/-- RT -/
def hRt (h : BitVec 128) : Bool := h.getLsbD 2
/-- MV -/
def hMv (h : BitVec 128) : Bool := h.getLsbD 1
/-- KIND: a receive end -/
def hRecv (h : BitVec 128) : Bool := h.getLsbD 0

/-- A handle of its fields. -/
def mkHandle (chid seq moves home : Nat) (rt mv recv : Bool) : BitVec 128 :=
  BitVec.ofNat 128 (at_ chid 32 96 + at_ seq 32 64 + at_ moves 16 48 + at_ home 13 32 + (if rt then 4 else 0)
    + (if mv then 2 else 0) + (if recv then 1 else 0))

/-- A handle with another SEQ. -/
def hSetSeq (h : BitVec 128) (seq : Nat) : BitVec 128 := setField h 95 64 seq
/-- A handle with another MOVES. -/
def hSetMoves (h : BitVec 128) (n : Nat) : BitVec 128 := setField h 63 48 n

/-- End register `k` of a process. -/
def Proc.endAt (p : Proc) (k : Nat) : EndReg := find p.ends k {}

/-- The end register of a process that holds an end of a channel. -/
def Proc.holds? (p : Proc) (chid : Nat) (recv : Bool) : Option Nat :=
  (rangeFrom 0 64).find? fun k =>
    let r := p.endAt k
    r.state = .held && hChid r.handle == chid && hRecv r.handle == recv

/-! ## Packets (04 R77, 12 R265) -/

/-- The device and the index of a channel id. -/
def chDev (chid : Nat) : Nat := chid / 2 ^ 24
/-- The index of a channel id. -/
def chIdx (chid : Nat) : Nat := chid % 2 ^ 24

/-- The place of a class in a router's keys. -/
def PClass.idx : PClass → Nat
  | .request => 0 | .response => 1 | .stream => 2

/-- The class of what a packet carries (04 R77): the home's replies to landings and acknowledgements are responses, rotation
and other stream routes the stream class, everything else is a request. -/
def PBody.cls : PBody → PClass
  | .location _ _ _ _ | .rateAck _ _ _ | .accepted _ _ | .evicted _ _ | .multicast _ _ => .response
  | .operand _ _ _ _ | .openRoute _ | .closeRoute _ => .stream
  | _ => .request

/-- A packet enters Mortar at the local port of a cluster (04 R77). -/
def State.sendPkt (s : State) (src dst : Nat) (part : Nat) (body : PBody) : State :=
  let (n, s) := s.takeFresh
  let k := 12 + body.cls.idx
  let p : Packet := { src := src, dst := [dst], cls := body.cls, part := part, age := n, body := body }
  s.modCluster src fun c => { c with router := { c.router with inp := put c.router.inp k (find c.router.inp k [] ++ [p]) } }

/-- A packet enters this device's Xanol router. -/
def State.injectPkt (s : State) (p : PodPacket) : State := { s with inject := s.inject ++ [{ p with src := s.devidx, since := s.cyc }] }

/-- Sends channel traffic from a core to a cluster of a device; between devices, responses travel in the response class. -/
def State.sendTo (s : State) (core dev cluster part : Nat) (body : PBody) : State :=
  if dev = s.devidx then s.sendPkt (core / 8) cluster part body
  else s.injectPkt { dst := dev, core := core, part := part, cls := if body.cls = .response then 1 else 0, body := .chan body }

/-- Sends to the home of a channel. -/
def State.toHome (s : State) (core chid home part : Nat) (body : PBody) : State :=
  s.sendTo core (chDev chid) (home / 4) part body

/-- STOP of an input per class (12 R266): raised when 256 buffers less those in use fall to STOPAT, lowered at STOPAT + 16; for
the collective class also while 256 flits wait for their graph (12 R284). -/
def Port.stopGo (h : Port) : Port :=
  let free := fun (c : Nat) => 256 - (h.inp.filter fun p => p.cls == c).length
  { h with raised := (rangeFrom 0 3).filter fun c =>
      decide (free c ≤ h.stopAt) || (h.raised.contains c && decide (free c < h.stopAt + 16)) || (c == 2 && decide (256 ≤ h.flits.length)) }

/-! ## Vectored routines (15 R361-R364) -/

/-- EPCA's fields (15 R361). -/
def epcaWord (prv src res : Bool) (code pc : Nat) : Word :=
  wordOf ((if prv then 2 ^ 63 else 0) + (if src then 2 ^ 62 else 0) + (if res then 2 ^ 61 else 0)
    + at_ code 6 52 + at_ pc 52 0)

/-- Entry into a vectored routine: EPCA and EPCE record how, the privilege becomes SUPER, the A half continues at the
vector (15 R363, R365). -/
def Ctx.enter (c : Ctx) (vec : BitVec 52) (src res : Bool) (code : Nat) (pca pce : BitVec 52) : Ctx :=
  { c with
    epca := epcaWord c.super src res code pca.toNat
    epce := pce
    super := true, routine := true, saved := false
    hints := [], pc := vec }

/-- The words of the E queue from an address on; all of them where none stands at it. -/
def wordsFrom (a : Nat) (q : List EWord) : List EWord :=
  if q.any fun e => e.addr = a then q.dropWhile fun e => e.addr != a else q

/-- Return from a vectored routine (15 R364): the privilege becomes PRV, the A half resumes at EPCA.PC and the E half at EPCE:
queued words before that address are left out (log 77). The E half first runs the queued words and then takes new ones from
the front end (15 R360). -/
def Ctx.leave (c : Ctx) : Ctx :=
  let q := wordsFrom c.epce.toNat c.eq
  { c with super := fieldOf c.epca 63 63 = 1, routine := false, saved := false, hints := [],
           pc := BitVec.ofNat 52 (fieldOf c.epca 51 0), eq := q, eprog := if q.length = c.eq.length then c.eprog else {}, hinted := 0 }

/-- Entries the E instruction in hand took from q0 and q2 stand at their heads again (09 R191). -/
def Ctx.untake (c : Ctx) : Ctx :=
  { c with q0 := ((c.eprog.took.filter fun t => !t.strip).map Taken.e) ++ c.q0, q2 := c.eprog.tookQ2.map Prod.snd ++ c.q2 }

/-- The watches of a context go (11 R261); one at another device is removed there. -/
def State.dropWatches (s : State) (n k : Nat) : State :=
  let other := fun (w : Watch) => !(w.core == n && w.ctx == k && w.far.isNone)
  let s := { s with
    cores := s.cores.map fun (e : Nat × Core) => (e.1, { e.2 with watches := e.2.watches.filter other })
    clusters := s.clusters.map fun (e : Nat × Cluster) =>
      (e.1, { e.2 with slices := e.2.slices.map fun (l : Nat × Slice) => (l.1, { l.2 with watches := l.2.watches.filter other }) }) }
  match (s.ctx n k).pend with
  | some p =>
    if p.remote && decide (p.kind = PendKind.waita) then
      s.injectPkt { dst := p.dev, core := n, ctx := k, body := .unwatch p.id }
    else s
  | none => s

/-! ## Causal order (11 R240) -/

/-- The number of an agent: a context of a device. -/
def agentOf (dev core ctx : Nat) : Nat := dev * 65536 + core * 4 + ctx

/-- The agent of an engine's command: its own in the causal order, with the triple of the context that issued it (R243, log 98). -/
def engineAgent (num context : Nat) : Nat := (num + 1) * 2 ^ 30 + context

/-- The triple of 11 R243 of an agent: a context's, also for the commands it issued. -/
def agentTriple (agent : Nat) : Nat := agent % 2 ^ 30

/-- What two accesses are after together. -/
def joinKnow (a b : Know) : Know :=
  b.foldl (fun m e => if find m e.1 0 < e.2 then put m e.1 e.2 else m) a

/-- What an agent's accesses are after. -/
def State.knows (s : State) (i : Nat) : Know := find s.know i []

/-- An agent observes something that is after `k`. -/
def State.learn (s : State) (i : Nat) (k : Know) : State :=
  { s with know := put s.know i (joinKnow (s.knows i) k) }

/-- An engine's command leaves the outbox of a context: a release of all that the context has performed and observed (R245). -/
def State.enlist (s : State) (agent : Nat) : State := { s with know := put s.know agent (s.knows (agentTriple agent)) }

/-- An engine's command is over, and with it its agent. -/
def State.dismiss (s : State) (agent : Nat) : State := { s with know := drop s.know agent }

/-- The agent whose turn it is. -/
def State.agent (s : State) : Nat := agentOf s.devidx s.turn.core s.turn.ctx

end Sys2Proof.Machine
end

