-- ==== Sys2Proof/Machine/Flags.lean ====
section
/-!
DEFINITION. The sticky flags (07 R161-R163) and every computation of them that is shared: the flag bits, their OR into
FLAGS, PFLAGS and FLAGSU, and the saturation and wrapping of integer results (07 R155, 08 R173, 09 R198).
-/

namespace Sys2Proof.Machine

/-- INVALID, bit 0 -/
def fInvalid : BitVec 6 := 0x01#6
/-- DIVZERO, bit 1 -/
def fDivZero : BitVec 6 := 0x02#6
/-- OVERFLOW, bit 2 -/
def fOverflow : BitVec 6 := 0x04#6
/-- UNDERFLOW, bit 3 -/
def fUnderflow : BitVec 6 := 0x08#6
/-- INEXACT, bit 4 -/
def fInexact : BitVec 6 := 0x10#6
/-- SAT, bit 5 -/
def fSat : BitVec 6 := 0x20#6

/-- A flag when a condition holds. -/
def flagIf (b : Bool) (f : BitVec 6) : BitVec 6 := if b then f else 0#6

/-- An instruction only sets flags and never clears them (07 R161). -/
def setFlags (f : BitVec 6) : M Unit := modMe fun c => { c with flags := c.flags ||| f }

/-- ORs flags into a process's PFLAGS (07 R162, 06 R117, 10 R222). -/
def State.orPflags (s : State) (slot : Nat) (f : BitVec 6) : State :=
  s.modProc slot fun p => { p with pflags := p.pflags ||| f }

/-- FLAGSU of a cluster: the FLAGS of its 32 contexts and the PFLAGS of every process resident in it (07 R162). -/
def State.flagsu (s : State) (cluster : Nat) : BitVec 6 :=
  let ctxs := (rangeFrom 0 32).foldl (fun f k => f ||| (s.ctx (cluster * 8 + k / 4) (k % 4)).flags) 0#6
  s.procs.foldl (fun f e => if e.2.state = .resident ∧ e.2.core / 8 = cluster then f ||| e.2.pflags else f) ctxs

/-- An exact signed 64-bit result, clamped with SAT when the saturate bit is set, else modulo 2^64 (08 R173). -/
def saturate64 (sat : Bool) (x : Int) : Word × BitVec 6 :=
  let y := clampInt x (-(2 ^ 63 : Int)) (2 ^ 63 - 1)
  if sat then (wordOfInt y, flagIf (decide (y ≠ x)) fSat) else (wordOfInt x, 0#6)

/-- The range of a w-bit integer type. -/
def intRange (signed : Bool) (w : Nat) : Int × Int :=
  if signed then (-(2 ^ (w - 1) : Int), 2 ^ (w - 1) - 1) else (0, 2 ^ w - 1)

/-- An exact result in a w-bit integer element: wrapped, or with the saturate bit clamped and SAT set (07 R155). -/
def narrowInt (signed sat : Bool) (w : Nat) (x : Int) : Nat × BitVec 6 :=
  let r := intRange signed w
  let y := clampInt x r.1 r.2
  if sat then (wrapTo w y, flagIf (decide (y ≠ x)) fSat) else (wrapTo w x, 0#6)

end Sys2Proof.Machine
end

