-- ==== Sys2Proof/Machine/Num.lean ====
section
/-!
DEFINITION. Number formats and rounding (07 R142-R161). A value is exact: a sign, a natural number and a power of two.
Operations are exact and a result is rounded once, at the end. A quotient keeps enough bits and a sticky last bit, so
that its one rounding is that of the exact quotient.
-/

namespace Sys2Proof.Machine

/-- An exact value. `fin neg n e` is ±n·2^e; a zero keeps its sign. -/
inductive Val where
  | nan (signalling : Bool)
  | inf (neg : Bool)
  | fin (neg : Bool) (n : Nat) (e : Int)
  deriving DecidableEq, Repr

/-! ## Type codes (02 R37, 07 R142) -/

/-- Storage bits of an element: 6 for L6 and L6B. -/
def typeBits (ty : Nat) : Nat :=
  match ty with
  | 0 => 32 | 1 => 16 | 2 => 16 | 3 => 8 | 4 => 8 | 5 => 6 | 6 => 6 | 7 => 8
  | 8 => 8 | 9 => 8 | 10 => 16 | 11 => 16 | 12 => 32 | 13 => 32 | _ => 64

/-- Bytes of an element whose type is not L6 or L6B. -/
def typeBytes (ty : Nat) : Nat := typeBits ty / 8

/-- An integer type, codes 8-15. -/
def isIntType (ty : Nat) : Bool := 8 ≤ ty
/-- S types: even integer codes. -/
def isSigned (ty : Nat) : Bool := 8 ≤ ty && ty % 2 = 0
/-- FP32, BF16, FP16 -/
def isF (ty : Nat) : Bool := ty ≤ 2
/-- L6 and L6B: six-bit elements -/
def isSix (ty : Nat) : Bool := ty = 5 || ty = 6
/-- L6B and E4B: block-scaled -/
def isBlock (ty : Nat) : Bool := ty = 6 || ty = 7

/-- Fraction bits and bias of FP32, BF16, FP16, E5M2 (R143, R147). -/
def fracBits (ty : Nat) : Nat :=
  match ty with
  | 0 => 23 | 1 => 7 | 2 => 10 | 3 => 3 | _ => 2
/-- Exponent bits. -/
def expBits (ty : Nat) : Nat :=
  match ty with
  | 0 => 8 | 1 => 8 | 2 => 5 | 3 => 4 | _ => 5
/-- Bias: 2^(exponent bits − 1) − 1. -/
def biasOf (ty : Nat) : Nat := 2 ^ (expBits ty - 1) - 1

/-- The canonical NaN of a float type (R143, R146, R147); L6 has none. -/
def canonNan (ty : Nat) : Nat :=
  match ty with
  | 0 => 0x7FC00000 | 1 => 0x7FC0 | 2 => 0x7E00 | 3 => 0x7F | 7 => 0x7F | 4 => 0x7E | _ => 0

/-! ## Decoding -/

/-- FP32, BF16, FP16 and E5M2 (R143, R145, R147). -/
def decodeIeee (ty x : Nat) : Val :=
  let m := fracBits ty
  let eb := expBits ty
  let f := x % 2 ^ m
  let e := x / 2 ^ m % 2 ^ eb
  let neg := x / 2 ^ (m + eb) % 2 = 1
  if e = 2 ^ eb - 1 then (if f = 0 then .inf neg else .nan (f < 2 ^ (m - 1)))
  else if e = 0 then .fin neg f (1 - biasOf ty - m)
  else .fin neg (2 ^ m + f) (e - biasOf ty - m)

/-- E4M3 (R146): no infinities, one NaN pattern per sign. -/
def decodeE4m3 (x : Nat) : Val :=
  let m := x % 8
  let e := x / 8 % 16
  let neg := x / 128 % 2 = 1
  if e = 15 ∧ m = 7 then .nan false
  else if e = 0 then .fin neg m (-9)
  else .fin neg (8 + m) (e - 10)

/-- The linearisation table T (R149). -/
def tableT (r : Nat) : Nat :=
  match r with
  | 0 => 32768 | 1 => 38968 | 2 => 46341 | _ => 55109

/-- An L6 code other than the reserved one (R148). -/
def decodeL6 (x : Nat) : Val :=
  let m := x % 32
  let neg := x / 32 % 2 = 1
  if m = 0 then .fin false 0 0
  else
    let d : Int := (m : Int) - 16
    .fin neg (tableT (d.emod 4).toNat) (d.ediv 4 - 15)

/-- The reserved L6 code (R148). -/
def reservedL6 : Nat := 0x20

/-- An integer as an exact value. -/
def ofInt (x : Int) : Val := .fin (x < 0) x.natAbs 0

/-- The value of an element's bits; block types without their scale. -/
def decodeVal (ty x : Nat) : Val :=
  if ty = 3 ∨ ty = 7 then decodeE4m3 x
  else if isSix ty then decodeL6 (x % 64)
  else if isIntType ty then
    ofInt (if isSigned ty then signedOf (typeBits ty) x else ((x % 2 ^ typeBits ty : Nat) : Int))
  else decodeIeee ty x

/-- A block element's value under its scale byte (R152, R153). -/
def decodeScaled (ty x e : Nat) : Val :=
  if e = 255 then .nan false
  else match decodeVal ty x with
    | .fin neg n k => .fin neg n (k + (e : Int) - 127)
    | v => v

/-! ## Rounding (R159) -/

/-- ±n·2^e as a multiple of 2^g by mode 0 RNE, 1 RTZ, 2 RUP, 3 RDN, 4 RNA, and whether it changed. -/
def roundGrid (mode : Nat) (neg : Bool) (n : Nat) (e g : Int) : Nat × Bool :=
  if g ≤ e then (n * 2 ^ (e - g).toNat, false)
  else
    let k := (g - e).toNat
    let q := n / 2 ^ k
    let r := n % 2 ^ k
    let h := 2 ^ (k - 1)
    let up : Bool := match mode with
      | 0 => decide (h < r) || (decide (r = h) && decide (q % 2 = 1))
      | 1 => false
      | 2 => decide (r ≠ 0) && !neg
      | 3 => decide (r ≠ 0) && neg
      | _ => decide (h ≤ r)
    (if up then q + 1 else q, decide (r ≠ 0))

/-- floor(log2 n) + e, the exponent of the leading bit of n·2^e. -/
def topBit (n : Nat) (e : Int) : Int := (Nat.log2 n : Int) + e

/-- n·2^e below m·2^f. -/
def ltDyadic (n : Nat) (e : Int) (m : Nat) (f : Int) : Bool :=
  let g := min e f
  decide (n * 2 ^ (e - g).toNat < m * 2 ^ (f - g).toNat)

/-- A finite value into FP32, BF16, FP16 or E5M2 (R156). -/
def encodeIeee (ty mode : Nat) (sat neg : Bool) (n : Nat) (e : Int) : Nat × BitVec 6 :=
  let m := fracBits ty
  let sign := if neg then 2 ^ (m + expBits ty) else 0
  let emin : Int := 1 - (biasOf ty : Int)
  let emax : Int := biasOf ty
  if n = 0 then (sign, 0#6)
  else
    let g := topBit n e - m
    let r := roundGrid mode neg n e g
    -- the rounded value with unbounded exponent has its leading bit here
    let t := topBit r.1 g
    if t < emin then
      let u := roundGrid mode neg n e (emin - m)
      (sign + u.1, flagIf u.2 (fInexact ||| fUnderflow))
    else if emax < t then
      let big := 2 ^ (m + expBits ty) - 2 ^ m
      if sat then (sign + (big - 1), fSat ||| fInexact)
      else
        let toInf : Bool := match mode with
          | 1 => false
          | 2 => !neg
          | 3 => neg
          | _ => true
        (sign + (if toInf then big else big - 1), fOverflow ||| fInexact)
    else
      let f := r.1 * 2 ^ (g - (t - m)).toNat / 2 ^ ((t - m) - g).toNat
      (sign + (t + (biasOf ty : Int)).toNat * 2 ^ m + (f - 2 ^ m), flagIf r.2 fInexact)

/-- A finite value into E4M3, always saturating (R146). -/
def encodeE4m3 (mode : Nat) (neg : Bool) (n : Nat) (e : Int) : Nat × BitVec 6 :=
  let sign := if neg then 128 else 0
  if n = 0 then (sign, 0#6)
  else
    let g := topBit n e - 3
    let r := roundGrid mode neg n e g
    let t := topBit r.1 g
    if t < -6 then
      let u := roundGrid mode neg n e (-9)
      (sign + u.1, flagIf u.2 (fInexact ||| fUnderflow))
    else if ltDyadic 448 0 r.1 g then (sign + 0x7E, fSat ||| fInexact)
    else
      let f := r.1 * 2 ^ (g - (t - 3)).toNat / 2 ^ ((t - 3) - g).toNat
      (sign + (t + 7).toNat * 8 + (f - 8), flagIf r.2 fInexact)

/-- rne(4·log2(n·2^e)) + 16 for n > 0 (R150): with x = n·2^e, floor(4·log2 x + 1/2) is floor(log2(2·x^8) / 2), and no
tie arises. -/
def quarterLog (n : Nat) (e : Int) : Int := (topBit (n ^ 8) (8 * e) + 1).ediv 2 + 16

/-- A value into L6 (R150). -/
def encodeL6 (v : Val) : Nat × BitVec 6 :=
  match v with
  | .nan _ => (0, fInvalid)
  | .inf neg => ((if neg then 63 else 31), fSat ||| fInexact)
  | .fin neg n e =>
    if n = 0 then (0, 0#6)
    else
      let q := quarterLog n e
      if q < 1 then (0, fUnderflow ||| fInexact)
      else if 31 < q then ((if neg then 63 else 31), fSat ||| fInexact)
      else
        let code := (if neg then 32 else 0) + q.toNat
        match decodeL6 code with
        | .fin _ m f => (code, flagIf (ltDyadic n e m f || ltDyadic m f n e) fInexact)
        | _ => (code, 0#6)

/-- A value into an integer type from a float type (R157): rounded, then clamped with SAT. -/
def encodeInt (ty mode : Nat) (v : Val) : Nat × BitVec 6 :=
  let w := typeBits ty
  let r := intRange (isSigned ty) w
  match v with
  | .nan _ => (0, fInvalid)
  | .inf neg => (wrapTo w (if neg then r.1 else r.2), fSat)
  | .fin neg n e =>
    let q := roundGrid mode neg n e 0
    let x : Int := if neg then -(q.1 : Int) else q.1
    let y := clampInt x r.1 r.2
    (wrapTo w y, flagIf q.2 fInexact ||| flagIf (decide (y ≠ x)) fSat)

/-- A value into a float type or L6, rounded once (R145, R146, R150, R156, R158). -/
def encodeFloat (ty mode : Nat) (sat : Bool) (v : Val) : Nat × BitVec 6 :=
  if isSix ty then encodeL6 v
  else match v with
    | .nan sig => (canonNan ty, flagIf sig fInvalid)
    | .inf neg =>
      if ty = 3 ∨ ty = 7 then ((if neg then 0xFE else 0x7E), fSat)
      else
        let m := fracBits ty
        ((if neg then 2 ^ (m + expBits ty) else 0) + (2 ^ (m + expBits ty) - 2 ^ m), 0#6)
    | .fin neg n e =>
      if ty = 3 ∨ ty = 7 then encodeE4m3 mode neg n e else encodeIeee ty mode sat neg n e

/-- Conversion of one element between types that are not block types (R156-R158). Equal float types copy their bits as
an operation would, so a NaN becomes canonical (R145). -/
def convert (src dst mode : Nat) (sat : Bool) (x : Nat) : Nat × BitVec 6 :=
  let v := decodeVal src x
  if isIntType dst then
    if isIntType src then
      match v with
      | .fin neg n _ => narrowInt (isSigned dst) sat (typeBits dst) (if neg then -(n : Int) else n)
      | _ => (0, 0#6)
    else encodeInt dst mode v
  else encodeFloat dst mode sat v

/-! ## Block scales (R154) -/

/-- The magnitude of a finite value as (n, e). -/
def maxMag : List Val → Nat × Int
  | [] => (0, 0)
  | .fin _ n e :: vs =>
    let r := maxMag vs
    if ltDyadic r.1 r.2 n e then (n, e) else r
  | _ :: vs => maxMag vs

/-- The least c with n·2^e ≤ 448·2^c, tried upward from `c`. -/
def leastScale (n : Nat) (e : Int) (c : Int) : Nat → Int
  | 0 => c
  | k + 1 => if ltDyadic 448 c n e then leastScale n e (c + 1) k else c

/-- The scale byte of a block for L6B (6) or E4B (7) and the flag of the choice. -/
def blockScale (ty : Nat) (vs : List Val) : Nat × BitVec 6 :=
  if vs.any (fun v => match v with | .nan _ => true | .inf _ => true | .fin _ _ _ => false) then (255, fInvalid)
  else
    let a := maxMag vs
    if a.1 = 0 then (127, 0#6)
    else if ty = 6 then
      let qa := quarterLog a.1 a.2
      ((clampInt (127 + -((-(qa - 31)).ediv 4)) 0 254).toNat, 0#6)
    else ((clampInt (127 + leastScale a.1 a.2 (topBit a.1 a.2 - 10) 8) 0 254).toNat, 0#6)

/-- A value scaled by 2^k. -/
def scaleVal (v : Val) (k : Int) : Val :=
  match v with
  | .fin neg n e => .fin neg n (e + k)
  | w => w

/-- The 64 elements of a block and its scale byte; `nanSrc` marks a NaN block as the source (R153, R154). A NaN block
has payload zero. -/
def encodeBlock (ty mode : Nat) (nanSrc : Bool) (vs : List Val) : List Nat × Nat × BitVec 6 :=
  let c := if nanSrc then (255, 0#6) else blockScale ty vs
  if c.1 = 255 then (vs.map fun _ => 0, 255, c.2)
  else
    let es := vs.map fun v => encodeFloat ty mode true (scaleVal v (127 - (c.1 : Int)))
    (es.map Prod.fst, c.1, es.foldl (fun f x => f ||| x.2) c.2)

/-! ## Exact arithmetic -/

/-- Negation. -/
def negVal : Val → Val
  | .nan s => .nan s
  | .inf n => .inf (!n)
  | .fin n m e => .fin (!n) m e

/-- The value is a NaN. -/
def Val.isNan : Val → Bool
  | .nan _ => true
  | _ => false
/-- The value is a signalling NaN. -/
def Val.isSnan : Val → Bool
  | .nan s => s
  | _ => false
/-- The value is zero. -/
def Val.isZero : Val → Bool
  | .fin _ n _ => n == 0
  | _ => false
/-- The sign bit. -/
def Val.isNeg : Val → Bool
  | .nan _ => false
  | .inf n => n
  | .fin n _ _ => n

/-- The exact product; 0 × ∞ is an invalid operation, marked as a signalling NaN (R197, R220). -/
def mulVal (a b : Val) : Val :=
  match a, b with
  | .nan s, .nan t => .nan (s || t)
  | .nan s, _ => .nan s
  | _, .nan t => .nan t
  | .inf p, .inf q => .inf (p != q)
  | .inf p, .fin q n _ => if n = 0 then .nan true else .inf (p != q)
  | .fin p n _, .inf q => if n = 0 then .nan true else .inf (p != q)
  | .fin p n e, .fin q m f => .fin (p != q) (n * m) (e + f)

/-- The exact sum; Inf − Inf is an invalid operation, marked as a signalling NaN. A zero sum of opposite signs is +0,
or −0 under RDN; equal signs keep theirs (R197). -/
def addVal (mode : Nat) (a b : Val) : Val :=
  match a, b with
  | .nan s, .nan t => .nan (s || t)
  | .nan s, _ => .nan s
  | _, .nan t => .nan t
  | .inf p, .inf q => if p = q then .inf p else .nan true
  | .inf p, .fin _ _ _ => .inf p
  | .fin _ _ _, .inf q => .inf q
  | .fin p n e, .fin q m f =>
    let g := min e f
    let x : Int := (if p then -1 else 1) * ((n * 2 ^ (e - g).toNat : Nat) : Int)
    let y : Int := (if q then -1 else 1) * ((m * 2 ^ (f - g).toNat : Nat) : Int)
    let z := x + y
    if z = 0 then .fin (if p = q then p else decide (mode = 3)) 0 0 else .fin (z < 0) z.natAbs g

/-- The quotient of finite values with a sticky last bit, 100 bits beyond the operands' own (09 R197). Inf/Inf and 0/0
are invalid; a divisor of zero gives an infinity, whose flag the caller sets. -/
def divVal (a b : Val) : Val :=
  match a, b with
  | .nan s, .nan t => .nan (s || t)
  | .nan s, _ => .nan s
  | _, .nan t => .nan t
  | .inf _, .inf _ => .nan true
  | .inf p, .fin q _ _ => .inf (p != q)
  | .fin p _ _, .inf q => .fin (p != q) 0 0
  | .fin p n e, .fin q m f =>
    if m = 0 then (if n = 0 then .nan true else .inf (p != q))
    else
      let k := 100 + Nat.log2 m
      let d := n * 2 ^ k
      .fin (p != q) (2 * (d / m) + (if d % m = 0 then 0 else 1)) (e - f - k - 1)

/-- a below b, for values that are not NaN; −0 is not below +0. -/
def ltVal (a b : Val) : Bool :=
  match a, b with
  | .inf p, .inf q => p && !q
  | .inf p, .fin _ _ _ => p
  | .fin _ _ _, .inf q => !q
  | .fin p n e, .fin q m f =>
    if n = 0 ∧ m = 0 then false
    else if n = 0 then !q
    else if m = 0 then p
    else if p && !q then true
    else if !p && q then false
    else if p then ltDyadic m f n e
    else ltDyadic n e m f
  | _, _ => false

/-- The NaN rule of R145 over the operands: canonical NaN, INVALID for a signalling one. -/
def nanRule (ty : Nat) (vs : List Val) : Option (Nat × BitVec 6) :=
  if vs.any Val.isNan then some (canonNan ty, flagIf (vs.any Val.isSnan) fInvalid) else none

end Sys2Proof.Machine
end

