-- ==== Sys2Proof/Machine/PoolBytes.lean ====
section
/-!
DEFINITION. The core pool as a read sees it (05 R84-R89): its division, the granules that carry a tag, its bytes, and what a
read of them is causally after (11 R240); the watches that a write to it ends (11 R426).
-/

namespace Sys2Proof.Machine

/-! ## The division of the pool (05 R84-R86) -/

/-- RS in bytes. -/
def rsBytes (partw : Word) : Nat := (fieldOf partw 2 0 + 1) * 1024
/-- A in bytes. -/
def accBytes (partw : Word) : Nat := match fieldOf partw 5 4 with
  | 0 => 0 | 1 => 4096 | 2 => 8192 | _ => 16384
/-- INBOXK in bytes. -/
def inboxBytes (partw : Word) : Nat := fieldOf partw 15 12 * 1024
/-- First byte of the user scratchpad. -/
def padBase (partw : Word) : Nat := 4 * rsBytes partw + accBytes partw
/-- First byte after it; 0x9800 is where the undo windows begin. -/
def padEnd (partw : Word) : Nat := 0x9800 - inboxBytes partw

/-! ## Tags (05 R88) -/

/-- The processes whose pool lies in a core. -/
def State.residents (s : State) (core : Nat) : List Proc :=
  (s.procs.map Prod.snd).filter fun p => p.core == core && p.state != .exited && p.state != .swapped

/-- Offset `off` lies in an (offset, size) region. -/
def within (r : Nat × Nat) (off : Nat) : Bool := decide (r.1 ≤ off) && decide (off < r.1 + r.2)

/-- The granule of an offset carries a tag (R88): register space, accumulator storage, landing regions. -/
def State.tagged (s : State) (core off : Nat) : Bool :=
  decide (off < padBase (s.core core).partw) || (s.residents core).any fun p => within p.land off

/-- First byte of a process's accumulator tiles, and their size. -/
def Proc.tileRange (p : Proc) (partw : Word) : Nat × Nat := (4 * rsBytes partw + p.tiles.1 * 4096, p.tiles.2 * 4096)

/-- The tag of granule `g`. -/
def Core.tag (c : Core) (g : Nat) : BitVec 5 := find c.tags g 0#5

/-- The tag of a type (R88). -/
def tagOf (ty : Nat) : BitVec 5 := BitVec.ofNat 5 (16 + ty % 16)

/-- The tag is valid. -/
def tagValid (t : BitVec 5) : Bool := t.getLsbD 4

/-- The granules that `n` bytes from `off` touch. -/
def granulesOf (off n : Nat) : List Nat :=
  if n = 0 then [] else rangeFrom (off / 64) ((off + n - 1) / 64 - off / 64 + 1)

/-! ## Bytes -/

/-- The 8-byte words, by address / 8, that `n` bytes from `a` touch. -/
def wordsOf (a n : Nat) : List Nat :=
  if n = 0 then [] else rangeFrom (a / 8) ((a + n - 1) / 8 - a / 8 + 1)

/-- One byte of a pool as a read sees it: a NONE granule reads zero (R89). -/
def State.poolByte (s : State) (core off : Nat) : Byte :=
  let c := s.core core
  if s.tagged core off && !tagValid (c.tag (off / 64)) then 0#8 else readByte c.pool off

/-- Bytes of a pool as a read sees them. -/
def State.poolBytes (s : State) (core off n : Nat) : List Byte := (rangeFrom off n).map fun o => s.poolByte core o

/-- What a read of pool bytes is after. -/
def State.poolKnown (s : State) (core off n : Nat) : Know :=
  (wordsOf off n).foldl (fun k w => joinKnow k (find (s.core core).poolKnow w [])) []

/-! ## Watches (11 R426) -/

/-- A reply to a context: of this device, or through a response packet of the pod to another. -/
def State.reply (s : State) (core ctx : Nat) (far : Option (Nat × Nat)) (part : Nat) (r : Reply) : State :=
  match far with
  | none => s.modCtx core ctx fun c =>
    match c.pend with
    | some p => { c with pend := some { p with reply := some r } }
    | none => c
  | some (dev, req) =>
    { s with inject := s.inject ++ [{ src := s.devidx, dst := dev, core := core, ctx := ctx, part := part, cls := 1,
                                      since := s.cyc, body := .reply req r }] }

/-- Ends the watches on the 64-byte granules of a core's pool that a write touches (R426). -/
def State.endPadWatches (s : State) (core lo n : Nat) : State :=
  let hit := fun (w : Watch) => decide (lo / 64 ≤ w.addr / 64) && decide (w.addr / 64 ≤ (lo + n - 1) / 64)
  let ws := (s.core core).watches.filter hit
  if n = 0 || ws.isEmpty then s
  else
    let s := s.modCore core fun c => { c with watches := c.watches.filter fun w => !hit w }
    ws.foldl (fun s w =>
      s.reply w.core w.ctx w.far 0
        { value := wordOf (natOfBytes (s.poolBytes core w.addr w.width)), status := 1
          know := s.poolKnown core w.addr w.width }) s

end Sys2Proof.Machine
end

