-- ==== Sys2Proof/Machine/Rollback.lean ====
section
/-!
DEFINITION. Tags and job records (06 R116, 10 R227), the withdrawal of an outbox (15 R373), the undo window (15 R371),
the redelivery of a message (13 R311) and the rollback of an activation after a hardware error (15 R370-R376).
-/

namespace Sys2Proof.Machine

/-! ## Tags -/

/-- Bit `k` of a word set or cleared. -/
def setBit (w : Word) (k : Nat) (v : Bool) : Word :=
  if v then w ||| (1#64 <<< k) else w &&& ~~~(1#64 <<< k)

/-- The count of a tag. -/
def Core.tagCount (c : Core) (k : Nat) : Nat := find c.tagCnt k 0

/-- Issue of a command that names tag `k` (06 R116): at count 0 the completion and error bits clear; the count rises. -/
def Core.tagIssue (c : Core) (k : Nat) : Core :=
  let c := if c.tagCount k = 0 then { c with tagDone := setBit c.tagDone k false, tagErr := setBit c.tagErr k false } else c
  { c with tagCnt := put c.tagCnt k (c.tagCount k + 1) }

/-- A command that named tag `k` ends (06 R116): a failure or cancellation sets the error bit; the count falls; at 0 the
completion bit is set. -/
def Core.tagEnd (c : Core) (k : Nat) (err : Bool) : Core :=
  let n := c.tagCount k - 1
  let c := if err then { c with tagErr := setBit c.tagErr k true } else c
  let c := { c with tagCnt := put c.tagCnt k n }
  if n = 0 then { c with tagDone := setBit c.tagDone k true } else c

/-- The record of a job sequence (10 R227): none is pending, some k is status k, 4 when no job had it. -/
def Core.jobStatus (c : Core) (seq : Nat) : Option Nat := find c.jobs seq (some 4)

/-- A job ends with a status (10 R227): its record takes the status, unless a later job was issued with its sequence. -/
def Core.jobEnd (c : Core) (j : MJob) (status : Nat) : Core :=
  if look c.jobNum j.seq = some j.num then { c with jobs := put c.jobs j.seq (some status) } else c

/-- FWINw after its filling command was withdrawn (15 R373): inactive, FAILED clear, MARK equal to START. -/
def fwinWithdrawn (w : Word) : Word :=
  wordOf (at_ (fieldOf w 61 16) 46 16 + at_ (fieldOf w 47 32) 16 0)

/-! ## Withdrawal (15 R373) -/

/-- The effect of withdrawing one entry of an outbox of core `n`. -/
def State.withdrawOne (s : State) (n : Nat) : OutEntry → State
  | .copy c =>
    s.modCore n fun k =>
      let k := k.tagEnd c.tag false
      match c.op with
      | .fillw => { k with fwin := if h : c.win < 8 then k.fwin.set c.win (fwinWithdrawn (k.fwin[c.win]'h)) else k.fwin }
      | _ => k
  | .job j => s.modCore n fun k => (k.tagEnd j.tag false).jobEnd j 3
  | _ => s

/-- Drops the outbox of a context unsent and withdraws its commands and jobs. -/
def State.dropOutbox (s : State) (n k : Nat) : State :=
  let out := (s.ctx n k).outbox
  let s := s.modCtx n k fun c => { c with outbox := [], gone := [] }
  out.foldl (fun s e => s.withdrawOne n e) s

/-! ## Undo, redelivery, freeing -/

/-- Writes the undo lines back, newest first (15 R372): writes like any other, which end watches (11 R426). -/
def State.restoreUndo (s : State) (n k : Nat) : State :=
  let lines := (s.ctx n k).undo
  let s := s.modCore n fun c => { c with pool := lines.foldl (fun m l => writeBytes m l.1 l.2) c.pool }
  (lines.foldl (fun s l => s.endPadWatches n l.1 32) s).modCtx n k fun c => { c with undo := [] }

/-- A context that holds no activation: what the next start sets anew is at its reset value; the counts of remote
stores with their interval (12 R272) and the numbers of register stores (14 R351) belong to the context and stay. -/
def Ctx.freed (c : Ctx) : Ctx := { ({} : Ctx) with sent := c.sent, interval := c.interval, gstvSeq := c.gstvSeq }

/-- Frees a context. -/
def State.freeCtx (s : State) (n k : Nat) : State := s.modCtx n k Ctx.freed

/-- A data message that was dispatched goes back to the inbox of its end, in whatever register of the process that end is
held: the end's handle expects its sequence again, and the sequences passed over since stand as settled. When the process
holds the end no more, the message follows it through its home (13 R308). -/
def State.redeliverData (s : State) (a : Activation) (m : Msg) : State :=
  let p := s.proc a.slot
  match p.holds? m.chid true with
  | some k =>
    let s := s.modCore p.core fun c =>
      { c with inboxes := c.inboxes.map fun i =>
          if i.chid = m.chid then { i with held := m :: i.held, settled := i.passed ++ i.settled, passed := [] } else i }
    if m.again then s
    else s.modProc a.slot fun p =>
      let r := p.endAt k
      { p with ends := put p.ends k { r with handle := hSetSeq r.handle m.seq } }
  | none => s.toHome p.core m.chid m.home a.part (.toHome { m with again := true, ends := [], lands := [] })

/-- The message or event that started the activation becomes runnable again, before any later one of its end
(13 R311). What the rolled-back activation performed outside the pool comes before its re-execution, which overwrites it
(15 R371). -/
def State.redeliver (s : State) (a : Activation) (know : Know) : State :=
  match a.evt with
  | some e => s.modProc a.slot fun p => { p with events := { e with know := joinKnow e.know know } :: p.events }
  | none =>
    match a.msg with
    | none => s
    | some m =>
      let m := { m with know := joinKnow m.know know }
      match m.kind with
      | .data => s.redeliverData a m
      | _ => s.modProc a.slot fun p => { p with starts := m :: p.starts }

/-- Rollback (15 R372): the instructions in flight are dropped, with a watch (11 R261); the outbox is dropped, the undo lines are written back, the message becomes runnable again, the
context is freed. -/
def State.rollback (s : State) (n k : Nat) : State :=
  let c := s.ctx n k
  match c.act with
  | none => s.freeCtx n k
  | some a =>
    let s := (s.dropWatches n k).dropOutbox n k
    let s := s.restoreUndo n k
    let s := s.redeliver a (s.knows (agentOf s.devidx n k))
    let s := s.count a.part 14 1
    s.freeCtx n k

/-- Rolls the activation of a context back; where its process is restartable, the scheduler then moves the process before
the activation runs again (15 R374). -/
def State.rerun (s : State) (n k : Nat) : State :=
  let t := s.rollback n k
  match (s.ctx n k).act with
  | some a => if a.restartable then t.modProc a.slot fun p => { p with moving := true } else t
  | none => t

/-! ## Hardware errors (15 R370-R376) -/

/-- Notes a hardware error of a core; the third within a second retires it (15 R376). -/
def State.noteError (s : State) (n : Nat) : State :=
  s.modCore n fun c =>
    let e := (s.time :: c.errors).filter fun t => decide (s.time < t + 1000000000)
    { c with errors := e, retired := c.retired || decide (3 ≤ e.length) }

/-- A hardware error of the activation in a context: 1 checker, 2 special-function unit, 3 uncorrectable data. A
rollable activation is rolled back, and a restartable process is then moved (15 R374); an unrollable one parks with
SEALED_ERROR (15 R375). -/
def State.hardwareError (s : State) (n k kind : Nat) : State :=
  let c := s.ctx n k
  let s := s.noteError n
  if c.rollable then
    s.rerun n k
  else
    (s.setCtx n k { c.untake with hints := [], eprog := {}, hinted := 0, pc := c.nextA }).park n k .sealedError 3 c.nextA c.nextE
      (wordOf kind) 0#64

end Sys2Proof.Machine
end

