-- ==== Sys2Proof/Machine/Half.lean ====
section
/-!
DEFINITION. How an instruction meets its half: routing of E words (01 R16, 15 R358), the hints an instruction accepts
(08 R184-R188), the wait of R359, retirement, waits and faults, and disturbances of the hardware (01 R22, 15 R370).
Every meaning of an instruction word is a body under `aHalf` or `eHalf`.
-/

namespace Sys2Proof.Machine

/-- What one step answers. -/
abbrev Out := Host.Outcome State Fault Refusal

/-! ## Which hints an instruction accepts -/

/-- I- and VI-format instructions that take HIMM (02 R28). -/
def takesHimm : Instr → Bool
  | .addi .. | .andi .. | .ori .. | .xori .. | .slti .. | .sltni .. | .muli .. | .lui ..
  | .vaddi .. | .vmuli .. | .vmaxi .. | .vseti .. => true
  | _ => false

/-- Conditional branches that take HBR (08 R188). -/
def takesHbr : Instr → Bool
  | .beq .. | .bne .. | .blt .. | .bge .. | .bltn .. | .bgen .. | .bp .. | .dbnz .. => true
  | _ => false

/-- COPY-group commands but CPYCAN. -/
def isCopy : Instr → Bool
  | .cpy .. | .cpyred .. | .gath .. | .scat .. | .halo .. | .strm .. | .fillw .. => true
  | _ => false

/-- HALO, which converts nothing (08 R187 leaves it out of RND and SAT). -/
def isHalo : Instr → Bool
  | .halo .. => true
  | _ => false

/-- MMA, MMAS, MROT. -/
def isMulJob : Instr → Bool
  | .mma .. | .mmas .. | .mrot .. => true
  | _ => false

/-- Special functions (09 R212). -/
def isSfu : Instr → Bool
  | .vexp2 .. | .vexp .. | .vlog2 .. | .vln .. | .vrcp .. | .vrsqrt .. | .vsqrt ..
  | .vsin .. | .vcos .. | .vtanh .. | .vsigm .. | .vgelu .. | .vsilu .. | .verf .. => true
  | _ => false

/-- Instructions of majors 0x25 to 0x2D. -/
def isVector (i : Instr) : Bool :=
  let m := (major (encode i)).toNat
  decide (0x25 ≤ m) && decide (m ≤ 0x2D)

/-- SAT (08 R173, 09 R193, 08 R187). -/
def takesSat (i : Instr) : Bool :=
  match i with
  | .add .. | .sub .. | .mul .. | .addi .. | .muli .. => true
  | .vadd .. | .vsub .. | .vmul .. | .vfma .. | .vfms .. | .vnfma .. | .vabs ..
  | .vneg .. | .viota .. | .vaddi .. | .vmuli .. | .vcvt .. => true
  | _ => isCopy i && !isHalo i

/-- CACHE (08 R187). -/
def takesCache (i : Instr) : Bool :=
  match i with
  | .ld .. | .st .. | .ldro .. | .ldq .. | .stq .. | .pref .. => true
  | _ => isCopy i

/-- SCOPE (08 R187): LD.acq, ST.rel, atomics with an ordering bit, GSTV. -/
def takesScope : Instr → Bool
  | .ld _ _ _ _ a => a == 1#1
  | .st _ _ _ _ r => r == 1#1
  | .aadd _ _ _ r q | .aand _ _ _ r q | .aor _ _ _ r q | .axor _ _ _ r q | .amin _ _ _ r q | .amax _ _ _ r q
  | .aminn _ _ _ r q | .amaxn _ _ _ r q | .aswap _ _ _ r q | .acas _ _ _ r q | .afadd _ _ _ r q => r == 1#1 || q == 1#1
  | .waita _ _ _ q => q == 1#1
  | .gstv .. => true
  | _ => false

/-- ORD (08 R187): ST, GSTV and copies; that a copy's destination is REMOTE is tested where it is read (log 60). -/
def takesOrd (i : Instr) : Bool :=
  match i with
  | .st .. | .gstv .. => true
  | _ => isCopy i && !isHalo i

/-- The hint group of an instruction is allowed (02 R28, 08 R187, R188). -/
def hintsAllowed (i : Instr) (h : Hints) : Bool :=
  let m := h.hmod
  (h.himm.isEmpty || takesHimm i)
    && (h.hbr.isNone || takesHbr i)
    && (m.rnd == 0 || (isVector i && !isSfu i) || (isCopy i && !isHalo i))
    && (!m.sat || takesSat i)
    && (m.pred == 0 || isVector i)
    && (!m.ord || takesOrd i)
    && (!m.areuse || isMulJob i)
    && (m.bar == 0 || isCopy i || isMulJob i)
    && (m.cache == 0 || takesCache i)
    && (m.scope == 0 || takesScope i)

/-- The offending word of a group, if any (02 R40): a hint whose payload is not allowed, else the modified instruction
whose hints are not accepted. -/
def groupFault (i : Instr) (ws : List EWord) : Option (BitVec 32) :=
  match ws.find? (fun w => match decode w.word with | .ok .. => false | .error .. => true) with
  | some w => some w.word
  | none => if hintsAllowed i (hintsOf ws) then none else some (encode i)

/-! ## What waits for what -/

/-- A-half instructions with an external effect (15 R359): they wait until every older E instruction has retired. The
instructions of chapter 08, loads, LDRO, LAYGET, PREF, EINFO and MFS do not; MTS does. -/
def external : Instr → Bool
  | .trap .. | .eret | .mts .. | .park .. | .ctxsave | .ctxrest => true
  | .st .. | .stq .. | .layset .. | .laysub .. => true
  | .aadd .. | .aand .. | .aor .. | .axor .. | .amin .. | .amax ..
  | .aminn .. | .amaxn .. | .aswap .. | .acas .. | .afadd ..
  | .waita .. => true
  | .fence .. | .qfence .. | .rosync => true
  | .chnew .. | .send .. | .sende .. | .eclose .. | .ebind .. | .emask .. | .spawn .. | .hend ..
  | .hseal | .rateset .. | .rateget .. => true
  | .gname .. | .gstv .. | .ghold .. | .gwait .. => true
  | .barinit .. | .bararr .. | .barwait .. | .bartest .. => true
  | .waitany .. | .waitall .. | .ffr .. | .tagclr .. => true
  | .cpy .. | .cpyred .. | .gath .. | .scat .. | .halo .. | .strm .. | .fillw ..
  | .cpycan .. => true
  | .mma .. | .mmas .. | .mrot .. | .mzero .. | .mrd .. | .mwait .. | .mpoll .. | .mcan .. => true
  | .lgraph .. | .lwait .. => true
  | _ => false

/-! ## The A half -/

/-- The state after an A-half instruction retired: the hints are spent and control goes to `pc`. -/
def State.retireA (s : State) (pc : Nat) : State :=
  let s := s.modActor fun c =>
    { c with hints := [], pc := BitVec.ofNat 52 pc, stallA := .none, waitA := none }
  s.count s.activity.part 2 1

/-- How a body of the A half ends (`Disp`). -/
def State.finishA (s : State) (d : Disp) : State :=
  match d with
  | .retire => s.retireA (s.actor.pc.toNat + 4)
  | .jump t => s.retireA t
  | .hold why q => s.stall s.turn.core s.turn.ctx .A why q
  | .broken code x => s.raiseA s.turn.core s.turn.ctx code x 0#64
  | .left => s

/-- The A half can issue: the context runs its activation and no A fault is pending. -/
def Ctx.issues (c : Ctx) : Bool := decide (c.status = .running) && c.afault.isNone

/-- The disturbance of an instruction as a hardware error (15 R370), if it is one. -/
def Upset.error : Upset → Option Nat
  | .checkerTwice => some 1
  | .sfuTwice => some 2
  | .badData => some 3
  | _ => Option.none

/-- A checker mismatch of the instruction in hand: it is replayed, and the replay counted (01 R22, 23 R408). -/
def State.noteReplay (s : State) : State :=
  if s.turn.upset = .checkerOnce || s.turn.upset = .checkerTwice then s.count s.activity.part 15 1 else s

/-- An instruction of the A half. A context that is not running does not issue. The E words that a pre-emption routine
finds queued do not run in it, and an external effect does not wait for them there (15 R362, R366, log 8). -/
def aHalf (i : Instr) (body : Hints → M Disp) (s : State) : Out :=
  let n := s.turn.core
  let k := s.turn.ctx
  let c := s.actor
  if !c.issues then .next s
  else match s.turn.upset.error with
  | some kind => .next (s.noteReplay.hardwareError n k kind)
  | none =>
    if s.turn.upset = .checkerOnce then .next (s.noteReplay.stall n k .A .checkerReplay none)
    else match groupFault i c.hints with
    | some w => .next (s.raiseA n k .illegal (w.setWidth 64) 0#64)
    | none =>
      if external i && !c.routine && !c.eq.isEmpty then .next (s.stall n k .A .scoreboard none)
      else match body (hintsOf c.hints) s with
        | .ok (d, t) => .next (t.finishA d)
        | .error (.fault code x extra) => .next (s.raiseA n k code x extra)
        | .error (.wait why q) => .next (s.stall n k .A why q)

/-- A half of context `k` of core `n` has issued in this clock, unless it stands waiting: its selector remembers the context
(01 R17). `sent` tells that what it waits for is the reply of a request that it has just sent. -/
def State.noteIssued (s : State) (n k : Nat) (h : Half) (sent : Bool) : State :=
  let c := s.ctx n k
  match h with
  | .A => if c.stallA = .none || sent then s.modCore n fun x => { x with lastA := k, usedA := some s.cyc } else s
  | .E => if c.stallE = .none then s.modCore n fun x => { x with lastE := k, usedE := some s.cyc } else s

/-! ## The E half -/

/-- The E half of a context has something to do. -/
def Ctx.readyE (c : Ctx) : Bool := decide (c.status = .running) && !c.routine && !c.eq.isEmpty

/-- The E half of the core can take a routed word in this very clock: it has not issued, no other context of the core is ready
(01 R17), and for a special function no other core of the cluster runs anything (01 R12). -/
def State.eFree (s : State) (n k : Nat) (i : Instr) : Bool :=
  (s.core n).usedE != some s.cyc
    && (rangeFrom 0 4).all (fun j => j == k || !(s.ctx n j).readyE)
    && (!isSfu i || (rangeFrom (n / 8 * 8) 8).all fun m => m == n || (rangeFrom 0 4).all fun j => (s.ctx m j).status != .running)

/-- The state after the E half's head group retired (07 R163): its words leave the queue, its flags are set; a pending A
fault settles when the queue has drained (15 R358). -/
def State.retireE (s : State) : State :=
  let n := s.turn.core
  let k := s.turn.ctx
  let s := s.modActor fun c =>
    { c with eq := c.eq.drop (headGroup c.eq).length, flags := c.flags ||| c.eprog.flags, eprog := {}, hinted := 0,
             stallE := .none, waitE := none }
  let s := s.count s.activity.part 3 1
  if (s.ctx n k).eq.isEmpty then s.settleFault n k else s

/-- How a body of the E half ends. -/
def State.finishE (s : State) (d : Disp) : State :=
  match d with
  | .retire | .jump .. => s.retireE
  | .hold why q => s.stall s.turn.core s.turn.ctx .E why q
  | .broken code x => (s.modActor Ctx.untake).raiseE s.turn.core s.turn.ctx code x 0#64
  | .left => s

/-- The head instruction of the E queue runs. -/
def runE (i : Instr) (body : Hints → M Disp) (s : State) : State :=
  let n := s.turn.core
  let k := s.turn.ctx
  let c := s.actor
  match s.turn.upset.error with
  | some kind => s.noteReplay.hardwareError n k kind
  | none =>
    let ws := (headGroup c.eq).dropLast
    if s.turn.upset = .checkerOnce then s.noteReplay.stall n k .E .checkerReplay none
    else match groupFault i ws with
    | some w => s.raiseE n k .illegal (w.setWidth 64) 0#64
    | none =>
      match body (hintsOf ws) s with
        | .ok (d, t) => t.finishE d
        | .error (.fault code x extra) => (s.modActor Ctx.untake).raiseE n k code x extra
        | .error (.wait why q) => s.stall n k .E why q

/-- The A half's front end routes a group into the E queue, which holds 8 words (15 R358). -/
def State.routeE (s : State) (i : Instr) : State :=
  s.modActor fun c =>
    { c with eq := c.eq ++ c.hints ++ [{ addr := c.pc.toNat, word := encode i }], hints := [], pc := c.pc + 4#52,
             stallA := .none, waitA := none }

/-- The word that makes an instruction of the E half illegal wherever it stands (02 R40): one of its hints, or its own where it is
no instruction; no word for an instruction that only a routine makes illegal. -/
def illegalIn (i : Instr) (ws : List EWord) : Word := match groupFault i ws, i with
  | some w, _ => w.setWidth 64
  | none, .illegalWord w => w.setWidth 64
  | none, _ => 0#64

/-- An E-half instruction fetched in a vectored routine raises ILLEGAL (15 R362): the words queued before stay, and
FAULTA and FAULTE name the instruction (log 8); a word that is no instruction stands in FAULTX (02 R40). -/
def State.routineE (s : State) (n k : Nat) (i : Instr) : State :=
  let c := s.ctx n k
  (s.setCtx n k { c with hints := [], pc := c.nextA }).park n k .illegal 2 c.nextA c.nextA (illegalIn i c.hints) 0#64

/-- An instruction of the E half. On the A half's turn the front end routes it, and the E half, where it is free in this clock
and its queue is empty, runs it at once, unless hints come first, which take issue slots of their own (02 R29); on the E half's
turn the head of the queue runs. -/
def eHalf (i : Instr) (body : Hints → M Disp) (s : State) : Out :=
  let c := s.actor
  match s.turn.half with
  | .A =>
    if !c.issues then .next s
    else if c.routine then .next (s.routineE s.turn.core s.turn.ctx i)
    else if 8 < c.eq.length + c.hints.length + 1 then .next (s.stall s.turn.core s.turn.ctx .A .q23 none)
    else if c.eq.isEmpty && c.hints.isEmpty && s.eFree s.turn.core s.turn.ctx i then
      .next ((runE i body (s.routeE i)).noteIssued s.turn.core s.turn.ctx .E false)
    else .next (s.routeE i)
  | .E =>
    if decide (c.status = .running) && !c.routine && !c.eq.isEmpty then .next (runE i body s) else .next s

/-! ## Hints as instructions (01 R17, 08 R184-R188) -/

/-- A hint is fetched: it waits for the instruction it modifies (02 R29, R31). -/
def fetchHint (w : BitVec 32) (s : State) : Out :=
  if !s.actor.issues || decide (s.turn.half = .E) then .next s
  else .next (s.modActor fun c =>
    { c with hints := c.hints ++ [{ addr := c.pc.toNat, word := w }], pc := c.pc + 4#52, stallA := .none,
             waitA := none })

/-- HSTALL is fetched: an A instruction that it modifies is no candidate for `n` clocks (08 R184). For an E instruction the hint
issues in the E half (`State.issueHint`). -/
def fetchStall (n : Nat) (w : BitVec 32) (s : State) : Out :=
  if !s.actor.issues || decide (s.turn.half = .E) then .next s
  else fetchHint w (s.modActor fun c => { c with heldTo := s.cyc + n, lost := false })

end Sys2Proof.Machine
end

