-- ==== Sys2Proof/Machine/Operands.lean ====
section
/-!
DEFINITION. Every operand form of the A half: register fields with their queue aliases (02 R32-R34), widened immediates
(02 R28), branch targets (02 R26, 08 R182), register ranges and boxes (05 R105).
-/

namespace Sys2Proof.Machine

/-! ## Registers -/

/-- A source field (02 R32): a0 reads zero, a30 pops one entry of q3. Field 31 is no source here (`Instr.wellFormed`). -/
def readA (r : BitVec 5) : M Word := do
  if r = 0#5 then pure 0#64
  else if r = 30#5 then
    let c ← me
    match c.q3 with
    | [] => waitQueue .q23 { queue := 3, push := false, need := 1 }
    | x :: q => do
      modMe fun c => { c with q3 := q }
      pure x
  else if r = 31#5 then illegal
  else do
    let c ← me
    pure (c.a[r.toNat]'r.isLt)

/-- Room for one more entry of q2, which a destination field 30 pushes. A write takes place after all pops (02 R34). -/
def pushQ2 (v : Word) : M Unit := do
  let c ← me
  if c.q2.length < 8 then modMe fun c => { c with q2 := c.q2 ++ [v] }
  else waitQueue .q23 { queue := 2, push := true, need := 1 }

/-- A destination field (02 R32): a0 discards, a30 pushes one entry of q2. -/
def writeA (r : BitVec 5) (v : Word) : M Unit := do
  if r = 0#5 then pure ()
  else if r = 30#5 then pushQ2 v
  else if r = 31#5 then illegal
  else modMe fun c => { c with a := c.a.set r.toNat v r.isLt }

/-- Register `b + k` of a range that starts at field `b` (02 R33); a0 reads zero, and a range never reaches a30. -/
def regAt (b : BitVec 5) (k : Nat) : M Word := do
  let c ← me
  let j := b.toNat + k
  if j = 0 then pure 0#64
  else if h : j < 30 then pure (c.a[j]'(by omega))
  else illegal

/-- The `k` registers from field `b`. -/
def regsAt (b : BitVec 5) : Nat → Nat → M (List Word)
  | _, 0 => pure []
  | j, k + 1 => do
    let x ← regAt b j
    let xs ← regsAt b (j + 1) k
    pure (x :: xs)

/-- Writes a range of registers from field `b` (05 R107 LAYGET). -/
def writeRegs (b : BitVec 5) : Nat → List Word → M Unit
  | _, [] => pure ()
  | j, x :: xs => do
    let k := b.toNat + j
    if k = 0 then writeRegs b (j + 1) xs
    else if h : k < 30 then do
      modMe fun c => { c with a := c.a.set k x (by omega) }
      writeRegs b (j + 1) xs
    else illegal

/-! ## Immediates (02 R28) -/

/-- The widened immediate and its width. -/
def widen (h : Hints) (imm : BitVec 16) : Nat × Nat :=
  match h.himm with
  | [] => (imm.toNat, 16)
  | [p] => (p.toNat * 2 ^ 16 + imm.toNat, 38)
  | p :: q :: _ => (p.toNat * 2 ^ 38 + q.toNat * 2 ^ 16 + imm.toNat, 60)

/-- sext(v, n) as a 64-bit pattern. -/
def immS (h : Hints) (imm : BitVec 16) : Word :=
  let v := widen h imm
  wordOfInt (signedOf v.2 v.1)

/-- zext(v, n). -/
def immZ (h : Hints) (imm : BitVec 16) : Word := wordOf (widen h imm).1

/-- LUI's value: (sext(v, n) × 2^16) mod 2^64. -/
def immL (h : Hints) (imm : BitVec 16) : Word := immS h imm <<< 16

/-! ## Targets (02 R26, 08 R182) -/

/-- A computed target: one with bit 0 or 1 set, or outside 0 to 2^52 − 1, raises ILLEGAL with the target in FAULTX. -/
def checkTarget (t : Int) : M Nat := do
  if t < 0 ∨ (2 ^ 52 : Int) ≤ t ∨ t.toNat % 4 ≠ 0 then failWith .illegal (wordOfInt t)
  else pure t.toNat

/-- The instruction's own address plus 4·disp. -/
def branchTarget (disp : Int) : M Nat := do
  let c ← me
  checkTarget ((c.pc.toNat : Int) + 4 * disp)

/-- A transfer to a register's value. -/
def registerTarget (t : Word) : M Nat := do
  if t.toNat < 2 ^ 52 ∧ t.toNat % 4 = 0 then pure t.toNat else failWith .illegal t

/-! ## Layout entries and boxes (05 R98, R105) -/

/-- SPACE: 0 HBM, 1 REMOTE, 2 SPAD, 3 LANDING, 4 HOST, 5 CXL, 6 DEVREG. -/
def laySpace (e : BitVec 512) : Nat := fieldOf e 2 0
/-- TYPE -/
def layType (e : BitVec 512) : Nat := fieldOf e 39 36
/-- the rank, 1 to 4 -/
def layRank (e : BitVec 512) : Nat := fieldOf e 35 34 + 1
/-- OOR: 0 FAULT, 1 ZERO, 2 CLAMP -/
def layOor (e : BitVec 512) : Nat := fieldOf e 33 32
/-- DIM i -/
def layDim (e : BitVec 512) (i : Nat) : Nat := fieldOf e (287 + 32 * i) (256 + 32 * i)
/-- STRIDE i, signed elements -/
def layStride (e : BitVec 512) (i : Nat) : Int := signedOf 32 (fieldOf e (415 + 32 * i) (384 + 32 * i))
/-- VBASE -/
def layVbase (e : BitVec 512) : Nat := fieldOf e 179 128
/-- SBASE -/
def laySbase (e : BitVec 512) : Nat := fieldOf e 243 192
/-- SWZMASK -/
def laySwzMask (e : BitVec 512) : Nat := fieldOf e 95 80
/-- SWZSHIFT -/
def laySwzShift (e : BitVec 512) : Nat := fieldOf e 79 76
/-- WEXP -/
def layWexp (e : BitVec 512) : Int := signedOf 8 (fieldOf e 75 68)
/-- DEV -/
def layDev (e : BitVec 512) : Nat := fieldOf e 63 56
/-- SPREAD as a number of paths -/
def laySpread (e : BitVec 512) : Nat := 2 ^ fieldOf e 55 54
/-- ROP -/
def layRop (e : BitVec 512) : Bool := fieldOf e 23 23 = 1
/-- RED -/
def layRed (e : BitVec 512) : Bool := fieldOf e 22 22 = 1
/-- RRD -/
def layRrd (e : BitVec 512) : Bool := fieldOf e 18 18 = 1
/-- RWR -/
def layRwr (e : BitVec 512) : Bool := fieldOf e 17 17 = 1
/-- RAT -/
def layRat (e : BitVec 512) : Bool := fieldOf e 16 16 = 1

/-- Layout entry L of a process. Entries L0-L15 are bound: SPACE is SPAD and VBASE names the region's core and offset
(05 R100). An entry beyond the image's is all zero (14 R329). -/
def Proc.layout (p : Proc) (l : Nat) : BitVec 512 :=
  let e := find p.layouts l 0#512
  if l < 16 then
    let r := find p.regions l (0, 0)
    setField (setField e 2 0 2) 179 128 (at_ p.core 14 16 + at_ r.1 16 0)
  else e

/-- The four 16-bit fields of a box word (05 R105). -/
def boxFields (w : Word) : List Nat := [fieldOf w 15 0, fieldOf w 31 16, fieldOf w 47 32, fieldOf w 63 48]

/-- A box from its three registers: bits 63:8 of word 0 and the fields beyond the rank must be zero, else ILLEGAL. -/
def readBox (b : BitVec 5) : M Box := do
  let w0 ← regAt b 0
  let w1 ← regAt b 1
  let w2 ← regAt b 2
  require (decide (w0.toNat < 256))
  let p ← myProc
  let e := p.layout w0.toNat
  let r := layRank e
  let start := boxFields w1
  let ext := boxFields w2
  require ((start.drop r).all (· == 0) && (ext.drop r).all (· == 0))
  pure { lid := w0.toNat, entry := e, start := start.take r, ext := ext.take r }

/-- The element count of a box: the product of its extents (06 R120). -/
def Box.count (b : Box) : Nat := b.ext.foldl (· * ·) 1

/-- The coordinates of element `k` of a walk over extents, dimension 0 fastest. -/
def unrank : List Nat → Nat → List Nat
  | [], _ => []
  | d :: ds, k => (if d = 0 then 0 else k % d) :: unrank ds (if d = 0 then 0 else k / d)

/-- The coordinates of element `k` of a box's walk. -/
def Box.coords (b : Box) (k : Nat) : List Int :=
  (b.start.zip (unrank b.ext k)).map fun p => ((p.1 + p.2 : Nat) : Int)

end Sys2Proof.Machine
end

