-- ==== Sys2Proof/Machine/Scalar.lean ====
section
/-!
DEFINITION. Integer operations, bit fields and immediate forms of the A half (08 R166-R176), one meaning per instruction
over the shared shapes below.
-/

namespace Sys2Proof.Machine

/-! ## Shapes -/

/-- d := f s t, s read before t (02 R34). -/
def alu3 (d s t : BitVec 5) (f : Word → Word → Word) : M Disp := do
  let x ← readA s
  let y ← readA t
  writeA d (f x y)
  pure .retire

/-- d := f s. -/
def alu2 (d s : BitVec 5) (f : Word → Word) : M Disp := do
  let x ← readA s
  writeA d (f x)
  pure .retire

/-- A result with flags (07 R167). -/
def alu3f (d s t : BitVec 5) (f : Word → Word → Word × BitVec 6) : M Disp := do
  let x ← readA s
  let y ← readA t
  let r := f x y
  writeA d r.1
  setFlags r.2
  pure .retire

/-- d := f s for an immediate form with flags. -/
def alu2f (d s : BitVec 5) (f : Word → Word × BitVec 6) : M Disp := do
  let x ← readA s
  let r := f x
  writeA d r.1
  setFlags r.2
  pure .retire

/-- 1 or 0. -/
def boolWord (b : Bool) : Word := if b then 1#64 else 0#64

/-! ## Functions of R170-R172, R176 -/

/-- x < y signed -/
def ltS (x y : Word) : Bool := x.slt y
/-- x < y unsigned -/
def ltU (x y : Word) : Bool := x.ult y
/-- the shift amount y[5:0] (R170) -/
def amount (y : Word) : Nat := y.toNat % 64
/-- x shifted left -/
def shl (x y : Word) : Word := x <<< amount y
/-- x shifted right logically -/
def shr (x y : Word) : Word := x >>> amount y
/-- x shifted right arithmetically -/
def sar (x y : Word) : Word := x.sshiftRight (amount y)
/-- x rotated left -/
def rotl (x y : Word) : Word := x.rotateLeft (amount y)
/-- x rotated right -/
def rotr (x y : Word) : Word := x.rotateRight (amount y)
/-- bits 127:64 of the signed product -/
def mulHighS (x y : Word) : Word := wordOfInt ((x.toInt * y.toInt).ediv (2 ^ 64))
/-- bits 127:64 of the unsigned product -/
def mulHighU (x y : Word) : Word := wordOf (x.toNat * y.toNat / 2 ^ 64)

/-- DIV (R171): truncating; divisor 0 gives all ones with DIVZERO; −2^63 by −1 gives −2^63. -/
def divS (x y : Word) : Word × BitVec 6 :=
  if y = 0#64 then (BitVec.allOnes 64, fDivZero) else (wordOfInt (x.toInt.tdiv y.toInt), 0#6)
/-- DIVN (R171) -/
def divU (x y : Word) : Word × BitVec 6 :=
  if y = 0#64 then (BitVec.allOnes 64, fDivZero) else (wordOf (x.toNat / y.toNat), 0#6)
/-- REM (R171): the remainder takes the dividend's sign; divisor 0 gives x with DIVZERO. -/
def remS (x y : Word) : Word × BitVec 6 :=
  if y = 0#64 then (x, fDivZero) else (wordOfInt (x.toInt.tmod y.toInt), 0#6)
/-- REMN (R171) -/
def remU (x y : Word) : Word × BitVec 6 :=
  if y = 0#64 then (x, fDivZero) else (wordOf (x.toNat % y.toNat), 0#6)

/-- leading zero bits among the low `n` bits of `x`, 64 for 0 (R170) -/
def leadingZeros (x : Word) : Nat → Nat
  | 0 => 64
  | n + 1 => if x.getLsbD n then 63 - n else leadingZeros x n
/-- trailing zero bits from bit `64 - n` up, 64 for 0 -/
def trailingZeros (x : Word) : Nat → Nat
  | 0 => 64
  | n + 1 => if x.getLsbD (63 - n) then 63 - n else trailingZeros x n
/-- one bits among the low `n` bits -/
def oneBits {w : Nat} (x : BitVec w) : Nat → Nat
  | 0 => 0
  | n + 1 => (if x.getLsbD n then 1 else 0) + oneBits x n
/-- the eight bytes reversed (R170) -/
def byteSwap (x : Word) : Word := wordOf (natOfBytes (bytesOfNat 8 x.toNat).reverse)

/-- HMIX (R172) -/
def hmixOf (x y : Word) : Word :=
  let h := x + y * 0x9E3779B97F4A7C15#64
  let h := h ^^^ (h >>> 31)
  let h := h * 0xBF58476D1CE4E5B9#64
  h ^^^ (h >>> 27)

/-- One bit of CRC32C (R172). -/
def crcBit (c : BitVec 32) : BitVec 32 := if c.getLsbD 0 then (c >>> 1) ^^^ 0x82F63B78#32 else c >>> 1
/-- `n` bits of CRC32C. -/
def crcBits : Nat → BitVec 32 → BitVec 32
  | 0, c => c
  | n + 1, c => crcBits n (crcBit c)
/-- CRC32C (R172): byte 0 of y first. -/
def crc32cOf (x y : Word) : Word :=
  let c := (rangeFrom 0 8).foldl
    (fun c k => crcBits 8 (c ^^^ (y.extractLsb' (8 * k) 8).setWidth 32)) (x.setWidth 32)
  c.setWidth 64

/-- The width a bit field has from `pos` (R176). -/
def fieldWidth (pos width : Nat) : Nat := if 64 ≤ pos then 0 else min width (64 - pos)
/-- BFX, BFXV (R176) -/
def extractU (x : Word) (pos width : Nat) : Word := wordOf (x.toNat / 2 ^ pos % 2 ^ fieldWidth pos width)
/-- BFXS (R176) -/
def extractS (x : Word) (pos width : Nat) : Word :=
  let w := fieldWidth pos width
  if w = 0 then 0#64 else wordOfInt (signedOf w (x.toNat / 2 ^ pos))
/-- BFI, BFIV (R176) -/
def insertBits (d x : Word) (pos width : Nat) : Word :=
  let w := fieldWidth pos width
  if w = 0 then d
  else
    let mask : Word := wordOf ((2 ^ w - 1) * 2 ^ pos)
    (d &&& ~~~mask) ||| ((x <<< pos) &&& mask)

/-! ## ALU (R170-R173) -/

/-- AND: x and y (R170) -/
def execAnd (d s t : BitVec 5) (σ : State) : Out :=
  aHalf (.and d s t) (fun _ => alu3 d s t (fun x y => x &&& y)) σ

/-- OR: x or y (R170) -/
def execOr (d s t : BitVec 5) (σ : State) : Out :=
  aHalf (.or d s t) (fun _ => alu3 d s t (fun x y => x ||| y)) σ

/-- XOR: x xor y (R170) -/
def execXor (d s t : BitVec 5) (σ : State) : Out :=
  aHalf (.xor d s t) (fun _ => alu3 d s t (fun x y => x ^^^ y)) σ

/-- ANDN: x and not y (R170) -/
def execAndn (d s t : BitVec 5) (σ : State) : Out :=
  aHalf (.andn d s t) (fun _ => alu3 d s t (fun x y => x &&& ~~~y)) σ

/-- ORN: x or not y (R170) -/
def execOrn (d s t : BitVec 5) (σ : State) : Out :=
  aHalf (.orn d s t) (fun _ => alu3 d s t (fun x y => x ||| ~~~y)) σ

/-- SLL (R170) -/
def execSll (d s t : BitVec 5) (σ : State) : Out :=
  aHalf (.sll d s t) (fun _ => alu3 d s t shl) σ

/-- SRL (R170) -/
def execSrl (d s t : BitVec 5) (σ : State) : Out :=
  aHalf (.srl d s t) (fun _ => alu3 d s t shr) σ

/-- SRA (R170) -/
def execSra (d s t : BitVec 5) (σ : State) : Out :=
  aHalf (.sra d s t) (fun _ => alu3 d s t sar) σ

/-- ROL (R170) -/
def execRol (d s t : BitVec 5) (σ : State) : Out :=
  aHalf (.rol d s t) (fun _ => alu3 d s t rotl) σ

/-- ROR (R170) -/
def execRor (d s t : BitVec 5) (σ : State) : Out :=
  aHalf (.ror d s t) (fun _ => alu3 d s t rotr) σ

/-- MULH: bits 127:64 of the signed product (R170) -/
def execMulh (d s t : BitVec 5) (σ : State) : Out :=
  aHalf (.mulh d s t) (fun _ => alu3 d s t mulHighS) σ

/-- MULHN: bits 127:64 of the unsigned product (R170) -/
def execMulhn (d s t : BitVec 5) (σ : State) : Out :=
  aHalf (.mulhn d s t) (fun _ => alu3 d s t mulHighU) σ

/-- MIN, signed (R170) -/
def execMin (d s t : BitVec 5) (σ : State) : Out :=
  aHalf (.min d s t) (fun _ => alu3 d s t (fun x y => if ltS y x then y else x)) σ

/-- MAX, signed (R170) -/
def execMax (d s t : BitVec 5) (σ : State) : Out :=
  aHalf (.max d s t) (fun _ => alu3 d s t (fun x y => if ltS x y then y else x)) σ

/-- MINN, unsigned (R170) -/
def execMinn (d s t : BitVec 5) (σ : State) : Out :=
  aHalf (.minn d s t) (fun _ => alu3 d s t (fun x y => if ltU y x then y else x)) σ

/-- MAXN, unsigned (R170) -/
def execMaxn (d s t : BitVec 5) (σ : State) : Out :=
  aHalf (.maxn d s t) (fun _ => alu3 d s t (fun x y => if ltU x y then y else x)) σ

/-- SLT (R170) -/
def execSlt (d s t : BitVec 5) (σ : State) : Out :=
  aHalf (.slt d s t) (fun _ => alu3 d s t (fun x y => boolWord (ltS x y))) σ

/-- SLTN (R170) -/
def execSltn (d s t : BitVec 5) (σ : State) : Out :=
  aHalf (.sltn d s t) (fun _ => alu3 d s t (fun x y => boolWord (ltU x y))) σ

/-- SEQ (R170) -/
def execSeq (d s t : BitVec 5) (σ : State) : Out :=
  aHalf (.seq d s t) (fun _ => alu3 d s t (fun x y => boolWord (x == y))) σ

/-- SNE (R170) -/
def execSne (d s t : BitVec 5) (σ : State) : Out :=
  aHalf (.sne d s t) (fun _ => alu3 d s t (fun x y => boolWord (x != y))) σ

/-- HMIX (R172) -/
def execHmix (d s t : BitVec 5) (σ : State) : Out :=
  aHalf (.hmix d s t) (fun _ => alu3 d s t hmixOf) σ

/-- CRC32C (R172) -/
def execCrc32c (d s t : BitVec 5) (σ : State) : Out :=
  aHalf (.crc32c d s t) (fun _ => alu3 d s t crc32cOf) σ

/-- ADD: x + y, saturated under HMOD SAT (R170, R173) -/
def execAdd (d s t : BitVec 5) (σ : State) : Out :=
  aHalf (.add d s t) (fun h => alu3f d s t fun x y => saturate64 h.hmod.sat (x.toInt + y.toInt)) σ

/-- SUB: x − y, saturated under HMOD SAT (R170, R173) -/
def execSub (d s t : BitVec 5) (σ : State) : Out :=
  aHalf (.sub d s t) (fun h => alu3f d s t fun x y => saturate64 h.hmod.sat (x.toInt - y.toInt)) σ

/-- MUL: the low 64 bits of x·y, saturated under HMOD SAT (R170, R173) -/
def execMul (d s t : BitVec 5) (σ : State) : Out :=
  aHalf (.mul d s t) (fun h => alu3f d s t fun x y => saturate64 h.hmod.sat (x.toInt * y.toInt)) σ

/-- DIV (R171) -/
def execDiv (d s t : BitVec 5) (σ : State) : Out :=
  aHalf (.div d s t) (fun _ => alu3f d s t divS) σ

/-- DIVN (R171) -/
def execDivn (d s t : BitVec 5) (σ : State) : Out :=
  aHalf (.divn d s t) (fun _ => alu3f d s t divU) σ

/-- REM (R171) -/
def execRem (d s t : BitVec 5) (σ : State) : Out :=
  aHalf (.rem d s t) (fun _ => alu3f d s t remS) σ

/-- REMN (R171) -/
def execRemn (d s t : BitVec 5) (σ : State) : Out :=
  aHalf (.remn d s t) (fun _ => alu3f d s t remU) σ

/-- CLZ (R170) -/
def execClz (d s : BitVec 5) (σ : State) : Out :=
  aHalf (.clz d s) (fun _ => alu2 d s (fun x => wordOf (leadingZeros x 64))) σ

/-- CTZ (R170) -/
def execCtz (d s : BitVec 5) (σ : State) : Out :=
  aHalf (.ctz d s) (fun _ => alu2 d s (fun x => wordOf (trailingZeros x 64))) σ

/-- POPC (R170) -/
def execPopc (d s : BitVec 5) (σ : State) : Out :=
  aHalf (.popc d s) (fun _ => alu2 d s (fun x => wordOf (oneBits x 64))) σ

/-- BSWAP (R170) -/
def execBswap (d s : BitVec 5) (σ : State) : Out :=
  aHalf (.bswap d s) (fun _ => alu2 d s byteSwap) σ

/-! ## Bit fields (R176) -/

/-- BFX (R176) -/
def execBfx (d s : BitVec 5) (p l : BitVec 6) (σ : State) : Out :=
  aHalf (.bfx d s p l) (fun _ => alu2 d s fun x => extractU x p.toNat l.toNat) σ

/-- BFXS (R176) -/
def execBfxs (d s : BitVec 5) (p l : BitVec 6) (σ : State) : Out :=
  aHalf (.bfxs d s p l) (fun _ => alu2 d s fun x => extractS x p.toNat l.toNat) σ

/-- An insert: s first, then t for the register form, then d, which is a source (02 R34, 08 R176). -/
def insertForm (d s : BitVec 5) (t : Option (BitVec 5)) (pos width : Nat) : M Disp := do
  let x ← readA s
  match t with
  | none => do
    let old ← readA d
    writeA d (insertBits old x pos width)
    pure .retire
  | some t => do
    let y ← readA t
    let old ← readA d
    writeA d (insertBits old x (fieldOf y 7 0) (fieldOf y 15 8))
    pure .retire

/-- BFI (R176) -/
def execBfi (d s : BitVec 5) (p l : BitVec 6) (σ : State) : Out :=
  aHalf (.bfi d s p l) (fun _ => insertForm d s none p.toNat l.toNat) σ

/-- BFXV (R176) -/
def execBfxv (d s t : BitVec 5) (σ : State) : Out :=
  aHalf (.bfxv d s t) (fun _ => alu3 d s t fun x y => extractU x (fieldOf y 7 0) (fieldOf y 15 8)) σ

/-- BFIV (R176) -/
def execBfiv (d s t : BitVec 5) (σ : State) : Out :=
  aHalf (.bfiv d s t) (fun _ => insertForm d s (some t) 0 0) σ

/-! ## Immediate forms (R174, R175) -/

/-- ADDI: x + u, saturating by R173 (R174) -/
def execAddi (d s : BitVec 5) (i : BitVec 16) (σ : State) : Out :=
  aHalf (.addi d s i) (fun h => alu2f d s fun x => saturate64 h.hmod.sat (x.toInt + (immS h i).toInt)) σ

/-- MULI: the low 64 bits of x·u, saturating by R173 (R174) -/
def execMuli (d s : BitVec 5) (i : BitVec 16) (σ : State) : Out :=
  aHalf (.muli d s i) (fun h => alu2f d s fun x => saturate64 h.hmod.sat (x.toInt * (immS h i).toInt)) σ

/-- ANDI (R174) -/
def execAndi (d s : BitVec 5) (i : BitVec 16) (σ : State) : Out :=
  aHalf (.andi d s i) (fun h => alu2 d s fun x => x &&& immZ h i) σ

/-- ORI (R174) -/
def execOri (d s : BitVec 5) (i : BitVec 16) (σ : State) : Out :=
  aHalf (.ori d s i) (fun h => alu2 d s fun x => x ||| immZ h i) σ

/-- XORI (R174) -/
def execXori (d s : BitVec 5) (i : BitVec 16) (σ : State) : Out :=
  aHalf (.xori d s i) (fun h => alu2 d s fun x => x ^^^ immZ h i) σ

/-- SLTI (R174) -/
def execSlti (d s : BitVec 5) (i : BitVec 16) (σ : State) : Out :=
  aHalf (.slti d s i) (fun h => alu2 d s fun x => boolWord (ltS x (immS h i))) σ

/-- SLTNI (R174) -/
def execSltni (d s : BitVec 5) (i : BitVec 16) (σ : State) : Out :=
  aHalf (.sltni d s i) (fun h => alu2 d s fun x => boolWord (ltU x (immS h i))) σ

/-- LUI (R174) -/
def execLui (d : BitVec 5) (i : BitVec 16) (σ : State) : Out :=
  aHalf (.lui d i) (fun h => do writeA d (immL h i); pure .retire) σ

/-- SLLI (R175) -/
def execSlli (d s : BitVec 5) (n : BitVec 6) (σ : State) : Out :=
  aHalf (.slli d s n) (fun _ => alu2 d s fun x => x <<< n.toNat) σ

/-- SRLI (R175) -/
def execSrli (d s : BitVec 5) (n : BitVec 6) (σ : State) : Out :=
  aHalf (.srli d s n) (fun _ => alu2 d s fun x => x >>> n.toNat) σ

/-- SRAI (R175) -/
def execSrai (d s : BitVec 5) (n : BitVec 6) (σ : State) : Out :=
  aHalf (.srai d s n) (fun _ => alu2 d s fun x => x.sshiftRight n.toNat) σ

/-- ROLI (R175) -/
def execRoli (d s : BitVec 5) (n : BitVec 6) (σ : State) : Out :=
  aHalf (.roli d s n) (fun _ => alu2 d s fun x => x.rotateLeft n.toNat) σ

end Sys2Proof.Machine
end

