-- ==== Sys2Proof/Machine/Branch.lean ====
section
/-!
DEFINITION. Branches and jumps of the A half (08 R177-R183). A transfer checks its target before it retires; prediction
and bubbles are timing (log 3).
-/

namespace Sys2Proof.Machine

/-- A conditional branch: s read before t; a taken one checks its target (R177, R182). -/
def branch2 (s t : BitVec 5) (disp : BitVec 16) (cond : Word → Word → Bool) : M Disp := do
  let x ← readA s
  let y ← readA t
  if cond x y then do
    let a ← branchTarget disp.toInt
    pure (.jump a)
  else pure .retire

/-- BEQ (R177) -/
def execBeq (s t : BitVec 5) (d : BitVec 16) (σ : State) : Out :=
  aHalf (.beq s t d) (fun _ => branch2 s t d fun x y => x == y) σ

/-- BNE (R177) -/
def execBne (s t : BitVec 5) (d : BitVec 16) (σ : State) : Out :=
  aHalf (.bne s t d) (fun _ => branch2 s t d fun x y => x != y) σ

/-- BLT (R177) -/
def execBlt (s t : BitVec 5) (d : BitVec 16) (σ : State) : Out :=
  aHalf (.blt s t d) (fun _ => branch2 s t d ltS) σ

/-- BGE (R177) -/
def execBge (s t : BitVec 5) (d : BitVec 16) (σ : State) : Out :=
  aHalf (.bge s t d) (fun _ => branch2 s t d fun x y => !ltS x y) σ

/-- BLTN (R177) -/
def execBltn (s t : BitVec 5) (d : BitVec 16) (σ : State) : Out :=
  aHalf (.bltn s t d) (fun _ => branch2 s t d ltU) σ

/-- BGEN (R177) -/
def execBgen (s t : BitVec 5) (d : BitVec 16) (σ : State) : Out :=
  aHalf (.bgen s t d) (fun _ => branch2 s t d fun x y => !ltU x y) σ

/-- B (R178) -/
def execB (d : BitVec 26) (σ : State) : Out :=
  aHalf (.b d) (fun _ => do
    let a ← branchTarget d.toInt
    pure (.jump a)) σ

/-- The instruction's own address + 4, as a link. -/
def linkValue : M Word := do
  let c ← me
  pure (wordOf (c.pc.toNat + 4))

/-- BAL: a1 := the branch's own address + 4 (R178). -/
def execBal (d : BitVec 26) (σ : State) : Out :=
  aHalf (.bal d) (fun _ => do
    let a ← branchTarget d.toInt
    let l ← linkValue
    writeA 1#5 l
    pure (.jump a)) σ

/-- JR (R179) -/
def execJr (s : BitVec 5) (σ : State) : Out :=
  aHalf (.jr s) (fun _ => do
    let t ← readA s
    let a ← registerTarget t
    pure (.jump a)) σ

/-- JALR: the target is read before the link is written (R179). -/
def execJalr (d s : BitVec 5) (σ : State) : Out :=
  aHalf (.jalr d s) (fun _ => do
    let t ← readA s
    let a ← registerTarget t
    let l ← linkValue
    writeA d l
    pure (.jump a)) σ

/-- E instructions that write a predicate (09 R200, R202). -/
def writesPred (w : BitVec 32) : Bool :=
  match decode w with
  | .ok (.vcmp _ _ _ _ _) | .ok (.pand _ _ _) | .ok (.por _ _ _) | .ok (.pxor _ _ _) | .ok (.pnot _ _)
  | .ok (.pset _ _) => true
  | _ => false

/-- A predicate (02 R36): p0 reads all ones. -/
def Ctx.pred (c : Ctx) (k : BitVec 3) : Word := if k = 0#3 then BitVec.allOnes 64 else c.p[k.toNat]'k.isLt

/-- BP's test: 0 any, 1 all, 2 none, 3 not-all (R180). -/
def predTest (m : BitVec 2) (v : Word) : Bool :=
  match m with
  | 0#2 => v != 0#64
  | 1#2 => v == BitVec.allOnes 64
  | 2#2 => v == 0#64
  | 3#2 => v != BitVec.allOnes 64

/-- BP waits until every older E instruction that writes a predicate has retired (R180), in a routine as well, where those queued
before it do not run (log 8). -/
def execBp (p : BitVec 3) (m : BitVec 2) (d : BitVec 16) (σ : State) : Out :=
  aHalf (.bp p m d) (fun _ => do
    let c ← me
    if c.eq.any fun w => writesPred w.word then waitFor .scoreboard
    else if predTest m (c.pred p) then do
      let a ← branchTarget d.toInt
      pure (.jump a)
    else pure .retire) σ

/-- DBNZ: a(s) := a(s) − 1, taken when it is not 0 (R181). -/
def execDbnz (s : BitVec 5) (d : BitVec 16) (σ : State) : Out :=
  aHalf (.dbnz s d) (fun _ => do
    let x ← readA s
    let v := x - 1#64
    if v = 0#64 then do
      writeA s v
      pure .retire
    else do
      let a ← branchTarget d.toInt
      writeA s v
      pure (.jump a)) σ

end Sys2Proof.Machine
end

