-- ==== Sys2Proof/Machine/System.lean ====
section
/-!
DEFINITION. System registers (02 R42, R43), NOP, MFS, MTS, RDCYC, RDTIME (08 R168), TRAP, ERET and PARK (15 R363-R367).
-/

namespace Sys2Proof.Machine

/-! ## The pool's division (05 R84-R86) -/

/-- The value leaves a user scratchpad that is not negative (R86). -/
def partwOk (partw : Word) : Bool := decide (padBase partw + inboxBytes partw ≤ 38 * 1024)
/-- The fields of PARTW, reserved bits zero. -/
def partwFields (v : Word) : Word := wordOf (at_ (fieldOf v 15 12) 4 12 + at_ (fieldOf v 5 4) 2 4 + at_ (fieldOf v 2 0) 3 0)

/-- A process's regions, landing region and tiles lie within the division (R86). -/
def Proc.fits (p : Proc) (partw : Word) : Bool :=
  let inPad := fun (r : Nat × Nat) => r.2 == 0 || (decide (padBase partw ≤ r.1) && decide (r.1 + r.2 ≤ padEnd partw))
  p.regions.all (fun e => inPad e.2) && inPad p.land
    && (p.tiles.2 == 0 || decide ((p.tiles.1 + p.tiles.2) * 4096 ≤ accBytes partw))

/-! ## Outbox sizes (13 R295) -/

/-- Bytes of an outbox entry. -/
def OutEntry.size : OutEntry → Nat
  | .send _ ws es => 16 + 8 * ws.length + 16 * es.length
  | .close _ => 16
  | .spawn _ _ _ ws es => 32 + 8 * ws.length + 16 * es.length
  | .copy _ | .job _ | .qfence _ | .lgraph _ => 32
  | .gstv _ => 80

/-- Bytes of an outbox. -/
def outBytes (es : List OutEntry) : Nat := es.foldl (fun n e => n + e.size) 0

/-! ## Reading (02 R42) -/

/-- HOLDMAP of a hold map (14 R353). -/
def holdmapOf (h : BitVec 128) : Word :=
  let low := (rangeFrom 0 128).find? fun k => h.getLsbD k
  match low with
  | none => 0#64
  | some k => wordOf (2 ^ 16 + at_ k 8 8 + oneBits h 128)

/-- The value of system register `x` for the context that acts. -/
def State.sysReg (s : State) (x : Nat) : Word :=
  let c := s.actor
  let k := s.core s.turn.core
  let p := s.self
  match x with
  | 0 => wordOf s.cyc
  | 1 => wordOf s.time
  | 2 => wordOf s.turn.core
  | 3 => wordOf s.devidx
  | 4 => wordOf p.name
  | 5 => wordOf s.turn.ctx
  | 6 => c.rmode.setWidth 64
  | 7 => c.flags.setWidth 64
  | 8 => (s.flagsu (s.turn.core / 8)).setWidth 64
  | 9 => k.tagDone &&& p.tagm
  | 10 => p.tagm
  | 11 => k.partw
  | 12 => p.weight.setWidth 64
  | 13 => c.jobid.setWidth 64
  | 14 => c.waittmo.setWidth 64
  | 15 => p.ringw.setWidth 64
  | 16 => p.ringn.setWidth 64
  | 17 => p.nbr[0].setWidth 64
  | 18 => p.nbr[1].setWidth 64
  | 19 => p.nbr[2].setWidth 64
  | 20 => p.nbr[3].setWidth 64
  | 21 => p.hcnt
  | 22 => k.fwin[0] | 23 => k.fwin[1] | 24 => k.fwin[2] | 25 => k.fwin[3]
  | 26 => k.fwin[4] | 27 => k.fwin[5] | 28 => k.fwin[6] | 29 => k.fwin[7]
  | 30 => c.faulta.setWidth 64
  | 31 => c.faulte.setWidth 64
  | 32 => c.faultc.setWidth 64
  | 33 => c.faultx
  | 34 => c.statusReg
  | 35 => c.pvec.setWidth 64
  | 36 => c.tvec.setWidth 64
  | 37 => c.actbud
  | 38 => wordOf ((if c.rollable then 0 else 128) + c.undo.length)
  | 39 => wordOf ((if c.sealed then 2 ^ 63 else 0) + at_ (outBytes c.outbox) 11 16 + at_ c.outbox.length 5 0)
  | 40 => p.pflags.setWidth 64
  | 41 => k.samplep.setWidth 64
  | 42 => holdmapOf p.holds
  | 43 => c.epca
  | _ => c.epce.setWidth 64

/-- Registers that USER code neither reads nor writes (02 R42). -/
def superOnly (x : Nat) : Bool := x ∈ [8, 30, 31, 32, 33, 35, 36, 41, 43, 44]

/-- Registers that are RW for USER code. -/
def userWrites (x : Nat) : Bool := x ∈ [6, 7, 14, 15, 16, 17, 18, 19, 20, 21]

/-- Registers that are RW for SUPER code. -/
def superWrites (x : Nat) : Bool :=
  userWrites x || x ∈ [10, 11, 12, 30, 31, 32, 33, 35, 36, 37, 40, 41, 43, 44]

/-- Accesses to FLAGS and RMODE wait for older E instructions (07 R163, 08 R166, 23 R407), in a routine as well, where those do not
run (log 8). -/
def olderE : M Unit := do
  let c ← me
  if c.eq.isEmpty then pure () else waitFor .scoreboard

/-- MFS (08 R168). A register that USER has no access to raises PRIVILEGE with the word in FAULTX (02 R41, R42, log 7). -/
def execMfs (d : BitVec 5) (x : BitVec 6) (σ : State) : Out :=
  aHalf (.mfs d x) (fun _ => do
    let c ← me
    if superOnly x.toNat && !c.super then failWith .privilege ((encode (.mfs d x)).setWidth 64)
    else do
      if x = 6#6 ∨ x = 7#6 then olderE else pure ()
      let v ← gets fun s => s.sysReg x.toNat
      -- a read of TAGS is an acquire (06 R117)
      if x = 9#6 then mods fun s => s.learn s.agent (s.core s.turn.core).tagKnow else pure ()
      writeA d v
      pure .retire) σ

/-! ## Writing (02 R43) -/

/-- Writes a neighbour name register. -/
def setNbr (k : Fin 4) (v : Word) : M Unit := modMyProc fun p => { p with nbr := p.nbr.set k (v.setWidth 32) }

/-- MTS of PARTW (05 R86): invalid for another resident process on the core, or for what the process holds. -/
def writePartw (v : Word) : M Unit := do
  let s ← gets id
  let w := partwFields v
  let n := s.turn.core
  let slot := s.activity.slot
  let others := s.procs.any fun e => e.1 != slot && e.2.state == .resident && e.2.core == n
  require (partwOk w && !others && s.self.fits w)
  modMyCore fun c => { c with partw := w }

/-- The effect of an MTS that the privilege allows. -/
def writeSys (x : Nat) (v : Word) : M Unit :=
  match x with
  | 6 => do
    require (decide (fieldOf v 2 0 ≤ 4))
    modMe fun c => { c with rmode := v.setWidth 3 }
  | 7 => modMe fun c => { c with flags := v.setWidth 6 }
  | 10 => modMyProc fun p => { p with tagm := v }
  | 11 => writePartw v
  | 12 => do
    require (decide (256 ≤ fieldOf v 15 0) && decide (fieldOf v 15 0 ≤ 65280))
    modMyProc fun p => { p with weight := v.setWidth 16 }
  | 14 => modMe fun c => { c with waittmo := v.setWidth 32 }
  | 15 => modMyProc fun p => { p with ringw := v.setWidth 14 }
  | 16 => modMyProc fun p => { p with ringn := v.setWidth 14 }
  | 17 => setNbr 0 v
  | 18 => setNbr 1 v
  | 19 => setNbr 2 v
  | 20 => setNbr 3 v
  | 21 => modMyProc fun p => { p with hcnt := v }
  | 30 => modMe fun c => { c with faulta := v.setWidth 52 }
  | 31 => modMe fun c => { c with faulte := v.setWidth 52 }
  | 32 => modMe fun c => { c with faultc := v.setWidth 10 }
  | 33 => modMe fun c => { c with faultx := v }
  | 35 => modMe fun c => { c with pvec := v.setWidth 52 }
  | 36 => modMe fun c => { c with tvec := v.setWidth 52 }
  | 37 => modMe fun c => { c with actbud := v }
  | 40 => modMyProc fun p => { p with pflags := v.setWidth 6 }
  | 41 => do
    let n := fieldOf v 31 0
    require (n == 0 || decide (64 ≤ n))
    let now ← gets State.cyc
    modMyCore fun c => { c with samplep := v.setWidth 32, sampleAt := now }
  | 43 => modMe fun c => { c with epca := v &&& ~~~(wordOf (at_ 7 3 58)) }
  | 44 => modMe fun c => { c with epce := v.setWidth 52 }
  | _ => pure ()

/-- MTS (08 R168): a register RO at the privilege is left as it is (02 R43). -/
def execMts (s : BitVec 5) (x : BitVec 6) (σ : State) : Out :=
  aHalf (.mts s x) (fun _ => do
    let c ← me
    if superOnly x.toNat && !c.super then failWith .privilege ((encode (.mts s x)).setWidth 64)
    else do
      if x = 6#6 ∨ x = 7#6 then olderE else pure ()
      let v ← readA s
      if (if c.super then superWrites x.toNat else userWrites x.toNat) then writeSys x.toNat v else pure ()
      pure .retire) σ

/-- NOP (08 R168) -/
def execNop (σ : State) : Out := aHalf .nop (fun _ => pure .retire) σ

/-- RDCYC (08 R168, R169) -/
def execRdcyc (d : BitVec 5) (σ : State) : Out :=
  aHalf (.rdcyc d) (fun _ => do
    let v ← gets fun s => wordOf s.cyc
    writeA d v
    pure .retire) σ

/-- RDTIME (08 R168) -/
def execRdtime (d : BitVec 5) (σ : State) : Out :=
  aHalf (.rdtime d) (fun _ => do
    let v ← gets fun s => wordOf s.time
    writeA d v
    pure .retire) σ

/-! ## Vectored routines (15 R362-R367) -/

/-- TRAP (R363): ILLEGAL in a routine; without a vector the context parks with TRAP at the next address; else it enters
TVEC, whose two low bits are tested as those of every target (02 R24, 08 R182). -/
def execTrap (c : BitVec 6) (σ : State) : Out :=
  aHalf (.trap c) (fun _ => do
    let x ← me
    let next := x.pc + 4#52
    if x.routine then illegal
    else if x.tvec = 0#52 then do
      let n ← gets fun s => s.turn.core
      let k ← gets fun s => s.turn.ctx
      mods fun s => (s.setCtx n k { x with hints := [], pc := next }).park n k .trap 1 next next (c.setWidth 64) 0#64
      pure .left
    else do
      let t ← registerTarget (x.tvec.setWidth 64)
      modMe fun x => { x.enter (BitVec.ofNat 52 t) false false c.toNat next next with stallA := .none, waitA := none }
      mods fun s => s.count s.activity.part 2 1
      pure .left) σ

/-- SUPER privilege and a vectored routine (02 R41, 15 R364, R367). -/
def needRoutine (i : Instr) : M Unit := do
  let c ← me
  guardFault c.super .privilege ((encode i).setWidth 64)
  require c.routine

/-- ERET (R364): a saved PC of either half with bit 0 or 1 set raises ILLEGAL by 02 R24. -/
def execEret (σ : State) : Out :=
  aHalf .eret (fun _ => do
    needRoutine .eret
    let c ← me
    let pc := fieldOf c.epca 51 0
    guardFault (decide (pc % 4 = 0)) .illegal (wordOf pc)
    guardFault (decide (c.epce.toNat % 4 = 0)) .illegal (c.epce.setWidth 64)
    modMe fun c => { c.leave with stallA := .none, waitA := none }
    mods fun s => s.count s.activity.part 2 1
    pure .left) σ

/-- The image that a core's pre-emption builds (15 R365). -/
def State.image (s : State) (n : Nat) : Image := find s.images n { core := n, part := 0 }

/-- PARK (R367). PARK 1 needs a CTXSAVE since entry; it frees the context, whose activation goes with the core's image.
PARK 0 parks with TRAP at the addresses EPCA and EPCE hold; the routine is left with the privilege to return to
(log 8). -/
def execPark (x : BitVec 6) (σ : State) : Out :=
  aHalf (.park x) (fun _ => do
    needRoutine (.park x)
    let c ← me
    let n ← gets fun s => s.turn.core
    let k ← gets fun s => s.turn.ctx
    if x = 1#6 then do
      require c.saved
      mods fun s =>
        let im := s.image n
        let s := { s with images := put s.images n { im with ctxs := put im.ctxs k { c with hints := [] } } }
        (s.count s.activity.part 2 1).freeCtx n k
      pure .left
    else do
      let fa := BitVec.ofNat 52 (fieldOf c.epca 51 0)
      mods fun s => (s.setCtx n k c.leave).park n k .trap 1 fa c.epce (wordOf (fieldOf c.epca 57 52)) 0#64
      pure .left) σ

/-! ## Words that are no instruction (02 R40, R41) -/

/-- A word that names ERET, PARK, CTXSAVE, CTXREST or FENCE of kind 3 by its major and function field, whatever its
other fields hold (R41). -/
def namesSuper (w : BitVec 32) : Bool :=
  (major w == 0#6 && (sub5 w == 2#5 || sub5 w == 5#5 || sub5 w == 6#5 || sub5 w == 7#5))
    || (major w == 0x1E#6 && sub5 w == 0#5 && (x6 w).extractLsb' 3 2 == 3#2)

/-- The half that a major routes to (02 R38): the vector majors to E, every other to A. -/
def routesToE (w : BitVec 32) : Bool := 0x25 ≤ (major w).toNat && (major w).toNat ≤ 0x2E

/-- A word that is no instruction: ILLEGAL in the half its major routes to, FAULTX the word (R40); in USER code the five
instructions of R41 raise PRIVILEGE whatever their fields. A hint word with a payload that is not allowed waits for its
instruction, in whose half the group faults (02 R29, 08 R186, R188). -/
def execIllegalWord (w : BitVec 32) (σ : State) : Out :=
  if isHintWord w && decide ((kind4 w).toNat ≤ 3) then fetchHint w σ
  else if routesToE w then eHalf (.illegalWord w) (fun _ => failWith .illegal (w.setWidth 64)) σ
  else aHalf (.illegalWord w) (fun _ => do
    let c ← me
    if namesSuper w && !c.super then failWith .privilege (w.setWidth 64)
    else failWith .illegal (w.setWidth 64)) σ

/-- HSTALL: fetched for its group, whose instruction it delays (08 R184). -/
def execHstall (n : BitVec 8) (σ : State) : Out := fetchStall n.toNat (encode (.hstall n)) σ

/-- HIMM (08 R185) -/
def execHimm (p : BitVec 22) (σ : State) : Out := fetchHint (encode (.himm p)) σ

/-- HMOD (08 R186) -/
def execHmod (r : BitVec 3) (t : BitVec 1) (p : BitVec 3) (z o u : BitVec 1) (b : BitVec 5) (c : BitVec 2)
    (e : BitVec 3) (σ : State) : Out := fetchHint (encode (.hmod r t p z o u b c e)) σ

/-- HBR: a prediction never changes a result (08 R188). -/
def execHbr (h : BitVec 2) (σ : State) : Out := fetchHint (encode (.hbr h)) σ

end Sys2Proof.Machine
end

