-- ==== Sys2Proof/Machine/Slice.lean ====
section
/-!
DEFINITION. The physical map and the home hash (03 R45, R46); the cache slices: ways, fills, recency, owners, pins,
remote copies and combining windows (04 R61-R73); the vector clocks of the dies (11 R242). A slice holds which lines are
cached, how and for whom; the bytes themselves are in memory once (log 4).
-/

namespace Sys2Proof.Machine

/-! ## Physical map (R45) -/

/-- HBM, 0 to 0x7F_FFFF_FFFF -/
def inHbm (a : Nat) : Bool := a < 0x8000000000
/-- device registers, 4 GiB from 0x80_0000_0000 -/
def inDevreg (a : Nat) : Bool := 0x8000000000 ≤ a && a < 0x8100000000
/-- CXL memory -/
def inCxl (a : Nat) : Bool := 0x400000000000 ≤ a && a < 0x800000000000
/-- host memory -/
def inHost (a : Nat) : Bool := 0x800000000000 ≤ a && a < 0x1000000000000

/-! ## The home hash (R46) -/

/-- The home of an HBM line: die, cluster identifier, slice in the cluster, and the set in the slice (04 R61). -/
structure Home where
  die : Nat
  cluster : Nat
  slice : Nat
  set : Nat
  deriving DecidableEq, Repr

/-- The stack of a cluster's home pseudo-channel (01 R13): stack Sk belongs to die k div 2 (01 R9). -/
def homeStack (cluster : Nat) : Nat := 2 * dieOf cluster + clusterX cluster % 24 / 12

/-- The number of a cluster's home pseudo-channel in its stack, 0 to 191 (01 R13). -/
def homeChannel (cluster : Nat) : Nat := clusterY cluster % 16 * 12 + clusterX cluster % 24 % 12

/-- The die a stack belongs to (01 R9). -/
def dieOfStack (k : Nat) : Nat := k / 2

/-- Where a line of HBM is stored: the stack, its pseudo-channel and the line's position in it (R44, R46). -/
structure HbmPlace where
  stack : Nat
  channel : Nat
  row : Nat
  deriving DecidableEq, Repr

/-- The cluster of index c of a die (R46). -/
def clusterOfIndex (die c : Nat) : Nat :=
  let k := c % 24
  let x := 24 * (die % 2) + 12 * (k % 2) + k / 2
  let y := 16 * (die / 2) + c / 24
  y * 64 + x

/-- The home slice of physical address P (R46). -/
def homeOf (P : Nat) : Home :=
  let die := P / 2 ^ 37 % 4
  let n := P % 2 ^ 37 / 128
  let lo := n % 512
  let hi := n / 512
  let t := hi % 3
  let q := hi / 3
  let h := (q % 512) ^^^ (q / 512 % 512) ^^^ (q / 2 ^ 18)
  let s := 512 * t + (lo ^^^ h)
  { die := die, cluster := clusterOfIndex die (s / 4), slice := s % 4, set := (q % 64) ^^^ (q / 64 % 64) }

/-- Where the line of a physical address is stored: its home cluster's pseudo-channel, at row 4·q + j (R46). -/
def placeOf (P : Nat) : HbmPlace :=
  let h := homeOf P
  { stack := homeStack h.cluster, channel := homeChannel h.cluster, row := 4 * (P % 2 ^ 37 / 128 / 512 / 3) + h.slice }

/-- The slice of another die that may hold a remote copy of the line: same within-die index, same set (04 R61). -/
def cachingOf (P die : Nat) : Home :=
  let h := homeOf P
  let c := ((clusterY h.cluster % 16) * 24) + (2 * ((clusterX h.cluster % 24) % 12) + (clusterX h.cluster % 24) / 12)
  { h with die := die, cluster := clusterOfIndex die c }

/-! ## Clusters that sleep (22 R399, R400) -/

/-- Exit latencies in µs. -/
def exitUs : Idle → Nat
  | .run => 0 | .i1 => 2 | .i2 => 50 | .i3 => 2000 | .i4 => 30000

/-- Starts the exit of a cluster, which takes its state's latency; one that has begun runs to its end. -/
def State.wakeCluster (s : State) (cl : Nat) : State :=
  let k := s.cluster cl
  if k.idle = .run || k.idleExit.isSome then s
  else s.modCluster cl fun k => { k with idleExit := some (s.time + 1000 * exitUs k.idle) }

/-- Starts the exit of the device. -/
def State.wakeDevice (s : State) : State :=
  if s.idle = .run || s.idleExit.isSome then s else { s with idleExit := some (s.time + 1000 * exitUs s.idle) }

/-- The partition of a cluster. -/
def State.clusterPart (s : State) (cl : Nat) : Option Nat :=
  (rangeFrom 0 8).find? fun p => (s.part p).valid && (s.part p).hasColumn (clusterX cl)

/-! ## Sets and ways -/

/-- The slice of a home. -/
def State.sliceAt (s : State) (h : Home) : Slice := find (s.cluster h.cluster).slices h.slice {}

/-- Changes the slice of a home. -/
def State.modSlice (s : State) (h : Home) (f : Slice → Slice) : State :=
  s.modCluster h.cluster fun c => { c with slices := put c.slices h.slice (f (find c.slices h.slice {})) }

/-- The set of a home. -/
def State.lineSet (s : State) (h : Home) : SliceSet := find (s.sliceAt h).sets h.set {}

/-- Changes the set of a home. -/
def State.modSet (s : State) (h : Home) (f : SliceSet → SliceSet) : State :=
  s.modSlice h fun l => { l with sets := put l.sets h.set (f (find l.sets h.set {})) }

/-- Way `k` of a set. -/
def SliceSet.way (t : SliceSet) (k : Nat) : Way := find t.ways k {}

/-- The way that holds a line. -/
def SliceSet.hit (t : SliceSet) (line : Nat) : Option Nat :=
  (rangeFrom 0 16).find? fun k => (t.way k).state != .invalid && (t.way k).line == line

/-- An access makes a way the most recent; `oldest` leaves it the least recent (08 R186 CACHE 2). -/
def SliceSet.access (t : SliceSet) (k : Nat) (oldest : Bool) : SliceSet :=
  let rest := t.order.filter (· != k)
  { t with order := if oldest then k :: rest else rest ++ [k] }

/-- RWAYS as fills of a clock see it: a write takes effect from the next clock (R67). -/
def Die.rwaysAt (d : Die) (cyc : Nat) : Nat := match d.rwaysWas with
  | some (c, old) => if c = cyc then old else d.rways
  | none => d.rways

/-- FILLMASK of a partition as fills of a clock see it: a victim chosen in the clock of the write follows the old mask
(R69). -/
def Die.maskAt (d : Die) (cyc part : Nat) : BitVec 16 :=
  let m := find d.fillmask part 0xFFFF#16
  match look d.maskWas part with
  | some (c, old) => if c = cyc then old else m
  | none => m

/-- A write of RWAYS in a clock. -/
def Die.setRways (d : Die) (cyc n : Nat) : Die := { d with rways := n, rwaysWas := some (cyc, d.rwaysAt cyc) }

/-- A write of a partition's FILLMASK in a clock. -/
def Die.setMask (d : Die) (cyc part : Nat) (m : BitVec 16) : Die :=
  { d with fillmask := put d.fillmask part m, maskWas := put d.maskWas part (cyc, d.maskAt cyc part) }

/-- Ways a fill may use in this clock (R65, R68): the mask of the partition, home ways or remote ways. -/
def State.eligible (s : State) (die part : Nat) (remote : Bool) : List Nat :=
  let d := s.die die
  let m := d.maskAt s.cyc part
  let r := d.rwaysAt s.cyc
  (rangeFrom 0 16).filter fun k => m.getLsbD k && (if remote then decide (16 - r ≤ k) else decide (k < 16 - r))

/-- The victim of a fill (R63): the lowest Invalid eligible way, else the least recent Clean or Dirty one. -/
def SliceSet.victim (t : SliceSet) (ways : List Nat) : Option Nat :=
  match ways.find? fun k => (t.way k).state = .invalid with
  | some k => some k
  | none =>
    let free := ways.filter fun k => (t.way k).state = .clean || (t.way k).state = .dirty
    match t.order.find? fun k => free.contains k with
    | some k => some k
    | none => free.head?

/-- The lines of a slice that partition `p` owns (R70). -/
def Slice.owned (l : Slice) (p : Nat) : Nat :=
  l.sets.foldl (fun n e => n + (e.2.ways.filter fun w => w.2.state != .invalid && w.2.owner == p).length) 0

/-! ## Fills and hits -/

/-- What an evicted way leaves behind (R62, R66): a remote copy's eviction is reported to its home, which clears the
die's bit. A dirty line's write-back changes no byte here. -/
def State.evict (s : State) (h : Home) (w : Way) : State :=
  let s := if w.state = .invalid then s else s.count w.owner 18 1
  if w.state != .invalid && (homeOf w.line).die != h.die then
    { s with copies := put s.copies w.line ((find s.copies w.line []).filter (· != h.die)) }
  else s

/-- A read or write of a line at a slice on behalf of a partition: a hit, or a fill by R63 unless CACHE is 1. It wakes the
slice's cluster (22 R400). -/
def State.lineAccess (s : State) (h : Home) (line part cache : Nat) (write : Bool) : State :=
  let s := s.wakeCluster h.cluster
  let remote := (homeOf line).die != h.die
  let t := s.lineSet h
  match t.hit line with
  | some k =>
    let w := t.way k
    let w := if write then (if w.state = .pinned then { w with dirty := true } else { w with state := .dirty }) else w
    let s := s.modSet h fun t => ({ t with ways := put t.ways k w }).access k false
    s.count part 4 1
  | none =>
    let s := s.count part (if remote then 6 else 5) 1
    if cache = 1 then s
    else match t.victim (s.eligible h.die part remote) with
      | none => s
      | some k =>
        let s := s.evict h (t.way k)
        let w : Way := { state := if write then .dirty else .clean, line := line, owner := part }
        let s := s.modSet h fun t => ({ t with ways := put t.ways k w }).access k (decide (cache = 2))
        if remote then
          let ds := find s.copies line []
          { s with copies := put s.copies line (if ds.contains h.die then ds else h.die :: ds) }
        else s

/-! ## Combining windows (R72) -/

/-- The window of a line that is open at a slice. -/
def State.openWindow (s : State) (h : Home) (line : Nat) : Option Window := (s.sliceAt h).windows.find? fun w => w.line = line

/-- Closes a window: one reply, with the line's bytes as they stand, goes to every joined cluster (R72, R73). -/
def State.closeWindow (s : State) (h : Home) (line : Nat) : State :=
  match s.openWindow h line with
  | none => s
  | some w =>
    let s := s.modSlice h fun l => { l with windows := l.windows.filter fun w => w.line != line }
    let (n, s) := s.takeFresh
    let p : Packet := { src := h.cluster, dst := w.joined, cls := .response, part := w.part, age := n,
                        body := .multicast line (readBytes s.mem line 128) }
    s.modCluster h.cluster fun c =>
      { c with router := { c.router with inp := put c.router.inp 13 (find c.router.inp 13 [] ++ [p]) } }

/-- The window has been open for MCWIN clocks, the value that MCWIN has now: R72 does not say whether a write of SCFG changes a
window that is open (log 88). -/
def State.windowOver (s : State) (h : Home) (w : Window) : Bool := decide (w.since + (s.die h.die).mcwin ≤ s.cyc)

/-- Closes the window of a line that has been open for its time. -/
def State.closeOver (s : State) (h : Home) (line : Nat) : State := match s.openWindow h line with
  | some w => if s.windowOver h w then s.closeWindow h line else s
  | none => s

/-- A plain read by a cluster opens or joins a window at the slice (R72). -/
def State.joinWindow (s : State) (h : Home) (line part cluster : Nat) : State :=
  let s := s.closeOver h line
  if cluster = h.cluster || (s.die h.die).mcwin = 0 then s
  else match s.openWindow h line with
    | none =>
      s.modSlice h fun l => { l with windows := l.windows ++ [{ line := line, since := s.cyc, joined := [cluster], part := part }] }
    | some w =>
      if w.joined.contains cluster then s
      else
        let s := s.count part 7 1
        let j := w.joined ++ [cluster]
        let s := s.modSlice h fun l =>
          { l with windows := l.windows.map fun v => if v.line = line then { v with joined := j } else v }
        if 16 ≤ j.length then s.closeWindow h line else s

/-! ## Inter-die messages (11 R242) -/

/-- The later of two 16-bit counts, which are compared modulo 2^16. -/
def laterCount (a b : Nat) : Nat := if (b + 2 ^ 16 - a) % 2 ^ 16 < 2 ^ 15 then b else a

/-- What a die knows after it has applied a message with a vector: its own entry stays its own. -/
def Die.takeVec (d : Die) (die : Nat) (v : List Nat) : Die :=
  { d with vec := (rangeFrom 0 8).map fun k => if k = die then d.vec.getD k 0 else laterCount (d.vec.getD k 0) (v.getD k 0) }

/-- A message is causally before a vector: the vector has its sender's count or a later one. -/
def DieMsg.before (m : DieMsg) (v : List Nat) : Bool :=
  decide ((v.getD m.src 0 + 2 ^ 16 - m.vec.getD m.src 0) % 2 ^ 16 < 2 ^ 15)

/-- The die takes over what the vector tells, a window at its caching slice closes, and its copy of the line is dropped
(R66). -/
def State.applyDieMsg (s : State) (m : DieMsg) : State :=
  let s := s.modDie m.dst fun d => d.takeVec m.dst m.vec
  let h := cachingOf m.line m.dst
  let s := s.closeWindow h m.line
  let s := s.modSet h fun t =>
    { t with ways := t.ways.map fun w => (w.1, if w.2.state != .invalid && w.2.line == m.line then ({} : Way) else w.2) }
  { s with copies := put s.copies m.line ((find s.copies m.line []).filter (· != m.dst)) }

/-- Increments a die's own entry of its vector. -/
def State.tick (s : State) (die : Nat) : State :=
  s.modDie die fun d => { d with vec := setAt d.vec die ((d.vec.getD die 0 + 1) % 2 ^ 16) }

/-- A write or atomic that a die sends to another: every message to that die which its vector shows as causally earlier is
applied first, then the write itself, at once (log 4). -/
def State.crossDie (s : State) (src dst : Nat) : State :=
  if src = dst then s
  else
    let s := s.tick src
    let v := (s.die src).vec
    let s := (s.dieMsgs.filter fun m => m.dst == dst && m.before v).foldl State.applyDieMsg
      { s with dieMsgs := s.dieMsgs.filter fun m => !(m.dst == dst && m.before v) }
    s.modDie dst fun d => d.takeVec dst v

/-- A die's own entry is 2^15 ahead of the oldest of its messages not yet applied: it sends no new one (R242). -/
def State.dieFull (s : State) (die : Nat) : Bool :=
  match s.dieMsgs.find? fun m => m.src = die with
  | none => false
  | some m => 2 ^ 15 ≤ ((s.die die).vec.getD die 0 + 2 ^ 16 - m.vec.getD die 0) % 2 ^ 16

/-- A write by a die to an address must wait: it would cross to another die, and the die sends no new message (R242). -/
def State.crossFull (s : State) (die a : Nat) : Bool := decide ((homeOf a).die ≠ die) && s.dieFull die

/-- A write or atomic by a die to a core of another must wait likewise. -/
def State.crossBusy (s : State) (src dst : Nat) : Bool := src != dst && s.dieFull src

/-- Invalidations to every other die that may hold a copy of the line, but for the die whose store updates its own (R66). -/
def State.invalidateCopies (s : State) (line home : Nat) (updates : Option Nat) : State :=
  let ds := (find s.copies line []).filter fun d => d != home && updates != some d
  ds.foldl (fun s d =>
    let s := s.tick home
    { s with dieMsgs := s.dieMsgs ++ [{ src := home, dst := d, line := line, vec := (s.die home).vec }] }) s

/-! ## Reads and writes of lines -/

/-- The slice at which a read by a cluster is served: the home slice, or the caching slice of its own die when the line is
remote and that slice holds it (R65, R66). -/
def State.servedAt (s : State) (line cluster : Nat) : Home :=
  let home := homeOf line
  let die := dieOf cluster
  if die = home.die then home
  else
    let c := cachingOf line die
    if ((s.lineSet c).hit line).isSome then c else home

/-- A plain read of an HBM line by a cluster: at its home slice; of a remote line at the caching slice of its own die, which
on a miss gets the line from its home and fills a remote way, if there is an eligible one (R65-R68). That fill is a read by the
caching slice's cluster, and joins a window at the home as one; R72 does not say (log 88). -/
def State.readLine (s : State) (line part cluster cache : Nat) (combines : Bool) : State :=
  let home := homeOf line
  let die := dieOf cluster
  let join := fun (s : State) (h : Home) (c : Nat) => if combines then s.joinWindow h line part c else s
  if die = home.die then (join s home cluster).lineAccess home line part cache false
  else
    let c := cachingOf line die
    if ((s.lineSet c).hit line).isSome then (join s c cluster).lineAccess c line part cache false
    else if (s.die die).rwaysAt s.cyc = 0 then (join s home cluster).lineAccess home line part cache false
    else
      let s := (join s c cluster).lineAccess c line part cache false
      (join s home c.cluster).lineAccess home line part cache false

/-- A write or atomic to an HBM line: performed at its home slice. Windows that are open at the home or at a caching slice
are answered with the value before (R72); other dies' copies are invalidated, and a store updates the copy of its own die
(R66). -/
def State.writeLine (s : State) (line part srcDie cache : Nat) (isStore : Bool) : State :=
  let home := homeOf line
  let s := s.closeWindow home line
  let s := ([0, 1, 2, 3].filter (· != home.die)).foldl (fun s d => s.closeWindow (cachingOf line d) line) s
  let s := s.crossDie srcDie home.die
  let s := s.lineAccess home line part cache true
  s.invalidateCopies line home.die (if isStore then some srcDie else none)

/-! ## Pins (R64) -/

/-- The tile-fetch unit pins a line in a way of its slice; a set holds at most 8 pinned ways. -/
def State.pinLine (s : State) (h : Home) (line : Nat) : State × Bool :=
  let t := s.lineSet h
  let pinned := (rangeFrom 0 16).filter fun k => (t.way k).state = .pinned
  match t.hit line with
  | none => (s, false)
  | some k =>
    let w := t.way k
    if w.state = .pinned then (s.modSet h fun t => { t with ways := put t.ways k { w with pins := w.pins + 1 } }, true)
    else if 8 ≤ pinned.length then (s, false)
    else
      let w := { w with state := .pinned, dirty := decide (w.state = .dirty), pins := 1 }
      (s.modSet h fun t => { t with ways := put t.ways k w }, true)

/-- The slice of a die that holds a line: its home slice, or the caching slice of another die (R65). -/
def sliceIn (line die : Nat) : Home := if die = (homeOf line).die then homeOf line else cachingOf line die

/-- Releases one pin of a line. -/
def State.unpinLine (s : State) (h : Home) (line : Nat) : State :=
  let t := s.lineSet h
  match t.hit line with
  | none => s
  | some k =>
    let w := t.way k
    if w.state != .pinned then s
    else
      let w := if w.pins ≤ 1 then { w with state := if w.dirty then .dirty else .clean, pins := 0, dirty := false }
        else { w with pins := w.pins - 1 }
      s.modSet h fun t => { t with ways := put t.ways k w }

end Sys2Proof.Machine
end

