-- ==== Sys2Proof/Machine/Phys.lean ====
section
/-!
DEFINITION. Physical memory as the masters meet it: the causal order and the race rule (11 R240-R243), the dirty bitmap
(03 R60), the copy before a write of a checkpoint (22 R402), poison and sync records cleared by whole-line writes
(03 R59, 11 R249), watches (11 R261), the scope checker (11 R247, R248).
-/

namespace Sys2Proof.Machine

/-! ## Causal order (11 R240) -/

/-- How a write takes part in the order: a store or an engine's store for a context; an atomic; a store of another device, with
the clock in which its fence interval began here; a host write; a write of the hardware's own (a walker, the dirty bitmap, a
ring record). -/
inductive WKind where
  | store | atomic
  | far (since : Nat)
  | host | unit
  deriving DecidableEq, Repr

/-- A master's write. -/
structure Writer where
  agent : Nat := 0
  part : Nat := 0
  die : Nat := 0
  cache : Nat := 0
  kind : WKind := .store
  deriving DecidableEq, Repr

/-- The context that acts, as a writer. -/
def State.writer (s : State) (cache : Nat) : Writer :=
  { agent := s.agent, part := s.activity.part, die := dieOf (s.turn.core / 8), cache := cache }

/-- R243: a store loses against a concurrent store of a higher triple to the same word. Stores of other devices take no part in
the causal order (R240): one counts as concurrent with what was performed here in its fence interval, until that interval is
acknowledged (log 30). -/
def State.loses (s : State) (w : Writer) (word : Nat) : Bool :=
  match look s.wrote word with
  | none => false
  | some m => !m.yields && decide (agentTriple w.agent < agentTriple m.agent) && (match w.kind with
    | .store => m.far || decide (find (s.knows w.agent) m.agent 0 < m.count)
    | .far since => m.far || decide (since ≤ m.clock)
    | .atomic | .host | .unit => false)

/-! ## Watches (R261) -/

/-- What a read of the word at an address is after: the store it reads from and what that store is after (R240). -/
def State.wordKnow (s : State) (a : Nat) : Know := match look s.wrote (a / 8) with
  | some m => m.know
  | none => []

/-- Ends the watches on a line, in the order in which they were entered; the reply tells what the word's writer had performed. -/
def State.endWatches (s : State) (line : Nat) : State :=
  let h := homeOf line
  let ws := (s.sliceAt h).watches.filter fun w => w.addr / 128 = line / 128
  if ws.isEmpty then s
  else
    let s := s.modSlice h fun l => { l with watches := l.watches.filter fun w => w.addr / 128 ≠ line / 128 }
    ws.foldl (fun s w =>
      s.reply w.core w.ctx w.far 0 { value := wordOf (readNat s.mem w.addr w.width), status := 1, know := s.wordKnow w.addr }) s

/-! ## Dirty bitmap and checkpoints -/

/-- The partition whose memory range holds an address. -/
def State.ownerOf (s : State) (a : Nat) : Option Nat :=
  (rangeFrom 0 8).find? fun p =>
    let r := s.part p
    r.valid && decide (r.mbase ≤ a) && decide (a < r.mbase + r.msize)

/-- Sets the bitmap bit of an address's 64 KiB granule (R60). The bit itself is no write of its own (log 5). -/
def State.markDirty (s : State) (a : Nat) : State :=
  match s.ownerOf a with
  | none => s
  | some p =>
    let r := s.part p
    let i := (a - r.mbase) / 65536
    let at' := r.dirty + i / 8
    let b := readByte s.mem at'
    { s with mem := writeByte s.mem at' (b ||| BitVec.ofNat 8 (2 ^ (i % 8))) }

/-- The session's cut is copying, the granule belongs to its set and has not been copied yet (22 R402). -/
def Ckpt.pending (k : Ckpt) (g : Nat) : Bool := k.active && k.todo.contains g && !(k.staged.any fun e => e.1 = g)

/-- A write to the address must wait: its granule needs staging and staging is full (R402). -/
def State.stageFull (s : State) (a : Nat) : Bool :=
  match s.ownerOf a with
  | none => false
  | some p =>
    match look s.ckpts p with
    | none => false
    | some k => k.pending (a / 65536 * 65536) && 1024 ≤ k.staged.length

/-- Where a granule is copied from: its slot of staging, or its own place. -/
def Ckpt.sourceOf (c : Ckpt) (g : Nat) : Nat := match c.staged.find? fun e => e.1 == g with
  | some e => c.staging + e.2 * 65536
  | none => g

/-- A granule has been copied. -/
def Ckpt.copyDone (c : Ckpt) (g : Nat) : Ckpt :=
  { c with todo := c.todo.erase g, staged := c.staged.filter fun e => e.1 != g, copied := c.copied + 1, doneSet := c.doneSet ++ [g] }

/-- A system copy engine writes a granule of the cut of a partition to its destination (R402). -/
def State.copyGranule (s : State) (p g : Nat) : State := match look s.ckpts p with
  | none => s
  | some c =>
    let m := writeBytes s.mem (c.dest + (g - (s.part p).mbase)) (readBytes s.mem (c.sourceOf g) 65536)
    ({ s with mem := m, ckpts := put s.ckpts p (c.copyDone g) } : State).count p 9 512

/-- The granules that are still to copy up to the first staged one. -/
def Ckpt.upToStaged (c : Ckpt) : List Nat :=
  let rest := c.todo.dropWhile fun g => !(c.staged.any fun e => e.1 == g)
  (c.todo.takeWhile fun g => !(c.staged.any fun e => e.1 == g)) ++ rest.take 1

/-- Staging is full: the engines drain a staged granule, in the order of the addresses, before anything more is staged (R402). -/
def State.drainStaging (s : State) (p : Nat) : State := match look s.ckpts p with
  | none => s
  | some c => if 1024 ≤ c.staged.length then c.upToStaged.foldl (fun s g => s.copyGranule p g) s else s

/-- The lowest free slot of a staging buffer. -/
def Ckpt.freeSlot (k : Ckpt) : Nat :=
  match (rangeFrom 0 1024).find? fun i => !(k.staged.any fun e => e.2 = i) with
  | some i => i
  | none => 0

/-- Copies a granule into staging before the first write to it after the cut (R402). The staging buffer lies in the
partition's range, so that the copy sets the bitmap bit of the granule it writes (R60). A write for which no instruction waits,
such as a walker's, finds room once the engines have drained a granule. -/
def State.stage (s : State) (a : Nat) : State :=
  match s.ownerOf a with
  | none => s
  | some p =>
    let g := a / 65536 * 65536
    let s := if ((look s.ckpts p).map fun k => k.pending g).getD false then s.drainStaging p else s
    match look s.ckpts p with
    | none => s
    | some k =>
      if k.pending g then
        let n := k.freeSlot
        let slot := k.staging + n * 65536
        let s := s.markDirty slot
        { s with mem := writeBytes s.mem slot (readBytes s.mem g 65536), ckpts := put s.ckpts p { k with staged := k.staged ++ [(g, n)] } }
      else s

/-! ## Reading and writing -/

/-- The line addresses that `n` bytes from `a` touch. -/
def linesOf (a n : Nat) : List Nat :=
  if n = 0 then [] else (rangeFrom (a / 128) ((a + n - 1) / 128 - a / 128 + 1)).map (· * 128)

/-- Notes who wrote a word last. -/
def State.markWord (s : State) (w : Writer) (count : Nat) (word : Nat) : State :=
  match w.kind with
  | .store => { s with wrote := put s.wrote word { agent := w.agent, count := count, know := s.knows w.agent, clock := s.cyc } }
  | .far _ => { s with wrote := put s.wrote word { agent := w.agent, far := true, clock := s.cyc } }
  | .atomic => { s with wrote := put s.wrote word { agent := w.agent, count := count, know := s.knows w.agent, yields := true } }
  | .host | .unit => { s with wrote := drop s.wrote word }

/-- The first addresses in the 64 KiB granules that `n` bytes from `a` touch. -/
def dirtyGranules (a n : Nat) : List Nat :=
  if n = 0 then [] else (rangeFrom (a / 65536) ((a + n - 1) / 65536 - a / 65536 + 1)).map fun g => max a (g * 65536)

/-- Numbers the store of a context among its stores. -/
def State.stamp (s : State) (w : Writer) : Nat × State :=
  match w.kind with
  | .store | .atomic =>
    let k := s.knows w.agent
    let n := find k w.agent 0 + 1
    (n, { s with know := put s.know w.agent (put k w.agent n) })
  | .far _ | .host | .unit => (0, s)

/-- What a write that covers a whole line and does not synchronise clears (03 R59, 11 R249). -/
def State.coverLine (s : State) (line : Nat) : State :=
  { s with poisoned := s.poisoned.filter (· != line), badLines := s.badLines.filter (· != line), sync := drop s.sync line }

/-- The words of a write that the race rule keeps. -/
def State.kept (s : State) (w : Writer) (a n : Nat) : List Nat :=
  (wordsOf a n).filter fun x => !s.loses w x

/-- Writes the bytes whose words are kept. -/
def writeKept (m : Memory) (keep : List Nat) : Nat → List Byte → Memory
  | _, [] => m
  | a, b :: bs => writeKept (if keep.contains (a / 8) then writeByte m a b else m) keep (a + 1) bs

/-- A write crosses from its die to the home dies of its lines, whether or not the race rule keeps any of it (R242). -/
def State.crossLines (s : State) (w : Writer) (ls : List Nat) : State :=
  ls.foldl (fun s l => s.crossDie w.die (homeOf l).die) s

/-- A write to HBM by a master: performed at once at the home slices of its lines (log 4). The staging copy and the
bitmap come before it (R60, R402); the race rule drops the words it loses (R243); watches end after it (R261). -/
def State.write (s : State) (w : Writer) (a : Nat) (bs : List Byte) : State :=
  let n := bs.length
  let (count, s) := s.stamp w
  let keep := s.kept w a n
  if keep.isEmpty then s.crossLines w (linesOf a n)
  else
    let s := (dirtyGranules a n).foldl (fun s g => (s.stage g).markDirty g) s
    let s := (linesOf a n).foldl (fun s l => s.writeLine l w.part w.die w.cache (decide (w.kind = .store))) s
    let s := { s with mem := writeKept s.mem keep a bs }
    let s := keep.foldl (fun s x => s.markWord w count x) s
    (linesOf a n).foldl (fun s l =>
      let s := if decide (a ≤ l) && decide (l + 128 ≤ a + n) then s.coverLine l else s
      s.endWatches l) s

/-- The stores of a context of another device are performed at POD scope (12 R275): what is stored later replaces them. -/
def State.settleFar (s : State) (agent : Nat) : State :=
  { s with wrote := s.wrote.map fun (e : Nat × WordMark) => (e.1, if e.2.far && e.2.agent == agent then { e.2 with yields := true } else e.2) }

/-- A read by an agent: it observes the stores it reads from (R240). -/
def State.observeRead (s : State) (agent a n : Nat) : State :=
  (wordsOf a n).foldl (fun s x =>
    match look s.wrote x with
    | some m => s.learn agent m.know
    | none => s) s

/-- A read of HBM by a cluster for an agent. `combines` is set for a plain read (04 R72). -/
def State.read (s : State) (agent part cluster cache : Nat) (combines : Bool) (a n : Nat) : List Byte × State :=
  let s := (linesOf a n).foldl (fun s l => s.readLine l part cluster cache combines) s
  (readBytes s.mem a n, s.observeRead agent a n)

/-! ## HOST and CXL (R425) -/

/-- A write to HOST or CXL that N0 performs: in the order of its arrival there (R425), with the causal links of any store. -/
def State.outWrite (s : State) (w : Writer) (a : Nat) (bs : List Byte) : State :=
  let s := s.crossDie w.die 4
  let (count, s) := s.stamp { w with kind := .store }
  let m : WordMark := { agent := w.agent, count := count, know := s.knows w.agent, yields := true, clock := s.cyc }
  let s := { s with mem := writeBytes s.mem a bs }
  { s with wrote := (wordsOf a bs.length).foldl (fun k x => put k x m) s.wrote }

/-- A read of HOST or CXL that N0 performs for an agent. -/
def State.outRead (s : State) (agent a n : Nat) : List Byte × State := (readBytes s.mem a n, s.observeRead agent a n)

/-- The host or the memory expander changes memory of its own: what reads find there is what it returns (R425). -/
def State.outsideWrite (s : State) (a : Nat) (bs : List Byte) : State :=
  if (inHost a && inHost (a + bs.length)) || (inCxl a && inCxl (a + bs.length)) then
    { s with mem := writeBytes s.mem a bs, wrote := (wordsOf a bs.length).foldl (fun k x => drop k x) s.wrote }
  else s

/-! ## The scope checker (R247, R248) -/

/-- The identifier of a requester's instance of a scope (R238). -/
def instanceId (scope core ctx : Nat) : Nat :=
  match scope with
  | 1 => core * 4 + ctx
  | 2 => core
  | 3 => core / 8
  | 4 => dieOf (core / 8)
  | _ => 0

/-- The device index of an instance; POD and wider instances have none. -/
def instanceDev (scope dev : Nat) : Nat := if scope ≤ 5 then dev else 0

/-- The instance of a scope that contains a recorded instance of a narrower one. -/
def widen238 (r : SyncRec) (scope : Nat) : SyncRec :=
  let die := if r.scope = 4 then r.inst
    else dieOf (if r.scope = 1 then r.inst / 32 else if r.scope = 2 then r.inst / 8 else r.inst)
  let inst := match scope with
    | 1 => r.inst
    | 2 => if r.scope = 1 then r.inst / 4 else r.inst
    | 3 => if r.scope = 1 then r.inst / 32 else if r.scope = 2 then r.inst / 8 else r.inst
    | 4 => die
    | _ => 0
  { scope := scope, dev := instanceDev scope r.dev, inst := inst }

/-- Word 4 of the fault message (R248). -/
def SyncRec.word (r : SyncRec) : Word := wordOf (at_ r.scope 3 61 + at_ r.dev 8 48 + at_ r.inst 16 0)

/-- The check of a synchronising access by a context of a device: the state with the line's record replaced, or the
fault's detail and extra word. -/
def State.scopeCheck (s : State) (a va scope dev core ctx : Nat) : Except (Word × Word) State :=
  let line := a / 128 * 128
  let mine : SyncRec := { scope := scope, dev := instanceDev scope dev, inst := instanceId scope core ctx }
  let ok := { s with sync := put s.sync line mine }
  match look s.sync line with
  | none => .ok ok
  | some r =>
    if r.scope ≤ scope ∧ widen238 r scope = mine then .ok ok
    else .error (wordOf (at_ r.scope 3 61 + at_ scope 3 58 + at_ va 52 0), r.word)

end Sys2Proof.Machine
end

