-- ==== Sys2Proof/Machine/Translate.lean ====
section
/-!
DEFINITION. Address translation (03 R48-R60): table entries, the walk, the TLBs, the order of the tests and the faults
of R57, the setting of A and D, the spaces and the partition's ranges (22 R394).
-/

namespace Sys2Proof.Machine

/-! ## Table entries (R50, R51) -/

/-- V -/
def pteValid (e : Nat) : Bool := bitsOf e 0 0 = 1
/-- KIND -/
def pteKind (e : Nat) : Nat := bitsOf e 2 1
/-- ADDR as a physical address -/
def pteAddr (e : Nat) : Nat := bitsOf e 47 7 * 128
/-- RUN -/
def pteRun (e : Nat) : Nat := bitsOf e 57 56
/-- A and D as a mask -/
def pteA : Nat := 2 ^ 48
/-- D -/
def pteD : Nat := 2 ^ 49

/-- Pages of a run as log2 of its entries: 32 or 512. -/
def runLog (run : Nat) : Nat := if run = 1 then 5 else 9

/-- A valid entry is malformed by itself at a level: 0 directory, 1 region table, 2 leaf table, 3 sub-table (R51).
A pointer has no RUN and no rights, a sub-table leaf no RUN (log 10). -/
def pteMalformed (level e : Nat) : Bool :=
  let k := pteKind e
  let rights := bitsOf e 55 52
  let kindOk := match level with
    | 0 => k = 0
    | 1 => k = 0 || k = 1
    | 2 => k = 1 || k = 2
    | _ => k = 1
  let align := match level, k with
    | 1, 1 => 2 ^ 29
    | 3, _ => 4096
    | 2, 2 => 128
    | _, _ => 65536
  bitsOf e 63 58 != 0 || bitsOf e 51 50 != 0 || bitsOf e 6 3 != 0 || !kindOk || pteAddr e % align != 0
    || (k != 1 && (pteRun e != 0 || rights != 0)) || (level == 3 && pteRun e != 0) || pteRun e == 3

/-- How a walk fails: cause and level of R57, for cause 6 the line, and the addresses of the entries it has read. -/
structure WalkFail where
  cause : Nat
  level : Nat
  line : Nat := 0
  reads : List Nat := []
  deriving DecidableEq, Repr

/-- What a walk found: the leaf, the addresses of the entries of its path and of all that it read, and the upper-level entries. -/
structure Walked where
  leaf : TlbEntry
  path : List Nat
  reads : List Nat
  upper : List (Nat × Nat × Nat × Nat)
  deriving DecidableEq, Repr

/-- A walk that has read the entry at an address before it goes on. -/
def afterRead (a : Nat) : Except WalkFail Walked → Except WalkFail Walked
  | .ok w => .ok { w with path := a :: w.path, reads := a :: w.reads }
  | .error f => .error { f with reads := a :: f.reads }

/-- Reads a table entry (R59): a line with an uncorrectable error, or marked poisoned, fails the walk. -/
def State.readPte (s : State) (level a : Nat) : Except WalkFail Nat :=
  let line := a / 128 * 128
  if s.badLines.contains line || s.poisoned.contains line then .error { cause := 6, level := level, line := line }
  else
    let e := readNat s.mem a 8
    if !pteValid e then .error { cause := 1, level := level }
    else if pteMalformed level e then .error { cause := 2, level := level }
    else .ok e

/-- The entry of the core or cluster TLB for a leaf that was read at place `k` of its run: the run's base is the leaf's
address less `k` pages of 64 KiB, so that an access through its own entry gets that entry's address (R52, log 63). -/
def leafEntry (part va e level bits k : Nat) (dirt own : Nat × Nat) : TlbEntry :=
  { part := part, va := va / 2 ^ bits * 2 ^ bits, bits := bits, pa := (pteAddr e + 2 ^ 48 - k * 65536) % 2 ^ 48
    su := bitsOf e 55 55 = 1, ex := bitsOf e 54 54 = 1, wr := bitsOf e 53 53 = 1, rd := bitsOf e 52 52 = 1
    level := level, dset := false, dirt := dirt, own := own }

/-- The physical address of a virtual address that an entry covers. -/
def TlbEntry.phys (t : TlbEntry) (va : Nat) : Nat := (t.pa + (va - t.va)) % 2 ^ 48

/-- The test of an entry with RUN against the first entry of its group in the table at `base` (R51): the address of that
entry and the group's entries as a power of 2. -/
def State.runGroup (s : State) (level base i e : Nat) : Except WalkFail (Nat × Nat) :=
  let n := runLog (pteRun e)
  let first := base + 8 * (i / 2 ^ n * 2 ^ n)
  let line := first / 128 * 128
  if s.badLines.contains line || s.poisoned.contains line then .error { cause := 6, level := level, line := line, reads := [first] }
  else if pteRun (readNat s.mem first 8) ≠ pteRun e then .error { cause := 2, level := level, reads := [first] }
  else .ok (first, n)

/-- A walk that ends at the leaf `t`, after it has read `also`. -/
def walked (t : TlbEntry) (also : List Nat) : Except WalkFail Walked := .ok { leaf := t, path := [], reads := also, upper := [] }

/-- The walk from a leaf table on (R49). -/
def State.walkLeaf (s : State) (part va base : Nat) : Except WalkFail Walked :=
  let i := bitsOf va 28 16
  let a := base + 8 * i
  afterRead a (match s.readPte 2 a with
    | .error f => .error f
    | .ok e =>
      if pteKind e = 2 then
        let b := pteAddr e + 8 * bitsOf va 15 12
        afterRead b (match s.readPte 3 b with
          | .error f => .error f
          | .ok f => walked (leafEntry part va f 3 12 0 (a, 1) (a, e)) [])
      else if pteRun e = 0 then walked (leafEntry part va e 2 16 0 (a, 1) (a, e)) []
      else match s.runGroup 2 base i e with
        | .error f => .error f
        | .ok g => walked (leafEntry part va e 2 (16 + g.2) (i % 2 ^ g.2) (g.1, 2 ^ g.2) (a, e)) [g.1])

/-- The walk from a region table on. -/
def State.walkRegion (s : State) (part va base : Nat) : Except WalkFail Walked :=
  let i := bitsOf va 41 29
  let a := base + 8 * i
  afterRead a (match s.readPte 1 a with
    | .error f => .error f
    | .ok e =>
      if pteKind e ≠ 1 then (s.walkLeaf part va (pteAddr e)).map fun w => { w with upper := [(part, 1, va / 2 ^ 29, pteAddr e)] }
      else if pteRun e = 0 then walked (leafEntry part va e 1 29 0 (a, 1) (a, e)) []
      else match s.runGroup 1 base i e with
        | .error f => .error f
        | .ok g => walked (leafEntry part va e 1 29 0 (a, 1) (a, e)) [g.1])

/-- The walk of a cluster's walker: from the deepest table its upper-level cache names, else from the directory. -/
def State.walk (s : State) (cluster part va : Nat) : Except WalkFail Walked :=
  let up := (s.cluster cluster).upper
  match up.find? fun u => u.1 == part && u.2.1 == 1 && u.2.2.1 == va / 2 ^ 29 with
  | some u => s.walkLeaf part va u.2.2.2
  | none =>
    match up.find? fun u => u.1 == part && u.2.1 == 0 && u.2.2.1 == va / 2 ^ 42 with
    | some u => s.walkRegion part va u.2.2.2
    | none =>
      let a := bitsOf (s.part part).root 47 13 * 8192 + 8 * bitsOf va 51 42
      afterRead a (match s.readPte 0 a with
        | .error f => .error f
        | .ok e => (s.walkRegion part va (pteAddr e)).map fun w => { w with upper := (part, 0, va / 2 ^ 42, pteAddr e) :: w.upper })

/-! ## Installing -/

/-- A free value of its own (log 9). -/
def State.takeFree (s : State) : Nat × State := (s.freeCount, { s with freeCount := s.freeCount + 1 })

/-- Puts an entry into a list of at most `cap`: one of the same key goes, else, when it is full, the one the device
chooses (03 R54 gives no rule). -/
def installIn {α : Type} (cap victim : Nat) (same : α → Bool) (xs : List α) (x : α) : List α :=
  let ys := xs.filter fun y => !same y
  if ys.length < cap then ys ++ [x] else (ys.eraseIdx (victim % cap)) ++ [x]

/-- The choice of a victim is a free value; it is taken only when something must go. -/
def State.chooseVictim (s : State) (full : Bool) : Nat × State :=
  if full then (Config.tlbVictim s.freeCount, { s with freeCount := s.freeCount + 1 }) else (0, s)

/-- The two entries translate the same page. -/
def TlbEntry.samePage (a b : TlbEntry) : Bool := a.part == b.part && a.va == b.va && a.bits == b.bits

/-- The entry translates an address. -/
def TlbEntry.covers (t : TlbEntry) (part va : Nat) : Bool := t.part == part && va / 2 ^ t.bits * 2 ^ t.bits == t.va

/-- The set of the cluster TLB, 1,024 entries in 8 ways, that holds an entry: its page number modulo 128. R54 gives the ways
and no index (log 64). -/
def TlbEntry.set (t : TlbEntry) : Nat := t.va / 2 ^ t.bits % 128

/-- Installs a leaf in its set of the cluster TLB, and in the core TLB of a core's access. -/
def State.installLeaf (s : State) (cluster : Nat) (core : Option Nat) (t : TlbEntry) : State :=
  let mine := (s.cluster cluster).tlb.filter fun x => x.set == t.set
  let (v, s) := s.chooseVictim (decide (8 ≤ mine.length))
  let s := s.modCluster cluster fun k =>
    { k with tlb := (k.tlb.filter fun x => x.set != t.set) ++ installIn 8 v (t.samePage) mine { t with dset := false } }
  match core with
  | none => s
  | some n =>
    let c := (s.core n).tlb
    let (v, s) := s.chooseVictim (decide (32 ≤ c.length))
    s.modCore n fun k => { k with tlb := installIn 32 v (t.samePage) k.tlb t }

/-- Installs the upper-level entries a walk read: 16 directory and 64 region entries. -/
def State.installUpper (s : State) (cluster : Nat) (us : List (Nat × Nat × Nat × Nat)) : State :=
  us.foldl (fun s u =>
    let up := (s.cluster cluster).upper
    let cap := if u.2.1 = 0 then 16 else 64
    let mine := up.filter fun x => x.2.1 == u.2.1
    let others := up.filter fun x => x.2.1 != u.2.1
    let (v, s) := s.chooseVictim (decide (cap ≤ mine.length))
    s.modCluster cluster fun k =>
      { k with upper := others ++ installIn cap v (fun x => x.1 == u.1 && x.2.2.1 == u.2.2.1) mine u }) s

/-- A walker's compare-and-set of bits of an entry at its home slice (R56); a set bit stays as it is. -/
def State.setPte (s : State) (part cluster a bits : Nat) : State :=
  let e := readNat s.mem a 8
  let f := e ||| bits
  if e = f then s
  else s.write { part := part, die := dieOf cluster, kind := .unit } a (bytesOfNat 8 f)

/-- The load of a table entry by a walker goes through the line's home slice (R55). -/
def State.walkLoad (s : State) (part a : Nat) : State :=
  let line := a / 128 * 128
  if inHbm line then s.lineAccess (homeOf line) line part 0 false else s

/-- D on every entry that a write through a translation sets: its own, the pointer to its sub-table, or all of its run
(R60). -/
def State.setDirt (s : State) (part cluster : Nat) (d : Nat × Nat) : State :=
  (rangeFrom 0 d.2).foldl (fun s k => s.setPte part cluster (d.1 + 8 * k) pteD) s

/-- The loads of a walk. -/
def State.walkLoads (s : State) (part : Nat) (reads : List Nat) : State := reads.foldl (fun s a => s.walkLoad part a) s

/-- The entries of a walk that it loads: a line that is marked poisoned is not read again (R59). -/
def State.unpoisoned (s : State) (reads : List Nat) : List Nat := reads.filter fun a => !s.poisoned.contains (a / 128 * 128)

/-- A walk that found its leaf: its loads, A on every entry of it, D where a write sets it (R55, R56, R60), then
the entries. -/
def State.finishWalk (s : State) (cluster : Nat) (core : Option Nat) (part : Nat) (isWrite : Bool) (w : Walked) : State :=
  let s := s.walkLoads part (s.unpoisoned w.reads)
  let s := w.path.foldl (fun s a => s.setPte part cluster a pteA) s
  let s := if isWrite then s.setDirt part cluster w.leaf.dirt else s
  let s := s.installUpper cluster w.upper
  s.installLeaf cluster core { w.leaf with dset := isWrite && decide (w.leaf.bits ≤ 16) }

/-! ## Translation (R57) -/

/-- A translation wanted: the partition, the privilege, the access kind of R57 (0 read, 1 write, 2 fetch, 3 atomic,
4 engine read, 5 engine write), the address, the cluster whose TLB serves it, and the core whose TLB it asks first. -/
structure Access where
  part : Nat
  super : Bool
  kind : Nat
  va : Nat
  cluster : Nat
  core : Option Nat
  deriving DecidableEq, Repr

/-- The access writes. -/
def Access.writes (x : Access) : Bool := x.kind = 1 || x.kind = 3 || x.kind = 5

/-- FAULTX of R57. -/
def faultX57 (cause level kind va : Nat) : Word := wordOf (at_ cause 4 60 + at_ level 4 56 + at_ kind 4 52 + at_ va 52 0)

/-- A failure of a translation: code, FAULTX, word 4 of the fault message. -/
abbrev TFail := FaultCode × Word × Word

/-- The fault of a failed walk. -/
def WalkFail.fault (f : WalkFail) (x : Access) : TFail :=
  let code := if f.cause = 6 then FaultCode.tablePoison else .notPresent
  (code, faultX57 f.cause f.level x.kind x.va, wordOf f.line)

/-- The address lies within the partition's range for its space, cause 8 of R57 (22 R394). Which device registers are
open is tested where they are accessed. -/
def State.inRange (s : State) (part pa : Nat) : Bool :=
  let p := s.part part
  if inHbm pa then decide (p.mbase ≤ pa) && decide (pa < p.mbase + p.msize)
  else if inHost pa then
    let b := fieldOf p.aperture 63 0
    decide (b ≤ pa) && decide (pa < b + fieldOf p.aperture 127 64)
  else if inCxl pa then
    let b := fieldOf p.aperture 191 128
    decide (b ≤ pa) && decide (pa < b + fieldOf p.aperture 255 192)
  else inDevreg pa

/-- The tests at the leaf, in order: cause 4, 3, 5, 8. -/
def State.leafTests (s : State) (x : Access) (t : TlbEntry) : Except TFail Nat :=
  let pa := t.phys x.va
  let fail := fun (code : FaultCode) (cause : Nat) => Except.error (code, faultX57 cause t.level x.kind x.va, 0#64)
  let rights := match x.kind with
    | 0 | 4 => t.rd
    | 1 | 5 => t.wr
    | 2 => t.ex
    | _ => t.rd && t.wr
  if t.su && !x.super then fail .protection 4
  else if !rights then fail .protection 3
  else if !(inHbm pa || inDevreg pa || inCxl pa || inHost pa) then fail .protection 5
  else if !s.inRange x.part pa then fail .violation 8
  else .ok pa

/-- The TLB entry an access hits: the core's, else the cluster's. -/
def State.tlbHit (s : State) (x : Access) : Option TlbEntry :=
  let near := match x.core with
    | some n => (s.core n).tlb.find? fun t => t.covers x.part x.va
    | none => none
  match near with
  | some t => some t
  | none => (s.cluster x.cluster).tlb.find? fun t => t.covers x.part x.va

/-- An access that hits: a core's entry is installed in its own TLB, and a write sets D through an entry that does not
remember it has done so; a core's entry of a page of 64 KiB or less remembers it (R60). The entry stays in use whatever has
become of its table line (R59). -/
def State.useHit (s : State) (x : Access) (t : TlbEntry) : State :=
  let sets := x.writes && !t.dset
  let s := if sets then s.setDirt x.part x.cluster t.dirt else s
  let t := { t with dset := t.dset || (sets && decide (t.bits ≤ 16)) }
  match x.core with
  | some n => if (s.core n).tlb.contains t then s else s.installLeaf x.cluster x.core t
  | none => s

/-- The table entry that a write must mark through a TLB entry is no more the one that the walk read, but for A and D: the
compare fails, and the walk is made anew (R56). -/
def State.compareFails (s : State) (x : Access) (t : TlbEntry) : Bool :=
  x.writes && !t.dset && decide (readNat s.mem t.own.1 8 ||| (pteA ||| pteD) ≠ t.own.2 ||| (pteA ||| pteD))

/-- The entries of an address go from the TLBs that an access asks. -/
def State.forget (s : State) (x : Access) : State :=
  let keep := fun (t : TlbEntry) => !t.covers x.part x.va
  let s := s.modCluster x.cluster fun k => { k with tlb := k.tlb.filter keep }
  match x.core with
  | some n => s.modCore n fun k => { k with tlb := k.tlb.filter keep }
  | none => s

/-- Translation by a walk. -/
def State.translateWalk (s : State) (x : Access) : Except TFail (Nat × State) :=
  match s.walk x.cluster x.part x.va with
  | .error f => .error (f.fault x)
  | .ok w =>
    match s.leafTests x w.leaf with
    | .error e => .error e
    | .ok pa => .ok (pa, s.finishWalk x.cluster x.core x.part x.writes w)

/-- Translates an address: the physical address and the state with what the walk installed, or the fault. A failed
translation installs nothing (log 11); the loads of its walk and a line that it finds lost come with the fault
(`State.lostBy`, `State.afterTurn`). -/
def State.translate (s : State) (x : Access) : Except TFail (Nat × State) :=
  if (s.part x.part).root % 2 = 0 then .error (.notPresent, faultX57 7 15 x.kind x.va, 0#64)
  else match s.tlbHit x with
  | some t =>
    if s.compareFails x t then (s.forget x).translateWalk x
    else match s.leafTests x t with
      | .error e => .error e
      | .ok pa => .ok (pa, s.useHit x t)
  | none => s.translateWalk x

/-- The entries that the walk of a failed translation has loaded through their home slices (R55). -/
def State.failReads (s : State) (x : Access) : List Nat :=
  match s.tlbHit x with
  | some _ => []
  | none => match s.walk x.cluster x.part x.va with
    | .ok w => s.unpoisoned w.reads
    | .error f => s.unpoisoned f.reads

/-- FAULTC and FAULTX of a translation that failed at an entry or a leaf: code and cause (R57). -/
def walkFault (code : Nat) (x : Word) : Bool :=
  let causes : List (FaultCode × List Nat) :=
    [(.notPresent, [1, 2]), (.protection, [3, 4, 5]), (.tablePoison, [6]), (.violation, [8])]
  causes.any fun r => r.1.toByte.toNat == code && r.2.contains (fieldOf x 63 60)

/-- The access whose translation failed with a FAULTX, as far as its walk goes. -/
def failAccess (part cluster : Nat) (core : Option Nat) (x : Word) : Access :=
  { part := part, super := false, kind := 0, va := fieldOf x 51 0, cluster := cluster, core := core }

/-- What a failed operation of an engine, a scheduler or another device leaves of a failed walk: the entries it loaded (R55), and a
line that it found lost is marked poisoned (R59). -/
def State.lostBy (s : State) (part cluster : Nat) (f : TFail) : State :=
  let s := if walkFault f.1.toByte.toNat f.2.1 then s.walkLoads part (s.failReads (failAccess part cluster none f.2.1)) else s
  s.noteLost f.1 f.2.2

/-- The space codes of R98 of a physical address. -/
def spaceOf (pa : Nat) : Nat := if inHbm pa then 0 else if inHost pa then 4 else if inCxl pa then 5 else 6

/-- The level of the table that holds the leaf of an address, as R57 gives it for faults of a translated page; 15 where the
address has no translation. -/
def State.levelOf (s : State) (x : Access) : Nat :=
  match s.tlbHit x with
  | some t => t.level
  | none => match s.walk x.cluster x.part x.va with
    | .ok w => w.leaf.level
    | .error _ => 15

/-- Translation for an access through a layout of a space: one that lands in another space raises LAYOUT (05 R101). R57 gives
this fault no cause: the model puts cause 0, with the level of the page (log 65). -/
def State.translateFor (s : State) (x : Access) (space : Nat) : Except TFail (Nat × State) :=
  match s.translate x with
  | .error e => .error e
  | .ok (pa, t) =>
    if spaceOf pa = space then .ok (pa, t) else .error (.layout, faultX57 0 (s.levelOf x) x.kind x.va, 0#64)

/-! ## Dropping entries (R58) -/

/-- log2 of the size of a range by its SIZE code. -/
def tinvBits (size : Nat) : Nat := match size with
  | 0 => 12 | 1 => 16 | 2 => 21 | 3 => 25 | 4 => 29 | _ => 52

/-- Two aligned ranges overlap. -/
def overlaps (a abits b bbits : Nat) : Bool :=
  let m := max abits bbits
  a / 2 ^ m == b / 2 ^ m

/-- An entry that an invalidation drops. -/
def TlbEntry.dropped (t : TlbEntry) (part va bits : Nat) : Bool := t.part == part && overlaps t.va t.bits va bits

/-- An upper-level entry that an invalidation drops. -/
def upperDropped (part va bits : Nat) (u : Nat × Nat × Nat × Nat) : Bool :=
  let b := if u.2.1 = 0 then 42 else 29
  u.1 == part && overlaps (u.2.2.1 * 2 ^ b) b va bits

/-- A core without the entries an invalidation drops. -/
def Core.dropTlb (c : Core) (part va bits : Nat) : Core :=
  { c with tlb := c.tlb.filter fun t => !t.dropped part va bits }

/-- A cluster without the entries an invalidation drops. -/
def Cluster.dropTlb (c : Cluster) (part va bits : Nat) : Cluster :=
  { c with
    tlb := c.tlb.filter fun t => !t.dropped part va bits
    upper := c.upper.filter fun u => !upperDropped part va bits u }

/-- Drops every entry of a partition that overlaps a range from the TLBs of a die. -/
def State.dropTlb (s : State) (die part va bits : Nat) : State :=
  let cores := s.cores.map fun e => if dieOf (e.1 / 8) = die then (e.1, e.2.dropTlb part va bits) else e
  let clusters := s.clusters.map fun e => if dieOf e.1 = die then (e.1, e.2.dropTlb part va bits) else e
  { s with cores := cores, clusters := clusters }

end Sys2Proof.Machine
end

