-- ==== Sys2Proof/Machine/Pool.lean ====
section
/-!
DEFINITION. The core pool (05 R85-R91): format tags and their checks, reads and writes, the undo window (15 R371), fill
windows (06 R134), and what a read of pool bytes is causally after (11 R240).
-/

namespace Sys2Proof.Machine

/-! ## Tag checks -/

/-- FAULTX of a FORMAT fault at a granule (R91). -/
def formatX (g : Nat) (found : BitVec 5) (ty : Nat) : Word := wordOf (at_ g 16 0 + at_ found.toNat 5 16 + at_ ty 4 24)

/-- The tag check of a read (R91): the first granule whose valid tag differs from the type. -/
def State.readTagFault (s : State) (core off n ty : Nat) : Option Word :=
  let c := s.core core
  (granulesOf off n).findSome? fun g =>
    let t := c.tag g
    if s.tagged core (g * 64) && tagValid t && t != tagOf ty then some (formatX g t ty) else none

/-- The tag check of a write (R90): a granule of another valid type that is written in part. -/
def State.writeTagFault (s : State) (core off n ty : Nat) : Option Word :=
  let c := s.core core
  (granulesOf off n).findSome? fun g =>
    let t := c.tag g
    let whole := decide (off ≤ g * 64) && decide (g * 64 + 64 ≤ off + n)
    if s.tagged core (g * 64) && !whole && tagValid t && t != tagOf ty then some (formatX g t ty) else none

/-! ## Writes -/

/-- Writes bytes into a pool and sets the tags of the granules touched to a type, both in one step (R90). The rest of a
NONE granule becomes zero. Watches on the granules end (11 R426). No check is made. -/
def State.poolWrite (s : State) (core off : Nat) (bs : List Byte) (ty : Nat) (know : Know) : State :=
  let n := bs.length
  let gs := (granulesOf off n).filter fun g => s.tagged core (g * 64)
  let s := s.modCore core fun c =>
    let fresh := gs.filter fun g => !tagValid (c.tag g)
    let m := fresh.foldl (fun m g => writeBytes m (g * 64) (List.replicate 64 0#8)) c.pool
    { c with
      pool := writeBytes m off bs
      tags := gs.foldl (fun t g => put t g (tagOf ty)) c.tags
      poolKnow := (wordsOf off n).foldl (fun k w => put k w know) c.poolKnow }
  s.endPadWatches core off n

/-- Writes raw bytes of the pool: the hardware's own areas and images. -/
def State.poolRaw (s : State) (core off : Nat) (bs : List Byte) : State :=
  s.modCore core fun c => { c with pool := writeBytes c.pool off bs }

/-- Sets the tag of a granule, data unchanged. -/
def State.setTag (s : State) (core g : Nat) (t : BitVec 5) : State :=
  s.modCore core fun c => { c with tags := if t = 0#5 then drop c.tags g else put c.tags g t }

/-! ## The undo window (15 R371) -/

/-- An offset lies where the process's writes are logged. -/
def State.logged (s : State) (p : Proc) (core off : Nat) : Bool :=
  p.regions.any (fun r => within r.2 off) || within p.land off || within (p.tileRange (s.core core).partw) off

/-- Saves the pre-image of one 32-byte chunk before its first write. -/
def State.logChunk (s : State) (n k chunk : Nat) : State :=
  let c := s.ctx n k
  if c.undoOver || c.undo.any (fun u => u.1 = chunk) then s
  else if 64 ≤ c.undo.length then s.setCtx n k { c with undoOver := true }
  else
    let bs := readBytes (s.core n).pool chunk 32
    let s := s.setCtx n k { c with undo := (chunk, bs) :: c.undo }
    s.poolRaw n (0x9800 + k * 0x800 + c.undo.length * 32) bs

/-- The 32-byte chunks that a write of `n` bytes changes: those that it touches, and both of a NONE granule, whose rest it fills
with zero bytes (05 R90). -/
def State.chunksOf (s : State) (core off n : Nat) : List Nat :=
  ((granulesOf off n).map fun g =>
    let fresh := s.tagged core (g * 64) && !tagValid ((s.core core).tag g)
    [g * 64, g * 64 + 32].filter fun c => fresh || (decide (off < c + 32) && decide (c < off + n))).flatten

/-- Logs a write by the activation that acts to `n` bytes of its own core's pool. -/
def State.logUndo (s : State) (off n : Nat) : State :=
  let core := s.turn.core
  ((s.chunksOf core off n).filter (s.logged s.self core)).foldl (fun s c => s.logChunk core s.turn.ctx c) s

/-- The activation that acts becomes unrollable (15 R370). -/
def State.setUnroll (s : State) : State := s.modActor fun c => { c with unroll := true }

/-! ## Fill windows (06 R133, R134) -/

/-- FWINw's fields. -/
def fwActive (w : Word) : Bool := fieldOf w 63 63 = 1
/-- FAILED -/
def fwFailed (w : Word) : Bool := fieldOf w 62 62 = 1
/-- START -/
def fwStart (w : Word) : Nat := fieldOf w 47 32
/-- END -/
def fwEnd (w : Word) : Nat := fieldOf w 31 16
/-- MARK -/
def fwMark (w : Word) : Nat := fieldOf w 15 0

/-- Where a fill window's offsets begin in the pool: register space of its context, a region or the landing region. -/
def State.fwBase (s : State) (core : Nat) (p : Proc) (w : Word) : Nat :=
  match fieldOf w 57 55 with
  | 0 => fieldOf w 54 53 * rsBytes (s.core core).partw
  | 2 => (find p.regions (fieldOf w 61 58) (0, 0)).1
  | _ => p.land.1

/-- What a fill window does to a read of pool bytes. -/
inductive FillHold where
  | free | stall | poison (off : Nat)
  deriving DecidableEq, Repr

/-- One window against `n` bytes from pool offset `off` (R134). -/
def State.fillHold1 (s : State) (core : Nat) (p : Proc) (off n : Nat) (w : Word) : FillHold :=
  let base := s.fwBase core p w
  let lo := max off (base + fwMark w)
  let hi := min (off + n) (base + fwEnd w)
  if hi ≤ lo then .free
  else if fwActive w then .stall
  else if fwFailed w then .poison (lo - base)
  else .free

/-- All windows of a core, from `k` on, against a read by a process that is on it. -/
def State.fillHoldFrom (s : State) (core : Nat) (p : Proc) (off n : Nat) : Nat → List Word → FillHold
  | _, [] => .free
  | k, w :: ws =>
    let h := if find (s.core core).fwOwner k 0 = p.name then s.fillHold1 core p off n w else .free
    match h with
    | .free => s.fillHoldFrom core p off n (k + 1) ws
    | h => h

/-- All windows of a core against a read by a process that is on it. -/
def State.fillHold (s : State) (core : Nat) (p : Proc) (off n : Nat) : FillHold :=
  s.fillHoldFrom core p off n 0 (s.core core).fwin.toList

end Sys2Proof.Machine
end

