-- ==== Sys2Proof/Machine/Access.lean ====
section
/-!
DEFINITION. Accesses through layouts (05 R98-R104): which entries are malformed (R99), the address of an element (R101),
its bytes in the core pools and in memory, the read-only cache (04 R74), and reading and writing bytes for a context or
an engine.
-/

namespace Sys2Proof.Machine

/-! ## Malformed entries (R99, R100, 07 R152) -/

/-- The entry's reserved fields are zero. -/
def layReservedZero (e : BitVec 512) : Bool :=
  fieldOf e 255 244 == 0 && fieldOf e 191 180 == 0 && fieldOf e 127 96 == 0 && fieldOf e 67 64 == 0
    && fieldOf e 53 40 == 0 && fieldOf e 31 24 == 0 && fieldOf e 21 19 == 0 && fieldOf e 15 3 == 0

/-- The entry is malformed (R99); `bound` entries L0-L15 have SPACE and VBASE bound (R100). An entry that is all zero is valid
(14 R329, log 39). -/
def layMalformed (bound : Bool) (e : BitVec 512) : Bool :=
  let sp := if bound then 2 else laySpace e
  let ty := layType e
  let r := layRank e
  let vb := layVbase e
  let sb := laySbase e
  let scaleBad := if bound || sp = 3 then decide (2 ^ 16 ≤ sb) else decide (2 ^ 30 ≤ sb) || sb / 2 ^ 16 != vb / 2 ^ 16
  e != 0#512 && (sp == 7 || layOor e == 3 || fieldOf e 55 54 == 3 || !layReservedZero e
    || decide (2 ^ laySwzShift e ≤ laySwzMask e)
    || (layRed e && (ty != 0 || sp != 0))
    || (layRop e && !(sp == 0 || sp == 4 || sp == 5))
    || (rangeFrom 0 4).any (fun i => decide (r ≤ i) && (layDim e i != 1 || layStride e i != 0))
    || (isSix ty && (layStride e 0 != 1 || layDim e 0 % 64 != 0))
    || (!bound && sp == 2 && decide (2 ^ 30 ≤ vb)) || (!bound && sp == 3 && decide (2 ^ 16 ≤ vb))
    || (isBlock ty && (sp == 2 || sp == 3) && scaleBad))

/-! ## Element addresses (R101) -/

/-- Where an element's coordinates lead: nowhere (OUT_ZERO), or to an element offset, which may be a clamped one. -/
inductive ElemOff where
  | zero
  | elem (off : Int) (clamped : Bool)
  deriving DecidableEq, Repr

/-- The offset of an element from dimension `i` on, with what the lower dimensions gave. -/
def elemOffsetFrom (e : BitVec 512) : Nat → List Int → Int → Bool → M ElemOff
  | _, [], off, cl => pure (.elem off cl)
  | i, c :: cs, off, cl =>
    let d : Int := (layDim e i : Nat)
    if 0 ≤ c ∧ c < d then elemOffsetFrom e (i + 1) cs (off + c * layStride e i) cl
    else if layOor e = 0 then failWith .layout (wordOf (at_ i 4 60 + at_ (wrapTo 60 c) 60 0))
    else if layOor e = 1 ∨ d = 0 then pure .zero
    else elemOffsetFrom e (i + 1) cs (off + clampInt c 0 (d - 1) * layStride e i) true

/-- The offset of the element at coordinates. -/
def elemOffset (e : BitVec 512) (cs : List Int) : M ElemOff := elemOffsetFrom e 0 (cs.take (layRank e)) 0 false

/-- Bytes of an element: 16 in a reduction region (06 R125). -/
def elemSize (e : BitVec 512) : Nat := if layRed e then 16 else typeBytes (layType e)

/-- The bank permutation of an address; none in pool spaces. -/
def permute (e : BitVec 512) (a : Int) : Int :=
  if laySpace e = 2 ∨ laySpace e = 3 ∨ a < 0 then a
  else
    let line := a.toNat / 128
    let line := line ^^^ (line / 2 ^ laySwzShift e &&& laySwzMask e)
    ((line * 128 + a.toNat % 128 : Nat) : Int)

/-- VBASE as a first byte: an address, or an offset in a pool or landing region. -/
def layBase (e : BitVec 512) : Int :=
  if laySpace e = 2 ∨ laySpace e = 3 then ((layVbase e % 65536 : Nat) : Int) else (layVbase e : Nat)

/-- The addresses of an element's bytes, lowest first. An element of 6 bits lies in one or two bytes, each placed by the
permutation of its own line. -/
def elemAddrs (e : BitVec 512) (off : Int) : List Int :=
  if isSix (layType e) then
    let first := layBase e + (6 * off).ediv 8
    if (6 * off).emod 8 ≤ 2 then [permute e first] else [permute e first, permute e (first + 1)]
  else
    let a := permute e (layBase e + off * elemSize e)
    (rangeFrom 0 (elemSize e)).map fun k => a + (k : Nat)

/-- The bit of the first byte at which an element starts. -/
def elemShift (e : BitVec 512) (off : Int) : Nat := if isSix (layType e) then ((6 * off).emod 8).toNat else 0

/-- The address of the scale byte of the block of an element (07 R152). -/
def scaleAddr (e : BitVec 512) (off : Int) : Int :=
  let sb : Int := if laySpace e = 2 ∨ laySpace e = 3 then ((laySbase e % 65536 : Nat) : Int) else (laySbase e : Nat)
  sb + off.ediv 64

/-! ## Who accesses -/

/-- A master that accesses memory for a process: a context, or an engine for the context that issued its command. -/
structure Client where
  slot : Nat := 0
  part : Nat := 0
  core : Nat := 0
  ctx : Nat := 0
  super : Bool := false
  engine : Bool := false
  /-- the agent of an engine's command -/
  agent : Nat := 0
  /-- CACHE of HMOD (08 R186) -/
  cache : Nat := 0
  /-- the access is a plain read that may join a combining window (04 R72) -/
  plain : Bool := true
  deriving DecidableEq, Repr

/-- The context that acts, as a client. -/
def State.client (s : State) (cache : Nat) : Client :=
  let a := s.activity
  { slot := a.slot, part := a.part, core := s.turn.core, ctx := s.turn.ctx, super := s.actor.super, cache := cache }

/-- The client's agent. -/
def State.clientAgent (s : State) (c : Client) : Nat := if c.engine then c.agent else agentOf s.devidx c.core c.ctx

/-- A translation for a client; kinds 0 and 1 become 4 and 5 for an engine, which uses no core TLB. A system copy engine's
misses are served by the cluster TLB and walker of the core that issued its command; 03 R54 names none for it (log 76). -/
def Client.access (c : Client) (kind va : Nat) : Access :=
  { part := c.part, super := c.super, kind := if c.engine then kind + 4 else kind, va := va, cluster := c.core / 8,
    core := if c.engine then none else some c.core }

/-- Runs an operation that may fail with a fault. -/
def orFail {α : Type} (f : State → Except TFail (α × State)) : M α := fun s =>
  match f s with
  | .ok r => .ok r
  | .error e => .error (.fault e.1 e.2.1 e.2.2)

/-- Translates an address of a layout's space for a client; one outside 52 bits raises LAYOUT (03 R48). A LAYOUT that
05 R101 raises for the wrong space carries no detail (15 R355). -/
def translateM (c : Client) (space kind : Nat) (a : Int) : M Nat :=
  if a < 0 ∨ (2 ^ 52 : Int) ≤ a then failWith .layout 0#64
  else orFail fun s => (s.translateFor (c.access kind a.toNat) space).mapError fun e =>
    if e.1 = .layout then (.layout, 0#64, 0#64) else e

/-! ## Rights and places -/

/-- The entry's right for an access kind: 0 read, 1 write, 3 atomic. -/
def layRight (e : BitVec 512) (kind : Nat) : Bool := if kind = 0 then layRrd e else if kind = 1 then layRwr e else layRat e

/-- A forbidden access raises PROTECTION, cause 3 (R101); below the cause stand the kind and the address (log 12). -/
def checkRight (e : BitVec 512) (kind : Nat) (a : Int) : M Unit :=
  guardFault (layRight e kind) .protection (wordOf (at_ 3 4 60 + at_ kind 4 52 + at_ (wrapTo 52 a) 52 0))

/-- The place of a pool byte that a layout names (R100, R101). A VBASE that names no core of the device raises LAYOUT; R101 names
only another partition's core (log 69). -/
def poolPlace (c : Client) (lid : Nat) (e : BitVec 512) (a : Int) : M Loc := do
  let s ← gets id
  let p := s.proc c.slot
  if laySpace e = 3 then
    if 0 ≤ a ∧ a < ((p.land.2 : Nat) : Int) then pure (.pool p.core (p.land.1 + a.toNat)) else failWith .layout 0#64
  else if lid < 16 then
    let r := find p.regions lid (0, 0)
    if (r.1 : Int) ≤ a ∧ a < ((r.1 + r.2 : Nat) : Int) then pure (.pool p.core a.toNat) else failWith .layout 0#64
  else
    let n := layVbase e / 65536 % 16384
    if !coreOk n then failWith .layout 0#64
    else if n ≠ p.core ∧ !s.coreInPart n c.part then failWith .violation 0#64
    else
      let w := (s.core n).partw
      if (padBase w : Int) ≤ a ∧ a < (padEnd w : Int) then pure (.pool n a.toNat) else failWith .protection 0#64

/-- The places of the bytes at addresses, each page translated once. -/
def placesFrom (c : Client) (lid : Nat) (e : BitVec 512) (kind : Nat) (ro : Bool) : Option (Int × Nat) → List Int → M (List Loc)
  | _, [] => pure []
  | page, a :: rest => do
    if laySpace e = 2 ∨ laySpace e = 3 then
      let l ← poolPlace c lid e a
      let ls ← placesFrom c lid e kind ro page rest
      pure (l :: ls)
    else
      let pg := a.ediv 4096
      let base ← match page with
        | some (q, b) => if q = pg then pure b else do
            let pa ← translateM c (laySpace e) kind a
            pure (pa / 4096)
        | none => do
            let pa ← translateM c (laySpace e) kind a
            pure (pa / 4096)
      let pa := base * 4096 + (a.emod 4096).toNat
      let ls ← placesFrom c lid e kind ro (some (pg, base)) rest
      pure ((if ro then Loc.ro (c.core / 8) pa else .phys pa) :: ls)

/-- The places of bytes at addresses of a layout. -/
def placesOf (c : Client) (lid : Nat) (e : BitVec 512) (kind : Nat) (ro : Bool) (as : List Int) : M (List Loc) :=
  placesFrom c lid e kind ro none as

/-- An access under ZERO or CLAMP is counted (R101). -/
def countOut (c : Client) : M Unit := mods fun s => s.count c.part 12 1

/-! ## Runs of bytes -/

/-- `m` continues right after `n` bytes from `l`. -/
def Loc.follows (l : Loc) (n : Nat) (m : Loc) : Bool :=
  match l, m with
  | .void, .void => true
  | .phys a, .phys b => b == a + n
  | .pool c o, .pool d p => c == d && p == o + n
  | .ro k a, .ro j b => k == j && b == a + n
  | _, _ => false

/-- Adjacent places joined into runs. -/
def runsOf : List Loc → List (Loc × Nat)
  | [] => []
  | l :: ls =>
    match runsOf ls with
    | [] => [(l, 1)]
    | (m, k) :: rs => if l.follows 1 m then (l, k + 1) :: rs else (l, 1) :: (m, k) :: rs

/-! ## The read-only cache (04 R74) -/

/-- One line as a read through the read-only cache of a cluster sees it: a hit returns what its fill returned; a miss
fills by HMOD's CACHE (08 R186) and replaces the least recent of the four ways of the line's set. The 64 sets are indexed by
the line's number modulo 64, the low bits of the physical address, which R74 does not say (log 68). -/
def State.roLine (s : State) (agent part cluster cache line : Nat) : List Byte × State :=
  let k := line / 128 % 64
  let ws := find (s.cluster cluster).ro k []
  match takeFirst (fun (w : RoLine) => w.line == line) ws with
  | some (w, rest) => (w.data, s.modCluster cluster fun c => { c with ro := put c.ro k (rest ++ [w]) })
  | none =>
    let (bs, s) := if inHbm line then s.read agent part cluster cache true line 128 else s.outRead agent line 128
    let keep := if ws.length < 4 then ws else ws.drop 1
    (bs, s.modCluster cluster fun c => { c with ro := put c.ro k (keep ++ [{ line := line, data := bs }]) })

/-- Bytes through the read-only cache. -/
def State.roRead (s : State) (agent part cluster cache a n : Nat) : List Byte × State :=
  (linesOf a n).foldl (fun (r : List Byte × State) line =>
    let (bs, t) := r.2.roLine agent part cluster cache line
    let lo := max a line
    let hi := min (a + n) (line + 128)
    (r.1 ++ (bs.drop (lo - line)).take (hi - lo), t)) ([], s)

/-! ## Reading and writing runs -/

/-- Reads one run for a client; a tagged granule of another type raises FORMAT (R91), a byte of a fill window that is
not yet filled holds the reader (06 R134). An access to HOST or CXL reaches N0 after those that stand there already, among them
the stores of its own context and of those whose release it has observed (11 R245, R425). -/
def loadRun (c : Client) (ty : Nat) (r : Loc × Nat) : M (List Byte) := do
  let s ← gets id
  let i := s.clientAgent c
  match r.1 with
  | .void => pure (List.replicate r.2 0#8)
  | .phys a =>
    if inHbm a then fun s => .ok (s.read i c.part (c.core / 8) c.cache c.plain a r.2)
    else if !s.hostReqs.isEmpty then waitFor .scoreboard
    else fun s => .ok (s.outRead i a r.2)
  | .ro k a =>
    if !inHbm a && !s.hostReqs.isEmpty then waitFor .scoreboard else fun s => .ok (s.roRead i c.part k c.cache a r.2)
  | .pool n o => do
    match s.readTagFault n o r.2 ty with
    | some x => failWith .format x
    | none =>
      let hold := if c.engine || n != c.core then FillHold.free else s.fillHold n (s.proc c.slot) o r.2
      match hold with
      | .stall => waitFor .fillWindow
      | .poison x => failWith .dataPoison (wordOf x)
      | .free => do
        mods fun s => s.learn i (s.poolKnown n o r.2)
        gets fun s => s.poolBytes n o r.2

/-- Reads the bytes at places. -/
def loadLocs (c : Client) (ty : Nat) (ls : List Loc) : M (List Byte) := do
  let parts ← (runsOf ls).mapM (loadRun c ty)
  pure parts.flatten

/-- A writer for a client. -/
def State.clientWriter (s : State) (c : Client) : Writer :=
  { agent := s.clientAgent c, part := c.part, die := dieOf (c.core / 8), cache := c.cache }

/-- Writes one run for a client. A write that crosses to another die waits while its die may send none (11 R242). A write to the client's own pool by a context is logged for undo (15 R371); one to
another core's scratchpad makes the activation unrollable (15 R370). -/
def storeRun (c : Client) (ty : Nat) (l : Loc) (bs : List Byte) : M Unit := do
  let s ← gets id
  match l with
  | .void => pure ()
  | .phys a | .ro _ a =>
    if !inHbm a then
      if !s.hostReqs.isEmpty || s.crossBusy (dieOf (c.core / 8)) 4 then waitFor .fence
      else mods fun s => s.outWrite (s.clientWriter c) a bs
    else if s.stageFull a || s.stageFull (a + bs.length - 1) || s.crossFull (dieOf (c.core / 8)) a then waitFor .fence
    else mods fun s => s.write (s.clientWriter c) a bs
  | .pool n o => do
    match s.writeTagFault n o bs.length ty with
    | some x => failWith .format x
    | none => if s.crossBusy (dieOf (c.core / 8)) (dieOf (n / 8)) then waitFor .fence else do
      mods fun s => s.crossDie (dieOf (c.core / 8)) (dieOf (n / 8))
      if c.engine then pure ()
      else if n = c.core then mods fun s => s.logUndo o bs.length
      else mods State.setUnroll
      mods fun s => s.poolWrite n o bs ty (s.knows (s.clientAgent c))

/-- Writes the runs of a list of places. -/
def storeRuns (c : Client) (ty : Nat) : List (Loc × Nat) → List Byte → M Unit
  | [], _ => pure ()
  | (l, n) :: rs, bs => do
    storeRun c ty l (bs.take n)
    storeRuns c ty rs (bs.drop n)

/-- Writes bytes at places. -/
def storeLocs (c : Client) (ty : Nat) (ls : List Loc) (bs : List Byte) : M Unit := storeRuns c ty (runsOf ls) bs

/-- The bytes at places as they stand, for the merging of an element of 6 bits. -/
def State.peek (s : State) : Loc → Byte
  | .void => 0#8
  | .phys a | .ro _ a => readByte s.mem a
  | .pool n o => s.poolByte n o

/-! ## Elements -/

/-- The places of an element's bytes for reading: none for OUT_ZERO, which is counted; rights are tested first. -/
def elemReadPlaces (c : Client) (lid : Nat) (e : BitVec 512) (ro : Bool) (o : ElemOff) : M (List Loc) := do
  match o with
  | .zero => do
    checkRight e 0 0
    countOut c
    pure (List.replicate (max 1 (elemSize e)) .void)
  | .elem off cl => do
    let as := elemAddrs e off
    checkRight e 0 (as.headD 0)
    if cl then countOut c else pure ()
    placesOf c lid e 0 ro as

/-- The places of an element's bytes for writing: none for OUT_ZERO and CLAMP, which are counted. -/
def elemWritePlaces (c : Client) (lid : Nat) (e : BitVec 512) (o : ElemOff) : M (List Loc) := do
  match o with
  | .zero => do
    checkRight e 1 0
    countOut c
    pure []
  | .elem off cl => do
    let as := elemAddrs e off
    checkRight e 1 (as.headD 0)
    if cl then do
      countOut c
      pure []
    else placesOf c lid e 1 false as

/-- The code of an element from its bytes. -/
def codeOf (e : BitVec 512) (o : ElemOff) (bs : List Byte) : Nat :=
  match o with
  | .zero => 0
  | .elem off _ => if isSix (layType e) then natOfBytes bs / 2 ^ elemShift e off % 64 else natOfBytes bs

/-- Reads the element at an offset. -/
def readElem (c : Client) (lid : Nat) (e : BitVec 512) (ro : Bool) (o : ElemOff) : M Nat := do
  let ls ← elemReadPlaces c lid e ro o
  let bs ← loadLocs c (layType e) ls
  pure (codeOf e o bs)

/-- Writes the element at an offset. -/
def writeElem (c : Client) (lid : Nat) (e : BitVec 512) (o : ElemOff) (code : Nat) : M Unit := do
  let ls ← elemWritePlaces c lid e o
  if ls.isEmpty then pure ()
  else match o with
  | .zero => pure ()
  | .elem off _ =>
    if isSix (layType e) then do
      let s ← gets id
      let old := natOfBytes (ls.map s.peek)
      let sh := elemShift e off
      let new := old - old / 2 ^ sh % 64 * 2 ^ sh + code % 64 * 2 ^ sh
      storeLocs c (layType e) ls (bytesOfNat ls.length new)
    else storeLocs c (layType e) ls (bytesOfNat ls.length code)

/-! ## Writing several elements -/

/-- The bits of bytes that writing an element changes: the place, the mask and the bits. -/
def writeParts (c : Client) (lid : Nat) (e : BitVec 512) (p : ElemOff × Nat) : M (List (Loc × Nat × Nat)) := do
  let ls ← elemWritePlaces c lid e p.1
  match p.1 with
  | .zero => pure []
  | .elem off _ =>
    let sh := elemShift e off
    let w := if isSix (layType e) then 6 else 8 * ls.length
    let v := p.2 % 2 ^ w * 2 ^ sh
    let m := (2 ^ w - 1) * 2 ^ sh
    pure ((ls.zip (rangeFrom 0 ls.length)).map fun q => (q.1, m / 256 ^ q.2 % 256, v / 256 ^ q.2 % 256))

/-- The order of places: by pool or memory, and by address. -/
def Loc.key : Loc → Nat
  | .void => 0
  | .phys a => 2 ^ 80 + a
  | .pool c o => 2 ^ 81 + c * 2 ^ 40 + o
  | .ro k a => 2 ^ 82 + k * 2 ^ 60 + a

/-- A part of a byte among others in the order of their places; a later part of a byte stands over the earlier ones. -/
def putPart (p : Loc × Nat × Nat) : List (Loc × Nat × Nat) → List (Loc × Nat × Nat)
  | [] => [p]
  | q :: qs =>
    if q.1 = p.1 then (p.1, q.2.1 ||| p.2.1, q.2.2 - (q.2.2 &&& p.2.1) + p.2.2) :: qs
    else if p.1.key < q.1.key then p :: q :: qs
    else q :: putPart p qs

/-- Parts of bytes joined, in the order of their places, whatever the order in which their elements are walked. -/
def mergeLocs (ps : List (Loc × Nat × Nat)) : List (Loc × Nat × Nat) := ps.foldl (fun acc p => putPart p acc) []

/-- Writes parts of bytes: adjacent bytes as one write, so that whole granules are written whole (R90); the places written. -/
def storeParts (c : Client) (ty : Nat) (ps : List (Loc × Nat × Nat)) : M (List Loc) := do
  let ms := mergeLocs ps
  let s ← gets id
  let bs := ms.map fun m => BitVec.ofNat 8 ((s.peek m.1).toNat - ((s.peek m.1).toNat &&& m.2.1) + m.2.2)
  storeLocs c ty (ms.map Prod.fst) bs
  pure (ms.map Prod.fst)

/-- The place of the scale byte of an element's block; it is checked as an element is (07 R152). -/
def scalePlaces (c : Client) (lid : Nat) (e : BitVec 512) (o : ElemOff) : M (List Loc) := do
  match o with
  | .zero => pure []
  | .elem off _ => do
    let a := scaleAddr e off
    checkRight e 0 a
    let a := if lid < 16 then a + ((layVbase e % 65536 : Nat) : Int) else a
    placesOf c lid e 0 false [a]

/-- Reads the scale byte of an element's block. In a tagged granule it is checked against the tag of the payload's type, which
the spec does not say (log 72). -/
def readScale (c : Client) (lid : Nat) (e : BitVec 512) (o : ElemOff) : M Nat := do
  let ls ← scalePlaces c lid e o
  let bs ← loadLocs c (layType e) ls
  pure (natOfBytes bs)

/-- Writes the scale byte of an element's block; a tagged granule takes the tag of the payload's type (log 72). -/
def writeScale (c : Client) (lid : Nat) (e : BitVec 512) (o : ElemOff) (x : Nat) : M Unit := do
  match o with
  | .elem off false => do
    let a := scaleAddr e off
    checkRight e 1 a
    let a := if lid < 16 then a + ((layVbase e % 65536 : Nat) : Int) else a
    let ls ← placesOf c lid e 1 false [a]
    storeLocs c (layType e) ls (bytesOfNat 1 x)
  | _ => pure ()

end Sys2Proof.Machine
end

