-- ==== Sys2Proof/Machine/DevReg.lean ====
section
/-!
DEFINITION. Device registers (03 R58, 04 R71, 12 R278, 14 R332, 23 R404-R408): where each lies, what it reads as, what a
write does and who may write it (22 R394); ring records (23 R405, R409); the rows that write them.
-/

namespace Sys2Proof.Machine

/-! ## Where registers lie -/

/-- The device registers; `d` a compute die, `p` a partition or port, `i` an index. -/
inductive DevReg where
  | tinva (d : Nat) | tinvc (d : Nat)
  | scfg (d : Nat) | fillmask (d p : Nat) | slocc (d slice p : Nat)
  | pctl | portstat (p : Nat) | schctl
  | sring (p : Nat) | sidx (p : Nat) | ering (p : Nat) | eidx (p : Nat)
  | psel (p i : Nat) | pcnt (p i : Nat)
  deriving DecidableEq, Repr

/-- The register of 8 bytes at a device-register offset that is a multiple of 8. -/
def devRegAt (o : Nat) : Option DevReg :=
  let d := o / 256 % 16
  if 0x1000 ≤ o ∧ o < 0x1400 then
    if o % 256 = 0 then some (.tinva d) else if o % 256 = 8 then some (.tinvc d) else none
  else if 0x4000 ≤ o ∧ o < 0x4400 then
    if o % 256 = 0 then some (.scfg d)
    else if 16 ≤ o % 256 ∧ o % 256 < 80 ∧ o % 8 = 0 then some (.fillmask d ((o % 256 - 16) / 8)) else none
  else if o = 0x8000 then some .pctl
  else if 0x8100 ≤ o ∧ o < 0x8160 ∧ o % 8 = 0 then some (.portstat ((o - 0x8100) / 8))
  else if o = 0xC000 then some .schctl
  else if 0x10000 ≤ o ∧ o < 0x18000 then
    let p := (o - 0x10000) / 0x1000
    let r := o % 0x1000
    if r = 0 then some (.sring p) else if r = 8 then some (.sidx p)
    else if r = 0x10 then some (.ering p) else if r = 0x18 then some (.eidx p)
    else if 0x100 ≤ r ∧ r < 0x300 ∧ r % 8 = 0 then some (.psel p ((r - 0x100) / 8))
    else if 0x400 ≤ r ∧ r < 0x600 ∧ r % 8 = 0 then some (.pcnt p ((r - 0x400) / 8))
    else none
  else if 0x100000 ≤ o ∧ o < 0x200000 then
    let d := (o - 0x100000) / 0x40000
    let r := (o - 0x100000) % 0x40000
    if r / 0x40 < 1536 ∧ r % 8 = 0 then some (.slocc d (r / 0x40) (r % 0x40 / 8)) else none
  else none

/-- Partition `p` may read the register (22 R394): its own observation block, and the shared blocks. -/
def DevReg.opens (p : Nat) : DevReg → Bool
  | .sring q | .sidx q | .ering q | .eidx q | .psel q _ | .pcnt q _ => p == q
  | _ => true

/-- A write of value `v` by partition `p` is allowed (22 R394). -/
def DevReg.writable (p : Nat) (v : Word) : DevReg → Bool
  | .tinvc _ => fieldOf v 10 8 == p
  | .fillmask _ q => q == p
  | .scfg _ | .pctl | .portstat _ | .schctl => false
  | r => r.opens p

/-! ## Reading -/

/-- An observation block. -/
def State.obs (s : State) (p : Nat) : Observe := find s.observe p {}

/-- Changes an observation block. -/
def State.modObs (s : State) (p : Nat) (f : Observe → Observe) : State :=
  { s with observe := put s.observe p (f (s.obs p)) }

/-- STATE of PORTSTAT (12 R278). -/
def LinkState.code : LinkState → Nat
  | .down => 0 | .training => 1 | .up => 2

/-- LINKUP of PCTL. -/
def State.linkup (s : State) : Nat :=
  (rangeFrom 0 12).foldl (fun n p => n + (if (s.port p).state = .up then 2 ^ p else 0)) 0

/-- The value of a device register. -/
def State.devRead (s : State) : DevReg → Word
  | .tinva d => (s.die d).tinva
  | .tinvc d =>
    let k := s.die d
    wordOf ((if k.done then 2 ^ 63 else 0) + (if k.err then 2 ^ 62 else 0) + at_ k.part 3 8 + at_ k.size 3 4
      + (if k.scopeAll then 2 else 0))
  | .scfg d => wordOf (at_ (s.die d).mcwin 8 8 + at_ (s.die d).rways 4 0)
  | .fillmask d p => (find (s.die d).fillmask p 0xFFFF#16).setWidth 64
  | .slocc d i p => wordOf ((find (s.cluster (clusterOfIndex d (i / 4))).slices (i % 4) {}).owned p)
  | .pctl => wordOf (at_ s.devidx 8 56 + at_ s.linkup 12 32 + at_ s.pftmo 16 16)
  | .portstat p =>
    let k := s.port p
    wordOf (at_ k.replay 16 48 + at_ k.stomp 16 32 + at_ k.drop 16 16 + at_ k.state.code 2 2)
  | .schctl => wordOf (at_ s.ageq 16 0)
  | .sring p => (s.obs p).sring
  | .sidx p => (s.obs p).sidx
  | .ering p => (s.obs p).eRing
  | .eidx p => (s.obs p).eidx
  | .psel p i => (find (s.obs p).psel i 0#8).setWidth 64
  | .pcnt p i => find (s.obs p).pcnt i 0#64

/-! ## Invalidation (03 R58) -/

/-- The accesses to HOST and CXL that stand at N0 and may have used a translation that an invalidation drops (R58, 11 R425). -/
def State.usersOf (s : State) (dies : List Nat) (part va bits : Nat) : List Nat :=
  (s.hostReqs.filter fun r => r.part == part && dies.contains (dieOf (r.core / 8)) && overlaps r.va 0 va bits).map HostReq.req

/-- A GO takes effect: SIZE 6 or 7 sets DONE and ERR at once, else DONE is clear, the entries are dropped, and the accesses
that used one of them are noted. -/
def State.startInval (s : State) (d : Nat) (va v : Word) : State :=
  let size := fieldOf v 6 4
  let part := fieldOf v 10 8
  let all := fieldOf v 1 1 = 1
  let dies := if all then [0, 1, 2, 3] else [d]
  let s := s.modDie d fun k =>
    { k with part := part, size := size, scopeAll := all, done := decide (6 ≤ size), err := decide (6 ≤ size)
             users := if 6 ≤ size then [] else s.usersOf dies part va.toNat (tinvBits size) }
  if 6 ≤ size then s
  else dies.foldl (fun s die => s.dropTlb die part va.toNat (tinvBits size)) s

/-- A write of TINVC: a GO while DONE is 0 is held. R58 does not say whether a held GO uses the VPAGE that TINVA holds at the
write or when the GO takes effect: the model keeps the one at the write (log 66). -/
def State.writeTinvc (s : State) (d : Nat) (v : Word) : State :=
  let k := s.die d
  if fieldOf v 0 0 = 0 then
    s.modDie d fun k => { k with part := fieldOf v 10 8, size := fieldOf v 6 4, scopeAll := fieldOf v 1 1 = 1 }
  else if k.done then s.startInval d k.tinva v
  else s.modDie d fun k => { k with held := k.held ++ [(k.tinva, v)] }

/-- Held GOs take effect, one after the other, until one of them clears DONE. -/
def State.startHeld (s : State) (d : Nat) : List (Word × Word) → State
  | [] => s.modDie d fun k => { k with held := [] }
  | h :: hs =>
    let t := s.startInval d h.1 h.2
    if (t.die d).done then t.startHeld d hs else t.modDie d fun k => { k with held := hs }

/-- DONE is set, once every access that used a dropped translation is performed; then held GOs take effect. -/
def State.finishInval (s : State) (d : Nat) : State :=
  let k := s.die d
  if k.done || (s.hostReqs.any fun r => k.users.contains r.req) then s
  else (s.modDie d fun k => { k with done := true, users := [] }).startHeld d k.held

/-! ## Writing -/

/-- The ring setting is rejected (23 R404): a byte outside the partition's range, or LOG2N 1-5 or 21-31. -/
def State.ringRejected (s : State) (p : Nat) (v : Word) : Bool :=
  let n := fieldOf v 4 0
  let base := fieldOf v 47 12 * 4096
  let r := s.part p
  (n != 0 && (decide (n < 6) || decide (20 < n)))
    || (n != 0 && !(decide (r.mbase ≤ base) && decide (base + 32 * 2 ^ n ≤ r.mbase + r.msize)))

/-- A write of SRING or ERING over the old value. -/
def State.ringValue (s : State) (p : Nat) (old v : Word) : Word :=
  let lost := fieldOf old 63 48 &&& (65535 - fieldOf v 63 48)
  let n := if s.ringRejected p v then 0 else fieldOf v 4 0
  wordOf (at_ lost 16 48 + at_ (fieldOf v 47 12) 36 12 + at_ n 5 0)

/-- A write of SIDX or EIDX: CONS only. -/
def idxValue (old v : Word) : Word := wordOf (at_ (fieldOf v 63 32) 32 32 + at_ (fieldOf old 31 0) 32 0)

/-- PORTSTAT's write-only bits (12 R278). -/
def Port.command (k : Port) (v : Word) : Port :=
  let k := if fieldOf v 1 1 = 1 then { k with replay := 0, stomp := 0, drop := 0 } else k
  if fieldOf v 0 0 = 1 then { k with state := .training, row := 0 } else k

/-- A write of a device register, whoever writes it. -/
def State.devWrite (s : State) (v : Word) : DevReg → State
  | .tinva d => s.modDie d fun k => { k with tinva := wordOf (at_ (fieldOf v 51 12) 40 12) }
  | .tinvc d => s.writeTinvc d v
  | .scfg d => s.modDie d fun k => { k.setRways s.cyc (min 8 (fieldOf v 3 0)) with mcwin := fieldOf v 15 8 }
  | .fillmask d p => s.modDie d fun k => k.setMask s.cyc p (v.setWidth 16)
  | .slocc _ _ _ => s
  | .pctl => { s with pftmo := max 1 (fieldOf v 31 16) }
  | .portstat p => s.modPort p fun k => k.command v
  | .schctl => { s with ageq := fieldOf v 15 0 }
  | .sring p => s.modObs p fun o => { o with sring := s.ringValue p o.sring v }
  | .sidx p => s.modObs p fun o => { o with sidx := idxValue o.sidx v }
  | .ering p => s.modObs p fun o => { o with eRing := s.ringValue p o.eRing v }
  | .eidx p => s.modObs p fun o => { o with eidx := idxValue o.eidx v }
  | .psel p i => s.modObs p fun o => { o with psel := put o.psel i (v.setWidth 8) }
  | .pcnt p i => s.modObs p fun o => { o with pcnt := put o.pcnt i (v + find (o.inClock s.cyc) i 0#64) }

/-- What the bytes of a register that a narrow write leaves out are taken as: the read value, write-1 fields zero. -/
def State.devKeep (s : State) (r : DevReg) : Word :=
  match r with
  | .sring _ | .ering _ => wordOf (fieldOf (s.devRead r) 47 0)
  | .tinvc _ => wordOf (fieldOf (s.devRead r) 10 0)
  | _ => s.devRead r

/-- Cause 8 of R57 for a device register. -/
def devViolation {α : Type} (kind va level : Nat) : M α := failWith .violation (faultX57 8 level kind va)

/-- A read of `n` bytes of a register by a partition's context, within one 8-byte register. -/
def devLoad (c : Client) (va off n : Nat) : M Nat := do
  let s ← gets id
  match devRegAt (off / 8 * 8) with
  | some r =>
    if r.opens c.part then pure ((s.devRead r).toNat / 2 ^ (8 * (off % 8)) % 2 ^ (8 * n))
    else devViolation 0 va (s.levelOf (c.access 0 va))
  | none => devViolation 0 va (s.levelOf (c.access 0 va))

/-- A write of `n` bytes of a register by a partition's context. -/
def devStore (c : Client) (va off n x : Nat) : M Unit := do
  let s ← gets id
  match devRegAt (off / 8 * 8) with
  | some r =>
    let old := (s.devKeep r).toNat
    let sh := 8 * (off % 8)
    let v := wordOf (old - old / 2 ^ sh % 2 ^ (8 * n) * 2 ^ sh + x % 2 ^ (8 * n) * 2 ^ sh)
    if r.opens c.part && r.writable c.part v then mods fun s => s.devWrite v r
    else devViolation 1 va (s.levelOf (c.access 1 va))
  | none => devViolation 1 va (s.levelOf (c.access 1 va))

/-! ## Ring records (23 R405) -/

/-- Writes a record of four words into a ring: dropped when disabled, dropped and counted when full; PROD rises after
the record is performed, and its increment releases what the unit that records has performed and observed. -/
def State.ringRecord (s : State) (p : Nat) (isEvent : Bool) (know : Know) (ws : List Word) : State :=
  let o := s.obs p
  let ring := if isEvent then o.eRing else o.sring
  let idx := if isEvent then o.eidx else o.sidx
  let n := fieldOf ring 4 0
  let prod := fieldOf idx 31 0
  let cons := fieldOf idx 63 32
  if n = 0 then s
  else if (prod + 2 ^ 32 - cons) % 2 ^ 32 = 2 ^ n then
    let lost := min 65535 (fieldOf ring 63 48 + 1)
    let r := setField ring 63 48 lost
    s.modObs p fun o => if isEvent then { o with eRing := r } else { o with sring := r }
  else
    let a := fieldOf ring 47 12 * 4096 + 32 * (prod % 2 ^ n)
    let s := s.write { part := p, kind := .unit } a ((ws.map fun w => bytesOfNat 8 w.toNat).flatten)
    let i := setField idx 31 0 ((prod + 1) % 2 ^ 32)
    s.modObs p fun o =>
      if isEvent then { o with eidx := i, eknow := joinKnow o.eknow know } else { o with sidx := i, sknow := joinKnow o.sknow know }

/-- What a register read as an acquire tells: of PROD of a ring, what its increments have released. -/
def State.devKnow (s : State) (off : Nat) : Know := match devRegAt (off / 8 * 8) with
  | some (.sidx p) => (s.obs p).sknow
  | some (.eidx p) => (s.obs p).eknow
  | _ => []

/-- A record of the event stream (23 R409). -/
def State.eventRecord (s : State) (p source kind name core : Nat) (w2 w3 : Word) (know : Know := []) : State :=
  s.ringRecord p true know
    [wordOf s.time, wordOf (at_ name 32 32 + at_ source 4 28 + at_ kind 8 20 + at_ core 14 0), w2, w3]

/-! ## Rows of the table -/

/-- The word that comes with a row. -/
def State.given (s : State) (k : Nat) : Word := s.turn.words.getD k 0#64

/-- A register write that a row stands for: `turn.val` is the partition whose access it is, 8 the Keystone's own. A
write that is not allowed has no effect here; the access that makes it raises VIOLATION in its context. -/
def State.rowWrite (s : State) (r : DevReg) (v : Word) : State :=
  if s.turn.val = 8 || r.writable s.turn.val v then s.devWrite v r else s

/-- TINVC_GO (03 R58): die `turn.unit`, value word 0, whose GO bit is taken as set. -/
def execTinvcGo (σ : State) : Out :=
  if 4 ≤ σ.turn.unit then .fault .noSuchUnit
  else .next (σ.rowWrite (.tinvc σ.turn.unit) (σ.given 0 ||| 1#64))

/-- TINVC_DONE (03 R58): walks are whole steps here, and so are accesses but those that stand at N0. -/
def execTinvcDone (σ : State) : Out :=
  if 4 ≤ σ.turn.unit then .fault .noSuchUnit else .next (σ.finishInval σ.turn.unit)

/-- SCFG_WRITE (04 R71): die `turn.unit`. -/
def execScfgWrite (σ : State) : Out :=
  if 4 ≤ σ.turn.unit then .fault .noSuchUnit else .next (σ.rowWrite (.scfg σ.turn.unit) (σ.given 0))

/-- FILLMASK_WRITE (04 R69): die `turn.unit`, partition `turn.sub`. -/
def execFillmaskWrite (σ : State) : Out :=
  if 4 ≤ σ.turn.unit || 8 ≤ σ.turn.sub then .fault .noSuchUnit
  else .next (σ.rowWrite (.fillmask σ.turn.unit σ.turn.sub) (σ.given 0))

/-- PCTL_WRITE (12 R278) -/
def execPctlWrite (σ : State) : Out := .next (σ.rowWrite .pctl (σ.given 0))

/-- PORTSTAT_CLR (12 R278): port `turn.unit`. -/
def execPortstatClr (σ : State) : Out :=
  if 12 ≤ σ.turn.unit then .fault .noSuchUnit else .next (σ.rowWrite (.portstat σ.turn.unit) 2#64)

/-- PORTSTAT_RETRAIN (12 R278): port `turn.unit`. -/
def execPortstatRetrain (σ : State) : Out :=
  if 12 ≤ σ.turn.unit then .fault .noSuchUnit else .next (σ.rowWrite (.portstat σ.turn.unit) 1#64)

/-- RING_CONFIG_WRITE (23 R404): partition `turn.unit`, `turn.sub` 0 the sample ring, 1 the event ring. -/
def execRingConfigWrite (σ : State) : Out :=
  if 8 ≤ σ.turn.unit then .fault .noSuchUnit
  else .next (σ.rowWrite (if σ.turn.sub = 0 then .sring σ.turn.unit else .ering σ.turn.unit) (σ.given 0))

/-- PCNT_WRITE (23 R408): counter `turn.sub` of partition `turn.unit`; the events of the step are counted by their own
rows, before or after. -/
def execPcntWrite (σ : State) : Out :=
  if 8 ≤ σ.turn.unit || 64 ≤ σ.turn.sub then .fault .noSuchUnit
  else .next (σ.rowWrite (.pcnt σ.turn.unit σ.turn.sub) (σ.given 0))

end Sys2Proof.Machine
end

