-- ==== Sys2Proof/Machine/Remote.lean ====
section
/-!
DEFINITION. The source side of remote accesses: packets, paths, sent counts (12 R265-R272), releases at a scope and the
POD fence (11 R245, 12 R274, R275), remote stores and the replies a context waits for.
-/

namespace Sys2Proof.Machine

/-! ## Packets -/

/-- Priority of a process's packets: its network's priority div 2 (12 R269). -/
def State.prioOf (s : State) (p : Proc) : Nat := (find s.nets p.net {}).prio / 2

/-- The path of an access to a virtual address with a layout's SPREAD (12 R271). -/
def pathOf (va spread : Nat) : Nat := va / 256 % spread

/-! ## Sent counts (12 R272) -/

/-- The counts of a context for a target. -/
def Ctx.sentTo (c : Ctx) (dev : Nat) : List Nat :=
  match c.sent.find? fun x => x.dev = dev with
  | some x => x.counts
  | none => [0, 0, 0, 0]

/-- Counts one packet on a path. -/
def Ctx.countSent (c : Ctx) (dev path : Nat) : Ctx :=
  let k := setAt (c.sentTo dev) path (((c.sentTo dev).getD path 0) + 1)
  { c with sent := c.sent.filter (fun x => x.dev != dev) ++ [{ dev := dev, counts := k }] }

/-- Packets on these paths need the implicit fence first: for a ninth target, or for the count of a path past 65,535. -/
def Ctx.sentFull (c : Ctx) (dev : Nat) (paths : List Nat) : Bool :=
  if c.sent.any (fun x => x.dev = dev) then paths.any fun k => decide (65535 < (c.sentTo dev).getD k 0 + paths.count k)
  else !paths.isEmpty && decide (8 ≤ c.sent.length)

/-! ## The POD fence (12 R274, R275) -/

/-- Sends the count markers of every target with counts on each of the four paths. -/
def State.sendMarkers (s : State) (n k : Nat) (part prio : Nat) : State :=
  let c := s.ctx n k
  let all := (c.sent.map fun x => (rangeFrom 0 4).map fun p => (x.dev, p, x.counts.getD p 0)).flatten
  let s := all.foldl (fun s e =>
    s.injectPkt { dst := e.1, core := n, ctx := k, part := part, path := e.2.1, prio := prio, interval := c.interval,
                  body := .marker e.2.2 }) s
  s.modCtx n k fun c =>
    { c with podFence := some { interval := c.interval, since := s.time, paths := all.map fun e => (e.1, e.2.1), got := [] } }

/-- A POD-scope release is over: the sent counts of its interval are reset, and the next interval begins (12 R274). -/
def Ctx.endInterval (c : Ctx) : Ctx := { c with podFence := none, sent := [], interval := c.interval + 1 }

/-- Every path has been acknowledged or counted as mismatched. -/
def PodFence.over (f : PodFence) : Bool := f.paths.all fun p => f.got.any fun g => g.1 = p.1 && g.2.1 = p.2

/-- FAULTX of R275: the mismatched target of lowest index and the mask of its mismatched paths. -/
def PodFence.mismatch (f : PodFence) : Option Word :=
  let bad := f.got.filter fun g => !g.2.2
  match bad with
  | [] => none
  | b :: bs =>
    let dev := bs.foldl (fun d g => min d g.1) b.1
    let mask := (rangeFrom 0 4).foldl (fun m p => m + (if bad.any (fun g => g.1 = dev && g.2.1 = p) then 2 ^ p else 0)) 0
    some (wordOf (at_ dev 8 56 + at_ mask 4 52))

/-- Word 5 of a fault message of a context (15 R356). -/
def Ctx.faultWord5 (c : Ctx) (a : Activation) : Word :=
  wordOf (at_ a.handler 6 0 + (if a.restartable then 256 else 0) + (if c.rollable then 512 else 0)
    + (if c.undoOver then 0 else 1024))

/-- COUNT_MISMATCH (R275): a restartable process's activation is re-executed from its message, its undo window restored,
unless the window has overflowed; the core posts the fault message and nothing parks (18 R382). In any other case the
context parks. -/
def State.countMismatch (s : State) (n k : Nat) (x : Word) : State :=
  let c := s.ctx n k
  match c.act with
  | none => s
  | some a =>
    if a.restartable && !c.undoOver then
      let fc := 256 + FaultCode.countMismatch.toByte.toNat
      let ws := [c.nextA.setWidth 64, c.nextE.setWidth 64, x, 0#64, c.faultWord5 a, 0#64, 0#64]
      let s := if a.super then s.tellHost (faultWord0 0 0 n 0 k fc :: ws) else s.post a.part n 0 0 k fc a.name ws
      let s := (s.dropWatches n k).dropOutbox n k
      let s := s.restoreUndo n k
      let s := s.redeliver a (s.knows (agentOf s.devidx n k))
      let s := s.modProc a.slot fun p => { p with moving := true }
      s.freeCtx n k
    else s.raiseA n k .countMismatch x 0#64

/-- The POD part of a release: `none` when it is over, else how the instruction stands. -/
def podRelease : M (Option Disp) := do
  let c ← me
  match c.podFence with
  | none =>
    if c.sent.isEmpty then pure none
    else do
      mods fun s => s.sendMarkers s.turn.core s.turn.ctx s.activity.part (s.prioOf s.self)
      pure (some (.hold .fence))
  | some f =>
    if !f.over then waitFor .fence
    else do
      modMe Ctx.endInterval
      match f.mismatch with
      | none => pure none
      | some x => do
        mods fun s => s.countMismatch s.turn.core s.turn.ctx x
        pure (some .left)

/-! ## Releases and fences (11 R245, R253) -/

/-- A store of the context to HOST or CXL has not been acknowledged (11 R239). -/
def State.hostStoresOut (s : State) (n k : Nat) : Bool := s.hostReqs.any fun r => r.core = n && r.ctx = k && r.bytes.isSome

/-- A release at a scope: every earlier load is performed, since the A half waits for its replies, and every earlier
store is performed at the scope. -/
def release (scope : Nat) : M (Option Disp) := do
  let s ← gets id
  if scope = 7 ∧ s.hostStoresOut s.turn.core s.turn.ctx then waitFor .fence
  else if 6 ≤ scope then podRelease
  else pure none

/-! ## Remote stores -/

/-- Cuts bytes at the 256-byte chunks of their address: one packet never crosses a chunk (12 R271). -/
def chunk256 (va : Nat) (bs : List Byte) : List (Nat × List Byte) :=
  let first := 256 - va % 256
  if bs.length ≤ first then [(va, bs)] else [(va, bs.take first), (va + first, bs.drop first)]

/-- Sends one counted store packet of the context that acts. -/
def sendStore (dev spread : Nat) (stamp : Option (List Nat)) (scope va : Nat) (bs : List Byte) : M Unit :=
  mods fun s =>
    let n := s.turn.core
    let k := s.turn.ctx
    let c := s.actor
    let path := pathOf va spread
    let s := s.injectPkt { dst := dev, core := n, ctx := k, name := s.activity.name, part := s.activity.part, path := path, prio := s.prioOf s.self,
                           stamp := stamp, interval := c.interval, body := .store va bs scope }
    s.modActor fun c => c.countSent dev path

/-- The implicit fence before the context that acts stores bytes at a remote address, where one is needed (12 R272). -/
def remoteFence (dev spread va : Nat) (bs : List Byte) : M (Option Disp) := do
  let c ← me
  if c.podFence.isSome || c.sentFull dev ((chunk256 va bs).map fun p => pathOf p.1 spread) then podRelease else pure none

/-- A remote store by the context that acts: its packets, which ORD stamps with the counts before the first of them (R276). -/
def remoteStore (dev spread : Nat) (ord : Bool) (scope va : Nat) (bs : List Byte) : M Unit := do
  let c ← me
  (chunk256 va bs).forM fun p => sendStore dev spread (if ord then some (c.sentTo dev) else none) scope p.1 p.2

/-! ## Gathered reads (12 R271) -/

/-- Puts an address with those of its 256-byte chunk. -/
def addChunk (ps : List (List Nat)) (a : Nat) : List (List Nat) :=
  if ps.any fun p => p.headD 0 / 256 = a / 256 then
    ps.map fun p => if p.headD 0 / 256 = a / 256 && !p.contains a then p ++ [a] else p
  else ps ++ [[a]]

/-- The read of a list of elements: its bytes, by chunks. -/
def Gather.start (want : List (List Nat × Nat × Nat)) : Gather :=
  let parts := (want.map Prod.fst).flatten.foldl addChunk []
  { want := want, out := (rangeFrom 0 parts.length).zip parts }

/-- The reply to one part has come. -/
def Gather.take (g : Gather) (r : Reply) : Gather :=
  let as := find g.out r.part []
  { g with
    out := drop g.out r.part
    got := (as.zip r.codes).foldl (fun m x => put m x.1 x.2) g.got
    know := joinKnow g.know r.know }

/-- The elements, when every part has come. -/
def Gather.codes (g : Gather) : List Nat := g.want.map fun e =>
  natOfBytes (e.1.map fun a => BitVec.ofNat 8 (find g.got a 0)) / 2 ^ e.2.1 % 2 ^ e.2.2

/-- The reply as a whole, once every part has come. -/
def Gather.reply (g : Gather) : Option Reply :=
  if g.out.isEmpty then some { value := wordOf (g.codes.headD 0), codes := g.codes, know := g.know } else none

/-- Sends the packets of a gathered read, one per chunk, each on its path; those of a synchronising read carry its scope. -/
def State.sendGather (s : State) (p : PodPacket) (spread id scope : Nat) (g : Gather) : State :=
  g.out.foldl (fun s x => s.injectPkt { p with path := pathOf (x.2.headD 0) spread, body := .gather x.2 id x.1 scope }) s

/-! ## Requests and replies -/

/-- Sends a request of the context; the instruction stays until its reply comes. -/
def sendRequest (p : Pend) (why : Stall) (send : Nat → State → State) : M Disp := do
  mods fun s =>
    let (id, s) := s.takeFresh
    let s := send id s
    s.modActor fun c => { c with pend := some { p with id := id, since := s.time } }
  pure (.hold why)

end Sys2Proof.Machine
end

