-- ==== Sys2Proof/Machine/LoadStore.lean ====
section
/-!
DEFINITION. LD, ST, LDRO (05 R102-R104), LDQ and STQ (05 R105, R106), LAYSET, LAYGET, LAYSUB and PREF (05 R107, R108).
-/

namespace Sys2Proof.Machine

/-! ## What every access by a layout does first -/

/-- The layout entry an instruction names; a bound entry whose region does not exist raises LAYOUT (05 R100). -/
def useLayout (lid : Nat) : M (BitVec 512) := do
  let p ← myProc
  guardFault (!(lid < 16) || (find p.regions lid (0, 0)).2 != 0) .layout 0#64
  pure (p.layout lid)

/-- The coordinates in the registers from field `c` (02 R33, 05 R101). -/
def coordsAt (i : Instr) (c : BitVec 5) (rank : Nat) : M (List Int) := do
  guardFault (decide (c.toNat < 30) && decide (c.toNat + rank ≤ 30)) .illegal ((encode i).setWidth 64)
  let ws ← regsAt c 0 rank
  pure (ws.map BitVec.toInt)

/-- The E word in hand touches the pool, by its fields (05 R110): every view instruction but those that only read or
write view registers, predicates and queues. -/
def touchesPool (w : BitVec 32) : Bool :=
  let m := (major w).toNat
  if m = 0x2E then 4 ≤ (sub5 w).toNat
  else if m = 0x26 ∧ 9 ≤ w.toNat / 8 % 16 then false
  else m ≠ 0x3F && !(30 ≤ w.toNat / 2 ^ 21 % 32 && 30 ≤ w.toNat / 2 ^ 16 % 32)

/-- A pool access of the A half waits for older E instructions that touch the pool (05 R110). -/
def poolOrder (e : BitVec 512) : M Unit := do
  let c ← me
  if (laySpace e = 2 ∨ laySpace e = 3) ∧ (c.eq.any fun w => touchesPool w.word) then waitFor .scoreboard else pure ()

/-- A synchronising access to HBM is checked by the scope checker (11 R248); other spaces are not (11 R425). -/
def scopeM (ls : List Loc) (va scope : Nat) : M Unit :=
  match ls with
  | .phys a :: _ =>
    if inHbm a then
      fun s => (linesOf a ls.length).foldlM (fun (r : Unit × State) line =>
        match r.2.scopeCheck line va scope r.2.devidx r.2.turn.core r.2.turn.ctx with
        | .ok t => .ok ((), t)
        | .error e => .error (Stop.fault .scopeMismatch e.1 e.2)) ((), s)
    else pure ()
  | _ => pure ()

/-- An explicit scope below POD on a synchronising access through a REMOTE layout raises ILLEGAL (11 R247). -/
def remoteScope (e : BitVec 512) (sync : Bool) (h : Hints) : M Unit :=
  require (!(sync && laySpace e == 1 && h.hmod.scope != 0 && decide (h.hmod.scope < 6)))

/-- The scope of a synchronising access: HMOD's, else DEVICE (11 R247). -/
def scopeOf (h : Hints) : Nat := if h.hmod.scope = 0 then 5 else h.hmod.scope

/-- A layout names no device, or one of an index that a module can have (01 R15). -/
def devOk (e : BitVec 512) : Bool := laySpace e != 1 || decide (layDev e < 192)

/-- A remote address: it lies in 52 bits, and its device index is one a module can have (01 R15). -/
def remoteAddr (e : BitVec 512) (a : Int) : M Nat := do
  guardFault (devOk e && decide (0 ≤ a) && decide (a < 2 ^ 52)) .layout 0#64
  pure a.toNat

/-- The address an element's bytes begin at. -/
def ElemOff.addr (o : ElemOff) (e : BitVec 512) : Int := match o with
  | .zero => 0
  | .elem off _ => (elemAddrs e off).headD 0

/-! ## LD and LDRO -/

/-- Writes the loaded value: S8, S16 and S32 sign-extend, every other type zero-extends; field 31 fills one q0 entry. -/
def giveLoaded (d : BitVec 5) (ty raw : Nat) : M Unit := do
  if d = 31#5 then modMe fun c => { c with q0 := c.q0 ++ [{ data := BitVec.ofNat 512 raw, tag := tagOf ty }] }
  else if ty = 8 ∨ ty = 10 ∨ ty = 12 then writeA d (wordOfInt (signedOf (typeBits ty) raw))
  else writeA d (wordOf raw)

/-- A load reserves its entries of q0 at issue, for the reply of a request to fill (01 R19). -/
def State.reserve (s : State) (n ty id : Nat) : State :=
  s.modActor fun c => { c with q0 := c.q0 ++ List.replicate n { tag := tagOf ty, awaits := true, req := some id } }

/-- The data of a request fills the entries of q0 that it reserved, oldest first. -/
def fillReserved (id : Nat) : List QEntry → List (BitVec 512) → List QEntry
  | [], _ => []
  | q, [] => q
  | e :: q, x :: xs => if e.req = some id then { e with data := x, awaits := false, req := none } :: fillReserved id q xs
    else e :: fillReserved id q (x :: xs)

/-- A load into q0 needs a free entry, one into a30 room in q2 (01 R20). -/
def loadRoom (d : BitVec 5) : M Unit := do
  let c ← me
  if d = 31#5 ∧ 16 ≤ c.q0.length then waitQueue .scoreboard { queue := 0, push := true, need := 1 }
  else if d = 30#5 ∧ 8 ≤ c.q2.length then waitQueue .q23 { queue := 2, push := true, need := 1 }
  else pure ()

/-- The access of a load whose layout and coordinates are checked. -/
def loadAt (d : BitVec 5) (lid ty : Nat) (e : BitVec 512) (acq ro : Bool) (h : Hints) (o : ElemOff) : M Disp := do
  let s ← gets id
  let n := s.turn.core
  let k := s.turn.ctx
  let c := { s.client h.hmod.cache with plain := !acq }
  let va := match o with
    | .zero => 0
    | .elem off _ => (elemAddrs e off).headD 0
  if laySpace e = 1 then do
    checkRight e 0 va
    match o with
    | .zero => do
      countOut c
      giveLoaded d ty 0
      pure .retire
    | .elem _ cl => do
      if cl then countOut c else pure ()
      let a ← remoteAddr e va
      let x ← me
      let dev := layDev e
      let w := typeBytes ty
      let pkt : PodPacket := { dst := dev, core := n, ctx := k, name := s.activity.name, part := c.part, prio := s.prioOf s.self,
                               stamp := some (x.sentTo dev), interval := x.interval }
      let g := if a / 256 = (a + w - 1) / 256 then {} else Gather.start [(rangeFrom a w, 0, 8 * w)]
      sendRequest { kind := .load, va := a, remote := true, dev := dev, dest := d, ty := ty, gather := g } .scoreboard fun id s =>
        let s := if d = 31#5 then s.reserve 1 ty id else s
        if g.out.isEmpty then
          s.injectPkt { pkt with path := pathOf a (laySpread e), body := .load a w (if acq then scopeOf h else 0) id }
        else s.sendGather pkt (laySpread e) id (if acq then scopeOf h else 0) g
  else do
    let ls ← elemReadPlaces c lid e ro o
    if acq then scopeM ls (wrapTo 52 va) (scopeOf h) else pure ()
    match ls with
    | .phys a :: _ =>
      if inDevreg a then do
        let xs ← (rangeFrom 0 ls.length).mapM fun j => devLoad c (va.toNat + j) (a - 0x8000000000 + j) 1
        if acq then mods fun s => s.learn s.agent (s.devKnow (a - 0x8000000000)) else pure ()
        giveLoaded d ty (natOfBytes (xs.map (BitVec.ofNat 8)))
        pure .retire
      else if inHbm a then do
        let bs ← loadLocs c ty ls
        giveLoaded d ty (natOfBytes bs)
        if d = 31#5 then modMe fun x => { x with q0 := x.q0.dropLast ++ (x.q0.getLast?.map fun q => { q with awaits := true }).toList }
        else pure ()
        pure .retire
      else
        let addrs := ls.map fun l => match l with
          | .phys a => a
          | _ => 0
        sendRequest { kind := .load, va := va.toNat, dest := d, ty := ty } .scoreboard fun id s =>
          let s := if d = 31#5 then s.reserve 1 ty id else s
          { s with hostReqs := s.hostReqs ++ [{ core := n, ctx := k, part := c.part, va := va.toNat, addrs := addrs,
                                                size := ls.length, req := id }] }
    | _ => do
      let bs ← loadLocs c ty ls
      giveLoaded d ty (natOfBytes bs)
      pure .retire

/-- LD and LDRO: `ro` for LDRO. An LD.acq of a layout with ROP does not read through the read-only cache, which is not coherent;
R104 does not say (log 67). -/
def loadBody (i : Instr) (d c : BitVec 5) (L : BitVec 8) (t : BitVec 4) (acq ro : Bool) (h : Hints) : M Disp := do
  let x ← me
  if x.pend.isSome then waitFor (if acq then .fence else .scoreboard)
  else do
    let e ← useLayout L.toNat
    let cs ← coordsAt i c (layRank e)
    guardFault (layType e == t.toNat) .format 0#64
    guardFault (!layRed e && devOk e) .layout 0#64
    let ro := ro || (layRop e && !acq)
    guardFault (!ro || laySpace e == 0 || laySpace e == 4 || laySpace e == 5) .layout 0#64
    remoteScope e acq h
    poolOrder e
    let o ← elemOffset e cs
    loadRoom d
    loadAt d L.toNat t.toNat e acq ro h o

/-- LD (R102, R103): the value's address, its bytes, and acquire by .acq. -/
def execLd (d c : BitVec 5) (L : BitVec 8) (t : BitVec 4) (a : BitVec 1) (σ : State) : Out :=
  aHalf (.ld d c L t a) (loadBody (.ld d c L t a) d c L t (a == 1#1) false) σ

/-- LDRO (R104) -/
def execLdro (d c : BitVec 5) (L : BitVec 8) (t : BitVec 4) (σ : State) : Out :=
  aHalf (.ldro d c L t) (loadBody (.ldro d c L t) d c L t false true) σ

/-! ## ST -/

/-- FAULTX of a queue entry whose tag differs from the type (02 R35, log 13): no granule, the tag, the type. -/
def queueTagX (tag : BitVec 5) (ty : Nat) : Word := wordOf (0xFFFF + at_ tag.toNat 5 16 + at_ ty 4 24)

/-- Pops one q1 entry and checks its tag (R102, R106). -/
def popQ1 (ty : Nat) : M (BitVec 512) := do
  let c ← me
  match c.q1 with
  | [] => waitQueue .scoreboard { queue := 1, push := false, need := 1 }
  | e :: q => do
    guardFault (!tagValid e.tag || e.tag == tagOf ty) .format (queueTagX e.tag ty)
    modMe fun c => { c with q1 := q }
    pure (if tagValid e.tag then e.data else 0#512)

/-- The data of an ST: lane 0 of a q1 entry, or the low bits of the register. -/
def storeData (d : BitVec 5) (ty : Nat) : M Nat := do
  if d = 31#5 then do
    let x ← popQ1 ty
    pure (x.toNat % 2 ^ typeBits ty)
  else do
    let x ← readA d
    pure (x.toNat % 2 ^ typeBits ty)

/-- A write of the `n` bytes of a device-register access: whole where one register holds it. -/
def devWriteAll (c : Client) (va off n x : Nat) : M Unit := do
  let first := min n (8 - off % 8)
  devStore c va off first x
  if first < n then devStore c (va + first) (off + first) (n - first) (x / 2 ^ (8 * first)) else pure ()

/-- What a store through a REMOTE layout does before it takes its data: rights, address, the implicit fence. -/
def storeFence (e : BitVec 512) (ty : Nat) (o : ElemOff) : M (Option Disp) := do
  if laySpace e ≠ 1 then pure none
  else do
    checkRight e 1 (o.addr e)
    match o with
    | .elem _ false => do
      let a ← remoteAddr e (o.addr e)
      remoteFence (layDev e) (laySpread e) a (List.replicate (typeBytes ty) 0#8)
    | _ => pure none

/-- The access of a store whose layout, coordinates and data are at hand. -/
def storeAt (lid ty : Nat) (e : BitVec 512) (rel : Bool) (h : Hints) (o : ElemOff) (v : Nat) : M Unit := do
  let s ← gets id
  let c := s.client h.hmod.cache
  let bs := bytesOfNat (typeBytes ty) v
  let va := o.addr e
  if laySpace e = 1 then
    match o with
    | .elem _ false => do
      let a ← remoteAddr e va
      remoteStore (layDev e) (laySpread e) h.hmod.ord (if rel then scopeOf h else 0) a bs
    | _ => countOut c
  else do
    let ls ← elemWritePlaces c lid e o
    if rel then scopeM ls (wrapTo 52 va) (scopeOf h) else pure ()
    match ls with
    | .phys a :: _ =>
      if inDevreg a then devWriteAll c va.toNat (a - 0x8000000000) bs.length v
      else if inHbm a then storeLocs c ty ls bs
      else if s.crossBusy (dieOf (c.core / 8)) 4 then waitFor .fence
      else
        let addrs := ls.map fun l => match l with
          | .phys a => a
          | _ => 0
        mods fun s =>
          let (id, s) := s.takeFresh
          let (count, s) := s.stamp (s.clientWriter c)
          let m : WordMark := { agent := s.agent, count := count, know := s.knows s.agent, yields := true }
          { s with hostReqs := s.hostReqs ++ [{ core := c.core, ctx := c.ctx, part := c.part, va := va.toNat, addrs := addrs,
                                                bytes := some bs, size := bs.length, req := id, mark := m }] }
    | _ => storeLocs c ty ls bs

/-- ST (R102, R103): an ST.rel is first a release at its scope (11 R245); ORD acts on a REMOTE layout (08 R187, 12 R276). -/
def execSt (d c : BitVec 5) (L : BitVec 8) (t : BitVec 4) (r : BitVec 1) (σ : State) : Out :=
  aHalf (.st d c L t r) (fun h => do
    let e ← useLayout L.toNat
    let cs ← coordsAt (.st d c L t r) c (layRank e)
    guardFault (layType e == t.toNat) .format 0#64
    guardFault (!layRed e && devOk e) .layout 0#64
    remoteScope e (r == 1#1) h
    let o ← elemOffset e cs
    let rel ← if r = 1#1 then release (scopeOf h) else pure none
    match rel with
    | some w => pure w
    | none => do
      let f ← storeFence e t.toNat o
      match f with
      | some w => pure w
      | none => do
        let v ← storeData d t.toNat
        storeAt L.toNat t.toNat e (r == 1#1) h o v
        pure .retire) σ

/-! ## Stores of elements to another device -/

/-- A byte that a store changes: its address, the mask of its bits, and the bits. -/
abbrev BytePart := Nat × Nat × Nat

/-- The bytes that writing an element of a remote layout changes; one that is out of range under ZERO or CLAMP is
discarded and counted. -/
def remoteParts (c : Client) (e : BitVec 512) (o : ElemOff) (code : Nat) : M (List BytePart) := do
  match o with
  | .elem off false => do
    let as ← (elemAddrs e off).mapM (remoteAddr e)
    let sh := elemShift e off
    let w := typeBits (layType e)
    let v := code % 2 ^ w * 2 ^ sh
    let m := (2 ^ w - 1) * 2 ^ sh
    pure ((as.zip (rangeFrom 0 as.length)).map fun p => (p.1, m / 256 ^ p.2 % 256, v / 256 ^ p.2 % 256))
  | _ => do
    countOut c
    pure []

/-- Parts of one byte joined, in the order of first mention. -/
def mergeParts (ps : List BytePart) : List BytePart :=
  ps.foldl (fun acc p => match acc.getLast? with
    | some q =>
      if q.1 = p.1 then acc.dropLast ++ [(p.1, q.2.1 ||| p.2.1, q.2.2 - (q.2.2 &&& p.2.1) + p.2.2)] else acc ++ [p]
    | none => [p]) []

/-- Consecutive bytes of one 256-byte chunk make one packet (12 R265, R271). -/
def packParts : List BytePart → List (List BytePart)
  | [] => []
  | p :: ps => match packParts ps with
    | [] => [[p]]
    | q :: qs => match q with
      | [] => [p] :: qs
      | x :: _ => if x.1 = p.1 + 1 && decide (x.1 % 256 ≠ 0) then (p :: q) :: qs else [p] :: q :: qs

/-- The body of one packet: whole bytes, or single bits. -/
def partsBody (ps : List BytePart) : PodBody :=
  if ps.all fun p => p.2.1 == 255 then .store (ps.headD (0, 0, 0)).1 (ps.map fun p => BitVec.ofNat 8 p.2.2) 0
  else .storeBits ps

/-- Sends counted store packets of a context (R272). -/
def State.sendParts (s : State) (dev spread core ctx name part prio : Nat) (stamp : Option (List Nat)) (engine : Bool)
    (ps : List BytePart) : State :=
  (packParts (mergeParts ps)).foldl (fun s q =>
    let path := pathOf (q.headD (0, 0, 0)).1 spread
    let s := s.injectPkt { dst := dev, core := core, ctx := ctx, name := name, part := part, path := path, prio := prio, stamp := stamp,
                           interval := (s.ctx core ctx).interval, engine := engine, body := partsBody q }
    s.modCtx core ctx fun c => c.countSent dev path) s

/-! ## LDQ and STQ -/

/-- Elements of a type in a 64-byte strip (R95): 64 of 6 bits. -/
def laneCount (ty : Nat) : Nat := if isSix ty then 64 else 64 / typeBytes ty

/-- Bits of a lane in a strip. -/
def laneBits (ty : Nat) : Nat := if isSix ty then 6 else typeBits ty

/-- Packs element codes into a strip: lane j at bits w·j (05 R95, 07 R152). -/
def packLanes (w : Nat) (codes : List Nat) : BitVec 512 :=
  BitVec.ofNat 512 (codes.foldr (fun x n => x % 2 ^ w + n * 2 ^ w) 0)

/-- Lane `j` of a strip. -/
def laneOf (w : Nat) (x : BitVec 512) (j : Nat) : Nat := x.toNat / 2 ^ (w * j) % 2 ^ w

/-- Strips of a box. -/
def Box.strips (b : Box) : Nat := (b.count + laneCount (layType b.entry) - 1) / laneCount (layType b.entry)

/-- Every coordinate of the box is checked under FAULT before anything is reserved or popped (R106): the last element of
each dimension is the largest. FAULTX names a coordinate of the start, where one of them is out of range, else the largest of
its dimension; R106 gives no order (log 70). -/
def boxInRange (b : Box) : M Unit := do
  if b.count = 0 then pure ()
  else do
    let _ ← elemOffset b.entry (b.start.map fun x => ((x : Nat) : Int))
    let _ ← elemOffset b.entry ((b.start.zip b.ext).map fun p => ((p.1 + p.2 - 1 : Nat) : Int))
    pure ()

/-- What LDQ, STQ and ORD-less transfers accept: a reduction region raises LAYOUT like any load or store (06 R126). -/
def queueBox (b : Box) : M Unit := do
  guardFault (!(b.lid < 16) || (find (← myProc).regions b.lid (0, 0)).2 != 0) .layout 0#64
  guardFault (!layRed b.entry && devOk b.entry) .layout 0#64
  require (decide (b.strips ≤ 16))

/-- A device-register access by an element of a layout: its bytes as the register gives them. -/
def devElem (c : Client) (va : Nat) (ls : List Loc) : M Nat := do
  let off := match ls with
    | .phys a :: _ => a - 0x8000000000
    | _ => 0
  let xs ← (rangeFrom 0 ls.length).mapM fun j => devLoad c (va + j) (off + j) 1
  pure (natOfBytes (xs.map (BitVec.ofNat 8)))

/-- RESERVED_CODE of an L6 element of a transfer (07 R151): the element's index, and 31 for want of a view (log 78). -/
def checkCode (k ty code : Nat) (nanBlock : Bool) : M Unit :=
  guardFault (!(isSix ty && !nanBlock && code == reservedL6)) .reservedCode (wordOf (31 + at_ k 32 16))

/-- Reads one element of a box for LDQ. A block type's payload is read with its scale plane (07 R152), which the queue
does not carry; the payload of a NaN block is not decoded (07 R153). -/
def boxElem (c : Client) (b : Box) (k : Nat) : M Nat := do
  let o ← elemOffset b.entry (b.coords k)
  let scale ← if isBlock (layType b.entry) then readScale c b.lid b.entry o else pure 0
  let code ← if laySpace b.entry = 6 ∧ o ≠ .zero then do
      let ls ← elemReadPlaces c b.lid b.entry false o
      devElem c (o.addr b.entry).toNat ls
    else readElem c b.lid b.entry (layRop b.entry) o
  checkCode k (layType b.entry) code (scale == 255)
  pure code

/-- The elements of strip `j` of a box. -/
def stripElems (b : Box) (j : Nat) : List Nat :=
  let n := laneCount (layType b.entry)
  rangeFrom (j * n) (min n (b.count - j * n))

/-- Cuts element codes into strips. -/
def stripsOf (ty : Nat) (codes : List Nat) : List (BitVec 512) :=
  (chunks (laneCount ty) (codes.length + 1) codes).map (packLanes (laneBits ty))

/-- The places of an element of a remote layout: the addresses of its bytes, none for one that reads zero, the bit it
starts at and its width. -/
def remoteElem (c : Client) (e : BitVec 512) (o : ElemOff) : M (List Nat × Nat × Nat) := do
  match o with
  | .zero => do
    countOut c
    pure ([], 0, typeBits (layType e))
  | .elem off cl => do
    if cl then countOut c else pure ()
    let as ← (elemAddrs e off).mapM (remoteAddr e)
    pure (as, elemShift e off, typeBits (layType e))

/-- The scale byte of the block of an element of a remote layout (07 R152). -/
def remoteScaleElem (e : BitVec 512) (o : ElemOff) : M (List Nat × Nat × Nat) := do
  match o with
  | .zero => pure ([], 0, 8)
  | .elem off _ => do
    let a ← remoteAddr e (scaleAddr e off)
    pure ([a], 0, 8)

/-- What a gathered read of a REMOTE box asks for: the elements, and for a block type a scale byte per element after them. -/
def remoteWants (c : Client) (b : Box) (first n : Nat) : M (List (List Nat × Nat × Nat)) := do
  let os ← (rangeFrom first n).mapM fun k => elemOffset b.entry (b.coords k)
  let es ← os.mapM (remoteElem c b.entry)
  let ss ← if isBlock (layType b.entry) then os.mapM (remoteScaleElem b.entry) else pure []
  pure (es ++ ss)

/-- LDQ of a REMOTE box: the addresses of its elements go to the device by chunks, and its replies carry them (log 14); the
entries of q0 are reserved at issue. -/
def remoteLdq (b : Box) : M Disp := do
  checkRight b.entry 0 0
  let s ← gets id
  let es ← remoteWants (s.client 0) b 0 b.count
  let ty := layType b.entry
  let g := Gather.start es
  if g.out.isEmpty then do
    modMe fun c => { c with q0 := c.q0 ++ (stripsOf ty (List.replicate b.count 0)).map fun x => { data := x, tag := tagOf ty } }
    pure .retire
  else do
    let x ← me
    let dev := layDev b.entry
    let va := (es.find? fun e => !e.1.isEmpty).elim 0 fun e => e.1.headD 0
    let pkt : PodPacket := { dst := dev, core := s.turn.core, ctx := s.turn.ctx, name := s.activity.name, part := s.activity.part,
                             prio := s.prioOf s.self, stamp := some (x.sentTo dev), interval := x.interval }
    sendRequest { kind := .gather, va := va, remote := true, dev := dev, ty := ty, gather := g } .scoreboard fun id t =>
      (t.reserve b.strips ty id).sendGather pkt (laySpread b.entry) id 0 g

/-- A transfer to or from HOST or CXL reaches N0 after the accesses that stand there already (11 R425). -/
def hostOrder (e : BitVec 512) : M Unit := do
  let s ← gets id
  if (laySpace e = 4 ∨ laySpace e = 5) ∧ !s.hostReqs.isEmpty then waitFor .scoreboard else pure ()

/-- LDQ (R106): all room in q0 as one wait; each strip reserves one entry, in order. -/
def execLdq (c : BitVec 5) (σ : State) : Out :=
  aHalf (.ldq c) (fun h => do
    let b ← readBox c
    queueBox b
    boxInRange b
    poolOrder b.entry
    let m ← me
    if m.pend.isSome then waitFor .scoreboard
    else if 16 < m.q0.length + b.strips then waitQueue .scoreboard { queue := 0, push := true, need := b.strips }
    else do
      let s ← gets id
      hostOrder b.entry
      if laySpace b.entry = 1 ∧ b.count ≠ 0 then remoteLdq b
      else do
        let codes ← (rangeFrom 0 b.count).mapM (boxElem (s.client h.hmod.cache) b)
        let ty := layType b.entry
        let wait := laySpace b.entry != 2 && laySpace b.entry != 3
        modMe fun m => { m with q0 := m.q0 ++ (stripsOf ty codes).map fun x => { data := x, tag := tagOf ty, awaits := wait } }
        pure .retire) σ

/-- Writes the elements of one strip from a q1 entry: adjacent bytes as one write, so that a granule which the strip covers
whole is written whole (R90). -/
def stqStrip (c : Client) (b : Box) (x : BitVec 512) (j : Nat) : M Unit := do
  let ty := layType b.entry
  let n := laneCount ty
  let os ← (stripElems b j).mapM fun k => do
    let o ← elemOffset b.entry (b.coords k)
    pure (o, laneOf (laneBits ty) x (k - j * n))
  if laySpace b.entry = 6 then
    os.forM fun p => do
      let ls ← elemWritePlaces c b.lid b.entry p.1
      match ls with
      | .phys a :: _ => devWriteAll c (p.1.addr b.entry).toNat (a - 0x8000000000) ls.length p.2
      | _ => pure ()
  else do
    let parts ← os.mapM (writeParts c b.lid b.entry)
    let _ ← storeParts c ty parts.flatten
    pure ()

/-- What the store of one element of a remote box changes. -/
def remoteStqElem (b : Box) (x : BitVec 512) (j k : Nat) : M (List BytePart) := do
  let o ← elemOffset b.entry (b.coords k)
  let n := laneCount (layType b.entry)
  let s ← gets id
  remoteParts (s.client 0) b.entry o (laneOf (laneBits (layType b.entry)) x (k - j * n))

/-- What a body would give, without its effects. -/
def probe {α : Type} (m : M α) : M α := fun s => match m s with
  | .ok (x, _) => .ok (x, s)
  | .error e => .error e

/-- The implicit fence before an STQ to a remote device, where one of its packets would open a ninth target or carry the count
of its path past 65,535 (12 R272). -/
def stqFence (b : Box) : M (Option Disp) := do
  let m ← me
  let dev := layDev b.entry
  let spread := laySpread b.entry
  let parts ← probe ((rangeFrom 0 b.strips).mapM fun j => (stripElems b j).mapM (remoteStqElem b 0#512 j))
  let paths := ((parts.map fun ps => packParts (mergeParts ps.flatten)).flatten).map fun q => pathOf (q.headD (0, 0, 0)).1 spread
  if m.podFence.isSome || m.sentFull dev paths then podRelease else pure none

/-- STQ (R106): all entries of q1 as one wait; each strip pops one and checks its tag. -/
def execStq (c : BitVec 5) (σ : State) : Out :=
  aHalf (.stq c) (fun h => do
    let b ← readBox c
    queueBox b
    boxInRange b
    let m ← me
    if m.q1.length < b.strips then waitQueue .scoreboard { queue := 1, push := false, need := b.strips }
    else do
      let s ← gets id
      hostOrder b.entry
      if laySpace b.entry = 1 ∧ b.count ≠ 0 then do
        checkRight b.entry 1 0
        match ← stqFence b with
        | some d => pure d
        | none => do
          (rangeFrom 0 b.strips).forM fun j => do
            let x ← popQ1 (layType b.entry)
            let ps ← (stripElems b j).mapM (remoteStqElem b x j)
            mods fun s =>
              let stamp := if h.hmod.ord then some (s.actor.sentTo (layDev b.entry)) else none
              s.sendParts (layDev b.entry) (laySpread b.entry) s.turn.core s.turn.ctx s.activity.name s.activity.part (s.prioOf s.self)
                stamp false ps.flatten
          pure .retire
      else do
        (rangeFrom 0 b.strips).forM fun j => do
          let x ← popQ1 (layType b.entry)
          stqStrip (s.client h.hmod.cache) b x j
        pure .retire) σ

/-! ## The layout table -/

/-- LAYSET (R107, R100): a bound entry keeps SPACE SPAD and a bound VBASE. -/
def execLayset (i b : BitVec 5) (σ : State) : Out :=
  aHalf (.layset i b) (fun _ => do
    let w ← readA i
    let ws ← regsAt b 0 8
    let l := fieldOf w 7 0
    let e := BitVec.ofNat 512 (natOfBytes ((ws.map fun x => bytesOfNat 8 x.toNat).flatten))
    require (!layMalformed (decide (l < 16)) e)
    modMyProc fun p => { p with layouts := put p.layouts l e }
    pure .retire) σ

/-- LAYGET (R107) -/
def execLayget (b i : BitVec 5) (σ : State) : Out :=
  aHalf (.layget b i) (fun _ => do
    let w ← readA i
    let p ← myProc
    let e := p.layout (fieldOf w 7 0)
    writeRegs b 0 ((rangeFrom 0 8).map fun k => wordOf (fieldOf e (64 * k + 63) (64 * k)))
    pure .retire) σ

/-- The layout of a box (R107 LAYSUB): VBASE and SBASE at the box's start element, DIMs its extents. SBASE moves by whole
blocks. A 6-bit layout whose start lies inside a byte or a block gets bases rounded down; R107 gives none (log 71). -/
def subLayout (b : Box) : BitVec 512 :=
  let e := b.entry
  let off : Int := ((rangeFrom 0 (layRank e)).map fun k => ((b.start.getD k 0 : Nat) : Int) * layStride e k).foldl (· + ·) 0
  let bytes : Int := if isSix (layType e) then (6 * off).ediv 8 else off * elemSize e
  let pool := laySpace e = 2 ∨ laySpace e = 3
  let vb := if pool then layVbase e / 65536 * 65536 + wrapTo 16 (((layVbase e % 65536 : Nat) : Int) + bytes)
    else wrapTo 52 ((layVbase e : Int) + bytes)
  let sb : Nat := if !isBlock (layType e) then laySbase e
    else if pool then laySbase e / 65536 * 65536 + wrapTo 16 (((laySbase e % 65536 : Nat) : Int) + off.ediv 64)
    else wrapTo 52 ((laySbase e : Int) + off.ediv 64)
  let e := setField (setField e 179 128 vb) 243 192 sb
  (rangeFrom 0 (layRank e)).foldl (fun e k => setField e (287 + 32 * k) (256 + 32 * k) (b.ext.getD k 0)) e

/-- The scale plane of a bound entry, as an entry that is not bound names it: a pool offset with the core (07 R152). -/
def unboundScale (lid : Nat) (e : BitVec 512) : BitVec 512 :=
  if lid < 16 ∧ isBlock (layType e) then
    setField e 243 192 (layVbase e / 65536 * 65536 + (layVbase e + laySbase e) % 65536)
  else e

/-- LAYSUB (R107) -/
def execLaysub (i b : BitVec 5) (σ : State) : Out :=
  aHalf (.laysub i b) (fun _ => do
    let w ← readA i
    let x ← readBox b
    let l := fieldOf w 7 0
    require (decide (16 ≤ l))
    guardFault (!(x.lid < 16) || (find (← myProc).regions x.lid (0, 0)).2 != 0) .layout 0#64
    let e := x.entry
    let beyond := (rangeFrom 0 (layRank e)).any fun k => decide (layDim e k < x.start.getD k 0 + x.ext.getD k 0)
    let rough := isSix (layType e) && (x.start.getD 0 0 % 64 != 0 || x.ext.getD 0 0 % 64 != 0)
    guardFault (!beyond && !rough) .layout 0#64
    modMyProc fun p => { p with layouts := put p.layouts l (subLayout { x with entry := unboundScale x.lid e }) }
    pure .retire) σ

/-- One element's lines requested by PREF: at their home slices for HBM, and into the read-only cache also those of HOST and CXL,
which R104 reads through it. A part that would fail is dropped (R108); its walk still marks a lost table line (03 R59). -/
def prefElem (c : Client) (b : Box) (ro : Bool) (k : Nat) (s : State) : State :=
  let go : M Unit := do
    let o ← elemOffset b.entry (b.coords k)
    match o with
    | .zero => pure ()
    | .elem off _ => do
      let as := elemAddrs b.entry off
      guardFault (layRight b.entry 0) .protection 0#64
      let ls ← placesOf c b.lid b.entry 0 false as
      ls.forM fun l => match l with
        | .phys a => mods fun s =>
          let s := if inHbm a then s.readLine (a / 128 * 128) c.part (c.core / 8) c.cache true else s
          if ro && (inHbm a || s.hostReqs.isEmpty) then (s.roRead (s.clientAgent c) c.part (c.core / 8) c.cache a 1).2 else s
        | _ => pure ()
  match go s with
  | .ok (_, t) => t
  | .error (.fault code x extra) => s.lostBy c.part (c.core / 8) (code, x, extra)
  | .error (.wait _ _) => s

/-- PREF (R107, R108): no fault but ILLEGAL, no program-visible state. -/
def execPref (b : BitVec 5) (r : BitVec 1) (σ : State) : Out :=
  aHalf (.pref b r) (fun h => do
    let x ← readBox b
    let s ← gets id
    let c := s.client h.hmod.cache
    let ro := r == 1#1
    let wanted := laySpace x.entry = 0 || (ro && (laySpace x.entry = 4 || laySpace x.entry = 5))
    mods fun s => if wanted then (rangeFrom 0 x.count).foldl (fun s k => prefElem c x ro k s) s else s
    pure .retire) σ

end Sys2Proof.Machine
end

