-- ==== Sys2Proof/Machine/Atomics.lean ====
section
/-!
DEFINITION. The atomics and WAITA (11 R257-R262, R426), performed at a line's home slice or by a core's scratchpad
controller, and the replies by which loads, atomics and watches end: rows LOAD_DATA_RETURN, ATOMIC_REPLY,
ATOMIC_AT_HOME, SCRATCHPAD_ATOMIC and WAITA_TIMEOUT.
-/

namespace Sys2Proof.Machine

/-! ## The operations (R258-R260) -/

/-- AFADD: exact sum to nearest-even, no flags; a zero sum is +0 (R260). -/
def afadd (ty old v : Nat) : Nat :=
  let z := addVal 0 (decodeVal ty old) (decodeVal ty v)
  if z.isZero then 0 else (encodeFloat ty 0 false z).1

/-- The new value of an operation 0-10 on a word of `ty`, none where it writes nothing, and the status. -/
def atomicNew (op ty old v cmp : Nat) : Option Nat × Nat :=
  let w := typeBits ty
  let lt := fun a b => decide (signedOf w a < signedOf w b)
  match op with
  | 0 => (some ((old + v) % 2 ^ w), 0)
  | 1 => (some (old &&& v), 0)
  | 2 => (some (old ||| v), 0)
  | 3 => (some (old ^^^ v), 0)
  | 4 => (some (if lt v old then v else old), 0)
  | 5 => (some (if lt old v then v else old), 0)
  | 6 => (some (min old v), 0)
  | 7 => (some (max old v), 0)
  | 8 => (some v, 0)
  | 9 => if old = v then (some cmp, 1) else (none, 0)
  | _ => (some (afadd ty old v), 0)

/-- The types an operation takes (R258); 11 is WAITA. -/
def atomicType (op ty : Nat) : Bool :=
  if op = 10 then decide (ty ≤ 2)
  else decide (12 ≤ ty ∧ ty ≤ 15) || (decide (8 ≤ op) && ty == 0)

/-- The value an atomic returns: S32 and S64 sign-extend, else zero-extended (R257). -/
def atomicValue (ty old : Nat) : Word := if ty = 12 then wordOfInt (signedOf 32 old) else wordOf old

/-- An atomic in hand: its operation, type, data, ACAS's new value, WAITA's timeout. -/
structure AtomicOp where
  op : Nat
  ty : Nat
  v : Nat
  cmp : Nat := 0
  tmo : Nat := 0
  deriving DecidableEq, Repr

/-- The operation writes to a word of value `old`: not WAITA, nor an ACAS that fails (R259). -/
def AtomicOp.writes (x : AtomicOp) (old : Nat) : Bool := x.op != 11 && (atomicNew x.op x.ty old x.v x.cmp).1.isSome

/-- Who issued an atomic: a context of this device, or of another. -/
structure Issuer where
  core : Nat
  ctx : Nat
  part : Nat
  agent : Nat
  die : Nat
  far : Option (Nat × Nat) := none
  deriving DecidableEq, Repr

/-- What becomes of an atomic at its home: the old value with a status, or a watch (WAITA). -/
inductive AtomicOut where
  | reply (old status : Nat)
  | watch
  deriving DecidableEq, Repr

/-- WAITA on a word: differing values reply with 0; an equal one is watched where the table has room, else replies at once
with 1 (R261). -/
def waitaOut (old v room : Nat) : AtomicOut :=
  if old ≠ v then .reply old 0 else if room = 0 then .reply old 1 else .watch

/-- An atomic at the home slice of an aligned word of HBM: it reads, and writes where the operation writes; any atomic
but WAITA ends the watches on the line. -/
def State.atomicAt (s : State) (i : Issuer) (a : Nat) (x : AtomicOp) : AtomicOut × State :=
  let w := typeBytes x.ty
  let line := a / 128 * 128
  let h := homeOf a
  let old := readNat s.mem a w
  let s := s.observeRead i.agent a w
  if x.op = 11 then
    let s := (s.crossDie i.die h.die).lineAccess h line i.part 0 false
    match waitaOut old x.v (32 - (s.sliceAt h).watches.length) with
    | .watch =>
      (.watch, s.modSlice h fun l =>
        { l with watches := l.watches ++ [{ core := i.core, ctx := i.ctx, addr := a, width := w, since := s.cyc, tmo := x.tmo, far := i.far }] })
    | o => (o, s)
  else
    let r := atomicNew x.op x.ty old x.v x.cmp
    match r.1 with
    | some new =>
      (.reply old r.2, s.write { agent := i.agent, part := i.part, die := i.die, kind := .atomic } a (bytesOfNat w new))
    | none =>
      let s := (s.closeWindow h line).crossDie i.die h.die
      let s := s.lineAccess h line i.part 0 false
      (.reply old r.2, s.endWatches line)

/-- An atomic performed by the scratchpad controller of a core (R426). -/
def State.atomicPad (s : State) (i : Issuer) (core off : Nat) (x : AtomicOp) : AtomicOut × State :=
  let w := typeBytes x.ty
  let old := natOfBytes (s.poolBytes core off w)
  let s := (s.learn i.agent (s.poolKnown core off w)).crossDie i.die (dieOf (core / 8))
  if x.op = 11 then
    match waitaOut old x.v (16 - (s.core core).watches.length) with
    | .watch =>
      (.watch, s.modCore core fun c =>
        { c with watches := c.watches ++ [{ core := i.core, ctx := i.ctx, addr := off, width := w, since := s.cyc, tmo := x.tmo }] })
    | o => (o, s)
  else
    let r := atomicNew x.op x.ty old x.v x.cmp
    match r.1 with
    | some new => (.reply old r.2, s.poolWrite core off (bytesOfNat w new) x.ty (s.knows i.agent))
    | none => (.reply old r.2, s.endPadWatches core off w)

/-! ## The instructions -/

/-- An instruction of the ATOM major: its operation code of 02 R38, fields and ordering bits. -/
structure AtomInstr where
  op : Nat
  d : BitVec 5
  c : BitVec 5
  L : BitVec 8
  rel : Bool
  acq : Bool

/-- STATUS is written by ACAS and WAITA. -/
def atomStatus (op : Nat) : Bool := op = 9 || op = 11

/-- The end of an atomic: a(d) and STATUS. A d of 30 has popped its operand and pushes the result (R257). -/
def giveAtomic (d : BitVec 5) (op : Nat) (v : Word) (status : Nat) : M Unit := do
  writeA d v
  if atomStatus op then setStatus (wordOf status) else pure ()

/-- The context that acts, as the issuer of an atomic. -/
def State.issuer (s : State) : Issuer :=
  { core := s.turn.core, ctx := s.turn.ctx, part := s.activity.part, agent := s.agent, die := dieOf (s.turn.core / 8) }

/-- An atomic performed on this device: its reply, or the watch the context waits on. -/
def finishAtomic (x : AtomInstr) (ty : Nat) (raw : List Word) (o : AtomicOut) : M Disp := do
  match o with
  | .reply old st => do
    giveAtomic x.d x.op (atomicValue ty old) st
    pure .retire
  | .watch => sendRequest { kind := .waita, popped := raw, dest := x.d, ty := ty, setsStatus := true } .atomicPending fun _ s => s

/-- The atomic's access, its operands at hand. -/
def atomAccess (x : AtomInstr) (e : BitVec 512) (off : Int) (h : Hints) (raw : List Word) (v cmp : Nat) : M Disp := do
  let s ← gets id
  let c := s.client 0
  let ty := layType e
  let as := elemAddrs e off
  let va := as.headD 0
  let w := typeBytes ty
  let scope := if h.hmod.scope ≠ 0 then h.hmod.scope
    else if laySpace e = 1 && !x.rel && !x.acq then 6 else 5
  let me' ← me
  let op : AtomicOp := { op := x.op, ty := ty, v := v, cmp := cmp, tmo := me'.waittmo.toNat }
  if laySpace e = 1 then do
    let a ← remoteAddr e va
    let dev := layDev e
    if x.op = 11 ∨ x.op = 9 then pure () else mods State.setUnroll
    sendRequest { kind := if x.op = 11 then .waita else .atomic, swaps := x.op == 9, va := a, remote := true, dev := dev, popped := raw, dest := x.d, ty := ty,
                  setsStatus := atomStatus x.op } .atomicPending fun id s =>
      s.injectPkt { dst := dev, core := c.core, ctx := c.ctx, name := s.activity.name, part := c.part, path := pathOf a (laySpread e),
                    prio := s.prioOf s.self, interval := s.actor.interval,
                    body := .atomic a w x.op (wordOf v) (wordOf cmp) ty scope id op.tmo }
  else do
    let ls ← placesOf c x.L.toNat e 3 false as
    match ls with
    | .pool n o :: _ => do
      match s.readTagFault n o w ty with
      | some f => failWith .format f
      | none => match (if n = c.core then s.fillHold n s.self o w else .free) with
        | .stall => waitFor .fillWindow
        | .poison f => failWith .dataPoison (wordOf f)
        | .free => if s.crossBusy s.issuer.die (dieOf (n / 8)) then waitFor .fence else do
          if !op.writes (natOfBytes (s.poolBytes n o w)) then pure ()
          else if n = c.core then mods fun s => s.logUndo o w
          else mods State.setUnroll
          let t ← gets id
          let (r, t) := t.atomicPad t.issuer n o op
          mods fun _ => t
          finishAtomic x ty raw r
    | .phys a :: _ => do
      scopeM ls (wrapTo 52 va) scope
      let t ← gets id
      if (x.op ≠ 11 && t.stageFull a) || t.crossFull t.issuer.die a then waitFor .fence
      else do
        let (r, u) := t.atomicAt t.issuer a op
        mods fun _ => if op.writes (readNat t.mem a w) then u.setUnroll else u
        finishAtomic x ty raw r
    | _ => illegal

/-- An instruction of the ATOM major (R257). -/
def atomBody (i : Instr) (x : AtomInstr) (h : Hints) : M Disp := do
  let m ← me
  if m.pend.isSome then waitFor .atomicPending
  else do
    let e ← useLayout x.L.toNat
    let ty := layType e
    let cs ← coordsAt i x.c (layRank e)
    require (atomicType x.op ty)
    guardFault (!layRed e && (laySpace e == 0 || laySpace e == 1 || laySpace e == 2) && devOk e) .layout 0#64
    remoteScope e true h
    let o ← elemOffset e cs
    checkRight e 3 (o.addr e)
    match o with
    | .elem off false => do
      guardFault (decide ((o.addr e).emod (typeBytes ty) = 0)) .layout 0#64
      let sc := scopeOf h
      let rel ← if x.rel then release (if laySpace e = 1 then max 6 sc else sc) else pure none
      match rel with
      | some d => pure d
      | none => do
        let v ← readA x.d
        let cmp ← if x.op = 9 then regAt x.d 1 else pure 0#64
        let n := 2 ^ typeBits ty
        atomAccess x e off h (if x.d = 30#5 then [v] else []) (v.toNat % n) (cmp.toNat % n)
    | _ => do
      let _ ← readA x.d
      let s ← gets id
      countOut (s.client 0)
      writeA x.d 0#64
      setStatus 0#64
      pure .retire

/-- AADD -/
def execAadd (d c : BitVec 5) (L : BitVec 8) (r q : BitVec 1) (σ : State) : Out :=
  aHalf (.aadd d c L r q) (atomBody (.aadd d c L r q) ⟨0, d, c, L, r == 1#1, q == 1#1⟩) σ
/-- AAND -/
def execAand (d c : BitVec 5) (L : BitVec 8) (r q : BitVec 1) (σ : State) : Out :=
  aHalf (.aand d c L r q) (atomBody (.aand d c L r q) ⟨1, d, c, L, r == 1#1, q == 1#1⟩) σ
/-- AOR -/
def execAor (d c : BitVec 5) (L : BitVec 8) (r q : BitVec 1) (σ : State) : Out :=
  aHalf (.aor d c L r q) (atomBody (.aor d c L r q) ⟨2, d, c, L, r == 1#1, q == 1#1⟩) σ
/-- AXOR -/
def execAxor (d c : BitVec 5) (L : BitVec 8) (r q : BitVec 1) (σ : State) : Out :=
  aHalf (.axor d c L r q) (atomBody (.axor d c L r q) ⟨3, d, c, L, r == 1#1, q == 1#1⟩) σ
/-- AMIN -/
def execAmin (d c : BitVec 5) (L : BitVec 8) (r q : BitVec 1) (σ : State) : Out :=
  aHalf (.amin d c L r q) (atomBody (.amin d c L r q) ⟨4, d, c, L, r == 1#1, q == 1#1⟩) σ
/-- AMAX -/
def execAmax (d c : BitVec 5) (L : BitVec 8) (r q : BitVec 1) (σ : State) : Out :=
  aHalf (.amax d c L r q) (atomBody (.amax d c L r q) ⟨5, d, c, L, r == 1#1, q == 1#1⟩) σ
/-- AMINN -/
def execAminn (d c : BitVec 5) (L : BitVec 8) (r q : BitVec 1) (σ : State) : Out :=
  aHalf (.aminn d c L r q) (atomBody (.aminn d c L r q) ⟨6, d, c, L, r == 1#1, q == 1#1⟩) σ
/-- AMAXN -/
def execAmaxn (d c : BitVec 5) (L : BitVec 8) (r q : BitVec 1) (σ : State) : Out :=
  aHalf (.amaxn d c L r q) (atomBody (.amaxn d c L r q) ⟨7, d, c, L, r == 1#1, q == 1#1⟩) σ
/-- ASWAP -/
def execAswap (d c : BitVec 5) (L : BitVec 8) (r q : BitVec 1) (σ : State) : Out :=
  aHalf (.aswap d c L r q) (atomBody (.aswap d c L r q) ⟨8, d, c, L, r == 1#1, q == 1#1⟩) σ
/-- ACAS (R259) -/
def execAcas (d c : BitVec 5) (L : BitVec 8) (r q : BitVec 1) (σ : State) : Out :=
  aHalf (.acas d c L r q) (atomBody (.acas d c L r q) ⟨9, d, c, L, r == 1#1, q == 1#1⟩) σ
/-- AFADD (R260) -/
def execAfadd (d c : BitVec 5) (L : BitVec 8) (r q : BitVec 1) (σ : State) : Out :=
  aHalf (.afadd d c L r q) (atomBody (.afadd d c L r q) ⟨10, d, c, L, r == 1#1, q == 1#1⟩) σ
/-- WAITA (R261, R426) -/
def execWaita (d c : BitVec 5) (L : BitVec 8) (q : BitVec 1) (σ : State) : Out :=
  aHalf (.waita d c L q) (atomBody (.waita d c L q) ⟨11, d, c, L, false, q == 1#1⟩) σ

/-! ## Replies -/

/-- The data of a request fills the entries of q0 that it reserved. -/
def fillFor (id : Nat) (xs : List (BitVec 512)) : M Unit := modMe fun c => { c with q0 := fillReserved id c.q0 xs }

/-- The strips of a remote LDQ, in order: the elements' codes, after them the scale bytes of a block type, whose payload is not
decoded in a NaN block (07 R153). -/
def giveStrips (p : Pend) (codes : List Nat) : M Unit := do
  let n := if isBlock p.ty then codes.length / 2 else codes.length
  (rangeFrom 0 n).forM fun k => checkCode k p.ty (codes.getD k 0) (isBlock p.ty && codes.getD (n + k) 0 == 255)
  fillFor p.id (stripsOf p.ty (codes.take n))

/-- What the reply of a request writes: the value of a load, an atomic or a home, STATUS, or strips. The context learns what the
writer of the value had performed (11 R240). -/
def giveReply (p : Pend) (r : Reply) : M Unit := do
  mods fun s => s.learn s.agent r.know
  match p.kind with
  | .load => if p.dest = 31#5 then fillFor p.id [BitVec.ofNat 512 r.value.toNat] else giveLoaded p.dest p.ty r.value.toNat
  | .gather => giveStrips p r.codes
  | .atomic | .waita => do
    if p.swaps && r.status == 1 then mods State.setUnroll else pure ()
    writeA p.dest (atomicValue p.ty r.value.toNat)
    if p.setsStatus then setStatus (wordOf r.status) else pure ()
  | .home => do
    writeA p.dest r.value
    if p.setsStatus then setStatus (wordOf r.status) else pure ()
  | .barwait => do
    if r.status = 0 then mods fun s => s.learn s.agent (find s.barKnow p.va []) else pure ()
    setStatus (wordOf r.status)

/-- The request of the context that acts is over: the instruction that waits for it retires, or faults. -/
def State.takeReply (s : State) (p : Pend) (r : Reply) : State :=
  let gone := s.modActor Ctx.dropPend
  match r.fault with
  | some (code, x) => gone.raiseA s.turn.core s.turn.ctx code x r.extra
  | none =>
    match giveReply p r (s.modActor fun c => { c with pend := none }) with
    | .ok (_, t) => t.finishA .retire
    | .error (.fault code x extra) => gone.raiseA s.turn.core s.turn.ctx code x extra
    | .error (.wait why q) => s.stall s.turn.core s.turn.ctx .A why q

/-- A reply has reached the context, for a request of one of these kinds. -/
def Ctx.replied (c : Ctx) (atomics : Bool) : Option (Pend × Reply) :=
  match c.pend with
  | some p =>
    let isAtomic := p.kind ≠ .load && p.kind ≠ .gather
    match p.reply with
    | some r => if isAtomic == atomics && c.issues then some (p, r) else none
    | none => none
  | none => none

/-- The oldest entry of q0 whose data is on its way is filled. -/
def fillOldest : List QEntry → List QEntry
  | [] => []
  | e :: es => if e.awaits && e.req.isNone then { e with awaits := false } :: es else e :: fillOldest es

/-- LOAD_DATA_RETURN (01 R19, 05 R102): the data of the context's load arrives, for the register its instruction waits
for, else for the oldest reserved entry of q0. -/
def execLoadDataReturn (σ : State) : Out :=
  match σ.actor.replied false with
  | some (p, r) => .next (σ.takeReply p r)
  | none => .next (σ.modActor fun c => { c with q0 := fillOldest c.q0 })

/-- ATOMIC_REPLY (11 R257, R261): the old value and STATUS are written, and the atomic retires. -/
def execAtomicReply (σ : State) : Out :=
  match σ.actor.replied true with
  | some (p, r) => .next (σ.takeReply p r)
  | none => .next σ

/-! ## Rows at the home -/

/-- The issuer that a row names: the context of `turn`. -/
def State.rowIssuer (s : State) : Issuer := s.issuer

/-- The atomic that a row carries: `turn.val` is type · 16 + operation, the words its data, ACAS's new value, WAITTMO. -/
def State.rowAtomic (s : State) : AtomicOp :=
  let ty := s.turn.val / 16 % 16
  let n := 2 ^ typeBits ty
  { op := s.turn.val % 16, ty := ty, v := (s.given 0).toNat % n, cmp := (s.given 1).toNat % n, tmo := (s.given 2).toNat }

/-- The reply of a row's atomic goes to the context of `turn`, which takes it when it awaits one. -/
def State.rowReply (s : State) (r : AtomicOut × State) : State :=
  match r.1 with
  | .reply old st => r.2.reply s.turn.core s.turn.ctx none (s.activity.part) { value := wordOf old, status := st }
  | .watch => r.2

/-- ATOMIC_AT_HOME (11 R244, R257): an atomic of the context of `turn` that reached the home slice of the word at
physical address `turn.sub`; a scope `turn.unit` other than 0 is checked first (11 R248). -/
def execAtomicAtHome (σ : State) : Out :=
  let a := σ.turn.sub
  let x := σ.rowAtomic
  if !inHbm a || a % typeBytes x.ty != 0 || !atomicType x.op x.ty then .next σ
  else if σ.turn.unit = 0 then .next (σ.rowReply (σ.atomicAt σ.rowIssuer a x))
  else match σ.scopeCheck a σ.turn.sub σ.turn.unit σ.devidx σ.turn.core σ.turn.ctx with
  | .ok t => .next (σ.rowReply (t.atomicAt σ.rowIssuer a x))
  | .error e => .next (σ.reply σ.turn.core σ.turn.ctx none 0 { fault := some (.scopeMismatch, e.1), extra := e.2 })

/-- SCRATCHPAD_ATOMIC (11 R257, R426): the controller of core `turn.unit` performs an atomic at pool offset `turn.sub`. -/
def execScratchpadAtomic (σ : State) : Out :=
  let x := σ.rowAtomic
  if !coreOk σ.turn.unit then .fault .noSuchUnit
  else if 65536 ≤ σ.turn.sub || σ.turn.sub % typeBytes x.ty != 0 || !atomicType x.op x.ty then .next σ
  else .next (σ.rowReply (σ.atomicPad σ.rowIssuer σ.turn.unit σ.turn.sub x))

/-- A watch has waited its WAITTMO clocks. -/
def Watch.expired (w : Watch) (cyc : Nat) : Bool := w.tmo != 0 && decide (w.since + w.tmo ≤ cyc)

/-- The first expired watch of a list replies with the word's value and STATUS 2; the others stay. -/
def State.expireWatch (s : State) (word : Watch → Nat) (after : Watch → Know) (ws : List Watch) : Option (List Watch × State) :=
  match takeFirst (fun (w : Watch) => w.expired s.cyc) ws with
  | some (w, rest) => some (rest, s.reply w.core w.ctx w.far 0 { value := wordOf (word w), status := 2, know := after w })
  | none => none

/-- WAITA_TIMEOUT (11 R261, R426): in slice `turn.sub` of cluster `turn.unit`, or for `turn.sub` 4 and more in the
scratchpad controller of that cluster's core `turn.sub` − 4. -/
def execWaitaTimeout (σ : State) : Out :=
  if !clusterOk σ.turn.unit || 12 ≤ σ.turn.sub then .fault .noSuchUnit
  else if σ.turn.sub < 4 then
    let l := find (σ.cluster σ.turn.unit).slices σ.turn.sub {}
    match σ.expireWatch (fun w => readNat σ.mem w.addr w.width) (fun w => σ.wordKnow w.addr) l.watches with
    | some (ws, t) => .next (t.modCluster σ.turn.unit fun c => { c with slices := put c.slices σ.turn.sub { l with watches := ws } })
    | none => .next σ
  else
    let n := σ.turn.unit * 8 + (σ.turn.sub - 4)
    match σ.expireWatch (fun w => natOfBytes (σ.poolBytes n w.addr w.width)) (fun w => σ.poolKnown n w.addr w.width) (σ.core n).watches with
    | some (ws, t) => .next (t.modCore n fun c => { c with watches := ws })
    | none => .next σ

end Sys2Proof.Machine
end

