-- ==== Sys2Proof/Machine/Chan.lean ====
section
/-!
DEFINITION. Channels (13 R298-R326): end handles, packets on Mortar and between devices, the inbox at the core of a
receive end, the home's record and what each arrival does to it, refusals, moves and closes of ends.
-/

namespace Sys2Proof.Machine

/-! ## Events -/

/-- Sends an event to the process of a name (13 R325); one for a process that has exited is dropped. -/
def State.sendEvent (s : State) (core part name : Nat) (e : Evt) : State :=
  if name = 0 then s
  else if devOf name ≠ s.devidx then s.injectPkt { dst := devOf name, core := core, part := part, body := .chan (.event name e) }
  else match s.named name with
    | some p => s.sendPkt (core / 8) (p.core / 8) part (.event name e)
    | none => s

/-! ## Processes and their end registers -/

/-- Changes end register `k` of the process in a slot. -/
def State.modEnd (s : State) (slot k : Nat) (f : EndReg → EndReg) : State :=
  s.modProc slot fun p => { p with ends := put p.ends k (f (p.endAt k)) }

/-- The lowest `n` EMPTY end registers, or none when there are fewer. -/
def Proc.freeEnds (p : Proc) (n : Nat) : Option (List Nat) :=
  let free := (rangeFrom 0 64).filter fun k => (p.endAt k).state = .empty
  if n ≤ free.length then some (free.take n) else none

/-- Sets registers of a process to a state without an end. -/
def State.clearEnds (s : State) (slot : Nat) (ks : List Nat) (st : EndState) : State :=
  ks.foldl (fun s k => s.modEnd slot k fun _ => { state := st }) s

/-- The ends that a message carried were accepted (R314): the sender's RESERVED registers become EMPTY. -/
def State.accepted (s : State) (core part : Nat) (m : Msg) : State :=
  let regs := m.ends.map Prod.snd
  if m.taken || regs.isEmpty then s
  else if devOf m.name = s.devidx then
    match s.named m.name with
    | some _ => s.clearEnds (slotOf m.name) regs .empty
    | none => s
  else s.injectPkt { dst := devOf m.name, core := core, part := part, body := .chan (.accepted m.name regs) }

/-! ## The inbox at a core (R309, R310, R317) -/

/-- The inbox of a channel. -/
def Core.inbox (c : Core) (chid : Nat) : Option Inbox := c.inboxes.find? fun i => i.chid = chid

/-- Changes the inbox of a channel. -/
def State.modInbox (s : State) (core chid : Nat) (f : Inbox → Inbox) : State :=
  s.modCore core fun c => { c with inboxes := c.inboxes.map fun i => if i.chid = chid then f i else i }

/-- Messages that the inbox pool of a core holds, those of its control channels among them, and how many it has room for: 80 bytes
each (05 R87). -/
def Core.pooled (c : Core) : Nat := c.inboxes.foldl (fun n i => n + i.held.length) 0
/-- Room of the inbox pool in messages. -/
def Core.poolRoom (c : Core) : Nat := inboxBytes c.partw / 80

/-- Inserts a message by its sequence, counted from the sequence expected; one that runs again goes before them (R311). -/
def insertSeq (base : Nat) (m : Msg) : List Msg → List Msg
  | [] => [m]
  | x :: xs =>
    if m.again || (!x.again && decide ((m.seq + 2 ^ 32 - base) % 2 ^ 32 < (x.seq + 2 ^ 32 - base) % 2 ^ 32)) then m :: x :: xs
    else x :: insertSeq base m xs

/-- The receiver passes over settled sequences, and meets the close marker when its turn comes (R310, R317), on fuel. -/
def State.advanceFuel (s : State) (core chid : Nat) : Nat → State
  | 0 => s
  | n + 1 =>
    match (s.core core).inbox chid with
    | none => s
    | some i =>
      let r := (s.proc i.slot).endAt i.reg
      let seq := hSeq r.handle
      if i.control.isSome then s
      else if i.settled.contains seq then
        let s := s.modInbox core chid fun i => { i with settled := i.settled.filter (· != seq), passed := i.passed ++ [seq] }
        let s := s.modEnd i.slot i.reg fun r => { r with handle := hSetSeq r.handle ((seq + 1) % 2 ^ 32) }
        s.advanceFuel core chid n
      else if i.fseq = some seq ∧ !r.pcl then
        let s := s.modEnd i.slot i.reg fun r => { r with pcl := true }
        s.modProc i.slot fun p =>
          { p with events := p.events ++ [{ code := 2, name := i.closer, reg := i.reg, detail := wordOf seq, arrived := s.cyc }] }
      else s

/-- The receiver passes over what is settled. -/
def State.advance (s : State) (core chid : Nat) : State :=
  let n := match (s.core core).inbox chid with
    | some i => i.settled.length
    | none => 0
  s.advanceFuel core chid (n + 1)

/-- Messages among what is parked. -/
def msgCount (xs : List Parked) : Nat := (xs.filter fun x => match x with
  | .msg _ => true
  | _ => false).length

/-- Messages parked at a home of this device for a channel. -/
def State.parkedAt (s : State) (chid : Nat) : Nat :=
  if chDev chid ≠ s.devidx then 0 else msgCount (s.chan (chIdx chid)).parked

/-- Messages parked at the home for an inbox (R309): of a home on another device, as many as that home has told. -/
def State.parkedFor (s : State) (i : Inbox) : Nat := if chDev i.chid = s.devidx then s.parkedAt i.chid else i.far

/-- A refused message goes back to its sender (R310), with the detail of R326 and the name of R325. -/
def State.refuse (s : State) (core : Nat) (m : Msg) (detail name : Nat) : State :=
  s.sendTo core (devOf m.name) (m.core / 8) m.part (.refused m detail name)

/-- A message takes its place in the inbox of a core: the ends it carries take the lowest EMPTY registers (R314). -/
def State.hold (s : State) (core : Nat) (i : Inbox) (m : Msg) (lands : List Nat) : State :=
  let seq := hSeq ((s.proc i.slot).endAt i.reg).handle
  let s := s.clearEnds i.slot lands .reserved
  let s := s.accepted core m.part m
  let m := { m with lands := lands, arrived := s.cyc, taken := m.taken || !m.ends.isEmpty }
  let seq := if i.control.isSome then i.next else seq
  s.modInbox core m.chid fun i => { i with held := insertSeq seq m i.held }

/-- Details of a refusal by which the rate loop counts (14 R340). -/
def countsRefusal (detail : Nat) : Bool := detail = 0 || detail = 1 || detail = 3

/-- The core passes over the settled sequences of a core control channel, on fuel (R310, 15 R361). -/
def State.advanceControl (s : State) (core chid : Nat) : Nat → State
  | 0 => s
  | n + 1 =>
    match (s.core core).inbox chid with
    | some i =>
      if i.settled.contains i.next then
        (s.modInbox core chid fun i =>
          { i with settled := i.settled.filter (· != i.next), next := (i.next + 1) % 2 ^ 32 }).advanceControl core chid n
      else s
    | none => s

/-- A message on a core control channel (15 R361): it counts against the channel's capacity and takes room of the pool like any
other (05 R87); ends that it carries take no register. -/
def State.arriveControl (s : State) (core : Nat) (i : Inbox) (m : Msg) : State :=
  let no := fun (detail : Nat) =>
    ((s.modInbox core m.chid fun i => { i with settled := i.settled ++ [m.seq] }).advanceControl core m.chid
      (i.settled.length + 1)).refuse core m detail 0
  if i.cap ≤ i.held.length then no 0
  else if (s.core core).poolRoom ≤ (s.core core).pooled then no 1
  else s.hold core i m []

/-- A message that runs again finds room at a core where its end is; elsewhere it has only to travel (R311). -/
def State.againFits (s : State) (core : Nat) (m : Msg) : Bool :=
  !m.again || ((s.core core).inbox m.chid).isNone || decide ((s.core core).pooled < (s.core core).poolRoom)

/-- A data message reaches a core (R308, R309, R314). One that runs again was accepted once and is not refused (log 85). -/
def State.arriveData (s : State) (core : Nat) (m : Msg) : State :=
  match (s.core core).inbox m.chid with
  | none => s.toHome core m.chid m.home m.part (.toHome m)
  | some i =>
    if i.control.isSome then s.arriveControl core i m
    else if m.again then s.hold core i m []
    else
    let p := s.proc i.slot
    let no := fun (detail : Nat) =>
      let s := s.modInbox core m.chid fun i =>
        { i with settled := i.settled ++ [m.seq], refused := i.refused + (if countsRefusal detail then 1 else 0) }
      (s.advance core m.chid).refuse core m detail p.name
    if i.cap ≤ i.held.length + s.parkedFor i then no 0
    else if (s.core core).poolRoom ≤ (s.core core).pooled then no 1
    else match p.freeEnds m.ends.length with
      | none => no 4
      | some lands => s.hold core i m lands

/-! ## The home (R298, R308, R313-R319) -/

/-- The record stands at a home of this device. -/
def State.record (s : State) (chid : Nat) : Option Chan :=
  if chDev chid ≠ s.devidx then none
  else match look s.chans (chIdx chid) with
    | some c => if c.sst = .closed ∧ c.rst = .closed then none else some c
    | none => none

/-- A core of the home's cluster, as the source of what the home sends. -/
def Chan.at (c : Chan) : Nat := c.home / 4 * 8

/-- The location of the receive end as a sender on device `dev` caches it: a core of the same device, or the home. -/
def Chan.seenFrom (c : Chan) (dev : Nat) : Option Nat :=
  if c.rst = .here ∧ devOf c.rname = dev then some c.rloc else none

/-- The partition of a channel's parties. -/
def State.chanPart (s : State) (c : Chan) : Nat :=
  match s.named c.rname with
  | some p => p.part
  | none => match s.named c.sname with
    | some p => p.part
    | none => 0

/-- The order of what is parked at a home: a message that runs again and the sequences passed over first, messages and settled
sequences by their sequence, a marker behind them. -/
def Parked.key (base : Nat) : Parked → Nat
  | .msg m => if m.again then 0 else (m.seq + 2 ^ 32 - base) % 2 ^ 32
  | .settled n => (n + 2 ^ 32 - base) % 2 ^ 32
  | .passed _ => 0
  | .close _ _ => 2 ^ 33

/-- Inserts by key, behind equal keys. -/
def insertParked (base : Nat) (x : Parked) : List Parked → List Parked
  | [] => [x]
  | y :: ys => if x.key base < y.key base then x :: y :: ys else y :: insertParked base x ys

/-- A message at the home of its channel (R308, R313). -/
def State.arriveHome (s : State) (m : Msg) : State :=
  match s.record m.chid with
  | none => s.refuse m.core m 2 0
  | some c =>
    let k := chIdx m.chid
    let s := s.sendTo c.at (devOf m.name) (m.core / 8) m.part (.location m.core m.chid (c.seenFrom (devOf m.name)) (decide (c.rst = .closed)))
    match c.rst with
    | .here => s.sendTo c.at (devOf c.rname) (c.rloc / 8) m.part (.msg c.rloc m)
    | .inTransit =>
      if c.cap ≤ s.parkedAt m.chid ∧ !m.again then
        let s := s.modChan k fun c => { c with parked := insertParked c.dseq (.settled m.seq) c.parked }
        s.refuse c.at m 3 c.rname
      else s.modChan k fun c => { c with parked := insertParked c.dseq (.msg m) c.parked }
    | .closed => if m.again then s else s.refuse c.at m 2 c.rname

/-- Tells the core of a channel's receive end its capacity and rate period, and on another device how many messages are parked
(R309); the period starts afresh (14 R340). -/
def State.tellRate (s : State) (chid : Nat) : State :=
  match s.record chid with
  | none => s
  | some c =>
    let period := if c.rate && c.ren && c.sst = .here && c.rst = .here then c.t else 0
    if devOf c.rname = s.devidx then
      s.modInbox c.rloc chid fun i => { i with cap := c.cap, period := period, refused := 0, since := s.cyc }
    else s.injectPkt { dst := devOf c.rname, core := c.at, part := 0, body := .chan (.rateStart c.rloc chid c.cap period (msgCount c.parked)) }

/-- 2^(16 − GP), a loop's share of LOAD. -/
def loadShare (gp : Nat) : Nat := 2 ^ (16 - gp)

/-- Changes LOAD of the process of a name (14 R343): by `add` more and `sub` less, for the loop of a channel; on another device,
which keeps its own LOAD, the home tells what the loop adds to it now. -/
def State.addLoad (s : State) (chid name add sub : Nat) : State :=
  if name ≠ 0 ∧ devOf name ≠ s.devidx then
    s.injectPkt { dst := devOf name, body := .chan (.rateLoad name chid add) }
  else match s.named name with
  | some _ => s.modProc (slotOf name) fun p => { p with load := p.load + add - sub }
  | none => s

/-- A home on another device tells what the loop of a channel adds to LOAD of a process here. -/
def State.tookLoad (s : State) (name chid share : Nat) : State :=
  match s.named name with
  | some _ => s.modProc (slotOf name) fun p =>
    { p with load := p.load + share - find p.loads chid 0, loads := if share = 0 then drop p.loads chid else put p.loads chid share }
  | none => s

/-- The process of a name takes part in an enabled loop through one end of a channel only: the other end is not with it. -/
def Chan.alone (c : Chan) (recv : Bool) (name : Nat) : Bool :=
  c.ren && !(if recv then decide (c.sst = .here) && c.sname == name else decide (c.rst = .here) && c.rname == name)

/-- LOAD of a process that an end of a channel leaves or reaches (14 R343). -/
def State.loadMove (s : State) (chid : Nat) (c : Chan) (recv : Bool) (name : Nat) (joins : Bool) : State :=
  if c.alone recv name then
    if joins then s.addLoad chid name (loadShare c.gp) 0 else s.addLoad chid name 0 (loadShare c.gp)
  else s

/-- An end leaves its holder: IN_TRANSIT at the home (R312, R313). -/
def State.homeDepart (s : State) (chid : Nat) (recv : Bool) (moves name reg core : Nat) (landed : Bool) (dseq : Nat)
    (held : List Parked) : State :=
  match s.record chid with
  | none => s
  | some c =>
    let s := s.loadMove chid c recv name false
    let s := s.modChan (chIdx chid) fun c =>
      if recv then
        { c with rst := .inTransit, mvr := moves, rname := name, rfrom := reg, rlanded := landed, rloc := core, dseq := dseq,
                 parked := held.foldl (fun l x => insertParked dseq x l) c.parked }
      else { c with sst := .inTransit, mvs := moves, sname := name, sfrom := reg, slanded := landed, sloc := core }
    s.tellRate chid

/-- The home frees its record when both ends are closed (R319); the index waits for the drain marker. -/
def State.freeRecord (s : State) (k : Nat) : State :=
  s.modChan k fun c => if c.sst = .closed ∧ c.rst = .closed then { c with draining := true, parked := [] } else c

/-- A close marker at the home (R317). -/
def State.homeCloseSend (s : State) (chid fseq name : Nat) : State :=
  match s.record chid with
  | none => s
  | some c =>
    let k := chIdx chid
    let s := if c.sst = .here then s.loadMove chid c false c.sname false else s
    let s := s.modChan k fun c => { c with sst := .closed, fseq := fseq, sname := name }
    let s := match c.rst with
      | .here => s.sendTo c.at (devOf c.rname) (c.rloc / 8) (s.chanPart c) (.closeFwd c.rloc chid fseq name)
      | .inTransit => s.modChan k fun c => { c with parked := c.parked ++ [Parked.close fseq name] }
      | .closed => s
    s.freeRecord k

/-- What a discarded message leaves (R318): the ends it carries are closed at their homes, and the registers that are
reserved for them become EMPTY: the sender's, or once it was accepted the receiver's. Ends that have landed stay (R315). -/
def State.discard (s : State) (core slot : Nat) (m : Msg) : State :=
  if m.landed then s else
  let s := if m.lands.isEmpty then s.accepted core m.part m else s.clearEnds slot m.lands .empty
  m.ends.foldl (fun s e =>
    let h := e.1
    if hRecv h then s.toHome core (hChid h) (hHome h) m.part (.recvClose (hChid h) 0 m.name)
    else s.toHome core (hChid h) (hHome h) m.part (.closeMark (hChid h) (hSeq h) m.name)) s

/-- A receive end's close at the home (R318). -/
def State.homeCloseRecv (s : State) (chid disc name : Nat) : State :=
  match s.record chid with
  | none => s
  | some c =>
    let k := chIdx chid
    let ms := c.parked.filterMap fun x => match x with
      | .msg m => some m
      | _ => none
    let s := ms.foldl (fun s m => s.discard c.at 0 { m with lands := [] }) s
    let d := disc + ms.length
    let s := if c.rst = .here then s.loadMove chid c true c.rname false else s
    let s := s.modChan k fun c => { c with rst := .closed, disc := d, rname := name, parked := [] }
    let s := match c.sst with
      | .here => s.sendEvent c.at (s.chanPart c) c.sname
        { code := 2, name := name, reg := c.sreg, detail := wordOf d, closes := some (chid, false) }
      | .inTransit => s.modChan k fun c => { c with owe := some (d, name) }
      | .closed => s
    s.freeRecord k

/-- The end of a channel lands, or returns to its sender after a refusal, or registers its core after a resume (R314,
R315, 15 R369): `quiet` sends no event. -/
def State.homeLand (s : State) (h : BitVec 128) (name core reg : Nat) (quiet : Bool) : State :=
  let chid := hChid h
  match s.record chid with
  | none => s
  | some c =>
    let k := chIdx chid
    let part := s.chanPart c
    if hRecv h then
      if (hMoves h + 2 ^ 16 - c.mvr) % 2 ^ 16 ≥ 2 ^ 15 ∨ c.rst = .closed then s
      else
        let fresh := decide (c.rst = .inTransit)
        let s := if fresh then s.loadMove chid c true name true else s
        let s := s.modChan k fun c =>
          { c with rst := .here, rname := name, rloc := core, rreg := reg, evr := if fresh && !quiet then (false, false) else c.evr }
        let s := if fresh && !quiet && c.rlanded then
            s.sendEvent c.at part c.rname { code := 5, name := name, reg := c.rfrom, detail := wordOf name, words := [1#64] }
          else s
        let s := if fresh && !quiet && c.sst = .here && c.evs.2 then
            s.sendEvent c.at part c.sname { code := 6, name := name, reg := c.sreg, detail := wordOf name }
          else s
        let c' := s.chan k
        let s := if c.sst = .here then
            s.sendTo c.at (devOf c.sname) (c.sloc / 8) part (.location c.sloc chid (c'.seenFrom (devOf c.sname)) false)
          else s
        s.tellRate chid
    else
      if (hMoves h + 2 ^ 16 - c.mvs) % 2 ^ 16 ≥ 2 ^ 15 ∨ c.sst = .closed then s
      else
        let fresh := decide (c.sst = .inTransit)
        let s := if fresh then s.loadMove chid c false name true else s
        let s := s.modChan k fun c =>
          { c with sst := .here, sname := name, sloc := core, sreg := reg, evs := if fresh && !quiet then (false, false) else c.evs }
        let s := if fresh && !quiet && c.slanded then
            s.sendEvent c.at part c.sname { code := 5, name := name, reg := c.sfrom, detail := wordOf name, words := [0#64] }
          else s
        let s := if fresh && !quiet && c.rst = .here && c.evr.2 then
            s.sendEvent c.at part c.rname { code := 6, name := name, reg := c.rreg, detail := wordOf name }
          else s
        let s := s.sendTo c.at (devOf name) (core / 8) part (.location core chid (c.seenFrom (devOf name)) (decide (c.rst = .closed)))
        let s := match c.owe with
          | some (d, who) =>
            (s.modChan k fun c => { c with owe := none }).sendEvent c.at part name
              { code := 2, name := who, reg := reg, detail := wordOf d, closes := some (chid, false) }
          | none => s
        s.tellRate chid

/-- A parked message finds room at the core of the receive end (R315 step 4). -/
def State.parkedFits (s : State) (core : Nat) (i : Inbox) (m : Msg) : Option (List Nat) :=
  if (s.core core).poolRoom ≤ (s.core core).pooled then none else (s.proc i.slot).freeEnds m.ends.length

/-- What a home drains reaches the core of the receive end: a message takes its place, which is never refused. -/
def State.takeParked (s : State) (core chid : Nat) (x : Parked) : Option State :=
  match (s.core core).inbox chid with
  | none => none
  | some i => match x with
    | .msg m => (s.parkedFits core i m).map fun lands => s.hold core i m lands
    | .settled n => some ((s.modInbox core chid fun i => { i with settled := i.settled ++ [n] }).advance core chid)
    | .passed n => some (s.modInbox core chid fun i => { i with passed := i.passed ++ [n] })
    | .close f who => some ((s.modInbox core chid fun i => { i with fseq := some f, closer := who }).advance core chid)

/-- A home on another device has offered what it parked, of which `rest` messages stay behind: the core takes it, or no longer holds
the end and declines it; `none` where it waits for room. -/
def State.takeOffer (s : State) (core chid : Nat) (x : Parked) (rest : Nat) : Option State :=
  let answer := fun (s : State) (ok : Bool) => s.toHome core chid 0 0 (.tookParked chid x ok)
  match s.takeParked core chid x with
  | some t => some (answer (t.modInbox core chid fun i => { i with far := rest }) true)
  | none => if ((s.core core).inbox chid).isNone then some (answer s false) else none

/-- The answer to an offer at the home: what the core took is parked no more. -/
def State.tookParked (s : State) (chid : Nat) (x : Parked) (ok : Bool) : State :=
  s.modChan (chIdx chid) fun c => { c with offered := false, parked := if ok then c.parked.erase x else c.parked }

/-- The home offers what is parked to the core of the receive end, in order, until something finds no room; to one on another device,
one at a time, each after the answer to the one before. -/
def State.drainParked (s : State) (k : Nat) : Nat → State
  | 0 => s
  | n + 1 =>
    let c := s.chan k
    match c.parked with
    | [] => s
    | x :: xs =>
      if c.rst ≠ .here ∨ c.offered then s
      else
        let chid := s.devidx * 2 ^ 24 + k
        if devOf c.rname = s.devidx then
          match s.takeParked c.rloc chid x with
          | some t => (t.modChan k fun c => { c with parked := xs }).drainParked k n
          | none => s
        else
          (s.modChan k fun c => { c with offered := true }).injectPkt
            { dst := devOf c.rname, core := c.at, body := .chan (.parked c.rloc chid x (msgCount xs)) }

/-! ## Rate words (14 R341-R345) -/

/-- The two holders of a channel, once when they are the same process. -/
def Chan.parties (c : Chan) : List Nat := if c.sname = c.rname then [c.sname] else [c.sname, c.rname]

/-- LOAD of a process without the loop of a channel; that of a process of another device is what its device answers, an operand
of the act (log 47). -/
def State.loadWithout (s : State) (c : Chan) (name : Nat) : Nat :=
  let own := if c.ren then loadShare c.gp else 0
  if devOf name ≠ s.devidx then s.turn.val - own
  else match s.named name with
  | some p => p.load - own
  | none => 0

/-- Where a RATESET is refused (R344): 3, 2, 1 in that order, else 0. -/
def State.rateStatus (s : State) (c : Chan) (w : Word) : Nat :=
  let ren := fieldOf w 24 24 = 1
  let gp := fieldOf w 11 8
  let gi := fieldOf w 15 12
  if c.sst ≠ .here ∨ c.rst ≠ .here then 3
  else if c.cap < fieldOf w 5 0 ∨ (fieldOf w 23 16 = 0 ∧ ren) then 2
  else if ren ∧ (gi < gp + 2 ∨ c.parties.any fun n => 2 ^ 15 < s.loadWithout c n + loadShare gp) then 1
  else 0

/-- RATESET at the home. -/
def State.homeRateset (s : State) (chid : Nat) (w : Word) : Nat × State :=
  match s.record chid with
  | none => (3, s)
  | some c =>
    let st := s.rateStatus c w
    if st ≠ 0 then (st, s)
    else
      let ren := decide (fieldOf w 24 24 = 1)
      let gp := fieldOf w 11 8
      let keep := decide (fieldOf w 31 31 = 1)
      let s := c.parties.foldl (fun s n =>
        s.addLoad chid n (if ren then loadShare gp else 0) (if c.ren then loadShare c.gp else 0)) s
      let s := s.modChan (chIdx chid) fun c =>
        { c with ren := ren, t := fieldOf w 23 16, gi := fieldOf w 15 12, gp := gp, sp := fieldOf w 5 0,
                 i := if keep then c.i else 0, cd := if keep then c.cd else 0 }
      (0, s.tellRate chid)

/-- The packed rate word (R345). -/
def Chan.rateWord (c : Chan) : Word :=
  wordOf (at_ (wrapTo 16 c.i) 16 32 + (if c.ren then 2 ^ 24 else 0) + at_ c.t 8 16 + at_ c.gi 4 12 + at_ c.gp 4 8 + at_ c.sp 6 0)

/-- A request at the home: value, status, fault, and the state after it (R306, 14 R344, R345, R349). -/
def State.homeAsk (s : State) (q : HomeReq) : Word × Nat × Option FaultCode × State :=
  match q with
  | .gname chid recv =>
    match s.record chid with
    | none => (0#64, 0, none, s)
    | some c =>
      let st := if recv then c.sst else c.rst
      let n := if recv then c.sname else c.rname
      (match st with
        | .here => (wordOf n, 1, none, s)
        | .inTransit => (wordOf n, 2, none, s)
        | .closed => (0#64, 0, none, s))
  | .emask chid recv landed moved =>
    match s.record chid with
    | none => (0#64, 0, none, s)
    | some _ =>
      (0#64, 0, none, s.modChan (chIdx chid) fun c => if recv then { c with evr := (landed, moved) } else { c with evs := (landed, moved) })
  | .rateset chid w =>
    match s.record chid with
    | none => (0#64, 3, none, s)
    | some c =>
      if !c.rate then (0#64, 0, some .illegal, s)
      else
        let r := s.homeRateset chid w
        (0#64, r.1, none, r.2)
  | .rateget chid =>
    match s.record chid with
    | none => (0#64, 0, none, s)
    | some c => (c.rateWord, 0, none, s)

/-- The channel a request names. -/
def HomeReq.chid : HomeReq → Nat
  | .gname c _ | .emask c _ _ _ | .rateset c _ | .rateget c => c

end Sys2Proof.Machine
end

