-- ==== Sys2Proof/Machine/Barrier.lean ====
section
/-!
DEFINITION. Barrier objects in scratchpad (06 R137-R140, R427): references, the operations that the controller of the
owning core applies one at a time, the release of waiters and the adjustments by completing commands.
-/

namespace Sys2Proof.Machine

/-! ## The object (R137) -/

/-- A barrier object as it stands in scratchpad. -/
abbrev Bar := BitVec 128

/-- OUTB -/
def barOut (b : Bar) : Nat := fieldOf b 127 96
/-- INB -/
def barIn (b : Bar) : Nat := fieldOf b 95 64
/-- EXPECTED -/
def barExpected (b : Bar) : Nat := fieldOf b 63 44
/-- PENDING -/
def barPending (b : Bar) : Nat := fieldOf b 43 24
/-- POISON -/
def barPoison (b : Bar) : Bool := b.getLsbD 4
/-- GEN -/
def barGen (b : Bar) : Nat := fieldOf b 3 0

/-- The controller's test after an operation (R138): a barrier that completes takes its next generation. -/
def barTest (b : Bar) : Bar × Bool :=
  if !barPoison b && barPending b == 0 && barOut b == 0 && barIn b == 0 then
    (setField (setField b 3 0 (barGen b + 1)) 43 24 (barExpected b), true)
  else (b, false)

/-! ## References (R137, R427) -/

/-- The slot, region and offset of a reference: what names the barrier wherever its owner is. -/
def barKey (ref : Word) : Nat := fieldOf ref 47 14
/-- The slot of the owner. -/
def barSlot (ref : Word) : Nat := fieldOf ref 47 32

/-- What a reference leads to. -/
inductive BarAt where
  /-- the controller of a core and the object's offset in the pool -/
  | here (core off : Nat)
  /-- the owner is SWAPPED or MOVING: the operation waits -/
  | away
  | bad (code : FaultCode)
  deriving DecidableEq, Repr

/-- The barrier that a partition's reference names. -/
def State.barrier (s : State) (part : Nat) (ref : Word) : BarAt :=
  if fieldOf ref 63 48 ≠ 0 then .bad .illegal
  else
    let p := s.proc (barSlot ref)
    if p.state = .exited then .bad .layout
    else match look p.regions (fieldOf ref 17 14) with
      | none => .bad .layout
      | some r =>
        let off := fieldOf ref 31 18 * 16
        if r.2 < off + 16 then .bad .layout
        else if p.part ≠ part then .bad .violation
        else if p.state = .resident then .here p.core (r.1 + off)
        else .away

/-- Reads an object. -/
def State.barRead (s : State) (core off : Nat) : Bar := BitVec.ofNat 128 (natOfBytes (s.poolBytes core off 16))

/-- Releases every context that waits on a barrier with a status (R138-R140). -/
def Ctx.release (key status : Nat) (k : Ctx) : Ctx :=
  match k.pend with
  | some p =>
    if p.kind = .barwait ∧ p.va = key ∧ p.reply.isNone then { k with pend := some { p with reply := some { status := status } } }
    else k
  | none => k

/-- Changes every context of the device. -/
def State.mapCtxs (s : State) (f : Ctx → Ctx) : State :=
  { s with cores := s.cores.map fun c => (c.1, { c.2 with ctxs := c.2.ctxs.map fun k => (k.1, f k.2) }) }

/-- Releases the waiters of a barrier. -/
def State.releaseBar (s : State) (key status : Nat) : State := s.mapCtxs (Ctx.release key status)

/-- The owner of barriers exits: every waiter on them is released with status 2 (R427). -/
def State.releaseOwner (s : State) (slot : Nat) : State :=
  s.mapCtxs fun k => match k.pend with
    | some p => if p.va / 2 ^ 18 = slot then k.release p.va 2 else k
    | none => k

/-- An operation of the controller leaves an object: it is tested, written, and its waiters are released: with 0 when it
completes, with 2 when the operation poisoned or initialised it. -/
def State.barWrite (s : State) (core off key : Nat) (b : Bar) (know : Know) (freed : Option Nat) : State :=
  let r := barTest b
  let s := { s with barKnow := put s.barKnow key (joinKnow (find s.barKnow key []) know) }
  let s := s.poolWrite core off (bytesOfNat 16 r.1.toNat) 0 (joinKnow (s.poolKnown core off 16) know)
  match freed with
  | some st => s.releaseBar key st
  | none => if r.2 then s.releaseBar key 0 else s

/-- What is queued for a barrier whose owner was away. -/
def State.barQueued (s : State) (ref : Word) : Bool := s.barOps.any fun o => barKey o.ref == barKey ref

/-- An adjustment or poisoning is applied by the controller; `none` while the owner is away. One whose owner or region is
gone is dropped (R427). -/
def State.barApply (s : State) (o : BarOp) : Option State :=
  match s.barrier o.part o.ref with
  | .here core off =>
    let b := s.barRead core off
    if o.poison then some (s.barWrite core off (barKey o.ref) (b ||| 16#128) o.know (some 2))
    else
      let b := if o.inward then setField b 95 64 (barIn b + (2 ^ 32 - 1)) else setField b 127 96 (barOut b + (2 ^ 32 - 1))
      some (s.barWrite core off (barKey o.ref) b o.know none)
  | .away => none
  | .bad _ => some s

/-- A completing command adjusts the barrier it names (R138), a failed or cancelled one poisons it (R122, R135, R140):
at once, or after what waits for the owner. -/
def State.barSend (s : State) (o : BarOp) : State :=
  if s.barQueued o.ref then { s with barOps := s.barOps ++ [o] }
  else match s.barApply o with
    | some t => t
    | none => { s with barOps := s.barOps ++ [o] }

/-- The oldest operation that can be applied. -/
def State.barNext (s : State) : List BarOp → List BarOp → Option State
  | _, [] => none
  | seen, o :: os =>
    match (if seen.any fun p => barKey p.ref == barKey o.ref then none else s.barApply o) with
    | some t => some { t with barOps := seen ++ os }
    | none => s.barNext (seen ++ [o]) os

/-- BARRIER_OPERATION (R137, R427): the controller applies the oldest adjustment whose owner is RESIDENT again. -/
def execBarrierOperation (σ : State) : Out :=
  match σ.barNext [] σ.barOps with
  | some t => .next t
  | none => .next σ

/-! ## Operations by instructions -/

/-- The barrier an instruction names: it waits while the owner is away; a reference that fails only after such a wait
raises LAYOUT with the reference (R427). -/
def findBar (ref : Word) : M (Nat × Nat) := do
  let s ← gets id
  match s.barrier s.activity.part ref with
  | .here core off => if s.barQueued ref then waitFor .barrier else pure (core, off)
  | .away => waitFor .barrier
  | .bad code => failWith code (if s.actor.stallA = .barrier ∧ code = .layout then ref else 0#64)

/-- The activation writes an object: its own pool's bytes are logged (15 R371), another core's make it unrollable. -/
def noteBarWrite (core off : Nat) : M Unit := do
  let s ← gets id
  if core = s.turn.core then mods fun s => s.logUndo off 16 else mods State.setUnroll

/-- The controller's test after an operation that leaves the object as it is (R138): one that an ordinary store has left complete
completes now. -/
def barTouch (ref : Word) (core off : Nat) : M Unit := do
  let s ← gets id
  let b := s.barRead core off
  if (barTest b).2 then do
    noteBarWrite core off
    mods fun s => s.barWrite core off (barKey ref) b [] none
  else pure ()

/-- BARINIT (R139): waiters are released with status 2. -/
def barInit (ref : Word) (expected : Nat) : M Unit := do
  let p ← findBar ref
  noteBarWrite p.1 p.2
  mods fun s =>
    let old := s.barRead p.1 p.2
    let b : Bar := BitVec.ofNat 128 (at_ expected 20 44 + at_ expected 20 24 + at_ (fieldOf old 23 5) 19 5)
    s.barWrite p.1 p.2 (barKey ref) b (s.knows s.agent) (some 2)

/-- BARARR (R139): the status and the generation before the operation. -/
def barArrive (ref adds : Word) : M (Nat × Nat) := do
  let p ← findBar ref
  let s ← gets id
  let b := s.barRead p.1 p.2
  if barPoison b then pure (2, barGen b)
  else if barPending b = 0 then do
    barTouch ref p.1 p.2
    pure (3, barGen b)
  else do
    noteBarWrite p.1 p.2
    mods fun s =>
      let n := setField (setField (setField b 43 24 (barPending b - 1)) 127 96 (barOut b + fieldOf adds 31 0)) 95 64
        (barIn b + fieldOf adds 63 32)
      s.barWrite p.1 p.2 (barKey ref) n (s.knows s.agent) none
    pure (0, barGen b)

/-- The state of a barrier against a generation: 2 poisoned, 1 another generation, else 0; seeing another generation is
after what the arrivals at it were after. -/
def barSeen (ref : Word) (g : Nat) (p : Nat × Nat) : M Nat := do
  let s ← gets id
  let b := s.barRead p.1 p.2
  if barPoison b then pure 2
  else if barGen b ≠ g % 16 then do
    mods fun s => s.learn s.agent (find s.barKnow (barKey ref) [])
    pure 1
  else pure 0

/-- BARTEST's operation: the state, then the controller's test. -/
def barState (ref : Word) (g : Nat) : M Nat := do
  let p ← findBar ref
  let st ← barSeen ref g p
  barTouch ref p.1 p.2
  pure st

/-- BARWAIT's operation: one that finds the object complete is released by the test after it; one that waited for an owner that is
away is released with status 2 when the owner has exited (R427). -/
def barAwait (ref : Word) (g : Nat) : M Nat := do
  let s ← gets id
  match s.barrier s.activity.part ref with
  | .bad .layout => if s.actor.stallA = .barrier then pure 2 else failWith .layout 0#64
  | _ => do
    let p ← findBar ref
    let st ← barSeen ref g p
    barTouch ref p.1 p.2
    if st ≠ 0 then pure st else barSeen ref g p

end Sys2Proof.Machine
end

