-- ==== Sys2Proof/Machine/Command.lean ====
section
/-!
DEFINITION. The end of an engine command (06 R115-R122, R132-R136): completion, failure and cancellation, with their
effects on the tag, the barrier, the fill window or the stream, the event stream and the supervisor. CPYCAN's removal of
queued commands and the end of a stream.
-/

namespace Sys2Proof.Machine

/-! ## Which engine performs a command -/

/-- The layouts of a command. -/
def CopyCmd.entries (c : CopyCmd) : List (BitVec 512) :=
  match c.op with
  | .cpy | .cpyred => [c.dst.entry, c.src.entry]
  | .gath | .scat => [c.dst.entry, c.src.entry, c.idx.entry]
  | .halo | .strm | .fillw => [c.src.entry]

/-- The system copy engine of a supervisor's command with a layout in HOST or CXL (R141): 64 · I/O die + engine. -/
def CopyCmd.sys (c : CopyCmd) : Option Nat :=
  if c.super && c.entries.any (fun e => laySpace e == 4 || laySpace e == 5) then
    some (64 * ioOf (dieOf (c.core / 8)) + c.core % 64)
  else none

/-- The hod queue of a command in its cluster (R112). -/
def CopyCmd.queue (c : CopyCmd) : Nat := 2 * (c.core % 8) + c.tag / 32

/-- The partition of the process that issued a command. -/
def State.partOf (s : State) (name : Nat) : Nat := (s.proc (slotOf name)).part

/-- A record of the event stream about a command (23 R409). -/
def State.copyRecord (s : State) (c : CopyCmd) (kind : Nat) (detail : Word) (know : Know := []) : State :=
  s.eventRecord (s.partOf c.name) (if c.sys.isSome then 1 else 0) kind c.name c.core (wordOf c.tag) detail know

/-- The destination of a command lies in the pool of a core (R138). A HALO's does where it has neighbours and
every one of them is on that core. -/
def State.inward (s : State) (c : CopyCmd) (core : Nat) : Bool :=
  match c.op with
  | .strm | .fillw => c.core == core
  | .halo => (c.names.any (· != 0)) && (c.names.filter (· != 0)).all fun n => match s.named n with
    | some p => p.core == core
    | none => false
  | _ =>
    let e := c.dst.entry
    if laySpace e = 3 || (laySpace e = 2 && decide (c.dst.lid < 16)) then (s.proc (slotOf c.name)).core == core
    else laySpace e = 2 && layVbase e / 65536 % 16384 == core

/-! ## Ends -/

/-- How a command ends. -/
inductive Ending where
  | done
  | failed (code : FaultCode) (x : Word)
  | cancelled
  deriving DecidableEq, Repr

/-- FWINw when its filling command ends (R134): MARK at END completes it; a failure freezes it and sets FAILED. -/
def fwEnded (w : Word) (good : Bool) : Word :=
  wordOf ((if good then 0 else 2 ^ 62) + at_ (fieldOf w 61 0) 62 0)

/-- The stream of a context is marked failed (R132). -/
def Ctx.failStream (c : Ctx) (view : Nat) : Ctx :=
  { c with streams := c.streams.map fun t =>
      if t.1 = view then (t.1, t.2.1, t.2.2.1, t.2.2.2.1, t.2.2.2.2.1, true) else t }

/-- What the command's window or stream becomes. -/
def State.settleCopy (s : State) (c : CopyCmd) (good : Bool) : State :=
  match c.op with
  | .fillw => s.modCore c.core fun k =>
    { k with fwin := if h : c.win < 8 then k.fwin.set c.win (fwEnded (k.fwin[c.win]'h) good) else k.fwin }
  | .strm => if good then s else s.modCtx c.core c.ctx fun k => k.failStream c.view
  | _ => s

/-- Word 5 of an engine's fault message (15 R356): what it tells of the issuing activation while that stands in its context, else
its handler and whether the process is restartable (log 86). -/
def State.issuerWord5 (s : State) (core ctx name act handler : Nat) : Word :=
  let gone := wordOf (at_ handler 6 0 + (if (s.proc (slotOf name)).restartable then 256 else 0))
  let c := s.ctx core ctx
  match c.act with
  | some a => if a.id = act then c.faultWord5 a else gone
  | none => gone

/-- A fault message of an engine (15 R356): words 1 and 2 are zero, word 4 holds the tag or the job identifier. -/
def State.engineFault (s : State) (part core source unit ctx name : Nat) (code : FaultCode) (x w4 w5 : Word) : State :=
  s.post part core source unit ctx code.toByte.toNat name [0#64, 0#64, x, w4, w5, 0#64, 0#64]

/-- A command ends (R116, R117, R122, R135, R138): its barrier is adjusted or poisoned; what it performed is there for
who observes its tag; its flags go to PFLAGS; its tag's count falls; the event stream and, on failure, the supervisor
learn of it. -/
def State.endCopy (s : State) (c : CopyCmd) (e : Ending) : State :=
  let part := s.partOf c.name
  let know := s.knows c.agent
  let s := s.dismiss c.agent
  let good := decide (e = .done)
  let s := s.settleCopy c good
  let s := match c.bar with
    | none => s
    | some r =>
      let inw := match s.barrier part r with
        | .here n _ => s.inward c n
        | _ => s.inward c (s.proc (barSlot r)).core
      s.barSend { part := part, ref := r, poison := !good, inward := inw, know := if good then know else [] }
  let s := match s.named c.name with
    | some _ => s.orPflags (slotOf c.name) c.flags
    | none => s
  let s := s.modCore c.core fun k => { k.tagEnd c.tag (!good) with tagKnow := joinKnow k.tagKnow know }
  match e with
  | .done => s.copyRecord c 1 (wordOf c.lines) know
  | .cancelled => s.copyRecord c 3 (wordOf c.lines) know
  | .failed code x =>
    let s := s.copyRecord c 2 (wordOf code.toByte.toNat) know
    let w5 := s.issuerWord5 c.core c.ctx c.name c.act c.handler
    match c.sys with
    | some u => s.engineFault part c.core 4 u c.ctx c.name code x (wordOf c.tag) w5
    | none => s.engineFault part c.core 1 c.queue c.ctx c.name code x (wordOf c.tag) w5

/-! ## Removal of commands (R135) -/

/-- The commands of a queue that a test takes out and that the hod has not begun, and the queue without them. -/
def splitQueue (take : CopyCmd → Bool) : List HodEntry → List CopyCmd × List HodEntry
  | [] => ([], [])
  | .cmd c :: es =>
    let r := splitQueue take es
    if take c && !c.begun then (c :: r.1, r.2) else (r.1, .cmd c :: r.2)
  | .fence f :: es =>
    let r := splitQueue take es
    (r.1, .fence f :: r.2)

/-- The commands of an outbox that a test takes out, and the outbox without them. -/
def splitOutbox (take : CopyCmd → Bool) : List OutEntry → List CopyCmd × List OutEntry
  | [] => ([], [])
  | e :: es =>
    let r := splitOutbox take es
    match e with
    | .copy c => if take c then (c :: r.1, r.2) else (r.1, e :: r.2)
    | _ => (r.1, e :: r.2)

/-- Removes the commands of a core that a test takes out: from the hod's two queues of the core, from the core's system
copy engine, and from the outboxes of its contexts. -/
def State.takeCopies (s : State) (core : Nat) (take : CopyCmd → Bool) : List CopyCmd × State :=
  let cl := core / 8
  let mine := fun (c : CopyCmd) => c.core == core && take c
  let q0 := 2 * (core % 8)
  let a := splitQueue mine (find (s.cluster cl).hod q0 [])
  let b := splitQueue mine (find (s.cluster cl).hod (q0 + 1) [])
  let s := s.modCluster cl fun k => { k with hod := put (put k.hod q0 a.2) (q0 + 1) b.2 }
  let u := 64 * ioOf (dieOf cl) + core % 64
  let g := find s.engines u {}
  let e := splitQueue mine g.queue
  let s := { s with engines := put s.engines u { g with queue := e.2 } }
  let outs := (rangeFrom 0 4).map fun k => (k, splitOutbox mine (s.ctx core k).outbox)
  let s := outs.foldl (fun s o => s.modCtx core o.1 fun c => { c with outbox := o.2.2 }) s
  (a.1 ++ b.1 ++ e.1 ++ (outs.map fun o => o.2.1).flatten, s)

/-- A command the hod has begun and that must stop (R132). -/
def State.stopCopies (s : State) (core : Nat) (stop : CopyCmd → Bool) : State :=
  let mark := fun (e : HodEntry) => match e with
    | .cmd c => if c.core == core && stop c then HodEntry.cmd { c with stopped := true } else e
    | .fence _ => e
  let s := s.modCluster (core / 8) fun k => { k with hod := k.hod.map fun q => (q.1, q.2.map mark) }
  { s with engines := s.engines.map fun g => (g.1, { g.2 with queue := g.2.queue.map mark }) }

/-- A stream on a view ends (R132): the view is no longer armed, and its command ends as cancelled: at once where it was
queued, at the hod's next act where it was begun. -/
def State.endStream (s : State) (core ctx view : Nat) : State :=
  if (s.ctx core ctx).streams.any fun t => t.1 = view then
    let mine := fun (c : CopyCmd) => decide (c.op = .strm) && c.ctx == ctx && c.view == view
    let r := s.takeCopies core mine
    let s := r.1.foldl (fun s c => s.endCopy c .cancelled) r.2
    let s := s.stopCopies core mine
    s.modCtx core ctx fun c => { c with streams := c.streams.filter fun t => t.1 ≠ view }
  else s

/-- Every stream of a context ends (R132: at HEND). -/
def State.endStreams (s : State) (core ctx : Nat) : State :=
  ((s.ctx core ctx).streams.map fun t => t.1).foldl (fun s v => s.endStream core ctx v) s

end Sys2Proof.Machine
end

