-- ==== Sys2Proof/Machine/Outbox.lean ====
section
/-!
DEFINITION. The outbox of an activation (13 R295-R297, R323, 06 R112, R113, 10 R213, 12 R285): what each entry does when
it leaves, the commit and the seal, the departure and the close of ends, and the exit of a process (13 R320, R324).
-/

namespace Sys2Proof.Machine

/-! ## Ends that leave their holder -/

/-- What an inbox hands to the home when its receive end moves (R313): messages in sequence order, settled sequences, those
passed over since the last dispatch (R310), and a close marker. The ends that its messages carry reserve nothing any more, and those that have landed stay (R315). -/
def Inbox.parcel (i : Inbox) : List Parked :=
  i.held.map (fun m => Parked.msg { m with lands := [], ends := if m.landed then [] else m.ends }) ++ i.settled.map Parked.settled
    ++ i.passed.map Parked.passed ++ (match i.fseq with
      | some f => [Parked.close f i.closer]
      | none => [])

/-- The core no longer holds the receive end of a channel. -/
def State.dropInbox (s : State) (core chid : Nat) : State :=
  s.modCore core fun c => { c with inboxes := c.inboxes.filter fun i => i.chid != chid }

/-- A receive end leaves its core: its inbox goes, and what the last activation from it released stays known to the core for an
activation from the end that starts there later (19 R383). -/
def State.leaveKnow (s : State) (core chid : Nat) (know : Know) : State :=
  (s.dropInbox core chid).modCore core fun c =>
    { c with endKnow := if know.isEmpty then c.endKnow else put c.endKnow chid (joinKnow (find c.endKnow chid []) know) }

/-- A carried end leaves register `k` at commit (R312, R313): the handle as the message carries it. -/
def State.carryEnd (s : State) (core slot k : Nat) : (BitVec 128 × Nat) × State :=
  let p := s.proc slot
  let r := p.endAt k
  let h := r.handle
  let chid := hChid h
  let moves := (hMoves h + 1) % 2 ^ 16
  let box := (s.core core).inbox chid
  let held := if hRecv h then (match box with
    | some i => i.parcel
    | none => []) else []
  let lands := if hRecv h then (match box with
    | some i => ((i.held.filter fun m => !m.landed).map Msg.lands).flatten
    | none => []) else []
  let s := s.clearEnds slot lands .empty
  let s := if hRecv h then s.leaveKnow core chid r.know else s
  let s := s.modEnd slot k fun _ => { state := .reserved }
  let s := if chDev chid = s.devidx then
      s.homeDepart chid (hRecv h) moves p.name k core r.enLanded (hSeq h) held
    else s.toHome core chid (hHome h) p.part
      (.depart chid (hRecv h) moves p.name k core r.enLanded (hSeq h) held)
  ((hSetMoves h moves, k), s)

/-- The ends a message carries leave their registers. -/
def State.carryEnds (s : State) (core slot : Nat) (ks : List Nat) : List (BitVec 128 × Nat) × State :=
  ks.foldl (fun r k =>
    let x := r.2.carryEnd core slot k
    (r.1 ++ [x.1], x.2)) ([], s)

/-- A close of the end in register `k` acts (R317, R318): the marker of a send end carries its SEQ; a receive end's core
discards what it holds. -/
def State.closeEnd (s : State) (core slot k : Nat) : State :=
  let p := s.proc slot
  let h := (p.endAt k).handle
  let chid := hChid h
  let s := s.modEnd slot k fun _ => {}
  if hRecv h then
    let ms := match (s.core core).inbox chid with
      | some i => i.held
      | none => []
    let s := s.dropInbox core chid
    let s := ms.foldl (fun s m => s.discard core slot m) s
    s.toHome core chid (hHome h) p.part (.recvClose chid ms.length p.name)
  else s.toHome core chid (hHome h) p.part (.closeMark chid (hSeq h) p.name)

/-! ## Entries that leave (R296) -/

/-- Commands in a hod queue: fences take none of its 32 places. -/
def cmdCount (q : List HodEntry) : Nat := (q.filter fun e => match e with
  | .cmd _ => true
  | .fence _ => false).length

/-- Jobs in a matrix queue. -/
def jobCount (q : List MatEntry) : Nat := (q.filter fun e => match e with
  | .job _ => true
  | .fence _ => false).length

/-- Entries in an array's start queue. -/
def startCount (q : List LinEntry) : Nat := (q.filter fun e => match e with
  | .start _ => true
  | .fence _ => false).length

/-- The hod queue of a command. -/
def State.hodQueue (s : State) (c : CopyCmd) : List HodEntry :=
  match c.sys with
  | some u => (find s.engines u {}).queue
  | none => find (s.cluster (c.core / 8)).hod c.queue []

/-- Appends to the queue of a command. -/
def State.pushHod (s : State) (c : CopyCmd) : State :=
  match c.sys with
  | some u =>
    let g := find s.engines u {}
    { s with engines := put s.engines u { g with queue := g.queue ++ [.cmd c] } }
  | none => s.modCluster (c.core / 8) fun k => { k with hod := put k.hod c.queue (find k.hod c.queue [] ++ [.cmd c]) }

/-- The array of a start entry (12 R285). -/
def LStart.array (l : LStart) : Nat := fieldOf l.w0 51 48

/-- Whether an entry can leave now: `none`, or how its instruction stands. Commands wait for room in their queue (R112,
R213, R285); a register store is a release at its scope (14 R350). -/
def canLeave (e : OutEntry) : M (Option Disp) := do
  let s ← gets id
  match e with
  | .copy c => pure (if 32 ≤ cmdCount (s.hodQueue c) then some (.hold .tagWait) else none)
  | .job j => pure (if 8 ≤ jobCount (find (s.cluster (j.core / 8)).mat (j.core % 8) []) then some (.hold .matrixFull) else none)
  | .lgraph l => pure (if 16 ≤ startCount (s.lintel l.array).queue then some (.hold .outboxFull) else none)
  | .gstv g => release g.scope
  | _ => pure none

/-- A fence enters the queues it joins (11 R255). -/
def State.pushFence (s : State) (core mask : Nat) : State :=
  if mask % 16 = 0 then s
  else
    let (n, s) := s.takeFresh
    let f : QFence := { id := n, core := core, issuer := core, mask := mask }
    let c := core % 8
    let addHod := fun (q : Nat) (k : Cluster) => { k with hod := put k.hod q (find k.hod q [] ++ [.fence f]) }
    let s := if mask.testBit 0 then s.modCluster (core / 8) (addHod (2 * c)) else s
    let s := if mask.testBit 1 then s.modCluster (core / 8) (addHod (2 * c + 1)) else s
    let s := if mask.testBit 2 then s.modCluster (core / 8) fun k => { k with mat := put k.mat c (find k.mat c [] ++ [.fence f]) } else s
    let s := if mask % 4 ≠ 0 then
        let u := 64 * ioOf (dieOf (core / 8)) + core % 64
        let g := find s.engines u {}
        if g.queue.isEmpty then s else { s with engines := put s.engines u { g with queue := g.queue ++ [.fence f] } }
      else s
    if mask.testBit 3 then (rangeFrom 0 12).foldl (fun s k => s.modLintel k fun a => { a with queue := a.queue ++ [.fence f] }) s
    else s

/-- The number of a register store for its pair (14 R351). -/
def Ctx.nextGstv (c : Ctx) (name : Nat) : Nat := find c.gstvSeq name 0

/-- Packets of a push to another device: four granules each (12 R265). -/
def Landing.packets (g : Landing) (id : Nat) : List Landing :=
  if g.data.length ≤ 4 then [g]
  else
    let ds := chunks 4 (g.data.length + 1) g.data
    (ds.zip (rangeFrom 0 ds.length)).map fun d => { g with data := d.1, off := g.off + 256 * d.2, seq := id, whole := g.data.length }

/-- Sends a register store or a push towards its target's device. -/
def State.sendLanding (s : State) (g : Landing) (ord : Bool) : State :=
  let c := s.ctx g.core g.ctx
  if devOf g.target = s.devidx then
    s.sendPkt (g.core / 8) ((s.proc (slotOf g.target)).core / 8) g.part (.store g)
  else
    let (n, s) := if g.data.length ≤ 4 then (0, s) else s.takeFresh
    (g.packets n).foldl (fun s g => s.injectPkt
      { dst := devOf g.target, core := g.core, ctx := g.ctx, part := g.part, prio := s.prioOf (s.proc (slotOf g.name)),
        stamp := if ord then some (c.sentTo (devOf g.target)) else none, interval := c.interval, body := .landing g }) s

/-- An entry of the context that acts leaves (R296, R307, R312, R317, R318, R321). -/
def State.leave (s : State) (e : OutEntry) : State :=
  let core := s.turn.core
  let slot := s.activity.slot
  let p := s.self
  let know := s.knows s.agent
  match e with
  | .send reg ws es =>
    let h := (p.endAt reg).handle
    let loc := (p.endAt reg).loc
    let s := s.modEnd slot reg fun r => { r with handle := hSetSeq r.handle ((hSeq r.handle + 1) % 2 ^ 32) }
    let (ends, s) := s.carryEnds core slot es
    let m : Msg := { kind := .data, chid := hChid h, home := hHome h, seq := hSeq h, name := p.name, core := core, reg := reg,
                     words := ws, ends := ends, part := p.part, know := know }
    (match loc with
      | some n => s.sendPkt (core / 8) (n / 8) p.part (.msg n m)
      | none => s.toHome core m.chid m.home p.part (.toHome m))
  | .close reg => s.closeEnd core slot reg
  | .spawn n tmpl handler args es =>
    let (ends, s) := s.carryEnds core slot es
    let m : Msg := { kind := .spawn, name := p.name, core := core, reg := 64, words := args, ends := ends, tmpl := tmpl,
                     handler := handler, part := p.part, know := know }
    s.sendPkt (core / 8) (n / 8) p.part (.msg n m)
  | .copy c => (s.enlist c.agent).pushHod c
  | .job j => (s.enlist j.agent).modCluster (j.core / 8) fun k => { k with mat := put k.mat (j.core % 8) (find k.mat (j.core % 8) [] ++ [.job j]) }
  | .qfence mask => s.pushFence core mask
  | .lgraph l => (s.enlist l.agent).modLintel l.array fun a => { a with queue := a.queue ++ [.start l] }
  | .gstv g =>
    let n := s.actor.nextGstv g.target
    let s := s.modActor fun c => { c with gstvSeq := put c.gstvSeq g.target (n + 1) }
    s.sendLanding { g with seq := n, know := know } (!g.stamp.isEmpty)

/-- The oldest entry leaves, or waits. -/
def leaveFirst : M (Option Disp) := do
  let c ← me
  match c.outbox with
  | [] => pure none
  | e :: es => do
    match ← canLeave e with
    | some d => pure (some d)
    | none => do
      modMe fun c => { c with outbox := es }
      mods fun s => s.leave e
      pure none

/-- The entries leave in program order until one waits. -/
def drainOutbox : Nat → M (Option Disp)
  | 0 => pure none
  | n + 1 => do
    let c ← me
    if c.outbox.isEmpty then pure none
    else match ← leaveFirst with
      | some d => pure (some d)
      | none => drainOutbox n

/-- The activation seals or commits (R296, R323): it can be rolled back no longer (15 R370), and its outbox leaves. -/
def sealNow : M (Option Disp) := do
  modMe fun c => { c with sealed := true }
  let c ← me
  drainOutbox c.outbox.length

/-- Makes room for an entry of the context that acts (R113, R295, R297): `none` when it can be placed or can leave. -/
def readyOut (e : OutEntry) : M (Option Disp) := do
  let c ← me
  if !c.sealed && decide (c.outbox.length < 16) && decide (outBytes c.outbox + e.size ≤ 1024) then pure none
  else match ← sealNow with
    | some d => pure (some d)
    | none => canLeave e

/-- Places an entry for which there is room, or lets it leave after a seal. -/
def putOut (e : OutEntry) : M Unit := do
  let c ← me
  if c.sealed then mods fun s => s.leave e
  else modMe fun c => { c with outbox := c.outbox ++ [e] }

/-- An instruction sends an entry: where it waits, the operands it popped stand in q3 again. -/
def sendEntry (e : OutEntry) (q3 : List Word) (after : M Unit) : M Disp := do
  match ← readyOut e with
  | some d => do
    match d with
    | .hold _ _ => modMe fun c => { c with q3 := q3 }
    | _ => pure ()
    pure d
  | none => do
    after
    putOut e
    pure .retire

/-- OUTBOX_ENTRY_LEAVE (R296, R297, 06 R112): one entry of a context that seals or commits leaves. -/
def execOutboxEntryLeave (σ : State) : Out :=
  if !σ.actor.sealed then .next σ
  else match leaveFirst σ with
    | .ok (_, t) => .next t
    | .error _ => .next σ

/-! ## Exit of a process (R320, R324) -/

/-- Contexts of a core that hold an activation of a process. -/
def State.runs (s : State) (slot : Nat) : List Nat :=
  (rangeFrom 0 4).filter fun k => match (s.ctx (s.proc slot).core k).act with
    | some a => a.slot == slot
    | none => false

/-- The process exits: its ends close, what waits for it is dropped, its name becomes EXITED, its barriers' waiters are
released (06 R427), stores queued for it meet the name anew (14 R347), and its slot waits for its drain markers (14 R346). -/
def State.exitProc (s : State) (slot : Nat) : State :=
  let p := s.proc slot
  let core := p.core
  let held := (rangeFrom 0 64).filter fun k => (p.endAt k).state = .held
  let s := held.foldl (fun s k => s.closeEnd core slot k) s
  let s := p.starts.foldl (fun s m => s.discard core slot m) s
  let s := s.releaseOwner slot
  let s := s.modProc slot fun p => { p with state := .exited, exiting := false, moving := false, events := [], starts := [],
                                            ends := [], queued := [] }
  let s := s.modCluster (core / 8) fun k => { k with arrived := k.arrived ++ p.queued.map fun g =>
    { src := core / 8, dst := [core / 8], part := g.part, body := .store g } }
  { s with draining := s.draining ++ [{ slot := slot }] }

/-- An exiting process exits when no activation of it runs. -/
def State.exitIfIdle (s : State) (slot : Nat) : State :=
  let p := s.proc slot
  if p.exiting && p.state != .exited && (s.runs slot).isEmpty then s.exitProc slot else s

end Sys2Proof.Machine
end

