-- ==== Sys2Proof/Machine/Tags.lean ====
section
/-!
DEFINITION. The tag instructions WAITANY, WAITALL, FFR and TAGCLR (06 R117, R118) and the barrier instructions BARINIT,
BARARR, BARWAIT and BARTEST (06 R139, R140, R427, 16 R378).
-/

namespace Sys2Proof.Machine

/-- An instruction that holds before it has acted leaves the operands it popped at the head of q3. -/
def holdBack (q3 : List Word) (d : Disp) : M Disp := do
  match d with
  | .hold _ _ => modMe fun c => { c with q3 := q3 }
  | _ => pure ()
  pure d

/-- A command of the outbox holds a tag of a mask. -/
def tagInOutbox (m : Word) (es : List OutEntry) : Bool := es.any fun e => match e with
  | .copy c => m.getLsbD c.tag
  | .job j => m.getLsbD j.tag
  | _ => false

/-- A command of the outbox names a barrier. -/
def barInOutbox (key : Nat) (es : List OutEntry) : Bool := es.any fun e => match e with
  | .copy c => (match c.bar with
    | some r => barKey r == key
    | none => false)
  | _ => false

/-- The activation seals first when `need` holds of its outbox (R113). -/
def sealIf (need : List OutEntry → Bool) : M (Option Disp) := do
  let c ← me
  if need c.outbox then sealNow else pure none

/-- Reads TAGS as an acquire at DEVICE scope (R117): what the completed commands had performed is learnt. -/
def seeTags : M Unit := mods fun s => s.learn s.agent (s.core s.turn.core).tagKnow

/-- What the tag instructions give: the ready tags of a mask, or the lowest of them; STATUS holds the error bits. -/
def giveTags (d : BitVec 5) (v m : Word) : M Disp := do
  let k ← myCore
  if k.tagDone &&& m ≠ 0#64 then seeTags else pure ()
  writeA d v
  setStatus (k.tagErr &&& m)
  pure .retire

/-- WAITANY and WAITALL: `over` tells when the wait ends. -/
def waitTags (d a : BitVec 5) (over' : Word → Word → Bool) : M Disp := do
  let c ← me
  let v ← readA a
  let p ← myProc
  let m := v &&& p.tagm
  match ← sealIf (tagInOutbox m) with
  | some x => holdBack c.q3 x
  | none => do
    let k ← myCore
    if over' k.tagDone m then giveTags d (k.tagDone &&& m) m else holdBack c.q3 (.hold .tagWait)

/-- WAITANY -/
def execWaitany (d a : BitVec 5) (σ : State) : Out :=
  aHalf (.waitany d a) (fun _ => waitTags d a fun t m => t &&& m ≠ 0#64 || m == 0#64) σ

/-- WAITALL -/
def execWaitall (d a : BitVec 5) (σ : State) : Out :=
  aHalf (.waitall d a) (fun _ => waitTags d a fun t m => t &&& m == m) σ

/-- The lowest bit set in a word, or 64. -/
def lowestBit (w : Word) : Nat := ((rangeFrom 0 64).find? fun k => w.getLsbD k).getD 64

/-- FFR -/
def execFfr (d a : BitVec 5) (σ : State) : Out :=
  aHalf (.ffr d a) (fun _ => do
    let v ← readA a
    let p ← myProc
    let k ← myCore
    let m := v &&& p.tagm
    giveTags d (wordOf (lowestBit (k.tagDone &&& m))) m) σ

/-- TAGCLR -/
def execTagclr (a : BitVec 5) (σ : State) : Out :=
  aHalf (.tagclr a) (fun _ => do
    let v ← readA a
    let p ← myProc
    modMyCore fun k => { k with tagErr := k.tagErr &&& ~~~(v &&& p.tagm) }
    pure .retire) σ

/-! ## Barrier instructions -/

/-- BARINIT -/
def execBarinit (f a : BitVec 5) (σ : State) : Out :=
  aHalf (.barinit f a) (fun _ => do
    let ref ← readA f
    let v ← readA a
    require (decide (1 ≤ v.toNat ∧ v.toNat < 2 ^ 20))
    barInit ref v.toNat
    pure .retire) σ

/-- BARARR -/
def execBararr (f a d : BitVec 5) (σ : State) : Out :=
  aHalf (.bararr f a d) (fun _ => do
    let ref ← readA f
    let adds ← readA a
    let r ← barArrive ref adds
    writeA d (wordOf r.2)
    setStatus (wordOf r.1)
    pure .retire) σ

/-- BARWAIT: the context waits for the controller's release with the reference and the generation it read. -/
def execBarwait (f a : BitVec 5) (σ : State) : Out :=
  aHalf (.barwait f a) (fun _ => do
    let c ← me
    if c.pend.isSome then waitFor .barrier
    else do
      let ref ← readA f
      let g ← readA a
      let popped := (if f = 30#5 then [ref] else []) ++ (if a = 30#5 then [g] else [])
      match ← sealIf (barInOutbox (barKey ref)) with
      | some x => holdBack c.q3 x
      | none => do
        let st ← barAwait ref (g.toNat % 16)
        if st = 0 then
          sendRequest { kind := .barwait, va := barKey ref, popped := popped, setsStatus := true } .barrier fun _ s => s
        else do
          setStatus (if st = 2 then 2#64 else 0#64)
          pure .retire) σ

/-- BARTEST -/
def execBartest (f a d : BitVec 5) (σ : State) : Out :=
  aHalf (.bartest f a d) (fun _ => do
    let c ← me
    let ref ← readA f
    let g ← readA a
    match ← sealIf (barInOutbox (barKey ref)) with
    | some x => holdBack c.q3 x
    | none => do
      let st ← barState ref (g.toNat % 16)
      writeA d (wordOf st)
      setStatus (wordOf st)
      pure .retire) σ

end Sys2Proof.Machine
end

