-- ==== Sys2Proof/Machine/View.lean ====
section
/-!
DEFINITION. Views and beats (05 R92-R97, 09 R189-R195): view records, operands of E instructions, the checks before the
first beat, what a beat waits for, reading and writing the elements of a beat, and the drivers that run beats. The view
instructions ZSET, ZINC, ZLD, ZST, VTAG and VTAGRD (05 R109).
-/

namespace Sys2Proof.Machine

/-! ## View records (05 R92, R94) -/

/-- SPACE: 0 RS, 1 ACC, 2 SPAD, 3 LANDING, 4 INBOX, 5 QUEUE, 6 STREAM. -/
def zSpace (v : BitVec 256) : Nat := fieldOf v 2 0
/-- TYPE -/
def zType (v : BitVec 256) : Nat := fieldOf v 7 4
/-- the rank, 1 to 4 -/
def zRank (v : BitVec 256) : Nat := fieldOf v 9 8 + 1
/-- REGION -/
def zRegion (v : BitVec 256) : Nat := fieldOf v 19 16
/-- RDONLY -/
def zRdonly (v : BitVec 256) : Bool := fieldOf v 23 23 = 1
/-- OFFSET -/
def zOffset (v : BitVec 256) : Nat := fieldOf v 63 32
/-- DIM i -/
def zDim (v : BitVec 256) (i : Nat) : Nat := fieldOf v (79 + 16 * i) (64 + 16 * i)
/-- STRIDE i, in bytes -/
def zStride (v : BitVec 256) (i : Nat) : Int := signedOf 32 (fieldOf v (159 + 32 * i) (128 + 32 * i))

/-- The extents within the rank. -/
def zDims (v : BitVec 256) : List Nat := (rangeFrom 0 (zRank v)).map (zDim v)
/-- The strides within the rank. -/
def zStrides (v : BitVec 256) : List Int := (rangeFrom 0 (zRank v)).map (zStride v)
/-- The number of elements. -/
def zCount (v : BitVec 256) : Nat := (zDims v).foldl (· * ·) 1

/-- The record is malformed (R94). -/
def zMalformed (v : BitVec 256) : Bool :=
  let r := zRank v
  let ty := zType v
  let sp := zSpace v
  let w : Int := if isSix ty then 16 else (typeBytes ty : Nat)
  sp == 7 || fieldOf v 31 24 != 0 || fieldOf v 21 20 != 0 || fieldOf v 15 10 != 0 || fieldOf v 3 3 != 0
    || (sp == 5 && (zOffset v != 0 || (zStrides v).any (· != 0)))
    || (sp != 2 && zRegion v != 0)
    || (zDims v).any (· == 0)
    || (rangeFrom 0 4).any (fun i => decide (r ≤ i) && (zDim v i != 1 || zStride v i != 0))
    || ((zOffset v : Nat) : Int).emod w != 0
    || (isSix ty && (zStride v 0 != 0 || zDim v 0 % 64 != 0))
    || ((zStrides v).any fun s => s.emod w != 0)

/-! ## Where elements lie (05 R93, R95) -/

/-- The bit, from the beginning of the view's space, at which element `k` of the walk starts. -/
def zBit (v : BitVec 256) (k : Nat) : Int :=
  let cs := unrank (zDims v) k
  let sum := (cs.zip (zStrides v)).foldl (fun (t : Int) p => t + (p.1 : Int) * p.2) 0
  let six : Int := if isSix (zType v) then 6 * ((cs.headD 0 : Nat) : Int) else 0
  8 * ((zOffset v : Nat) + sum) + six

/-- The lowest and the highest byte a view touches (R96). -/
def zReach (v : BitVec 256) : Int × Int :=
  let ends := ((zDims v).zip (zStrides v)).map fun p => ((p.1 : Int) - 1) * p.2
  let lo := ends.foldl (fun (t : Int) x => t + min 0 x) (zOffset v : Nat)
  let hi := ends.foldl (fun (t : Int) x => t + max 0 x) (zOffset v : Nat)
  let tail : Int := if isSix (zType v) then ((zDim v 0 / 64 * 48 : Nat) : Int) else (typeBytes (zType v) : Nat)
  (lo, hi + tail - 1)

/-- The pool offset at which a space begins, and its bound (R93). -/
def State.zSpaceAt (s : State) (v : BitVec 256) : Nat × Nat :=
  let n := s.turn.core
  let p := s.self
  let w := (s.core n).partw
  match zSpace v with
  | 0 => (s.turn.ctx * rsBytes w, rsBytes w)
  | 1 => p.tileRange w
  | 2 => find p.regions (zRegion v) (0, 0)
  | 3 => p.land
  | _ => (0, 64)

/-! ## Operands -/

/-- Where an operand's elements come from or go to: the pool from an offset on, the message's payload, the strips of a
stream, queue entries (z30 or a view of space QUEUE), one queue value (z31), an immediate for even and odd elements, or
the element's position. -/
inductive OKind where
  | pool (base : Nat) | inbox | stream | queue | scalar | imm (even odd : Nat) | iota
  deriving DecidableEq, Repr

/-- An operand of an E instruction. -/
structure Opnd where
  num : Nat
  kind : OKind
  ty : Nat
  view : BitVec 256 := 0#256
  count : Option Nat := none
  /-- the source's place among the sources -/
  pos : Nat := 0
  /-- only element 0 is read (VBCAST) -/
  first : Bool := false
  /-- element k reads element k / div (scales of VBDQ) -/
  div : Nat := 1
  deriving DecidableEq, Repr

/-- FAULTX of R189. -/
def typeX (num found expected : Nat) : Word := wordOf (0xFFFF + at_ (16 + found) 5 16 + at_ expected 4 24 + at_ num 5 32)

/-- A view register's operand after R94 and R96; a written one must not be read-only. -/
def viewOpnd (num : Nat) (write : Bool) : M Opnd := do
  let c ← me
  if num = 30 then pure { num := 30, kind := .queue, ty := 0 }
  else if num = 31 then pure { num := 31, kind := .scalar, ty := 0 }
  else do
    let v := if h : num < 32 then c.z[num] else 0#256
    guardFault (!zMalformed v) .illegal (wordOf num)
    guardFault (!(write && (zRdonly v || zSpace v == 4 || zSpace v == 6))) .protection 0#64
    let s ← gets id
    let sp := s.zSpaceAt v
    let r := zReach v
    let bounded := decide (zSpace v ≤ 4)
    guardFault (!bounded || decide (0 ≤ r.1 ∧ r.1 < (sp.2 : Nat))) .layout (wordOf (num + at_ (wrapTo 32 r.1) 32 32))
    guardFault (!bounded || decide (r.2 < (sp.2 : Nat))) .layout (wordOf (num + at_ (wrapTo 32 r.2) 32 32))
    let kind := match zSpace v with
      | 4 => OKind.inbox
      | 5 => .queue
      | 6 => .stream
      | _ => .pool sp.1
    pure { num := num, kind := kind, ty := zType v, view := v, count := some (zCount v) }

/-- Gives an operand the type an instruction expects of it (R189). -/
def Opnd.typed (o : Opnd) (ty : Nat) : M Opnd := do
  guardFault (o.count.isNone || o.ty == ty) .format (typeX o.num o.ty ty)
  pure { o with ty := ty }

/-- First byte in the pool or the payload and the bit in it at which element `k` starts. -/
def Opnd.place (o : Opnd) (k : Nat) : Nat × Nat :=
  let base := match o.kind with
    | .pool b => b
    | _ => 0
  let b := (8 * (base : Int) + zBit o.view (if o.first then 0 else k / o.div)).toNat
  (b / 8, b % 8)

/-- Bytes that an element starting at a bit covers. -/
def elemSpan (ty shift : Nat) : Nat := if isSix ty then (if shift ≤ 2 then 1 else 2) else typeBytes ty

/-- The operand lies in the pool. -/
def Opnd.inPool (o : Opnd) : Bool := match o.kind with
  | .pool _ => true
  | _ => false

/-- Entries or strips an operand has taken when its elements below `k` are done. -/
def Opnd.entries (o : Opnd) (k : Nat) : Nat :=
  let e := (k + o.div - 1) / o.div
  (e + laneCount o.ty - 1) / laneCount o.ty

/-- Sources numbered in field order (02 R34). -/
def numberFrom : Nat → List Opnd → List Opnd
  | _, [] => []
  | k, o :: os => { o with pos := k } :: numberFrom (k + 1) os

/-! ## Reading -/

/-- The code of element `k` of a source. -/
def State.elemCode (s : State) (o : Opnd) (k : Nat) : Nat :=
  let n := s.turn.core
  let e := s.actor.eprog
  let bytesAt := fun (get : Nat → Byte) =>
    let p := o.place k
    let x := natOfBytes ((rangeFrom p.1 (elemSpan o.ty p.2)).map get)
    if isSix o.ty then x / 2 ^ p.2 % 64 else x
  match o.kind with
  | .pool _ => bytesAt (s.poolByte n)
  | .inbox =>
    let bs := (s.activity.payload.map fun w => bytesOfNat 8 w.toNat).flatten
    bytesAt fun a => bs.getD a 0#8
  | .queue | .stream =>
    let j := if o.first then 0 else k / o.div
    let mine := (e.took.filter fun t => t.pos = o.pos).map Taken.e
    match mine[j / laneCount o.ty]? with
    | some q => if tagValid q.tag then laneOf (laneBits o.ty) q.data (j % laneCount o.ty) else 0
    | none => 0
  | .scalar =>
    let w := (find e.tookQ2 o.pos 0#64).toNat
    w % 2 ^ typeBits o.ty
  | .imm a b => if k % 2 = 0 then a else b
  | .iota => k

/-- The pool ranges of a source's elements. -/
def Opnd.spans (o : Opnd) (ks : List Nat) : List (Nat × Nat) :=
  if !o.inPool then []
  else (if o.first then ks.take 1 else ks).map fun k =>
    let p := o.place k
    (p.1, elemSpan o.ty p.2)

/-- Drops repeats that follow each other. -/
def dedup : List Nat → List Nat
  | [] => []
  | x :: xs => match dedup xs with
    | y :: ys => if x = y then y :: ys else x :: y :: ys
    | [] => [x]

/-- The granules of a source's elements. -/
def Opnd.granules (o : Opnd) (ks : List Nat) : List Nat :=
  dedup ((o.spans ks).map fun r => granulesOf r.1 r.2).flatten

/-- A granule of the landing region is held (14 R352). -/
def State.heldGranule (s : State) (g : Nat) : Bool :=
  let p := s.self
  decide (p.land.1 ≤ g * 64) && within p.land (g * 64) && p.holds.getLsbD ((g * 64 - p.land.1) / 64)

/-- A granule's bytes are in flight: held, or in a fill window that is not filled that far. -/
def State.inFlight (s : State) (o : Opnd) (g : Nat) : Bool :=
  (zSpace o.view == 3 && s.heldGranule g)
    || s.fillHold s.turn.core s.self (g * 64) 64 != .free

/-- Lane `k` of a walk with `n` lanes a beat is governed on. -/
def laneOn (gov : Word) (n k : Nat) : Bool := gov.getLsbD (k % n)

/-- The tag check of a source's granules (05 R91). -/
def State.tagFault (s : State) (o : Opnd) (gs : List Nat) : Option (FaultCode × Word) :=
  gs.findSome? fun g => (s.readTagFault s.turn.core (g * 64) 64 o.ty).map fun x => (FaultCode.format, x)

/-- A reserved L6 code in an active lane (07 R151). -/
def State.codeFault (s : State) (o : Opnd) (gov : Word) (n : Nat) (ks : List Nat) : Option (FaultCode × Word) :=
  if o.ty != 5 then none
  else (ks.find? fun k => laneOn gov n k && s.elemCode o k == reservedL6).map fun k =>
    (FaultCode.reservedCode, wordOf ((match o.kind with
      | .imm _ _ => 31
      | _ => o.num) + at_ (if o.first then 0 else k) 32 16))

/-! ## Checks before the first beat (09 R190, R191) -/

/-- A run of beats: what is written, the sources, the elements computed, the lanes of a beat. -/
structure Plan where
  dst : Option Opnd := none
  srcs : List Opnd := []
  n : Nat
  lanes : Nat
  deriving DecidableEq, Repr

/-- The count of an instruction's elements (R190, 02 R35): the destination's, else that of another view among its sources, also of
one read in element 0 only, else one beat. For a destination z31 it is element 0 alone, in one beat, which pops one entry of each
z30 source (log 74). Of an operand that is read or written in element 0 alone, the granules of element 0 are those touched (log 96). -/
def planOf (dst : Option Opnd) (srcs : List Opnd) (lanes : Nat) : M Plan := do
  let counts := (srcs.filter fun o => !o.first).filterMap fun o => o.count
  let n := match dst.bind Opnd.count with
    | some n => n
    | none => (counts ++ srcs.filterMap fun o => o.count).headD lanes
  require (counts.all (· == n))
  let one : Bool := match dst with
    | some o => decide (o.kind = .scalar)
    | none => false
  pure { dst := dst, srcs := numberFrom 0 srcs, n := if one then 1 else n, lanes := lanes }

/-- Strips of an armed stream that remain to be read. -/
def Ctx.stripsLeft (c : Ctx) (view : Nat) : Nat :=
  match c.streams.find? fun t => t.1 = view with
  | some (_, _, total, _, taken, _) => total - taken
  | none => 0

/-- The tag check of one beat's destination elements (05 R90): a granule of another valid type that the beat does not cover. -/
def State.dstBeat (s : State) (o : Opnd) (ks : List Nat) : Option (FaultCode × Word) :=
  if !o.inPool then none
  else
    let spans := o.spans ks
    (o.granules ks).findSome? fun g =>
      let covered := (rangeFrom (g * 64) 64).all fun a => spans.any fun r => decide (r.1 ≤ a) && decide (a < r.1 + r.2)
      let t := (s.core s.turn.core).tag g
      if s.tagged s.turn.core (g * 64) && !covered && tagValid t && t != tagOf o.ty then
        some (FaultCode.format, formatX g t o.ty)
      else none

/-- The tag check of a destination before the first beat. A granule that another context or an engine has retagged since is found
at the beat that writes it (05 R111). -/
def State.dstFault (s : State) (o : Opnd) (n lanes : Nat) : Option (FaultCode × Word) :=
  (rangeFrom 0 ((n + lanes - 1) / lanes)).findSome? fun b => s.dstBeat o (rangeFrom (b * lanes) (min lanes (n - b * lanes)))

/-- The governing predicate (R192): all ones without PRED; p0 is never written. -/
def Ctx.governor (c : Ctx) (h : Hints) : Word :=
  if hp : h.hmod.pred < 8 then (if h.hmod.pred = 0 then BitVec.allOnes 64 else c.p[h.hmod.pred]) else BitVec.allOnes 64

/-- Sources that are read together, their elements and the lanes of a beat. Sources that are read whole before the first write
(09 R206) make up several phases; each element read stands in `acc` as the number of its codes in base 2^64. -/
structure Phase where
  srcs : List Opnd
  n : Nat
  lanes : Nat
  deriving DecidableEq, Repr

/-- The one phase of a plan. -/
def Plan.phase (p : Plan) : Phase := { srcs := p.srcs, n := p.n, lanes := p.lanes }

/-- Elements of a phase, from one up to another. -/
structure Stretch where
  phase : Phase
  lo : Nat
  hi : Nat
  deriving DecidableEq, Repr

/-- All the elements of a phase. -/
def Phase.whole (p : Phase) : Stretch := { phase := p, lo := 0, hi := p.n }

/-- Raises the fault of a check. -/
def orRaise (f : Option (FaultCode × Word)) : M Unit := match f with
  | some (c, x) => failWith c x
  | none => pure ()

/-- Elements of a source whose bytes are not in flight. -/
def State.stillElems (s : State) (o : Opnd) (n : Nat) : List Nat :=
  (rangeFrom 0 n).filter fun k => (o.granules [k]).all fun g => !s.inFlight o g

/-- The entries or strips that sources take for their elements from `lo` up to `hi`, beat by beat: the source and the place of the
entry in its walk. -/
def takesOf (srcs : List Opnd) (lanes lo hi : Nat) : List (Opnd × Nat) :=
  ((rangeFrom 0 ((hi - lo + lanes - 1) / lanes)).map fun b =>
    let l := lo + b * lanes
    (srcs.map fun o => (rangeFrom (o.entries l) (o.entries (min hi (l + lanes)) - o.entries l)).map fun j => (o, j)).flatten).flatten

/-- What the sources that a test picks take for some stretches, in order. -/
def takesFor (ps : List Stretch) (pick : Opnd → Bool) : List (Phase × Opnd × Nat) :=
  (ps.map fun p => (takesOf (p.phase.srcs.filter pick) p.phase.lanes p.lo p.hi).map fun x => (p.phase, x)).flatten

/-- The first active element of a source's entry `j` that decodes to the reserved L6 code, of a walk of `n` elements (07 R151). -/
def Opnd.reservedIn (o : Opnd) (gov : Word) (lanes n j : Nat) (x : BitVec 512) : Option Nat :=
  if o.ty != 5 then none
  else if o.first then
    if j = 0 ∧ laneOf 6 x 0 = reservedL6 ∧ ((rangeFrom 0 n).any fun k => laneOn gov lanes k) then some 0 else none
  else (rangeFrom (64 * o.div * j) (64 * o.div)).find? fun k =>
    decide (k < n) && laneOn gov lanes k && laneOf 6 x (k / o.div % 64) == reservedL6

/-- The bytes of strip `k` of a stream whose ring begins at an offset of the register space (06 R131). -/
def State.stripData (s : State) (base k : Nat) : BitVec 512 :=
  BitVec.ofNat 512 (natOfBytes (s.poolBytes s.turn.core (s.turn.ctx * rsBytes (s.core s.turn.core).partw + base + 64 * (k % 8)) 64))

/-- The entries that stand in q0 for some stretches, each with what pops it. -/
def Ctx.standing (c : Ctx) (ps : List Stretch) : List ((Phase × Opnd × Nat) × QEntry) :=
  (takesFor ps fun o => decide (o.kind = .queue)).zip c.q0

/-- The strips that stand there for some stretches: what takes each, where its ring begins and its number. -/
def Ctx.standingStrips (c : Ctx) (ps : List Stretch) : List ((Phase × Opnd × Nat) × Nat × Nat) :=
  (c.streams.map fun t =>
    ((takesFor ps fun o => decide (o.kind = .stream) && decide (o.num = t.1)).zip
      (rangeFrom t.2.2.2.2.1 (t.2.2.2.1 - t.2.2.2.2.1))).map fun x => (x.1, t.2.1, x.2)).flatten

/-- The tag check of the entries that stand in q0: each carries the type of the source that will pop it (02 R35, R191). -/
def Ctx.entryTags (c : Ctx) (ps : List Stretch) : Option (FaultCode × Word) :=
  ((c.standing ps).find? fun x => tagValid x.2.tag && x.2.tag != tagOf x.1.2.1.ty).map fun x =>
    (FaultCode.format, queueTagX x.2.tag x.1.2.1.ty ||| wordOf (at_ x.1.2.1.num 5 32))

/-- A reserved L6 code among the entries and strips that stand there for some stretches (07 R151, R191). -/
def State.entryCodes (s : State) (ps : List Stretch) (gov : Word) : Option (FaultCode × Word) :=
  let fault := fun (o : Opnd) (k : Nat) => (FaultCode.reservedCode, wordOf (o.num + at_ k 32 16))
  if ps.all fun p => p.phase.srcs.all fun o => o.ty != 5 then none
  else
    ((s.actor.standing ps).findSome? fun x =>
      if x.2.awaits || !tagValid x.2.tag then none
      else (x.1.2.1.reservedIn gov x.1.1.lanes x.1.1.n x.1.2.2 x.2.data).map (fault x.1.2.1)).or
    ((s.actor.standingStrips ps).findSome? fun x =>
      (x.1.2.1.reservedIn gov x.1.1.lanes x.1.1.n x.1.2.2 (s.stripData x.2.1 x.2.2)).map (fault x.1.2.1))

/-- A reserved L6 code in the bytes of a source that are there. -/
def State.sourceCodes (s : State) (p : Phase) (gov : Word) (o : Opnd) : Option (FaultCode × Word) := match o.kind with
  | .pool _ => s.codeFault o gov p.lanes (s.stillElems o p.n)
  | .inbox | .imm _ _ => s.codeFault o gov p.lanes (rangeFrom 0 p.n)
  | _ => none

/-- Strips enough remain for all the sources of some phases that read the stream of a view (R191). -/
def Ctx.stripsFor (c : Ctx) (ps : List Phase) (o : Opnd) : Bool := match o.kind with
  | .stream =>
    decide ((takesFor (ps.map Phase.whole) fun x => decide (x.kind = .stream) && x.num == o.num).length ≤ c.stripsLeft o.num)
  | _ => true

/-- The checks of R191 on tags, then codes, then strips for the sources of some phases; it answers whether some bytes were in
flight. -/
def checkSources (ps : List Phase) (gov : Word) : M Bool := do
  let s ← gets id
  let each := (ps.map fun p => p.srcs.map fun o => (p, o)).flatten
  each.forM fun x =>
    orRaise (s.tagFault x.2 ((x.2.granules (rangeFrom 0 x.1.n)).filter fun g => !s.inFlight x.2 g))
  orRaise (s.actor.entryTags (ps.map Phase.whole))
  each.forM fun x => orRaise (s.sourceCodes x.1 gov x.2)
  orRaise (s.entryCodes (ps.map Phase.whole) gov)
  each.forM fun x => guardFault (s.actor.stripsFor ps x.2) .streamEnd 0#64
  pure (each.any fun x => (x.2.granules (rangeFrom 0 x.1.n)).any (s.inFlight x.2))

/-- The governing predicate is read and the checks are made before the first beat. -/
def beginBeats (p : Plan) (h : Hints) : M Unit := do
  let c ← me
  if c.eprog.beat ≠ 0 then pure ()
  else do
    let gov := c.governor h
    let late ← checkSources [p.phase] gov
    let s ← gets id
    match p.dst with
    | some o => orRaise (s.dstFault o p.n p.lanes)
    | none => pure ()
    modMe fun c => { c with eprog := { c.eprog with gov := gov, late := late } }

/-! ## What a beat waits for -/

/-- Whether a beat can run. -/
inductive Ready where
  | go | stall (why : Stall) (q : Option QWait) | fault (code : FaultCode) (x : Word)
  deriving DecidableEq, Repr

/-- The first of two answers that is not `go`. -/
def Ready.and (a : Ready) (b : Unit → Ready) : Ready := match a with
  | .go => b ()
  | x => x

/-- The first of a list of answers that is not `go`. -/
def Ready.all : List Ready → Ready
  | [] => .go
  | r :: rs => match r with
    | .go => Ready.all rs
    | x => x

/-- A fault, if there is one. -/
def Ready.ofFault : Option (FaultCode × Word) → Ready
  | some (c, x) => .fault c x
  | none => .go

/-- The pool bytes of a source in a beat: held granules, fill windows, and late checks. -/
def State.poolReady (s : State) (o : Opnd) (gov : Word) (lanes : Nat) (ks : List Nat) : Ready :=
  let gs := o.granules ks
  if zSpace o.view == 3 && gs.any s.heldGranule then .stall .viewHold none
  else
    let on := ks.filter fun k => laneOn gov lanes k
    let fills := (o.spans on).map fun r => s.fillHold s.turn.core s.self r.1 r.2
    match fills.find? (· != .free) with
    | some .stall => .stall .fillWindow none
    | some (.poison x) => .fault .dataPoison (wordOf x)
    | _ =>
      if s.actor.eprog.late then
        (Ready.ofFault (s.tagFault o gs)).and fun _ => Ready.ofFault (s.codeFault o gov lanes ks)
      else .go

/-- The next strips of a stream: written, failed, or still to come (06 R132). -/
def State.stripReady (s : State) (o : Opnd) (ahead : Nat) : Ready :=
  match s.actor.streams.find? fun t => t.1 = o.num with
  | some (_, _, _, written, taken, failed) =>
    if taken + ahead ≤ written then .go
    else if failed then .fault .dataPoison (wordOf o.num)
    else .stall .streamBuffer none
  | none => .fault .streamEnd 0#64

/-- The queue entries that the sources of a beat pop, in order: the source of each. -/
def popsOf (srcs : List Opnd) (lo hi : Nat) : List Opnd :=
  ((srcs.filter fun o => decide (o.kind = .queue)).map fun o => List.replicate (o.entries hi - o.entries lo) o).flatten

/-- q0 holds the entries of a beat, filled and of the right type. -/
def State.queueReady (s : State) (srcs : List Opnd) (lo hi : Nat) : Ready :=
  let c := s.actor
  let pops := popsOf srcs lo hi
  if c.q0.length < pops.length then .stall .q0Empty (some { queue := 0, need := pops.length })
  else if (c.q0.take pops.length).any QEntry.awaits then .stall .q0Empty (some { queue := 0, need := pops.length })
  else match (c.q0.zip pops).find? fun p => tagValid p.1.tag && p.1.tag != tagOf p.2.ty with
    | some (e, o) => .fault .format (queueTagX e.tag o.ty ||| wordOf (at_ o.num 5 32))
    | none => .go

/-- Number of z31 sources. -/
def scalars (srcs : List Opnd) : List Opnd := srcs.filter fun o => decide (o.kind = .scalar)

/-- Room for what a beat writes. -/
def State.roomReady (s : State) (dst : Option Opnd) (entries : Nat) : Ready :=
  let c := s.actor
  match dst with
  | some o =>
    if o.kind = .queue ∧ 16 < c.q1.length + entries then .stall .q1Full (some { queue := 1, push := true, need := entries })
    else if o.kind = .scalar ∧ 8 ≤ c.q3.length then .stall .q23 (some { queue := 3, push := true })
    else .go
  | none => .go

/-- The pool bytes or strips of one source of a beat are there. -/
def State.oneReady (s : State) (srcs : List Opnd) (gov : Word) (lanes lo hi : Nat) (o : Opnd) : Ready :=
  match o.kind with
  | .pool _ => s.poolReady o gov lanes (rangeFrom lo (hi - lo))
  | .stream =>
    let same := srcs.filter fun x => decide (x.kind = .stream) && x.num == o.num
    s.stripReady o ((same.map fun x => x.entries hi - x.entries lo).foldl (· + ·) 0)
  | _ => .go

/-- The q2 entries of z31 sources are there before the first beat, and an L6 code among them is not reserved. -/
def State.scalarReady (s : State) (srcs : List Opnd) (gov : Word) (lanes lo hi : Nat) : Ready :=
  let c := s.actor
  let z := scalars srcs
  if lo ≠ 0 then .go
  else if c.q2.length < z.length then .stall .q23 (some { queue := 2, need := z.length })
  else if z.any (fun o => o.ty == 5 && (c.q2.getD (z.idxOf o) 0#64).toNat % 64 == reservedL6) then
    match (rangeFrom 0 hi).find? fun k => laneOn gov lanes k with
    | some k => .fault .reservedCode (wordOf (31 + at_ k 32 16))
    | none => .go
  else .go

/-- The sources of a beat are ready. -/
def State.sourcesReady (s : State) (b : Stretch) (gov : Word) : Ready :=
  let p := b.phase
  (Ready.all (p.srcs.map fun o => s.oneReady p.srcs gov p.lanes b.lo b.hi o)).and fun _ =>
    (s.queueReady p.srcs b.lo b.hi).and fun _ =>
      (Ready.ofFault (s.entryCodes [b] gov)).and fun _ => s.scalarReady p.srcs gov p.lanes b.lo b.hi

/-- A later beat meets no granule of its destination that another master has retagged since the first (05 R90, R111). -/
def State.destReady (s : State) (o : Opnd) (b lo hi : Nat) : Ready :=
  if b = 0 then .go else Ready.ofFault (s.dstBeat o (rangeFrom lo (hi - lo)))

/-! ## Taking and reading sources -/

/-- Takes one strip of a stream for a source. -/
def takeStrip (o : Opnd) : M Unit := do
  let s ← gets id
  let c := s.actor
  match c.streams.find? fun t => t.1 = o.num with
  | some (v, base, total, written, taken, failed) => do
    let off := s.turn.ctx * rsBytes (s.core s.turn.core).partw + base + 64 * (taken % 8)
    let x := s.stripData base taken
    mods fun s => s.learn s.agent (s.poolKnown s.turn.core off 64)
    modMe fun c =>
      { c with
        streams := c.streams.map fun t => if t.1 = v then (v, base, total, written, taken + 1, failed) else t
        eprog := { c.eprog with took := c.eprog.took ++ [{ pos := o.pos, strip := true, e := { data := x, tag := tagOf o.ty } }] } }
  | none => pure ()

/-- Takes one entry of q0 for a source. -/
def takeQ0 (o : Opnd) : M Unit :=
  modMe fun c => match c.q0 with
    | [] => c
    | e :: q => { c with q0 := q, eprog := { c.eprog with took := c.eprog.took ++ [{ pos := o.pos, e := e }] } }

/-- Takes the q2 entries of z31 sources before the first beat. -/
def takeScalars (srcs : List Opnd) : M Unit :=
  modMe fun c =>
    let z := scalars srcs
    { c with q2 := c.q2.drop z.length, eprog := { c.eprog with tookQ2 := (z.map Opnd.pos).zip c.q2 } }

/-- What the sources of a beat take. -/
def takeBeat (srcs : List Opnd) (lo hi : Nat) : M Unit := do
  if lo = 0 then takeScalars srcs else pure ()
  (popsOf srcs lo hi).forM takeQ0
  (srcs.filter fun o => decide (o.kind = .stream)).forM fun o =>
    (List.replicate (o.entries hi - o.entries lo) o).forM takeStrip

/-- The codes of the elements of a beat, one list for each element: lanes that are off read nothing and stand as 0. -/
def readBeat (srcs : List Opnd) (gov : Word) (lanes lo hi : Nat) : M (List (List Nat)) := do
  let on := (rangeFrom lo (hi - lo)).filter fun k => laneOn gov lanes k
  srcs.forM fun o => (o.spans on).forM fun r => mods fun s => s.learn s.agent (s.poolKnown s.turn.core r.1 r.2)
  let s ← gets id
  pure ((rangeFrom lo (hi - lo)).map fun k => srcs.map fun o => if laneOn gov lanes k then s.elemCode o k else 0)

/-! ## Writing -/

/-- Writes bytes into granules of the acting core's pool: the granules take the type (05 R90), the rest of a NONE granule
becomes zero, the undo window takes the chunks (15 R371), watches end (11 R426). -/
def State.scatter (s : State) (gs : List Nat) (bs : List (Nat × Byte)) (ty : Nat) : State :=
  let n := s.turn.core
  let know := s.knows s.agent
  let s := bs.foldl (fun s b => s.logUndo b.1 1) s
  let tagged := gs.filter fun g => s.tagged n (g * 64)
  let s := s.modCore n fun c =>
    let fresh := tagged.filter fun g => !tagValid (c.tag g)
    let m := fresh.foldl (fun m g => writeBytes m (g * 64) (List.replicate 64 0#8)) c.pool
    { c with
      pool := bs.foldl (fun m b => writeByte m b.1 b.2) m
      tags := tagged.foldl (fun t g => put t g (tagOf ty)) c.tags
      poolKnow := (dedup (bs.map fun b => b.1 / 8)).foldl (fun k w => put k w know) c.poolKnow }
  (dedup (bs.map fun b => b.1 / 64)).foldl (fun s g => s.endPadWatches n (g * 64) 64) s

/-- The bytes of the elements of a beat: `none` keeps an element. Elements of 6 bits are merged into what stands there. -/
def State.elemBytes (s : State) (o : Opnd) (lo : Nat) (vals : List (Option Nat)) : List (Nat × Byte) :=
  let put6 := fun (acc : List (Nat × Byte)) (a : Nat) (b : Byte) => acc.filter (fun e => e.1 != a) ++ [(a, b)]
  (vals.zip (rangeFrom lo vals.length)).foldl (fun acc e =>
    match e.1 with
    | none => acc
    | some x =>
      let p := o.place e.2
      if isSix o.ty then
        let as := rangeFrom p.1 (elemSpan o.ty p.2)
        let cur := fun a => match acc.find? fun e => e.1 = a with
          | some e => e.2
          | none => s.poolByte s.turn.core a
        let old := natOfBytes (as.map cur)
        let new := old - old / 2 ^ p.2 % 64 * 2 ^ p.2 + x % 64 * 2 ^ p.2
        (as.zip (bytesOfNat as.length new)).foldl (fun acc e => put6 acc e.1 e.2) acc
      else acc ++ (rangeFrom p.1 (typeBytes o.ty)).zip (bytesOfNat (typeBytes o.ty) x)) []

/-- The entry of q3 an element of a type makes (02 R35). -/
def scalarWord (ty x : Nat) : Word :=
  if isSigned ty then wordOfInt (signedOf (typeBits ty) x) else wordOf (x % 2 ^ typeBits ty)

/-- Writes the elements of a destination from element `lo` on; a destination of queue entries takes whole entries, in which a lane
that keeps the destination's value has none to keep and stands as 0 (log 75). -/
def writeElems (o : Opnd) (lo : Nat) (vals : List (Option Nat)) : M Unit :=
  match o.kind with
  | .pool _ => mods fun s => s.scatter (o.granules (rangeFrom lo vals.length)) (s.elemBytes o lo vals) o.ty
  | .queue =>
    let parts := chunks (laneCount o.ty) (vals.length + 1) (vals.map fun v => v.getD 0)
    modMe fun c => { c with q1 := c.q1 ++ parts.map fun p => { data := packLanes (laneBits o.ty) p, tag := tagOf o.ty } }
  | .scalar => modMe fun c => { c with q3 := c.q3 ++ [scalarWord o.ty ((vals.headD none).getD 0)] }
  | _ => pure ()

/-! ## Drivers -/

/-- Adds flags to those of the instruction in hand. -/
def addFlags (f : BitVec 6) : M Unit := modMe fun c => { c with eprog := { c.eprog with flags := c.eprog.flags ||| f } }

/-- Runs beats from the one in hand: `ready` says whether beat b can run, `body` runs it. -/
def runBeats (beats : Nat) (ready : State → Nat → Ready) (body : Nat → M Unit) : Nat → M Disp
  | 0 => pure .retire
  | fuel + 1 => do
    let s ← gets id
    let b := s.actor.eprog.beat
    if beats ≤ b then pure .retire
    else match ready s b with
      | .stall why q => pure (.hold why q)
      | .fault code x => pure (.broken code x)
      | .go => do
        body b
        modMe fun c => { c with eprog := { c.eprog with beat := b + 1 } }
        runBeats beats ready body fuel

/-- The lanes of beat `b`. -/
def Plan.bounds (p : Plan) (b : Nat) : Nat × Nat := (b * p.lanes, min p.n (b * p.lanes + p.lanes))

/-- Beats of a plan. -/
def Plan.beats (p : Plan) : Nat := (p.n + p.lanes - 1) / p.lanes

/-- A beat of a plan can run. -/
def Plan.ready (p : Plan) (s : State) (b : Nat) : Ready :=
  let r := p.bounds b
  (s.sourcesReady { phase := p.phase, lo := r.1, hi := r.2 } s.actor.eprog.gov).and fun _ =>
    (s.roomReady p.dst 1).and fun _ => match p.dst with
      | some o => s.destReady o b r.1 r.2
      | none => .go

/-- The value of a lane: computed where it is on, kept or zero where it is off (R192). -/
def laneValue (gov : Word) (lanes : Nat) (pz : Bool) (k x : Nat) : Option Nat :=
  if laneOn gov lanes k then some x else if pz then some 0 else none

/-- A beat of an elementwise instruction computes its elements from those of its sources (R97, R190). -/
def eachBeat (p : Plan) (h : Hints) (f : Nat → List Nat → Nat × BitVec 6) (b : Nat) : M Unit := do
  let r := p.bounds b
  takeBeat p.srcs r.1 r.2
  let c ← me
  let gov := c.eprog.gov
  let codes ← readBeat p.srcs gov p.lanes r.1 r.2
  let out := (rangeFrom r.1 (r.2 - r.1)).zip codes
  let on := out.filter fun e => laneOn gov p.lanes e.1
  addFlags (on.foldl (fun g e => g ||| (f e.1 e.2).2) 0#6)
  match p.dst with
  | some o => writeElems o r.1 (out.map fun e => laneValue gov p.lanes h.hmod.pz e.1 (f e.1 e.2).1)
  | none => pure ()

/-- An elementwise instruction: its beats from the one in hand. -/
def runEach (p : Plan) (h : Hints) (f : Nat → List Nat → Nat × BitVec 6) : M Disp := do
  beginBeats p h
  runBeats p.beats p.ready (eachBeat p h f) (p.beats + 1)

/-- Beats of a phase. -/
def Phase.beats (p : Phase) : Nat := (p.n + p.lanes - 1) / p.lanes

/-- The elements of beat `j` of a phase. -/
def Phase.beat (p : Phase) (j : Nat) : Stretch := { phase := p, lo := j * p.lanes, hi := min p.n (j * p.lanes + p.lanes) }

/-- The phase a beat belongs to and its number there. -/
def phaseOf : List Phase → Nat → Option (Phase × Nat)
  | [], _ => none
  | p :: ps, b => if b < p.beats then some (p, b) else phaseOf ps (b - p.beats)

/-- What is written after the reads: destinations and their values, in order. -/
abbrev Writes := List (Opnd × List (Option Nat))

/-- The write a beat after the reads belongs to. -/
def writeOf : Writes → Nat → Option (Opnd × List (Option Nat) × Nat)
  | [], _ => none
  | (o, vs) :: ws, b =>
    let n := (vs.length + laneCount o.ty - 1) / laneCount o.ty
    if b < n then some (o, vs, b) else writeOf ws (b - n)

/-- Beats of the writes. -/
def writeBeats (ws : Writes) : Nat := ws.foldl (fun n w => n + (w.2.length + laneCount w.1.ty - 1) / laneCount w.1.ty) 0

/-- Codes of an element as one number. -/
def foldCodes (cs : List Nat) : Nat := cs.foldr (fun x n => x + n * 2 ^ 64) 0
/-- Code `j` of an element. -/
def codeAt (x j : Nat) : Nat := x / 2 ^ (64 * j) % 2 ^ 64

/-- Reads everything, then writes what the elements read and the governing predicate give. -/
def runWhole (ps : List Phase) (dsts : List (Opnd × Nat)) (h : Hints)
    (out : Word → List Nat → Writes × BitVec 6) : M Disp := do
  let c ← me
  if c.eprog.beat = 0 then do
    let gov := c.governor h
    let late ← checkSources ps gov
    let s ← gets id
    dsts.forM fun d => orRaise (s.dstFault d.1 d.2 (laneCount d.1.ty))
    modMe fun c => { c with eprog := { c.eprog with gov := gov, late := late } }
  else pure ()
  let reads := ps.foldl (fun n p => n + p.beats) 0
  let d ← runBeats reads (fun s b => match phaseOf ps b with
      | some (p, j) => s.sourcesReady (p.beat j) s.actor.eprog.gov
      | none => .go)
    (fun b => match phaseOf ps b with
      | some (p, j) => do
        let r := p.beat j
        takeBeat p.srcs r.lo r.hi
        let c ← me
        let codes ← readBeat p.srcs c.eprog.gov p.lanes r.lo r.hi
        modMe fun c => { c with eprog := { c.eprog with acc := c.eprog.acc ++ codes.map foldCodes } }
      | none => pure ()) (reads + 1)
  if d ≠ .retire then pure d
  else do
    let c ← me
    let r := out c.eprog.gov c.eprog.acc
    let total := reads + writeBeats r.1
    let d ← runBeats total (fun s b => match writeOf r.1 (b - reads) with
        | some (o, vs, j) =>
          (s.roomReady (some o) 1).and fun _ => s.destReady o b (j * laneCount o.ty) (min vs.length (j * laneCount o.ty + laneCount o.ty))
        | none => .go)
      (fun b => match writeOf r.1 (b - reads) with
        | some (o, vs, j) => writeElems o (j * laneCount o.ty) ((vs.drop (j * laneCount o.ty)).take (laneCount o.ty))
        | none => pure ()) (total + 1)
    if d = .retire then addFlags r.2 else pure ()
    pure d

/-! ## View instructions (05 R109) -/

/-- Pops one entry of q2. -/
def popQ2 : M Word := do
  let c ← me
  match c.q2 with
  | [] => waitQueue .q23 { queue := 2, need := 1 }
  | x :: q => do
    modMe fun c => { c with q2 := q }
    pure x

/-- Pushes one entry of q3. -/
def pushQ3 (v : Word) : M Unit := do
  let c ← me
  if 8 ≤ c.q3.length then waitQueue .q23 { queue := 3, push := true }
  else modMe fun c => { c with q3 := c.q3 ++ [v] }

/-- Writes view register `d`. -/
def setZ (d : BitVec 5) (v : BitVec 256) : M Unit := modMe fun c => { c with z := c.z.set d.toNat v d.isLt }

/-- The field of ZSET's selector as bits hi down to lo. -/
def zField (sel : Nat) : Nat × Nat :=
  if sel = 0 then (63, 32) else if sel ≤ 4 then (79 + 16 * (sel - 1), 64 + 16 * (sel - 1))
  else if sel ≤ 8 then (159 + 32 * (sel - 5), 128 + 32 * (sel - 5)) else (31, 0)

/-- A q2 value fits a field. -/
def zFits (sel : Nat) (v : Word) : Bool :=
  if sel = 0 then decide (v.toNat < 2 ^ 32)
  else if sel ≤ 4 then decide (v.toNat < 2 ^ 16)
  else if sel ≤ 8 then decide (-(2 ^ 31 : Int) ≤ v.toInt) && decide (v.toInt < 2 ^ 31)
  else decide (v.toNat < 2 ^ 32)

/-- ZSET (R109); writing the control word clears STRM and ends the stream on the view (06 R132). -/
def execZset (d a f : BitVec 5) (σ : State) : Out :=
  eHalf (.zset d a f) (fun _ => do
    let v ← popQ2
    require (zFits f.toNat v)
    let c ← me
    let r := zField f.toNat
    let x := if f = 9#5 then v.toNat - v.toNat / 2 ^ 22 % 2 * 2 ^ 22 else wrapTo 64 v.toInt
    if f = 9#5 then mods fun s => s.endStream s.turn.core s.turn.ctx d.toNat else pure ()
    setZ d (setField (c.z[a.toNat]'a.isLt) r.1 r.2 x)
    pure .retire) σ

/-- ZINC (R109) -/
def execZinc (d a f : BitVec 5) (σ : State) : Out :=
  eHalf (.zinc d a f) (fun _ => do
    let v ← popQ2
    let c ← me
    let z := c.z[a.toNat]'a.isLt
    let step := if f = 4#5 then v.toInt else v.toInt * zStride z f.toNat
    setZ d (setField z 63 32 (wrapTo 32 ((zOffset z : Nat) + step)))
    pure .retire) σ

/-- ZLD (R109) -/
def execZld (d f : BitVec 5) (σ : State) : Out :=
  eHalf (.zld d f) (fun _ => do
    let p ← myProc
    setZ d (find p.views f.toNat 0#256)
    pure .retire) σ

/-- ZST (R109) -/
def execZst (a f : BitVec 5) (σ : State) : Out :=
  eHalf (.zst a f) (fun _ => do
    let c ← me
    modMyProc fun p => { p with views := put p.views f.toNat (c.z[a.toNat]'a.isLt) }
    pure .retire) σ

/-- A view whose granules carry tags: RS, ACC or LANDING, else ILLEGAL (log 7). -/
def tagView (num : Nat) : M Opnd := do
  let o ← viewOpnd num false
  guardFault (zSpace o.view == 0 || zSpace o.view == 1 || zSpace o.view == 3) .illegal 0#64
  pure o

/-- VTAG (R109): data unchanged. -/
def execVtag (d : BitVec 5) (n : BitVec 1) (t : BitVec 4) (σ : State) : Out :=
  eHalf (.vtag d n t) (fun _ => do
    let o ← tagView d.toNat
    let gs := o.granules (rangeFrom 0 (zCount o.view))
    mods fun s => gs.foldl (fun s g =>
      if s.tagged s.turn.core (g * 64) then s.setTag s.turn.core g (if n = 1#1 then 0#5 else tagOf t.toNat) else s) s
    pure .retire) σ

/-- VTAGRD (R109) -/
def execVtagrd (a : BitVec 5) (σ : State) : Out :=
  eHalf (.vtagrd a) (fun _ => do
    let o ← tagView a.toNat
    let k ← myCore
    let gs := o.granules (rangeFrom 0 (zCount o.view))
    let t := k.tag (gs.headD 0)
    pushQ3 (wordOf (t.toNat + (if gs.all (fun g => k.tag g == t) then 32 else 0)))
    pure .retire) σ

end Sys2Proof.Machine
end

