-- ==== Sys2Proof/Machine/Copy.lean ====
section
/-!
DEFINITION. The issue of the COPY group (06 R114, R119-R136): CPY, CPYRED, GATH, SCAT, HALO, STRM, FILLW and CPYCAN. What
the hod does with a command stands in Machine/Hod.lean.
-/

namespace Sys2Proof.Machine

/-! ## The checks at issue, in the order of R114 -/

/-- A box of a command: its words and layout id (05 R105); a bound entry whose region does not exist raises LAYOUT (05
R100). -/
def copyBox (b : BitVec 5) : M Box := do
  let x ← readBox b
  let p ← myProc
  guardFault (!(x.lid < 16) || (find p.regions x.lid (0, 0)).2 != 0) .layout 0#64
  pure x

/-- The tag lies in TAGM. -/
def copyTag (tag : Nat) : M Unit := do
  let p ← myProc
  guardFault (p.tagm.getLsbD tag) .protection (wordOf tag)

/-- A box's own rules of R120: its count; whole blocks; no device registers. -/
def sizeRules (b : Box) : M Unit := do
  require (decide (b.count < 2 ^ 32))
  guardFault (laySpace b.entry != 6) .layout 0#64
  guardFault (!isBlock (layType b.entry) || (b.start.headD 0 % 64 == 0 && b.ext.headD 0 % 64 == 0)) .layout 0#64

/-- A box that can be no reduction region, which R126 gives to CPY and CPYRED alone: other commands that name one raise LAYOUT at
issue (log 93). -/
def plainBox (b : Box) : M Unit := do
  sizeRules b
  guardFault (!layRed b.entry) .layout 0#64

/-- ORD needs a REMOTE destination (08 R187). -/
def ordRule (i : Instr) (h : Hints) (remote : Bool) : M Unit :=
  guardFault (!h.hmod.ord || remote) .illegal ((encode i).setWidth 64)

/-- The barrier named through HMOD: a reference that names none faults (R137). -/
def namedBar (h : Hints) : M (Option Word) := do
  if h.hmod.bar = 0 then pure none
  else do
    let ref ← regAt (BitVec.ofNat 5 h.hmod.bar) 0
    let s ← gets id
    match s.barrier s.activity.part ref with
    | .bad code => failWith code 0#64
    | _ => pure (some ref)

/-- What a command takes from its context at issue: rounding and saturation (R121), the caching hint, the issuer. -/
def newCopy (op : CopyOp) (tag : Nat) (h : Hints) : M CopyCmd := do
  let s ← gets id
  let c ← me
  let a := s.activity
  pure { op := op, tag := tag, rnd := if h.hmod.rnd = 0 then c.rmode.toNat else h.hmod.rnd - 1, sat := h.hmod.sat,
         cache := h.hmod.cache, ord := h.hmod.ord, core := s.turn.core, ctx := s.turn.ctx, name := a.name, act := a.id, handler := a.handler,
         agent := engineAgent s.fresh s.agent, super := a.super }

/-- The end of the checks and the issue (R113-R116): coordinates, the barrier, the tag's count, then the outbox or the
queue. `also` is what the instruction does besides. -/
def issueCopy (c : CopyCmd) (h : Hints) (boxes : List Box) (q3 : List Word) (also : M Unit) : M Disp := do
  boxes.forM boxInRange
  let bar ← namedBar h
  let k ← myCore
  if 32 ≤ k.tagCount c.tag then waitFor .scoreboard
  else
    sendEntry (.copy { c with bar := bar }) q3 do
      also
      mods fun s => s.takeFresh.2
      modMyCore fun k => k.tagIssue c.tag

/-! ## CPY and CPYRED (R124-R126) -/

/-- CPY -/
def execCpy (d a : BitVec 5) (t : BitVec 6) (σ : State) : Out :=
  aHalf (.cpy d a t) (fun h => do
    let m ← me
    let x ← copyBox d
    let y ← copyBox a
    copyTag t.toNat
    ordRule (.cpy d a t) h (laySpace x.entry == 1)
    require (x.count == y.count)
    sizeRules x
    sizeRules y
    let c ← newCopy .cpy t.toNat h
    issueCopy { c with dst := x, src := y, count := x.count } h [x, y] m.q3 (pure ())) σ

/-- A destination that CPYRED combines into: a reduction region, or HBM of type FP32, BF16 or FP16. -/
def redDest (e : BitVec 512) : Bool := layRed e || (laySpace e == 0 && isF (layType e))

/-- CPYRED. A source that is a reduction region is none of the types it accepts (log 21). -/
def execCpyred (d a : BitVec 5) (t : BitVec 6) (σ : State) : Out :=
  aHalf (.cpyred d a t) (fun h => do
    let m ← me
    let x ← copyBox d
    let y ← copyBox a
    copyTag t.toNat
    ordRule (.cpyred d a t) h (laySpace x.entry == 1)
    require (x.count == y.count && redDest x.entry && isF (layType y.entry))
    sizeRules x
    plainBox y
    let c ← newCopy .cpyred t.toNat h
    issueCopy { c with dst := x, src := y, count := x.count } h [x, y] m.q3 (pure ())) σ

/-! ## GATH and SCAT (R127) -/

/-- Elements of a row of a data box: the product of its extents below the last dimension. -/
def rowCount (b : Box) : Nat := (b.ext.take (layRank b.entry - 1)).foldl (· * ·) 1

/-- The checks of GATH and SCAT: the data box, the other box and the index box. -/
def rowRules (data other idx : Box) : M Unit := do
  require (layRank idx.entry == 1 && (layType idx.entry == 12 || layType idx.entry == 13) && decide (2 ≤ layRank data.entry)
    && other.count == idx.count * rowCount data)
  plainBox data
  plainBox other
  plainBox idx

/-- GATH -/
def execGath (d a i : BitVec 5) (t : BitVec 6) (σ : State) : Out :=
  aHalf (.gath d a i t) (fun h => do
    let m ← me
    let x ← copyBox d
    let y ← copyBox a
    let j ← copyBox i
    copyTag t.toNat
    ordRule (.gath d a i t) h (laySpace x.entry == 1)
    rowRules y x j
    let c ← newCopy .gath t.toNat h
    issueCopy { c with dst := x, src := y, idx := j, count := x.count } h [x, y, j] m.q3 (pure ())) σ

/-- SCAT -/
def execScat (d a i : BitVec 5) (t : BitVec 6) (σ : State) : Out :=
  aHalf (.scat d a i t) (fun h => do
    let m ← me
    let x ← copyBox d
    let y ← copyBox a
    let j ← copyBox i
    copyTag t.toNat
    ordRule (.scat d a i t) h (laySpace x.entry == 1)
    rowRules x y j
    let c ← newCopy .scat t.toNat h
    issueCopy { c with dst := x, src := y, idx := j, count := y.count } h [x, y, j] m.q3 (pure ())) σ

/-! ## HALO (R129) -/

/-- HALO. The payload alone is packed, 64 bytes for a strip; a mask of 0 completes at once. -/
def execHalo (o b k : BitVec 5) (t : BitVec 6) (σ : State) : Out :=
  aHalf (.halo o b k t) (fun h => do
    let m ← me
    let off ← readA o
    let mask ← readA k
    let y ← copyBox b
    copyTag t.toNat
    require (decide (mask.toNat < 16))
    require (off.toNat % 64 == 0 && decide (off.toNat < 8192))
    plainBox y
    require (decide (y.strips * 64 ≤ 8192))
    let p ← myProc
    let names := (rangeFrom 0 4).map fun j => if mask.getLsbD j then ((p.nbr.toList).getD j 0#32).toNat else 0
    let c ← newCopy .halo t.toNat h
    let c := { c with src := y, off := off.toNat, names := names, count := y.count }
    if mask = 0#64 then do
      boxInRange y
      let bar ← namedBar h
      let core ← myCore
      if 32 ≤ core.tagCount c.tag then waitFor .scoreboard
      else do
        modMyCore fun k => k.tagIssue c.tag
        mods fun s => s.endCopy { c with bar := bar } .done
        pure .retire
    else issueCopy c h [y] m.q3 (pure ())) σ

/-! ## STRM and FILLW (R131, R133) -/

/-- The view that STRM arms: space STREAM, the STRM bit, the layout's type, rank 1 and the box's count (log 22). DIM0 has 16
bits: a greater count is taken modulo 2^16, of which R131 does not speak (log 73). -/
def streamView (v : BitVec 256) (ty n : Nat) : BitVec 256 :=
  setField (setField (setField (setField (setField v 2 0 6) 22 22 1) 7 4 ty) 9 8 0) 79 64 n

/-- STRM -/
def execStrm (v b : BitVec 5) (t : BitVec 6) (σ : State) : Out :=
  aHalf (.strm v b t) (fun h => do
    let m ← me
    let y ← copyBox b
    copyTag t.toNat
    ordRule (.strm v b t) h false
    plainBox y
    let z := m.z[v.toNat]'v.isLt
    let k ← myCore
    require (zSpace z == 0 && zOffset z % 64 == 0 && decide (zOffset z + 512 ≤ rsBytes k.partw))
    let c ← newCopy .strm t.toNat h
    let base := zOffset z
    issueCopy { c with src := y, view := v.toNat, base := base, count := y.count } h [y] m.q3 do
      mods fun s => s.endStream s.turn.core s.turn.ctx v.toNat
      setZ v (streamView z (layType y.entry) y.count)
      modMe fun c => { c with streams := c.streams ++ [(v.toNat, base, y.strips, 0, 0, false)] }) σ

/-- The view that FILLW fills: space RS, SPAD or LANDING, rank 1, consecutive elements (log 22), OFFSET a multiple of 64. -/
def fillable (z : BitVec 256) : Bool :=
  (zSpace z == 0 || zSpace z == 2 || zSpace z == 3) && zRank z == 1 && zOffset z % 64 == 0
    && zStride z 0 == (if isSix (zType z) then 0 else ((typeBytes (zType z) : Nat) : Int))

/-- Bytes of the range of a view that FILLW fills. -/
def fillBytes (z : BitVec 256) : Nat :=
  if isSix (zType z) then zDim z 0 / 64 * 48 else zDim z 0 * typeBytes (zType z)

/-- FWINw as FILLW loads it. -/
def fillWord (z : BitVec 256) (ctx : Nat) : Word :=
  wordOf (2 ^ 63 + at_ (zRegion z) 4 58 + at_ (zSpace z) 3 55 + at_ ctx 2 53 + at_ (zOffset z) 16 32
    + at_ (zOffset z + fillBytes z) 16 16 + at_ (zOffset z) 16 0)

/-- FILLW -/
def execFillw (v b w : BitVec 5) (t : BitVec 6) (σ : State) : Out :=
  aHalf (.fillw v b w t) (fun h => do
    let m ← me
    let y ← copyBox b
    copyTag t.toNat
    ordRule (.fillw v b w t) h false
    let z := m.z[v.toNat]'v.isLt
    require (fillable z)
    let o ← viewOpnd v.toNat true
    require (y.count == zDim z 0)
    plainBox y
    boxInRange y
    let s ← gets id
    let k ← myCore
    let base := match o.kind with
      | .pool x => x + zOffset z
      | _ => zOffset z
    if hw : w.toNat < 8 then
      if fwActive k.fwin[w.toNat] then waitFor .scoreboard
      else do
        let c ← newCopy .fillw t.toNat h
        issueCopy { c with src := y, ty := zType z, win := w.toNat, base := base, count := y.count } h [y] m.q3 do
          modMyCore fun k =>
            { k with
              fwin := k.fwin.set w.toNat (fillWord z s.turn.ctx) hw
              fwOwner := put k.fwOwner w.toNat s.activity.name }
    else illegal) σ

/-! ## CPYCAN (R135) -/

/-- CPYCAN -/
def execCpycan (t : BitVec 6) (σ : State) : Out :=
  aHalf (.cpycan t) (fun _ => do
    copyTag t.toNat
    let s ← gets id
    let r := s.takeCopies s.turn.core fun c => c.tag == t.toNat
    mods fun _ => r.1.foldl (fun s c => s.endCopy c .cancelled) r.2
    setStatus (wordOf r.1.length)
    pure .retire) σ

end Sys2Proof.Machine
end

