-- ==== Sys2Proof/Machine/Hod.lean ====
section
/-!
DEFINITION. The hod and the system copy engines (06 R115, R120-R141): which queue is served, what one transfer of each
command does, reduction regions (R125, R126, R428), failure and completion, and QFENCE in the engine queues (11 R255).
One step moves the elements of one destination line, or of a few whole blocks (log 21).
-/

namespace Sys2Proof.Machine

/-! ## QFENCE (11 R255) -/

/-- The entry is the fence of a number for the commands of a core. -/
def HodEntry.isFence (id core : Nat) : HodEntry → Bool
  | .fence g => g.id == id && g.core == core
  | .cmd _ => false

/-- A command stands before the fence of its core in a queue. -/
def hodBefore (id : Nat) : List HodEntry → Bool
  | [] => false
  | .cmd c :: es => es.any (HodEntry.isFence id c.core) || hodBefore id es
  | .fence _ :: es => hodBefore id es

/-- The entry is the fence of a number. -/
def MatEntry.isFence (id : Nat) : MatEntry → Bool
  | .fence g => g.id == id
  | .job _ => false

/-- A job stands before the fence in a matrix queue, which is of one core. -/
def matBefore (id : Nat) : List MatEntry → Bool
  | [] => false
  | .job _ :: es => es.any (MatEntry.isFence id) || matBefore id es
  | .fence _ :: es => matBefore id es

/-- A start entry of the fence's core stands before the fence. -/
def linBefore (f : QFence) : List LinEntry → Bool
  | [] => false
  | .start l :: es => (l.core == f.core && es.contains (.fence f)) || linBefore f es
  | .fence _ :: es => linBefore f es

/-- The system copy engine of a core's supervisor commands. -/
def engineOf (core : Nat) : Nat := 64 * ioOf (dieOf (core / 8)) + core % 64

/-- The fence is saved in an image, and what stands before it there has not ended. -/
def State.fenceSaved (s : State) (id : Nat) : Bool := s.images.any fun e =>
  ((e.2.hod0 ++ e.2.hod1).any fun x => match x with
    | .fence g => g.id == id
    | .cmd _ => false) || e.2.mat.any (MatEntry.isFence id)

/-- Everything that left before the fence for the queues it joined has ended, wherever those queues stand now: the commands of a
process that was saved or moved have taken the fence along. -/
def State.fenceMet (s : State) (f : QFence) : Bool :=
  !(s.clusters.any fun k => (k.2.hod.any fun q => hodBefore f.id q.2) || k.2.mat.any fun q => matBefore f.id q.2)
    && !(s.engines.any fun g => hodBefore f.id g.2.queue) && !s.fenceSaved f.id
    && !(s.arrays.any fun a => a.2.queue.any fun e => match e with
      | .fence g => g.id == f.id && linBefore g a.2.queue
      | .start _ => false)
    && (!f.mask.testBit 3 || (rangeFrom 0 12).all fun a => !(s.lintel a).graphs.any fun g => g.start.core == f.issuer)

/-- The fence leaves every queue it joined. -/
def State.dropFence (s : State) (f : QFence) : State :=
  let hod := fun (q : List HodEntry) => q.filter fun e => match e with
    | .fence g => g.id != f.id
    | .cmd _ => true
  let lin := fun (q : List LinEntry) => q.filter fun e => match e with
    | .fence g => g.id != f.id
    | .start _ => true
  { s with
    clusters := s.clusters.map fun (k : Nat × Cluster) => (k.1, { k.2 with
      hod := k.2.hod.map fun q => (q.1, hod q.2), mat := k.2.mat.map fun q => (q.1, q.2.filter fun e => !e.isFence f.id) })
    engines := s.engines.map fun (g : Nat × SysEngine) => (g.1, { g.2 with queue := hod g.2.queue })
    arrays := s.arrays.map fun (a : Nat × Array12) => (a.1, { a.2 with queue := lin a.2.queue }) }

/-- The fences in hod queues. -/
def hodFences (q : List HodEntry) : List QFence := q.filterMap fun e => match e with
  | .fence f => some f
  | .cmd _ => none

/-- The fences in matrix queues. -/
def matFences (q : List MatEntry) : List QFence := q.filterMap fun e => match e with
  | .fence f => some f
  | .job _ => none

/-- The fences in start queues. -/
def linFences (q : List LinEntry) : List QFence := q.filterMap fun e => match e with
  | .fence f => some f
  | .start _ => none

/-- Fences that are met leave. -/
def State.passFences (s : State) (fs : List QFence) : State :=
  fs.foldl (fun s f => if s.fenceMet f then s.dropFence f else s) s

/-- The command at the head of a queue; a fence holds back the later commands of its core. -/
def headCmd (blocked : List Nat) : List HodEntry → Option CopyCmd
  | [] => none
  | .cmd c :: es => if blocked.contains c.core then headCmd blocked es else some c
  | .fence f :: es => headCmd (f.core :: blocked) es

/-- Puts a command in the place of an earlier state of it, or takes it out. -/
def replaceCmd (old : CopyCmd) (new : Option CopyCmd) : List HodEntry → List HodEntry
  | [] => []
  | e :: es =>
    if e = .cmd old then (match new with
      | some c => .cmd c :: es
      | none => es)
    else e :: replaceCmd old new es

/-! ## Weighted round robin (10 R215, 06 R115) -/

/-- Visits the queues from `q` on: one without work loses its deficit, one with work gains its weight and is granted at 64. -/
def visitQueues (n : Nat) (weight : Nat → Option Nat) (q : Nat) (defs : Map Nat) : Nat → Option Nat × Map Nat
  | 0 => (none, defs)
  | fuel + 1 =>
    match weight q with
    | none => visitQueues n weight ((q + 1) % n) (put defs q 0) fuel
    | some w =>
      let d := find defs q 0 + w
      if 64 ≤ d then (some q, put defs q (d - 64)) else visitQueues n weight ((q + 1) % n) (put defs q d) fuel

/-- The queue granted next, of `n`, and the deficits after it; `weight` is none where nothing is ready. The queue last served is
granted again while its deficit lasts; where no queue is ready, every deficit is lost. -/
def grantQueue (n : Nat) (weight : Nat → Option Nat) (last : Nat) (defs : Map Nat) : Option Nat × Map Nat :=
  if (weight last).isSome ∧ 64 ≤ find defs last 0 then (some last, put defs last (find defs last 0 - 64))
  else if (rangeFrom 0 n).all fun q => (weight q).isNone then (none, (rangeFrom 0 n).foldl (fun m q => put m q 0) defs)
  else visitQueues n weight ((last + 1) % n) defs (n * 65)

/-- The weight of the process that issued a command. -/
def State.weightOf (s : State) (name : Nat) : Nat := (s.proc (slotOf name)).weight.toNat / 256

/-! ## Elements -/

/-- Tries a body; a stop leaves everything unchanged. -/
def catchM {α : Type} (m : M α) : M (Option α) := fun s => match m s with
  | .ok (a, t) => .ok (some a, t)
  | .error _ => .ok (none, s)

/-- The detail of a failed command as R57 lays it out: where no translation failed the cause is 0 and the level 15
(log 21). -/
def engineX (code : FaultCode) (x : Word) (kind : Nat) (va : Int) : Word :=
  if code = .notPresent ∨ code = .tablePoison ∨ code = .violation ∧ x ≠ 0#64 then x
  else if code = .protection ∧ x ≠ 0#64 then wordOf (at_ (fieldOf x 63 60) 4 60 + at_ (fieldOf x 59 56) 4 56 + at_ kind 4 52 + fieldOf x 51 0)
  else wordOf (at_ 15 4 56 + at_ kind 4 52 + at_ (wrapTo 52 va) 52 0)

/-- Runs an access of an engine to an element, so that a fault carries R57's detail. -/
def asEngine {α : Type} (kind : Nat) (va : Int) (m : M α) : M α := fun s => match m s with
  | .error (.fault code x extra) => .error (.fault code (engineX code x kind va) extra)
  | r => r

/-- The client of a command. -/
def State.hodClient (s : State) (c : CopyCmd) : Client :=
  { slot := slotOf c.name, part := s.partOf c.name, core := c.core, ctx := c.ctx, super := c.super, engine := true, agent := c.agent,
    cache := c.cache }

/-- Elements of a row of GATH and SCAT. -/
def CopyCmd.row (c : CopyCmd) : Nat := rowCount (if c.op = .gath then c.src else c.dst)

/-- The coordinates of element `i` of the row that an index selects (R127). A negative index is out of range wherever the box
begins (R128). -/
def rowCoords (b : Box) (i : Nat) (idx : Int) : List Int :=
  let r := layRank b.entry - 1
  ((b.start.take r).zip (unrank (b.ext.take r) i)).map (fun p => ((p.1 + p.2 : Nat) : Int))
    ++ [if idx < 0 then idx else ((b.start.getD r 0 : Nat) : Int) + idx]

/-- Where source element `k` lies. -/
def CopyCmd.srcOff (c : CopyCmd) (k : Nat) : M ElemOff :=
  let cs := if c.op = .gath then rowCoords c.src (k % c.row) (c.index.getD 0) else c.src.coords k
  asEngine 4 0 (elemOffset c.src.entry cs)

/-- Where destination element `k` lies. -/
def CopyCmd.dstOff (c : CopyCmd) (k : Nat) : M ElemOff :=
  let cs := if c.op = .scat then rowCoords c.dst (k % c.row) (c.index.getD 0) else c.dst.coords k
  asEngine 5 0 (elemOffset c.dst.entry cs)

/-- An uncorrectable error in source data fails the command (R122): one in the lines of memory, or one that the act brings with
it, in the pool or on the way. -/
def checkData (ls : List Loc) : M Unit := do
  let s ← gets id
  guardFault (s.turn.upset != .badData && ls.all fun l => match l with
    | .phys a => !(s.badLines.contains (a / 128 * 128) || s.poisoned.contains (a / 128 * 128))
    | _ => true) .dataPoison 0#64

/-- Reads a source element that is not remote. -/
def readItem (cl : Client) (b : Box) (o : ElemOff) : M Item :=
  asEngine 4 (o.addr b.entry) do
    let ls ← elemReadPlaces cl b.lid b.entry false o
    let ss ← if isBlock (layType b.entry) then scalePlaces cl b.lid b.entry o else pure []
    checkData (ls ++ ss)
    let bs ← loadLocs cl (layType b.entry) ls
    let sc ← if isBlock (layType b.entry) then readScale cl b.lid b.entry o else pure 127
    let s ← gets id
    pure { code := codeOf b.entry o bs, scale := sc, ovf := layRed b.entry && ls.any fun l => match l with
      | .phys a => s.ovf.contains (a / 128 * 128)
      | _ => false }

/-! ## Conversion (R121, R126) -/

/-- The exact value of a source element (R126 for an accumulator), for its conversion. -/
def itemVal (e : BitVec 512) (i : Item) : Val :=
  if layRed e then
    let x := signedOf 128 i.code
    if x = -(2 ^ 127) then .nan false else .fin (x < 0) x.natAbs (layWexp e - 64)
  else if isBlock (layType e) then decodeScaled (layType e) i.code i.scale
  else decodeVal (layType e) i.code

/-- A reserved L6 code outside a NaN block (07 R151). -/
def itemReserved (e : BitVec 512) (i : Item) : Bool :=
  isSix (layType e) && i.code % 64 == reservedL6 && !(isBlock (layType e) && i.scale == 255)

/-- A source element as the code of a type that is no block type, with the flags; a NaN block raises none (07 R153). -/
def convItem (rnd : Nat) (sat : Bool) (e : BitVec 512) (ty : Nat) (i : Item) : M (Nat × BitVec 6) := do
  if !layRed e ∧ layType e = ty then pure (i.code, 0#6)
  else do
    guardFault (!itemReserved e i) .reservedCode 0#64
    if layRed e then
      let r := if isIntType ty then encodeInt ty 0 (itemVal e i) else encodeFloat ty 0 sat (itemVal e i)
      pure (r.1, r.2 ||| flagIf i.ovf fOverflow)
    else if isBlock (layType e) then
      let r := if isIntType ty then encodeInt ty rnd (itemVal e i) else encodeFloat ty rnd sat (itemVal e i)
      pure (r.1, if i.scale = 255 then 0#6 else r.2)
    else pure (convert (layType e) ty rnd sat i.code)

/-- The 64 elements of a destination block from 64 source elements: codes, scale byte, flags (07 R153, R154). -/
def convBlock (rnd : Nat) (e : BitVec 512) (ty : Nat) (is : List Item) : M (List Nat × Nat × BitVec 6) := do
  if !layRed e ∧ layType e = ty then pure (is.map Item.code, (is.headD {}).scale, 0#6)
  else do
    guardFault (!is.any (itemReserved e)) .reservedCode 0#64
    let r := encodeBlock ty (if layRed e then 0 else rnd) (isBlock (layType e) && is.any fun i => i.scale == 255) (is.map (itemVal e))
    pure (r.1, r.2.1, r.2.2 ||| flagIf (is.any Item.ovf) fOverflow)

/-- Converts whole blocks. -/
def convBlocks (rnd : Nat) (e : BitVec 512) (ty : Nat) : List (List Item) → M (List Nat × List Nat × BitVec 6)
  | [] => pure ([], [], 0#6)
  | is :: rest => do
    let x ← convBlock rnd e ty is
    let y ← convBlocks rnd e ty rest
    pure (x.1 ++ y.1, x.2.1 :: y.2.1, x.2.2 ||| y.2.2)

/-- Cuts elements at the blocks of their destination: element `first` of its box comes first. -/
def blockChunks {α : Type} (first : Nat) (l : List α) : List (List α) :=
  let lead := (64 - first % 64) % 64
  (if lead = 0 then [] else [l.take lead]) ++ chunks 64 (l.length + 1) (l.drop lead)

/-- Source elements as codes of a type, the scale bytes of its blocks, and the flags; `first` is the destination's first
element. -/
def convItems (c : CopyCmd) (e : BitVec 512) (ty first : Nat) (is : List Item) : M (List Nat × List Nat × BitVec 6) := do
  if isBlock ty then convBlocks c.rnd e ty (blockChunks first is)
  else do
    let xs ← is.mapM (convItem c.rnd c.sat e ty)
    pure (xs.map Prod.fst, [], xs.foldl (fun f x => f ||| x.2) 0#6)

/-! ## Reduction regions (R125, R126) -/

/-- The greatest accumulator. -/
def accMax : Int := 2 ^ 127 - 1

/-- What an FP32 code is as an accumulator with weight exponent `w`, and whether it saturated. -/
def accOf (w : Int) (x : Nat) : Int × Bool :=
  match decodeVal 0 x with
  | .nan _ => (-(2 ^ 127), false)
  | .inf neg => (if neg then -accMax else accMax, true)
  | .fin neg n e =>
    if !ltDyadic n e 1 (w + 63) then (if neg then -accMax else accMax, true)
    else
      let g := (roundGrid 0 neg n e (w - 64)).1
      (if neg then -(g : Int) else g, false)

/-- An FP32 code on the grid of weight exponent `w`, unbounded (12 R281); an infinity lies beyond every number. -/
def gridOf (w : Int) (x : Nat) : Int := match decodeVal 0 x with
  | .nan _ => 0
  | .inf neg => if neg then -(2 ^ 400) else 2 ^ 400
  | .fin neg n e =>
    let g := (roundGrid 0 neg n e (w - 64)).1
    if neg then -(g : Int) else g

/-- One addition (R125): the accumulator and whether OVF is set. -/
def accAdd (w acc : Int) (x : Nat) : Int × Bool :=
  if acc = -(2 ^ 127) then (acc, false)
  else
    let g := accOf w x
    if g.1 = -(2 ^ 127) ∨ g.2 then g
    else
      let z := acc + g.1
      (clampInt z (-accMax) accMax, decide (z < -accMax) || decide (accMax < z))

/-- Sets or clears OVF of a line. -/
def State.setOvf (s : State) (line : Nat) (v : Bool) : State :=
  { s with ovf := if v then (if s.ovf.contains line then s.ovf else s.ovf ++ [line]) else s.ovf.filter (· != line) }

/-- A near-cache adder adds an FP32 code into the accumulator at a physical address (R125). -/
def State.mergeAt (s : State) (w : Writer) (a : Nat) (wexp : Int) (x : Nat) : State :=
  let acc := signedOf 128 (natOfBytes (readBytes s.mem a 16))
  let r := accAdd wexp acc x
  let s := s.write { w with kind := .atomic } a (bytesOfNat 16 (wrapTo 128 r.1))
  if r.2 then s.setOvf (a / 128 * 128) true else s

/-- REDUCTION_MERGE (R125): the element in word 0 arrives at the home slice of the accumulator at physical address
`turn.sub`; `turn.val` is WEXP as a byte; the context of `turn` sent it. -/
def execReductionMerge (σ : State) : Out :=
  let a := σ.turn.sub
  if !inHbm a || a % 16 != 0 then .next σ
  else
    let w : Writer := { agent := σ.agent, part := σ.activity.part, die := dieOf (σ.turn.core / 8) }
    .next (σ.mergeAt w a (signedOf 8 (σ.turn.val % 256)) (fieldOf (σ.given 0) 31 0))

/-! ## Writing a group -/

/-- Writes elements that are not remote: adjacent bytes as one write, so that whole granules are written whole (05 R90). -/
def writeGroup (cl : Client) (b : Box) (ps : List (ElemOff × Nat)) : M (List Loc) := do
  let parts ← ps.mapM fun p => asEngine 5 (p.1.addr b.entry) (writeParts cl b.lid b.entry p)
  asEngine 5 ((ps.headD (.zero, 0)).1.addr b.entry) (storeParts cl (layType b.entry) parts.flatten)

/-- Writes the scale bytes of blocks; `os` are the blocks' first elements. -/
def writeScales (cl : Client) (b : Box) : List ElemOff → List Nat → M Unit
  | o :: os, x :: xs => do
    asEngine 5 (o.addr b.entry) (writeScale cl b.lid b.entry o x)
    writeScales cl b os xs
  | _, _ => pure ()

/-- Whether the elements of a box take in every accumulator of a line (R126: a line written whole). -/
def wholeLine (b : Box) (line : Nat) : Bool :=
  let as := (rangeFrom 0 b.count).map fun k =>
    (((b.coords k).zip (rangeFrom 0 4)).foldl (fun (t : Int) p => t + p.1 * layStride b.entry p.2) 0)
  (rangeFrom 0 8).all fun j => as.any fun off => permute b.entry (layBase b.entry + off * 16) == (((line * 128 + j * 16) : Nat) : Int)

/-- CPY into a reduction region: accumulators, and OVF of lines written whole or with a saturated value (R126, log 21). -/
def writeRed (cl : Client) (b : Box) (ps : List (ElemOff × Nat)) : M Unit := do
  let w := layWexp b.entry
  let ls ← writeGroup cl b (ps.map fun p => (p.1, wrapTo 128 (accOf w p.2).1))
  let line := (match (ps.headD (.zero, 0)).1.addr b.entry with
    | .ofNat a => a
    | .negSucc _ => 0) / 128
  let sat := ps.any fun p => (accOf w p.2).2
  match ls with
  | .phys a :: _ => do
    if wholeLine b line then mods fun s => s.setOvf (a / 128 * 128) false else pure ()
    if sat then mods fun s => s.setOvf (a / 128 * 128) true else pure ()
  | _ => pure ()

/-- CPYRED's addition of one element at its home (R124, R125); its destination wants the right to write, RWR (05 R101, log 92). -/
def addItem (cl : Client) (b : Box) (p : ElemOff × Nat) : M (BitVec 6) :=
  asEngine 5 (p.1.addr b.entry) do
    let ls ← elemWritePlaces cl b.lid b.entry p.1
    match ls with
    | .phys a :: _ => do
      let s ← gets id
      if s.stageFull a || s.crossFull (dieOf (cl.core / 8)) a then waitFor .fence else pure ()
      let w := { s.clientWriter cl with kind := .atomic }
      if layRed b.entry then do
        mods fun s => s.mergeAt w a (layWexp b.entry) p.2
        pure 0#6
      else
        let ty := layType b.entry
        let x := decodeVal ty (natOfBytes (readBytes s.mem a ls.length))
        let y := decodeVal ty p.2
        let r := match nanRule ty [x, y] with
          | some r => r
          | none => encodeFloat ty 0 false (addVal 0 x y)
        mods fun s => s.write w a (bytesOfNat ls.length r.1)
        pure r.2
    | _ => pure 0#6

/-! ## Remote destinations and sources (12 R271, R272, 18 R380) -/

/-- COUNT_MISMATCH found by the fence of an engine's store is the context's, whatever activation it runs (R272, R275); with none that
runs, the supervisor is told of the issuing process. -/
def State.engineMismatch (s : State) (c : CopyCmd) (x : Word) : State :=
  let k := s.ctx c.core c.ctx
  if k.act.isSome && decide (k.status = .running) then s.countMismatch c.core c.ctx x
  else s.post (s.partOf c.name) c.core 0 0 c.ctx FaultCode.countMismatch.toByte.toNat c.name
    [0#64, 0#64, x, 0#64, s.issuerWord5 c.core c.ctx c.name c.act c.handler, 0#64, 0#64]

/-- The implicit fence for a command: `true` when it is over (R272, R274). A fence of the context's own is left to it. A
mismatch raises COUNT_MISMATCH in the context, and the command goes on: what it sends shows only at a fence (R275, 18 R380, log 81). -/
def hodFence (c : CopyCmd) : M Bool := do
  let s ← gets id
  let k := s.ctx c.core c.ctx
  match k.podFence with
  | none => do
    mods fun s => (s.sendMarkers c.core c.ctx (s.partOf c.name) (s.prioOf (s.proc (slotOf c.name)))).modCtx c.core c.ctx fun k =>
      { k with podFence := k.podFence.map fun f => { f with engine := true } }
    pure false
  | some f =>
    if !f.engine || !f.over then waitFor .fence
    else do
      mods fun s => s.modCtx c.core c.ctx Ctx.endInterval
      match f.mismatch with
      | none => pure true
      | some x => do
        mods fun s => s.engineMismatch c x
        pure true

/-- The counts that ORD stamps the packets of a command with: those from before its first packet; what was sent in an interval
that is over has been performed (R276). -/
def CopyCmd.stampIn (c : CopyCmd) (k : Ctx) : Option (List Nat) :=
  if c.ord then some (if c.interval = k.interval then c.stamp else [0, 0, 0, 0]) else none

/-- Sends elements to a remote destination; `none` while the implicit fence is on its way. -/
def sendGroup (cl : Client) (c : CopyCmd) (ps : List (ElemOff × Nat)) (os : List ElemOff) (xs : List Nat) : M Bool := do
  let e := c.dst.entry
  let parts ← ps.mapM fun p => asEngine 5 (p.1.addr e) (do
    checkRight e 1 (p.1.addr e)
    remoteParts cl e p.1 p.2)
  let scales ← (os.zip xs).mapM fun p => match p.1 with
    | .elem off false => asEngine 5 (scaleAddr e off) (do
        let a ← remoteAddr e (scaleAddr e off)
        pure [(a, 255, p.2 % 256)])
    | _ => pure []
  let all := [mergeParts parts.flatten, scales.flatten]
  let packs := (all.map packParts).flatten
  let k ← gets fun s => s.ctx c.core c.ctx
  let go ← if k.podFence.isSome || k.sentFull (layDev e) (packs.map fun q => pathOf (q.headD (0, 0, 0)).1 (laySpread e)) then hodFence c else pure true
  if !go then pure false
  else do
    let stamp ← gets fun s => c.stampIn (s.ctx c.core c.ctx)
    mods fun s => all.foldl (fun s l =>
      s.sendParts (layDev e) (laySpread e) c.core c.ctx c.name cl.part (s.prioOf (s.proc (slotOf c.name))) stamp true l) s
    pure true

/-- Asks another device for elements of a remote box, with the scale bytes of their blocks: a packet per 256-byte chunk
(R271). -/
def askRemote (cl : Client) (c : CopyCmd) (b : Box) (os : List ElemOff) : M CopyCmd := do
  let e := b.entry
  checkRight e 0 0
  let es ← os.mapM (remoteElem cl e)
  let sc ← if isBlock (layType e) then os.mapM (remoteScaleElem e) else pure []
  let g := Gather.start (es ++ sc)
  let s ← gets id
  let k := s.ctx c.core c.ctx
  let (id, s') := s.takeFresh
  mods fun _ => s'.sendGather
    { dst := layDev e, core := c.core, ctx := c.ctx, name := c.name, part := cl.part, prio := s.prioOf (s.proc (slotOf c.name)),
      stamp := some (k.sentTo (layDev e)), interval := k.interval, engine := true } (laySpread e) id 0 g
  pure { c with req := some id, since := s.time, gather := g, got := g.reply }

/-- The reply to a command's request: a fault fails it, and so does none within 4·PFTMO (R277); none yet waits. -/
def remoteReply (c : CopyCmd) : M Reply := do
  let s ← gets id
  match c.got with
  | some r => (match r.fault with
    | some f => failWith f.1 f.2
    | none => pure r)
  | none =>
    if s.time < c.since + 4000 * s.pftmo then waitFor .fence
    else failWith .dataPoison (engineX .dataPoison 0#64 4 (((c.gather.out.headD (0, [])).2.headD 0 : Nat) : Int))

/-- Source elements: at once, or by a request whose reply comes later; `none` when the request has just gone out. -/
def readItems (cl : Client) (c : CopyCmd) (b : Box) (os : List ElemOff) : M (CopyCmd × Option (List Item)) := do
  if laySpace b.entry ≠ 1 then do
    let is ← os.mapM (readItem cl b)
    pure (c, some is)
  else if c.req.isNone then do
    let d ← askRemote cl c b os
    pure (d, none)
  else do
    let r ← remoteReply c
    let n := os.length
    mods fun s => s.learn (s.clientAgent cl) r.know
    pure ({ c with req := none, got := none, gather := {} }, some ((rangeFrom 0 n).map fun j =>
      { code := r.codes.getD j 0, scale := if isBlock (layType b.entry) then r.codes.getD (n + j) 0 else 127 }))

/-! ## One transfer -/

/-- The line, or the chunk of a remote destination, of an element. -/
def lineKey (e : BitVec 512) (o : ElemOff) : Int :=
  match o with
  | .zero => -1
  | .elem off _ => ((elemAddrs e off).headD 0).ediv (if laySpace e = 1 then 256 else 128)

/-- How many elements follow `k` in the same destination line. -/
def sameLine (c : CopyCmd) (key : Int) (k : Nat) : Nat → M Nat
  | 0 => pure 0
  | fuel + 1 => do
    match ← catchM (c.dstOff k) with
    | none => pure 0
    | some o =>
      if lineKey c.dst.entry o = key then do
        let n ← sameLine c key (k + 1) fuel
        pure (n + 1)
      else pure 0

/-- The elements that one transfer moves: whole blocks or 256 elements of 6 bits, else those of one line. -/
def groupSize (c : CopyCmd) (rest : Nat) : M Nat := do
  let ty := layType c.dst.entry
  if isSix ty ∨ isBlock ty then pure (min 256 rest)
  else do
    let o ← c.dstOff c.pos
    let n ← sameLine c (lineKey c.dst.entry o) (c.pos + 1) (min 256 rest - 1)
    pure (n + 1)

/-- A command has written places of memory: a line that its writes without a gap have covered whole is cleared (11 R249). -/
def noteRun (c : CopyCmd) (ls : List Loc) : M CopyCmd :=
  (runsOf ls).foldlM (fun (c : CopyCmd) r => match r.1 with
    | .phys a => do
      let lo := if c.run.2 = a then c.run.1 else a
      let whole := (linesOf a r.2).filter fun l => decide (lo ≤ l) && decide (l + 128 ≤ a + r.2)
      mods fun s => if inHbm a then whole.foldl State.coverLine s else s
      pure { c with run := (lo, a + r.2) }
    | _ => pure c) c

/-- Writes elements of the destination from `first` on; none while an implicit fence is on its way, else the command and the
flags. -/
def putItems (cl : Client) (c : CopyCmd) (first : Nat) (is : List Item) : M (Option CopyCmd) := do
  let ty := layType c.dst.entry
  let dst ← (rangeFrom first is.length).mapM c.dstOff
  let r ← asEngine 4 0 (convItems c c.src.entry ty first is)
  let ps := dst.zip r.1
  let firsts := (blockChunks first dst).map fun b => b.headD .zero
  let c := { c with flags := c.flags ||| r.2.2 }
  if c.op = .cpyred then do
    let fs ← ps.mapM (addItem cl c.dst)
    pure (some { c with flags := fs.foldl (· ||| ·) c.flags })
  else if layRed c.dst.entry then do
    writeRed cl c.dst ps
    pure (some c)
  else if laySpace c.dst.entry = 1 then do
    let ok ← sendGroup cl c ps (if isBlock ty then firsts else []) r.2.1
    pure (if ok then some c else none)
  else do
    let ls ← writeGroup cl c.dst ps
    if isBlock ty then writeScales cl c.dst firsts r.2.1 else pure ()
    let c ← noteRun c ls
    pure (some c)

/-- Moves the next group of CPY, CPYRED, GATH or SCAT. What does not fill a block of the destination is kept for the next group
(07 R154). -/
def moveElems (cl : Client) (c : CopyCmd) : M CopyCmd := do
  let total := c.count - c.pos
  let rest := if c.op = .gath ∨ c.op = .scat then min total (c.row - c.pos % c.row) else total
  let n ← groupSize c rest
  let src ← (rangeFrom c.pos n).mapM c.srcOff
  let (c, got) ← readItems cl c c.src src
  match got with
  | none => pure c
  | some is => do
    let all := c.hold ++ is
    let first := c.pos - c.hold.length
    let pos := c.pos + n
    let m := if isBlock (layType c.dst.entry) && decide (pos < c.count) then pos / 64 * 64 - first else all.length
    match ← putItems cl c first (all.take m) with
    | none => pure c
    | some c => pure { c with pos := pos, hold := all.drop m, lines := c.lines + 1,
                              index := if (c.op = .gath ∨ c.op = .scat) ∧ pos % c.row = 0 then none else c.index }

/-- A skip marker passes a row over (R127). What stands before it of a block is written as a part of its block: the spec does
not say how a block fares of which a row is skipped (log 82). -/
def skipRow (cl : Client) (c : CopyCmd) : M CopyCmd := do
  match ← putItems cl c (c.pos - c.hold.length) c.hold with
  | none => pure c
  | some c => pure { c with pos := c.pos + c.row, hold := [] }

/-- Reads the index of the row in hand, once (R128); a skip marker passes the row over. -/
def readIndex (cl : Client) (c : CopyCmd) : M CopyCmd := do
  let o ← asEngine 4 0 (elemOffset c.idx.entry (c.idx.coords (c.pos / c.row)))
  let (c, got) ← readItems cl c c.idx [o]
  match got with
  | none => pure c
  | some is =>
    let x := (is.headD {}).code
    if layType c.idx.entry = 13 then
      if x / 2 ^ 31 % 2 = 1 then skipRow cl c else pure { c with index := some (x : Nat) }
    else pure { c with index := some (signedOf 32 x) }

/-- The elements of the next strip of a stream or granule of a fill as codes of a type; the scales of a block type to which they are
converted go nowhere (log 94). -/
def packNext (cl : Client) (c : CopyCmd) (ty n : Nat) : M (CopyCmd × Option (List Nat)) := do
  let src ← (rangeFrom (if c.op = .strm then c.pos * laneCount ty else c.pos) n).mapM c.srcOff
  let (c, got) ← readItems cl c c.src src
  match got with
  | none => pure (c, none)
  | some is => do
    let r ← asEngine 4 ((src.headD .zero).addr c.src.entry) (convItems c c.src.entry ty 0 is)
    pure ({ c with flags := c.flags ||| r.2.2, lines := c.lines + 1 }, some r.1)

/-- Writes bytes at a pool offset of the command's own core. -/
def hodPool (cl : Client) (c : CopyCmd) (off ty : Nat) (bs : List Byte) : M Unit :=
  asEngine 5 ((off : Nat) : Int) (storeRun cl ty (.pool c.core off) bs)

/-- STRM (R131): the next strip into its slot, once that slot has been read. -/
def moveStrip (cl : Client) (c : CopyCmd) : M CopyCmd := do
  let s ← gets id
  match (s.ctx c.core c.ctx).streams.find? fun t => t.1 = c.view with
  | none => pure { c with stopped := true }
  | some (_, base, _, written, taken, _) =>
    if taken + 8 ≤ written then waitFor .streamBuffer
    else do
      let ty := layType c.src.entry
      let n := min (laneCount ty) (c.count - c.pos * laneCount ty)
      let (c, got) ← packNext cl c ty n
      match got with
      | none => pure c
      | some xs => do
        let off := c.ctx * rsBytes (s.core c.core).partw + base + 64 * (written % 8)
        hodPool cl c off ty (bytesOfNat 64 (packLanes (laneBits ty) xs).toNat)
        mods fun s => s.modCtx c.core c.ctx fun k =>
          { k with streams := k.streams.map fun t =>
              if t.1 = c.view then (t.1, t.2.1, t.2.2.1, t.2.2.2.1 + 1, t.2.2.2.2) else t }
        pure { c with pos := c.pos + 1 }

/-- FWINw with MARK moved to `n` bytes after START. -/
def fwMarked (w : Word) (n : Nat) : Word := setField w 15 0 (fwStart w + n)

/-- FILLW (R133): the next granule, or three whole granules of 6-bit elements, then MARK advances. -/
def moveFill (cl : Client) (c : CopyCmd) : M CopyCmd := do
  let ty := c.ty
  let n := min (if isSix ty then 256 else 64 / typeBytes ty) (c.count - c.pos)
  let (c, got) ← packNext cl c ty n
  match got with
  | none => pure c
  | some xs => do
    let w := if isSix ty then 6 else typeBits ty
    let off := c.base + c.pos * w / 8
    let bytes := (n * w + 7) / 8
    hodPool cl c off ty (bytesOfNat bytes (packLanes w xs).toNat)
    let done := (c.pos + n) * w / 8
    let mark := if c.pos + n = c.count then done else done / 64 * 64
    mods fun s => s.modCore c.core fun k =>
      { k with fwin := if h : c.win < 8 then k.fwin.set c.win (fwMarked (k.fwin[c.win]'h) mark) else k.fwin }
    pure { c with pos := c.pos + n }

/-- The side a push counts in at its target (R130): 0 N, 1 S, 2 E, 3 W. -/
def farSide (d : Nat) : Nat := if d % 2 = 0 then d + 1 else d - 1

/-- HALO (R129): the packed source goes to every chosen neighbour; a name of a device that no module can have raises LAYOUT
(01 R15). -/
def moveHalo (cl : Client) (c : CopyCmd) : M CopyCmd := do
  let ty := layType c.src.entry
  guardFault (c.names.all fun n => decide (devOf n < 192)) .layout (engineX .layout 0#64 5 ((c.off : Nat) : Int))
  let src ← (rangeFrom 0 c.count).mapM c.srcOff
  let (c, got) ← readItems cl c c.src src
  match got with
  | none => pure c
  | some is => do
    let data := (chunks (laneCount ty) (c.count + 1) (is.map Item.code)).map (packLanes (laneBits ty))
    let s ← gets id
    let know := s.knows (s.clientAgent cl)
    let outs := (c.names.zip (rangeFrom 0 4)).filter fun x => x.1 != 0
    mods fun s => outs.foldl (fun s x =>
      s.sendLanding { target := x.1, off := c.off, data := data, ty := ty, halo := true, side := farSide x.2, tag := c.tag,
                      name := c.name, core := c.core, ctx := c.ctx, part := cl.part, act := c.act, know := know } false) s
    pure { c with pos := c.count, pushes := outs.length, lines := c.lines + data.length }

/-- One transfer of a command that is not complete. A layout of a device that no module can have raises LAYOUT at the start (01
R15). A command of no elements begins, and is over. -/
def transfer (c : CopyCmd) : M CopyCmd := do
  let s ← gets id
  let cl := s.hodClient c
  guardFault (c.begun || c.entries.all devOk) .layout (engineX .layout 0#64 5 0)
  let c := if c.begun then c else { c with begun := true, stamp := (s.ctx c.core c.ctx).sentTo (layDev c.dst.entry), interval := (s.ctx c.core c.ctx).interval }
  if c.count = 0 ∧ c.op ≠ .halo then pure c
  else match c.op with
  | .cpy | .cpyred => moveElems cl c
  | .gath | .scat => if c.index.isNone then readIndex cl c else moveElems cl c
  | .halo => moveHalo cl c
  | .strm => moveStrip cl c
  | .fillw => moveFill cl c

/-- The command has performed every effect. -/
def CopyCmd.over (c : CopyCmd) : Bool :=
  match c.op with
  | .halo => c.begun && c.req.isNone && c.pushes == 0 && c.pos == c.count
  | .strm => c.begun && decide (c.src.strips ≤ c.pos)
  | _ => c.begun && decide (c.count ≤ c.pos)

/-- The command has work for the hod now. In a cluster that is pre-empted no command starts and a stream stops at its strip
(15 R365). -/
def State.copyReady (s : State) (c : CopyCmd) : Bool :=
  if c.stopped then true
  else if (s.cluster (c.core / 8)).preempt.isSome && (!c.begun || decide (c.op = .strm)) then false
  else if c.over then false
  else if c.req.isSome && c.got.isNone && decide (s.time < c.since + 4000 * s.pftmo) then false
  else match c.op with
    | .halo => !(c.begun && c.pos == c.count && c.req.isNone)
    | .strm => (match (s.ctx c.core c.ctx).streams.find? fun t => t.1 = c.view with
      | none => true
      | some (_, _, _, written, taken, _) => decide (written < taken + 8))
    | _ => (match (s.ctx c.core c.ctx).podFence with
      | some f => (f.engine && f.over) || laySpace c.dst.entry != 1
      | none => true)

/-- Sets or removes a command in its queue. -/
def State.replaceCopy (s : State) (old : CopyCmd) (new : Option CopyCmd) : State :=
  match old.sys with
  | some u =>
    let g := find s.engines u {}
    { s with engines := put s.engines u { g with queue := replaceCmd old new g.queue } }
  | none => s.modCluster (old.core / 8) fun k =>
    { k with hod := put k.hod old.queue (replaceCmd old new (find k.hod old.queue [])) }

/-- A violating queue or engine is frozen, and the host is told (15 R377). -/
def State.freezeEngine (s : State) (c : CopyCmd) : State :=
  let s := match c.sys with
    | some u =>
      let g := find s.engines u {}
      { s with engines := put s.engines u { g with frozen := true } }
    | none => s.modCluster (c.core / 8) fun k => { k with hodFrozen := k.hodFrozen ++ [(c.queue, c.name)] }
  let src := if c.sys.isSome then 4 else 1
  s.tellHost [faultWord0 0 (c.sys.getD c.queue) c.core src c.ctx FaultCode.violation.toByte.toNat]

/-- A command ends and leaves its queue. -/
def State.closeCopy (s : State) (c : CopyCmd) (e : Ending) : State :=
  let s := s.replaceCopy c none
  let s := s.endCopy c e
  match e with
  | .failed .violation _ => s.freezeEngine c
  | _ => s

/-- One act of an engine on a command (R115, R122, R132). -/
def State.runCopy (s : State) (c : CopyCmd) : State :=
  if c.stopped then s.closeCopy c .cancelled
  else
    let started := fun (s : State) => if c.begun then s else s.copyRecord c 0 0#64
    match transfer c s with
    | .ok (d, t) => (started (t.replaceCopy c (some d))).count (s.partOf c.name) 9 (d.lines - c.lines)
    | .error (.fault code x w) =>
      ((started s).lostBy (s.partOf c.name) (c.core / 8) (code, x, w)).closeCopy c (.failed code x)
    | .error (.wait _ _) => s

/-- A command that has performed every effect completes (R116, R117, R130): a push that met a stale name sets its tag's error
bit, one that overran a landing region fails it. -/
def State.completeCopy (s : State) (c : CopyCmd) : State :=
  let s := if c.staleHit then s.modCore c.core fun k => { k with tagErr := setBit k.tagErr c.tag true } else s
  if c.overrun then s.closeCopy c (.failed .layout (engineX .layout 0#64 5 ((c.off : Nat) : Int))) else s.closeCopy c .done

/-- The command at the head of a hod queue that is not frozen. -/
def State.hodHead (s : State) (cl q : Nat) : Option CopyCmd :=
  let k := s.cluster cl
  if k.hodFrozen.any (fun f => f.1 == q) then none else headCmd [] (find k.hod q [])

/-- Packets of the engines for a context still stand in this device's router (18 R380). -/
def State.packetsOut (s : State) (core ctx : Nat) : Bool := s.inject.any fun p =>
  p.engine && p.core == core && p.ctx == ctx && (match p.body with
    | .store _ _ _ | .storeBits _ => true
    | _ => false)

/-- A command has performed every effect, and what it sent to another device has left this one (18 R380). -/
def State.copyOver (s : State) (c : CopyCmd) : Bool :=
  c.over && !c.stopped && (laySpace c.dst.entry != 1 || !s.packetsOut c.core c.ctx)

/-- HOD_LINE_TRANSFER (R115): the hod of cluster `turn.unit` serves the queue whose turn it is; `turn.upset` badData says that the
source data which it reads is uncorrectable (R122). -/
def execHodLineTransfer (σ : State) : Out :=
  let cl := σ.turn.unit
  if !clusterOk cl then .fault .noSuchUnit
  else
    let s := σ.passFences ((σ.cluster cl).hod.map fun q => hodFences q.2).flatten
    let k := s.cluster cl
    let weight := fun q => match s.hodHead cl q with
      | some c => if s.copyReady c then some (s.weightOf c.name) else none
      | none => none
    match grantQueue 16 weight k.hodLast k.hodDef with
    | (none, defs) => .next (s.modCluster cl fun k => { k with hodDef := defs })
    | (some q, defs) =>
      match s.hodHead cl q with
      | none => .next s
      | some c =>
        let s := s.modCluster cl fun k => { k with hodLast := q, hodDef := defs }
        .next (s.runCopy c)

/-- HOD_COMMAND_COMPLETE (R116): the head of queue `turn.sub` of the hod of cluster `turn.unit` completes. -/
def execHodCommandComplete (σ : State) : Out :=
  let cl := σ.turn.unit
  if !clusterOk cl || !decide (σ.turn.sub < 16) then .fault .noSuchUnit
  else match σ.hodHead cl σ.turn.sub with
    | some c => .next (if σ.copyOver c then σ.completeCopy c else σ)
    | none => .next σ

/-- SYSTEM_COPY_TRANSFER (R141): engine `turn.unit` moves a line of its head command, or completes it. Later commands of a
frozen engine fail (15 R377). -/
def execSystemCopyTransfer (σ : State) : Out :=
  if !decide (σ.turn.unit < 128) then .fault .noSuchUnit
  else
    let s := σ.passFences (hodFences (find σ.engines σ.turn.unit {}).queue)
    let g := find s.engines σ.turn.unit {}
    match headCmd [] g.queue with
    | none => .next s
    | some c =>
      if g.frozen then
        let s := s.replaceCopy c none
        .next (s.endCopy c (.failed .violation 0#64))
      else if s.copyOver c then .next (s.completeCopy c)
      else if s.copyReady c then .next (s.runCopy c)
      else .next s

end Sys2Proof.Machine
end

