-- ==== Sys2Proof/Machine/Matrix.lean ====
section
/-!
DEFINITION. The MAT group (10 R213, R216-R237): the issue of MMA, MMAS, MROT, MZERO and MRD, job identifiers, MWAIT, MPOLL
and MCAN. What the engine does with a job stands in Machine/Jobs.lean.
-/

namespace Sys2Proof.Machine

/-! ## Type classes and shapes (R216, R217) -/

/-- The class of an operand type: 0 FP32, 1 BF16, 2 FP16, 3 FP8, 4 L6. -/
def matClass (ty : Nat) : Option Nat :=
  match ty with
  | 0 => some 0 | 1 => some 1 | 2 => some 2
  | 3 | 4 | 7 => some 3
  | 5 | 6 => some 4
  | _ => none

/-- Kstep of a class. -/
def kStep (cls : Nat) : Nat :=
  match cls with
  | 0 => 16 | 1 => 64 | 2 => 64 | 3 => 128 | _ => 256

/-- The group size of a class. -/
def kGroup (cls : Nat) : Nat :=
  match cls with
  | 0 => 4 | 1 => 16 | 2 => 16 | 3 => 32 | _ => 64

/-- K of an operand box. -/
def Box.k (b : Box) : Nat := b.ext.headD 0

/-- An operand box's space and its whole blocks along K (R216, R234). -/
def operandSpace (b : Box) : M Unit :=
  guardFault (laySpace b.entry == 0 && !layRed b.entry) .layout 0#64

/-- Extents (K, 32), then 1 within the rank. -/
def operandShape (b : Box) : Bool :=
  decide (2 ≤ layRank b.entry) && b.ext.getD 1 0 == 32 && (b.ext.drop 2).all (· == 1)

/-- An L6B or E4B operand starts at a multiple of 64 along K. -/
def operandStart (b : Box) : M Unit :=
  guardFault (!isBlock (layType b.entry) || b.start.headD 0 % 64 == 0) .layout 0#64

/-- A job that multiplies, and the K of the A that it leaves kept, where its boxes tell. One that takes the kept A and a B that is
sent to its slot leaves the kept A as it was. -/
def MJob.keepsK (j : MJob) : Option (Option Nat) := match j.op with
  | .mma | .mmas | .mrot => (match j.a, j.b with
    | some a, _ => some (some (kStep ((matClass (layType a.entry)).getD 0)))
    | none, some b => some (if j.areuse then some b.k else none)
    | none, none => if j.areuse then none else some none)
  | .mzero | .mrd => none

/-- The K of the A that a job issued now will find kept: what the last job before it in the queue or in its outbox leaves, else
what the queue keeps (R219); none where that is not known yet (log 83). -/
def State.keptK (s : State) : Option Nat :=
  let cl := s.cluster (s.turn.core / 8)
  let q := s.turn.core % 8
  let queued := (find cl.mat q []).filterMap fun e => match e with
    | .job j => j.keepsK
    | .fence _ => none
  let out := s.actor.outbox.filterMap fun e => match e with
    | .job j => j.keepsK
    | _ => none
  match (queued ++ out).getLast? with
  | some k => k
  | none => (look cl.keptA q).map Operand.k

/-- Under AREUSE the job's K is that of the kept A (R219). -/
def keptRule (areuse : Bool) (k : Nat) : M Unit := do
  let s ← gets id
  require (!areuse || (match s.keptK with
    | some n => n == k
    | none => true))

/-- The boxes of a job in step 5 of R234; `steps` is 1 where the job must have exactly one step. -/
def operandRules (bs : List Box) (one : Bool) : M Unit := do
  bs.forM operandSpace
  let cls := bs.map fun b => matClass (layType b.entry)
  let k := (bs.headD {}).k
  let step := kStep ((cls.headD none).getD 0)
  require (bs.all operandShape && cls.all (fun c => c.isSome && c == cls.headD none) && bs.all (fun b => b.k == k)
    && (bs.isEmpty || (k != 0 && k % step == 0 && (!one || k == step))))
  bs.forM operandStart

/-! ## The accumulator view (R223) -/

/-- The pool offset of the tile that a view names; a malformed view raises ILLEGAL with its number. -/
def tileOf (v : BitVec 5) : M Nat := do
  let c ← me
  let s ← gets id
  let z := c.z[v.toNat]'v.isLt
  guardFault (!zMalformed z) .illegal (wordOf v.toNat)
  let p := s.self
  let r := p.tileRange (s.core s.turn.core).partw
  require (zSpace z == 1 && zType z == 0 && zRank z == 2 && zDim z 0 == 32 && zDim z 1 == 32 && zStride z 0 == 4
    && zStride z 1 == 128 && zOffset z % 4096 == 0 && decide (zOffset z + 4096 ≤ r.2))
  let off := r.1 + zOffset z
  match s.readTagFault s.turn.core off 4096 0 with
  | some x => failWith .format x
  | none => pure off

/-! ## Issue (R226, R227, R234) -/

/-- JOBID's value for a job. -/
def jobWord (seq tag : Nat) : Nat := at_ seq 10 6 + at_ tag 6 0

/-- What a job takes from its context at issue. -/
def newJob (op : JobOp) (tag : Nat) : M MJob := do
  let s ← gets id
  let c ← me
  pure { op := op, tag := tag, seq := (s.core s.turn.core).jobSeq.toNat, num := s.fresh, agent := engineAgent s.fresh s.agent, rnd := c.rmode.toNat, core := s.turn.core,
         ctx := s.turn.ctx, name := s.activity.name, act := s.activity.id, handler := s.activity.handler }

/-- The gate named through HMOD (R228): its reference and the generation as it stands. -/
def jobGate (h : Hints) : M (Option (Word × Nat)) := do
  if h.hmod.bar = 0 then pure none
  else do
    let ref ← regAt (BitVec.ofNat 5 h.hmod.bar) 0
    let p ← findBar ref
    let s ← gets id
    pure (some (ref, barGen (s.barRead p.1 p.2)))

/-- The core issues a job: its record becomes pending and its sequence is used, its tag's count rises, JOBID names it. -/
def noteJob (j : MJob) : M Unit := do
  mods fun s => s.takeFresh.2
  modMyCore fun k =>
    let k := k.tagIssue j.tag
    { k with jobSeq := k.jobSeq + 1#10, jobs := put k.jobs j.seq none, jobNum := put k.jobNum j.seq j.num }
  modMe fun c => { c with jobid := BitVec.ofNat 16 (jobWord j.seq j.tag) }

/-- The end of the checks and the issue. -/
def issueJob (j : MJob) (boxes : List Box) (h : Hints) : M Disp := do
  let c ← me
  boxes.forM boxInRange
  let gate ← jobGate h
  let k ← myCore
  if 32 ≤ k.tagCount j.tag then waitFor .scoreboard
  else sendEntry (.job { j with gate := gate }) c.q3 (noteJob { j with gate := gate })

/-- ILLEGAL with the instruction's word, for what its fields and hints decide. -/
def requireWord (i : Instr) (ok : Bool) : M Unit := guardFault ok .illegal ((encode i).setWidth 64)

/-! ## MMA and MMAS -/

/-- The words of the A box of a job; under AREUSE a zero field names none (R219). -/
def boxA (a : BitVec 5) (h : Hints) : M (Option Box) := do
  if h.hmod.areuse && a == 0#5 then pure none
  else do
    let x ← copyBox a
    pure (some x)

/-- MMA -/
def execMma (v a b : BitVec 5) (t : BitVec 6) (σ : State) : Out :=
  aHalf (.mma v a b t) (fun h => do
    let tile ← tileOf v
    let x ← boxA a h
    let y ← copyBox b
    copyTag t.toNat
    requireWord (.mma v a b t) (!h.hmod.areuse || a == 0#5)
    operandRules (x.toList ++ [y]) h.hmod.areuse
    keptRule h.hmod.areuse y.k
    let j ← newJob .mma t.toNat
    issueJob { j with tile := tile, a := x, b := some y, areuse := h.hmod.areuse, k := y.k } (x.toList ++ [y]) h) σ

/-- The reduction box of MMAS: an HBM FP32 layout with RED, extents (32, 32). -/
def redBox (b : Box) : Bool := layRed b.entry && operandShape b && b.ext.headD 0 == 32

/-- MMAS -/
def execMmas (r a b : BitVec 5) (t : BitVec 6) (σ : State) : Out :=
  aHalf (.mmas r a b t) (fun h => do
    let d ← copyBox r
    require (redBox d)
    let x ← boxA a h
    let y ← copyBox b
    copyTag t.toNat
    requireWord (.mmas r a b t) (!h.hmod.areuse || a == 0#5)
    operandRules (x.toList ++ [y]) h.hmod.areuse
    keptRule h.hmod.areuse y.k
    let j ← newJob .mmas t.toNat
    issueJob { j with dst := d, a := x, b := some y, areuse := h.hmod.areuse, k := y.k } (d :: x.toList ++ [y]) h) σ

/-! ## MROT (R229) -/

/-- A rotation target: a core of a cluster, of the issuer's partition. -/
def ringTarget (r : BitVec 14) : M Nat := do
  let s ← gets id
  guardFault (coreOk r.toNat) .layout 0#64
  guardFault (s.coreInPart r.toNat s.activity.part) .violation 0#64
  pure r.toNat

/-- The pairings of R229: both boxes or both slots, and under AREUSE no A. -/
def rotPairing (a b : BitVec 5) (areuse : Bool) : Bool := if areuse then a == 0#5 else (a == 0#5) == (b == 0#5)

/-- MROT. Under AREUSE nothing goes to RINGW, which is then not tested (log 23). -/
def execMrot (v a b : BitVec 5) (t : BitVec 6) (σ : State) : Out :=
  aHalf (.mrot v a b t) (fun h => do
    let tile ← tileOf v
    let x ← if a = 0#5 then pure none else do
      let x ← copyBox a
      pure (some x)
    let y ← if b = 0#5 then pure none else do
      let y ← copyBox b
      pure (some y)
    copyTag t.toNat
    requireWord (.mrot v a b t) (rotPairing a b h.hmod.areuse)
    operandRules (x.toList ++ y.toList) true
    keptRule (h.hmod.areuse && y.isSome) ((y.map Box.k).getD 0)
    let p ← myProc
    let w ← if h.hmod.areuse then pure 0 else ringTarget p.ringw
    let n ← ringTarget p.ringn
    let j ← newJob .mrot t.toNat
    issueJob { j with tile := tile, a := x, b := y, areuse := h.hmod.areuse, ringw := w, ringn := n,
                      k := match y with
                        | some y => y.k
                        | none => 0 } (x.toList ++ y.toList) h) σ

/-! ## MZERO and MRD (R235) -/

/-- MZERO -/
def execMzero (v : BitVec 5) (t : BitVec 6) (σ : State) : Out :=
  aHalf (.mzero v t) (fun h => do
    let tile ← tileOf v
    copyTag t.toNat
    let j ← newJob .mzero t.toNat
    issueJob { j with tile := tile } [] h) σ

/-- MRD. A reduction region is reached through MMAS alone (06 R124), so RED raises LAYOUT (log 21). -/
def execMrd (d v : BitVec 5) (t : BitVec 6) (σ : State) : Out :=
  aHalf (.mrd d v t) (fun h => do
    let tile ← tileOf v
    let x ← copyBox d
    copyTag t.toNat
    require (x.count == 1024)
    guardFault (laySpace x.entry ≤ 3) .layout 0#64
    plainBox x
    let j ← newJob .mrd t.toNat
    issueJob { j with tile := tile, dst := x } [x] h) σ

/-! ## MWAIT, MPOLL, MCAN (R236, R237) -/

/-- A job of the outbox has a sequence. -/
def jobInOutbox (seq : Nat) (es : List OutEntry) : Bool := es.any fun e => match e with
  | .job j => j.seq == seq
  | _ => false

/-- MWAIT -/
def execMwait (r : BitVec 5) (σ : State) : Out :=
  aHalf (.mwait r) (fun _ => do
    let c ← me
    let v ← readA r
    let seq := fieldOf v 15 6
    match ← sealIf (jobInOutbox seq) with
    | some x => holdBack c.q3 x
    | none => do
      let k ← myCore
      match k.jobStatus seq with
      | none => holdBack c.q3 (.hold .scoreboard)
      | some st => do
        seeTags
        setStatus (wordOf st)
        pure .retire) σ

/-- MPOLL -/
def execMpoll (d r : BitVec 5) (σ : State) : Out :=
  aHalf (.mpoll d r) (fun _ => do
    let c ← me
    let v ← readA r
    let seq := fieldOf v 15 6
    match ← sealIf (jobInOutbox seq) with
    | some x => holdBack c.q3 x
    | none => do
      let k ← myCore
      match k.jobStatus seq with
      | none => do
        writeA d 0#64
        setStatus 0#64
        pure .retire
      | some st => do
        seeTags
        writeA d 1#64
        setStatus (wordOf st)
        pure .retire) σ

/-- A matrix job ends (R222, R226, R227): its record, its tag, its flags; a failure poisons the barrier that HMOD named and
tells the supervisor (R226). -/
def State.endJob (s : State) (j : MJob) (status : Nat) (fault : Option (FaultCode × Word)) : State :=
  let part := s.partOf j.name
  let know := s.knows j.agent
  let s := s.dismiss j.agent
  let s := match s.named j.name with
    | some _ => s.orPflags (slotOf j.name) j.flags
    | none => s
  let s := s.modCore j.core fun k =>
    { (k.tagEnd j.tag (status != 0)).jobEnd j status with tagKnow := joinKnow k.tagKnow know }
  let id := wordOf (jobWord j.seq j.tag)
  let kind := if status = 0 then 1 else if status = 1 then 2 else if status = 2 then 3 else 4
  let detail := match fault with
    | some f => wordOf f.1.toByte.toNat
    | none => 0#64
  let s := s.eventRecord part 2 kind j.name j.core id detail know
  match fault with
  | none => s
  | some f =>
    let s := match j.gate with
      | some g => s.barSend { part := part, ref := g.1, poison := true }
      | none => s
    s.engineFault part j.core 2 0 j.ctx j.name f.1 f.2 id (s.issuerWord5 j.core j.ctx j.name j.act j.handler)

/-- The jobs of a queue with a tag that have not begun, and the queue without them. -/
def splitJobs (tag : Nat) : List MatEntry → List MJob × List MatEntry
  | [] => ([], [])
  | e :: es =>
    let r := splitJobs tag es
    match e with
    | .job j => if j.tag == tag && j.granted == 0 && !j.sent then (j :: r.1, r.2) else (r.1, e :: r.2)
    | .fence _ => (r.1, e :: r.2)

/-- The jobs of an outbox with a tag, and the outbox without them. -/
def splitOutJobs (tag : Nat) : List OutEntry → List MJob × List OutEntry
  | [] => ([], [])
  | e :: es =>
    let r := splitOutJobs tag es
    match e with
    | .job j => if j.tag == tag then (j :: r.1, r.2) else (r.1, e :: r.2)
    | _ => (r.1, e :: r.2)

/-- Removes every job of a core with a tag that has not begun its first step, from the queue and the outboxes. -/
def State.takeJobs (s : State) (core tag : Nat) : List MJob × State :=
  let cl := core / 8
  let a := splitJobs tag (find (s.cluster cl).mat (core % 8) [])
  let s := s.modCluster cl fun k => { k with mat := put k.mat (core % 8) a.2 }
  let outs := (rangeFrom 0 4).map fun k => (k, splitOutJobs tag (s.ctx core k).outbox)
  let s := outs.foldl (fun s o => s.modCtx core o.1 fun c => { c with outbox := o.2.2 }) s
  (a.1 ++ (outs.map fun o => o.2.1).flatten, s)

/-- The job at the head of a queue; a QFENCE there holds back what follows. -/
def headJob : List MatEntry → Option MJob
  | .job j :: _ => some j
  | _ => none

/-- The job at the head of queue `q` of a cluster. -/
def State.matHead (s : State) (cl q : Nat) : Option MJob := headJob (find (s.cluster cl).mat q [])

/-- The next job of a queue, whatever fence stands before it. -/
def nextJob : List MatEntry → Option MJob
  | [] => none
  | .job j :: _ => some j
  | .fence _ :: es => nextJob es

/-- Closes the routes of a queue: those to which its next job is no rotation to the same target (R230), and in a cluster that is
pre-empted all of them, since its next job begins no more (04 R81, R232). -/
def State.closeRoutes (s : State) (cl q : Nat) : State :=
  let keep : Option MJob := match nextJob (find (s.cluster cl).mat q []) with
    | some j => if j.op = JobOp.mrot && (s.cluster cl).preempt.isNone then some j else none
    | none => none
  let shut := fun (s : State) (isA : Bool) =>
    let k := s.cluster cl
    let t := find (if isA then k.routeA else k.routeB) q 0
    let same : Bool := match keep with
      | some j => decide (t = (if isA then j.ringw else j.ringn) + 1) && (!isA || !j.areuse)
      | none => false
    if t == 0 || same then s
    else
      let id := cl * 16 + q * 2 + (if isA then 0 else 1)
      let s := s.sendPkt cl ((t - 1) / 8) ((s.clusterPart cl).getD 0) (.closeRoute id)
      s.modCluster cl fun k => if isA then { k with routeA := drop k.routeA q } else { k with routeB := drop k.routeB q }
  shut (shut s true) false

/-- MCAN -/
def execMcan (t : BitVec 6) (σ : State) : Out :=
  aHalf (.mcan t) (fun _ => do
    copyTag t.toNat
    let s ← gets id
    let r := s.takeJobs s.turn.core t.toNat
    mods fun _ => (r.1.foldl (fun s j => s.endJob j 3 none) r.2).closeRoutes (s.turn.core / 8) (s.turn.core % 8)
    setStatus (wordOf r.1.length)
    pure .retire) σ

end Sys2Proof.Machine
end

