-- ==== Sys2Proof/Machine/Jobs.lean ====
section
/-!
DEFINITION. The matrix engine at work (10 R214-R231, R235): readiness and the arbiter, the fetch and the pins of a step, its
arithmetic, rotation, write-back, merges, MZERO and MRD, poison of gated jobs, failure.
-/

namespace Sys2Proof.Machine

/-! ## Queues -/

/-- Puts the head job's new state in its place, or takes it out. -/
def State.setHead (s : State) (cl q : Nat) (j : Option MJob) : State :=
  s.modCluster cl fun k => { k with mat := put k.mat q (match j with
    | some j => .job j :: (find k.mat q []).drop 1
    | none => (find k.mat q []).drop 1) }

/-- A job that multiplies. -/
def MJob.steps (j : MJob) : Nat :=
  match j.op with
  | .mma | .mmas => (match j.b with
    | some b => j.k / kStep ((matClass (layType b.entry)).getD 0)
    | none => 0)
  | .mrot => 1
  | .mzero | .mrd => 0

/-- What a gate says (R228, 06 R427): open, closed, or poisoned; a barrier that is gone counts as poisoned. -/
inductive Gate where
  | opened | closed | poisoned
  deriving DecidableEq, Repr

/-- The gate of a job as it stands. -/
def State.gateOf (s : State) (j : MJob) : Gate :=
  match j.gate with
  | none => .opened
  | some (ref, g) =>
    match s.barrier (s.partOf j.name) ref with
    | .bad _ => .poisoned
    | .away => .closed
    | .here n off =>
      let b := s.barRead n off
      if barPoison b then .poisoned else if barGen b ≠ g then .opened else .closed

/-- The queue's next step is ready (R215): no step of it is in progress, its gate is open, its rotated operands are
there; in a cluster that is pre-empted no job begins (R232). -/
def State.stepReady (s : State) (cl q : Nat) : Bool :=
  match s.matHead cl q with
  | none => false
  | some j =>
    let k := s.cluster cl
    decide (j.granted = j.done) && decide (j.granted < j.steps)
      && (decide (j.granted ≠ 0) || (s.gateOf j == .opened && k.preempt.isNone))
      && (decide (j.op ≠ .mrot)
        || ((j.a.isSome || j.areuse || (look k.slotA q).isSome) && (j.b.isSome || (look k.slotB q).isSome)))

/-! ## Fetching an operand (R218) -/

/-- The client of a job's fetch and writes. -/
def State.jobClient (s : State) (j : MJob) : Client :=
  { slot := slotOf j.name, part := s.partOf j.name, core := j.core, ctx := j.ctx, engine := true, agent := j.agent,
    super := (s.proc (slotOf j.name)).super }

/-- The coordinates of element `k` of row `m` of a box, in step `step`. -/
def operandAt (b : Box) (k m : Nat) : List Int :=
  ((b.start.headD 0 + k : Nat) : Int) :: ((b.start.getD 1 0 + m : Nat) : Int)
    :: (b.start.drop 2).map fun x => ((x : Nat) : Int)

/-- The places of one row of an operand for a step: of each element, and of the scale byte of each block. -/
structure RowPlaces where
  offs : List ElemOff
  locs : List (List Loc)
  scales : List (List Loc)

/-- Finds one row of an operand; an uncorrectable error in a line that it lies in fails the job. -/
def rowPlaces (cl : Client) (b : Box) (k0 step m : Nat) : M RowPlaces := do
  let os ← (rangeFrom k0 step).mapM fun k => asEngine 4 0 (elemOffset b.entry (operandAt b k m))
  let locs ← os.mapM fun o => asEngine 4 (o.addr b.entry) (do
    let ls ← elemReadPlaces cl b.lid b.entry false o
    checkData ls
    pure ls)
  let scales ← if isBlock (layType b.entry) then
      (chunks 64 (os.length + 1) os).mapM fun l =>
        let o := l.headD .zero
        asEngine 4 (o.addr b.entry) (do
          let ls ← scalePlaces cl b.lid b.entry o
          checkData ls
          pure ls)
    else pure []
  pure { offs := os, locs := locs, scales := scales }

/-- The tile-fetch unit reads a line once, at its slice, and pins it there (R218, 04 R64); the pin, with the die of its slice. -/
def State.fetchLine (s : State) (cl : Client) (line : Nat) : List (Nat × Nat) × State :=
  let s := s.readLine line cl.part (cl.core / 8) 0 true
  let h := s.servedAt line (cl.core / 8)
  let p := s.pinLine h line
  (if p.2 then [(line, h.die)] else [], p.1)

/-- The bytes at places as the lines that were read give them; the reader learns what their writers had performed. -/
def bytesAt (cl : Client) (ls : List Loc) : M (List Byte) := fun s =>
  .ok (ls.map s.peek, (runsOf ls).foldl (fun (t : State) r => match r.1 with
    | .phys a => t.observeRead (t.clientAgent cl) a r.2
    | _ => t) s)

/-- The rows of an operand for a step. -/
def operandRows (cl : Client) (b : Box) (k0 : Nat) : M (List RowPlaces) :=
  (rangeFrom 0 32).mapM (rowPlaces cl b k0 (kStep ((matClass (layType b.entry)).getD 0)))

/-- The lines that rows lie in. -/
def rowLines (rows : List RowPlaces) : List Nat :=
  ((rows.map fun r => (r.locs ++ r.scales).flatten).flatten.filterMap fun l => match l with
    | .phys a => some (a / 128 * 128)
    | _ => none)

/-- The operand that rows hold. -/
def operandOf (cl : Client) (b : Box) (rows : List RowPlaces) : M Operand := do
  let codes ← rows.mapM fun row => (row.offs.zip row.locs).mapM fun p => do
    let bs ← bytesAt cl p.2
    pure (codeOf b.entry p.1 bs)
  let scales ← rows.mapM fun row => row.scales.mapM fun ls => do
    let bs ← bytesAt cl ls
    pure (natOfBytes bs)
  pure { ty := layType b.entry, k := kStep ((matClass (layType b.entry)).getD 0), codes := codes, scales := scales }

/-- Reads the operands of a step that lie in memory, each line of the step once, whichever boxes it lies in (R218); and the lines
pinned. -/
def fetchOperands (cl : Client) (a b : Option Box) (step : Nat) : M (Option Operand × Option Operand × List (Nat × Nat)) := do
  let rows := fun (x : Option Box) => match x with
    | some b => operandRows cl b (step * kStep ((matClass (layType b.entry)).getD 0))
    | none => pure []
  let ra ← rows a
  let rb ← rows b
  let s ← gets id
  let r := (rowLines ra ++ rowLines rb).eraseDups.foldl (fun (r : List (Nat × Nat) × State) line =>
    let p := r.2.fetchLine cl line
    (r.1 ++ p.1, p.2)) ([], s)
  mods fun _ => r.2
  let read := fun (x : Option Box) (rows : List RowPlaces) => match x with
    | some b => do
      let o ← operandOf cl b rows
      pure (some o)
    | none => pure none
  let oa ← read a ra
  let ob ← read b rb
  pure (oa, ob, r.1)

/-! ## Arithmetic (R220, R221) -/

/-- The scale byte of block `j` of a row; 127 where the type has none. -/
def Operand.scale (o : Operand) (m j : Nat) : Nat := if isBlock o.ty then (o.scales.getD m []).getD j 127 else 127

/-- The code of element `k` of row `m`. -/
def Operand.code (o : Operand) (m k : Nat) : Nat := (o.codes.getD m []).getD k 0

/-- The value of element `k` of row `m`. -/
def Operand.val (o : Operand) (m k : Nat) : Val :=
  if isBlock o.ty then decodeScaled o.ty (o.code m k) (o.scale m (k / 64)) else decodeVal o.ty (o.code m k)

/-- The exact sum of products: a zero is −0 only if every product is. A signalling NaN, and infinities of both signs, set
INVALID whatever stands before them. -/
def sumVals (vs : List Val) : Val :=
  if vs.contains (.nan true) || (vs.contains (.inf true) && vs.contains (.inf false)) then .nan true
  else match vs with
    | [] => .fin false 0 0
    | v :: rest => rest.foldl (addVal 0) v

/-- acc + s, rounded once to FP32. -/
def foldAcc (acc : Nat) (v : Val) : Nat × BitVec 6 := encodeFloat 0 0 false (addVal 0 (decodeVal 0 acc) v)

/-- A term of two L6 codes with their scales (R221). -/
def l6Term (a b ea eb : Nat) : Val :=
  let ma := a % 32
  let mb := b % 32
  if ma = 0 ∨ mb = 0 then .fin false 0 0
  else
    let k : Int := (ma : Int) + mb - 32 + 4 * ((ea : Int) + eb - 254)
    .fin ((a / 32 % 2 = 1) != (b / 32 % 2 = 1)) (tableT (k.emod 4).toNat) (k.ediv 4 - 15)

/-- One block of the L6 class: its sum rounded to FP32, then added; a NaN block gives the canonical NaN. -/
def l6Block (a b : Operand) (m n j acc : Nat) : Nat × BitVec 6 :=
  let ea := a.scale m j
  let eb := b.scale n j
  if ea = 255 ∨ eb = 255 then (canonNan 0, 0#6)
  else
    let terms := (rangeFrom (64 * j) 64).map fun k => l6Term (a.code m k) (b.code n k) ea eb
    let s := encodeFloat 0 0 false (sumVals terms)
    let r := foldAcc acc (decodeVal 0 s.1)
    (r.1, s.2 ||| r.2)

/-- One group of the other classes; a NaN block gives the canonical NaN without INVALID. -/
def fpGroup (a b : Operand) (g m n j acc : Nat) : Nat × BitVec 6 :=
  let ks := rangeFrom (g * j) g
  foldAcc acc (sumVals (ks.map fun k => mulVal (a.val m k) (b.val n k)))

/-- One element of the output through one step. -/
def stepElem (a b : Operand) (cls m n acc : Nat) : Nat × BitVec 6 :=
  (rangeFrom 0 4).foldl (fun (r : Nat × BitVec 6) j =>
    let x := if cls = 4 then l6Block a b m n j r.1 else fpGroup a b (kGroup cls) m n j r.1
    (x.1, r.2 ||| x.2)) (acc, 0#6)

/-- The 1,024 elements through one step, n fastest. -/
def stepAll (a b : Operand) (cls : Nat) (acc : List Nat) : List Nat × BitVec 6 :=
  let xs := (acc.zip (rangeFrom 0 acc.length)).map fun p => stepElem a b cls (p.2 / 32) (p.2 % 32) p.1
  (xs.map Prod.fst, xs.foldl (fun f x => f ||| x.2) 0#6)

/-- A reserved L6 code in a block that is no NaN block (R221). -/
def Operand.reserved (o : Operand) : Bool :=
  isSix o.ty && (o.codes.zip (rangeFrom 0 o.codes.length)).any fun r =>
    (r.1.zip (rangeFrom 0 r.1.length)).any fun e => e.1 == reservedL6 && o.scale r.2 (e.2 / 64) != 255

/-! ## Rotation routes (R230, 04 R81) -/

/-- Sends an operand on its stream route to the slot of another core's queue (R230): the route opens unless it is held. -/
def State.sendOperand (s : State) (cl q : Nat) (j : MJob) (isA : Bool) (o : Operand) : State :=
  let target := if isA then j.ringw else j.ringn
  let k := s.cluster cl
  let held := find (if isA then k.routeA else k.routeB) q 0
  let id := cl * 16 + q * 2 + (if isA then 0 else 1)
  let part := s.partOf j.name
  let dst := target / 8
  let s := if held = target + 1 then s else s.sendPkt cl dst part (.openRoute id)
  let s := s.sendPkt cl dst part (.operand target isA o j.core)
  s.modCluster cl fun k => if isA then { k with routeA := put k.routeA q (target + 1) } else { k with routeB := put k.routeB q (target + 1) }

/-! ## Failure (R226) -/

/-- The pins of a step are released. -/
def State.dropPins (s : State) (pins : List (Nat × Nat)) : State := pins.foldl (fun s l => s.unpinLine (sliceIn l.1 l.2) l.1) s

/-- The head job ends and leaves its queue; a step of it in progress ends with it. -/
def State.closeJob (s : State) (cl q : Nat) (j : MJob) (status : Nat) (fault : Option (FaultCode × Word)) : State :=
  let k := s.cluster cl
  let s := match k.mstep with
    | some m => if m.queue = q then (s.dropPins m.pins).modCluster cl fun k => { k with mstep := none } else s
    | none => s
  let s := s.setHead cl q none
  (s.endJob j status fault).closeRoutes cl q

/-! ## The grant (R215) -/

/-- The operands of a step and the lines pinned; slots that are used are freed. -/
def takeOperands (cl q : Nat) (j : MJob) : M (Operand × Operand × List (Nat × Nat)) := do
  let s ← gets id
  let c := s.jobClient j
  let k := s.cluster cl
  mods fun s => s.modCluster cl fun k =>
    { k with slotA := if j.op = .mrot ∧ j.a.isNone ∧ !j.areuse then drop k.slotA q else k.slotA
             slotB := if j.op = .mrot ∧ j.b.isNone then drop k.slotB q else k.slotB }
  guardFault (j.a.isSome || !j.areuse || (look k.keptA q).isSome) .illegal (engineX .illegal 0#64 4 0)
  let x ← fetchOperands c j.a j.b j.done
  let a := x.1.getD ((if j.areuse then look k.keptA q else look k.slotA q).getD {})
  let b := x.2.1.getD ((look k.slotB q).getD {})
  guardFault (matClass a.ty == matClass b.ty) .format (engineX .format 0#64 4 0)
  guardFault (!a.reserved && !b.reserved) .reservedCode (engineX .reservedCode 0#64 4 0)
  pure (a, b, x.2.2)

/-- A step is replayed: its lines are read again (R218, R231), and the replay is counted. -/
def replayStep (cl : Nat) (m : MStep) (j : MJob) : M Unit := do
  mods fun s => ((s.count (s.partOf j.name) 15 1).dropPins m.pins).modCluster cl fun k => { k with mstep := none }
  let s ← gets id
  let x ← fetchOperands (s.jobClient j) j.a j.b j.done
  let a := x.1.getD m.a
  let b := x.2.1.getD m.b
  guardFault (!a.reserved && !b.reserved) .reservedCode (engineX .reservedCode 0#64 4 0)
  mods fun s => (s.modCluster cl fun k => { k with mstep := some { queue := m.queue, a := a, b := b, pins := x.2.2 } }).setHead cl m.queue
    (some { j with replayed := true })

/-- The resident accumulator as a job's first step finds it (R224, R225). -/
def openAcc (j : MJob) : M (List Nat) := do
  if j.op = .mmas then pure (List.replicate 1024 0)
  else do
    let s ← gets id
    match s.readTagFault j.core j.tile 4096 0 with
    | some _ => failWith .format (engineX .format 0#64 4 ((j.tile : Nat) : Int))
    | none => do
      mods fun s => s.learn (s.clientAgent (s.jobClient j)) (s.poolKnown j.core j.tile 4096)
      let bs := s.poolBytes j.core j.tile 4096
      pure ((chunks 4 1025 bs).map natOfBytes)

/-- The slots a failed rotation was to use are freed (R229). -/
def State.freeSlots (s : State) (cl q : Nat) (j : MJob) : State :=
  s.modCluster cl fun k =>
    { k with slotA := if j.op = .mrot ∧ j.a.isNone ∧ !j.areuse then drop k.slotA q else k.slotA
             slotB := if j.op = .mrot ∧ j.b.isNone then drop k.slotB q else k.slotB }

/-- Grants the next step of a queue. -/
def State.grantStep (s : State) (cl q : Nat) (j : MJob) : State :=
  let go : M Unit := do
    let x ← takeOperands cl q j
    let acc ← if j.granted = 0 then openAcc j else gets fun s => find (s.cluster cl).macc q []
    mods fun s => s.modCluster cl fun k =>
      { k with macc := put k.macc q acc, mstep := some { queue := q, a := x.1, b := x.2.1, pins := x.2.2 } }
    mods fun s => s.setHead cl q (some { j with granted := j.granted + 1, replayed := false })
  let s := if j.granted = 0 then
      s.eventRecord (s.partOf j.name) 2 0 j.name j.core (wordOf (jobWord j.seq j.tag)) 0#64
    else s
  match go s with
  | .ok (_, t) => t.count (s.partOf j.name) 8 1
  | .error (.fault code x w) => ((s.lostBy (s.partOf j.name) cl (code, x, w)).freeSlots cl q j).closeJob cl q j 1 (some (code, x))
  | .error (.wait _ _) => s

/-- MATRIX_STEP_GRANT (R215): at a step boundary of the engine of cluster `turn.unit`, the arbiter grants a step. -/
def execMatrixStepGrant (σ : State) : Out :=
  let cl := σ.turn.unit
  if !clusterOk cl then .fault .noSuchUnit
  else if (σ.cluster cl).mstep.isSome then .next σ
  else
    let s := σ.passFences ((σ.cluster cl).mat.map fun q => matFences q.2).flatten
    let k := s.cluster cl
    let weight := fun q => if s.stepReady cl q then (s.matHead cl q).map fun j => s.weightOf j.name else none
    match grantQueue 8 weight k.matLast k.matDef with
    | (none, defs) => .next (s.modCluster cl fun k => { k with matDef := defs })
    | (some q, defs) =>
      match s.matHead cl q with
      | none => .next s
      | some j => .next ((s.modCluster cl fun k => { k with matLast := q, matDef := defs }).grantStep cl q j)

/-! ## The end of a step (R218, R229-R231) -/

/-- MATRIX_STEP_RETIRE (R218, R231): the step of the engine of cluster `turn.unit` retires. `turn.upset` is the outcome of
its residue check: one mismatch replays the step, a second, in this row or a later one, fails the job with CHECKER; uncorrectable
data fails it. -/
def execMatrixStepRetire (σ : State) : Out :=
  let cl := σ.turn.unit
  if !clusterOk cl then .fault .noSuchUnit
  else match (σ.cluster cl).mstep with
    | none => .next σ
    | some m =>
      match σ.matHead cl m.queue with
      | none => .next σ
      | some j =>
        let q := m.queue
        let mismatch := some (FaultCode.checker, engineX .checker 0#64 4 0)
        let replay := fun (after : State → Out) => match replayStep cl m j σ with
          | .ok (_, t) => after t
          | .error (.fault code x w) =>
            let s := ((σ.count (σ.partOf j.name) 15 1).dropPins m.pins).modCluster cl fun k => { k with mstep := none }
            .next ((s.lostBy (s.partOf j.name) cl (code, x, w)).closeJob cl q j 1 (some (code, x)))
          | .error (.wait _ _) => .next σ
        match σ.turn.upset with
        | .checkerTwice =>
          if j.replayed then .next (σ.closeJob cl q j 1 mismatch)
          else replay fun t => .next (t.closeJob cl q { j with replayed := true } 1 mismatch)
        | .badData => .next (σ.closeJob cl q j 1 (some (.dataPoison, engineX .dataPoison 0#64 4 0)))
        | .checkerOnce => if j.replayed then .next (σ.closeJob cl q j 1 mismatch) else replay .next
        | _ =>
          let k := σ.cluster cl
          let r := stepAll m.a m.b ((matClass m.a.ty).getD 0) (find k.macc q [])
          let s := σ.dropPins m.pins
          let s := s.modCluster cl fun k => { k with macc := put k.macc q r.1, keptA := put k.keptA q m.a, mstep := none }
          let j := { j with done := j.done + 1, flags := j.flags ||| r.2 }
          let j := if j.op = .mrot then { j with sendA := if j.areuse then none else some m.a, sendB := some m.b } else j
          let s := s.setHead cl q (some j)
          let s := match j.sendA with
            | some o => s.sendOperand cl q j true o
            | none => s
          .next (match j.sendB with
            | some o => s.sendOperand cl q j false o
            | none => s)

/-! ## Completion (R224, R225) -/

/-- Writes a tile's elements, n fastest, and tags every granule FP32. -/
def State.writeTile (s : State) (j : MJob) (acc : List Nat) : State :=
  let bs := (acc.map fun x => bytesOfNat 4 x).flatten
  s.poolWrite j.core j.tile bs 0 (s.knows j.agent)

/-- The merges of MMAS: element (n, m) of the reduction box, each at its home (06 R125). -/
def mergeAll (c : Client) (b : Box) (acc : List Nat) : M Unit :=
  (acc.zip (rangeFrom 0 acc.length)).forM fun p => do
    let o ← asEngine 5 0 (elemOffset b.entry (operandAt b (p.2 % 32) (p.2 / 32)))
    let _ ← addItem c b (o, p.1)
    pure ()

/-- MATRIX_JOB_COMPLETE (R224, R225, R229): the head job of queue `turn.sub` of the engine of cluster `turn.unit`, whose
steps have all retired and whose sends are accepted, writes back or merges, and completes. -/
def execMatrixJobComplete (σ : State) : Out :=
  let cl := σ.turn.unit
  let q := σ.turn.sub
  if !clusterOk cl || !decide (q < 8) then .fault .noSuchUnit
  else match σ.matHead cl q with
    | none => .next σ
    | some j =>
      if j.steps = 0 ∨ j.done ≠ j.steps ∨ j.sendA.isSome ∨ j.sendB.isSome then .next σ
      else
        let acc := find (σ.cluster cl).macc q []
        if j.op = .mmas then
          match mergeAll (σ.jobClient j) j.dst acc σ with
          | .ok (_, t) => .next (t.closeJob cl q j 0 none)
          | .error (.fault code x w) => .next ((σ.lostBy (σ.partOf j.name) cl (code, x, w)).closeJob cl q j 1 (some (code, x)))
          | .error (.wait _ _) => .next σ
        else .next ((σ.writeTile j acc).closeJob cl q j 0 none)

/-- Completes jobs with status 2. -/
def State.poisonJobs (s : State) : List MJob → State
  | [] => s
  | j :: js => (s.endJob j 2 none).poisonJobs js

/-- The jobs of a queue. -/
def jobsOf (es : List MatEntry) : List MJob := es.filterMap fun e => match e with
  | .job j => some j
  | .fence _ => none

/-- MATRIX_JOB_POISON (R228, 06 R140): a gated job at the head of queue `turn.sub` of cluster `turn.unit` that finds poison
completes with status 2, and with it every job queued behind it. -/
def execMatrixJobPoison (σ : State) : Out :=
  let cl := σ.turn.unit
  let q := σ.turn.sub
  if !clusterOk cl || !decide (q < 8) then .fault .noSuchUnit
  else match σ.matHead cl q with
    | none => .next σ
    | some j =>
      if j.granted ≠ 0 ∨ σ.gateOf j ≠ .poisoned then .next σ
      else
        let es := find (σ.cluster cl).mat q []
        let s := σ.modCluster cl fun k => { k with mat := put k.mat q (es.filter fun e => match e with
          | .job _ => false
          | .fence _ => true) }
        .next ((s.poisonJobs (jobsOf es)).closeRoutes cl q)

/-! ## Rotation slots (R229, R232) -/

/-- The first operand for a slot among the packets that reached a cluster, and the others. -/
def takeOperand (core : Nat) (isA : Bool) : List Packet → Option (Operand × Nat × List Packet)
  | [] => none
  | p :: ps =>
    match p.body with
    | .operand c a o fromCore =>
      if c = core ∧ a = isA then some (o, fromCore, ps)
      else (takeOperand core isA ps).map fun r => (r.1, r.2.1, p :: r.2.2)
    | _ => (takeOperand core isA ps).map fun r => (r.1, r.2.1, p :: r.2.2)

/-- The core's processes are SWAPPED: its slots accept nothing. -/
def State.coreSwapped (s : State) (core : Nat) : Bool :=
  (s.procs.any fun p => p.2.core == core && decide (p.2.state = .swapped))
    && !(s.procs.any fun p => p.2.core == core && decide (p.2.state = .resident))

/-- The sender's job learns that a slot took its operand. -/
def State.sendTaken (s : State) (fromCore : Nat) (isA : Bool) : State :=
  match s.matHead (fromCore / 8) (fromCore % 8) with
  | some j => s.setHead (fromCore / 8) (fromCore % 8)
      (some (if isA then { j with sendA := none } else { j with sendB := none }))
  | none => s

/-- ROTATION_SLOT_ACCEPT (R229): the free slot of queue `turn.sub` of cluster `turn.unit` takes the next operand that has
arrived for it; `turn.val` is 0 for the A slot, else the B slot is meant. -/
def execRotationSlotAccept (σ : State) : Out :=
  let cl := σ.turn.unit
  let q := σ.turn.sub
  let isA := decide (σ.turn.val = 0)
  if !clusterOk cl || !decide (q < 8) then .fault .noSuchUnit
  else
    let k := σ.cluster cl
    if (look (if isA then k.slotA else k.slotB) q).isSome ∨ σ.coreSwapped (8 * cl + q) then .next σ
    else match takeOperand (8 * cl + q) isA k.arrived with
      | none => .next σ
      | some (o, fromCore, rest) =>
        let s := σ.modCluster cl fun k =>
          if isA then { k with arrived := rest, slotA := put k.slotA q o } else { k with arrived := rest, slotB := put k.slotB q o }
        .next (s.sendTaken fromCore isA)

/-! ## The write-back port (R235) -/

/-- MRD: the tile's elements, converted, to the destination; `false` while an implicit fence is on its way. -/
def readOut (j : MJob) : M (Bool × BitVec 6) := do
  let s ← gets id
  let cl := s.jobClient j
  match s.readTagFault j.core j.tile 4096 0 with
  | some _ => failWith .format (engineX .format 0#64 4 ((j.tile : Nat) : Int))
  | none => do
    mods fun s => s.learn (s.clientAgent cl) (s.poolKnown j.core j.tile 4096)
    let is := (chunks 4 1025 (s.poolBytes j.core j.tile 4096)).map fun b => ({ code := natOfBytes b } : Item)
    let c : CopyCmd := { dst := j.dst, tag := j.tag, rnd := j.rnd, core := j.core, ctx := j.ctx, name := j.name, act := j.act, handler := j.handler, count := 1024 }
    let ty := layType j.dst.entry
    let r ← convItems c 0#512 ty 0 is
    let dst ← (rangeFrom 0 1024).mapM c.dstOff
    let firsts := (chunks 64 1025 dst).map fun b => b.headD .zero
    let ps := dst.zip r.1
    if laySpace j.dst.entry = 1 then do
      let ok ← sendGroup cl c ps (if isBlock ty then firsts else []) r.2.1
      pure (ok, r.2.2)
    else do
      let _ ← writeGroup cl j.dst ps
      if isBlock ty then writeScales cl j.dst firsts r.2.1 else pure ()
      pure (true, r.2.2)

/-- WRITEBACK_PORT_OP (R235): MZERO or MRD at the head of queue `turn.sub` of cluster `turn.unit` runs. An MRD to another device
completes when its packets have left (18 R380). In a cluster that is pre-empted none begins, and one that has begun completes
(R232). -/
def execWritebackPortOp (σ : State) : Out :=
  let cl := σ.turn.unit
  let q := σ.turn.sub
  if !clusterOk cl || !decide (q < 8) then .fault .noSuchUnit
  else
    let s := σ.passFences (matFences (find (σ.cluster cl).mat q []))
    match s.matHead cl q with
    | none => .next s
    | some j =>
      if (s.cluster cl).preempt.isSome && !j.sent then .next s
      else
      match j.op with
      | .mzero => .next ((s.writeTile j (List.replicate 1024 0)).closeJob cl q j 0 none)
      | .mrd =>
        if j.sent then .next (if s.packetsOut j.core j.ctx then s else s.closeJob cl q j 0 none)
        else (match readOut j s with
          | .ok ((true, f), t) =>
            let j := { j with flags := f, sent := true }
            .next (if laySpace j.dst.entry = 1 then t.setHead cl q (some j) else t.closeJob cl q j 0 none)
          | .ok ((false, _), t) => .next t
          | .error (.fault code x w) => .next ((s.lostBy (s.partOf j.name) cl (code, x, w)).closeJob cl q j 1 (some (code, x)))
          | .error (.wait _ _) => .next s)
      | _ => .next s

end Sys2Proof.Machine
end

