-- ==== Sys2Proof/Machine/Msg.lean ====
section
/-!
DEFINITION. The MSG group (13 R301-R324, 14 R344, R345): CHNEW, SEND, SENDE, ECLOSE, EINFO, EBIND, EMASK, SPAWN, HEND,
HSEAL, RATESET, RATEGET.
-/

namespace Sys2Proof.Machine

/-! ## End registers (R300) -/

/-- The end in register `k`: EMPTY, RESERVED, or one sent or closed by the activation raises END_INVALID. -/
def heldEnd (k : Nat) : M EndReg := do
  let p ← myProc
  let c ← me
  let r := p.endAt k
  guardFault (decide (r.state = .held) && !c.gone.contains k) .endInvalid (wordOf k)
  pure r

/-- A send end. -/
def sendEnd (k : Nat) : M EndReg := do
  let r ← heldEnd k
  guardFault (!hRecv r.handle) .endInvalid (wordOf k)
  pure r

/-- The registers of an end list (R312): one, or two distinct ones when bit 15 is set. -/
def endList (v : Word) : M (List Nat) := do
  let a := fieldOf v 5 0
  let b := fieldOf v 13 8
  let two := v.getLsbD 15
  require (fieldOf v 63 16 == 0 && !v.getLsbD 14 && fieldOf v 7 6 == 0 && (two || b == 0) && !(two && a == b))
  pure (if two then [a, b] else [a])

/-- An end may be carried (R312): it has the right MV. -/
def carriable (k : Nat) : M Unit := do
  let r ← heldEnd k
  guardFault (hMv r.handle) .endInvalid (wordOf k)

/-- The channel of an end is in stream mode. The ends of such a channel never move (R299), so that its record stands on
the device of the send end's holder. -/
def State.streamMode (s : State) (h : BitVec 128) : Bool := match s.record (hChid h) with
  | some c => c.strm
  | none => false

/-- Registers that the activation has sent or closed. -/
def markGone (ks : List Nat) : M Unit := modMe fun c => { c with gone := c.gone ++ ks }

/-! ## CHNEW (R303) -/

/-- The lowest free channel index. -/
def State.freeIndex (s : State) : Option Nat :=
  (rangeFrom 0 (min (2 ^ 24) (s.chans.length + 1))).find? fun k => (look s.chans k).isNone

/-- A new channel: its record at the home, its two ends in registers `sr` and `rr` of a process of a core. -/
def State.makeChan (s : State) (idx core slot sr rr cap : Nat) (strm rate mv rt : Bool) (home : Nat) : State :=
  let chid := s.devidx * 2 ^ 24 + idx
  let name := (s.proc slot).name
  let c : Chan := { sst := .here, rst := .here, sloc := core, rloc := core, sname := name, rname := name, cap := cap,
                    strm := strm, rate := rate, home := home, sreg := sr, rreg := rr }
  let s := { s with chans := put s.chans idx c }
  let s := s.modEnd slot sr fun _ =>
    { state := .held, handle := mkHandle chid 0 0 home rt mv false, loc := some core }
  let s := s.modEnd slot rr fun _ => { state := .held, handle := mkHandle chid 0 0 home rt mv true }
  s.modCore core fun k => { k with inboxes := k.inboxes ++ [{ chid := chid, home := home, reg := rr, slot := slot, cap := cap }] }

/-- The two registers that CHNEW takes. -/
def Proc.chanRegs (p : Proc) (v : Word) : Option (Nat × Nat) :=
  if v.getLsbD 15 then
    let s := fieldOf v 21 16
    let r := fieldOf v 29 24
    if (p.endAt s).state = .empty ∧ (p.endAt r).state = .empty then some (s, r) else none
  else match p.freeEnds 2 with
    | some (s :: r :: _) => some (s, r)
    | _ => none

/-- A request of CHNEW is well formed. -/
def chnewOk (v : Word) : Bool :=
  let pick := v.getLsbD 15
  let cap := fieldOf v 6 0
  fieldOf v 63 30 == 0 && fieldOf v 23 22 == 0 && fieldOf v 14 10 == 0 && fieldOf v 7 7 == 0
    && decide (1 ≤ cap ∧ cap ≤ 64) && (pick || (fieldOf v 29 24 == 0 && fieldOf v 21 16 == 0))
    && !(pick && fieldOf v 29 24 == fieldOf v 21 16)

/-- CHNEW. The home is a slice of the creating core's cluster, which the manual leaves open (log 16). -/
def execChnew (d r : BitVec 5) (σ : State) : Out :=
  aHalf (.chnew d r) (fun _ => do
    let v ← readA r
    require (chnewOk v)
    let s ← gets id
    match s.self.chanRegs v with
    | none => do
      writeA d 0#64
      setStatus 0#64
      pure .retire
    | some (sr, rr) =>
      match s.freeIndex with
      | none => do
        writeA d 0#64
        setStatus 2#64
        pure .retire
      | some idx => do
        let core := s.turn.core
        let strm := v.getLsbD 9
        mods fun s => s.makeChan idx core s.activity.slot sr rr (fieldOf v 6 0) strm (v.getLsbD 8) (!strm) true
          (core / 8 * 4 + idx % 4)
        writeA d (wordOf (sr + rr * 256))
        setStatus 1#64
        pure .retire) σ

/-! ## SEND, SENDE, ECLOSE (R307, R312, R317, R318) -/

/-- SEND -/
def execSend (f n : BitVec 5) (e : BitVec 6) (σ : State) : Out :=
  aHalf (.send f n e) (fun _ => do
    let c ← me
    let _ ← sendEnd e.toNat
    let ws ← regsAt f 0 n.toNat
    sendEntry (.send e.toNat ws []) c.q3 (pure ())) σ

/-- SENDE -/
def execSende (f n l : BitVec 5) (e : BitVec 6) (σ : State) : Out :=
  aHalf (.sende f n l e) (fun _ => do
    let c ← me
    let v ← readA l
    let es ← endList v
    let x ← sendEnd e.toNat
    let s ← gets id
    es.forM fun k => do
      carriable k
      guardFault (k != e.toNat && !s.streamMode x.handle) .endInvalid (wordOf k)
    let ws ← regsAt f 0 n.toNat
    sendEntry (.send e.toNat ws es) c.q3 (markGone es)) σ

/-- ECLOSE -/
def execEclose (e : BitVec 6) (σ : State) : Out :=
  aHalf (.eclose e) (fun _ => do
    let c ← me
    let _ ← heldEnd e.toNat
    sendEntry (.close e.toNat) c.q3 (markGone [e.toNat])) σ

/-! ## EINFO, EBIND, EMASK (R304-R306) -/

/-- Selector 2 of EINFO. -/
def EndReg.info (r : EndReg) : Word :=
  wordOf (at_ r.bind 6 0 + (if r.hold then 64 else 0) + (if r.enLanded then 128 else 0) + (if r.enMoved then 256 else 0)
    + (if r.pcl then 512 else 0))

/-- EINFO. A register that the activation has sent or closed and not yet committed still holds its end (log 17). -/
def execEinfo (d sel : BitVec 5) (e : BitVec 6) (σ : State) : Out :=
  aHalf (.einfo d sel e) (fun _ => do
    let p ← myProc
    let r := p.endAt e.toNat
    if r.state = .held then do
      writeA d (match sel.toNat with
        | 0 => wordOf (fieldOf r.handle 127 64)
        | 1 => wordOf (fieldOf r.handle 63 0)
        | _ => r.info)
      setStatus 1#64
      pure .retire
    else do
      writeA d 0#64
      setStatus 0#64
      pure .retire) σ

/-- A handler of a process is valid (R290). -/
def Proc.handlerOk (p : Proc) (h : Nat) : Bool := (find p.handlers h 0#64).getLsbD 56

/-- EBIND -/
def execEbind (h : BitVec 5) (e : BitVec 6) (σ : State) : Out :=
  aHalf (.ebind h e) (fun _ => do
    let v ← readA h
    let p ← myProc
    require (decide (v.toNat < 64) && (v == 0#64 || p.handlerOk v.toNat))
    let r ← heldEnd e.toNat
    guardFault (hRecv r.handle) .endInvalid (wordOf e.toNat)
    mods fun s => s.modEnd s.activity.slot e.toNat fun r => { r with bind := v.toNat }
    pure .retire) σ

/-- The registration of an end of a channel that landed at a core of a device is still on its way to the home (13 R315). -/
def State.landingOut (s : State) (dev core chid : Nat) : Bool :=
  let mine := fun (p : Packet) => match p.body with
    | .landing h name n _ _ => decide (devOf name = dev) && decide (n = core) && decide (hChid h = chid)
    | _ => false
  s.clusters.any fun e =>
    e.2.arrived.any mine || (e.2.router.inp.any fun q => q.2.any mine) || e.2.router.out.any fun q => q.2.any mine

/-- A request at the home of a channel: at once on this device, once the core's own registration there has been applied
(13 R298); else the instruction waits for the reply. -/
def askHome (q : HomeReq) (home : Nat) (dest : BitVec 5) (status : Bool) : M Disp := do
  let s ← gets id
  if chDev q.chid = s.devidx then do
    if s.landingOut s.devidx s.turn.core q.chid then waitFor .atomicPending else pure ()
    let r := s.homeAsk q
    match r.2.2.1 with
    | some code => failWith code 0#64
    | none => do
      mods fun _ => r.2.2.2
      writeA dest r.1
      if status then setStatus (wordOf r.2.1) else pure ()
      pure .retire
  else
    sendRequest { kind := .home, dest := dest, setsStatus := status } .atomicPending fun id s =>
      s.toHome s.turn.core q.chid home s.activity.part (.ask s.devidx s.turn.core s.turn.ctx id q)

/-- An instruction whose request is out waits for its reply. -/
def unlessPending (body : M Disp) : M Disp := do
  let c ← me
  if c.pend.isSome then waitFor .atomicPending else body

/-- EMASK (20 R384) -/
def execEmask (m : BitVec 5) (e : BitVec 6) (σ : State) : Out :=
  aHalf (.emask m e) (fun _ => unlessPending do
    let v ← readA m
    let r ← heldEnd e.toNat
    require (decide (v.toNat < 8) && (hRecv r.handle || !v.getLsbD 0))
    mods fun s => s.modEnd s.activity.slot e.toNat fun r =>
      { r with hold := v.getLsbD 0, enLanded := v.getLsbD 1, enMoved := v.getLsbD 2 }
    askHome (.emask (hChid r.handle) (hRecv r.handle) (v.getLsbD 1) (v.getLsbD 2)) (hHome r.handle) 0#5 false) σ

/-! ## SPAWN (R321) -/

/-- SPAWN -/
def execSpawn (b a l : BitVec 5) (n : BitVec 6) (σ : State) : Out :=
  aHalf (.spawn b a l n) (fun _ => do
    let c ← me
    let w0 ← regAt b 0
    let w1 ← regAt b 1
    require (decide (w0.toNat < 2 ^ 14 ∧ w1.toNat < 2 ^ 22))
    let s ← gets id
    guardFault (coreOk w0.toNat) .layout 0#64
    guardFault (s.coreInPart w0.toNat s.activity.part) .violation 0#64
    let es ← if l = 0#5 then pure [] else do
      let v ← readA l
      endList v
    es.forM carriable
    let args ← regsAt a 0 n.toNat
    sendEntry (.spawn w0.toNat (fieldOf w1 15 0) (fieldOf w1 21 16) args es) c.q3 (markGone es)) σ

/-! ## HEND, HSEAL (R323, R324) -/

/-- What the end of an activation releases for the next one from its end or queue (19 R383); the core keeps it for an end that
has left. -/
def State.passOn (s : State) (a : Activation) (know : Know) : State :=
  match a.kind with
  | .data =>
    (match a.msg with
    | none => s
    | some m => match (s.proc a.slot).holds? m.chid true with
      | some k => s.modEnd a.slot k fun r => { r with know := know }
      | none => s.modCore (s.proc a.slot).core fun c =>
        { c with endKnow := put c.endKnow m.chid (joinKnow (find c.endKnow m.chid []) know) })
  | .event => s.modProc a.slot fun p => { p with evtKnow := know }
  | _ => s

/-- The activation of a context ends; with `exit` its process starts no other and exits when none runs (R324). -/
def State.endActivation (s : State) (n k : Nat) (exit : Bool) : State :=
  let c := s.ctx n k
  match c.act with
  | none => s.freeCtx n k
  | some a =>
    let s := s.endStreams n k
    let s := s.orPflags a.slot c.flags
    let s := s.passOn a (s.knows (agentOf s.devidx n k))
    let s := s.freeCtx n k
    let s := if exit then s.modProc a.slot fun p => { p with exiting := true } else s
    s.exitIfIdle a.slot

/-- HEND -/
def execHend (x : BitVec 1) (σ : State) : Out :=
  aHalf (.hend x) (fun _ => do
    match ← sealNow with
    | some d => pure d
    | none => do
      mods fun s => (s.count s.activity.part 2 1).endActivation s.turn.core s.turn.ctx (x == 1#1)
      pure .left) σ

/-- HSEAL -/
def execHseal (σ : State) : Out :=
  aHalf .hseal (fun _ => do
    match ← sealNow with
    | some d => pure d
    | none => pure .retire) σ

/-! ## RATESET, RATEGET (14 R344, R345) -/

/-- RATESET -/
def execRateset (r : BitVec 5) (e : BitVec 6) (σ : State) : Out :=
  aHalf (.rateset r e) (fun _ => unlessPending do
    let w ← readA r
    let x ← heldEnd e.toNat
    guardFault (hRt x.handle) .protection 0#64
    require (fieldOf w 63 32 == 0 && fieldOf w 30 25 == 0 && fieldOf w 7 6 == 0)
    askHome (.rateset (hChid x.handle) w) (hHome x.handle) 0#5 true) σ

/-- RATEGET -/
def execRateget (r : BitVec 5) (e : BitVec 6) (σ : State) : Out :=
  aHalf (.rateget r e) (fun _ => unlessPending do
    let x ← heldEnd e.toNat
    askHome (.rateget (hChid x.handle)) (hHome x.handle) r true) σ

end Sys2Proof.Machine
end

