-- ==== Sys2Proof/Machine/Groups.lean ====
section
/-!
DEFINITION. The GRP group (14 R349-R353): GNAME, GSTV, GHOLD, GWAIT.
-/

namespace Sys2Proof.Machine

/-- GNAME (R349) -/
def execGname (d : BitVec 5) (e : BitVec 6) (σ : State) : Out :=
  aHalf (.gname d e) (fun _ => unlessPending do
    let x ← heldEnd e.toNat
    askHome (.gname (hChid x.handle) (hRecv x.handle)) (hHome x.handle) d true) σ

/-- One beat of a view read by the A half: 64 bytes, inactive lanes zero. -/
def readOneBeat (o : Opnd) : M (BitVec 512) := do
  let n := zCount o.view
  let ks := rangeFrom 0 n
  let all := BitVec.allOnes 64
  let _ ← checkSources [{ srcs := [o], n := n, lanes := laneCount o.ty }] all
  let s ← gets id
  match (if o.inPool then s.poolReady o all (laneCount o.ty) ks else .go) with
  | .stall why q => fun _ => .error (.wait why q)
  | .fault code x => failWith code x
  | .go => do
    let codes ← readBeat [o] all (laneCount o.ty) 0 n
    pure (packLanes (laneBits o.ty) (codes.map fun c => c.headD 0))

/-- The scope at which a register store leaves (R350): HMOD SCOPE, else DEVICE on this device and POD for another. -/
def gstvScope (own : Bool) (h : Hints) : Nat := if h.hmod.scope ≠ 0 then h.hmod.scope else if own then 5 else 6

/-- GSTV (R350). The name is the low 32 bits of its register. -/
def execGstv (n o v : BitVec 5) (σ : State) : Out :=
  aHalf (.gstv n o v) (fun h => do
    let c ← me
    let name ← readA n
    let off ← readA o
    let x ← viewOpnd v.toNat false
    require (x.kind != .queue && x.kind != .stream)
    require (off.toNat % 64 == 0 && decide (off.toNat < 8192))
    require (decide (zCount x.view ≤ laneCount x.ty))
    let target := name.toNat % 2 ^ 32
    guardFault (decide (devOf target < 192)) .layout 0#64
    let s ← gets id
    let own := devOf target == s.devidx
    require (own || decide (6 ≤ gstvScope own h))
    let w ← readOneBeat x
    let a := s.activity
    sendEntry (.gstv { target := target, off := off.toNat, data := [w], ty := x.ty, name := a.name, core := s.turn.core,
                       ctx := s.turn.ctx, part := a.part, act := a.id, scope := gstvScope own h,
                       stamp := if h.hmod.ord then [1] else [] }) c.q3 (pure ())) σ

/-- The granules of a hold (R352): the first and their number. -/
def holdRange (o n : BitVec 5) : M (Nat × Nat) := do
  let off ← readA o
  let k ← readA n
  let p ← myProc
  require (off.toNat % 64 == 0 && decide (1 ≤ k.toNat ∧ k.toNat ≤ 128)
    && decide (off.toNat + 64 * k.toNat ≤ p.land.2))
  pure (off.toNat / 64, k.toNat)

/-- The mask of `n` granules from `g`. -/
def holdMask (g n : Nat) : BitVec 128 := BitVec.ofNat 128 (at_ (2 ^ n - 1) n g)

/-- GHOLD (R352) -/
def execGhold (o n : BitVec 5) (σ : State) : Out :=
  aHalf (.ghold o n) (fun _ => do
    let r ← holdRange o n
    let s ← gets id
    modMyProc fun p =>
      { p with holds := p.holds ||| holdMask r.1 r.2, armed := (rangeFrom r.1 r.2).foldl (fun m g => put m g s.cyc) p.armed }
    pure .retire) σ

/-- GWAIT (R353) -/
def execGwait (o n : BitVec 5) (σ : State) : Out :=
  aHalf (.gwait o n) (fun _ => do
    let r ← holdRange o n
    let p ← myProc
    if p.holds &&& holdMask r.1 r.2 ≠ 0#128 then waitFor .viewHold
    else do
      mods fun s => s.learn s.agent p.landKnow
      pure .retire) σ

end Sys2Proof.Machine
end

