-- ==== Sys2Proof/Machine/Landing.lean ====
section
/-!
DEFINITION. Stores that land in registers (14 R347-R351, 06 R130): the delivery of a GSTV or HALO push by the state of its
target, STALE_NAME, the partition rule, the order of one context's stores, and what a HALO's sender learns.
-/

namespace Sys2Proof.Machine

/-! ## Packets that reached a cluster -/

/-- The channel whose home record a packet reads or changes (13 R298). -/
def PBody.homeChid : PBody → Option Nat
  | .toHome m => some m.chid
  | .landing h _ _ _ _ => some (hChid h)
  | .closeMark c _ _ | .recvClose c _ _ | .depart c _ _ _ _ _ _ _ _ | .rateReport c _ | .rateAck c _ _ | .tookParked c _ _ => some c
  | .ask _ _ _ _ q => some q.chid
  | _ => none

/-- A packet that waits at a home for another one, and holds up nothing of its channel: a landing whose end has left with a
departure that is still on its way (13 R312, R315), and a request of a core whose own registration is (20 R384). -/
def State.waitsTurn (s : State) : PBody → Bool
  | .landing h _ _ _ _ => (match s.record (hChid h) with
    | some c =>
      let ahead := (hMoves h + 2 ^ 16 - (if hRecv h then c.mvr else c.mvs)) % 2 ^ 16
      decide (0 < ahead ∧ ahead < 2 ^ 15)
    | none => false)
  | .ask dev core _ _ q => s.landingOut dev core q.chid
  | _ => false

/-- The first packet of a list whose body a test takes, and the others. A home applies what concerns one record in arrival order
(13 R298): `seen` are the channels for which an earlier packet stands. -/
def takeInTurn (want waits : PBody → Bool) : List Nat → List Packet → Option (Packet × List Packet)
  | _, [] => none
  | seen, p :: ps =>
    let late := match p.body.homeChid with
      | some c => seen.contains c
      | none => false
    if want p.body && !late && !waits p.body then some (p, ps)
    else
      let seen := if waits p.body then seen else p.body.homeChid.toList ++ seen
      (takeInTurn want waits seen ps).map fun r => (r.1, p :: r.2)

/-- The first packet at the local port of a cluster that a test takes and whose turn it is, and the cluster without it. One at a
sleeping cluster waits for the exit (22 R400). -/
def State.takeArrived (s : State) (cl : Nat) (want : PBody → Bool) : Option (Packet × State) :=
  if (s.cluster cl).idle ≠ .run then none
  else match takeInTurn want s.waitsTurn [] (s.cluster cl).arrived with
  | some (p, rest) => some (p, s.modCluster cl fun c => { c with arrived := rest })
  | none => none

/-! ## Writing a landing region -/

/-- Bytes of a granule. -/
def granuleBytes (w : BitVec 512) : List Byte := bytesOfNat 64 w.toNat

/-- The image of a process that is SWAPPED. -/
def State.imageOfSlot (s : State) (slot : Nat) : Option Nat := (s.images.find? fun e => e.2.slots.contains slot).map Prod.fst

/-- Writes granules into the pool and the tags of an image (14 R347). -/
def Image.land (im : Image) (off : Nat) (data : List (BitVec 512)) (ty : Nat) (know : Know) : Image :=
  let bs := (data.map granuleBytes).flatten
  { im with
    pool := writeBytes im.pool off bs
    tags := (granulesOf off bs.length).foldl (fun t g => put t g (tagOf ty)) im.tags
    poolKnow := (wordsOf off bs.length).foldl (fun k w => put k w know) im.poolKnow }

/-- HCNT with the counter of a side one higher (06 R130). -/
def hcntInc (v : Word) (side : Nat) : Word := setField v (16 * side + 15) (16 * side) ((fieldOf v (16 * side + 15) (16 * side) + 1) % 65536)

/-- The granules are written whole, their holds are released, and a push is counted (06 R130, 14 R350). A hold that was armed
in this clock stays (14 R352). -/
def State.applyLanding (s : State) (slot : Nat) (g : Landing) : State :=
  let p := s.proc slot
  let off := p.land.1 + g.off
  let n := g.data.length
  let s :=
    if p.state = .swapped then
      match s.imageOfSlot slot with
      | some k => { s with images := put s.images k ((find s.images k {}).land off g.data g.ty g.know) }
      | none => s
    else (g.data.zip (rangeFrom 0 n)).foldl (fun s e => s.poolWrite p.core (off + 64 * e.2) (granuleBytes e.1) g.ty g.know) s
  let kept := (rangeFrom (g.off / 64) n).foldl (fun (m : BitVec 128) k =>
    if look p.armed k = some s.cyc then m ||| holdMask k 1 else m) 0#128
  s.modProc slot fun p =>
    { p with
      holds := p.holds &&& ~~~(holdMask (g.off / 64) n &&& ~~~kept)
      landKnow := joinKnow p.landKnow g.know
      hcnt := if g.halo then hcntInc p.hcnt g.side else p.hcnt }

/-! ## What the sender learns -/

/-- A push of a HALO of this device has been applied or dropped: `stale` for a stale name, `passed` for one that overran. Its
command stands in a hod queue or, for a supervisor's, at a system copy engine (06 R141). -/
def State.haloBack (s : State) (core tag : Nat) (stale passed : Bool) : State :=
  let mine := fun (e : HodEntry) => match e with
    | .cmd c => decide (c.op = .halo) && c.core == core && c.tag == tag && c.pushes != 0
    | .fence _ => false
  match (find (s.cluster (core / 8)).hod (2 * (core % 8) + tag / 32) [] ++ (find s.engines (engineOf core) {}).queue).find? mine with
  | some (.cmd c) =>
    s.replaceCopy c (some { c with pushes := c.pushes - 1, staleHit := c.staleHit || stale, overrun := c.overrun || passed })
  | _ => s

/-- The words of STALE_NAME (R348). -/
def staleEvt (g : Landing) (beyond : Bool) : Evt :=
  let w := g.data.headD 0#512
  { code := 3, name := g.target,
    detail := wordOf (at_ g.target 32 0 + at_ g.off 16 32 + (if g.halo then 2 ^ 48 else 0) + (if beyond then 2 ^ 49 else 0)),
    words := [wordOf (fieldOf w 63 0), wordOf (fieldOf w 127 64)] }


/-- A packet of the response class to the device of a sender. -/
def State.answerPod (s : State) (dev : Nat) (body : PodBody) : State := s.injectPkt { dst := dev, cls := 1, body := body }

/-- The sending process learns that its store was dropped. -/
def State.tellStale (s : State) (g : Landing) (beyond : Bool) : State :=
  let s := s.sendEvent g.core g.part g.name (staleEvt g beyond)
  if g.halo then s.haloBack g.core g.tag true false else s

/-- A store is dropped as stale, and counted on behalf of its sender's partition (23 R408). -/
def State.dropStale (s : State) (g : Landing) (beyond : Bool) : State :=
  let s := s.count g.part 19 1
  if devOf g.name = s.devidx then s.tellStale g beyond else s.answerPod (devOf g.name) (.stale g.name g.core g.ctx g.act g beyond)

/-- A context among some that holds an activation. -/
def ctxWith (act : Nat) (ctxs : Map Ctx) : Option Nat :=
  (ctxs.find? fun e => match e.2.act with
    | some a => a.id == act && decide (act ≠ 0)
    | none => false).map Prod.fst

/-- The core and the context that hold an activation, wherever it was resumed. -/
def State.holderOf (s : State) (act : Nat) : Option (Nat × Nat) :=
  s.cores.findSome? fun e => (ctxWith act e.2.ctxs).map fun k => (e.1, k)

/-- The image and the context in it that hold an activation. -/
def State.savedIn (s : State) (act : Nat) : Option (Nat × Nat) :=
  s.images.findSome? fun e => (ctxWith act e.2.ctxs).map fun k => (e.1, k)

/-- A saved context is frozen in its image: its next instructions are those that its routine would return to. -/
def State.freezeSaved (s : State) (key k : Nat) (x : Word) : State :=
  let im := find s.images key {}
  let c := find im.ctxs k {}
  let a := c.act.getD {}
  let running := decide (c.status = .running)
  let fa := if running then BitVec.ofNat 52 (fieldOf c.epca 51 0) else c.faulta
  let fe := if running then c.epce else c.faulte
  let fc := 3 * 256 + FaultCode.violation.toByte.toNat
  let c := { c with status := .frozen, faulta := fa, faulte := fe, faultc := BitVec.ofNat 10 fc, faultx := x }
  let ws := [fa.setWidth 64, fe.setWidth 64, x, 0#64, c.faultWord5 a, 0#64, 0#64]
  let s := { s with images := put s.images key { im with ctxs := put im.ctxs k c } }
  let s := if a.super then s else s.post a.part im.core 0 0 k fc a.name ws
  s.tellHost (faultWord0 0 0 im.core 0 k fc :: ws)

/-- A store to another partition's process (R348): a context that still holds the activation that issued it is frozen, else
the supervisor of its partition is told; the host is told in both cases. -/
def State.tellBreach (s : State) (g : Landing) : State :=
  let x := wordOf g.target
  let s := match s.holderOf g.act, s.savedIn g.act with
    | some (n, k), _ =>
      let c := s.ctx n k
      if c.status = .running then
        (s.setCtx n k { c with hints := [], pc := c.nextA }).park n k .violation 3 c.nextA c.nextE x 0#64
      else s.park n k .violation 3 c.faulta c.faulte x 0#64
    | none, some (key, k) => s.freezeSaved key k x
    | none, none =>
      let fc := FaultCode.violation.toByte.toNat
      let s := s.post g.part g.core 0 0 g.ctx fc g.name [0#64, 0#64, x, 0#64, 0#64, 0#64, 0#64]
      s.tellHost [faultWord0 0 0 g.core 0 g.ctx fc, 0#64, 0#64, x]
  if g.halo then s.haloBack g.core g.tag false false else s

/-- The breach is told to the sending device. -/
def State.dropBreach (s : State) (g : Landing) : State :=
  if devOf g.name = s.devidx then s.tellBreach g else s.answerPod (devOf g.name) (.breach g)

/-- A push was applied, or overran its target's region. -/
def State.haloDone (s : State) (g : Landing) (passed : Bool) : State :=
  if !g.halo then s
  else if devOf g.name = s.devidx then s.haloBack g.core g.tag false passed
  else s.answerPod (devOf g.name) (.halo g.core g.tag passed)

/-! ## Delivery (R347) -/

/-- A store at its target's device, by the state of the target's entry; `none` where it waits at ingress. One without granules was
discarded and only passes its turn. -/
def State.deliverLanding (s : State) (g : Landing) : Option State :=
  let slot := slotOf g.target
  let p := s.proc slot
  if g.data.isEmpty then some s
  else if g.target = 0 ∨ p.name ≠ g.target ∨ p.state = .exited then some (s.dropStale g false)
  else if p.part ≠ g.part then some (s.dropBreach g)
  else if p.land.2 < g.off + 64 * g.data.length then some (if g.halo then s.haloDone g true else s.dropStale g true)
  else match p.state with
    | .moving =>
      if 64 ≤ p.queued.length then none
      else some (s.modProc slot fun p => { p with queued := p.queued ++ [g] })
    | _ => some ((s.applyLanding slot g).haloDone g false)

/-- The next number of a pair of a context and a target name (R351). -/
def State.gstvExpected (s : State) (agent target : Nat) : Nat :=
  match s.gstvNext.find? fun e => e.1 == agent && e.2.1 == target with
  | some e => e.2.2.1
  | none => 0

/-- Sets the next number of a pair. -/
def State.setGstv (s : State) (agent target n : Nat) : State :=
  { s with gstvNext := s.gstvNext.filter (fun e => !(e.1 == agent && e.2.1 == target)) ++ [(agent, target, n, 0)] }

/-- The sender of a store as an agent. -/
def Landing.agent (g : Landing) : Nat := agentOf (devOf g.name) g.core g.ctx

/-- A packet of a push from another device: with the last of them the push is delivered whole (06 R130). -/
def State.gatherPush (s : State) (g : Landing) : Option State :=
  if g.whole ≤ g.data.length then s.deliverLanding g
  else
    let mine := fun (p : Landing) => p.agent == g.agent && p.seq == g.seq
    let parts := s.haloParts.filter mine ++ [g]
    let others := s.haloParts.filter fun p => !mine p
    let base := parts.foldl (fun m p => min m p.off) g.off
    if parts.foldl (fun n p => n + p.data.length) 0 < g.whole then some { s with haloParts := others ++ parts }
    else
      let data := ((rangeFrom 0 parts.length).map fun k => (parts.filter fun p => p.off == base + 256 * k).map Landing.data).flatten.flatten
      ({ s with haloParts := others } : State).deliverLanding { g with off := base, data := data }

/-- A store from another device at its I/O die: GSTVs of a pair are applied in their order (R351); `none` where one waits
at ingress. -/
def State.orderedLanding (s : State) (g : Landing) : Option State :=
  if g.halo then s.gatherPush g
  else if g.seq ≠ s.gstvExpected g.agent g.target then some { s with gstvWait := s.gstvWait ++ [g] }
  else (s.deliverLanding g).map fun t => t.setGstv g.agent g.target (g.seq + 1)

/-- The first store of a list whose turn it is and which its target can take, and the others. -/
def State.firstGstv (s : State) : List Landing → Option (State × List Landing)
  | [] => none
  | g :: gs =>
    match (if g.seq = s.gstvExpected g.agent g.target then s.deliverLanding g else none) with
    | some t => some (t.setGstv g.agent g.target (g.seq + 1), gs)
    | none => (s.firstGstv gs).map fun r => (r.1, g :: r.2)

/-- Stores that waited for an earlier one of their pair, or for room at their target, follow. -/
def State.releaseGstv (s : State) : Nat → State
  | 0 => s
  | n + 1 => match s.firstGstv s.gstvWait with
    | none => s
    | some (t, rest) => ({ t with gstvWait := rest } : State).releaseGstv n

/-- A GSTV that was discarded passes its turn (R351, 12 R275). -/
def State.passGstv (s : State) (g : Landing) : State :=
  if g.halo then s
  else
    let t := (s.orderedLanding { g with data := [] }).getD s
    t.releaseGstv (t.gstvWait.length + 1)

/-- Stores that were queued while the process was MOVING are applied in arrival order, and then those that waited at ingress
(R347). -/
def State.applyQueued (s : State) (slot : Nat) : State :=
  let q := (s.proc slot).queued
  let s := s.modProc slot fun p => { p with queued := [] }
  let s := q.foldl (fun s g => (s.applyLanding slot g).haloDone g false) s
  s.releaseGstv s.gstvWait.length

/-- The first store or push at a cluster whose turn it is (R351) is delivered. -/
def State.landAt (s : State) (cl : Nat) (halo : Bool) : State :=
  match s.takeArrived cl fun b => match b with
    | .store g => g.halo == halo && (halo || decide (g.seq ≤ s.gstvExpected g.agent g.target))
    | _ => false with
  | some (p, t) => (match p.body with
    | .store g =>
      if halo || decide (g.seq < s.gstvExpected g.agent g.target) then (t.deliverLanding g).getD s
      else ((t.deliverLanding g).map fun t => t.setGstv g.agent g.target (g.seq + 1)).getD s
    | _ => s)
  | none => s

/-- LANDING_STORE_ARRIVAL (R347, R350): the oldest GSTV store that has reached cluster `turn.unit`. -/
def execLandingStoreArrival (σ : State) : Out :=
  if !clusterOk σ.turn.unit then .fault .noSuchUnit else .next (σ.landAt σ.turn.unit false)

/-- HALO_PUSH_ARRIVAL (06 R130): the oldest HALO push that has reached cluster `turn.unit`. -/
def execHaloPushArrival (σ : State) : Out :=
  if !clusterOk σ.turn.unit then .fault .noSuchUnit else .next (σ.landAt σ.turn.unit true)

end Sys2Proof.Machine
end

