-- ==== Sys2Proof/Machine/Vector.lean ====
section
/-!
DEFINITION. Elementwise E instructions (09 R189-R205): VARITH, the immediate forms, comparisons, selection and predicates,
conversions and block formats.
-/

namespace Sys2Proof.Machine

/-! ## Shared checks -/

/-- The rounding mode of an instruction (07 R160). -/
def roundOf (h : Hints) : M Nat := do
  let c ← me
  pure (if h.hmod.rnd = 0 then c.rmode.toNat else h.hmod.rnd - 1)

/-- RND on an integer type raises ILLEGAL (R193). -/
def rndRule (i : Instr) (h : Hints) (ty : Nat) : M Unit :=
  guardFault (!(h.hmod.rnd != 0 && isIntType ty)) .illegal ((encode i).setWidth 64)

/-- A destination and sources of one type: views, then types (R191). -/
def operandsOf (d : BitVec 5) (srcs : List (BitVec 5)) (ty : Nat) : M (Opnd × List Opnd) := do
  let o ← viewOpnd d.toNat true
  let xs ← srcs.mapM fun r => viewOpnd r.toNat false
  let o ← o.typed ty
  let xs ← xs.mapM fun x => x.typed ty
  pure (o, xs)

/-- What an elementwise function does to the codes of its sources: the mode, the saturate bit, the element's position. -/
abbrev LaneFn := Nat → Bool → Nat → List Nat → Nat × BitVec 6

/-- What runs the beats of a plan with the function of a lane. -/
abbrev Driver := Plan → Hints → (Nat → List Nat → Nat × BitVec 6) → M Disp

/-- An elementwise instruction of one type, whose beats a driver runs. -/
def varithBy (run : Driver) (i : Instr) (d : BitVec 5) (srcs : List (BitVec 5)) (t : BitVec 4) (f : LaneFn) (h : Hints) : M Disp := do
  let ty := t.toNat
  rndRule i h ty
  let r ← operandsOf d srcs ty
  let p ← planOf (some r.1) r.2 (laneCount ty)
  let m ← roundOf h
  run p h (f m h.hmod.sat)

/-- An elementwise instruction of the core's own unit. -/
def varith (i : Instr) (d : BitVec 5) (srcs : List (BitVec 5)) (t : BitVec 4) (f : LaneFn) (h : Hints) : M Disp :=
  varithBy runEach i d srcs t f h

/-! ## Lane functions (R196-R198) -/

/-- Code `j` of the sources. -/
def src (xs : List Nat) (j : Nat) : Nat := xs.getD j 0

/-- The integer that a code of an integer type stands for. -/
def intVal (ty x : Nat) : Int :=
  if isSigned ty then signedOf (typeBits ty) x else ((x % 2 ^ typeBits ty : Nat) : Int)

/-- A function by exact values, rounded once, for F; by exact integers, wrapped or clamped, for I. -/
def byKind (ty : Nat) (f : Nat → List Val → Val) (g : List Int → Int) : LaneFn := fun m sat _ xs =>
  if isIntType ty then narrowInt (isSigned ty) sat (typeBits ty) (g (xs.map (intVal ty)))
  else encodeFloat ty m sat (f m (xs.map (decodeVal ty)))

/-- Value `j` of a list. -/
def valAt (vs : List Val) (j : Nat) : Val := vs.getD j (.fin false 0 0)
/-- Integer `j` of a list. -/
def intAt (vs : List Int) (j : Nat) : Int := vs.getD j 0

/-- VDIV (R197, R198). -/
def laneDiv (ty : Nat) : LaneFn := fun m sat _ xs =>
  if isIntType ty then
    let a := intVal ty (src xs 0)
    let b := intVal ty (src xs 1)
    if b = 0 then (2 ^ typeBits ty - 1, fDivZero) else (wrapTo (typeBits ty) (a.tdiv b), 0#6)
  else
    let a := decodeVal ty (src xs 0)
    let b := decodeVal ty (src xs 1)
    let zero : Bool := match a with
      | .fin _ n _ => n != 0 && b.isZero
      | _ => false
    let r := encodeFloat ty m sat (divVal a b)
    (r.1, r.2 ||| flagIf zero fDivZero)

/-- a before b in the order of VMIN and VMAX: −0 below +0. -/
def below (a b : Val) : Bool := ltVal a b || (a.isZero && b.isZero && a.isNeg && !b.isNeg)

/-- The lesser or the greater of two codes of a type, and INVALID for a signalling NaN; any NaN gives the canonical one. -/
def pick (ty : Nat) (greater : Bool) (x y : Nat) : Nat × BitVec 6 :=
  let a := decodeVal ty x
  let b := decodeVal ty y
  match nanRule ty [a, b] with
  | some r => r
  | none => (if (if greater then below a b else below b a) then y else x, 0#6)

/-- VABS and VNEG. -/
def laneSign (ty : Nat) (neg : Bool) : LaneFn := fun _ sat _ xs =>
  let x := src xs 0
  if isIntType ty then
    let a := intVal ty x
    narrowInt (isSigned ty) sat (typeBits ty) (if neg then -a else a.natAbs)
  else match nanRule ty [decodeVal ty x] with
    | some r => r
    | none =>
      let s := 2 ^ (typeBits ty - 1)
      (if neg then (if x < s then x + s else x - s) else x % s, 0#6)

/-- Shifts by n, the second source as unsigned: 0 left, 1 logically right, 2 arithmetically right. -/
def laneShift (ty kind : Nat) : LaneFn := fun _ _ _ xs =>
  let w := typeBits ty
  let x := src xs 0 % 2 ^ w
  let n := src xs 1 % 2 ^ w
  (if kind = 0 then (if w ≤ n then 0 else x * 2 ^ n % 2 ^ w)
   else if kind = 1 then (if w ≤ n then 0 else x / 2 ^ n)
   else wrapTo w ((signedOf w x).fdiv ((2 ^ min n w : Nat) : Int)), 0#6)

/-! ## VARITH (R196) -/

/-- VADD -/
def execVadd (d a b : BitVec 5) (t : BitVec 4) (σ : State) : Out :=
  eHalf (.vadd d a b t) (varith (.vadd d a b t) d [a, b] t
    (byKind t.toNat (fun m v => addVal m (valAt v 0) (valAt v 1)) fun v => intAt v 0 + intAt v 1)) σ

/-- VSUB -/
def execVsub (d a b : BitVec 5) (t : BitVec 4) (σ : State) : Out :=
  eHalf (.vsub d a b t) (varith (.vsub d a b t) d [a, b] t
    (byKind t.toNat (fun m v => addVal m (valAt v 0) (negVal (valAt v 1))) fun v => intAt v 0 - intAt v 1)) σ

/-- VMUL -/
def execVmul (d a b : BitVec 5) (t : BitVec 4) (σ : State) : Out :=
  eHalf (.vmul d a b t) (varith (.vmul d a b t) d [a, b] t
    (byKind t.toNat (fun _ v => mulVal (valAt v 0) (valAt v 1)) fun v => intAt v 0 * intAt v 1)) σ

/-- VFMA: zd is read after za and zb. -/
def execVfma (d a b : BitVec 5) (t : BitVec 4) (σ : State) : Out :=
  eHalf (.vfma d a b t) (varith (.vfma d a b t) d [a, b, d] t
    (byKind t.toNat (fun m v => addVal m (mulVal (valAt v 0) (valAt v 1)) (valAt v 2))
      fun v => intAt v 0 * intAt v 1 + intAt v 2)) σ

/-- VFMS -/
def execVfms (d a b : BitVec 5) (t : BitVec 4) (σ : State) : Out :=
  eHalf (.vfms d a b t) (varith (.vfms d a b t) d [a, b, d] t
    (byKind t.toNat (fun m v => addVal m (mulVal (valAt v 0) (valAt v 1)) (negVal (valAt v 2)))
      fun v => intAt v 0 * intAt v 1 - intAt v 2)) σ

/-- VNFMA -/
def execVnfma (d a b : BitVec 5) (t : BitVec 4) (σ : State) : Out :=
  eHalf (.vnfma d a b t) (varith (.vnfma d a b t) d [a, b, d] t
    (byKind t.toNat (fun m v => addVal m (valAt v 2) (negVal (mulVal (valAt v 0) (valAt v 1))))
      fun v => intAt v 2 - intAt v 0 * intAt v 1)) σ

/-- VDIV -/
def execVdiv (d a b : BitVec 5) (t : BitVec 4) (σ : State) : Out :=
  eHalf (.vdiv d a b t) (varith (.vdiv d a b t) d [a, b] t (laneDiv t.toNat)) σ

/-- VMIN -/
def execVmin (d a b : BitVec 5) (t : BitVec 4) (σ : State) : Out :=
  eHalf (.vmin d a b t) (varith (.vmin d a b t) d [a, b] t fun _ _ _ xs => pick t.toNat false (src xs 0) (src xs 1)) σ

/-- VMAX -/
def execVmax (d a b : BitVec 5) (t : BitVec 4) (σ : State) : Out :=
  eHalf (.vmax d a b t) (varith (.vmax d a b t) d [a, b] t fun _ _ _ xs => pick t.toNat true (src xs 0) (src xs 1)) σ

/-- VABS -/
def execVabs (d a : BitVec 5) (t : BitVec 4) (σ : State) : Out :=
  eHalf (.vabs d a t) (varith (.vabs d a t) d [a] t (laneSign t.toNat false)) σ

/-- VNEG -/
def execVneg (d a : BitVec 5) (t : BitVec 4) (σ : State) : Out :=
  eHalf (.vneg d a t) (varith (.vneg d a t) d [a] t (laneSign t.toNat true)) σ

/-- VAND -/
def execVand (d a b : BitVec 5) (t : BitVec 4) (σ : State) : Out :=
  eHalf (.vand d a b t) (varith (.vand d a b t) d [a, b] t fun _ _ _ xs => (src xs 0 &&& src xs 1, 0#6)) σ

/-- VOR -/
def execVor (d a b : BitVec 5) (t : BitVec 4) (σ : State) : Out :=
  eHalf (.vor d a b t) (varith (.vor d a b t) d [a, b] t fun _ _ _ xs => (src xs 0 ||| src xs 1, 0#6)) σ

/-- VXOR -/
def execVxor (d a b : BitVec 5) (t : BitVec 4) (σ : State) : Out :=
  eHalf (.vxor d a b t) (varith (.vxor d a b t) d [a, b] t fun _ _ _ xs => (src xs 0 ^^^ src xs 1, 0#6)) σ

/-- VNOT -/
def execVnot (d a : BitVec 5) (t : BitVec 4) (σ : State) : Out :=
  eHalf (.vnot d a t) (varith (.vnot d a t) d [a] t fun _ _ _ xs =>
    (2 ^ typeBits t.toNat - 1 - src xs 0 % 2 ^ typeBits t.toNat, 0#6)) σ

/-- VSHL -/
def execVshl (d a b : BitVec 5) (t : BitVec 4) (σ : State) : Out :=
  eHalf (.vshl d a b t) (varith (.vshl d a b t) d [a, b] t (laneShift t.toNat 0)) σ

/-- VSHR -/
def execVshr (d a b : BitVec 5) (t : BitVec 4) (σ : State) : Out :=
  eHalf (.vshr d a b t) (varith (.vshr d a b t) d [a, b] t (laneShift t.toNat 1)) σ

/-- VSHRA -/
def execVshra (d a b : BitVec 5) (t : BitVec 4) (σ : State) : Out :=
  eHalf (.vshra d a b t) (varith (.vshra d a b t) d [a, b] t (laneShift t.toNat 2)) σ

/-- VCLAMP: the VMAX rule, then the VMIN rule (R197). -/
def execVclamp (d a b : BitVec 5) (t : BitVec 4) (σ : State) : Out :=
  eHalf (.vclamp d a b t) (varith (.vclamp d a b t) d [a, b, d] t fun _ _ _ xs =>
    let x := pick t.toNat true (src xs 0) (src xs 1)
    let y := pick t.toNat false x.1 (src xs 2)
    (y.1, x.2 ||| y.2)) σ

/-- VMOV: bits unchanged. -/
def execVmov (d a : BitVec 5) (t : BitVec 4) (σ : State) : Out :=
  eHalf (.vmov d a t) (varith (.vmov d a t) d [a] t fun _ _ _ xs => (src xs 0, 0#6)) σ

/-- VBCAST: element 0 of za, whatever its count. -/
def execVbcast (d a : BitVec 5) (t : BitVec 4) (σ : State) : Out :=
  eHalf (.vbcast d a t) (fun h => do
    rndRule (.vbcast d a t) h t.toNat
    let r ← operandsOf d [a] t.toNat
    let p ← planOf (some r.1) (r.2.map fun o => { o with first := true }) (laneCount t.toNat)
    runEach p h fun _ xs => (src xs 0, 0#6)) σ

/-- VIOTA: the element's position in zd's walk. -/
def execViota (d : BitVec 5) (t : BitVec 4) (σ : State) : Out :=
  eHalf (.viota d t) (varith (.viota d t) d [] t fun m sat k _ =>
    if isIntType t.toNat then narrowInt (isSigned t.toNat) sat (typeBits t.toNat) (k : Nat)
    else encodeFloat t.toNat m sat (.fin false k 0)) σ

/-! ## Immediate forms (R199, 07 R164) -/

/-- The immediate of a VI instruction in a type: its codes for even and odd elements. -/
def viImm (h : Hints) (imm : BitVec 16) (ty : Nat) : M (Nat × Nat) := do
  let v := widen h imm
  let x := imm.toNat
  if ty = 0 then
    match h.himm with
    | [] => pure (x * 2 ^ 16, x * 2 ^ 16)
    | [_] => do
      require (decide (v.1 < 2 ^ 32))
      pure (v.1, v.1)
    | _ => illegal
  else if isIntType ty then
    let y := wrapTo (typeBits ty) (signedOf v.2 v.1)
    pure (y, y)
  else do
    require h.himm.isEmpty
    if ty = 1 ∨ ty = 2 then pure (x, x)
    else if ty = 3 ∨ ty = 4 then pure (x % 256, x / 256)
    else if ty = 5 then do
      require (x / 64 % 4 == 0 && x / 2 ^ 14 == 0)
      pure (x % 64, x / 256 % 64)
    else illegal

/-- An operand that is an immediate; its number in FAULTX is 31 (07 R151). -/
def immOpnd (ty : Nat) (u : Nat × Nat) : Opnd := { num := 31, kind := .imm u.1 u.2, ty := ty }

/-- An immediate form: the destination's view gives the type. -/
def viForm (i : Instr) (d : BitVec 5) (srcs : List (BitVec 5)) (imm : BitVec 16) (okType : Nat → Bool)
    (f : Nat → LaneFn) (h : Hints) : M Disp := do
  let o ← viewOpnd d.toNat true
  let xs ← srcs.mapM fun r => viewOpnd r.toNat false
  let ty := o.ty
  require (okType ty)
  rndRule i h ty
  let u ← viImm h imm ty
  let xs ← xs.mapM fun x => x.typed ty
  let p ← planOf (some o) (xs ++ [immOpnd ty u]) (laneCount ty)
  let m ← roundOf h
  runEach p h (f ty m h.hmod.sat)

/-- F and I types. -/
def okFI (ty : Nat) : Bool := isF ty || isIntType ty

/-- VADDI -/
def execVaddi (d a : BitVec 5) (i : BitVec 16) (σ : State) : Out :=
  eHalf (.vaddi d a i) (viForm (.vaddi d a i) d [a] i okFI fun ty =>
    byKind ty (fun m v => addVal m (valAt v 0) (valAt v 1)) fun v => intAt v 0 + intAt v 1) σ

/-- VMULI -/
def execVmuli (d a : BitVec 5) (i : BitVec 16) (σ : State) : Out :=
  eHalf (.vmuli d a i) (viForm (.vmuli d a i) d [a] i okFI fun ty =>
    byKind ty (fun _ v => mulVal (valAt v 0) (valAt v 1)) fun v => intAt v 0 * intAt v 1) σ

/-- VMAXI -/
def execVmaxi (d a : BitVec 5) (i : BitVec 16) (σ : State) : Out :=
  eHalf (.vmaxi d a i) (viForm (.vmaxi d a i) d [a] i okFI fun ty _ _ _ xs => pick ty true (src xs 0) (src xs 1)) σ

/-- VSETI -/
def execVseti (d : BitVec 5) (i : BitVec 16) (σ : State) : Out :=
  eHalf (.vseti d i) (viForm (.vseti d i) d [] i (fun ty => decide (ty ≤ 5) || isIntType ty) fun _ _ _ _ xs => (src xs 0, 0#6)) σ

/-! ## Comparisons and selection (R200, R201) -/

/-- Writes a predicate; p0 discards. -/
def setPred (k : BitVec 3) (v : Word) : M Unit := modMe fun c => if k = 0#3 then c else { c with p := c.p.set k.toNat v k.isLt }

/-- A condition of VCMP: 0 EQ, 1 NE, 2 LT, 3 LE, 4 GT, 5 GE, 6 UN, 7 OR; and INVALID. -/
def compareLane (ty cond x y : Nat) : Bool × BitVec 6 :=
  let a := decodeVal ty x
  let b := decodeVal ty y
  let un := a.isNan || b.isNan
  let snan := a.isSnan || b.isSnan
  let lt := ltVal a b
  let gt := ltVal b a
  let holds := match cond with
    | 0 => !un && !lt && !gt
    | 1 => un || lt || gt
    | 2 => !un && lt
    | 3 => !un && !gt
    | 4 => !un && gt
    | 5 => !un && !lt
    | 6 => un
    | _ => !un
  (holds, flagIf (if 2 ≤ cond ∧ cond ≤ 5 then un else snan) fInvalid)

/-- A word from its bits. -/
def wordBits (f : Nat → Bool) : Word := wordOf ((rangeFrom 0 64).foldl (fun n j => n + (if f j then 2 ^ j else 0)) 0)

/-- VCMP: one beat; lanes beyond the count give 0. -/
def execVcmp (a b : BitVec 5) (t : BitVec 4) (c p : BitVec 3) (σ : State) : Out :=
  eHalf (.vcmp a b t c p) (fun h => do
    let ty := t.toNat
    rndRule (.vcmp a b t c p) h ty
    let xs ← [a, b].mapM fun r => viewOpnd r.toNat false
    let xs ← xs.mapM fun x => x.typed ty
    let q ← planOf none xs (laneCount ty)
    require (decide (q.n ≤ q.lanes))
    beginBeats q h
    runBeats 1 q.ready (fun _ => do
      takeBeat q.srcs 0 q.n
      let k ← me
      let gov := k.eprog.gov
      let codes ← readBeat q.srcs gov q.lanes 0 q.n
      let rs := codes.map fun l => compareLane ty c.toNat (src l 0) (src l 1)
      let old := k.pred p
      addFlags ((rs.zip (rangeFrom 0 q.n)).foldl (fun f r => if laneOn gov q.lanes r.2 then f ||| r.1.2 else f) 0#6)
      setPred p (wordBits fun j =>
        if q.n ≤ j then false
        else if laneOn gov q.lanes j then (rs.getD j (false, 0#6)).1
        else !h.hmod.pz && old.getLsbD j)) 2) σ

/-- VSEL: bit j of the predicate applies to lane j of each beat. -/
def execVsel (d a b : BitVec 5) (t : BitVec 4) (p : BitVec 3) (σ : State) : Out :=
  eHalf (.vsel d a b t p) (fun h => do
    let c ← me
    let sel := c.pred p
    varith (.vsel d a b t p) d [a, b] t (fun _ _ k xs => (if laneOn sel (laneCount t.toNat) k then src xs 0 else src xs 1, 0#6)) h) σ

/-! ## Predicate operations (R202) -/

/-- A predicate computed where the governing predicate is on, else kept or cleared. -/
def predOp (d : BitVec 3) (h : Hints) (v : Word) : M Disp := do
  let c ← me
  let g := c.governor h
  setPred d (v &&& g ||| (if h.hmod.pz then 0#64 else c.pred d &&& ~~~g))
  pure .retire

/-- PAND -/
def execPand (a b d : BitVec 3) (σ : State) : Out :=
  eHalf (.pand a b d) (fun h => do
    let c ← me
    predOp d h (c.pred a &&& c.pred b)) σ

/-- POR -/
def execPor (a b d : BitVec 3) (σ : State) : Out :=
  eHalf (.por a b d) (fun h => do
    let c ← me
    predOp d h (c.pred a ||| c.pred b)) σ

/-- PXOR -/
def execPxor (a b d : BitVec 3) (σ : State) : Out :=
  eHalf (.pxor a b d) (fun h => do
    let c ← me
    predOp d h (c.pred a ^^^ c.pred b)) σ

/-- PNOT -/
def execPnot (a d : BitVec 3) (σ : State) : Out :=
  eHalf (.pnot a d) (fun h => do
    let c ← me
    predOp d h (~~~c.pred a)) σ

/-- The number of one bits of a word. -/
def onesOf (w : Word) : Nat := ((rangeFrom 0 64).filter fun j => w.getLsbD j).length

/-- PCNT -/
def execPcnt (p : BitVec 3) (σ : State) : Out :=
  eHalf (.pcnt p) (fun h => do
    let c ← me
    pushQ3 (wordOf (onesOf (c.pred p &&& c.governor h)))
    pure .retire) σ

/-- PSET -/
def execPset (m : BitVec 1) (d : BitVec 3) (σ : State) : Out :=
  eHalf (.pset m d) (fun h => do
    let v ← popQ2
    predOp d h (if m = 0#1 then v else wordOf (2 ^ min v.toNat 64 - 1))) σ

/-! ## VCVT (R203) -/

/-- Types 0-5 and 8-15. -/
def okMove (ty : Nat) : Bool := decide (ty ≤ 5) || isIntType ty

/-- A source z30 of VCVT: its type is the tag of the entries it pops, of which as many as are needed, and at most the
queue's 16, are there and carry the same valid tag before the first beat. -/
def cvtQueue (t n : Nat) : M Opnd := do
  let c ← me
  match c.eprog.took with
  | k :: _ => pure { num := 30, kind := .queue, ty := k.e.tag.toNat % 16 }
  | [] =>
    match c.q0 with
    | [] => waitQueue .q0Empty { queue := 0, need := 1 }
    | e :: _ => do
      if e.awaits then waitQueue .q0Empty { queue := 0, need := 1 } else pure ()
      guardFault (tagValid e.tag) .format (queueTagX e.tag t ||| wordOf (at_ 30 5 32))
      let ty := e.tag.toNat % 16
      require (okMove ty)
      let need := min 16 ((n + laneCount ty - 1) / laneCount ty)
      if c.q0.length < need ∨ (c.q0.take need).any QEntry.awaits then waitQueue .q0Empty { queue := 0, need := need } else pure ()
      match (c.q0.take need).find? fun x => x.tag != e.tag with
      | some x => failWith .format (queueTagX x.tag ty ||| wordOf (at_ 30 5 32))
      | none => pure { num := 30, kind := .queue, ty := ty }

/-- VCVT (R203): equal types copy bits. Its beats and the lanes that PRED governs are counted in the destination's type (log 95). -/
def execVcvt (d a : BitVec 5) (t : BitVec 4) (σ : State) : Out :=
  eHalf (.vcvt d a t) (fun h => do
    let ty := t.toNat
    let o ← viewOpnd d.toNat true
    let x ← if a = 30#5 then pure { num := 30, kind := .queue, ty := ty } else viewOpnd a.toNat false
    let o ← o.typed ty
    let n := match o.kind with
      | .scalar => 1
      | _ => o.count.getD (laneCount ty)
    let x ← if a = 30#5 then cvtQueue ty n else pure x
    require (okMove x.ty)
    guardFault (!(h.hmod.rnd != 0 && isIntType ty && isIntType x.ty)) .illegal ((encode (.vcvt d a t)).setWidth 64)
    let p ← planOf (some o) [x] (laneCount ty)
    let m ← roundOf h
    runEach p h fun _ xs => if x.ty = ty then (src xs 0, 0#6) else convert x.ty ty m h.hmod.sat (src xs 0)) σ

/-! ## VBQ and VBDQ (R204, R205) -/

/-- A block's elements, those governed off as +0. -/
def blockVals (ty : Nat) (gov : Word) (lanes lo : Nat) (codes : List (List Nat)) : List Val :=
  (codes.zip (rangeFrom lo codes.length)).map fun p => if laneOn gov lanes p.2 then decodeVal ty (src p.1 0) else .fin false 0 0

/-- VBQ (R204), in beats of 64 lanes (log 95): each run of 64 elements is a block; its scale is written with it, to a scale view of queue entries 64 of them at a time or
the last ones. -/
def execVbq (d a b : BitVec 5) (t : BitVec 4) (σ : State) : Out :=
  eHalf (.vbq d a b t) (fun h => do
    let ty := t.toNat
    let o ← viewOpnd d.toNat true
    let x ← viewOpnd a.toNat false
    let z ← viewOpnd b.toNat true
    let o ← o.typed ty
    let n := zCount o.view
    require (isF x.ty && z.ty == 9 && zDim o.view 0 % 64 == 0 && zCount x.view == n && zCount z.view * 64 == n)
    let p ← planOf (some o) [x] 64
    beginBeats p h
    let s ← gets id
    if s.actor.eprog.beat = 0 then orRaise (s.dstFault z (n / 64) 64) else pure ()
    let m ← roundOf h
    runBeats p.beats (fun s k =>
      (p.ready s k).and fun _ => (if k % 64 = 0 then s.destReady z k k (min (n / 64) (k + 64)) else s.destReady z k k (k + 1)).and fun _ =>
        if z.kind = .queue ∧ ((k + 1) % 64 = 0 ∨ k + 1 = p.beats) then s.roomReady (some z) (if o.kind = .queue then 2 else 1) else .go)
      (fun k => do
        takeBeat p.srcs (64 * k) (64 * k + 64)
        let c ← me
        let gov := c.eprog.gov
        let codes ← readBeat p.srcs gov 64 (64 * k) (64 * k + 64)
        let r := encodeBlock ty m false (blockVals x.ty gov 64 (64 * k) codes)
        addFlags r.2.2
        writeElems o (64 * k) ((r.1.zip (rangeFrom 0 64)).map fun e => some (if laneOn gov 64 e.2 then e.1 else 0))
        let acc := c.eprog.acc ++ [r.2.1]
        if z.kind ≠ .queue ∨ acc.length = 64 ∨ k + 1 = p.beats then do
          writeElems z (k + 1 - acc.length) (acc.map some)
          modMe fun c => { c with eprog := { c.eprog with acc := [] } }
        else modMe fun c => { c with eprog := { c.eprog with acc := acc } }) (p.beats + 1)) σ

/-- A reserved code outside a NaN block among the elements of a beat (07 R151, R153). -/
def bdqReserved (ty : Nat) (gov : Word) (lanes lo : Nat) (codes : List (List Nat)) : Option Nat :=
  if ty ≠ 6 then none
  else ((codes.zip (rangeFrom lo codes.length)).find? fun p =>
    laneOn gov lanes p.2 && src p.1 0 == reservedL6 && src p.1 1 != 255).map Prod.snd

/-- The code of element `k` of a source of a phase, if it is there before the first beat. -/
def State.knownCode (s : State) (p : Phase) (o : Opnd) (k : Nat) : Option Nat :=
  let e := k / o.div
  let lane := fun (x : BitVec 512) => laneOf (laneBits o.ty) x (e % laneCount o.ty)
  let takes := fun (t : Phase × Opnd × Nat) => t.2.1.pos == o.pos && t.2.2 == e / laneCount o.ty
  match o.kind with
  | .pool _ => if (o.granules [k]).all fun g => !s.inFlight o g then some (s.elemCode o k) else none
  | .queue => ((s.actor.standing [p.whole]).find? fun x => takes x.1 && !x.2.awaits).map fun x =>
      if tagValid x.2.tag then lane x.2.data else 0
  | .stream => ((s.actor.standingStrips [p.whole]).find? fun x => takes x.1).map fun x => lane (s.stripData x.2.1 x.2.2)
  | _ => some (s.elemCode o k)

/-- The reserved codes of a VBDQ among the elements that are there with their scales before the first beat. -/
def State.bdqKnown (s : State) (p : Phase) (x z : Opnd) (gov : Word) : Option Nat :=
  if x.ty ≠ 6 then none
  else (rangeFrom 0 p.n).find? fun k =>
    laneOn gov p.lanes k && s.knownCode p x k == some reservedL6 && (s.knownCode p z k).any (· != 255)

/-- VBDQ (R205), in beats of the destination's lanes (log 95): scale j goes with elements 64·j to 64·j + 63. A reserved code whose bytes or whose scale come later faults at its beat,
with the beats before it done (R191). -/
def execVbdq (d a b : BitVec 5) (t : BitVec 4) (σ : State) : Out :=
  eHalf (.vbdq d a b t) (fun h => do
    let ty := t.toNat
    let o ← viewOpnd d.toNat true
    let x ← viewOpnd a.toNat false
    let z ← viewOpnd b.toNat false
    let o ← o.typed ty
    let z ← z.typed 9
    let n := zCount o.view
    require (isBlock x.ty && zCount x.view == n && zCount z.view * 64 == n)
    let p ← planOf (some o) [x, { z with count := some n, div := 64 }] (laneCount ty)
    let raise := fun (k : Option Nat) => k.map fun k => (FaultCode.reservedCode, wordOf (a.toNat + at_ k 32 16))
    beginBeats p h
    let s ← gets id
    let gov := s.actor.eprog.gov
    if s.actor.eprog.beat = 0 then
      match p.srcs with
      | [x, z] => orRaise (raise (s.bdqKnown p.phase x z gov))
      | _ => pure ()
    else pure ()
    let m ← roundOf h
    let codesOf : Nat → M (List (List Nat)) := fun k => do
      let r := p.bounds k
      takeBeat p.srcs r.1 r.2
      readBeat p.srcs gov p.lanes r.1 r.2
    runBeats p.beats (fun s k => (p.ready s k).and fun _ => match codesOf k s with
      | .ok (codes, _) => Ready.ofFault (raise (bdqReserved x.ty gov p.lanes (p.bounds k).1 codes))
      | .error _ => .go) (fun k => do
      let r := p.bounds k
      let codes ← codesOf k
      let out := (codes.zip (rangeFrom r.1 codes.length)).map fun e =>
        (e.2, encodeFloat ty m false (decodeScaled x.ty (src e.1 0) (src e.1 1)))
      addFlags (out.foldl (fun f e => if laneOn gov p.lanes e.1 then f ||| e.2.2 else f) 0#6)
      writeElems o r.1 (out.map fun e => laneValue gov p.lanes h.hmod.pz e.1 e.2.1)) (p.beats + 1)) σ

end Sys2Proof.Machine
end

