-- ==== Sys2Proof/Machine/Lintel.lean ====
section
/-!
DEFINITION. The Lintel fabric (12 R279-R287): LGRAPH and LWAIT, graph images and their refusal, the start queues, the
operator units, the ports, the end and the failure of a graph, ingress flits.
-/

namespace Sys2Proof.Machine

/-! ## LGRAPH and LWAIT (R285, R287) -/

/-- The notify register of a start entry. -/
def LStart.notify (l : LStart) : Nat := fieldOf l.w0 45 40
/-- COUNT -/
def LStart.count (l : LStart) : Nat := fieldOf l.w1 23 0
/-- KEY -/
def LStart.key (l : LStart) : Nat := fieldOf l.w1 39 24
/-- The sequence base. -/
def LStart.base (l : LStart) : Nat := fieldOf l.w2 31 0
/-- Layout id `k` of a start entry: the image, read ports 0-2, the write port. -/
def LStart.lid (l : LStart) (k : Nat) : Nat := fieldOf l.w0 (8 * k + 7) (8 * k)

/-- The entry's other bits are zero, its array exists and COUNT is in range. -/
def LStart.ok (l : LStart) : Bool :=
  fieldOf l.w0 63 52 == 0 && fieldOf l.w0 47 46 == 0 && decide (l.array < 12) && fieldOf l.w1 63 40 == 0
    && decide (1 ≤ l.count) && fieldOf l.w2 63 32 == 0

/-- A notify register is allotted to a partition. -/
def State.allotted (s : State) (array reg part : Nat) : Bool := look (s.lintel array).allot reg == some part

/-- LGRAPH (R285). The layout entries are taken as they stand at issue, like those of any engine command (05 R105);
which of them the graph uses, and their checks, come with the start. -/
def execLgraph (f : BitVec 5) (σ : State) : Out :=
  aHalf (.lgraph f) (fun _ => do
    guardFault (decide (f.toNat + 2 < 30)) .illegal ((encode (.lgraph f)).setWidth 64)
    let ws ← regsAt f 0 3
    let s ← gets id
    let p := s.self
    let l0 : LStart := { w0 := ws.getD 0 0#64, w1 := ws.getD 1 0#64, w2 := ws.getD 2 0#64, core := s.turn.core,
                         ctx := s.turn.ctx, name := s.activity.name, act := s.activity.id, handler := s.activity.handler, agent := engineAgent s.fresh s.agent }
    let l := { l0 with lays := (rangeFrom 0 5).map fun k => p.layout (l0.lid k) }
    require l.ok
    guardFault (s.allotted l.array l.notify s.activity.part) .protection 0#64
    sendEntry (.lgraph l) s.actor.q3 (mods fun s => s.takeFresh.2)) σ

/-- DONE and FAIL of a notify register as its word (R286). -/
def notifyWord (n : Nat × Nat) : Word := wordOf (at_ n.1 16 48 + at_ n.2 48 0)

/-- LWAIT (R287): an acquire of what the graphs that counted released. -/
def execLwait (d a c : BitVec 5) (σ : State) : Out :=
  aHalf (.lwait d a c) (fun _ => do
    let w ← readA a
    let t ← readA c
    let k := fieldOf w 11 8
    let r := fieldOf w 5 0
    require (fieldOf w 63 12 == 0 && fieldOf w 7 6 == 0 && decide (k < 12))
    let s ← gets id
    guardFault (s.allotted k r s.activity.part) .protection 0#64
    let n := find (s.lintel k).notify r (0, 0)
    if (n.2 + 2 ^ 48 - fieldOf t 47 0) % 2 ^ 48 < 2 ^ 47 then do
      mods fun s => s.learn s.agent (find (s.lintel k).notifyKnow r [])
      writeA d (notifyWord n)
      pure .retire
    else waitFor .scoreboard) σ

/-! ## Images (R279, R281, R283) -/

/-- Byte `k` of an image. -/
def imgByte (im : List Byte) (k : Nat) : Nat := (im.getD k 0#8).toNat

/-- The parameter block of a unit as a number. -/
def unitParam (im : List Byte) (u : Nat) : Nat := natOfBytes ((im.drop (64 + 16 * u)).take 16)

/-- The units an image enables. -/
def unitsOf (im : List Byte) : List Nat := (rangeFrom 0 24).filter fun u => imgByte im (32 + u / 8) / 2 ^ (u % 8) % 2 = 1

/-- The source that feeds a sink. -/
def sinkSource (im : List Byte) (sink : Nat) : Option Nat :=
  let b := imgByte im sink
  if b / 128 = 1 then some (b % 32) else none

/-- The sink that a source feeds. -/
def sourceSink (im : List Byte) (src : Nat) : Option Nat := (rangeFrom 0 32).find? fun k => sinkSource im k == some src

/-- Sources of a unit: output 0, and output 1 of a TEE or SPLIT (R279). -/
def unitSources (u : Nat) : List Nat :=
  u :: (match u with
    | 0 => [24] | 1 => [25] | 4 => [26] | 5 => [27]
    | _ => [])

/-- Sinks of a unit: input 0, and input 1 of a MERGE, SUM or EXTREMA. -/
def unitSinks (u : Nat) : List Nat :=
  u :: (match u with
    | 2 => [24] | 3 => [25] | 6 => [26] | 7 => [27] | 8 => [28] | 9 => [29]
    | _ => [])

/-- The bits that a unit of a kind lists in its block (R281). -/
def kindBits (k : Nat) : List (Nat × Nat) :=
  match k with
  | 2 => [(0, 0), (12, 8), (63, 32), (95, 64)]
  | 3 => [(3, 0), (15, 8)]
  | 4 => [(4, 0)]
  | 5 => [(6, 0), (63, 32), (95, 64)]
  | 6 => [(11, 0)]
  | 7 | 8 => [(7, 0)]
  | 9 | 10 => [(1, 0)]
  | 11 => [(6, 0)]
  | _ => []

/-- Every other bit of a block is zero. -/
def blockZero (k x : Nat) : Bool :=
  (rangeFrom 0 128).all fun b => x / 2 ^ b % 2 == 0 || (kindBits k).any fun r => decide (r.2 ≤ b) && decide (b ≤ r.1)

/-- The parameters of an enabled unit are in range. -/
def paramOk (k x : Nat) : Bool :=
  let lo := x % 16
  let hi := x / 16 % 16
  match k with
  | 3 => lo ∈ [0, 1, 15]
  | 4 => lo ∈ [0, 1, 2, 12, 13]
  | 5 => decide (lo < 2) && decide (x / 16 % 8 ≤ 4)
  | 6 => !isBlock lo && !isBlock hi && decide (x / 256 % 8 ≤ 4)
  | 7 => decide (lo < 3) && isBlock hi
  | 8 => isBlock lo && decide (hi < 3)
  | 9 | 10 => decide (x % 4 < 3)
  | 11 => decide (1 ≤ x % 128 ∧ x % 128 ≤ 64)
  | _ => true

/-- The bytes that must be zero are. -/
def imageZero (im : List Byte) : Bool :=
  let z := fun (a n : Nat) => ((im.drop a).take n).all (· == 0#8)
  z 35 1 && z 39 25 && z 448 64 && (rangeFrom 0 32).all (fun k => imgByte im k / 32 % 4 == 0)
    && imgByte im 36 / 8 % 16 == 0 && imgByte im 37 / 8 % 16 == 0
    && (rangeFrom 0 24).all fun u => blockZero (u / 2) (unitParam im u)

/-- A port byte names a port of the array's die. -/
def portByteOk (b : Nat) : Bool := b / 128 == 0 || decide (b % 8 < 6)

/-- The image is accepted (R283). Beside the listed cases, a source that feeds two sinks (R279) and a link sink or source
without its port are refused (log 25). -/
def imageOk (im : List Byte) : Bool :=
  let on := unitsOf im
  let sinks := (rangeFrom 0 32).filter fun k => (sinkSource im k).isSome
  let srcs := sinks.filterMap fun k => sinkSource im k
  let off := (rangeFrom 0 24).filter fun u => !on.contains u
  imageZero im && decide (imgByte im 38 < 4) && portByteOk (imgByte im 36) && portByteOk (imgByte im 37)
    && off.all (fun u => (unitSinks u).all (fun k => !sinks.contains k) && (unitSources u).all fun k => !srcs.contains k)
    && on.all (fun u => (unitSinks u).all (fun k => sinks.contains k) && (unitSources u).all fun k => srcs.contains k)
    && on.all (fun u => paramOk (u / 2) (unitParam im u))
    && decide (srcs.Nodup)
    && (!sinks.contains 30 || imgByte im 37 / 128 == 1) && (!srcs.contains 28 || imgByte im 36 / 128 == 1)

/-- The port that a port byte of an array names: local index on the array's I/O die. -/
def portOf (array b : Nat) : Nat := b % 8 * 2 + array % 2

/-! ## Access through layouts -/

/-- The client of a graph: its stores count as the issuing context's (11 R243). -/
def State.graphClient (s : State) (l : LStart) : Client :=
  { slot := slotOf l.name, part := s.partOf l.name, core := l.core, ctx := l.ctx, engine := true, agent := l.agent,
    super := (s.proc (slotOf l.name)).super }

/-- The coordinates of element `k` of a layout walked from coordinate 0 in dimension order; the last one runs on. -/
def walkCoords (e : BitVec 512) (k : Nat) : List Int :=
  let r := layRank e
  let ds := (rangeFrom 0 (r - 1)).map fun i => layDim e i
  let inner := ds.foldl (fun n d => n * max 1 d) 1
  (unrank ds k).map (fun x => ((x : Nat) : Int)) ++ [((k / inner : Nat) : Int)]

/-- The offset of element `k` of a port's walk. -/
def walkOff (kind : Nat) (e : BitVec 512) (k : Nat) : M ElemOff := asEngine kind 0 (elemOffset e (walkCoords e k))

/-- A bound layout's region exists. -/
def regionThere (cl : Client) (lid : Nat) : M Unit := do
  let s ← gets id
  guardFault (!(lid < 16) || (find (s.proc cl.slot).regions lid (0, 0)).2 != 0) .layout 0#64

/-- Reads the 512 bytes of an image (R283). -/
def readImage (cl : Client) (lid : Nat) (e : BitVec 512) : M (List Byte) := do
  guardFault (laySpace e == 0 && layType e == 9 && !(lid < 16)) .layout (engineX .layout 0#64 4 0)
  let xs ← (rangeFrom 0 512).mapM fun k => do
    let o ← walkOff 4 e k
    asEngine 4 (o.addr e) (readElem cl lid e false o)
  pure (xs.map (BitVec.ofNat 8))

/-- The space of a layout that a port uses: HBM or SPAD (R285). -/
def portLayoutOk (lid : Nat) (e : BitVec 512) : Bool :=
  !layRed e && (decide (lid < 16) || laySpace e == 0 || laySpace e == 2)

/-- A read port's next flit: 64 bytes, or 64 elements of 6 bits, with the scale of a block (log 25). -/
def readFlit (cl : Client) (lid : Nat) (e : BitVec 512) (n seq : Nat) : M Flit := do
  let ty := layType e
  let k := laneCount ty
  let os ← (rangeFrom (n * k) k).mapM (walkOff 4 e)
  let xs ← os.mapM fun o => asEngine 4 (o.addr e) (readElem cl lid e false o)
  let sc ← if isBlock ty then asEngine 4 ((os.headD .zero).addr e) (readScale cl lid e (os.headD .zero)) else pure 0
  pure { seq := seq, data := bytesOfNat 64 (packLanes (laneBits ty) xs).toNat, scale := sc }

/-- The write port's next flit. -/
def writeFlit (cl : Client) (lid : Nat) (e : BitVec 512) (n : Nat) (x : Flit) : M Unit := do
  let ty := layType e
  let k := laneCount ty
  let os ← (rangeFrom (n * k) k).mapM (walkOff 5 e)
  let w := BitVec.ofNat 512 (natOfBytes x.data)
  let codes := (rangeFrom 0 k).map (laneOf (laneBits ty) w)
  let _ ← writeGroup cl { lid := lid, entry := e } (os.zip codes)
  if isBlock ty then writeScales cl { lid := lid, entry := e } [os.headD .zero] [x.scale] else pure ()

/-! ## Graphs -/

/-- Flits that wait at a sink. -/
def Graph.at (g : Graph) (sink : Nat) : List (Option Flit) := find g.sinks sink []

/-- Sets the flits that wait at a sink. -/
def Graph.setAt (g : Graph) (sink : Nat) (q : List (Option Flit)) : Graph := { g with sinks := put g.sinks sink q }

/-- A source emits a flit, or its end, to the sink it feeds. -/
def Graph.emit (g : Graph) (src : Nat) (x : Option Flit) : Graph :=
  match sourceSink g.image src with
  | some k => g.setAt k (g.at k ++ [x])
  | none => g

/-- Emits to every source of a list. -/
def Graph.emitAll (g : Graph) (srcs : List Nat) (x : Option Flit) : Graph := srcs.foldl (fun g k => g.emit k x) g

/-- A unit or port has passed its end: units 0-23, read ports 24-26, egress 30, the write port 31. -/
def Graph.close (g : Graph) (u : Nat) : Graph := { g with ended := u :: g.ended }

/-- A unit emits its end and is done. -/
def Graph.endUnit (g : Graph) (u : Nat) : Graph := (g.emitAll (unitSources u) none).close u

/-- The number a unit gives its next output: afresh from the sequence base. -/
def Graph.seqOf (g : Graph) (u : Nat) : Nat := (g.start.base + find g.next u 0) % 2 ^ 32

/-- A unit emits data numbered afresh. -/
def Graph.emitFresh (g : Graph) (u scale : Nat) (data : List Byte) : Graph :=
  let g := g.emit u (some { seq := g.seqOf u, data := data, scale := scale })
  { g with next := put g.next u (find g.next u 0 + 1) }

/-- Emits several flits numbered afresh, with their scales. -/
def Graph.emitMany (g : Graph) (u : Nat) (ps : List (List Byte × Nat)) : Graph := ps.foldl (fun g p => g.emitFresh u p.2 p.1) g

/-- ORs flags. -/
def Graph.flag (g : Graph) (f : BitVec 6) : Graph := { g with flags := g.flags ||| f }

/-! ## Arithmetic of the units (R281) -/

/-- The element codes of a flit. -/
def flitCodes (ty : Nat) (x : List Byte) : List Nat :=
  let w := BitVec.ofNat 512 (natOfBytes x)
  (rangeFrom 0 (laneCount ty)).map (laneOf (laneBits ty) w)

/-- A flit's bytes of element codes. -/
def codesFlit (ty : Nat) (xs : List Nat) : List Byte := bytesOfNat 64 (packLanes (laneBits ty) xs).toNat

/-- The NaN of any operand that is one, with INVALID where it signals. -/
def anyNan (ty : Nat) (vs : List Val) : Option (Nat × BitVec 6) :=
  if vs.any Val.isNan then some (canonNan ty, flagIf (vs.any Val.isSnan) fInvalid) else none

/-- SUM of one element: FP32 and BF16 round once; WIDE rounds each input to the grid of 06 R125, adds exactly, saturates once at its
bounds, and rounds the sum to FP32 (log 25). -/
def sumElem (x a b : Nat) : Nat × BitVec 6 :=
  let ty := x % 16
  if ty = 15 then
    match anyNan 0 [decodeVal 0 a, decodeVal 0 b] with
    | some r => r
    | none =>
      let w := signedOf 8 (x / 256 % 256)
      let z := gridOf w a + gridOf w b
      let q := clampInt z (-accMax) accMax
      let r := encodeFloat 0 0 false (.fin (decide (q < 0)) q.natAbs (w - 64))
      (r.1, r.2 ||| flagIf (decide (q ≠ z)) fOverflow)
  else match anyNan ty [decodeVal ty a, decodeVal ty b] with
    | some r => r
    | none => encodeFloat ty 0 false (addVal 0 (decodeVal ty a) (decodeVal ty b))

/-- SCALE of one element: a·x + b, one rounding. -/
def scaleElem (x e : Nat) : Nat × BitVec 6 :=
  let ty := x % 16
  let rnd := x / 16 % 8
  let a := decodeVal 0 (x / 2 ^ 32 % 2 ^ 32)
  let b := decodeVal 0 (x / 2 ^ 64 % 2 ^ 32)
  let v := decodeVal ty e
  match anyNan ty [v, a, b] with
  | some r => r
  | none => encodeFloat ty rnd false (addVal rnd (mulVal a v) b)

/-- Element by element over flits. -/
def zipFlit (ty : Nat) (f : Nat → Nat → Nat × BitVec 6) (x y : Flit) : Flit × BitVec 6 :=
  let rs := ((flitCodes ty x.data).zip (flitCodes ty y.data)).map fun p => f p.1 p.2
  ({ x with data := codesFlit ty (rs.map Prod.fst) }, rs.foldl (fun g r => g ||| r.2) 0#6)

/-! ## Units -/

/-- How a unit's act goes. -/
inductive UnitOut where
  | idle
  | go (g : Graph)
  | fail (code : FaultCode)
  deriving DecidableEq, Repr

/-- A unit of one input that maps flit to flit. -/
def mapUnit (g : Graph) (u : Nat) (f : Graph → Flit → UnitOut) (flush : Graph → Graph) : UnitOut :=
  match g.at u with
  | [] => .idle
  | none :: q => .go ((flush (g.setAt u q)).endUnit u)
  | some x :: q => f (g.setAt u q) x

/-- MERGE: the lower-numbered of the two head flits; input 0 of equal ones. -/
def mergeUnit (g : Graph) (u : Nat) : UnitOut :=
  let s1 := 22 + u
  match g.at u, g.at s1 with
  | none :: p, none :: q => .go (((g.setAt u p).setAt s1 q).endUnit u)
  | some x :: p, none :: _ => .go ((g.setAt u p).emit u (some x))
  | none :: _, some y :: q => .go ((g.setAt s1 q).emit u (some y))
  | some x :: p, some y :: q =>
    if x.seq ≤ y.seq then .go ((g.setAt u p).emit u (some x)) else .go ((g.setAt s1 q).emit u (some y))
  | _, _ => .idle

/-- SPLIT -/
def splitUnit (g : Graph) (u : Nat) : UnitOut :=
  let x := unitParam g.image u
  mapUnit g u (fun g f =>
    let d := (f.seq + 2 ^ 32 - g.start.base) % 2 ^ 32
    let first : Bool := if x % 2 = 0 then decide (x / 2 ^ 32 % 2 ^ 32 ≤ d) && decide (d < x / 2 ^ 64 % 2 ^ 32)
      else f.seq / 2 ^ (x / 256 % 32) % 2 == 0
    .go (g.emit (if first then u else 22 + u) (some f))) id

/-- The flits of a sink. -/
def flitsAt (q : List (Option Flit)) : List Flit := q.filterMap id

/-- SUM and EXTREMA pair flits of equal number; one without a partner at the other input's end fails the graph. -/
def pairUnit (g : Graph) (u s1 : Nat) (f : Flit → Flit → Flit × BitVec 6) : UnitOut :=
  let p := g.at u
  let q := g.at s1
  let xs := flitsAt p
  let ys := flitsAt q
  match xs.find? fun x => ys.any fun y => y.seq == x.seq with
  | some x => (match ys.find? fun y => y.seq == x.seq with
    | some y =>
      let r := f x y
      .go ((((g.setAt u (p.erase (some x))).setAt s1 (q.erase (some y))).emit u (some r.1)).flag r.2)
    | none => .idle)
  | none =>
    let pe := p.contains none
    let qe := q.contains none
    if (qe && !xs.isEmpty) || (pe && !ys.isEmpty) then .fail .illegal
    else if pe && qe then .go (((g.setAt u []).setAt s1 []).endUnit u)
    else .idle

/-- Bytes that a unit holds. -/
def Graph.held (g : Graph) (u : Nat) : List Byte := find g.hold u []

/-- Sets the bytes a unit holds. -/
def Graph.keep (g : Graph) (u : Nat) (bs : List Byte) : Graph := { g with hold := put g.hold u bs }

/-- The codes that a unit holds, `n` bytes each. -/
def heldCodes (n : Nat) (bs : List Byte) : List Nat := (chunks n (bs.length + 1) bs).map natOfBytes

/-- Bytes of a held code: one for 6 bits. -/
def codeBytes (ty : Nat) : Nat := if isSix ty then 1 else typeBytes ty

/-- Codes as held bytes. -/
def holdCodes (ty : Nat) (xs : List Nat) : List Byte := (xs.map (bytesOfNat (codeBytes ty))).flatten

/-- Full flits out of held codes of a type; `pad` makes the rest a flit with zeros (log 25). -/
def Graph.packOut (g : Graph) (u ty : Nat) (pad : Bool) : Graph :=
  let xs := heldCodes (codeBytes ty) (g.held u)
  let n := laneCount ty
  let full := if pad then (xs.length + n - 1) / n else xs.length / n
  let parts := (chunks n (xs.length + 1) xs).take full
  (g.emitMany u (parts.map fun p => (codesFlit ty p, 0))).keep u (holdCodes ty (xs.drop (full * n)))

/-- CONVERT between types of one size maps flit to flit, else it packs afresh (R280); equal types copy bits (09 R203). -/
def convertUnit (g : Graph) (u : Nat) : UnitOut :=
  let x := unitParam g.image u
  let src := x % 16
  let dst := x / 16 % 16
  mapUnit g u (fun g f =>
    let cs := flitCodes src f.data
    if isSix src && cs.any (· == reservedL6) then .fail .reservedCode
    else
      let rs := cs.map fun c => if src = dst then (c, 0#6) else convert src dst (x / 256 % 8) (x / 2 ^ 11 % 2 == 1) c
      let g := g.flag (rs.foldl (fun a r => a ||| r.2) 0#6)
      if laneBits src = laneBits dst then .go (g.emit u (some { f with data := codesFlit dst (rs.map Prod.fst) }))
      else .go ((g.keep u (g.held u ++ holdCodes dst (rs.map Prod.fst))).packOut u dst false))
    (fun g => g.packOut u dst true)

/-- One block out of 64 held source codes. -/
def Graph.quantOne (g : Graph) (u src dst : Nat) (cs : List Nat) : Graph :=
  let r := encodeBlock dst 0 false ((cs ++ List.replicate (64 - cs.length) 0).map (decodeVal src))
  (g.emitFresh u r.2.1 (codesFlit dst r.1)).flag r.2.2

/-- QUANT -/
def quantUnit (g : Graph) (u : Nat) : UnitOut :=
  let x := unitParam g.image u
  let src := x % 16
  let dst := x / 16 % 16
  mapUnit g u (fun g f =>
    let bs := g.held u ++ holdCodes src (flitCodes src f.data)
    let cs := heldCodes (codeBytes src) bs
    if cs.length < 64 then .go (g.keep u bs) else .go ((g.quantOne u src dst (cs.take 64)).keep u (holdCodes src (cs.drop 64))))
    (fun g =>
      let cs := heldCodes (codeBytes src) (g.held u)
      if cs.isEmpty then g else (g.quantOne u src dst cs).keep u [])

/-- DEQUANT -/
def dequantUnit (g : Graph) (u : Nat) : UnitOut :=
  let x := unitParam g.image u
  let src := x % 16
  let dst := x / 16 % 16
  mapUnit g u (fun g f =>
    let cs := flitCodes src f.data
    if isSix src && f.scale != 255 && cs.any (· == reservedL6) then .fail .reservedCode
    else
      let rs := cs.map fun c => encodeFloat dst 0 false (decodeScaled src c f.scale)
      let g := g.flag (rs.foldl (fun a r => a ||| r.2) 0#6)
      .go ((g.keep u (g.held u ++ holdCodes dst (rs.map Prod.fst))).packOut u dst false)) id

/-- The squeezed bytes of a flit: the mask of its non-zero elements, then those elements. -/
def squeezeFlit (n : Nat) (bs : List Byte) : List Byte :=
  let es := chunks n (bs.length + 1) bs
  let on := es.map fun e => e.any (· != 0#8)
  let mask := (on.zip (rangeFrom 0 on.length)).foldl (fun m p => m + (if p.1 then 2 ^ p.2 else 0)) 0
  bytesOfNat 8 mask ++ (es.filter fun e => e.any (· != 0#8)).flatten

/-- Emits held bytes in whole flits; `pad` fills up the last with zero. -/
def Graph.bytesOut (g : Graph) (u : Nat) (pad : Bool) : Graph :=
  let bs := g.held u
  let full := if pad then (bs.length + 63) / 64 else bs.length / 64
  let parts := (chunks 64 (bs.length + 1) bs).take full
  (g.emitMany u (parts.map fun p => (p ++ List.replicate (64 - p.length) 0#8, 0))).keep u (bs.drop (full * 64))

/-- SQUEEZE -/
def squeezeUnit (g : Graph) (u : Nat) : UnitOut :=
  let n := 2 ^ (unitParam g.image u % 4)
  mapUnit g u (fun g f => .go ((g.keep u (g.held u ++ squeezeFlit n f.data)).bytesOut u false)) (fun g => g.bytesOut u true)

/-- Elements put back where a mask has ones. -/
def spread (n : Nat) (mask : Nat) (es : List (List Byte)) : Nat → Nat → List Byte
  | _, 0 => []
  | j, k + 1 =>
    if mask / 2 ^ j % 2 = 1 then es.headD [] ++ spread n mask (es.drop 1) (j + 1) k
    else List.replicate n 0#8 ++ spread n mask es (j + 1) k

/-- UNSQUEEZE: flits whose mask and elements are all there come out, at most COUNT of them. -/
def Graph.unsqueezeOut (g : Graph) (u n : Nat) : Nat → Graph
  | 0 => g
  | fuel + 1 =>
    let bs := g.held u
    let lanes := 64 / n
    let mask := natOfBytes (bs.take 8)
    let k := ((rangeFrom 0 lanes).filter fun j => mask / 2 ^ j % 2 == 1).length
    if g.start.count ≤ find g.next u 0 then g
    else if bs.length < 8 || bs.length < 8 + k * n then g
    else
      let es := chunks n (k + 1) ((bs.drop 8).take (k * n))
      ((g.emitFresh u 0 (spread n mask es 0 lanes)).keep u (bs.drop (8 + k * n))).unsqueezeOut u n fuel

/-- UNSQUEEZE -/
def unsqueezeUnit (g : Graph) (u : Nat) : UnitOut :=
  let n := 2 ^ (unitParam g.image u % 4)
  mapUnit g u (fun g f => .go ((g.keep u (g.held u ++ f.data)).unsqueezeOut u n 16)) id

/-- How far ahead of the next number a number lies. -/
def ahead (next seq : Nat) : Nat := (seq + 2 ^ 32 - next) % 2 ^ 32

/-- The flits that ALIGN holds: those before the first that must wait at the input, and whether the end is among them. -/
def alignHeld (next window : Nat) : List (Option Flit) → List Flit × Bool
  | [] => ([], false)
  | none :: _ => ([], true)
  | some x :: q =>
    if window ≤ ahead next x.seq && decide (ahead next x.seq < 2 ^ 31) then ([], false)
    else
      let r := alignHeld next window q
      (x :: r.1, r.2)

/-- ALIGN: drops duplicates, emits the next number; after the end what it still holds leaves in order (log 25). -/
def alignUnit (g : Graph) (u : Nat) : UnitOut :=
  let window := unitParam g.image u % 128
  let next := g.seqOf u
  let q := g.at u
  let r := alignHeld next window q
  let take := fun (x : Flit) (step : Nat) =>
    let g := (g.setAt u (q.erase (some x))).emit u (some x)
    UnitOut.go { g with next := put g.next u (find g.next u 0 + step) }
  match r.1.find? fun x => decide (2 ^ 31 ≤ ahead next x.seq) || decide (1 < (r.1.filter fun y => y.seq == x.seq).length) with
  | some x =>
    let late := if 2 ^ 31 ≤ ahead next x.seq then x else ((r.1.filter fun y => y.seq == x.seq).getLast?).getD x
    .go (g.setAt u ((q.reverse.erase (some late)).reverse))
  | none =>
    match r.1.find? fun x => x.seq == next with
    | some x => take x 1
    | none =>
      if !r.2 then .idle
      else match r.1 with
        | [] => .go ((g.setAt u (q.filter fun x => x.isSome)).endUnit u)
        | x :: xs =>
          let y := xs.foldl (fun b z => if ahead next z.seq < ahead next b.seq then z else b) x
          take y (ahead next y.seq + 1)

/-- A unit acts on a flit (R281). -/
def unitAct (g : Graph) (u : Nat) : UnitOut :=
  let x := unitParam g.image u
  if !(unitsOf g.image).contains u || g.ended.contains u then .idle
  else match u / 2 with
  | 0 => mapUnit g u (fun g f => .go (g.emitAll (unitSources u) (some f))) id
  | 1 => mergeUnit g u
  | 2 => splitUnit g u
  | 3 => pairUnit g u (20 + u) (zipFlit (if x % 16 = 1 then 1 else 0) (sumElem x))
  | 4 => pairUnit g u (20 + u) (zipFlit (x % 16) (pick (x % 16) (x / 16 % 2 == 0)))
  | 5 => mapUnit g u (fun g f =>
      let ty := x % 16
      let rs := (flitCodes ty f.data).map (scaleElem x)
      .go ((g.emit u (some { f with data := codesFlit ty (rs.map Prod.fst) })).flag (rs.foldl (fun a r => a ||| r.2) 0#6))) id
  | 6 => convertUnit g u
  | 7 => quantUnit g u
  | 8 => dequantUnit g u
  | 9 => squeezeUnit g u
  | 10 => unsqueezeUnit g u
  | _ => alignUnit g u

/-! ## Ends of a graph (R286) -/

/-- Graph `k` of an array. -/
def State.graph (s : State) (array k : Nat) : Option Graph := (s.lintel array).graphs[k]?

/-- Sets graph `k` of an array. -/
def State.setGraph (s : State) (array k : Nat) (g : Graph) : State :=
  s.modLintel array fun a => { a with graphs := a.graphs.set k g }

/-- DONE rises, and FAIL where the graph failed; what the graph had performed and observed is released. -/
def State.countGraph (s : State) (array : Nat) (l : LStart) (failed : Bool) : State :=
  let know := s.knows l.agent
  (s.dismiss l.agent).modLintel array fun a =>
    let n := find a.notify l.notify (0, 0)
    { a with
      notify := put a.notify l.notify ((n.1 + (if failed then 1 else 0)) % 2 ^ 16, (n.2 + 1) % 2 ^ 48)
      notifyKnow := put a.notifyKnow l.notify (joinKnow (find a.notifyKnow l.notify []) know) }

/-- A graph that ends gives the flags of its units to the process (R281). -/
def State.graphFlags (s : State) (l : LStart) (f : BitVec 6) : State := match s.named l.name with
  | some _ => s.orPflags (slotOf l.name) f
  | none => s

/-- A graph whose units have raised flags fails (R286): the supervisor learns of it, and of a violation the host too (15
R377). -/
def State.failGraph (s : State) (array : Nat) (l : LStart) (f : BitVec 6) (code : FaultCode) (x : Word) : State :=
  let s := (s.graphFlags l f).countGraph array l true
  let s := s.engineFault (s.partOf l.name) l.core 3 array l.ctx l.name code x 0#64
    (s.issuerWord5 l.core l.ctx l.name l.act l.handler)
  if code = .violation then s.tellHost [faultWord0 0 array l.core 3 l.ctx code.toByte.toNat] else s

/-- Removes graph `k` of an array. -/
def State.dropGraph (s : State) (array k : Nat) : State :=
  s.modLintel array fun a => { a with graphs := a.graphs.eraseIdx k }

/-- Every sink that a graph uses has received its end. -/
def Graph.over (g : Graph) : Bool :=
  (unitsOf g.image).all (fun u => g.ended.contains u)
    && (sinkSource g.image 30 == none || g.ended.contains 30) && (sinkSource g.image 31 == none || g.ended.contains 31)

/-- LINTEL_GRAPH_END (R286): graph `turn.sub` of array `turn.unit` completes when every sink it uses has its end. -/
def execLintelGraphEnd (σ : State) : Out :=
  if 12 ≤ σ.turn.unit then .fault .noSuchUnit
  else match σ.graph σ.turn.unit σ.turn.sub with
  | none => .next σ
  | some g =>
    if !g.over then .next σ
    else
      let l := g.start
      .next (((σ.graphFlags l g.flags).countGraph σ.turn.unit l false).dropGraph σ.turn.unit σ.turn.sub)

/-! ## Start (R285) -/

/-- The first start entry of a queue that no fence of its core holds back and that no earlier entry precedes. -/
def headStart : List LinEntry → Option LStart
  | [] => none
  | .start l :: _ => some l
  | .fence _ :: es => headStart es

/-- The entry leaves its queue. -/
def dropStart : List LinEntry → List LinEntry
  | [] => []
  | .start _ :: es => es
  | .fence f :: es => .fence f :: dropStart es

/-- A fence of the entry's core stands before it. -/
def startFenced (core : Nat) : List LinEntry → Bool
  | [] => false
  | .start _ :: _ => false
  | .fence f :: es => f.core == core || startFenced core es

/-- The port layouts that an image routes are of the right space and exist. -/
def portsChecked (cl : Client) (l : LStart) (im : List Byte) : M Unit := do
  let used := (rangeFrom 0 3).filter (fun r => (sourceSink im (29 + r)).isSome)
  let ids := (used.map fun r => r + 1) ++ (if (sinkSource im 31).isSome then [4] else [])
  ids.forM fun k => do
    guardFault (portLayoutOk (l.lid k) (l.lays.getD k 0#512)) .layout (engineX .layout 0#64 (if k = 4 then 5 else 4) 0)
    regionThere cl (l.lid k)

/-- The image of a start entry, checked, with its ports. -/
def openGraph (l : LStart) : M (List Byte) := do
  let s ← gets id
  let cl := s.graphClient l
  let im ← readImage cl (l.lid 0) (l.lays.getD 0 0#512)
  guardFault (imageOk im) .illegal 0#64
  portsChecked cl l im
  pure im

/-- LINTEL_GRAPH_START (R285): the oldest entry of the start queue of array `turn.unit` starts when its units are free;
one that is refused fails at once. -/
def execLintelGraphStart (σ : State) : Out :=
  let k := σ.turn.unit
  if 12 ≤ k then .fault .noSuchUnit
  else
    let s := σ.passFences (linFences (σ.lintel k).queue)
    let q := (s.lintel k).queue
    match headStart q with
    | none => .next s
    | some l =>
      if startFenced l.core q then .next s
      else
        let gone := fun (s : State) => s.modLintel k fun a => { a with queue := dropStart a.queue }
        match openGraph l s with
        | .error (.fault code x w) => .next (((gone s).lostBy (s.partOf l.name) (l.core / 8) (code, x, w)).failGraph k l 0#6 code x)
        | .error (.wait _ _) => .next s
        | .ok (im, t) =>
          if (t.lintel k).graphs.any fun g => (unitsOf g.image).any fun u => (unitsOf im).contains u then .next s
          else
            let g : Graph := { start := l, image := im, part := t.partOf l.name }
            .next ((gone t).modLintel k fun a => { a with graphs := a.graphs ++ [g] })

/-! ## Ports and flits -/

/-- A read port sends its next flit, or its end. -/
def portRead (l : LStart) (g : Graph) (r : Nat) : M Graph := do
  let s ← gets id
  let n := find g.read r 0
  if (sourceSink g.image (29 + r)).isNone || g.ended.contains (24 + r) then pure g
  else if l.count ≤ n then pure ((g.emit (29 + r) none).close (24 + r))
  else do
    let x ← readFlit (s.graphClient l) (l.lid (r + 1)) (l.lays.getD (r + 1) 0#512) n ((l.base + n) % 2 ^ 32)
    pure ({ (g.emit (29 + r) (some x)) with read := put g.read r (n + 1) })

/-- The write port writes its oldest flit. -/
def portWrite (l : LStart) (g : Graph) : M Graph := do
  let s ← gets id
  match g.at 31 with
  | [] => pure g
  | none :: q => pure ((g.setAt 31 q).close 31)
  | some x :: q => do
    writeFlit (s.graphClient l) (l.lid 4) (l.lays.getD 4 0#512) g.written x
    pure { (g.setAt 31 q) with written := g.written + 1 }

/-- The oldest flit at the egress goes to the router for its link, in the collective class with the graph's priority (R269). -/
def State.egress (s : State) (array k : Nat) (g : Graph) : State :=
  match g.at 30 with
  | [] => s
  | x :: q =>
    let l := g.start
    let g := g.setAt 30 q
    let g := match x with
      | none => g.close 30
      | some _ => g
    let body : PodBody := match x with
      | none => .flit l.key 0 [] 0 true
      | some f => .flit l.key f.seq f.data f.scale false
    (s.setGraph array k g).injectPkt { dst := s.devidx, core := l.core, ctx := l.ctx, part := g.part, prio := imgByte g.image 38,
                                       cls := 2, port := some (portOf array (imgByte g.image 37)), body := body }

/-- What an act of a graph leaves: the graph goes on, or fails. -/
def State.stepGraph (s : State) (array k : Nat) (g : Graph) (m : M Graph) : State :=
  match m s with
  | .ok (g, t) => t.setGraph array k g
  | .error (.fault code x w) =>
    ((s.lostBy g.part (g.start.core / 8) (code, x, w)).dropGraph array k).failGraph array g.start g.flags code x
  | .error (.wait _ _) => s

/-- LINTEL_UNIT_FLIT (R280, R281): in graph `turn.sub` of array `turn.unit` unit `turn.val` processes a flit, 0-23; or a
port does: 24-26 the read ports, 30 the egress, 31 the write port. -/
def execLintelUnitFlit (σ : State) : Out :=
  let a := σ.turn.unit
  let u := σ.turn.val
  if 12 ≤ a || 32 ≤ u then .fault .noSuchUnit
  else match σ.graph a σ.turn.sub with
  | none => .next σ
  | some g =>
    let l := g.start
    if u < 24 then
      match unitAct g u with
      | .idle => .next σ
      | .go g => .next (σ.setGraph a σ.turn.sub g)
      | .fail code => .next ((σ.dropGraph a σ.turn.sub).failGraph a l g.flags code 0#64)
    else if u < 27 then .next (σ.stepGraph a σ.turn.sub g (portRead l g (u - 24)))
    else if u = 30 then .next (σ.egress a σ.turn.sub g)
    else if u = 31 then .next (σ.stepGraph a σ.turn.sub g (portWrite l g))
    else .next σ

/-! ## Ingress (R284) -/

/-- A waiting flit: KEY, sequence, data, scale, whether it is the end marker, and when it came. -/
abbrev Waiting := Nat × Nat × List Byte × Nat × Bool × Nat

/-- The graph of an array that takes a flit of a key from a port. -/
def Array12.takes (a : Array12) (array port key : Nat) : Option Nat :=
  (rangeFrom 0 a.graphs.length).find? fun k => match a.graphs[k]? with
    | some g => (sourceSink g.image 28).isSome && portOf array (imgByte g.image 36) == port && g.start.key == key
    | none => false

/-- Delivers a waiting flit, where its graph runs: each array of the port's I/O die is asked (R283). -/
def State.deliverFlit (s : State) (p : Nat) (x : Waiting) : Option State :=
  let arrays := (rangeFrom 0 12).filter fun a => a % 2 == p % 2
  arrays.findSome? fun a =>
    match (s.lintel a).takes a p x.1 with
    | some k => (match s.graph a k with
      | some g => some (s.setGraph a k (g.emit 28 (if x.2.2.2.2.1 then none else some { seq := x.2.1, data := x.2.2.1, scale := x.2.2.2.1 })))
      | none => none)
    | none => none

/-- Delivers the flits that wait at a port, in order. -/
def State.deliverFlits (s : State) (p : Nat) : State :=
  let r := (s.port p).flits.foldl (fun (r : List Waiting × State) x =>
    match r.2.deliverFlit p x with
    | some t => (r.1, t)
    | none => (r.1 ++ [x], r.2)) ([], s)
  r.2.modPort p fun h => { h with flits := r.1 }

/-- The oldest flit at a port's input that no router has stomped. -/
def headFlit : List PodPacket → Option (Waiting × List PodPacket)
  | [] => none
  | p :: ps => match (if p.stomped then PodBody.time 0 else p.body) with
    | .flit key seq data scale last => some ((key, seq, data, scale, last, 0), ps)
    | _ => (match headFlit ps with
      | some r => some (r.1, p :: r.2)
      | none => none)

/-- LINTEL_INGRESS_FLIT (R284): the oldest flit at the input of port `turn.unit` joins those that wait, at most 256, and
those whose graph runs are delivered; while none more can wait, the input raises STOP for the collective class. -/
def execLintelIngressFlit (σ : State) : Out :=
  let p := σ.turn.unit
  if 12 ≤ p then .fault .noSuchUnit
  else
    let h := σ.port p
    let s := match headFlit h.inp with
      | some (x, rest) =>
        if 256 ≤ h.flits.length then σ
        else σ.modPort p fun h => { h with inp := rest, flits := h.flits ++ [(x.1, x.2.1, x.2.2.1, x.2.2.2.1, x.2.2.2.2.1, σ.time)] }
      | none => σ
    .next ((s.deliverFlits p).modPort p Port.stopGo)

/-- INGRESS_FLIT_EXPIRY (R284): flits that have waited 1 ms at port `turn.unit` are dropped and counted. -/
def execIngressFlitExpiry (σ : State) : Out :=
  let p := σ.turn.unit
  if 12 ≤ p then .fault .noSuchUnit
  else
    let old := fun (x : Waiting) => decide (x.2.2.2.2.2 + 1000000 ≤ σ.time)
    .next (σ.modPort p fun h =>
      { h with drop := min 65535 (h.drop + (h.flits.filter old).length), flits := h.flits.filter fun x => !old x }.stopGo)

end Sys2Proof.Machine
end

