-- ==== Sys2Proof/Machine/Preempt.lean ====
section
/-!
DEFINITION. Pre-emption (15 R365-R369): the interrupt, CTXSAVE and CTXREST with the save area of R368, the acknowledgement
of the cores, the image of a core and its placement.
-/

namespace Sys2Proof.Machine

/-! ## The save area (R368) -/

/-- Bytes filled up with zero to `n`. -/
def padTo (n : Nat) (bs : List Byte) : List Byte := bs.take n ++ List.replicate (n - bs.length) 0#8

/-- Words as bytes. -/
def wordBytes (ws : List Word) : List Byte := (ws.map fun w => bytesOfNat 8 w.toNat).flatten

/-- The word at 0x140. -/
def Ctx.saveFlags (c : Ctx) : Word :=
  wordOf (c.flags.toNat + at_ c.rmode.toNat 3 8 + (if c.sealed then 2 ^ 11 else 0) + at_ c.q0.length 5 12
    + at_ c.q1.length 5 17 + at_ c.q2.length 4 22 + at_ c.q3.length 4 26 + at_ c.waittmo.toNat 32 32)

/-- The word at 0x148: EBEAT, queued E words, JOBID. -/
def Ctx.saveBeat (c : Ctx) : Word := wordOf (at_ c.eprog.beat 32 0 + at_ c.eq.length 4 32 + at_ c.jobid.toNat 16 48)

/-- Format tags, 5 bits each: 16 of q0, then 16 of q1. -/
def Ctx.saveTags (c : Ctx) : Nat :=
  let col := fun (q : List QEntry) (first : Nat) =>
    (q.zip (rangeFrom first 16)).foldl (fun n e => n + at_ e.1.tag.toNat 5 (5 * e.2)) 0
  col c.q0 0 + col c.q1 16

/-- The 3,584 bytes of the save area; each queue's entries begin at a place of its own (log 26). -/
def Ctx.saveArea (c : Ctx) : List Byte :=
  wordBytes ((c.a.toList.drop 1).take 29)
    ++ wordBytes (c.p.toList.drop 1)
    ++ wordBytes [c.epca, c.epce.setWidth 64, c.actbud, c.statusReg, c.saveFlags, c.saveBeat]
    ++ bytesOfNat 24 c.saveTags
    ++ padTo 32 (c.eq.map fun e => bytesOfNat 4 e.word.toNat).flatten
    ++ padTo 56 (c.eq.map fun e => bytesOfNat 7 e.addr).flatten
    ++ ((c.z.toList.take 30).map fun z => bytesOfNat 32 z.toNat).flatten
    ++ padTo 1024 (c.q0.map fun e => bytesOfNat 64 e.data.toNat).flatten
    ++ padTo 1024 (c.q1.map fun e => bytesOfNat 64 e.data.toNat).flatten
    ++ padTo 64 (wordBytes c.q2) ++ padTo 64 (wordBytes c.q3)

/-- `n` bytes of an area as a number. -/
def areaNat (bs : List Byte) (off n : Nat) : Nat := natOfBytes ((bs.drop off).take n)

/-- Entry `k` of a saved queue of 64-byte entries. -/
def areaEntry (bs : List Byte) (off first k : Nat) : QEntry :=
  { data := BitVec.ofNat 512 (areaNat bs (off + 64 * k) 64),
    tag := BitVec.ofNat 5 (areaNat bs 0x150 24 / 2 ^ (5 * (first + k)) % 32) }

/-- The context as CTXREST reads it back. What an E instruction in hand had gathered is hidden state that the area does
not hold; it stays with the context (log 26). -/
def Ctx.loadArea (c : Ctx) (bs : List Byte) (vecp vect : BitVec 52) : Ctx :=
  let w := fun (off : Nat) => wordOf (areaNat bs off 8)
  let f := w 0x140
  let b := w 0x148
  { c with
    a := Vector.ofFn fun (i : Fin 32) => if i.val = 0 ∨ 30 ≤ i.val then 0#64 else w (8 * (i.val - 1))
    p := Vector.ofFn fun (i : Fin 8) => if i.val = 0 then 0#64 else w (0xE8 + 8 * (i.val - 1))
    z := Vector.ofFn fun (i : Fin 32) => if 30 ≤ i.val then 0#256 else BitVec.ofNat 256 (areaNat bs (0x1C0 + 32 * i.val) 32)
    epca := w 0x120, epce := (w 0x128).setWidth 52, actbud := w 0x130, statusReg := w 0x138
    flags := f.setWidth 6, rmode := BitVec.ofNat 3 (fieldOf f 10 8), sealed := f.getLsbD 11
    waittmo := BitVec.ofNat 32 (fieldOf f 63 32), jobid := BitVec.ofNat 16 (fieldOf b 63 48)
    q0 := (rangeFrom 0 (min 16 (fieldOf f 16 12))).map (areaEntry bs 0x580 0)
    q1 := (rangeFrom 0 (min 16 (fieldOf f 21 17))).map (areaEntry bs 0x980 16)
    q2 := (rangeFrom 0 (min 8 (fieldOf f 25 22))).map fun k => w (0xD80 + 8 * k)
    q3 := (rangeFrom 0 (min 8 (fieldOf f 29 26))).map fun k => w (0xDC0 + 8 * k)
    eq := (rangeFrom 0 (min 8 (fieldOf b 35 32))).map fun k =>
      { addr := areaNat bs (0x188 + 7 * k) 7 % 2 ^ 52, word := BitVec.ofNat 32 (areaNat bs (0x168 + 4 * k) 4) }
    eprog := { c.eprog with beat := fieldOf b 31 0 }, hinted := 0
    pvec := vecp, tvec := vect }

/-- Where the save area of context `k` begins (05 R85). -/
def areaBase (k : Nat) : Nat := 0xC800 + k * 0xE00

/-! ## CTXSAVE and CTXREST (R367) -/

/-- COUNT_MISMATCH at the fence of CTXSAVE is told to the supervisor; the save goes on (12 R275, log 26). -/
def State.tellMismatch (s : State) (n k : Nat) (x : Word) : State :=
  let c := s.ctx n k
  match c.act with
  | none => s
  | some a =>
    let fc := 256 + FaultCode.countMismatch.toByte.toNat
    let ws := [wordOf (fieldOf c.epca 51 0), c.epce.setWidth 64, x, 0#64, c.faultWord5 a, 0#64, 0#64]
    if a.super then s.tellHost (faultWord0 0 0 n 0 k fc :: ws) else s.post a.part n 0 0 k fc a.name ws

/-- The implicit fence before a save (12 R275). -/
def saveFence : M (Option Disp) := do
  let c ← me
  match c.podFence with
  | none => podRelease
  | some f =>
    if !f.over then waitFor .preempting
    else do
      modMe Ctx.endInterval
      match f.mismatch with
      | none => pure none
      | some x => do
        mods fun s => s.tellMismatch s.turn.core s.turn.ctx x
        pure none

/-- What CTXSAVE does. -/
def saveBody : M Disp := do
  let c ← me
  if c.pend.isSome || c.q0.any QEntry.awaits then waitFor .preempting
  else match ← saveFence with
    | some d => pure d
    | none => do
      mods fun s => s.poolRaw s.turn.core (areaBase s.turn.ctx) s.actor.saveArea
      modMe fun c => { c with saved := true }
      pure .retire

/-- CTXSAVE -/
def execCtxsave (σ : State) : Out :=
  aHalf .ctxsave (fun _ => do
    needRoutine .ctxsave
    saveBody) σ

/-- What CTXREST does. PVEC and TVEC come from the partition record (22 R392). -/
def restBody : M Unit := mods fun s =>
  let bs := readBytes (s.core s.turn.core).pool (areaBase s.turn.ctx) 0xE00
  let p := s.part s.activity.part
  s.modActor fun c => c.loadArea bs (BitVec.ofNat 52 p.vecp) (BitVec.ofNat 52 p.vect)

/-- CTXREST -/
def execCtxrest (σ : State) : Out :=
  aHalf .ctxrest (fun _ => do
    needRoutine .ctxrest
    restBody
    pure .retire) σ

/-! ## The interrupt (R365, R366) -/

/-- The context can take the interrupt: it is at an instruction boundary outside a hint group, or waits in an instruction
that lets the interrupt in. An access whose reply is out is no such wait, but a WAITA or a BARWAIT is. -/
def Ctx.takesInterrupt (c : Ctx) : Bool :=
  let quiet := match c.pend with
    | none => true
    | some p => decide (p.kind = .waita) || decide (p.kind = .barwait)
  c.interrupt && decide (c.status = .running) && !c.routine && c.afault.isNone && quiet
    && (c.hints.isEmpty || decide (c.stallA ≠ .none))

/-- An instruction that waits for a request is given up, to be executed again: a watch goes, and what it popped stands in q3
again (R365, 11 R261). -/
def State.giveUp (s : State) (n k : Nat) : State :=
  (s.dropWatches n k).modCtx n k fun c =>
    let back := match c.pend with
      | some p => p.popped
      | none => []
    { c.dropPend with q3 := back ++ c.q3 }

/-- A context takes the pre-emption interrupt: the waiting instruction has not retired and what it popped stands in q3
again; it enters PVEC, whose two low bits are tested as those of every target (02 R24), or with PVEC 0 the core itself saves it
(R365). -/
def State.takeInterrupt (s : State) (n k : Nat) : State :=
  let s := s.giveUp n k
  let v := (s.ctx n k).pvec
  if v.toNat % 4 ≠ 0 then s.raiseA n k .illegal (v.setWidth 64) 0#64
  else s.modCtx n k fun c =>
    { c.enter c.pvec true false 0 c.nextA c.nextE with
      interrupt := false, auto := decide (c.pvec = 0#52), stallA := .none, waitA := none, stallE := .none, waitE := none }

/-- The context leaves its core for the image (R367): PARK 1. -/
def State.parkInImage (s : State) (n k : Nat) : State :=
  let c := s.ctx n k
  let im := s.image n
  let s := { s with images := put s.images n { im with ctxs := put im.ctxs k { c with hints := [] } } }
  s.freeCtx n k

/-- The ERET of a core that has restored a context itself: a saved PC of either half with bit 0 or 1 set raises ILLEGAL (R364). -/
def State.autoReturn (s : State) : State :=
  let c := s.actor
  let pc := fieldOf c.epca 51 0
  let s := s.modActor fun c => { c with auto := false }
  if pc % 4 ≠ 0 then s.raiseA s.turn.core s.turn.ctx .illegal (wordOf pc) 0#64
  else if c.epce.toNat % 4 ≠ 0 then s.raiseA s.turn.core s.turn.ctx .illegal (c.epce.setWidth 64) 0#64
  else s.modActor Ctx.leave

/-- One act of a core that saves or restores a context itself, for want of a routine (R365, R369). -/
def State.autoIssue (s : State) : State :=
  let n := s.turn.core
  let k := s.turn.ctx
  let c := s.actor
  if fieldOf c.epca 61 61 = 1 then
    match restBody s with
    | .ok (_, t) => t.autoReturn
    | .error _ => s
  else if c.saved then s.parkInImage n k
  else match saveBody s with
    | .ok (.hold why q, t) => t.stall n k .A why q
    | .ok (_, t) => t
    | .error (.wait why q) => s.stall n k .A why q
    | .error (.fault code x extra) => s.raiseA n k code x extra

/-! ## PREEMPT and the acknowledgements (R365) -/

/-- The cores of a cluster. -/
def coresOf (cl : Nat) : List Nat := (rangeFrom 0 8).map fun q => cl * 8 + q

/-- A Lintel graph writes into the pool of a core of a cluster. -/
def State.graphWrites (s : State) (cl : Nat) : Bool :=
  (rangeFrom 0 12).any fun a => (s.lintel a).graphs.any fun g =>
    let e := g.start.lays.getD 4 0#512
    let own := g.start.lid 4 < 16
    let core := if own then (s.proc (slotOf g.start.name)).core else layVbase e / 65536 % 16384
    (sinkSource g.image 31).isSome && (own || laySpace e == 2) && core / 8 == cl

/-- TICKET of the network of a process. -/
def State.ticketOf (s : State) (p : Proc) : Nat := (find s.nets p.net {}).ticket

/-- PREEMPT (R365): the controller of cluster `turn.unit` stops dispatch and raises the interrupt in every running context;
the cluster's processes become MOVING. It waits until no graph writes into the cluster's pools. The event record (23 R409) names the
TICKET of the process of the lowest slot there, or 0 (log 97). -/
def execPreempt (σ : State) : Out :=
  let cl := σ.turn.unit
  if !clusterOk cl then .fault .noSuchUnit
  else if (σ.cluster cl).preempt.isSome || σ.graphWrites cl then .next σ
  else
    let s := σ.modCluster cl fun c => { c with preempt := some σ.cyc, copying := false }
    let s := (coresOf cl).foldl (fun s n =>
      let s := s.modCore n fun c => { c with stopped := true, acked := false }
      (rangeFrom 0 4).foldl (fun s k =>
        if (s.ctx n k).status = .running then s.modCtx n k fun c => { c with interrupt := true } else s) s) s
    let mine := s.procs.filter fun e => e.2.core / 8 == cl && decide (e.2.state = .resident)
    let s := mine.foldl (fun s e => s.modProc e.1 fun p => { p with state := .moving }) s
    let ticket := ((mine.head?).map fun e => s.ticketOf e.2).getD 0
    .next (match s.clusterPart cl with
      | some p => s.eventRecord p 3 3 0 (dieOf cl) (wordOf ticket) 0#64
      | none => s)

/-- CORE_ACKNOWLEDGE (R365): core `turn.sub` of cluster `turn.unit` has no running context left. The eighth acknowledgement
starts the copy; the cluster's open routes are closed before it (04 R81). -/
def execCoreAcknowledge (σ : State) : Out :=
  let cl := σ.turn.unit
  let n := cl * 8 + σ.turn.sub
  if !clusterOk cl || 8 ≤ σ.turn.sub then .fault .noSuchUnit
  else
    let running := (rangeFrom 0 4).any fun k => decide ((σ.ctx n k).status = .running)
    if (σ.cluster cl).preempt.isNone || !(σ.core n).stopped || (σ.core n).acked || running then .next σ
    else
      let s := σ.modCore n fun c => { c with acked := true }
      if (coresOf cl).all fun m => (s.core m).acked then
        let s := (rangeFrom 0 8).foldl (fun s q => s.closeRoutes cl q) s
        .next (s.modCluster cl fun c => { c with copying := true })
      else .next s

/-! ## The copy (R365) -/

/-- A command that has begun and must still complete. -/
def begunCmd : HodEntry → Bool
  | .cmd c => c.begun && !decide (c.op = .strm)
  | .fence _ => false

/-- A job that has begun: a step of it was granted, or it has sent what it reads out. -/
def begunJob : MatEntry → Bool
  | .job j => j.granted != 0 || j.sent
  | .fence _ => false

/-- No context of a core waits for the reply of an access. -/
def Core.quiet (c : Core) : Bool := c.ctxs.all fun x => match x.2.pend with
  | some p => p.reply.isSome || decide (p.kind = .waita) || decide (p.kind = .barwait)
  | none => true

/-- The engines of a cluster stand at command boundaries, and every access of its contexts has been answered. -/
def State.enginesStopped (s : State) (cl : Nat) : Bool :=
  let k := s.cluster cl
  (coresOf cl).all (fun n => (s.core n).quiet) &&
  !(k.hod.any fun q => q.2.any begunCmd) && !(k.mat.any fun q => q.2.any begunJob) && k.mstep.isNone

/-- The image of a core, with the contexts that were saved and those that stand parked. -/
def State.makeImage (s : State) (n : Nat) : Image :=
  let c := s.core n
  let k := s.cluster (n / 8)
  let q := n % 8
  let here := (rangeFrom 0 4).filterMap fun i => if (s.ctx n i).act.isSome then some (i, s.ctx n i) else none
  { core := n, part := (((s.residents n).map Proc.part).headD 0)
    pool := c.pool, tags := c.tags, partw := c.partw, tagDone := c.tagDone, tagErr := c.tagErr, tagCnt := c.tagCnt
    fwin := c.fwin, jobSeq := c.jobSeq, jobs := c.jobs, jobNum := c.jobNum, inboxes := c.inboxes.filter fun i => i.control.isNone
    ctxs := here.foldl (fun m e => put m e.1 e.2) (s.image n).ctxs
    hod0 := find k.hod (2 * q) [], hod1 := find k.hod (2 * q + 1) [], mat := find k.mat q []
    frozen := k.hodFrozen.filterMap fun f => if f.1 / 2 = q then some (f.1 % 2, f.2) else none
    slotA := look k.slotA q, slotB := look k.slotB q
    slots := (s.procs.filter fun e => e.2.core == n && decide (e.2.state = .moving)).map Prod.fst
    poolKnow := c.poolKnow, tagKnow := c.tagKnow, fwOwner := c.fwOwner }

/-- A core after its image was taken: what belongs to the core itself stays. -/
def Core.vacated (c : Core) : Core :=
  { ({} : Core) with
    ctxs := c.ctxs.map fun e => (e.1, e.2.freed)
    inboxes := c.inboxes.filter fun i => i.control.isSome
    samplep := c.samplep, sampleAt := c.sampleAt, sampleLast := c.sampleLast, lastA := c.lastA, lastE := c.lastE
    usedA := c.usedA, usedE := c.usedE, tlb := c.tlb, watches := c.watches
    faultSeq := c.faultSeq, errors := c.errors, retired := c.retired }

/-- The key of a finished image: above the core identifiers, under which images that are being built stand. -/
def imageKey (n : Nat) : Nat := 16384 + n

/-- One core of the cluster goes into its image; its processes become SWAPPED and take the stores queued for them. A context that
stands parked in a wait gives it up; the kept A is discarded in any case (10 R219). -/
def State.swapOut (s : State) (n : Nat) : State :=
  let s := (rangeFrom 0 4).foldl (fun s k => match (s.ctx n k).pend with
    | some p => if p.reply.isSome then s else s.giveUp n k
    | none => s) s
  let s := s.modCluster (n / 8) fun k => { k with keptA := drop k.keptA (n % 8) }
  let im := s.makeImage n
  if im.slots.isEmpty then { s with images := drop s.images n }
  else
    let (id, s) := s.takeFresh
    let s := { s with images := put (drop s.images n) (imageKey id) im }
    let s := s.modCore n Core.vacated
    let q := n % 8
    let s := s.modCluster (n / 8) fun k =>
      { k with
        hod := put (put k.hod (2 * q) []) (2 * q + 1) [], mat := put k.mat q []
        hodFrozen := k.hodFrozen.filter fun f => f.1 / 2 != q
        slotA := drop k.slotA q, slotB := drop k.slotB q }
    let s := im.slots.foldl (fun s slot => s.modProc slot fun p => { p with state := .swapped }) s
    im.slots.foldl (fun s slot => s.applyQueued slot) s

/-- POOL_COPY_DONE (R365): the copy of cluster `turn.unit` is done. Commands and jobs that have begun complete before it. -/
def execPoolCopyDone (σ : State) : Out :=
  let cl := σ.turn.unit
  if !clusterOk cl then .fault .noSuchUnit
  else if !(σ.cluster cl).copying || !σ.enginesStopped cl then .next σ
  else
    let s := (coresOf cl).foldl (fun s n =>
      (s.swapOut n).modCore n fun c => { c with stopped := false, acked := false }) σ
    .next (s.modCluster cl fun c => { c with preempt := none, copying := false })

/-! ## Resume of an image (R369) -/

/-- A context of an image as it stands on its new core: a saved one enters PVEC to be restored, or without PVEC the core
restores it (`State.enterPlaced` tests the vector); a parked one stays parked. Counts that belong to the hardware context stay with it. -/
def Ctx.placed (c here : Ctx) (vecp vect : BitVec 52) : Ctx :=
  let c := { c with sent := here.sent, interval := here.interval, podFence := none, gstvSeq := here.gstvSeq, interrupt := false, stallA := .none, stallE := .none,
                    waitA := none, waitE := none }
  if c.status = .running then
    { c with
      epca := setField c.epca 61 61 1, super := true, routine := true, saved := false, hints := []
      pc := BitVec.ofNat 52 (vecp.toNat / 4 * 4)
      pvec := vecp, tvec := vect, auto := decide (vecp = 0#52) }
  else c

/-- A command or job names the core it now belongs to. -/
def HodEntry.onCore (n : Nat) : HodEntry → HodEntry
  | .cmd c => .cmd { c with core := n }
  | .fence f => .fence { f with core := n }

/-- A job names the core it now belongs to. -/
def MatEntry.onCore (n : Nat) : MatEntry → MatEntry
  | .job j => .job { j with core := n }
  | .fence f => .fence { f with core := n }

/-- The receive ends of a process register their core at their homes; the registration sends no event (R369). -/
def State.registerEnds (s : State) (slot : Nat) : State :=
  let p := s.proc slot
  ((rangeFrom 0 64).filter fun k => (p.endAt k).state = .held && hRecv (p.endAt k).handle).foldl (fun s k =>
    let h := (p.endAt k).handle
    s.toHome p.core (hChid h) (hHome h) p.part (.landing h p.name p.core k true)) s

/-- A registration of an end that a process holds is still on its way to the home: a new one of the same end from another core follows
it there (20 R384). -/
def State.landsOut (s : State) (slot : Nat) : Bool :=
  let p := s.proc slot
  (rangeFrom 0 64).any fun k =>
    decide ((p.endAt k).state = .held) && s.landingOut s.devidx p.core (hChid (p.endAt k).handle)

/-- A core can take an image: it is of the partition, in service, and holds no process. -/
def State.coreFree (s : State) (n part : Nat) : Bool :=
  s.coreInPart n part && !(s.core n).retired && !(s.core n).stopped && (s.residents n).isEmpty

/-- A context that was placed in a routine whose vector has bit 0 or 1 set raises ILLEGAL there (02 R24). -/
def State.enterPlaced (s : State) (n k : Nat) : State :=
  let c := s.ctx n k
  if c.status = .running ∧ c.routine ∧ c.pvec.toNat % 4 ≠ 0 then s.raiseA n k .illegal (c.pvec.setWidth 64) 0#64 else s

/-- Places an image on a core. -/
def State.swapIn (s : State) (key n : Nat) : State :=
  let im := find s.images key {}
  let q := n % 8
  let p := s.part im.part
  let s := { s with images := drop s.images key }
  let s := s.modCore n fun c =>
    { c with
      pool := im.pool, tags := im.tags, poolKnow := im.poolKnow, partw := im.partw, tagDone := im.tagDone, tagErr := im.tagErr
      tagCnt := im.tagCnt, tagKnow := im.tagKnow, fwin := im.fwin, fwOwner := im.fwOwner, jobSeq := im.jobSeq, jobs := im.jobs, jobNum := im.jobNum
      inboxes := c.inboxes ++ im.inboxes
      ctxs := im.ctxs.foldl (fun m e =>
        put m e.1 (e.2.placed (find m e.1 {}) (BitVec.ofNat 52 p.vecp) (BitVec.ofNat 52 p.vect))) c.ctxs }
  let s := s.modCluster (n / 8) fun k =>
    { k with
      hod := put (put k.hod (2 * q) (im.hod0.map (HodEntry.onCore n))) (2 * q + 1) (im.hod1.map (HodEntry.onCore n))
      hodFrozen := k.hodFrozen ++ im.frozen.map fun f => (2 * q + f.1, f.2)
      mat := put k.mat q (im.mat.map (MatEntry.onCore n))
      slotA := (match im.slotA with
        | some o => put k.slotA q o
        | none => drop k.slotA q)
      slotB := (match im.slotB with
        | some o => put k.slotB q o
        | none => drop k.slotB q)
      keptA := drop k.keptA q }
  let s := im.slots.foldl (fun s slot => s.modProc slot fun p => { p with core := n, state := .resident }) s
  let s := im.ctxs.foldl (fun s e => s.enterPlaced n e.1) s
  let s := im.slots.foldl (fun s slot => (s.registerEnds slot).applyQueued slot) s
  s.eventRecord im.part 3 4 0 (dieOf (n / 8)) (wordOf (s.ticketOf (s.proc (im.slots.headD 0)))) 0#64

/-- Commands and jobs of an exited process still run at a core (06 R116): an image is placed there when they have ended. -/
def State.coreDrained (s : State) (n : Nat) : Bool :=
  let k := s.cluster (n / 8)
  let q := n % 8
  (find k.hod (2 * q) []).isEmpty && (find k.hod (2 * q + 1) []).isEmpty && (find k.mat q []).isEmpty
    && (rangeFrom 0 64).all fun t => (s.core n).tagCount t == 0

end Sys2Proof.Machine
end

