-- ==== Sys2Proof/Machine/Place.lean ====
section
/-!
DEFINITION. Network images (14 R328-R331), placement on cores (14 R333, R334, 05 R86, R87), the making of a process, and
the move of a restartable process (15 R374).
-/

namespace Sys2Proof.Machine

/-! ## Reading an image -/

/-- Reads bytes at a virtual address for the scheduler of a die, page by page, on fuel; rights are tested as for SUPER
code (log 27). -/
def readVirt (part die : Nat) : Nat → Nat → Nat → M (List Byte)
  | 0, _, _ => pure []
  | fuel + 1, va, n =>
    if n = 0 then pure []
    else do
      guardFault (decide (va < 2 ^ 52)) .notPresent 0#64
      let k := min n (4096 - va % 4096)
      let pa ← orFail fun s => s.translate { part := part, super := true, kind := 0, va := va,
                                             cluster := clusterOfIndex die 0, core := none }
      let bs ← gets fun s => readBytes s.mem pa k
      let rest ← readVirt part die fuel (va + k) (n - k)
      pure (bs ++ rest)

/-- What a scheduler of a die that could not read an image leaves of its failed walk (03 R55, R59). -/
def State.imageLost (s : State) (part die : Nat) (f : TFail) : State := s.lostBy part (clusterOfIndex die 0) f

/-- Reads `n` bytes. -/
def readImg (part die va n : Nat) : M (List Byte) := readVirt part die (n / 4096 + 2) va n

/-- `n` bytes at offset `o` of a record as a number. -/
def recNat (bs : List Byte) (o n : Nat) : Nat := natOfBytes ((bs.drop o).take n)

/-- Bytes of a record are zero. -/
def recZero (bs : List Byte) (o n : Nat) : Bool := ((bs.drop o).take n).all (· == 0#8)

/-- A header (R328). -/
structure NetHeader where
  version : Nat
  ntmpl : Nat
  nchan : Nat
  prio : Nat
  place : Nat
  npre : Nat
  part : Nat
  pres : List Nat
  zero : Bool
  deriving DecidableEq, Repr

/-- The header of 128 bytes. -/
def NetHeader.read (b : List Byte) : NetHeader :=
  { version := recNat b 0 4, ntmpl := recNat b 4 2, nchan := recNat b 6 2, prio := recNat b 8 1, place := recNat b 9 1
    npre := recNat b 10 1, part := recNat b 11 1
    pres := (rangeFrom 0 (min 8 (recNat b 10 1))).map fun k => recNat b (12 + 2 * k) 2
    zero := recZero b 28 100 }

/-- The header is well formed. -/
def NetHeader.ok (h : NetHeader) : Bool :=
  h.version == 1 && decide (1 ≤ h.ntmpl ∧ h.ntmpl ≤ 4096) && decide (h.nchan ≤ 16384) && decide (h.prio ≤ 7)
    && decide (h.place ≤ 2) && decide (h.npre ≤ 8) && h.zero

/-- A template record (R329). -/
structure Tmpl where
  htab : Nat
  vtab : Nat
  ltab : Nat
  nlay : Nat
  land : Nat
  flags : Nat
  rsk : Nat
  acc : Nat
  inbox : Nat
  tiles : Nat
  tagm : Nat
  budget : Nat
  w0 : Nat
  whereX : Nat
  whereY : Nat
  whereCore : Nat
  regions : List Nat
  lwords : List Word
  nlw : Nat
  zero : Bool
  deriving DecidableEq, Repr

/-- The record of 256 bytes. -/
def Tmpl.read (b : List Byte) : Tmpl :=
  { htab := recNat b 8 8, vtab := recNat b 16 8, ltab := recNat b 24 8, nlay := recNat b 32 2, land := 64 * recNat b 34 1
    flags := recNat b 35 1, rsk := recNat b 36 1, acc := recNat b 37 1, inbox := recNat b 38 1, tiles := recNat b 39 1
    tagm := recNat b 40 8, budget := recNat b 48 8, w0 := recNat b 56 2, whereX := recNat b 58 1, whereY := recNat b 59 1
    whereCore := recNat b 60 1
    regions := (rangeFrom 0 16).map fun k => 64 * recNat b (64 + 2 * k) 2
    lwords := (rangeFrom 0 8).map fun k => wordOf (recNat b (128 + 8 * k) 8)
    nlw := recNat b 192 1
    zero := recZero b 61 3 && recZero b 96 32 && recZero b 193 63 }

/-- LAUNCH -/
def Tmpl.launch (t : Tmpl) : Bool := t.flags % 2 = 1

/-- The record is well formed. -/
def Tmpl.ok (t : Tmpl) : Bool :=
  decide (16 ≤ t.nlay ∧ t.nlay ≤ 256) && decide (t.land ≤ 8192) && decide (t.flags < 4) && decide (t.rsk ≤ 7)
    && decide (t.acc ≤ 3) && decide (t.inbox ≤ 15) && decide (t.tiles ≤ 4) && decide (256 ≤ t.w0 ∧ t.w0 ≤ 65280)
    && decide (t.nlw ≤ 8) && t.zero

/-- The core that WHERE names. -/
def Tmpl.whereAt (t : Tmpl) : Nat := (t.whereY * 64 + t.whereX) * 8 + t.whereCore

/-- WHERE names a core. -/
def Tmpl.whereOk (t : Tmpl) : Bool := decide (t.whereX < 48) && decide (t.whereY < 32) && decide (t.whereCore < 8)

/-- A channel entry (R330). -/
structure ChanEnt where
  stmpl : Nat
  rtmpl : Nat
  sreg : Nat
  rreg : Nat
  cap : Nat
  cflags : Nat
  bind : Nat
  sp : Nat
  gp : Nat
  gi : Nat
  t : Nat
  ren : Nat
  zero : Bool
  deriving DecidableEq, Repr

/-- The entry of 16 bytes. -/
def ChanEnt.read (b : List Byte) : ChanEnt :=
  { stmpl := recNat b 0 2, rtmpl := recNat b 2 2, sreg := recNat b 4 1, rreg := recNat b 5 1, cap := recNat b 6 1
    cflags := recNat b 7 1, bind := recNat b 8 1, sp := recNat b 9 1, gp := recNat b 10 1 % 16, gi := recNat b 10 1 / 16
    t := recNat b 11 1, ren := recNat b 12 1, zero := recZero b 13 3 }

/-- The tables of a template: handler entries, view templates, layout entries. -/
structure Tables where
  handlers : List Word := []
  views : List (BitVec 256) := []
  layouts : List (BitVec 512) := []
  deriving DecidableEq, Repr

/-- A network image as it was read. -/
structure NetImage where
  header : NetHeader
  tmpls : List Tmpl
  chans : List ChanEnt
  tables : List Tables
  deriving DecidableEq, Repr

/-- Reads the tables of a template. -/
def readTables (part die : Nat) (t : Tmpl) : M Tables := do
  let h ← readImg part die t.htab 512
  let v ← readImg part die t.vtab 960
  let l ← readImg part die t.ltab (64 * min 256 t.nlay)
  pure { handlers := (rangeFrom 0 64).map fun k => wordOf (recNat h (8 * k) 8)
         views := (rangeFrom 0 30).map fun k => BitVec.ofNat 256 (recNat v (32 * k) 32)
         layouts := (rangeFrom 0 (min 256 t.nlay)).map fun k => BitVec.ofNat 512 (recNat l (64 * k) 64) }

/-- Reads template record `k` of the image at an address. -/
def readTmpl (part die base k : Nat) : M Tmpl := do
  let b ← readImg part die (base + 128 + 256 * k) 256
  pure (Tmpl.read b)

/-- Reads channel entry `k`. -/
def readChanEnt (part die base ntmpl k : Nat) : M ChanEnt := do
  let b ← readImg part die (base + 128 + 256 * ntmpl + 16 * k) 16
  pure (ChanEnt.read b)

/-- Reads a whole image, well formed or not (R331). -/
def readNet (part die base : Nat) : M NetImage := do
  let b ← readImg part die base 128
  let h := NetHeader.read b
  let ts ← (rangeFrom 0 h.ntmpl).mapM (readTmpl part die base)
  let cs ← (rangeFrom 0 h.nchan).mapM (readChanEnt part die base h.ntmpl)
  let tabs ← ts.mapM (readTables part die)
  pure { header := h, tmpls := ts, chans := cs, tables := tabs }

/-! ## Which cores can hold a process (R334, 05 R86, R87) -/

/-- PARTW of its fields. -/
def mkPartw (rsk acc inbox : Nat) : Word := wordOf (at_ inbox 4 12 + at_ acc 2 4 + at_ rsk 3 0)

/-- RSK, ACC and INBOXK of a PARTW. -/
def partwParts (w : Word) : Nat × Nat × Nat := (fieldOf w 2 0, fieldOf w 5 4, fieldOf w 15 12)

/-- The lowest place for `size` bytes from `lo` below `hi` that meets none of the ranges in use. -/
def firstFit (used : List (Nat × Nat)) (lo hi size : Nat) : Option Nat :=
  let clear := fun (a : Nat) => decide (lo ≤ a) && decide (a + size ≤ hi)
    && used.all fun u => decide (a + size ≤ u.1) || decide (u.1 + u.2 ≤ a)
  ((lo :: used.map fun u => u.1 + u.2).filter clear).foldl (fun (b : Option Nat) a => match b with
    | some x => some (min x a)
    | none => some a) none

/-- Places regions in order; a size of 0 takes none. -/
def fitAll (lo hi : Nat) : List (Nat × Nat) → List (Nat × Nat) → Option (List (Nat × Nat × Nat) × List (Nat × Nat))
  | used, [] => some ([], used)
  | used, (k, size) :: rest =>
    if size = 0 then fitAll lo hi used rest
    else match firstFit used lo hi size with
      | none => none
      | some a => match fitAll lo hi ((a, size) :: used) rest with
        | none => none
        | some r => some ((k, a, size) :: r.1, r.2)

/-- What a process is given on a core: regions, landing region, tiles. -/
structure Room where
  regions : Map (Nat × Nat) := []
  land : Nat × Nat := (0, 0)
  tiles : Nat × Nat := (0, 0)
  deriving DecidableEq, Repr

/-- The needs of a process: PARTW fields, region sizes, landing bytes, tiles. -/
structure Needs where
  rsk : Nat := 0
  acc : Nat := 0
  inbox : Nat := 0
  regions : List Nat := []
  land : Nat := 0
  tiles : Nat := 0
  deriving DecidableEq, Repr

/-- The needs of a template. -/
def Tmpl.needs (t : Tmpl) : Needs :=
  { rsk := t.rsk, acc := t.acc, inbox := t.inbox, regions := t.regions, land := t.land, tiles := t.tiles }

/-- Room under a PARTW beside other processes: the lowest place for each region in order, then the landing region, and
the lowest run of tiles (05 R87, log 28). -/
def Needs.room (n : Needs) (partw : Word) (others : List Proc) : Option Room :=
  let lo := padBase partw
  let hi := padEnd partw
  let used := (others.map fun p => (p.regions.map Prod.snd) ++ (if p.land.2 = 0 then [] else [p.land])).flatten
  let tiles := (others.map fun p => if p.tiles.2 = 0 then [] else [p.tiles]).flatten
  let sizes := (rangeFrom 0 n.regions.length).zip n.regions
  match fitAll lo hi used (sizes ++ [(16, n.land)]) with
  | none => none
  | some r =>
    let tile := if n.tiles = 0 then some 0 else firstFit tiles 0 (accBytes partw / 4096) n.tiles
    match tile with
    | none => none
    | some a =>
      let here := r.1.filter fun e => decide (e.1 < 16)
      let land := (r.1.find? fun e => e.1 == 16).map Prod.snd
      some { regions := here.foldl (fun m e => put m e.1 e.2) [], land := land.getD (0, 0),
             tiles := if n.tiles = 0 then (0, 0) else (a, n.tiles) }

/-- The PARTW that a core without a process is given, and the room in it (R334). -/
def Needs.fresh (n : Needs) : Option (Word × Room) :=
  let w := mkPartw (max 3 n.rsk) (max 2 n.acc) (max 4 n.inbox)
  let exact := mkPartw n.rsk n.acc n.inbox
  match (if partwOk w then n.room w [] else none) with
  | some r => some (w, r)
  | none => match (if partwOk exact then n.room exact [] else none) with
    | some r => some (exact, r)
    | none => none

/-- A core that holds processes has a PARTW that meets the needs. -/
def Needs.met (n : Needs) (partw : Word) : Bool :=
  let w := partwParts partw
  decide (n.rsk ≤ w.1) && decide (n.acc ≤ w.2.1) && decide (n.inbox ≤ w.2.2)

/-- The PARTW and the room of a process on a core that can hold it. -/
def State.canHold (s : State) (core part : Nat) (n : Needs) : Option (Word × Room) :=
  let c := s.core core
  let others := s.residents core
  if !s.coreInPart core part || c.retired || c.stopped || 4 ≤ others.length then none
  else if others.isEmpty then n.fresh
  else if n.met c.partw then (n.room c.partw others).map fun r => (c.partw, r)
  else none

/-- The cores of a partition in the order of their identifiers. -/
def State.partCores (s : State) (part : Nat) : List Nat :=
  ((rangeFrom 0 32).map fun y => ((rangeFrom 0 48).filter fun x => (s.part part).hasColumn x).map fun x =>
    (rangeFrom 0 8).map fun k => (y * 64 + x) * 8 + k).flatten.flatten

/-- The first of some cores that can hold a process. -/
def State.firstCore (s : State) (part : Nat) (n : Needs) (cores : List Nat) : Option Nat :=
  cores.find? fun k => (s.canHold k part n).isSome

/-! ## Making a process (R333, R346) -/

/-- The lowest slot that is free to be named (R346). -/
def State.freeSlot (s : State) : Option Nat :=
  (rangeFrom 1 (min 65535 (s.procs.length + s.draining.length + 1))).find? fun k =>
    decide ((s.proc k).state = .exited) && !(s.draining.any fun d => d.slot == k)

/-- The name that a slot gives out next. -/
def State.nameOf (s : State) (slot : Nat) : Nat := s.devidx * 2 ^ 24 + slot * 256 + (find s.gens slot 0#8).toNat

/-- The lowest pass of the processes on a core, by the sign of differences modulo 2^32 (R337). -/
def State.lowestPass (s : State) (core : Nat) : BitVec 32 :=
  match s.residents core with
  | [] => 0#32
  | p :: ps => ps.foldl (fun b q => if (q.pass - b).toInt < 0 then q.pass else b) p.pass

/-- A landing region's tags, and a tile's, stand as NONE for a new holder (05 R88, log 28). -/
def State.clearTags (s : State) (core off n : Nat) : State :=
  s.modCore core fun c => { c with tags := (granulesOf off n).foldl (fun t g => drop t g) c.tags }

/-- A process in a slot of a core, with its room; its start drops the cluster's read-only cache (04 R74), empties the matrix
queue's slots and kept A (10 R219, R232), and clears the error bits of the tags that are its alone (06 R116). -/
def State.makeProc (s : State) (slot core part net tmpl : Nat) (super : Bool) (t : Tmpl) (tab : Tables) (w : Word) (r : Room) : State :=
  let pass := s.lowestPass core
  let p : Proc :=
    { name := s.nameOf slot, state := .resident, part := part, net := net, tmpl := tmpl, core := core, super := super
      restartable := decide (t.flags / 2 % 2 = 1)
      handlers := ((rangeFrom 0 64).zip tab.handlers).foldl (fun m e => put m e.1 e.2) []
      layouts := ((rangeFrom 0 256).zip tab.layouts).foldl (fun m e => put m e.1 e.2) []
      views := ((rangeFrom 0 30).zip tab.views).foldl (fun m e => put m e.1 e.2) []
      regions := r.regions, land := r.land, tiles := r.tiles
      weight := BitVec.ofNat 16 t.w0, pass := pass, budget := wordOf t.budget, tagm := wordOf t.tagm }
  let q := core % 8
  let s := { s with procs := put s.procs slot p }
  let others := ((s.residents core).filter fun o => o.name != p.name).foldl (fun (m : Word) o => m ||| o.tagm) 0#64
  let s := s.modCore core fun c => { c with partw := w, tagErr := c.tagErr &&& ~~~(p.tagm &&& ~~~others) }
  let s := s.modCluster (core / 8) fun k =>
    { k with slotA := drop k.slotA q, slotB := drop k.slotB q, keptA := drop k.keptA q, ro := [] }
  let s := s.clearTags core r.land.1 r.land.2
  s.clearTags core (4 * rsBytes w + r.tiles.1 * 4096) (r.tiles.2 * 4096)

/-! ## The move of a process (15 R374) -/

/-- The needs of a process by its template, read again from the image (R331). -/
def State.needsOf (s : State) (p : Proc) : Needs :=
  let n := find s.nets p.net {}
  match readTmpl p.part n.die n.image p.tmpl s with
  | .ok (t, _) => t.needs
  | .error _ => { regions := (rangeFrom 0 16).map fun k => (find p.regions k (0, 0)).2, land := p.land.2, tiles := p.tiles.2 }

/-- Copies pool bytes and their tags between cores. -/
def State.copyPool (s : State) (src so dst dof n : Nat) : State :=
  let bs := readBytes (s.core src).pool so n
  let ts := (granulesOf so n).map fun g => (g - so / 64 + dof / 64, (s.core src).tag g)
  s.modCore dst fun c =>
    { c with pool := writeBytes c.pool dof bs,
             tags := ts.foldl (fun t e => if e.2 = 0#5 then drop t e.1 else put t e.1 e.2) c.tags }

/-- The inboxes of a process's channels move with it. -/
def State.moveInboxes (s : State) (slot src dst : Nat) : State :=
  let mine := (s.core src).inboxes.filter fun i => i.slot == slot
  let s := s.modCore src fun c => { c with inboxes := c.inboxes.filter fun i => i.slot != slot }
  s.modCore dst fun c => { c with inboxes := c.inboxes ++ mine }

/-- Commands that issued from a process. -/
def HodEntry.ofName (name : Nat) : HodEntry → Bool
  | .cmd c => c.name == name
  | .fence _ => false

/-- Jobs that issued from a process. -/
def MatEntry.ofName (name : Nat) : MatEntry → Bool
  | .job j => j.name == name
  | .fence _ => false

/-- What moves with a process from a hod queue: its commands, and the fences among which they stand (11 R255). -/
def hodMoves (name : Nat) (q : List HodEntry) : List HodEntry :=
  if q.any (HodEntry.ofName name) then q.filter fun e => match e with
    | .cmd c => c.name == name
    | .fence _ => true
  else []

/-- What moves with a process from a matrix queue. -/
def matMoves (name : Nat) (q : List MatEntry) : List MatEntry :=
  if q.any (MatEntry.ofName name) then q.filter fun e => match e with
    | .job j => j.name == name
    | .fence _ => true
  else []

/-- The tags of what moves, one entry for each command and job. -/
def movedTags (hod : List HodEntry) (mat : List MatEntry) : List Nat :=
  (hod.filterMap fun e => match e with
    | .cmd c => some c.tag
    | .fence _ => none) ++ mat.filterMap fun e => match e with
    | .job j => some j.tag
    | .fence _ => none

/-- The queues and tags of a core take what moves there with a process: 32 commands to a queue (06 R112), 8 jobs (10 R213), 32
commands to a tag (06 R116). -/
def State.workFits (s : State) (p : Proc) (dst : Nat) : Bool :=
  let k := s.cluster (p.core / 8)
  let q := p.core % 8
  let there := s.cluster (dst / 8)
  let d := dst % 8
  let cmds := fun (j : Nat) => hodMoves p.name (find k.hod (2 * q + j) [])
  let jobs := matMoves p.name (find k.mat q [])
  let tags := movedTags (cmds 0 ++ cmds 1) jobs
  ([0, 1].all fun j => decide (cmdCount (find there.hod (2 * d + j) []) + cmdCount (cmds j) ≤ 32))
    && decide (jobCount (find there.mat d []) + jobCount jobs ≤ 8)
    && tags.all fun t => decide ((s.core dst).tagCount t + tags.count t ≤ 32)

/-- A process has commands or jobs that have begun: they complete before it moves (R365). -/
def State.begunOf (s : State) (p : Proc) : Bool :=
  let k := s.cluster (p.core / 8)
  (k.hod.any fun q => q.2.any fun e => e.ofName p.name && begunCmd e)
    || (k.mat.any fun q => q.2.any fun e => e.ofName p.name && begunJob e)

/-- A pool offset of a process after its regions, landing region and tiles have moved. -/
def Proc.moved (p : Proc) (src dst : Word) (r : Room) (off : Nat) : Nat :=
  let tile := (p.tileRange src).1
  let pairs := (r.regions.map fun e => (find p.regions e.1 (0, 0), e.2.1)) ++ [(p.land, r.land.1)]
    ++ [((tile, p.tiles.2 * 4096), 4 * rsBytes dst + r.tiles.1 * 4096)]
  match pairs.find? fun e => decide (e.1.1 ≤ off) && decide (off < e.1.1 + e.1.2) with
  | some e => off - e.1.1 + e.2
  | none => off

/-- A tag of the core that a process leaves gives up a command that moves; a tag of the new core takes it. -/
def State.moveTag (s : State) (src dst tag : Nat) : State :=
  (s.modCore src fun c => c.tagEnd tag false).modCore dst fun c =>
    { c with tagDone := setBit c.tagDone tag false, tagCnt := put c.tagCnt tag (c.tagCount tag + 1) }

/-- The commands and jobs of a process that have not begun go to the queues of its new core, in queue order, with the fences among
which they stand and with their tags; and with them its tags' bits, the job records that the new core does not hold, its fill windows,
and the freeze of a queue that a violation of it froze (R369, R374, R377, log 84). The bits of a tag that other processes there share
stay (06 R116); a route held for a rotation that goes is closed (10 R230). -/
def State.moveWork (s : State) (p : Proc) (dst : Nat) (w : Word) (r : Room) : State :=
  let src := p.core
  let k := s.cluster (src / 8)
  let q := src % 8
  let at' := fun (off : Nat) => p.moved (s.core src).partw w r off
  let cmds := fun (j : Nat) => (hodMoves p.name (find k.hod (2 * q + j) [])).map fun e => match e.onCore dst with
    | .cmd c => .cmd { c with base := if c.op = .fillw then at' c.base else c.base }
    | f => f
  let jobs := (matMoves p.name (find k.mat q [])).map fun e => match e.onCore dst with
    | .job j => .job { j with tile := at' j.tile }
    | f => f
  let c := s.core src
  let froze := k.hodFrozen.filter fun f => f.1 / 2 == q && f.2 == p.name
  let mine := (rangeFrom 0 8).filter fun i => look c.fwOwner i == some p.name && !fwActive ((s.core dst).fwin.toList.getD i 0#64)
  let s := s.modCluster (src / 8) fun k =>
    { k with
      hod := k.hod.map fun e => if e.1 / 2 = q then (e.1, e.2.filter fun x => !x.ofName p.name) else e
      hodFrozen := k.hodFrozen.filter fun f => !(f.1 / 2 == q && f.2 == p.name)
      mat := put k.mat q ((find k.mat q []).filter fun x => !x.ofName p.name) }
  let s := s.modCluster (dst / 8) fun k =>
    let d := dst % 8
    { k with
      hod := put (put k.hod (2 * d) (find k.hod (2 * d) [] ++ cmds 0)) (2 * d + 1) (find k.hod (2 * d + 1) [] ++ cmds 1)
      hodFrozen := k.hodFrozen ++ froze.map fun f => (2 * d + f.1 % 2, f.2)
      mat := put k.mat d (find k.mat d [] ++ jobs) }
  let tags := movedTags (cmds 0 ++ cmds 1) jobs
  let fresh := (s.residents dst).all fun o => o.name == p.name
  let own := (s.residents dst).foldl (fun (m : Word) o => if o.name = p.name then m else m &&& ~~~o.tagm) p.tagm
  let s := s.modCore dst fun d =>
    { d with
      tagErr := (d.tagErr &&& ~~~own) ||| (c.tagErr &&& p.tagm)
      tagKnow := joinKnow d.tagKnow c.tagKnow
      jobSeq := if fresh then c.jobSeq else d.jobSeq
      jobs := c.jobs.foldl (fun m e => if (look m e.1).isSome then m else put m e.1 e.2) d.jobs
      jobNum := c.jobNum.foldl (fun m e => if (look m e.1).isSome then m else put m e.1 e.2) d.jobNum
      fwin := mine.foldl (fun v i => if h : i < 8 then v.set i (c.fwin[i]'h) else v) d.fwin
      fwOwner := mine.foldl (fun m i => put m i p.name) d.fwOwner }
  let s := s.modCore src fun c =>
    { c with fwOwner := mine.foldl (fun m i => drop m i) c.fwOwner
             fwin := mine.foldl (fun v i => if h : i < 8 then v.set i 0#64 else v) c.fwin }
  (tags.foldl (fun s t => s.moveTag src dst t) s).closeRoutes (src / 8) q

/-- Moves a process to a core: its regions, landing region and tiles with their tags, its inboxes, and what it has left to be
done; its ends register. -/
def State.moveProc (s : State) (slot dst : Nat) (w : Word) (r : Room) : State :=
  let p := s.proc slot
  let src := p.core
  let s := s.modCore dst fun c => { c with partw := w }
  let s := r.regions.foldl (fun s e =>
    let o := find p.regions e.1 (0, 0)
    s.copyPool src o.1 dst e.2.1 o.2) s
  let s := s.copyPool src p.land.1 dst r.land.1 p.land.2
  let s := s.copyPool src (p.tileRange (s.core src).partw).1 dst (4 * rsBytes w + r.tiles.1 * 4096) (p.tiles.2 * 4096)
  let s := s.moveInboxes slot src dst
  let s := s.moveWork p dst w r
  let pass := s.lowestPass dst
  let q := dst % 8
  let s := s.modCluster (dst / 8) fun k => { k with slotA := drop k.slotA q, slotB := drop k.slotB q, keptA := drop k.keptA q }
  let s := s.modProc slot fun p => { p with core := dst, regions := r.regions, land := r.land, tiles := r.tiles, moving := false,
                                            state := .resident, pass := pass }
  let s := (s.registerEnds slot).applyQueued slot
  s.eventRecord p.part 3 5 0 (dieOf (dst / 8)) (wordOf (s.ticketOf p)) 0#64

/-- Contexts of its core in which an activation of a process stands parked. -/
def State.parkedRuns (s : State) (slot : Nat) : Bool :=
  (s.runs slot).any fun k => !decide ((s.ctx (s.proc slot).core k).status = .running)

end Sys2Proof.Machine
end

