-- ==== Sys2Proof/Machine/Control.lean ====
section
/-!
DEFINITION. The supervisor's commands on a context (15 R361): RESUME, RESTART, KILL, EXIT; the activation budget's HANG
(14 R339).
-/

namespace Sys2Proof.Machine

/-- The words of a command are well formed: a command of 0-3, word 1 and every other bit zero. -/
def controlOk (w0 w1 : Word) : Bool :=
  decide (fieldOf w0 7 4 < 4) && w1 == 0#64 && fieldOf w0 31 8 == 0 && fieldOf w0 3 2 == 0

/-- KILL (R361): the outbox is dropped and withdrawn, the undo window restored where the activation is rollable, the
context freed; its streams and a watch of it end with it. -/
def State.killCtx (s : State) (n k : Nat) : State :=
  let c := s.ctx n k
  let s := (s.dropWatches n k).dropOutbox n k
  let s := if c.rollable then s.restoreUndo n k else s
  let s := s.endStreams n k
  match c.act with
  | some a => (s.freeCtx n k).exitIfIdle a.slot
  | none => s.freeCtx n k

/-- The commands of a hod queue that a process's violation froze are discarded when the process is made to exit (R377):
each ends as cancelled (log 29). -/
def State.thawQueues (s : State) (cl name : Nat) : State :=
  let mine := (s.cluster cl).hodFrozen.filter fun f => f.2 == name
  mine.foldl (fun s f =>
    let q := find (s.cluster cl).hod f.1 []
    let s := s.modCluster cl fun k => { k with hod := put k.hod f.1 [], hodFrozen := k.hodFrozen.filter (· != f) }
    q.foldl (fun s e => match e with
      | .cmd c => s.endCopy c .cancelled
      | .fence _ => s) s) s

/-- RESUME (R360): each half restarts at its own program counter; the queued E words are kept. A program counter has no bits 1:0
(02 R24), so those that MTS has written in FAULTA are left out (log 8). -/
def State.resumeCtx (s : State) (n k : Nat) : State :=
  s.modCtx n k fun c => { c with status := .running, hints := [], pc := c.faulta &&& ~~~3#52, afault := none }

/-- A command on context `k` of core `n` for the process of a name in a partition: the outcome of R361 and the state. -/
def State.control (s : State) (n part : Nat) (w0 w1 : Word) : Nat × State :=
  let k := fieldOf w0 1 0
  let c := s.ctx n k
  let stands := decide (c.status = .parked) || decide (c.status = .frozen)
  if !controlOk w0 w1 then (4, s)
  else match c.act with
  | none => (1, s)
  | some a =>
    if !stands || a.name ≠ fieldOf w0 63 32 || a.part ≠ part then (1, s)
    else match fieldOf w0 7 4 with
      | 0 => if c.status = .frozen then (3, s) else (0, s.resumeCtx n k)
      | 1 =>
        if c.status = .frozen then (3, s)
        else if !c.rollable then (2, s)
        else (0, (s.endStreams n k).rerun n k)
      | 2 => (0, s.killCtx n k)
      | _ =>
        let s := s.modProc a.slot fun p => { p with exiting := true }
        (0, (s.thawQueues (n / 8) a.name).killCtx n k)

/-- The core reports a command (R361): a fault message with source 7 and code 0, word 3 the outcome. Words 1, 2 and 5 tell of the
context and its activation as they stood when the command was taken, where they are of the partition (log 32). -/
def State.reportControl (s : State) (n part : Nat) (w0 : Word) (outcome : Nat) (was : Ctx) : State :=
  let told := match was.act with
    | some a => if a.part = part then some a else none
    | none => none
  let ws := match told with
    | some a => [was.faulta.setWidth 64, was.faulte.setWidth 64, wordOf outcome, 0#64, was.faultWord5 a, 0#64, 0#64]
    | none => [0#64, 0#64, wordOf outcome, 0#64, 0#64, 0#64, 0#64]
  s.post part n 7 0 (fieldOf w0 1 0) 0 (fieldOf w0 63 32) ws

/-- The message that core `n` takes next from its control channels: the inbox, its partition and the message. -/
def State.nextControl (s : State) (n : Nat) : Option (Inbox × Nat × Msg) :=
  (s.core n).inboxes.findSome? fun i => match i.control with
    | some part => (i.held.find? fun m => m.seq == i.next).map fun m => (i, part, m)
    | none => none

/-- The words of a control message, where it has two and carries no end. -/
def Msg.controlWords (m : Msg) : Option (Word × Word) := match m.words with
  | [w0, w1] => if m.ends.isEmpty then some (w0, w1) else none
  | _ => none

/-- The message leaves its inbox; an end that it carries is closed at its home. -/
def State.takeControl (s : State) (n : Nat) (i : Inbox) (m : Msg) : State :=
  let s := s.modInbox n i.chid fun i => { i with held := i.held.filter (· != m), next := (i.next + 1) % 2 ^ 32 }
  (s.advanceControl n i.chid (i.settled.length + 1)).discard n 0 m

/-- One command row (R361): core `turn.unit` takes the next message of its control channels. Each row takes its own command; one
that is malformed, also by its length or by an end that it carries, is reported by whichever row comes first. -/
def State.controlRow (s : State) (cmd : Nat) : Out :=
  let n := s.turn.unit
  if !coreOk n then .fault .noSuchUnit
  else match s.nextControl n with
  | none => .next s
  | some (i, part, m) =>
    let t := s.takeControl n i m
    match m.controlWords with
    | none => .next (t.reportControl n part (m.words.getD 0 0#64) 4 (s.ctx n (fieldOf (m.words.getD 0 0#64) 1 0)))
    | some (w0, w1) =>
      if controlOk w0 w1 && fieldOf w0 7 4 != cmd then .next s
      else
        let r := t.control n part w0 w1
        .next (r.2.reportControl n part w0 r.1 (s.ctx n (fieldOf w0 1 0)))

/-- RESUME (R360, R361) -/
def execResume (σ : State) : Out := σ.controlRow 0
/-- RESTART (R361, R372) -/
def execRestart (σ : State) : Out := σ.controlRow 1
/-- KILL (R361) -/
def execKill (σ : State) : Out := σ.controlRow 2
/-- EXIT (R361) -/
def execExit (σ : State) : Out := σ.controlRow 3

/-- The budget has run out and the context is at an A-half instruction boundary (14 R339). An access or a request at a home whose
reply is out is no boundary: it completes first; a WAITA or a BARWAIT only waits. -/
def Ctx.hangs (c : Ctx) : Bool :=
  let boundary := match c.pend with
    | none => true
    | some p => decide (p.kind = .waita) || decide (p.kind = .barwait)
  decide (c.status = .running) && c.actbud == 0#64 && c.afault.isNone && boundary

/-- HANG (14 R339): FAULTA and FAULTE name the next instructions, FAULTX is 0. An instruction that waits is given up. -/
def State.hang (s : State) (n k : Nat) : State :=
  let s := s.giveUp n k
  let c := s.ctx n k
  (s.setCtx n k { c with hints := [], pc := c.nextA }).park n k .hang 1 c.nextA c.nextE 0#64 0#64

/-- HANG (14 R339): context `turn.ctx` of core `turn.core`. -/
def execHang (σ : State) : Out :=
  if !coreOk σ.turn.core || 4 ≤ σ.turn.ctx then .fault .noSuchUnit
  else if σ.actor.hangs then .next (σ.hang σ.turn.core σ.turn.ctx) else .next σ

end Sys2Proof.Machine
end

