-- ==== Sys2Proof/Machine/Mortar.lean ====
section
/-!
DEFINITION. The Mortar network (04 R76-R81): routing, the bubble rule, stop and go, arbitration at an output link, stream
routes, multicast; and what a packet does that no row of its own takes from the local port.
-/

namespace Sys2Proof.Machine

/-! ## Routing (R76) -/

/-- The output that a packet for cluster `dst` takes at cluster `here`: first along x, then along y; 4 is the local port. -/
def mortarOut (here dst : Nat) : Nat :=
  let dx := (clusterX dst + 48 - clusterX here) % 48
  let dy := (clusterY dst + 32 - clusterY here) % 32
  if dx ≠ 0 then (if dx ≤ 24 then 0 else 1) else if dy ≠ 0 then (if dy ≤ 16 then 3 else 2) else 4

/-- The cluster beyond ring port `o`: 0 east, 1 west, 2 north, 3 south. -/
def mortarNext (here o : Nat) : Nat :=
  let x := clusterX here
  let y := clusterY here
  match o with
  | 0 => y * 64 + (x + 1) % 48
  | 1 => y * 64 + (x + 47) % 48
  | 2 => (y + 31) % 32 * 64 + x
  | _ => (y + 1) % 32 * 64 + x

/-- The ring port opposite `o`: what leaves by `o` reaches the neighbour there. -/
def mortarOpp (o : Nat) : Nat := if o % 2 = 0 then o + 1 else o - 1

/-- Changes the router of a cluster. -/
def State.modRouter (s : State) (cl : Nat) (f : Router → Router) : State :=
  s.modCluster cl fun c => { c with router := f c.router }

/-! ## Stream routes (R81) -/

/-- The route of a stream packet: a marker's own, and for a rotated operand that of its source queue and slot. -/
def Packet.routeId (p : Packet) : Option Nat :=
  match p.body with
  | .openRoute id | .closeRoute id => some id
  | .operand _ isA _ n => some (n / 8 * 16 + n % 8 * 2 + (if isA then 0 else 1))
  | _ => none

/-- The packet belongs to a route that holds an entry at the output. -/
def Router.holds (r : Router) (o : Nat) (p : Packet) : Bool := match p.routeId with
  | some id => (find r.routes o []).contains id
  | none => false

/-- A packet passes an output: an opening marker claims an entry where one of the 16 is free, and else claims none from there on; a
closing one releases it. -/
def Router.pass (r : Router) (o : Nat) (p : Packet) : Router × Packet :=
  let es := find r.routes o []
  match p.body with
  | .openRoute id =>
    if p.unheld || es.contains id then (r, p)
    else if 16 ≤ es.length then (r, { p with unheld := true })
    else ({ r with routes := put r.routes o (es ++ [id]) }, p)
  | .closeRoute id => ({ r with routes := put r.routes o (es.filter (· != id)) }, p)
  | _ => (r, p)

/-! ## Arrival at the local port -/

/-- A request at a home of this device for a context of another device, and its reply. -/
def State.askFar (s : State) (dev core ctx req : Nat) (q : HomeReq) : State :=
  let r := s.homeAsk q
  let f := r.2.2.1.map fun code => (code, 0#64)
  r.2.2.2.injectPkt { dst := dev, core := core, ctx := ctx, cls := 1,
                      body := .reply req { value := r.1, status := r.2.1, fault := f } }

/-- What a packet does on arrival that no row of its own takes up: notices to the parties of a record, a request at a record that is
not there, replies and markers whose effect is over. `none` where a row of its own takes it. -/
def State.absorb (s : State) (b : PBody) : Option State :=
  match b with
  | .accepted name regs => some (match s.named name with
    | some _ => s.clearEnds (slotOf name) regs .empty
    | none => s)
  | .rateStart core chid cap period parked =>
    some (s.modInbox core chid fun i => { i with cap := cap, period := period, refused := 0, since := s.cyc, far := parked })
  | .rateLoad name chid share => some (s.tookLoad name chid share)
  | .ask dev core ctx req q => if (s.record q.chid).isSome then none else some (s.askFar dev core ctx req q)
  | .room _ | .multicast _ _ | .openRoute _ | .closeRoute _ | .invalidate _ | .evicted _ _ => some s
  | _ => none

/-- A packet reaches the local port of its cluster. -/
def State.atLocal (s : State) (cl : Nat) (p : Packet) : State :=
  match s.absorb p.body with
  | some t => t
  | none => s.modCluster cl fun c => { c with arrived := c.arrived ++ [{ p with dst := [cl] }] }

/-! ## One hop (R78, R79) -/

/-- STOP of a class on the link into input `key` of a cluster: raised when its free buffers fall to 2, lowered when they
rise to 4; the flag stands at the router that sends. -/
def State.stopGo (s : State) (cl key : Nat) : State :=
  let port := key / 3
  if 4 ≤ port then s
  else
    let used := (find (s.cluster cl).router.inp key []).length
    let up := mortarNext cl port
    let k := mortarOpp port * 3 + key % 3
    if 4 ≤ used then s.modRouter up fun r => { r with stop := put r.stop k true }
    else if used ≤ 2 then s.modRouter up fun r => { r with stop := put r.stop k false }
    else s

/-- The bubble rule (R78): a packet that goes on along its ring needs one free place of the outgoing queue's 8; one that
is injected or turns needs three. -/
def Router.admits (r : Router) (port o c : Nat) : Bool :=
  let used := (find r.out (o * 3 + c) []).length
  if port = mortarOpp o then decide (used < 8) else decide (used + 3 ≤ 8)

/-- The head packet of an input enters the outgoing queue of its ring, or the local port. One for several clusters takes
one branch at a time (R73). -/
def State.hopIn (s : State) (cl key : Nat) : State :=
  let r := (s.cluster cl).router
  match find r.inp key [] with
  | [] => s
  | p :: rest =>
    let wants := fun (o : Nat) => p.dst.filter fun d => mortarOut cl d == o
    let go := fun (o : Nat) => !(wants o).isEmpty && (o == 4 || r.admits (key / 3) o (key % 3))
    match [4, 0, 1, 2, 3].find? go with
    | none => if p.dst.isEmpty then s.modRouter cl fun r => { r with inp := put r.inp key rest } else s
    | some o =>
      let left := p.dst.filter fun d => mortarOut cl d != o
      let q := if left.isEmpty then rest else { p with dst := left } :: rest
      let s := (s.modRouter cl fun r => { r with inp := put r.inp key q }).stopGo cl key
      if o = 4 then s.atLocal cl p
      else
        let k := o * 3 + key % 3
        s.modRouter cl fun r => { r with out := put r.out k (find r.out k [] ++ [{ p with dst := wants o }]) }

/-- The oldest packet of a list. -/
def oldest : List Packet → Option Packet
  | [] => none
  | p :: ps => match oldest ps with
    | none => some p
    | some q => if q.age < p.age then some q else some p

/-- The packet that an outgoing queue sends next: the oldest, of a stream class first among those of held routes. -/
def Router.nextOut (r : Router) (o c : Nat) : Option Packet :=
  let q := find r.out (o * 3 + c) []
  match oldest (if c = 2 then q.filter (r.holds o) else []) with
  | some p => some p
  | none => oldest q

/-- The class that an output link serves next: round robin, empty and stopped classes skipped. -/
def State.linkClass (s : State) (cl o : Nat) : Option Nat :=
  let r := (s.cluster cl).router
  let n := (s.cluster (mortarNext cl o)).router
  let last := find r.last o 2
  [(last + 1) % 3, (last + 2) % 3, last % 3].find? fun c =>
    !(find r.out (o * 3 + c) []).isEmpty && !(find r.stop (o * 3 + c) false)
      && decide ((find n.inp (mortarOpp o * 3 + c) []).length < 6)

/-- An output link sends one packet to the neighbour's input. -/
def State.hopOut (s : State) (cl o : Nat) : State :=
  match s.linkClass cl o with
  | none => s
  | some c =>
    match ((s.cluster cl).router).nextOut o c with
    | none => s
    | some p =>
      let key := mortarOpp o * 3 + c
      let nx := mortarNext cl o
      let r := (s.cluster cl).router
      let (r, sent) := ({ r with out := put r.out (o * 3 + c) ((find r.out (o * 3 + c) []).filter (· != p)),
                                 last := put r.last o c } : Router).pass o p
      let s := s.modRouter cl fun _ => r
      let s := s.modRouter nx fun r => { r with inp := put r.inp key (find r.inp key [] ++ [sent]) }
      s.stopGo nx key

/-- MORTAR_HOP (R78): at the router of cluster `turn.unit`, for `turn.sub` 0-14 the head packet of input
`port * 3 + class` enters its outgoing queue; for 15-18 the link of ring port `turn.sub` − 15 sends one packet. -/
def execMortarHop (σ : State) : Out :=
  if !clusterOk σ.turn.unit || 19 ≤ σ.turn.sub then .fault .noSuchUnit
  else if σ.turn.sub < 15 then .next (σ.hopIn σ.turn.unit σ.turn.sub)
  else .next (σ.hopOut σ.turn.unit (σ.turn.sub - 15))

end Sys2Proof.Machine
end

