-- ==== Sys2Proof/Machine/Pod.lean ====
section
/-!
DEFINITION. The pod at this device (12 R263-R277, 18 R381): routes over the torus, the Xanol router's arbitration, links,
ageing; what a packet from another device does here: received counts, stamped packets, count markers, remote accesses
and replies.
-/

namespace Sys2Proof.Machine

/-! ## The torus (R263, R264, R267, R268) -/

/-- The coordinate of a device index in dimension 0 x, 1 y, 2 z. -/
def torusAt (dim i : Nat) : Nat := match dim with
  | 0 => i % 4 | 1 => i / 4 % 6 | _ => i / 24

/-- The ring's length in a dimension. -/
def torusSize (dim : Nat) : Nat := match dim with
  | 0 => 4 | 1 => 6 | _ => 8

/-- The direction in one dimension, 0 increasing, 1 decreasing, none where the coordinate is reached. At half the ring it
is the direction whose output has more free buffers: `incr` tells, per dimension, whether that is the increasing one. -/
def torusDir (dim here dst : Nat) (incr : Nat → Bool) : Option Nat :=
  let n := torusSize dim
  let d := (torusAt dim dst + n - torusAt dim here) % n
  if d = 0 then none
  else if 2 * d = n then some (if incr dim then 0 else 1)
  else some (if 2 * d < n then 0 else 1)

/-- The dimension and direction of the next hop by a path's order: bit 1 clear x, y, z; set z, y, x. -/
def torusHop (here dst path : Nat) (incr : Nat → Bool) : Option (Nat × Nat) :=
  (if path / 2 % 2 = 0 then [0, 1, 2] else [2, 1, 0]).findSome? fun dim => (torusDir dim here dst incr).map fun d => (dim, d)

/-- The increasing direction of a dimension has as many free buffers of a class beyond its output as the decreasing one
(R267). -/
def State.increasing (s : State) (p : PodPacket) (dim : Nat) : Bool :=
  let up := 4 * dim + p.path % 2
  decide ((s.port (up + 2)).room.getD p.cls 256 ≤ (s.port up).room.getD p.cls 256)

/-- The port a packet takes for its next hop, by bit 0 of its path; a flit of a graph has its egress port. -/
def State.portFor (s : State) (p : PodPacket) : Option Nat := match p.port with
  | some k => some k
  | none => (torusHop s.devidx p.dst p.path (s.increasing p)).map fun h => 4 * h.1 + 2 * h.2 + p.path % 2

/-- The same direction's port on the other I/O die. -/
def otherDie (p : Nat) : Nat := if p % 2 = 0 then p + 1 else p - 1

/-- Where a packet leaves: its port, or the one beside it when its link is down; `none` when both are down (R268). A graph's
flits have no other port. -/
def State.exitFor (s : State) (p : PodPacket) (port : Nat) : Option Nat :=
  if (s.port port).state ≠ .down then some port
  else if p.port.isNone && decide ((s.port (otherDie port)).state ≠ .down) then some (otherDie port)
  else none

/-! ## Router inputs -/

/-- Packets at a router input: those of ports 0-11, and 12 for what this device injects. -/
def State.inputOf (s : State) (i : Nat) : List PodPacket := if i < 12 then (s.port i).inp else s.inject

/-- Sets the packets of an input. -/
def State.setInput (s : State) (i : Nat) (ps : List PodPacket) : State :=
  if i < 12 then s.modPort i fun h => { h with inp := ps }.stopGo else { s with inject := ps }

/-- A packet comes in over a link (R265) that is up, where a buffer of its class is free; every packet that the far end sends before
it sees STOP finds one, and a link that trains or is down carries nothing (R266). -/
def State.arrivePacket (s : State) (port : Nat) (p : PodPacket) : State :=
  s.modPort port fun h =>
    if h.state ≠ .up ∨ 256 ≤ (h.inp.filter fun q => q.cls == p.cls).length then h
    else { h with inp := h.inp ++ [{ p with port := none, since := s.cyc }] }.stopGo

/-- A dropped packet is counted (R268). -/
def State.countDrop (s : State) (port : Nat) : State := s.modPort port fun h => { h with drop := min 65535 (h.drop + 1) }

/-- A stomped packet is counted where it was found (R270). -/
def State.countStomp (s : State) (i : Nat) : State :=
  if i < 12 then s.modPort i fun h => { h with stomp := min 65535 (h.stomp + 1) } else s

/-- A flit of a stream that came for a Lintel array of this device. -/
def PodPacket.isFlit (p : PodPacket) : Bool := match p.body with
  | .flit _ _ _ _ _ => p.port.isNone
  | _ => false

/-- The first packet of each class at an input that travels on to another device; of what this device injects, the first
for each output, since its flits and packets wait for their own. -/
def State.transit (s : State) (i : Nat) : List PodPacket :=
  let goes := fun (p : PodPacket) => (p.dst != s.devidx || p.port.isSome) && !p.isFlit
  if i < 12 then [1, 0, 2].filterMap fun c => (s.inputOf i).find? fun p => p.cls == c && goes p
  else (s.inputOf i).filter goes

/-! ## Arbitration (R269) -/

/-- The rank of a packet at input `i` for an output that last served `last`: saturated age, priority, age, class order,
round robin. -/
def PodPacket.rank (p : PodPacket) (i last : Nat) : Nat :=
  let c := match p.cls with
    | 1 => 2 | 0 => 1 | _ => 0
  (if 255 ≤ p.age then 2 ^ 32 else 0) + p.prio % 4 * 2 ^ 28 + min 255 p.age * 2 ^ 16 + c * 2 ^ 8 + (12 - (i + 25 - last) % 13)

/-- The candidate of highest rank. -/
def bestOf (last : Nat) : List (Nat × PodPacket) → Option (Nat × PodPacket)
  | [] => none
  | x :: xs => match bestOf last xs with
    | none => some x
    | some y => if x.2.rank x.1 last < y.2.rank y.1 last then some y else some x

/-- The far input's free buffers per class, which come from outside with the act; without them, all 256. -/
def State.farFree (s : State) : List Nat := (rangeFrom 0 3).map fun c => match s.turn.words[c]? with
  | some w => w.toNat
  | none => 256

/-- The free buffers of the far input as it tells them, and its STOP per class as it raises and lowers it (R266). -/
def Port.hear (h : Port) (free : List Nat) : Port :=
  { h with
    room := free
    stop := (rangeFrom 0 3).filter fun c =>
      decide (free.getD c 0 ≤ h.stopAt) || (h.stop.contains c && decide (free.getD c 0 < h.stopAt + 16)) }

/-- A packet at input `i` may leave by a port: no STOP for its class, and the bubble rule of R267. -/
def State.mayLeave (s : State) (o i : Nat) (p : PodPacket) : Bool :=
  let free := (s.port o).room.getD p.cls 0
  !((s.port o).stop.contains p.cls) && (if i < 12 && i / 4 == o / 4 then decide (1 ≤ free) else decide (3 ≤ free))

/-- Candidates for output `o`: with `dead`, those that prefer it and find both links down. -/
def State.wanting (s : State) (o : Nat) (dead : Bool) : List (Nat × PodPacket) :=
  ((rangeFrom 0 13).map fun i => (s.transit i).map fun p => (i, p)).flatten.filter fun x =>
    match s.portFor x.2 with
    | none => false
    | some port => if dead then port == o && (s.exitFor x.2 port).isNone else s.exitFor x.2 port == some o && s.mayLeave o x.1 x.2

/-- Removes the first packet equal to `p`. -/
def removePkt (p : PodPacket) : List PodPacket → List PodPacket
  | [] => []
  | q :: qs => if q = p then qs else q :: removePkt p qs

/-- XANOL_FORWARD (R267-R270): output port `turn.unit` forwards one packet or flit, or drops one whose links are down. The words
give the far input's free buffers per class; `turn.val` 1 says that the header CRC fails, and the packet goes on stomped. -/
def execXanolForward (σ : State) : Out :=
  let o := σ.turn.unit
  if 12 ≤ o then .fault .noSuchUnit
  else
    let s := σ.modPort o fun h => h.hear σ.farFree
    match bestOf (σ.port o).last (s.wanting o true) with
    | some (i, p) => .next ((s.setInput i (removePkt p (s.inputOf i))).countDrop o)
    | none =>
      if (σ.port o).state ≠ .up then .next s
      else match bestOf (σ.port o).last (s.wanting o false) with
      | none => .next s
      | some (i, p) =>
        let s := s.setInput i (removePkt p (s.inputOf i))
        if p.stomped then .next (s.countStomp i)
        else
          let s := s.modPort o fun h => { h with sent := h.sent ++ [{ p with stomped := decide (σ.turn.val % 2 = 1) }], last := i, row := 0 }
          .next (s.count p.part 16 1)

/-! ## Links (R266) -/

/-- LINK_REPLAY (R266): a flit of port `turn.unit` failed its FEC and is replayed; the eighth replay in a row starts
training. -/
def execLinkReplay (σ : State) : Out :=
  if 12 ≤ σ.turn.unit then .fault .noSuchUnit
  else if (σ.port σ.turn.unit).state ≠ .up then .next σ
  else .next (σ.modPort σ.turn.unit fun h =>
    let h := { h with replay := min 65535 (h.replay + 1), row := h.row + 1 }
    if 8 ≤ h.row then { h with state := .training, row := 0 } else h)

/-- LINK_TRAINING_DONE (R266, R278): training of port `turn.unit` succeeds with a round trip of `turn.val` packets, or
fails. -/
def execLinkTrainingDone (σ : State) : Out :=
  if 12 ≤ σ.turn.unit then .fault .noSuchUnit
  else if (σ.port σ.turn.unit).state ≠ .training then .next σ
  else .next (σ.modPort σ.turn.unit fun h =>
    if σ.turn.ok then { h with state := .up, stopAt := σ.turn.val + 4, stop := [], row := 0 } else { h with state := .down })

/-- PACKET_AGEING (R269): packets at input `turn.unit` grow older by 1 for each 128 clocks they have waited. -/
def execPacketAgeing (σ : State) : Out :=
  if 13 ≤ σ.turn.unit then .fault .noSuchUnit
  else .next (σ.setInput σ.turn.unit ((σ.inputOf σ.turn.unit).map fun p =>
    if p.since + 128 ≤ σ.cyc then { p with age := min 255 (p.age + 1), since := p.since + 128 } else p))

/-! ## Received counts (R273) -/

/-- The entry of a source context at an I/O die. -/
def State.recvAt (s : State) (io dev core ctx : Nat) : Option Recv :=
  (find s.recv io []).find? fun r => r.dev == dev && r.core == core && r.ctx == ctx

/-- The packet belongs to the interval of an entry. -/
def PodPacket.sameInterval (p : PodPacket) (r : Recv) : Bool := r.interval == p.interval

/-- The counts of a packet's interval that were received for a path at both I/O dies. -/
def State.received (s : State) (p : PodPacket) (path : Nat) : Nat :=
  [0, 1].foldl (fun n io => match s.recvAt io p.src p.core p.ctx with
    | some r => if p.sameInterval r then n + r.counts.getD path 0 else n
    | none => n) 0

/-- Sets the entry of a source context at an I/O die; none frees it. -/
def State.setRecv (s : State) (io : Nat) (p : PodPacket) (r : Option Recv) : State :=
  let others := (find s.recv io []).filter fun r => !(r.dev == p.src && r.core == p.core && r.ctx == p.ctx)
  { s with recv := put s.recv io (others ++ r.toList) }

/-- Held packets that meet a test are discarded; a GSTV among them passes its turn (R275). -/
def State.dropHeld (s : State) (test : PodPacket → Bool) : State :=
  let gone := ((s.stamped.map Prod.snd).flatten.filter test).filterMap fun q => match q.body with
    | .landing g => some g
    | _ => none
  let s := { s with stamped := s.stamped.map fun (e : Nat × List PodPacket) => (e.1, e.2.filter fun q => !test q) }
  gone.foldl State.passGstv s

/-- Counts an arriving packet, where an entry of the 16,384 serves it. The first packet of a new interval starts the counts
anew, and what is still held of an interval before it has ended in a mismatch (R275); one of an interval that is over is not
counted (log 79). -/
def State.countRecv (s : State) (io : Nat) (p : PodPacket) : State :=
  let first : Recv := { dev := p.src, core := p.core, ctx := p.ctx, interval := p.interval, since := s.cyc,
                        counts := setAt [0, 0, 0, 0] p.path 1 }
  match s.recvAt io p.src p.core p.ctx with
  | some r =>
    if p.sameInterval r then s.setRecv io p (some { r with counts := setAt r.counts p.path (r.counts.getD p.path 0 + 1) })
    else if r.interval < p.interval then
      (s.setRecv io p (some first)).dropHeld fun q => q.src == p.src && q.core == p.core && q.ctx == p.ctx && decide (q.interval < p.interval)
    else s
  | none => if 16384 ≤ (find s.recv io []).length then s else s.setRecv io p (some first)

/-- Takes back one count of a packet that failed; an entry without counts is free again. -/
def State.uncount (s : State) (io : Nat) (p : PodPacket) : State :=
  match s.recvAt io p.src p.core p.ctx with
  | some r =>
    if p.sameInterval r then
      let counts := setAt r.counts p.path (r.counts.getD p.path 0 - 1)
      s.setRecv io p (if counts.all (· == 0) then none else some { r with counts := counts })
    else s
  | none => s

/-- A store that is counted (R272). -/
def PodPacket.counted (p : PodPacket) : Bool := match p.body with
  | .store _ _ _ | .storeBits _ => true
  | _ => false

/-- A packet of the same source context and interval. -/
def PodPacket.mate (p q : PodPacket) : Bool := q.src == p.src && q.core == p.core && q.ctx == p.ctx && q.interval == p.interval

/-- A counted store that is held is among those that a stamp names. -/
def PodPacket.before (q : PodPacket) (st : List Nat) : Bool := match q.stamp with
  | none => true
  | some u => decide (u.getD q.path 0 < st.getD q.path 0)

/-- The packets of a packet's interval that are held, or wait for room in a staging. -/
def State.heldMates (s : State) (p : PodPacket) : List PodPacket :=
  ((s.stamped ++ s.farWait).map Prod.snd).flatten.filter p.mate

/-- The stores received on a path that a stamp can speak of: a held store counts on arrival (18 R381), but one with a stamp of its own
that is not among those the stamp names, as the packet itself, is none of them (R276). -/
def State.receivedFor (s : State) (p : PodPacket) (st : List Nat) (path : Nat) : Nat :=
  s.received p path - ((s.heldMates p).filter fun q => q.counted && q.path == path && !q.before st).length

/-- The counts have reached a packet's stamp on every path, and every store counted there has been performed (R276). -/
def State.stampMet (s : State) (p : PodPacket) : Bool := match p.stamp with
  | none => true
  | some st => (rangeFrom 0 4).all (fun k => decide (st.getD k 0 ≤ s.receivedFor p st k)) &&
    !((s.heldMates p).any fun q => q.counted && q.before st)

/-- A later interval of a packet's context is known. -/
def State.outdated (s : State) (p : PodPacket) : Bool :=
  [0, 1].any fun io => match s.recvAt io p.src p.core p.ctx with
    | some r => decide (p.interval < r.interval)
    | none => false

/-! ## Accesses from another device (03 R57) -/

/-- The cluster whose walker and TLB serve an I/O die's accesses. -/
def ioCluster (io : Nat) : Nat := clusterOfIndex io 0

/-- A translation at the target, which must land in HBM; a packet carries no privilege and is tested as USER (log 31). An
engine's access has its own kind (R57). -/
def State.translateFar (s : State) (io : Nat) (p : PodPacket) (kind va : Nat) : Except TFail (Nat × State) :=
  let k := if p.engine then (if kind = 1 then 5 else 4) else kind
  s.translateFor { part := p.part, super := false, kind := k, va := va, cluster := ioCluster io, core := none } 0

/-- Translates the addresses of bytes, page by page. -/
def State.translateAll (s : State) (io : Nat) (p : PodPacket) (kind : Nat) : List Nat → Except TFail (List Nat × State)
  | [] => .ok ([], s)
  | va :: vas => match s.translateFar io p kind va with
    | .error e => .error e
    | .ok (a, t) => match t.translateAll io p kind vas with
      | .error e => .error e
      | .ok (as, u) => .ok (a :: as, u)

/-- The supervisor at the target learns that a remote access failed: source 6 (15 R356). -/
def State.tellFarFault (s : State) (io : Nat) (p : PodPacket) (f : TFail) : State :=
  let fc := f.1.toByte.toNat
  let words := faultWord0 0 io p.core 6 p.ctx fc :: [0#64, 0#64, f.2.1, wordOf p.src, 0#64, 0#64, 0#64]
  let s := if f.1 = .scopeMismatch then s.count p.part 17 1 else s.lostBy p.part (ioCluster io) f
  { s with faultMsgs := s.faultMsgs ++ [{ part := p.part, die := io, name := p.name, words := words }] }

/-- The sending context as an agent. -/
def PodPacket.agent (p : PodPacket) : Nat := agentOf p.src p.core p.ctx

/-- A store of another device is applied as an agent of its I/O die (R273); it is concurrent with what was performed here
since its interval began (log 30). -/
def State.farWriter (s : State) (io : Nat) (p : PodPacket) : Writer :=
  let began := [0, 1].foldl (fun c k => match s.recvAt k p.src p.core p.ctx with
    | some r => if p.sameInterval r then min c r.since else c
    | none => c) s.cyc
  { agent := p.agent, part := p.part, die := 4 + io, kind := .far began }

/-- Replaces bits of the byte at a physical address. -/
def State.writeBits (s : State) (w : Writer) (a mask bits : Nat) : State :=
  let old := (readByte s.mem a).toNat
  s.write w a [BitVec.ofNat 8 ((old &&& (255 - mask)) + bits)]

/-- What comes of an access from another device: its effect and reply, a failure, or a wait for a checkpoint's staging. -/
inductive FarOut where
  | done (s : State) (r : Option Reply)
  | failed (s : State) (f : TFail)
  | waits
  deriving DecidableEq

/-- The scope check of a synchronising access from another device, where it has a scope: of every line that it touches. -/
def State.farScope (s : State) (p : PodPacket) (ls : List Nat) (va scope : Nat) : Except TFail State :=
  if scope = 0 then .ok s
  else ls.foldlM (fun (t : State) line => match t.scopeCheck line va scope p.src p.core p.ctx with
    | .ok u => .ok u
    | .error e => .error (.scopeMismatch, e.1, e.2)) s

/-- A write at this device by an I/O die waits while that die sends no new message (11 R242), or while the staging of a checkpoint
has no room (22 R402). -/
def State.farBusy (s : State) (io a : Nat) : Bool := s.stageFull a || s.crossBusy (4 + io) (homeOf a).die

/-- Bytes of one chunk, read for another device: what they are and what their writers had performed. -/
def State.farRead (s : State) (io : Nat) (p : PodPacket) (as : List Nat) : Reply × State :=
  let t := as.foldl (fun (t : State) a => (t.read p.agent p.part (ioCluster io) 0 false a 1).2) s
  ({ codes := as.map fun a => (readByte s.mem a).toNat, know := as.foldl (fun k a => joinKnow k (s.wordKnow a)) [] }, t)

/-- A store, load, gather or atomic of another device at this one. -/
def State.farAccess (s : State) (io : Nat) (p : PodPacket) : FarOut :=
  match p.body with
  | .store va bytes scope => (match s.translateFar io p 1 va with
    | .error f => .failed s f
    | .ok (a, t) => match t.farScope p (linesOf a bytes.length) va scope with
      | .error f => .failed t f
      | .ok t => if t.farBusy io a || t.farBusy io (a + bytes.length - 1) then .waits else .done (t.write (t.farWriter io p) a bytes) none)
  | .storeBits parts => (match s.translateAll io p 1 (parts.map Prod.fst) with
    | .error f => .failed s f
    | .ok (as, t) =>
      if as.any (t.farBusy io) then .waits
      else .done ((as.zip parts).foldl (fun t x => t.writeBits (t.farWriter io p) x.1 x.2.2.1 x.2.2.2) t) none)
  | .load va size scope _ => (match s.translateFar io p 0 va with
    | .error f => .failed s f
    | .ok (a, t) => match t.farScope p (linesOf a size) va scope with
      | .error f => .failed t f
      | .ok t =>
        let r := t.read p.agent p.part (ioCluster io) 0 false a size
        .done r.2 (some { value := wordOf (natOfBytes r.1), know := joinKnow (t.wordKnow a) (t.wordKnow (a + size - 1)) }))
  | .gather addrs _ n scope => (match s.translateAll io p 0 addrs with
    | .error f => .failed s f
    | .ok (as, t) => match t.farScope p (as.map fun a => a / 128 * 128).eraseDups (addrs.headD 0) scope with
      | .error f => .failed t f
      | .ok t =>
        let r := t.farRead io p as
        .done r.2 (some { r.1 with part := n }))
  | .atomic va _ op v cmp ty scope req tmo => (match s.translateFar io p 3 va with
    | .error f => .failed s f
    | .ok (a, t) => match t.farScope p (linesOf a (typeBytes ty)) va scope with
      | .error f => .failed t f
      | .ok t =>
        if (op ≠ 11 && t.stageFull a) || t.crossBusy (4 + io) (homeOf a).die then .waits
        else
          let i : Issuer := { core := p.core, ctx := p.ctx, part := p.part, agent := p.agent, die := 4 + io, far := some (p.src, req) }
          let n := 2 ^ typeBits ty
          let know := t.wordKnow a
          match t.atomicAt i a { op := op, ty := ty, v := v.toNat % n, cmp := cmp.toNat % n, tmo := tmo } with
          | (.reply old st, t) => .done t (some { value := wordOf old, status := st, know := know })
          | (.watch, t) => .done t none)
  | _ => .done s none

/-- The number of the request a packet carries. -/
def PodPacket.req (p : PodPacket) : Option Nat := match p.body with
  | .load _ _ _ r | .gather _ r _ _ | .atomic _ _ _ _ _ _ _ r _ => some r
  | _ => none

/-- A reply goes back in the response class on the path of its request. -/
def State.answer (s : State) (p : PodPacket) (r : Reply) : State := match p.req with
  | some n => s.injectPkt { dst := p.src, core := p.core, ctx := p.ctx, name := p.name, part := p.part, path := p.path,
                            prio := p.prio, cls := 1, body := .reply n r }
  | none => s

/-- An access of another device, once no stamp holds it: applied and answered; a failing store is discarded and not counted
as received, a failing load or atomic returns its fault; the supervisor here is told (03 R57). `none` where it waits. -/
def State.applyFar (s : State) (io : Nat) (p : PodPacket) : Option State :=
  match s.farAccess io p with
  | .waits => none
  | .done t r => some (match r with
    | some r => t.answer p r
    | none => t)
  | .failed t f =>
    let t := t.tellFarFault io p f
    let t := if p.counted then t.uncount io p else t
    some (t.answer p { fault := some (f.1, f.2.1), extra := f.2.2 })

/-! ## Replies -/

/-- A reply reaches its context, or the command that asked; one that nobody awaits is discarded. -/
def State.takeFarReply (s : State) (p : PodPacket) (req : Nat) (r : Reply) : State :=
  let c := s.ctx p.core p.ctx
  let mine : Bool := match c.pend with
    | some q => q.id == req && q.remote || q.id == req && decide (q.kind = .home)
    | none => false
  if mine then s.modCtx p.core p.ctx fun c => { c with pend := c.pend.map fun q =>
    let g := q.gather.take r
    if q.gather.out.isEmpty || r.fault.isSome then { q with reply := some r } else { q with gather := g, reply := g.reply } }
  else
    let asks := fun (e : HodEntry) => match e with
      | .cmd k => k.req == some req
      | .fence _ => false
    let hods := (s.cluster (p.core / 8)).hod.map Prod.snd
    let sys := s.engines.map fun e => e.2.queue
    let found : Option HodEntry := (hods ++ sys).findSome? fun q => q.find? asks
    match found with
    | some (.cmd k) =>
      let g := k.gather.take r
      s.replaceCopy k (some (if r.fault.isSome then { k with got := some r } else { k with gather := g, got := g.reply }))
    | _ => s

/-- The watches of a request go (11 R261). -/
def State.unwatch (s : State) (dev req : Nat) : State :=
  { s with clusters := s.clusters.map fun (e : Nat × Cluster) =>
      (e.1, { e.2 with slices := e.2.slices.map fun (l : Nat × Slice) =>
        (l.1, { l.2 with watches := l.2.watches.filter fun w => w.far != some (dev, req) }) }) }

/-! ## Channel traffic of another device -/

/-- The cluster that a packet of channel traffic goes to. -/
def State.clusterFor (s : State) (b : PBody) : Option Nat :=
  let home := fun (chid : Nat) => (s.record chid).map fun c => c.home / 4
  match b with
  | .msg core _ | .location core _ _ _ | .parked core _ _ _ | .closeFwd core _ _ _ => some (core / 8)
  | .toHome m => some (m.home / 4)
  | .refused m _ _ => some (m.core / 8)
  | .landing h _ _ _ _ => some (hHome h / 4)
  | .closeMark chid _ _ | .recvClose chid _ _ | .rateReport chid _ | .rateAck chid _ _ | .depart chid _ _ _ _ _ _ _ _ | .tookParked chid _ _ =>
    home chid
  | .ask _ _ _ _ q => home q.chid
  | .event name _ | .rateDelta name _ _ _ => (s.named name).map fun p => p.core / 8
  | .store g => some ((s.proc (slotOf g.target)).core / 8)
  | _ => none

/-- Channel traffic enters Mortar at the I/O die; what has lost its party is dropped. -/
def State.enterMortar (s : State) (io : Nat) (p : PodPacket) (b : PBody) : State :=
  match s.absorb b with
  | some t => t
  | none => match s.clusterFor b with
    | some cl => s.sendPkt (ioCluster io) cl p.part b
    | none => s

/-- A packet for this device takes effect; `none` where it waits at the input. -/
def State.takeFar (s : State) (io : Nat) (p : PodPacket) : Option State :=
  match p.body with
  | .reply req r => some (s.takeFarReply p req r)
  | .unwatch req => some (s.unwatch p.src req)
  | .landing g => (s.orderedLanding g).map fun t => t.releaseGstv (t.gstvWait.length + 1)
  | .stale _ _ _ _ g beyond => some (s.tellStale g beyond)
  | .halo core tag failed => some (s.haloBack core tag false failed)
  | .breach g => some (s.tellBreach g)
  | .chan b => some (s.enterMortar io p b)
  | _ => s.applyFar io p

/-! ## Arrival (R273, R276, R381) -/

/-- A packet that a row of its own takes: count markers and their acknowledgements, time, drain, flits. -/
def PodPacket.ownRow (p : PodPacket) : Bool := match p.body with
  | .marker _ | .ack _ | .time _ | .drain _ | .flit _ _ _ _ _ => true
  | _ => false

/-- The I/O die of an input; what this device injects for itself arrives at the die its path names. -/
def dieOfInput (i path : Nat) : Nat := if i < 12 then i % 2 else path % 2

/-- Drops one stomped packet of an input (R270). -/
def State.dropStomped (s : State) (i : Nat) : Option State :=
  match takeFirst (fun (p : PodPacket) => p.stomped) (s.inputOf i) with
  | some (_, rest) => some ((s.setInput i rest).countStomp i)
  | none => none

/-- The interval of a packet as this device knows it. -/
def State.intervalOf (s : State) (p : PodPacket) : Interval :=
  match s.intervals.find? fun v => v.dev == p.src && v.core == p.core && v.ctx == p.ctx && v.number == p.interval with
  | some v => v
  | none => { dev := p.src, core := p.core, ctx := p.ctx, number := p.interval }

/-- Sets or removes what is known of a packet's interval; those of its context before it are over. -/
def State.setInterval (s : State) (p : PodPacket) (v : Option Interval) : State :=
  { s with intervals := (s.intervals.filter fun v => !(v.dev == p.src && v.core == p.core && v.ctx == p.ctx && decide (v.number ≤ p.interval)))
      ++ v.toList }

/-- A stamped packet is held, where one of the 256 places is free; a store is counted on arrival (R381). A store that
would fail is tested first, so that it is not counted. One without a place is discarded, and its interval ends in a mismatch:
a store's by its count; a store of an interval that is over is discarded. -/
def State.holdStamped (s : State) (io : Nat) (p : PodPacket) : State :=
  match (if p.counted then s.farAccess io p else .done s none) with
  | .failed t f => t.tellFarFault io p f
  | _ =>
    let held := find s.stamped io []
    if p.counted && s.outdated p then s
    else if 256 ≤ held.length then
      if p.counted then s
      else
        let v := s.intervalOf p
        let s := s.setInterval p (some { v with spoilt := v.spoilt ++ [p.path] })
        match p.body with
        | .landing g => s.passGstv g
        | _ => s
    else
      let s := if p.counted then s.countRecv io p else s
      { s with stamped := put s.stamped io (held ++ [p]) }

/-- A packet takes effect; a store of another device that waits for room in a checkpoint's staging stands aside, counted. -/
def State.admitFar (s : State) (io : Nat) (p : PodPacket) : Option State :=
  if p.counted then
    let t := s.countRecv io p
    some ((t.takeFar io p).getD { t with farWait := put t.farWait io (find t.farWait io [] ++ [p]) })
  else s.takeFar io p

/-- One packet at an input: stomped ones are dropped; then the first for this device is held or takes effect. -/
def State.arriveFar (s : State) (i : Nat) : State :=
  match s.dropStomped i with
  | some t => t
  | none =>
    match takeFirst (fun (p : PodPacket) => p.dst == s.devidx && !p.ownRow) (s.inputOf i) with
    | none => s
    | some (p, rest) =>
      let io := dieOfInput i p.path
      let t := s.setInput i rest
      if t.stampMet p then (t.admitFar io p).getD s else t.holdStamped io p

/-- REMOTE_PACKET_ARRIVAL (R273, R276, R277, R381): at port `turn.unit`, or for 12 among what this device sends itself. -/
def execRemotePacketArrival (σ : State) : Out :=
  if 13 ≤ σ.turn.unit then .fault .noSuchUnit else .next (σ.arriveFar σ.turn.unit)

/-- The first packet of a list that takes effect now, and the others. -/
def State.firstTaken (s : State) (io : Nat) : List PodPacket → Option (State × List PodPacket)
  | [] => none
  | p :: ps =>
    match (if s.stampMet p then s.takeFar io p else none) with
    | some t => some (t, ps)
    | none => (s.firstTaken io ps).map fun r => (r.1, p :: r.2)

/-- ORDERED_PACKET_RELEASE (R276, R381): at I/O die `turn.unit`, the oldest store that has found room in the staging of a
checkpoint, else the oldest held packet whose stamp the counts have reached. -/
def execOrderedPacketRelease (σ : State) : Out :=
  if 2 ≤ σ.turn.unit then .fault .noSuchUnit
  else
    let io := σ.turn.unit
    let waits := find σ.farWait io []
    match ({ σ with farWait := put σ.farWait io [] } : State).firstTaken io waits with
    | some (t, rest) => .next { t with farWait := put t.farWait io rest }
    | none =>
      match takeFirst σ.stampMet (find σ.stamped io []) with
      | none => .next σ
      | some (p, rest) => .next ((({ σ with stamped := put σ.stamped io rest } : State).takeFar io p).getD σ)

/-! ## Count markers (R274, R275) -/

/-- The target acknowledges a path. A mismatch discards the stamped packets of that interval. With the last of the four
paths the interval is over: its counts are reset, and where none mismatched its stores are performed at POD scope. -/
def State.ackMarker (s : State) (p : PodPacket) (ok : Bool) : State :=
  let s := s.dropHeld fun q => !ok && q.src == p.src && q.core == p.core && q.ctx == p.ctx && decide (q.interval ≤ p.interval)
  let v := s.intervalOf p
  let v := { v with paths := v.paths ++ [p.path], failed := v.failed || !ok }
  let s :=
    if (rangeFrom 0 4).all v.paths.contains then
      let s := [0, 1].foldl (fun s io => match s.recvAt io p.src p.core p.ctx with
        | some r => if r.interval ≤ p.interval then s.setRecv io p none else s
        | none => s) (s.setInterval p none)
      if v.failed then s else s.settleFar p.agent
    else s.setInterval p (some v)
  s.injectPkt { dst := p.src, core := p.core, ctx := p.ctx, part := p.part, path := p.path, prio := p.prio, cls := 1,
                interval := p.interval, body := .ack ok }

/-- The count that a marker carries has been reached, and no packet of the interval was discarded there. -/
def State.countMet (s : State) (p : PodPacket) : Bool := match p.body with
  | .marker n => s.received p p.path == n && !(s.intervalOf p).spoilt.contains p.path
  | _ => false

/-- A marker is acknowledged as a match: its count is reached, and what is held of its interval and could take effect now has. What is
held for another path's count does not keep it waiting (R274). -/
def State.markMet (s : State) (p : PodPacket) : Bool := s.countMet p && !(s.heldMates p).any s.stampMet

/-- A body is a count marker. -/
def PodBody.isMarker : PodBody → Bool
  | .marker _ => true
  | _ => false

/-- A body is an acknowledgement. -/
def PodBody.isAck : PodBody → Bool
  | .ack _ => true
  | _ => false

/-- COUNT_MARKER_ARRIVAL (R274): a marker at input `turn.unit` is acknowledged when its count matches, else it waits; with
none there, a waiting marker whose count has come to match is acknowledged. -/
def execCountMarkerArrival (σ : State) : Out :=
  if 13 ≤ σ.turn.unit then .fault .noSuchUnit
  else match takeFirst (fun (p : PodPacket) => p.dst == σ.devidx && p.body.isMarker && !p.stomped) (σ.inputOf σ.turn.unit) with
  | some (p, rest) =>
    let s := σ.setInput σ.turn.unit rest
    if s.markMet p then .next (s.ackMarker p true) else .next { s with marks := s.marks ++ [{ pkt := p, since := s.time }] }
  | none => match takeFirst (fun (w : MarkWait) => σ.markMet w.pkt) σ.marks with
    | some (w, rest) => .next (({ σ with marks := rest } : State).ackMarker w.pkt true)
    | none => .next σ

/-- MARKER_WAIT_EXPIRY (R274): a marker that has waited PFTMO is acknowledged as a mismatch. -/
def execMarkerWaitExpiry (σ : State) : Out :=
  match takeFirst (fun (w : MarkWait) => decide (w.since + 1000 * σ.pftmo ≤ σ.time) && !σ.countMet w.pkt) σ.marks with
  | some (w, rest) => .next (({ σ with marks := rest } : State).ackMarker w.pkt false)
  | none => .next σ

/-- A path of a fence is acknowledged, unless it has been already. -/
def PodFence.ack (f : PodFence) (dev path : Nat) (ok : Bool) : PodFence :=
  if f.got.any (fun g => g.1 == dev && g.2.1 == path) || !f.paths.any (fun q => q.1 == dev && q.2 == path) then f
  else { f with got := f.got ++ [(dev, path, ok)] }

/-- An acknowledgement reaches a fence; one of an earlier interval is discarded (R274). -/
def PodFence.heard (f : PodFence) (p : PodPacket) (ok : Bool) : PodFence :=
  if f.interval = p.interval then f.ack p.src p.path ok else f

/-- COUNT_MARKER_ACK (R274): an acknowledgement at input `turn.unit` reaches the fencing context. -/
def execCountMarkerAck (σ : State) : Out :=
  if 13 ≤ σ.turn.unit then .fault .noSuchUnit
  else match takeFirst (fun (p : PodPacket) => p.dst == σ.devidx && p.body.isAck && !p.stomped) (σ.inputOf σ.turn.unit) with
  | none => .next σ
  | some (p, rest) =>
    let ok := match p.body with
      | .ack b => b
      | _ => false
    .next ((σ.setInput σ.turn.unit rest).modCtx p.core p.ctx fun c => { c with podFence := c.podFence.map fun f => f.heard p ok })

/-- FENCE_ACK_TIMEOUT (R274): in context `turn.ctx` of core `turn.core`, the paths without acknowledgement within 4·PFTMO
count as mismatched. -/
def execFenceAckTimeout (σ : State) : Out :=
  if !coreOk σ.turn.core || 4 ≤ σ.turn.ctx then .fault .noSuchUnit
  else .next (σ.modActor fun c =>
    { c with podFence := c.podFence.map fun f =>
        if σ.time < f.since + 4000 * σ.pftmo then f else f.paths.foldl (fun f q => f.ack q.1 q.2 false) f })

/-- REMOTE_REPLY_TIMEOUT (R277): the remote load or atomic of context `turn.ctx` of core `turn.core` has had no reply
within 4·PFTMO and raises DATA_POISON. -/
def execRemoteReplyTimeout (σ : State) : Out :=
  if !coreOk σ.turn.core || 4 ≤ σ.turn.ctx then .fault .noSuchUnit
  else match σ.actor.pend with
  | none => .next σ
  | some p =>
    if !p.remote || p.reply.isSome || σ.time < p.since + 4000 * σ.pftmo || !σ.actor.issues then .next σ
    else .next ((σ.modActor Ctx.dropPend).raiseA σ.turn.core σ.turn.ctx .dataPoison (wordOf p.va) 0#64)

/-! ## Drain markers (14 R346, 13 R319) and time (23 R411) -/

/-- A GSTV or HALO store is on its way in this device. -/
def State.landingsOut (s : State) : Bool :=
  let isStore := fun (p : Packet) => match p.body with
    | .store _ => true
    | _ => false
  let isLanding := fun (p : PodPacket) => match p.body with
    | .landing _ => true
    | _ => false
  let c := s.clusters.any fun e =>
    e.2.arrived.any isStore || (e.2.router.inp.any fun q => q.2.any isStore) || e.2.router.out.any fun q => q.2.any isStore
  c || s.inject.any isLanding || !s.gstvWait.isEmpty

/-- The slot of a drain marker. -/
def PodBody.drains : PodBody → Option Nat
  | .drain n => some n
  | _ => none

/-- The drain of a slot with fewer markers out; with none left, the slot is given out again with its next generation. -/
def State.drained (s : State) (d : Drain) : State :=
  let others := s.draining.filter fun x => x.slot != d.slot
  if d.out = some [] then { s with draining := others, gens := put s.gens d.slot (find s.gens d.slot 0#8 + 1#8) }
  else { s with draining := others ++ [d] }

/-- The scheduler sends the drain markers of a freed slot along every path to the other devices of the pod. -/
def State.sendDrain (s : State) (d : Drain) (devs : List Nat) : State :=
  let out := ((devs.filter (· != s.devidx)).map fun v => (rangeFrom 0 4).map fun p => (v, p)).flatten
  let s := out.foldl (fun s e => s.injectPkt { dst := e.1, path := e.2, body := .drain d.slot }) s
  s.drained { d with out := some out }

/-- DRAIN_MARKER (14 R346, 13 R319). A marker passes a device once no GSTV or HALO push sent before is on its way in it. For
`turn.sub` 0 the markers of the freed slot `turn.val` go out to the devices of the pod, which the words name (log 80); for 1 the
cores of this device have passed the marker of the freed channel index `turn.val`; for 2 a marker at input `turn.unit` that came
from another device is passed back, and one of this device's own has come back; with the last the slot is given out again. -/
def execDrainMarker (σ : State) : Out :=
  if σ.landingsOut then .next σ
  else match σ.turn.sub with
  | 0 =>
    match σ.draining.find? fun d => d.slot == σ.turn.val && d.out.isNone with
    | some d => .next (σ.sendDrain d (σ.turn.words.map BitVec.toNat))
    | none => .next σ
  | 1 => if (σ.chan σ.turn.val).draining then .next { σ with chans := drop σ.chans σ.turn.val } else .next σ
  | _ =>
    if 13 ≤ σ.turn.unit then .fault .noSuchUnit
    else match takeFirst (fun (p : PodPacket) => p.dst == σ.devidx && p.body.drains.isSome && !p.stomped) (σ.inputOf σ.turn.unit) with
    | none => .next σ
    | some (p, rest) =>
      let s := σ.setInput σ.turn.unit rest
      let slot := (p.body.drains).getD 0
      if p.cls = 1 then
        match s.draining.find? fun d => d.slot == slot with
        | some d => .next (s.drained { d with out := d.out.map fun l => l.erase (p.src, p.path) })
        | none => .next s
      else .next (s.injectPkt { dst := p.src, path := p.path, cls := 1, body := .drain slot })

/-- The time a time message carries. -/
def PodBody.timeOf : PodBody → Option Nat
  | .time n => some n
  | _ => none

/-- This device is the pod's time reference: of the devices whose links are up, which the words name, it has the lowest index. -/
def State.isReference (s : State) (up : List Nat) : Bool := up.contains s.devidx && up.all fun d => decide (s.devidx ≤ d)

/-- The reference sends its time to the other devices, in the response class. -/
def State.sendTime (s : State) (up : List Nat) : State :=
  (up.filter (· != s.devidx)).foldl (fun s d => s.injectPkt { dst := d, cls := 1, body := .time s.time }) s

/-- TIME_MESSAGE (23 R411): a time message at input `turn.unit` from the reference, which is a device of a lower index: TIME is slewed
towards it from here on. With `turn.sub` 1 this device sends its time where it is the reference; the words name the devices whose links
are up (log 80). -/
def execTimeMessage (σ : State) : Out :=
  if σ.turn.sub = 1 then
    let up := σ.turn.words.map BitVec.toNat
    .next (if σ.isReference up then σ.sendTime up else σ)
  else if 13 ≤ σ.turn.unit then .fault .noSuchUnit
  else match takeFirst (fun (p : PodPacket) => p.dst == σ.devidx && p.body.timeOf.isSome && !p.stomped) (σ.inputOf σ.turn.unit) with
  | none => .next σ
  | some (p, rest) =>
    let s := σ.setInput σ.turn.unit rest
    .next (if p.src < s.devidx then { s with slew := (((p.body.timeOf).getD 0 : Nat) : Int) - s.time } else s)

end Sys2Proof.Machine
end

