-- ==== Sys2Proof/Machine/Deliver.lean ====
section
/-!
DEFINITION. Channel traffic that reached its cluster (13 R308-R326): messages, forwarding at the home, locations,
landings, drains, closes, spawns, events; and the start of an activation (13 R291-R293, 14 R337).
-/

namespace Sys2Proof.Machine

/-! ## Inboxes in an image (15 R365) -/

/-- The image, not the core itself, holds the inbox of a channel whose end was last on a core. -/
def State.inboxImage (s : State) (core chid : Nat) : Option Nat :=
  (s.images.find? fun e => 16384 ≤ e.1 && e.2.core == core && e.2.inboxes.any fun i => i.chid == chid).map Prod.fst

/-- Does to the inboxes of an image what `f` does to those of its core: the controller writes it into the image. -/
def State.inImage (s : State) (key : Nat) (f : State → State) : State :=
  let im := find s.images key {}
  let c := s.core im.core
  let s := f (s.modCore im.core fun k => { k with inboxes := im.inboxes, partw := im.partw })
  let after := (s.core im.core).inboxes
  let s := s.modCore im.core fun k => { k with inboxes := c.inboxes, partw := c.partw }
  { s with images := put s.images key { im with inboxes := after } }

/-- Does `f` where the inbox of a channel is: at the core, or in the image of its processes. -/
def State.atInbox (s : State) (core chid : Nat) (f : State → State) : State :=
  if ((s.core core).inbox chid).isSome then f s
  else match s.inboxImage core chid with
    | some k => s.inImage k f
    | none => f s

/-! ## Messages (R308, R309) -/

/-- MESSAGE_ARRIVAL's fault messages (15 R357): the oldest of a partition on a die joins the inbox of its supervisor's
fault end e0, where there is room; the channel's sequence runs on. -/
def State.deliverFault (s : State) (part die : Nat) : State :=
  match takeFirst (fun (m : FaultMsg) => m.part == part && m.die == die) s.faultMsgs with
  | none => s
  | some (f, rest) =>
    let slot := find (s.part part).supers die 0
    let p := s.proc slot
    let h := (p.endAt 0).handle
    let chid := hChid h
    match (s.core p.core).inbox chid with
    | none => s
    | some i =>
      if p.state = .exited || i.cap ≤ i.held.length || (s.core p.core).poolRoom ≤ (s.core p.core).pooled then s
      else
        let m : Msg := { kind := .data, chid := chid, home := hHome h, seq := (hSeq h + i.held.length) % 2 ^ 32, name := f.name,
                         words := f.words, part := part }
        ({ s with faultMsgs := rest }).hold p.core i m []

/-- A message of another kind than SPAWN, which can be taken. -/
def State.isData (s : State) : PBody → Bool
  | .msg core m => decide (m.kind ≠ .spawn) && s.againFits core m
  | _ => false

/-- MESSAGE_ARRIVAL (R309, R310, R314): the oldest message that has reached cluster `turn.unit`; with `turn.sub` 1 the
oldest fault message of partition `turn.val` on die `turn.unit` reaches its supervisor. -/
def execMessageArrival (σ : State) : Out :=
  if σ.turn.sub = 1 then
    if 4 ≤ σ.turn.unit || 8 ≤ σ.turn.val then .fault .noSuchUnit else .next (σ.deliverFault σ.turn.val σ.turn.unit)
  else if !clusterOk σ.turn.unit then .fault .noSuchUnit
  else match σ.takeArrived σ.turn.unit σ.isData with
  | some (p, t) => (match p.body with
    | .msg core m => .next (t.atInbox core m.chid fun u => u.arriveData core m)
    | _ => .next σ)
  | none => .next σ

/-- A message at the home of a launch channel waits there for the scheduler that holds its receive end (14 R327). -/
def State.parkLaunch (s : State) (k : Nat) (m : Msg) : State :=
  let c := s.chan k
  if c.cap ≤ s.parkedAt m.chid then
    let s := s.modChan k fun c => { c with parked := insertParked c.dseq (.settled m.seq) c.parked }
    s.refuse c.at m 0 0
  else s.modChan k fun c => { c with parked := insertParked c.dseq (.msg m) c.parked }

/-- What reaches a home and has no row of its own: a message; and from another device an end's departure, a request, the answer to
an offer. -/
def State.atHome (s : State) : PBody → State
  | .toHome m =>
    if (s.record m.chid).isSome && (s.chan (chIdx m.chid)).role = 1 then s.parkLaunch (chIdx m.chid) m else s.arriveHome m
  | .depart chid recv moves name reg core landed dseq held => s.homeDepart chid recv moves name reg core landed dseq held
  | .ask dev core ctx req q => s.askFar dev core ctx req q
  | .tookParked chid x ok => s.tookParked chid x ok
  | _ => s

/-- HOME_FORWARD (R308): the oldest message that goes to a home at cluster `turn.unit`, or what another device sends to a home
there, in arrival order (R298). -/
def execHomeForward (σ : State) : Out :=
  let isHome := fun (b : PBody) => match b with
    | .toHome _ | .depart _ _ _ _ _ _ _ _ _ | .ask _ _ _ _ _ | .tookParked _ _ _ => true
    | _ => false
  if !clusterOk σ.turn.unit then .fault .noSuchUnit
  else match σ.takeArrived σ.turn.unit isHome with
  | some (p, t) => .next (t.atHome p.body)
  | none => .next σ

/-- LOCATION_UPDATE (R308): the holder of the channel's send end at the core that the update is for learns where the receive end is,
or that it is closed (R318); one for a holder before it changes nothing (20 R385). -/
def execLocationUpdate (σ : State) : Out :=
  let isLoc := fun (b : PBody) => match b with
    | .location _ _ _ _ => true
    | _ => false
  if !clusterOk σ.turn.unit then .fault .noSuchUnit
  else match σ.takeArrived σ.turn.unit isLoc with
  | some (p, t) => (match p.body with
    | .location core chid loc closed =>
      match t.procs.find? fun e => e.2.state != .exited && e.2.core == core && (e.2.holds? chid false).isSome with
      | some (slot, q) => .next (t.modEnd slot ((q.holds? chid false).getD 0) fun r => { r with loc := loc, pcl := r.pcl || closed })
      | none => .next t
    | _ => .next σ)
  | none => .next σ

/-- END_LANDING_REGISTRATION (R315): the home takes a registration at cluster `turn.unit`. -/
def execEndLandingRegistration (σ : State) : Out :=
  let isLand := fun (b : PBody) => match b with
    | .landing _ _ _ _ _ => true
    | _ => false
  if !clusterOk σ.turn.unit then .fault .noSuchUnit
  else match σ.takeArrived σ.turn.unit isLand with
  | some (p, t) => (match p.body with
    | .landing h name core reg back => .next (t.homeLand h name core reg back)
    | _ => .next σ)
  | none => .next σ

/-- What another device's home offers to a core of this cluster is answered once there is room (R315 step 4). -/
def State.takeFarParked (s : State) (cl : Nat) : State :=
  let fits := fun (b : PBody) => match b with
    | .parked core chid x rest => (s.takeOffer core chid x rest).isSome
    | _ => false
  match s.takeArrived cl fits with
  | some (p, t) => (match p.body with
    | .parked core chid x rest => (t.takeOffer core chid x rest).getD s
    | _ => s)
  | none => s

/-- PARKED_DRAIN (R315): the home of the channel of index `turn.unit` offers what is parked; with `turn.sub` 1 what
another device's home has sent to cluster `turn.unit` is offered again. -/
def execParkedDrain (σ : State) : Out :=
  if σ.turn.sub = 1 then
    if !clusterOk σ.turn.unit then .fault .noSuchUnit else .next (σ.takeFarParked σ.turn.unit)
  else if (σ.chan σ.turn.unit).role = 1 then .next σ
  else .next (σ.drainParked σ.turn.unit (σ.chan σ.turn.unit).parked.length)

/-! ## Closes (R317, R318) -/

/-- A close marker at the core of the receive end; where the end has left, the marker goes back to the home. -/
def State.closeAtCore (s : State) (core chid fseq name part : Nat) : State :=
  let f := fun (u : State) => (u.takeParked core chid (.close fseq name)).getD u
  if ((s.core core).inbox chid).isSome || (s.inboxImage core chid).isSome then s.atInbox core chid f
  else
    let cl := match s.record chid with
      | some c => c.home / 4
      | none => core / 8
    s.sendTo core (chDev chid) cl part (.closeMark chid fseq name)

/-- CLOSE_MARKER (R317): a marker at its home, or forwarded to a core, at cluster `turn.unit`. -/
def execCloseMarker (σ : State) : Out :=
  let isClose := fun (b : PBody) => match b with
    | .closeMark _ _ _ | .closeFwd _ _ _ _ => true
    | _ => false
  if !clusterOk σ.turn.unit then .fault .noSuchUnit
  else match σ.takeArrived σ.turn.unit isClose with
  | some (p, t) => (match p.body with
    | .closeMark chid fseq name => .next (t.homeCloseSend chid fseq name)
    | .closeFwd core chid fseq name => .next (t.closeAtCore core chid fseq name p.part)
    | _ => .next σ)
  | none => .next σ

/-- RECEIVE_CLOSE (R318): the home at cluster `turn.unit` applies the close of a receive end. -/
def execReceiveClose (σ : State) : Out :=
  let isRecv := fun (b : PBody) => match b with
    | .recvClose _ _ _ => true
    | _ => false
  if !clusterOk σ.turn.unit then .fault .noSuchUnit
  else match σ.takeArrived σ.turn.unit isRecv with
  | some (p, t) => (match p.body with
    | .recvClose chid disc name => .next (t.homeCloseRecv chid disc name)
    | _ => .next σ)
  | none => .next σ

/-! ## Ends that land or return -/

/-- The inbox of a receive end that a process has come to hold, at its core or in its image. -/
def State.addInbox (s : State) (slot k : Nat) (h : BitVec 128) : State :=
  let p := s.proc slot
  let i : Inbox := { chid := hChid h, home := hHome h, reg := k, slot := slot }
  match (if p.state = .swapped then s.imageOfSlot slot else none) with
  | some key =>
    let im := find s.images key {}
    { s with images := put s.images key { im with inboxes := im.inboxes ++ [i] } }
  | none => s.modCore p.core fun c => { c with inboxes := c.inboxes ++ [i] }

/-- A register comes to hold an end, unbound and not held, with its enables clear; the home learns of it (R314, R315):
`back` for the return of a refused message's end. -/
def State.landEnd (s : State) (slot k : Nat) (h : BitVec 128) (back : Bool) : State :=
  let p := s.proc slot
  let c := s.core p.core
  let chid := hChid h
  let s := s.modEnd slot k fun _ => { state := .held, handle := h, know := if hRecv h then find c.endKnow chid [] else [] }
  let s := if hRecv h then
      (s.addInbox slot k h).modCore p.core fun c => { c with endKnow := drop c.endKnow chid }
    else s
  s.toHome p.core (hChid h) (hHome h) p.part (.landing h p.name p.core k back)

/-- The ends of a refused message return to the registers they left (R314). -/
def State.returnEnds (s : State) (m : Msg) : State :=
  if m.taken then s else m.ends.foldl (fun s e => s.landEnd (slotOf m.name) e.2 e.1 true) s

/-! ## Events (R325) -/

/-- The words of REFUSED (R325, R326). -/
def refusedEvt (m : Msg) (detail name : Nat) : Evt :=
  let spawn := decide (m.kind = .spawn)
  let ends := if m.taken then [] else m.ends
  { code := 1, name := name, reg := m.reg,
    detail := wordOf ((if spawn then 0 else at_ m.seq 32 0) + at_ detail 8 32 + (if spawn then 2 ^ 40 else 0)
      + (if ends.isEmpty then 0 else 2 ^ 41)),
    words := m.words.take 5, lands := ends.map Prod.snd }

/-- An event joins the queue of a process; PEER_CLOSED sets PCL of the end it concerns, where the process holds it (R318). -/
def State.queueEvent (s : State) (slot : Nat) (e : Evt) : State :=
  let s := s.modProc slot fun p => { p with events := p.events ++ [{ e with arrived := s.cyc }] }
  match e.closes with
  | some (chid, recv) => (match (s.proc slot).holds? chid recv with
    | some k => s.modEnd slot k fun r => { r with pcl := true }
    | none => s)
  | none => s

/-- An event for a host end window waits for its ring (22 R390). -/
def State.windowEvent (s : State) (w : Nat) (e : Evt) : State :=
  s.modPart (w / 16) fun p =>
    let x := find p.windows (w % 16) {}
    { p with windows := put p.windows (w % 16) { x with waiting := x.waiting ++ [e] } }

/-- Delivers a refusal to its sender: the ends return and the event is queued. One whose sender is gone closes the ends it
carries. `none` where the sender's queue is full. -/
def State.deliverRefusal (s : State) (m : Msg) (detail name : Nat) : Option State :=
  match m.window with
  | some w => some ((s.windowEvent w (refusedEvt m detail name)).count m.part 10 1)
  | none => match s.named m.name with
    | none => some (((if m.taken then s else s.discard m.core 0 { m with lands := [] })).count m.part 10 1)
    | some p =>
      if 16 ≤ p.events.length then none
      else some (((s.returnEnds m).queueEvent (slotOf m.name) (refusedEvt m detail name)).count m.part 10 1)

/-- Delivers an event; `none` where the queue is full. -/
def State.deliverEvent (s : State) (name : Nat) (e : Evt) : Option State :=
  match s.named name with
  | none => some s
  | some p => if 16 ≤ p.events.length then none else some (s.queueEvent (slotOf name) e)

/-- EVENT_DELIVERY (R325): the oldest event or refusal that has reached cluster `turn.unit` and finds room. -/
def execEventDelivery (σ : State) : Out :=
  let can := fun (b : PBody) => match b with
    | .event name e => (σ.deliverEvent name e).isSome
    | .refused m d n => (σ.deliverRefusal m d n).isSome
    | _ => false
  if !clusterOk σ.turn.unit then .fault .noSuchUnit
  else match σ.takeArrived σ.turn.unit can with
  | some (p, t) => (match p.body with
    | .event name e => .next ((t.deliverEvent name e).getD σ)
    | .refused m d n => .next ((t.deliverRefusal m d n).getD σ)
    | _ => .next σ)
  | none => .next σ

/-! ## Spawn (R322) -/

/-- What the parent's network image holds for a template: none where it has no such template. -/
def readOne (part die base tmpl : Nat) : M (Option (Tmpl × Tables)) := do
  let b ← readImg part die base 128
  if (NetHeader.read b).ntmpl ≤ tmpl then pure none
  else do
    let t ← readTmpl part die base tmpl
    let x ← readTables part die t
    pure (some (t, x))

/-- A spawn message creates a child on its core, or is refused: SLOT, TEMPLATE, ROOM in that order (log 17). -/
def State.spawn (s : State) (core : Nat) (m : Msg) : State :=
  let parent := s.proc (slotOf m.name)
  let net := find s.nets parent.net {}
  let no := fun (detail : Nat) => s.refuse core m detail 0
  if 4 ≤ (s.residents core).length then no 5
  else match s.freeSlot with
  | none => no 5
  | some slot =>
    match readOne m.part net.die net.image m.tmpl s with
    | .ok (some (t, tab), s) =>
      if !((tab.handlers.getD m.handler 0#64).getLsbD 56) then no 7
      else match s.canHold core m.part t.needs with
      | none => no 6
      | some (w, r) =>
        let s := s.makeProc slot core m.part parent.net m.tmpl false t tab w r
        let lands := rangeFrom 0 m.ends.length
        let s := s.clearEnds slot lands .reserved
        let s := s.accepted core m.part m
        s.modProc slot fun p => { p with starts := p.starts ++ [{ m with lands := lands, arrived := s.cyc, taken := !m.ends.isEmpty }] }
    | .error (.fault code x w) => (s.imageLost m.part net.die (code, x, w)).refuse core m 7 0
    | _ => no 7

/-- SPAWN_ARRIVAL (R322): the oldest spawn message at cluster `turn.unit`; one for a core that is being pre-empted waits. -/
def execSpawnArrival (σ : State) : Out :=
  let isSpawn := fun (b : PBody) => match b with
    | .msg core m => decide (m.kind = .spawn) && !(σ.core core).stopped
    | _ => false
  if !clusterOk σ.turn.unit then .fault .noSuchUnit
  else match σ.takeArrived σ.turn.unit isSpawn with
  | some (p, t) => (match p.body with
    | .msg core m => .next (t.spawn core m)
    | _ => .next σ)
  | none => .next σ

/-! ## Runnable activations (R291, 14 R337) -/

/-- An activation that could start: its process's slot, kind, receive end, handler, its place among the start messages, and
its message's arrival. -/
structure Runnable where
  slot : Nat
  kind : ActKind
  reg : Nat := 0
  handler : Nat := 0
  place : Nat := 0
  arrived : Nat := 0
  prio : Nat := 0
  pass : BitVec 32 := 0#32
  deriving DecidableEq, Repr

/-- PRIO of a handler (R290). -/
def Proc.prioOf (p : Proc) (h : Nat) : Nat := fieldOf (find p.handlers h 0#64) 59 57

/-- An activation of a core satisfies a test. -/
def Core.anyAct (c : Core) (f : Activation → Bool) : Bool := (rangeFrom 0 4).any fun k => match (c.ctx k).act with
  | some a => f a
  | none => false

/-- The next message of a receive end: one that runs again, else the next in sequence (R309, R311). -/
def Core.nextMsg (c : Core) (r : EndReg) : Option Msg :=
  match c.inbox (hChid r.handle) with
  | some i => i.held.find? fun m => m.again || m.seq == hSeq r.handle
  | none => none

/-- An activation from the receive end of a channel runs on some context, or is saved in an image (19 R383). -/
def State.endBusy (s : State) (chid : Nat) : Bool :=
  let from? := fun (a : Activation) => decide (a.kind = .data) && match a.msg with
    | some m => m.chid == chid
    | none => false
  (s.cores.any fun e => e.2.anyAct from?) || s.images.any fun e => e.2.ctxs.any fun x => x.2.act.any from?

/-- A receive end's activation: only when the previous one from the same end has ended, on whatever context (19 R383). -/
def State.readyEnd (s : State) (slot : Nat) (p : Proc) (k : Nat) : Option Runnable :=
  let c := s.core p.core
  let r := p.endAt k
  if r.state != .held || !hRecv r.handle || r.bind == 0 || r.hold || s.endBusy (hChid r.handle) then none
  else (c.nextMsg r).map fun m =>
    { slot := slot, kind := .data, reg := k, handler := r.bind, arrived := m.arrived, prio := p.prioOf r.bind, pass := p.pass }

/-- The process's event activation. -/
def State.readyEvent (s : State) (slot : Nat) (p : Proc) : Option Runnable :=
  if (s.core p.core).anyAct fun a => a.slot == slot && decide (a.kind = .event) then none
  else p.events.head?.map fun e => { slot := slot, kind := .event, arrived := e.arrived, prio := p.prioOf 0, pass := p.pass }

/-- The runnable activations of a process. -/
def State.readyOf (s : State) (slot : Nat) (p : Proc) : List Runnable :=
  if p.state != .resident || p.exiting || p.moving then []
  else
    (rangeFrom 0 64).filterMap (s.readyEnd slot p) ++ (s.readyEvent slot p).toList
      ++ (p.starts.zip (rangeFrom 0 p.starts.length)).map fun e =>
        { slot := slot, kind := e.1.kind, handler := e.1.handler, place := e.2, arrived := e.1.arrived, prio := p.prioOf e.1.handler
          pass := p.pass }

/-- `a` is chosen before `b` (R337): higher priority, lower pass, older message; a last tie is left to the order of slots. -/
def Runnable.before (a b : Runnable) : Bool :=
  if a.prio ≠ b.prio then decide (b.prio < a.prio)
  else if a.pass ≠ b.pass then decide ((a.pass - b.pass).toInt < 0)
  else decide (a.arrived ≤ b.arrived)

/-- The one chosen. -/
def chooseRunnable : List Runnable → Option Runnable
  | [] => none
  | x :: xs => match chooseRunnable xs with
    | none => some x
    | some y => if x.before y then some x else some y

/-- The runnable activations of a core. -/
def State.readyOn (s : State) (core : Nat) : List Runnable :=
  if (s.core core).stopped || (s.core core).retired then []
  else ((s.procs.filter fun e => e.2.core == core).map fun e => s.readyOf e.1 e.2).flatten

/-- The lowest free context of a core. -/
def State.freeCtxOf (s : State) (core : Nat) : Option Nat := (rangeFrom 0 4).find? fun k => (s.ctx core k).act.isNone

/-! ## The start (R292, R293) -/

/-- KIND of a1. -/
def ActKind.code : ActKind → Nat
  | .data => 0 | .event => 1 | .spawn => 2 | .start => 3

/-- The header in a1 (R293). -/
def headerOf (name kind : Nat) (lands : List Nat) (words handler arrival : Nat) : Word :=
  wordOf (at_ name 32 32 + at_ kind 2 30 + at_ (lands.getD 1 0) 6 24 + at_ (lands.getD 0 0) 6 18 + at_ lands.length 2 16
    + at_ words 4 12 + at_ handler 6 6 + at_ arrival 6 0)

/-- a2-a9 of an event (R325). -/
def Evt.payload (e : Evt) : List Word := [wordOf e.code, wordOf e.reg, e.detail] ++ e.words.take 5

/-- A register file with a1 and a2-a9 set. -/
def startRegs (header : Word) (ws : List Word) : Vector Word 32 :=
  Vector.ofFn fun (i : Fin 32) => if i.val = 1 then header else if 2 ≤ i.val ∧ i.val ≤ 9 then ws.getD (i.val - 2) 0#64 else 0#64

/-- The pass after a dispatch (R337). -/
def nextPass (pass : BitVec 32) (weight : BitVec 16) : BitVec 32 := pass + BitVec.ofNat 32 (2 ^ 24 / (weight.toNat / 256))

/-- A context at the start of an activation (R292). -/
def Ctx.start (c : Ctx) (a : Activation) (p : Proc) (header : Word) (ws : List Word) (vecp vect : Nat) : Ctx :=
  { c.freed with
    status := .running, act := some a, a := startRegs header ws
    z := Vector.ofFn fun (i : Fin 32) => if i.val < 30 then find p.views i.val 0#256 else 0#256
    actbud := if p.budget = 0#64 then BitVec.allOnes 64 else p.budget
    pvec := BitVec.ofNat 52 vecp, tvec := BitVec.ofNat 52 vect, super := a.super
    pc := BitVec.ofNat 52 (fieldOf (find p.handlers a.handler 0#64) 51 0) }

/-- The ends of a message land at the start of its activation, once (R315). -/
def State.landMsg (s : State) (slot : Nat) (m : Msg) : State :=
  if m.landed then s else (m.ends.zip m.lands).foldl (fun s e => s.landEnd slot e.2 e.1.1 false) s

/-- Takes the chosen message or event from where it waits: the message, the event, what the activation learns, and the
state; a data end then expects the next sequence, but for a message that runs again after its end has moved (R311). -/
def State.takeReady (s : State) (core : Nat) (r : Runnable) : Option Msg × Option Evt × Know × State :=
  let p := s.proc r.slot
  match r.kind with
  | .data =>
    let x := p.endAt r.reg
    (match (s.core core).nextMsg x with
    | some m =>
      let s := s.modInbox core m.chid fun i => { i with held := i.held.filter (· != m), passed := [] }
      let s := if m.again then s
        else s.modEnd r.slot r.reg fun e => { e with handle := hSetSeq e.handle ((hSeq e.handle + 1) % 2 ^ 32) }
      (some m, none, joinKnow m.know (joinKnow x.know (find (s.core core).endKnow m.chid [])), s.advance core m.chid)
    | none => (none, none, [], s))
  | .event =>
    (match p.events with
    | e :: es => (none, some e, joinKnow e.know p.evtKnow, s.modProc r.slot fun p => { p with events := es })
    | [] => (none, none, [], s))
  | _ =>
    (match p.starts[r.place]? with
    | some m => (some m, none, m.know, s.modProc r.slot fun p => { p with starts := p.starts.eraseIdx r.place })
    | none => (none, none, [], s))

/-- Starts the chosen activation on context `k` of a core. -/
def State.startReady (s : State) (core k : Nat) (r : Runnable) : State :=
  let (m, e, know, s) := s.takeReady core r
  let p := s.proc r.slot
  let (id, s) := s.takeFresh
  let ws := match m, e with
    | some m, _ => m.words
    | none, some e => e.payload
    | none, none => []
  let header := match m, e with
    | some m, _ => headerOf m.name r.kind.code m.lands m.words.length r.handler r.reg
    | none, some e => headerOf e.name 1 e.lands 8 0 0
    | none, none => 0#64
  let a : Activation :=
    { slot := r.slot, name := p.name, part := p.part, kind := r.kind, handler := r.handler, arrival := r.reg,
      msg := m.map fun m => { m with landed := true }, evt := e, payload := ws, super := p.super, restartable := p.restartable,
      id := id + 1 }
  let part := s.part p.part
  let s := s.modCtx core k fun c => c.start a p header ws part.vecp part.vect
  let s := match m with
    | some m => s.landMsg r.slot m
    | none => s
  let rs := rsBytes (s.core core).partw
  let s := s.clearTags core (k * rs) rs
  let s := s.modProc r.slot fun p => { p with pass := nextPass p.pass p.weight }
  (s.learn (agentOf s.devidx core k) know).count p.part 11 1

/-- ACTIVATION_START (R291, 14 R337): on core `turn.unit`, of a cluster that does not sleep (22 R400). -/
def execActivationStart (σ : State) : Out :=
  let n := σ.turn.unit
  if !coreOk n then .fault .noSuchUnit
  else if (σ.cluster (n / 8)).idle ≠ .run then .next σ
  else match σ.freeCtxOf n, chooseRunnable (σ.readyOn n) with
  | some k, some r => .next (σ.startReady n k r)
  | _, _ => .next σ

end Sys2Proof.Machine
end

