-- ==== Sys2Proof/Machine/Rate.lean ====
section
/-!
DEFINITION. Rate coupling (14 R340-R343): the period at the receiving core, the update at the home, the deltas of weights
and their acknowledgements.
-/

namespace Sys2Proof.Machine

/-! ## The period (R340) -/

/-- The value a period reports: the messages that count against CAP, or with refusals CAP and their number, 127 at most. -/
def State.occupancy (s : State) (i : Inbox) : Nat :=
  min 127 (if i.refused = 0 then i.held.length + s.parkedFor i else i.cap + i.refused)

/-- RATE_PERIOD_END (R340): on core `turn.unit` the first channel whose period of T · 256 clocks has ended reports to its
home. -/
def execRatePeriodEnd (σ : State) : Out :=
  let n := σ.turn.unit
  if !coreOk n then .fault .noSuchUnit
  else match (σ.core n).inboxes.find? fun i => i.period != 0 && decide (i.since + 256 * i.period ≤ σ.cyc) with
  | none => .next σ
  | some i =>
    let o := σ.occupancy i
    let s := σ.modInbox n i.chid fun i => { i with refused := 0, since := i.since + 256 * i.period }
    .next (s.toHome n i.chid i.home ((s.proc i.slot).part) (.rateReport i.chid o))

/-! ## The update (R341) -/

/-- The new integral: held while the last update was clamped in the direction of the error. -/
def Chan.integral (c : Chan) (e : Int) : Int :=
  if c.cd ≠ 0 ∧ e.sign = c.cd then c.i else clampInt (c.i + e) (-4096) 4096

/-- u of R341, by arithmetic shifts. -/
def rateStep (e i : Int) (gp gi : Nat) : Int := (e * 256).fdiv ((2 ^ gp : Nat) : Int) + (i * 256).fdiv ((2 ^ gi : Nat) : Int)

/-- Sends a delta to the process of a name. -/
def State.sendDelta (s : State) (c : Chan) (name chid : Nat) (delta : Int) (producer : Bool) : State :=
  let part := s.chanPart c
  if devOf name ≠ s.devidx then
    s.injectPkt { dst := devOf name, core := c.at, part := part, body := .chan (.rateDelta name chid delta producer) }
  else match s.named name with
    | some p => s.sendPkt (c.at / 8) (p.core / 8) part (.rateDelta name chid delta producer)
    | none => s

/-- A report at the home. -/
def State.homeRate (s : State) (chid o : Nat) : State :=
  match s.record chid with
  | none => s
  | some c =>
    if !c.rate || !c.ren || c.sst ≠ .here || c.rst ≠ .here then s
    else
      let e : Int := (o : Int) - (c.sp : Int)
      let i := c.integral e
      let u := rateStep e i c.gp c.gi
      let s := s.modChan (chIdx chid) fun c => { c with i := i, cd := 0 }
      (s.sendDelta c c.sname chid (-u) true).sendDelta c c.rname chid u false

/-- RATE_UPDATE (R341): the oldest report at cluster `turn.unit`. -/
def execRateUpdate (σ : State) : Out :=
  let isReport := fun (b : PBody) => match b with
    | .rateReport _ _ => true
    | _ => false
  if !clusterOk σ.turn.unit then .fault .noSuchUnit
  else match σ.takeArrived σ.turn.unit isReport with
  | some (p, t) => (match p.body with
    | .rateReport chid o => .next (t.homeRate chid o)
    | _ => .next σ)
  | none => .next σ

/-! ## The delta (R342) -/

/-- A weight after a delta, and where the clamp acted: −1 at 256, 1 at 65,280, else 0. -/
def clampWeight (w : Nat) (delta : Int) : Nat × Int :=
  let x : Int := (w : Int) + delta
  if x < 256 then (256, -1) else if 65280 < x then (65280, 1) else (x.toNat, 0)

/-- The home of a channel, by the end that a process holds of it. -/
def Proc.homeOf (p : Proc) (chid : Nat) : Option Nat :=
  match p.holds? chid false with
  | some k => some (hHome (p.endAt k).handle)
  | none => (p.holds? chid true).map fun k => hHome (p.endAt k).handle

/-- A delta is applied, resident or not, and acknowledged to the home. -/
def State.takeDelta (s : State) (name chid : Nat) (delta : Int) (producer : Bool) : State :=
  match s.named name with
  | none => s
  | some p =>
    let r := clampWeight p.weight.toNat delta
    let s := s.modProc (slotOf name) fun p => { p with weight := BitVec.ofNat 16 r.1 }
    let home := match p.homeOf chid with
      | some h => h
      | none => match s.record chid with
        | some c => c.home
        | none => 0
    s.toHome p.core chid home p.part (.rateAck chid producer r.2)

/-- RATE_DELTA (R342): the oldest delta at cluster `turn.unit`. -/
def execRateDelta (σ : State) : Out :=
  let isDelta := fun (b : PBody) => match b with
    | .rateDelta _ _ _ _ => true
    | _ => false
  if !clusterOk σ.turn.unit then .fault .noSuchUnit
  else match σ.takeArrived σ.turn.unit isDelta with
  | some (p, t) => (match p.body with
    | .rateDelta name chid delta producer => .next (t.takeDelta name chid delta producer)
    | _ => .next σ)
  | none => .next σ

/-- CD after an acknowledgement (R341): a clamp of P at 256 or C at 65,280 is +1, the opposite −1. -/
def State.homeAck (s : State) (chid : Nat) (producer : Bool) (clamp : Int) : State :=
  match s.record chid with
  | none => s
  | some _ =>
    if clamp = 0 then s
    else s.modChan (chIdx chid) fun c => { c with cd := if producer then -clamp else clamp }

/-- RATE_ACK (R341): the oldest acknowledgement at cluster `turn.unit`. -/
def execRateAck (σ : State) : Out :=
  let isAck := fun (b : PBody) => match b with
    | .rateAck _ _ _ => true
    | _ => false
  if !clusterOk σ.turn.unit then .fault .noSuchUnit
  else match σ.takeArrived σ.turn.unit isAck with
  | some (p, t) => (match p.body with
    | .rateAck chid producer clamp => .next (t.homeAck chid producer clamp)
    | _ => .next σ)
  | none => .next σ

end Sys2Proof.Machine
end

