-- ==== Sys2Proof/Machine/Sched.lean ====
section
/-!
DEFINITION. The network scheduler (14 R327-R336): launch messages, the checks of an image, queues and ageing, dispatch and
placement, completion and cancel.
-/

namespace Sys2Proof.Machine

/-! ## NETWORK_DONE (R335) -/

/-- a4 of NETWORK_DONE. -/
def doneWord (reason status ticket : Nat) : Word := wordOf (at_ reason 8 24 + at_ status 8 16 + at_ ticket 16 0)

/-- NETWORK_DONE goes to the process that sent the launch message, or to its host end window. -/
def State.tellDone (s : State) (die part launcher lreg : Nat) (window : Option Nat) (w : Word) : State :=
  match window with
  | some k => s.windowEvent k { code := 7, detail := w }
  | none => s.sendEvent (clusterOfIndex die 0 * 8) part launcher { code := 7, reg := lreg, detail := w }

/-- The scheduler's record in the event stream (23 R409). -/
def State.schedRecord (s : State) (part kind die ticket : Nat) (detail : Nat) : State :=
  s.eventRecord part 3 kind 0 die (wordOf ticket) (wordOf detail)

/-! ## Launch messages (R327) -/

/-- The scheduler passes over settled sequences of a launch channel, on fuel. -/
def State.skipLaunch (s : State) (k : Nat) : Nat → State
  | 0 => s
  | n + 1 => match (s.chan k).parked with
    | .settled x :: xs =>
      if x = (s.chan k).dseq then
        (s.modChan k fun c => { c with parked := xs, dseq := (c.dseq + 1) % 2 ^ 32 }).skipLaunch k n
      else s
    | _ => s

/-- The next message of a launch channel, in sequence, and the state without it. -/
def State.nextLaunch (s : State) (k : Nat) : Option (Msg × State) :=
  let s := s.skipLaunch k (s.chan k).parked.length
  match (s.chan k).parked with
  | .msg m :: xs =>
    if (s.chan k).role = 1 && m.seq == (s.chan k).dseq then
      some (m, s.modChan k fun c => { c with parked := xs, dseq := (c.dseq + 1) % 2 ^ 32 })
    else none
  | _ => none

/-- OP of a launch message. -/
def Msg.op (m : Msg) : Nat := fieldOf (m.words.getD 1 0#64) 3 0
/-- TICKET -/
def Msg.ticket (m : Msg) : Nat := fieldOf (m.words.getD 1 0#64) 31 16

/-- A message of two words whose reserved bits are zero; a launch names a 64-byte aligned image, a cancel none. -/
def Msg.launchOk (m : Msg) : Bool :=
  let w0 := m.words.getD 0 0#64
  let w1 := m.words.getD 1 0#64
  m.words.length == 2 && m.ends.isEmpty && fieldOf w0 63 52 == 0 && fieldOf w1 63 32 == 0 && fieldOf w1 15 4 == 0
    && (if m.op = 0 then fieldOf w0 5 0 == 0 else m.op == 1 && w0 == 0#64)

/-- The message is a cancel. -/
def Msg.isCancel (m : Msg) : Bool := m.op == 1

/-! ## The checks of an image (R331) -/

/-- A handler entry with its reserved bits zero and an aligned entry address. -/
def handlerEntryOk (w : Word) : Bool := fieldOf w 63 60 == 0 && fieldOf w 55 52 == 0 && fieldOf w 1 0 == 0

/-- The tables of a template are well formed: handlers 0 and 1 valid, entries, views and layouts not malformed. -/
def Tables.ok (t : Tables) : Bool :=
  (t.handlers.getD 0 0#64).getLsbD 56 && (t.handlers.getD 1 0#64).getLsbD 56
    && (t.handlers.all fun w => !w.getLsbD 56 || handlerEntryOk w)
    && (t.views.all fun v => v == 0#256 || !zMalformed v)
    && ((t.layouts.zip (rangeFrom 0 t.layouts.length)).all fun e => !layMalformed (decide (e.2 < 16)) e.1)

/-- Flag `k` of a channel entry: 0 RATE, 1 STRM, 2 withhold MV, 3 withhold RT. -/
def ChanEnt.flag (c : ChanEnt) (k : Nat) : Bool := c.cflags.testBit k

/-- A channel entry within its limits: both templates have LAUNCH. -/
def ChanEnt.ok (c : ChanEnt) (ts : List Tmpl) : Bool :=
  let launched := fun (k : Nat) => match ts[k]? with
    | some t => t.launch
    | none => false
  launched c.stmpl && launched c.rtmpl && decide (c.sreg < 64) && decide (c.rreg < 64) && decide (1 ≤ c.cap ∧ c.cap ≤ 64)
    && decide (c.cflags < 16) && decide (c.bind < 64) && decide (c.sp < 64) && decide (c.ren < 2) && c.zero

/-- Reason 1: something is malformed. A bound handler must exist (R305). -/
def NetImage.malformed (n : NetImage) : Bool :=
  let bound := fun (c : ChanEnt) => c.bind == 0 || match n.tables[c.rtmpl]? with
    | some t => (t.handlers.getD c.bind 0#64).getLsbD 56
    | none => false
  !(n.header.ok && n.tmpls.all Tmpl.ok && (n.chans.all fun c => c.ok n.tmpls && bound c) && n.tables.all Tables.ok)

/-- The end registers that the channel entries take, by template. -/
def NetImage.regs (n : NetImage) : List (Nat × Nat) := (n.chans.map fun c => [(c.stmpl, c.sreg), (c.rtmpl, c.rreg)]).flatten

/-- Reason 6. -/
def NetImage.clash (n : NetImage) : Bool :=
  decide (n.regs.eraseDups.length < n.regs.length)
    || n.chans.any fun c => (c.ren == 1 && !c.flag 0) || decide (c.cap < c.sp) || (c.t == 0 && c.ren == 1)

/-- The enabled loops: their vertices, GP and GI. -/
def NetImage.loops (n : NetImage) : List ChanEnt := n.chans.filter fun c => c.ren == 1

/-- LOAD of a template's process. -/
def loadOf (ls : List ChanEnt) (k : Nat) : Nat :=
  (ls.filter fun c => c.stmpl == k || c.rtmpl == k).foldl (fun l c => l + loadShare c.gp) 0

/-- The ends of simple paths over some loops from a vertex, on fuel: the vertex, the vertices passed, and the number of
edges. -/
def pathsFrom (es : List ChanEnt) : Nat → Nat × List Nat × Nat → List (Nat × Nat)
  | 0, p => [(p.1, p.2.2)]
  | f + 1, p =>
    let next := (es.map fun e => (if e.stmpl = p.1 then [e.rtmpl] else []) ++ (if e.rtmpl = p.1 then [e.stmpl] else [])).flatten.eraseDups
    (p.1, p.2.2) :: ((next.filter fun v => !(p.2.1.contains v)).map fun v => pathsFrom es f (v, v :: p.2.1, p.2.2 + 1)).flatten

/-- The greatest number of edges of a simple cycle through a loop: 1 for one of a process with itself, 0 for none. -/
def longestCycle (ls : List ChanEnt) (e : ChanEnt) : Nat :=
  if e.stmpl = e.rtmpl then 1
  else
    let others := ls.erase e
    let ps := (pathsFrom others others.length (e.stmpl, [e.stmpl], 0)).filter fun p => p.1 == e.rtmpl
    ps.foldl (fun m p => max m (p.2 + 1)) 0

/-- GP ≥ ceil(log2 k) + 1 for a cycle of k edges. -/
def cycleOk (gp k : Nat) : Bool := k == 0 || (decide (1 ≤ gp) && decide (k ≤ 2 ^ (gp - 1)))

/-- Reason 3: a rule of R343 is broken. -/
def NetImage.unstable (n : NetImage) : Bool :=
  let ls := n.loops
  (ls.any fun c => decide (c.gi < c.gp + 2)) || ((rangeFrom 0 n.tmpls.length).any fun k => decide (2 ^ 15 < loadOf ls k))
    || ls.any fun c => !cycleOk c.gp (longestCycle ls c)

/-- Reason 4: a template whose process no core could hold, or a launched one whose named core is outside the partition. -/
def State.unplaceable (s : State) (n : NetImage) (part : Nat) : Bool :=
  n.tmpls.any fun t =>
    t.needs.fresh.isNone || (t.launch && n.header.place == 2 && !(t.whereOk && s.coreInPart t.whereAt part))

/-- The lowest reason that applies to an image that could be read, 0 for none. -/
def State.launchReason (s : State) (n : NetImage) (part : Nat) (dup : Bool) : Nat :=
  if n.malformed then 1
  else if n.header.part ≠ part then 2
  else if n.unstable then 3
  else if s.unplaceable n part then 4
  else if n.clash then 6
  else if dup then 7 else 0

/-! ## LAUNCH and CANCEL (R331, R336) -/

/-- The network of a ticket that is queued or running on a launch channel. -/
def State.netOf (s : State) (chan ticket : Nat) : Option (Nat × Net) :=
  s.nets.find? fun e => e.2.chan == chan && e.2.ticket == ticket && e.2.state != .done

/-- The die that holds the receive end of a launch channel. -/
def Chan.die (c : Chan) : Nat := dieOf (c.home / 4)

/-- A launch is rejected. -/
def State.reject (s : State) (die : Nat) (m : Msg) (reason : Nat) : State :=
  s.tellDone die m.part m.name m.reg m.window (doneWord reason 3 m.ticket)

/-- A launch message: the whole image is read and checked, and the network queued. -/
def State.launch (s : State) (k : Nat) (m : Msg) : State :=
  let die := (s.chan k).die
  let dup := (s.netOf k m.ticket).isSome
  if !m.launchOk then s.reject die m 1
  else
    let base := fieldOf (m.words.getD 0 0#64) 51 0
    match readNet m.part die base s with
    | .error (.fault code x w) => (s.imageLost m.part die (code, x, w)).reject die m 5
    | .error (.wait _ _) => s.reject die m 5
    | .ok (n, s) =>
      let reason := s.launchReason n m.part dup
      if reason ≠ 0 then s.reject die m reason
      else
        let (id, s) := s.takeFresh
        let net : Net := { ticket := m.ticket, chan := k, die := die, part := m.part, prio := n.header.prio, accepted := s.time,
                           image := base, prereqs := n.header.pres, launcher := m.name, lreg := m.reg, window := m.window }
        ({ s with nets := put s.nets (id + 1) net }).schedRecord m.part 0 die m.ticket 0

/-- LAUNCH (R331): the next message of the launch channel of index `turn.unit`, unless it is a cancel. -/
def execLaunch (σ : State) : Out :=
  match σ.nextLaunch σ.turn.unit with
  | some (m, t) => if m.launchOk && m.isCancel then .next σ else .next (t.launch σ.turn.unit m)
  | none => .next σ

/-- A cancel: queued, running or unknown. -/
def State.cancel (s : State) (k : Nat) (m : Msg) : State :=
  let die := (s.chan k).die
  let tell := fun (s : State) (status : Nat) => s.tellDone die m.part m.name m.reg m.window (doneWord 0 status m.ticket)
  match s.netOf k m.ticket with
  | none => tell s 4
  | some (id, n) =>
    if n.state = .queued then tell { s with nets := drop s.nets id } 1
    else
      let s := { s with nets := put s.nets id { n with state := .cancelling } }
      let ps := s.procs.filter fun e => e.2.net == id && e.2.state != .exited
      ps.foldl (fun s e => s.sendEvent (clusterOfIndex die 0 * 8) n.part e.2.name { code := 4 }) (tell s 5)

/-- CANCEL (R336): the next message of the launch channel of index `turn.unit`, when it is a cancel. -/
def execCancel (σ : State) : Out :=
  match σ.nextLaunch σ.turn.unit with
  | some (m, t) => if m.launchOk && m.isCancel then .next (t.cancel σ.turn.unit m) else .next σ
  | none => .next σ

/-! ## The queues (R332) -/

/-- Effective priority. -/
def State.effPrio (s : State) (n : Net) : Nat :=
  if s.ageq = 0 then n.prio else min 7 (n.prio + (s.time - n.accepted) / 1000 / s.ageq)

/-- Every prerequisite has ended. -/
def State.netReady (s : State) (n : Net) : Bool := n.prereqs.all fun t => (s.netOf n.chan t).isNone

/-- `a` goes before `b`: the higher effective priority, then the earlier acceptance. Keys rise with acceptance. -/
def State.netBefore (s : State) (a b : Nat × Net) : Bool :=
  decide (s.effPrio b.2 < s.effPrio a.2) || (s.effPrio a.2 == s.effPrio b.2 && decide (a.1 < b.1))

/-- No network that could not be dispatched stands before `e`: while one waits, only networks of a higher effective priority
and others that wait like it go (R333). -/
def State.unblocked (s : State) (e : Nat × Net) : Bool :=
  s.netsBlocked.contains e.1 || s.netsBlocked.all fun b => match look s.nets b with
    | some n => n.part != e.2.part || decide (n.state ≠ .queued) || decide (s.effPrio n < s.effPrio e.2)
    | none => true

/-- The head of a partition's queues. -/
def State.headNet (s : State) (part : Nat) : Option (Nat × Net) :=
  (s.nets.filter fun e => e.2.part == part && decide (e.2.state = .queued) && s.netReady e.2 && s.unblocked e).foldl (fun b e =>
    match b with
    | none => some e
    | some x => if s.netBefore e x then some e else some x) none

/-! ## Dispatch (R333, R334) -/

/-- Cores in the order in which the spread rule tries them after the cluster of the process before. -/
def afterCluster (cl : Option Nat) (cores : List Nat) : List Nat := match cl with
  | some c => (cores.filter fun n => decide (c < n / 8)) ++ (cores.filter fun n => decide (n / 8 ≤ c))
  | none => cores

/-- The core of a process by the placement rule among cores of its partition; `cl` is the cluster of the process before it. -/
def State.choosePlace (s : State) (part place : Nat) (t : Tmpl) (cl : Option Nat) (cores : List Nat) : Option Nat :=
  match place with
  | 0 => s.firstCore part t.needs cores
  | 1 => s.firstCore part t.needs (afterCluster cl cores)
  | _ => if t.whereOk then s.firstCore part t.needs [t.whereAt] else none

/-- The processes of the LAUNCH templates made one after another: their slots by template, or none where one has no name
or no place. -/
def State.placeAll (s : State) (id part place : Nat) (super : Bool) : Option Nat → List (Nat × Tmpl × Tables) → Option (Map Nat × State)
  | _, [] => some ([], s)
  | cl, (k, t, tab) :: rest =>
    match s.freeSlot, s.choosePlace part place t cl (s.partCores part) with
    | some slot, some core =>
      (match s.canHold core part t.needs with
      | none => none
      | some (w, r) =>
        let s := s.makeProc slot core part id k super t tab w r
        match s.placeAll id part place super (some (core / 8)) rest with
        | none => none
        | some (m, s) => some (put m k slot, s))
    | _, _ => none

/-- A channel of the channel list (R330), with its rate fields and the loads of its parties. -/
def State.makeNetChan (s : State) (idx die : Nat) (slots : Map Nat) (c : ChanEnt) : State :=
  let ss := find slots c.stmpl 0
  let rs := find slots c.rtmpl 0
  let sp := s.proc ss
  let rp := s.proc rs
  let chid := s.devidx * 2 ^ 24 + idx
  let home := clusterOfIndex die 0 * 4 + idx % 4
  let mv := !c.flag 1 && !c.flag 2
  let rt := !c.flag 3
  let x : Chan :=
    { sst := .here, rst := .here, sloc := sp.core, rloc := rp.core, sname := sp.name, rname := rp.name, cap := c.cap, strm := c.flag 1
      rate := c.flag 0, home := home, sreg := c.sreg, rreg := c.rreg, ren := c.ren == 1, sp := c.sp, gp := c.gp, gi := c.gi, t := c.t }
  let s := { s with chans := put s.chans idx x }
  let s := s.modEnd ss c.sreg fun _ =>
    { state := .held, handle := mkHandle chid 0 0 home rt mv false, loc := some rp.core }
  let s := s.modEnd rs c.rreg fun _ => { state := .held, handle := mkHandle chid 0 0 home rt mv true, bind := c.bind }
  let s := s.modCore rp.core fun k =>
    { k with inboxes := k.inboxes ++ [{ chid := chid, home := home, reg := c.rreg, slot := rs, cap := c.cap }] }
  let s := if x.ren then x.parties.foldl (fun s n => s.addLoad chid n (loadShare c.gp) 0) s else s
  s.tellRate chid

/-- The channels of the list, each at the lowest free index. -/
def State.makeNetChans (s : State) (die : Nat) (slots : Map Nat) : List ChanEnt → Option State
  | [] => some s
  | c :: cs => match s.freeIndex with
    | none => none
    | some idx => (s.makeNetChan idx die slots c).makeNetChans die slots cs

/-- The start message of a process (R294). -/
def State.sendStart (s : State) (slot : Nat) (t : Tmpl) : State :=
  s.modProc slot fun p =>
    { p with starts := p.starts ++ [{ kind := .start, words := t.lwords.take t.nlw, handler := 1, part := p.part, arrived := s.cyc }] }

/-- The LAUNCH templates of an image with their tables. -/
def NetImage.launched (n : NetImage) : List (Nat × Tmpl × Tables) :=
  ((rangeFrom 0 n.tmpls.length).zip (n.tmpls.zip n.tables)).filter fun e => e.2.1.launch

/-- Names, places, tables, channels and start messages of an image: none where a name, a place or a channel is wanting. -/
def State.instantiate (s : State) (id die part : Nat) (super : Bool) (place : Nat) (n : NetImage) : Option (Map Nat × State) :=
  match s.placeAll id part place super none n.launched with
  | none => none
  | some (slots, s) => match s.makeNetChans die slots n.chans with
    | none => none
    | some s => some (slots, n.launched.foldl (fun s e => s.sendStart (find slots e.1 0) e.2.1) s)

/-- The image of a network is read and the network dispatched as one step, where all of it finds names, places and channels. -/
def State.dispatchNet (s : State) (id : Nat) (n : Net) : Option State :=
  match readNet n.part n.die n.image s with
  | .error _ => none
  | .ok (im, s) => (s.instantiate id n.die n.part false im.header.place im).map fun r =>
    ({ r.2 with nets := put r.2.nets id { n with state := .running }, netsBlocked := r.2.netsBlocked.filter (· != id) }).schedRecord
      n.part 1 n.die n.ticket 0

/-- NETWORK_DISPATCH (R333): the head of partition `turn.unit`'s queues is dispatched, or it stays the head and nothing else
changes. -/
def execNetworkDispatch (σ : State) : Out :=
  if 8 ≤ σ.turn.unit then .fault .noSuchUnit
  else match σ.headNet σ.turn.unit with
  | none => .next σ
  | some (id, n) => match σ.dispatchNet id n with
    | some t => .next t
    | none =>
      let t := match readNet n.part n.die n.image σ with
        | .error (.fault code x w) => σ.imageLost n.part n.die (code, x, w)
        | _ => σ
      .next { t with netsBlocked := id :: t.netsBlocked.filter (· != id) }

/-! ## The move after a hardware error (15 R374) -/

/-- The cluster of the process before a process in its network: of the greatest LAUNCH template below its own. -/
def State.clusterBefore (s : State) (p : Proc) : Option Nat :=
  let before := s.procs.filter fun e => e.2.net == p.net && decide (e.2.tmpl < p.tmpl) && decide (e.2.state ≠ .exited)
  (before.foldl (fun (b : Option Proc) e => match b with
    | none => some e.2
    | some q => if q.tmpl < e.2.tmpl then some e.2 else some q) none).map fun q => q.core / 8

/-- The template of a process and PLACE of its network, read again from the image. -/
def readPlace (p : Proc) (n : Net) : M (Tmpl × Nat) := do
  let b ← readImg p.part n.die n.image 128
  let t ← readTmpl p.part n.die n.image p.tmpl
  pure (t, (NetHeader.read b).place)

/-- The core that an image is placed on (15 R369): by the placement rule of the network of its process of the lowest slot, among the
cores of the partition that hold no process; for one that names a core which is in service no longer, and where its network image can
no longer be read, the lowest (log 84). -/
def State.imagePlace (s : State) (im : Image) : Option Nat :=
  let cores := s.partCores im.part
  let free := fun (n : Nat) => s.coreFree n im.part
  let p := s.proc (im.slots.headD 0)
  match readPlace p (find s.nets p.net {}) s with
  | .ok ((t, 2), _) =>
    if t.whereOk && s.coreInPart t.whereAt im.part && !(s.core t.whereAt).retired then (if free t.whereAt then some t.whereAt else none)
    else cores.find? free
  | .ok ((_, 1), _) => (afterCluster (s.clusterBefore p) cores).find? free
  | _ => cores.find? free

/-- IMAGE_RESUME (R369): image `turn.val` is placed on core `turn.unit`, which the placement rule gives it and where nothing runs any
more. -/
def execImageResume (σ : State) : Out :=
  if !coreOk σ.turn.unit then .fault .noSuchUnit
  else match look σ.images σ.turn.val with
  | none => .next σ
  | some im =>
    if im.slots.isEmpty || σ.turn.val < 16384 || σ.imagePlace im != some σ.turn.unit || !σ.coreDrained σ.turn.unit
      || im.slots.any σ.landsOut then .next σ
    else .next (σ.swapIn σ.turn.val σ.turn.unit)

/-- The core that a process moves to: by the placement rule of its network among the other cores of its partition (14 R334, R339).
A process that names its core, and stands on it, has no other by that rule, and takes the lowest that can hold it; so does one
whose image can no longer be read (log 84). -/
def State.movePlace (s : State) (p : Proc) : Option Nat :=
  let cores := (s.partCores p.part).filter (· != p.core)
  let lowest := s.firstCore p.part (s.needsOf p) cores
  match readPlace p (find s.nets p.net {}) s with
  | .ok ((t, place), _) =>
    if place = 2 then
      (match s.choosePlace p.part 2 t none cores with
      | some c => if c = p.core then lowest else some c
      | none => lowest)
    else s.choosePlace p.part place t (s.clusterBefore p) cores
  | .error _ => lowest

/-- PROCESS_MOVE (15 R374): the process of slot `turn.val`, which is to move after a hardware error, goes to another core when no
activation of it runs, its commands that have begun are complete, what moves with it finds room there, and no registration of its ends
is on its way (20 R384). It stays where another activation of it is parked, or no other core can hold it. -/
def execProcessMove (σ : State) : Out :=
  let slot := σ.turn.val
  let p := σ.proc slot
  if !p.moving || p.state != .resident then .next σ
  else
    let stay := σ.modProc slot fun p => { p with moving := false }
    if σ.parkedRuns slot then .next stay
    else if σ.landsOut slot then .next σ
    else if !(σ.runs slot).isEmpty || σ.begunOf p then .next σ
    else match σ.movePlace p with
      | none => .next stay
      | some n => match σ.canHold n p.part (σ.needsOf p) with
        | some (w, r) => if σ.workFits p n then .next (σ.moveProc slot n w r) else .next σ
        | none => .next stay

/-! ## Completion (R335) -/

/-- A spawn message from a process of a network is on its way. -/
def State.spawnOut (s : State) (id : Nat) : Bool :=
  let mine := fun (p : Packet) => match p.body with
    | .msg _ m => decide (m.kind = .spawn) && (s.proc (slotOf m.name)).net == id
    | _ => false
  s.clusters.any fun e =>
    e.2.arrived.any mine || (e.2.router.inp.any fun q => q.2.any mine) || e.2.router.out.any fun q => q.2.any mine

/-- Every process of a network has exited. -/
def State.netOver (s : State) (id : Nat) : Bool :=
  (s.procs.all fun e => e.2.net != id || decide (e.2.state = .exited)) && !s.spawnOut id

/-- NETWORK_DONE (R335): the network of number `turn.val` completes, and is no longer queued or running. -/
def execNetworkDone (σ : State) : Out :=
  match look σ.nets σ.turn.val with
  | none => .next σ
  | some n =>
    if (n.state ≠ .running && n.state ≠ .cancelling) || !σ.netOver σ.turn.val then .next σ
    else
      let status := if n.state = .cancelling then 2 else 0
      let s := { σ with nets := put σ.nets σ.turn.val { n with state := .done } }
      let s := s.tellDone n.die n.part n.launcher n.lreg n.window (doneWord 0 status n.ticket)
      .next (s.schedRecord n.part 2 n.die n.ticket status)

end Sys2Proof.Machine
end

