-- ==== Sys2Proof/Machine/MemEvents.lean ====
section
/-!
DEFINITION. Rows of the memory system (03 R55, R59, 04 R63, R66, R72, 11 R242): an access and a fill at a slice, windows,
evictions, invalidations between dies, walks. Memory itself is one copy (log 4): a fill or an invalidation changes what a
slice holds and no byte.
-/

namespace Sys2Proof.Machine

/-! ## Slices -/

/-- COMBINING_WINDOW_CLOSE (R72): in slice `turn.sub` of cluster `turn.unit` the first window that has been open for MCWIN
clocks closes. -/
def execCombiningWindowClose (σ : State) : Out :=
  if !clusterOk σ.turn.unit || 4 ≤ σ.turn.sub then .fault .noSuchUnit
  else
    let h : Home := { die := dieOf σ.turn.unit, cluster := σ.turn.unit, slice := σ.turn.sub, set := 0 }
    match (σ.sliceAt h).windows.find? (σ.windowOver h) with
    | some w => .next (σ.closeWindow h w.line)
    | none => .next σ

/-- SLICE_ACCESS (R63): a plain access of the context of `turn` to the line of physical address `turn.sub` reaches its slice:
a read, or with bytes a write of them. -/
def execSliceAccess (σ : State) : Out :=
  let a := σ.turn.sub
  let bs := σ.turn.bytes
  if !inHbm a || !inHbm (a + bs.length) then .next σ
  else if bs.isEmpty then .next (σ.readLine (a / 128 * 128) σ.activity.part (σ.turn.core / 8) 0 true)
  else if σ.stageFull a || σ.stageFull (a + bs.length - 1) then .next σ
  else .next (σ.write (σ.writer 0) a bs)

/-- The data of a fill is installed by R63 unless the line is there already. -/
def State.installLine (s : State) (h : Home) (line part : Nat) : State :=
  let remote := (homeOf line).die != h.die
  let t := s.lineSet h
  match t.hit line with
  | some _ => s
  | none => match t.victim (s.eligible h.die part remote) with
    | none => s
    | some k =>
      let s := s.evict h (t.way k)
      let w : Way := { state := .clean, line := line, owner := part }
      let s := s.modSet h fun t => ({ t with ways := put t.ways k w }).access k false
      if remote then
        let ds := find s.copies line []
        { s with copies := put s.copies line (if ds.contains h.die then ds else h.die :: ds) }
      else s

/-- SLICE_FILL_DATA (R63): the data of the line of physical address `turn.sub` arrives on behalf of partition `turn.val` for
a reader of cluster `turn.unit`. -/
def execSliceFillData (σ : State) : Out :=
  let line := σ.turn.sub / 128 * 128
  let die := dieOf σ.turn.unit
  if !clusterOk σ.turn.unit || 8 ≤ σ.turn.val then .fault .noSuchUnit
  else if !inHbm line then .next σ
  else
    let home := homeOf line
    if die = home.die then .next (σ.installLine home line σ.turn.val)
    else if (σ.die die).rwaysAt σ.cyc = 0 then .next σ
    else .next (σ.installLine (cachingOf line die) line σ.turn.val)

/-- EVICTION_REPORT (R66): die `turn.unit` reports that it holds the line of physical address `turn.sub` no longer, and the
home clears its bit. -/
def execEvictionReport (σ : State) : Out :=
  let line := σ.turn.sub / 128 * 128
  if 4 ≤ σ.turn.unit then .fault .noSuchUnit
  else if !inHbm line || ((σ.lineSet (cachingOf line σ.turn.unit)).hit line).isSome then .next σ
  else .next { σ with copies := put σ.copies line ((find σ.copies line []).filter (· != σ.turn.unit)) }

/-! ## Between dies (R66, R242) -/

/-- A message may be applied at its die: no other message to the die that has not been applied is causally before it.
Counts are compared modulo 2^16. -/
def State.dieReady (s : State) (m : DieMsg) : Bool :=
  !(s.dieMsgs.any fun x => x.dst == m.dst && x != m && x.before m.vec)

/-- The first message to a die that may be applied and meets a test. -/
def State.nextDieMsg (s : State) (die : Nat) (want : DieMsg → Bool) : Option (DieMsg × State) :=
  match takeFirst (fun m => m.dst == die && want m && s.dieReady m) s.dieMsgs with
  | some (m, rest) => some (m, { s with dieMsgs := rest })
  | none => none

/-- REMOTE_INVALIDATION (R66): the invalidation of the line of physical address `turn.sub` is applied at die `turn.unit`. -/
def execRemoteInvalidation (σ : State) : Out :=
  if 4 ≤ σ.turn.unit then .fault .noSuchUnit
  else match σ.nextDieMsg σ.turn.unit fun m => m.line == σ.turn.sub / 128 * 128 with
  | some (m, t) => .next (t.applyDieMsg m)
  | none => .next σ

/-- INTER_DIE_MESSAGE (R242): the oldest message to die `turn.unit` whose predecessors are applied. Writes and atomics
themselves cross at once (log 4): the messages are their invalidations. -/
def execInterDieMessage (σ : State) : Out :=
  if 4 ≤ σ.turn.unit then .fault .noSuchUnit
  else match σ.nextDieMsg σ.turn.unit fun _ => true with
  | some (m, t) => .next (t.applyDieMsg m)
  | none => .next σ

/-! ## Walks (03 R55-R59) -/

/-- PAGE_WALK (R55, R56, R59): the walker of cluster `turn.unit` translates the virtual address in word 0 for partition
`turn.val`, access kind `turn.sub` of R57, as SUPER when `turn.ok`. A failed walk installs nothing; the fault is raised in
the context that makes the access. -/
def execPageWalk (σ : State) : Out :=
  if !clusterOk σ.turn.unit || 8 ≤ σ.turn.val then .fault .noSuchUnit
  else
    let x : Access := { part := σ.turn.val, super := σ.turn.ok, kind := σ.turn.sub, va := (σ.given 0).toNat % 2 ^ 52,
                        cluster := σ.turn.unit, core := none }
    match σ.translate x with
    | .ok (_, t) => .next t
    | .error f => .next (σ.lostBy σ.turn.val σ.turn.unit f)

end Sys2Proof.Machine
end

