-- ==== Sys2Proof/Machine/Bar0.lean ====
section
/-!
DEFINITION. The host's side (22 R387-R390, 11 R250, R425): host end windows, the event ring, BAR2, accesses that N0 passes
to the host link and the CXL port, the freeze of a host function (15 R377), idle states (22 R399, R400), and the registers
of BAR0 with the rows that write them.
-/

namespace Sys2Proof.Machine

/-! ## Host end windows (R389, R390) -/

/-- Window `w` of partition `p`. -/
def State.window (s : State) (p w : Nat) : HostWindow := find (s.part p).windows w {}

/-- Changes window `w` of partition `p`. -/
def State.modWindow (s : State) (p w : Nat) (f : HostWindow → HostWindow) : State :=
  s.modPart p fun q => { q with windows := put q.windows w (f (find q.windows w {})) }

/-- A message of a window still stands at the port of N0 from which it leaves. -/
def State.windowOut (s : State) (p w : Nat) : Bool :=
  (find (s.cluster (ioCluster 0)).router.inp 12 []).any fun x => match x.body with
    | .toHome m => m.window == some (16 * p + w)
    | _ => false

/-- A GO: WORDS payload words go to the home of the window's launch channel, or LOST is set when BUSY. -/
def State.windowGo (s : State) (p w : Nat) : State :=
  let x := s.window p w
  match x.chan with
  | none => s
  | some k =>
    if x.busy then s.modWindow p w fun x => { x with lost := true }
    else
      let home := (s.chan k).home
      let m : Msg := { kind := .data, chid := s.devidx * 2 ^ 24 + k, home := home, seq := x.seq, core := ioCluster 0 * 8, part := p,
                       words := (rangeFrom 0 x.words).map fun i => find x.payload i 0#64, window := some (16 * p + w) }
      let s := s.modWindow p w fun x => { x with busy := true, seq := (x.seq + 1) % 2 ^ 32 }
      s.sendPkt (ioCluster 0) (home / 4) p (.toHome m)

/-- A write of WCTRL. -/
def State.writeWctrl (s : State) (p w : Nat) (v : Word) : State :=
  let s := s.modWindow p w fun x =>
    { x with words := min 4 (fieldOf v 3 0), lost := x.lost && !v.getLsbD 61 }
  if v.getLsbD 63 then s.windowGo p w else s

/-- The function of a partition takes accesses: its record is valid and it is not frozen (R388, 15 R377). -/
def Partition.open (p : Partition) : Bool := p.valid && !p.frozen

/-- HOST_WINDOW_GO (R390): window `turn.sub` of partition `turn.unit` takes a GO with WORDS in word 0; with `turn.val` 1 its
message has left and BUSY clears. -/
def execHostWindowGo (σ : State) : Out :=
  let p := σ.turn.unit
  let w := σ.turn.sub
  if 8 ≤ p || 16 ≤ w then .fault .noSuchUnit
  else if σ.turn.val = 1 then
    if σ.windowOut p w then .next σ else .next (σ.modWindow p w fun x => { x with busy := false })
  else if !(σ.part p).open then .next σ
  else .next (σ.writeWctrl p w (σ.given 0 ||| 0x8000000000000000#64))

/-! ## The event ring (R390) -/

/-- Where host memory of a host address lies in the HOST range (03 R45, log 33). -/
def hostAddr (a : Nat) : Nat := 0x800000000000 + a % 2 ^ 47

/-- Fills up words with zero to `n`. -/
def padWords (n : Nat) (ws : List Word) : List Word := ws.take n ++ List.replicate (n - ws.length) 0#64

/-- The 128 bytes of a ring entry: a1, a2-a9, zero. -/
def ringEntry (e : Evt) : List Byte :=
  ((headerOf e.name 1 e.lands 8 0 0 :: padWords 8 e.payload) ++ List.replicate 7 0#64).map (fun w => bytesOfNat 8 w.toNat) |>.flatten

/-- The ring of a window is there and has room for an event. -/
def HostWindow.ringRoom (x : HostWindow) : Bool := x.evbase != 0#64 && (x.prod + 2 ^ 16 - x.cons) % 2 ^ 16 != 64

/-- HOST_EVENT_ENTRY (R390): the oldest event that waits for window `turn.sub` of partition `turn.unit` is written into the
ring where there is room, and PROD rises. -/
def execHostEventEntry (σ : State) : Out :=
  let p := σ.turn.unit
  let w := σ.turn.sub
  if 8 ≤ p || 16 ≤ w then .fault .noSuchUnit
  else
    let x := σ.window p w
    match x.waiting with
    | [] => .next σ
    | e :: es =>
      if !x.ringRoom then .next σ
      else
        let a := hostAddr (x.evbase.toNat + 128 * (x.prod % 64))
        let s := { σ with mem := writeBytes σ.mem a (ringEntry e) }
        .next (s.modWindow p w fun x => { x with waiting := es, prod := (x.prod + 1) % 2 ^ 16 })

/-! ## BAR2 (R388, 11 R250) -/

/-- A function that breaks its partition's rights is frozen; the supervisors and the host are told (15 R377). -/
def State.freezeFunction (s : State) (p : Nat) : State :=
  let s := s.modPart p fun q => { q with frozen := true }
  let fc := FaultCode.violation.toByte.toNat
  let words := faultWord0 0 0 0 5 0 fc :: List.replicate 7 0#64
  let dies := (s.part p).supers.map Prod.fst
  let s := { s with faultMsgs := s.faultMsgs ++ (dies.take 1).map fun d => ({ part := p, die := d, words := words } : FaultMsg) }
  s.tellHost words

/-- The size of a partition function's BAR2: that of its range, rounded up to a power of two (R388). -/
def bar2Size (n : Nat) : Nat := if n ≤ 1 then n else 2 ^ (Nat.log2 (n - 1) + 1)

/-- HOST_BAR2_ACCESS (R388): the host writes the bytes at offset `turn.sub` of BAR2 of the function of partition `turn.unit`,
or without bytes reads `turn.val` of them. Beyond the partition's range a write is dropped, a read gives all ones, and the
function is frozen; a frozen function's writes are dropped (15 R377). Beyond BAR2 there is no access. -/
def execHostBar2Access (σ : State) : Out :=
  let p := σ.turn.unit
  let bs := σ.turn.bytes
  if 8 ≤ p then .fault .noSuchUnit
  else
    let r := σ.part p
    let n := if bs.isEmpty then min 4096 σ.turn.val else bs.length
    let ones : State := if bs.isEmpty then { σ with hostReply := List.replicate n 255#8 } else σ
    if n = 0 || !r.valid || bar2Size r.msize < σ.turn.sub + n || r.frozen && !bs.isEmpty then .next σ
    else if r.msize < σ.turn.sub + n then .next (ones.freezeFunction p)
    else
      let a := r.mbase + σ.turn.sub
      if bs.isEmpty then
        let x := (linesOf a n).foldl (fun s l => s.lineAccess (homeOf l) l p 0 false) σ
        .next { x with hostReply := readBytes x.mem a n }
      else .next (σ.write { part := p, die := 4, kind := .host } a bs)

/-- HOST_FUNCTION_RESET (15 R377): the host resets the function of partition `turn.unit`, and the Keystone releases it. -/
def execHostFunctionReset (σ : State) : Out :=
  if 8 ≤ σ.turn.unit then .fault .noSuchUnit else .next (σ.modPart σ.turn.unit fun q => { q with frozen := false })

/-! ## Accesses of contexts to HOST and CXL (11 R425) -/

/-- Writes bytes at addresses. -/
def writeAt (m : Memory) : List Nat → List Byte → Memory
  | a :: as, b :: bs => writeAt (writeByte m a b) as bs
  | _, _ => m

/-- The words of addresses. -/
def wordsAt (as : List Nat) : List Nat := (as.map fun a => a / 8).eraseDups

/-- N0 performs a store of a context (11 R425): as an agent whose vector entry is N0's (R242), in the order of arrival, with the
causal links of its issue. -/
def State.passStore (s : State) (r : HostReq) (bs : List Byte) : State :=
  let s := s.crossDie (dieOf (r.core / 8)) 4
  { s with mem := writeAt s.mem r.addrs bs
           wrote := (wordsAt r.addrs).foldl (fun m x => put m x { r.mark with yields := true, clock := s.cyc }) s.wrote }

/-- What the writers of the words at addresses had performed. -/
def State.knownAt (s : State) (as : List Nat) : Know := (wordsAt as).foldl (fun k x => match look s.wrote x with
  | some m => joinKnow k m.know
  | none => k) []

/-- N0 performs a load of a context: its value is what the host or the expander returns, with the act, else what the model's memory
holds there with what its writers had performed. -/
def State.passLoad (s : State) (r : HostReq) : State :=
  let own := s.turn.bytes.isEmpty
  let bs := if own then r.addrs.map (readByte s.mem) else s.turn.bytes.take r.size
  let x : Reply := { value := wordOf (natOfBytes bs), know := if own then s.knownAt r.addrs else [] }
  s.modCtx r.core r.ctx fun c => match c.pend with
    | some p => if p.id = r.req then { c with pend := some { p with reply := some x } } else c
    | none => c

/-- HOST_CXL_ACCESS (11 R425): N0 passes on the oldest request. -/
def execHostCxlAccess (σ : State) : Out :=
  match σ.hostReqs with
  | [] => .next σ
  | r :: rs =>
    let s := { σ with hostReqs := rs }
    match r.bytes with
    | some bs => .next (s.passStore r bs)
    | none => .next (s.passLoad r)

/-! ## Idle states (R399, R400) -/

/-- A cluster is idle: no context runs, nothing is runnable, its engines are empty. A context that waits in WAITA for its
reply counts as idle. -/
def State.clusterIdle (s : State) (cl : Nat) : Bool :=
  let runs := fun (c : Ctx) => decide (c.status = .running) && !(match c.pend with
    | some p => decide (p.kind = .waita) && p.reply.isNone
    | none => false)
  let k := s.cluster cl
  let lin := s.arrays.any fun a => a.2.queue.any fun e => match e with
    | .start l => l.core / 8 == cl
    | .fence _ => false
  !((coresOf cl).any fun n => ((rangeFrom 0 4).any fun j => runs (s.ctx n j)) || !(s.readyOn n).isEmpty)
    && (k.hod.all fun q => q.2.isEmpty) && (k.mat.all fun q => q.2.isEmpty) && k.mstep.isNone && !lin

/-- The deeper of two states whose exit latency LATTOL allows. -/
def deepest (us : Nat) (shallow deep : Idle) : Option Idle :=
  if exitUs deep ≤ us then some deep else if exitUs shallow ≤ us then some shallow else none

/-- IDLE_ENTRY (R399): cluster `turn.unit` is seen idle, and enters I1 or I2 once it has been idle for ten times the exit
latency, I2 also from I1; a cluster seen busy is not idle any more. Times are those of TIME. -/
def execIdleEntry (σ : State) : Out :=
  let cl := σ.turn.unit
  if !clusterOk cl then .fault .noSuchUnit
  else
    let k := σ.cluster cl
    if !σ.clusterIdle cl then .next (if k.idleSince.isNone then σ else σ.modCluster cl fun k => { k with idleSince := none })
    else match k.idleSince with
    | none => .next (σ.modCluster cl fun k => { k with idleSince := some σ.time })
    | some t =>
      let us := match σ.clusterPart cl with
        | some p => (σ.part p).lattol
        | none => 0
      match deepest us .i1 .i2 with
      | some i =>
        if (decide (k.idle = .run) || decide (k.idle = .i1 ∧ i = .i2)) && k.idleExit.isNone && decide (t + 10000 * exitUs i ≤ σ.time) then
          .next (σ.modCluster cl fun k => { k with idle := i })
        else .next σ
      | none => .next σ

/-- A partition has a process that is not gone. -/
def State.hasProcs (s : State) (p : Nat) : Bool := s.procs.any fun e => e.2.part == p && e.2.state != .exited

/-- The least LATTOL over the partitions that have a resident process; without any there is no limit. -/
def State.leastLattol (s : State) : Option Nat :=
  (rangeFrom 0 8).foldl (fun (b : Option Nat) p =>
    if s.procs.any fun e => e.2.part == p && decide (e.2.state = .resident) then
      match b with
      | some x => some (min x (s.part p).lattol)
      | none => some (s.part p).lattol
    else b) none

/-- No link of the pod carries traffic, and no checkpoint session is copying. -/
def State.quiet (s : State) : Bool :=
  s.inject.isEmpty && (s.ports.all fun p => p.2.inp.isEmpty && p.2.flits.isEmpty) && s.ckpts.all fun c => !c.2.active

/-- The state of the device's idleness that its partitions allow. -/
def State.deviceIdle (s : State) : Option Idle := match s.leastLattol with
  | some us => deepest us .i3 .i4
  | none => some .i4

/-- The clusters of which something is held. -/
def State.usedClusters (s : State) : List Nat :=
  (s.clusters.map Prod.fst ++ s.cores.map fun (e : Nat × Core) => e.1 / 8).eraseDups

/-- IDLE_WAKE (R400): a wake event reaches cluster `turn.unit`, or with `turn.sub` 1 the device. -/
def execIdleWake (σ : State) : Out :=
  if σ.turn.sub = 1 then .next σ.wakeDevice
  else if !clusterOk σ.turn.unit then .fault .noSuchUnit else .next (σ.wakeCluster σ.turn.unit)

/-- The time an exit ends has come. -/
def over? (t : Option Nat) (now : Nat) : Bool := match t with
  | some x => decide (x ≤ now)
  | none => false

/-- The device is awake: the accesses of the host that wait for it come next, unchanged (R400). -/
def State.awake (s : State) : State :=
  { s with idle := .run, idleExit := none, agenda := s.hostWaits ++ s.agenda, hostWaits := [] }

/-- IDLE_EXIT_DONE (R400): the exit of cluster `turn.unit`, or with `turn.sub` 1 of the device, completes. -/
def execIdleExitDone (σ : State) : Out :=
  if σ.turn.sub = 1 then .next (if over? σ.idleExit σ.time then σ.awake else σ)
  else if !clusterOk σ.turn.unit then .fault .noSuchUnit
  else if over? (σ.cluster σ.turn.unit).idleExit σ.time then
    .next (σ.modCluster σ.turn.unit fun k => { k with idle := .run, idleExit := none, idleSince := none })
  else .next σ

/-- A write of LATTOL (R400): one below the exit latency of a state in use starts its exit. -/
def State.writeLattol (s : State) (p : Nat) (v : Word) : State :=
  let us := fieldOf v 31 0
  let s := s.modPart p fun q => { q with lattol := us }
  let asleep := (s.clusters.filter fun (e : Nat × Cluster) => decide (e.2.idle ≠ .run) && decide (us < exitUs e.2.idle)
    && s.clusterPart e.1 == some p).map Prod.fst
  let s := asleep.foldl (fun s cl => s.wakeCluster cl) s
  if s.idle ≠ .run && decide (us < exitUs s.idle) then s.wakeDevice else s

/-- LATTOL_WRITE (R400): partition `turn.unit`, value word 0. -/
def execLattolWrite (σ : State) : Out :=
  if 8 ≤ σ.turn.unit then .fault .noSuchUnit
  else if !(σ.part σ.turn.unit).open then .next σ
  else .next (σ.writeLattol σ.turn.unit (σ.given 0))

/-! ## Registers (00 R4, R388, R389, R395) -/

/-- A write of a register of window `w` at offset `o` in it. -/
def State.writeWindow (s : State) (p w o : Nat) (v : Word) : State :=
  if o < 0x20 then s.modWindow p w fun x => { x with payload := put x.payload (o / 8) v }
  else if o = 0x20 then s.writeWctrl p w v
  else if o = 0x28 then s.modWindow p w fun x => { x with evbase := wordOf (fieldOf v 63 13 * 8192) }
  else if o = 0x30 then s.modWindow p w fun x => { x with cons := fieldOf v 31 16 }
  else s

/-- A write of a register of a partition function's BAR0. -/
def State.writePartBar (s : State) (p o : Nat) (v : Word) : State :=
  if !(s.part p).open then s
  else if o < 0x400 then s.writeWindow p (o / 64) (o % 64) v
  else if o = 0x100000 then s.writeLattol p v
  else s

/-- CMD's fields that are stored: command, RESET flag, length; a length above 4,096 is stored as it is. -/
def cmdWord (v : Word) : Word := wordOf (at_ (fieldOf v 31 16) 16 16 + at_ (fieldOf v 8 0) 9 0)

/-- A write of the management function's BAR0: the mailbox buffer, and CMD, which a set BUSY ignores (R395). -/
def State.writeMgmtBar (s : State) (o : Nat) (v : Word) : State :=
  let k := s.keystone
  if o < 0x1000 then { s with keystone := { k with buffer := writeBytes k.buffer o (bytesOfNat 8 v.toNat) } }
  else if o = 0x1800 then if k.busy then s else { s with keystone := { k with cmd := cmdWord v, busy := true } }
  else s

/-- The control record of a system copy engine: a supervisor resets the engine (15 R377, log 34). -/
def State.resetEngine (s : State) (u : Nat) : State :=
  { s with engines := put s.engines u { find s.engines u {} with frozen := false } }

/-- REGISTER_WRITE (00 R4): for `turn.sub` 0 a write of word 0 to the device register at offset `turn.unit` by partition
`turn.val`, 8 for the Keystone; for 1 to offset `turn.unit` of BAR0 of function `turn.val`; for 2 the supervisor's reset of
system copy engine `turn.unit`. Offsets are multiples of 8, and one without a register takes no write. -/
def execRegisterWrite (σ : State) : Out :=
  let o := σ.turn.unit
  let v := σ.given 0
  if σ.turn.sub = 0 then
    match devRegAt o with
    | some r => .next (if σ.turn.val = 8 || r.opens σ.turn.val then σ.rowWrite r v else σ)
    | none => .next σ
  else if σ.turn.sub = 1 then
    if 9 ≤ σ.turn.val then .fault .noSuchUnit
    else if o % 8 ≠ 0 then .next σ
    else if σ.turn.val = 0 then .next (σ.writeMgmtBar o v)
    else .next (σ.writePartBar (σ.turn.val - 1) o v)
  else if 128 ≤ o then .fault .noSuchUnit
  else .next (σ.resetEngine o)

end Sys2Proof.Machine
end

