-- ==== Sys2Proof/Machine/Fences.lean ====
section
/-!
DEFINITION. FENCE, QFENCE and ROSYNC (11 R253-R256) and the taking of a checkpoint cut (22 R401).
-/

namespace Sys2Proof.Machine

/-! ## The cut (22 R401) -/

/-- Addresses and values of the valid entries of a table. -/
def tableEntries (m : Memory) (base n : Nat) : List (Nat × Nat) :=
  (rangeFrom 0 n).filterMap fun i =>
    let e := readNat m (base + 8 * i) 8
    if pteValid e then some (base + 8 * i, e) else none

/-- The entries of a partition's tables that hold a D bit: 512 MiB leaves, leaf-table entries (03 R50, R60). -/
def dirtyEntries (m : Memory) (root : Nat) : List (Nat × Nat) :=
  let dir := tableEntries m (bitsOf root 47 13 * 8192) 1024
  let regions := ((dir.filter fun e => pteKind e.2 = 0).map fun e => tableEntries m (pteAddr e.2) 8192).flatten
  let big := regions.filter fun e => pteKind e.2 = 1
  let leaves := ((regions.filter fun e => pteKind e.2 = 0).map fun e => tableEntries m (pteAddr e.2) 8192).flatten
  (big ++ leaves).filter fun e => e.2 / pteD % 2 = 1

/-- Zeroes `n` bytes. -/
def zeroBytes (m : Memory) (a n : Nat) : Memory := (rangeFrom a n).foldl (fun m x => writeByte m x 0#8) m

/-- The granules of a partition's range whose bitmap bit is set, or all of them for a first cut. -/
def State.cutSet (s : State) (p : Partition) (all : Bool) : List Nat :=
  let g := (rangeFrom 0 (p.msize / 65536)).filter fun i => all || (readByte s.mem (p.dirty + i / 8)).getLsbD (i % 8)
  g.map fun i => p.mbase + i * 65536

/-- A checkpoint cut of partition `k` (22 R401): the bitmap moves into the copy set and clears, the D bits clear, and the
partition's translations are invalidated. Without an open session there is no cut (log 20). -/
def State.takeCut (s : State) (k : Nat) : State :=
  match look s.ckpts k with
  | none => s
  | some c =>
    let p := s.part k
    let gs := s.cutSet p (!c.cut)
    let m := zeroBytes s.mem p.dirty ((p.msize / 65536 + 7) / 8)
    let m := if p.root % 2 = 1 then (dirtyEntries m p.root).foldl (fun m e => writeNat m e.1 8 (e.2 - pteD)) m else m
    let c : Ckpt := { c with active := true, cut := true, err := false, todo := gs, staged := [], copied := 0, doneSet := [] }
    let s := { s with mem := m, ckpts := put s.ckpts k c }
    [0, 1, 2, 3, 4, 5].foldl (fun s d => s.dropTlb d k 0 52) s

/-- A cut of the partition is still copying. -/
def State.cutting (s : State) (k : Nat) : Bool := match look s.ckpts k with
  | some c => c.active
  | none => false

/-! ## The instructions -/

/-- FENCE (R253, R254, 12 R274). -/
def execFence (k : BitVec 2) (s : BitVec 3) (σ : State) : Out :=
  aHalf (.fence k s) (fun _ => do
    match k.toNat with
    | 1 => pure .retire
    | 3 => do
      let c ← me
      guardFault c.super .privilege ((encode (.fence k s)).setWidth 64)
      let t ← gets id
      if t.cutting t.activity.part then waitFor .fence
      else do
        mods fun t => t.takeCut t.activity.part
        pure .retire
    | _ => do
      match ← release s.toNat with
      | some d => pure d
      | none => pure .retire) σ

/-- QFENCE (R255) -/
def execQfence (f : BitVec 5) (σ : State) : Out :=
  aHalf (.qfence f) (fun _ => do
    let c ← me
    let m ← readA f
    require (decide (m.toNat < 16))
    sendEntry (.qfence m.toNat) c.q3 (pure ())) σ

/-- ROSYNC (04 R75, 11 R256): the read-only cache of the cluster is invalidated. -/
def execRosync (σ : State) : Out :=
  aHalf .rosync (fun _ => do
    mods fun s => s.modCluster (s.turn.core / 8) fun c => { c with ro := [] }
    pure .retire) σ

end Sys2Proof.Machine
end

