-- ==== Sys2Proof/Machine/Keystone.lean ====
section
/-!
DEFINITION. The Keystone (22 R391-R398, R401): reset and start, the mailbox commands, the setting up of a partition with
its channels and supervisors (15 R357, R361, 14 R327), attestation, images, checkpoint sessions.
-/

namespace Sys2Proof.Machine

/-! ## Reset and start (01 R17, 22 R396, R397) -/

/-- Reset: everything takes its reset state but what flash and fuses keep (FAILS, whether the firmware slots failed, the next leaf, the
staged images, the security version), the bytes of memory with their uncorrectable errors, and the model's own fields (log 35). -/
def State.resetDevice (s : State) : State :=
  { State.reset with
    agenda := s.agenda, turn := s.turn, freeCount := s.freeCount, fresh := s.fresh
    mem := s.mem, poisoned := s.poisoned, badLines := s.badLines
    keystone := { fails := s.keystone.fails, leaf := s.keystone.leaf, stagedImg := s.keystone.stagedImg, fused := s.keystone.fused
                  minimal := decide (3 ≤ s.keystone.fails), kiln := s.keystone.kiln } }

/-- DEVICE_RESET (R17) -/
def execDeviceReset (σ : State) : Out := .next σ.resetDevice

/-- The reason of a stage that fails. -/
def stageReason : Nat → Nat
  | 1 => 6 | 2 => 1 | 3 => 1 | 4 => 3 | 5 => 2 | _ => 4

/-- A start fails at a stage; the third failure in a row brings up minimal mode, where the Kiln serves if both firmware
slots failed their verification (R397). -/
def Keystone.failAt (k : Keystone) (stage reason : Nat) : Keystone :=
  let n := min 3 (k.fails + 1)
  { k with fails := n, stage := stage, reason := reason, minimal := decide (3 ≤ n), kiln := decide (3 ≤ n) && stage == 2 && reason == 1 }

/-- A start completes: FAILS clears, and the staged images are in force. -/
def Keystone.complete (k : Keystone) : Keystone :=
  { k with fails := 0, stage := 7, minimal := false, kiln := false, stagedImg := [] }

/-- The links of a mask are trained and the device index is fixed (12 R278); STOPAT of a port is its measured round trip in packets, an
operand of the act, plus 4 (12 R266). -/
def State.trainLinks (s : State) (mask dev : Nat) : State :=
  let s := { s with devidx := dev }
  (rangeFrom 0 12).foldl (fun s p =>
    if mask.testBit p then s.modPort p fun k => { k with state := .up, stopAt := (s.given (2 + p)).toNat + 4, stop := [], row := 0 } else s) s

/-- An image verifies (R396): both of its signatures verify, and its security version is not below the fused one. Whether a signature
verifies against the key hashes in fuses is an operand of the act: a set bit of word 14 says that it does not, bit 2i the ECDSA
signature and bit 2i + 1 the LMS signature of image i; word 15 + i is its security version. Images: 0 firmware slot A, 1 slot B, 2 the
others, with the lowest of their versions. -/
def State.verifies (s : State) (i : Nat) : Bool :=
  !(s.given 14).getLsbD (2 * i) && !(s.given 14).getLsbD (2 * i + 1) && decide (s.keystone.fused ≤ (s.given (15 + i)).toNat)

/-- The stage at which a start fails, 0 for none: the first of those that fail. Stage 2 fails when neither firmware slot verifies, and
stage 3 when another image does not; `val` is a stage, 1 to 6, that fails for another cause. -/
def State.failsAt (s : State) : Nat :=
  let v := s.turn.val
  let fails := fun (stage : Nat) => v == stage || (stage == 2 && !s.verifies 0 && !s.verifies 1) || (stage == 3 && !s.verifies 2)
  (([1, 2, 3, 4, 5, 6].find? fails).getD 0)

/-- The stages of a start, to the first that fails; word 0 holds the links that train, word 1 the device index that training fixes,
words 2-13 the round trips of ports 0-11, words 14-17 what verifies. -/
def State.runStart (s : State) : State :=
  if s.failsAt ≠ 0 then { s with keystone := s.keystone.failAt s.failsAt (stageReason s.failsAt) }
  else ({ s with keystone := s.keystone.complete }).trainLinks (fieldOf (s.given 0) 11 0) (fieldOf (s.given 1) 7 0)

/-- A start may run: none is complete and minimal mode is not up. -/
def Keystone.startable (k : Keystone) : Bool := decide (k.stage ≠ 7) && !k.minimal

/-- DEVICE_START (R396): fails at a stage, or completes. -/
def execDeviceStart (σ : State) : Out := if σ.keystone.startable then .next σ.runStart else .next σ

/-- THERMAL_TRIP (R396): a start fails at stage `turn.val` with reason 5. -/
def execThermalTrip (σ : State) : Out :=
  if σ.turn.val < 1 || 6 < σ.turn.val then .fault .noSuchUnit
  else if σ.keystone.startable then .next { σ with keystone := σ.keystone.failAt σ.turn.val 5 } else .next σ

/-! ## The mailbox (R395) -/

/-- Command code of the command in progress. -/
def Keystone.code (k : Keystone) : Option Nat := if k.busy then some (fieldOf k.cmd 7 0) else none

/-- Length of the request. -/
def Keystone.len (k : Keystone) : Nat := fieldOf k.cmd 31 16

/-- Word `i` of the buffer. -/
def Keystone.word (k : Keystone) (i : Nat) : Word := wordOf (readNat k.buffer (8 * i) 8)

/-- The command ends: result and the reply's bytes at the start of the buffer. -/
def State.mailDone (s : State) (result : Nat) (reply : List Byte) : State :=
  let k := s.keystone
  { s with keystone := { k with busy := false, result := result, replyLen := reply.length
                                buffer := writeBytes k.buffer 0 (reply.take 4096) } }

/-- The command is refused: the result is not 0, and the manual does not say which value it is. -/
def State.mailRefused (s : State) : State :=
  let (n, s) := s.takeFree
  s.mailDone (1 + (Config.freeWord n).toNat % 65535) []

/-- A command runs: the code is in progress, and minimal mode knows it (R397). -/
def Keystone.runs (k : Keystone) (code : Nat) : Bool :=
  k.code == some code && (!k.minimal || code == 0x10 && !k.kiln || code == 0x20 || code == 0x40 && !k.kiln)

/-- The commands of R395's table. -/
def mailCodes : List Nat := [0x01, 0x02, 0x10, 0x20, 0x30, 0x40]

/-- A command that nobody serves is refused: a code outside the table, or one that minimal mode does not have. -/
def State.mailUnserved (s : State) : State := match s.keystone.code with
  | some c => if mailCodes.any fun x => x == c && s.keystone.runs x then s else s.mailRefused
  | none => s

/-- A post waits and the buffer is free: it is written as an unsolicited reply (R395). -/
def State.mailPost (s : State) : State :=
  let k := s.keystone
  match k.posts with
  | [] => s
  | w :: ws =>
    if k.busy then s
    else ({ s with keystone := { k with posts := ws } }).mailDone 0x8000 ((w.map fun (x : Word) => bytesOfNat 8 x.toNat).flatten)

/-! ## PART_SET (R392-R394) -/

/-- Two ranges meet. -/
def rangesMeet (a n b m : Nat) : Bool := decide (n ≠ 0) && decide (m ≠ 0) && decide (a < b + m) && decide (b < a + n)

/-- Fields of an aperture record: host base and size, CXL base and size. -/
def Partition.host (p : Partition) : Nat × Nat := (fieldOf p.aperture 63 0, fieldOf p.aperture 127 64)
/-- CXL base and size. -/
def Partition.cxl (p : Partition) : Nat × Nat := (fieldOf p.aperture 191 128, fieldOf p.aperture 255 192)

/-- A partition record with its reserved bits zero. -/
def recordOf (w : BitVec 512) : BitVec 512 :=
  BitVec.ofNat 512 (at_ (fieldOf w 511 464) 48 464 + at_ (fieldOf w 447 64) 384 64 + at_ (fieldOf w 0 0) 1 0)

/-- An aperture record with its reserved bits zero. -/
def apertureOf (w : BitVec 512) : BitVec 512 := BitVec.ofNat 512 (fieldOf w 255 0)

/-- The two records share a column, a byte of HBM, or a byte of an aperture. -/
def Partition.meets (p q : Partition) : Bool :=
  ((rangeFrom 0 48).any fun x => p.hasColumn x && q.hasColumn x)
    || rangesMeet p.mbase p.msize q.mbase q.msize || rangesMeet p.host.1 p.host.2 q.host.1 q.host.2
    || rangesMeet p.cxl.1 p.cxl.2 q.cxl.1 q.cxl.2

/-- The ranges lie within those of 03 R45 and are multiples as R392 and R394 say. -/
def Partition.fits (p : Partition) : Bool :=
  let gib := 2 ^ 30
  decide (p.mbase % gib = 0) && decide (p.msize % gib = 0) && decide (p.mbase + p.msize ≤ 0x8000000000)
    && decide (p.host.1 % 4096 = 0) && decide (p.host.2 % 4096 = 0)
    && (p.host.2 == 0 || (inHost p.host.1 && inHost (p.host.1 + p.host.2 - 1)))
    && decide (p.cxl.1 % 65536 = 0) && decide (p.cxl.2 % 65536 = 0)
    && (p.cxl.2 == 0 || (inCxl p.cxl.1 && inCxl (p.cxl.1 + p.cxl.2 - 1)))

/-- A partition still has a process that is resident, swapped or moving (R393). -/
def State.peopled (s : State) (p : Nat) : Bool := s.procs.any fun e => e.2.part == p && e.2.state != .exited

/-- PART_SET is refused (R393). -/
def State.partRefused (s : State) (p : Nat) (q : Partition) : Bool :=
  s.peopled p || !q.fits || (rangeFrom 0 8).any fun k => k != p && (s.part k).valid && q.meets (s.part k)

/-- The compute dies on which the partition has columns. -/
def Partition.dies (p : Partition) : List Nat := (rangeFrom 0 4).filter fun d => (rangeFrom 0 24).any fun x => p.hasColumn (24 * (d % 2) + x)

/-- A launch channel (14 R327): its receive end is the scheduler's, on the die of its home. -/
def launchChan (die idx name reg core : Nat) (window : Option Nat) : Chan :=
  { sst := .here, rst := .here, sname := name, sloc := core, sreg := reg, cap := 64, home := clusterOfIndex die 0 * 4 + idx % 4
    window := window, role := 1 }

/-- The launch channels of a partition's host end windows (22 R389). -/
def State.makeWindows (s : State) (p die : Nat) : State :=
  (rangeFrom 0 16).foldl (fun s w => match s.freeIndex with
    | some idx =>
      let s := { s with chans := put s.chans idx (launchChan die idx 0 0 (ioCluster 0 * 8) (some (16 * p + w))) }
      s.modWindow p w fun x => { x with chan := some idx, seq := 0 }
    | none => s) s

/-- A process holds an end of channel `idx` in register `k`. -/
def State.giveEnd (s : State) (slot k idx home : Nat) (recv : Bool) (loc : Option Nat) : State :=
  s.modEnd slot k fun _ => { state := .held, handle := mkHandle (s.devidx * 2 ^ 24 + idx) 0 0 home false false recv, loc := loc }

/-- The fault channel of a supervisor's die, of capacity 64: its receive end at e0 (15 R357). -/
def State.faultEnd (s : State) (slot die idx : Nat) : State :=
  let p := s.proc slot
  let home := clusterOfIndex die 0 * 4 + idx % 4
  let c : Chan := { sst := .here, rst := .here, rname := p.name, rloc := p.core, rreg := 0, cap := 64, home := home }
  let s := ({ s with chans := put s.chans idx c }).giveEnd slot 0 idx home true none
  s.modCore p.core fun k =>
    { k with inboxes := k.inboxes ++ [{ chid := s.devidx * 2 ^ 24 + idx, home := home, reg := 0, slot := slot, cap := 64 }] }

/-- A launch channel of the die: its send end at e1 (14 R327). -/
def State.launchEnd (s : State) (slot die idx : Nat) : State :=
  let p := s.proc slot
  let x := launchChan die idx p.name 1 p.core none
  ({ s with chans := put s.chans idx x }).giveEnd slot 1 idx x.home false none

/-- The control channel of core `n`, whose receive end the core holds: its send end at register `reg` of the supervisor, where that
has one left (15 R361). -/
def State.controlEnd (s : State) (slot n reg idx : Nat) : State :=
  let p := s.proc slot
  let home := n / 8 * 4 + idx % 4
  let c : Chan := { sst := .here, rst := .here, sname := p.name, sloc := p.core, sreg := reg, rname := p.name, rloc := n,
                    cap := 64, home := home }
  let s := { s with chans := put s.chans idx c }
  let s := if reg < 64 then s.giveEnd slot reg idx home false (some n) else s
  s.modCore n fun k =>
    { k with inboxes := k.inboxes ++ [{ chid := s.devidx * 2 ^ 24 + idx, home := home, cap := 64, control := some p.part }] }

/-- Does something with the lowest free channel index, if there is one. -/
def State.withIndex (s : State) (f : Nat → State → State) : State := match s.freeIndex with
  | some idx => f idx s
  | none => s

/-- The ends of a supervisor: the receive end of its die's fault channel at e0, the send end of a launch channel at e1, and from e2
on the send ends of the control channels of the partition's cores, those of its own die first; the channels of further cores stand
without a register, of which it has 64 (15 R357, R361, 14 R327, log 32). -/
def State.superEnds (s : State) (slot die : Nat) : State :=
  let cores := s.partCores (s.proc slot).part
  let own := fun (n : Nat) => dieOf (n / 8) == die
  let cores := cores.filter own ++ cores.filter fun n => !own n
  let s := s.withIndex fun idx s => s.faultEnd slot die idx
  let s := s.withIndex fun idx s => s.launchEnd slot die idx
  (cores.zip (rangeFrom 2 cores.length)).foldl (fun s e => s.withIndex fun idx s => s.controlEnd slot e.1 e.2 idx) s

/-- A supervisor is started on a die (R393): the first LAUNCH template of an image, on the first core of the die that can
hold it; with no such core, or with an image that cannot be read, the die has none. -/
def State.startSuper (s : State) (p image die : Nat) : State :=
  match readNet p die image s with
  | .error (.fault code x w) => s.imageLost p die (code, x, w)
  | .error (.wait _ _) => s
  | .ok (im, s) => match im.launched with
    | [] => s
    | (k, t, tab) :: _ =>
      match s.freeSlot, s.firstCore p t.needs ((s.partCores p).filter fun n => dieOf (n / 8) == die) with
      | some slot, some core =>
        (match s.canHold core p t.needs with
        | none => s
        | some (w, r) =>
          let (id, s) := s.takeFresh
          let net : Net := { part := p, die := die, image := image, state := .running, chan := 2 ^ 24 }
          let s := { s with nets := put s.nets (id + 1) net }
          let s := s.makeProc slot core p (id + 1) k true t tab w r
          let s := s.modPart p fun q => { q with supers := put q.supers die slot }
          (s.superEnds slot die).sendStart slot t)
      | _, _ => s

/-- PART_SET takes effect: FILLMASKs to `mask` (04 R71), channels, a supervisor per die. -/
def State.setPart (s : State) (p : Nat) (q : Partition) (image : Nat) (mask : Word) : State :=
  let s := s.modPart p fun _ => q
  let s := [0, 1, 2, 3].foldl (fun s d => s.devWrite mask (.fillmask d p)) s
  if !q.valid then s
  else
    let s := s.makeWindows p (q.dies.headD 0)
    q.dies.foldl (fun s d => s.startSuper p image d) s

/-- PART_SET (R393): partition `turn.unit`; word 0 is the address of the supervisors' image in the partition's space, word 1
the FILLMASK of the partition (log 32). -/
def execPartSet (σ : State) : Out :=
  let p := σ.turn.unit
  let k := σ.keystone
  if 8 ≤ p then .fault .noSuchUnit
  else if !k.runs 0x01 then .next σ
  else
    let q : Partition := { record := recordOf (BitVec.ofNat 512 (readNat k.buffer 0 64)),
                           aperture := apertureOf (BitVec.ofNat 512 (readNat k.buffer 64 64)) }
    if k.len ≠ 128 || σ.partRefused p q then .next σ.mailRefused
    else .next ((σ.setPart p q (fieldOf (σ.given 0) 51 0) (σ.given 1)).mailDone 0 [])

/-! ## DEV_SET (R394, R395) -/

/-- A device-wide register. -/
def DevReg.deviceWide : DevReg → Bool
  | .scfg _ | .pctl | .portstat _ | .schctl => true
  | _ => false

/-- DEV_SET (R395): one device-wide field; an offset of another register is refused. -/
def execDevSet (σ : State) : Out :=
  let k := σ.keystone
  if !k.runs 0x02 then .next σ
  else match devRegAt (k.word 0).toNat with
  | some r => if r.deviceWide then .next ((σ.devWrite (k.word 1) r).mailDone 0 []) else .next σ.mailRefused
  | none => .next σ.mailRefused

/-! ## Attestation (R398) -/

/-- `n` bytes of an SPDM response from byte `k` on, which the manual leaves to SPDM 1.3. -/
def spdmBytes (i k n : Nat) : List Byte := (rangeFrom k n).map (Config.spdmByte i)

/-- The request codes that the device supports: GET_VERSION, GET_CAPABILITIES, NEGOTIATE_ALGORITHMS, GET_DIGESTS, GET_CERTIFICATE,
CHALLENGE and GET_MEASUREMENTS; the codes are those of SPDM (log 36). -/
def spdmCodes : List Nat := [0x84, 0xE1, 0xE3, 0x81, 0x82, 0x83, 0xE0]

/-- The request code of an SPDM message, its second byte. -/
def spdmCode (req : List Byte) : Nat := (req.getD 1 0#8).toNat

/-- The response to a request is signed: that to CHALLENGE, and that to GET_MEASUREMENTS where bit 0 of its third byte asks so. -/
def spdmSigned (req : List Byte) : Bool := spdmCode req == 0x83 || (spdmCode req == 0xE0 && (req.getD 2 0#8).getLsbD 0)

/-- The two bytes that begin a response: the version of the request, and its code without bit 7. -/
def spdmHead (req : List Byte) : List Byte := [req.getD 0 0#8, BitVec.ofNat 8 (spdmCode req % 128)]

/-- An SPDM error response: response code 0x7F, an error code and its data (log 36). -/
def spdmError (req : List Byte) (code data : Byte) : List Byte := [req.getD 0 0#8, 0x7F#8, code, data]

/-- The LMS signature of tree height 20 under a leaf: the leaf's index, and 2,824 bytes more. -/
def lmsSignature (i leaf : Nat) : List Byte := (bytesOfNat 4 leaf).reverse ++ spdmBytes i 4096 2824

/-- The ECDSA P-384 signature. -/
def ecdsaSignature (i : Nat) : List Byte := spdmBytes i 8192 96

/-- A signed response: what stands before it, the LMS signature in the opaque data, and the ECDSA signature in the signature field. -/
def spdmSignedBytes (i leaf n : Nat) (req : List Byte) : List Byte :=
  spdmHead req ++ spdmBytes i 0 (max 2 (min 1170 n)) ++ lmsSignature i leaf ++ ecdsaSignature i

/-- The answer to an SPDM message with `n` bytes beside what it must hold; a code that is not supported gets UnsupportedRequest. A
signed one takes a leaf first, which is written to flash; without that write, or with the leaves spent, no signature is released. -/
def State.answerSpdm (s : State) (req : List Byte) (flash : Bool) (n : Nat) : List Byte × State :=
  let k := s.keystone
  if !spdmCodes.contains (spdmCode req) then (spdmError req 0x07#8 (req.getD 1 0#8), s)
  else
    let (i, s) := s.takeFree
    if !spdmSigned req then (spdmHead req ++ spdmBytes i 0 (max 2 (min 4094 n)), s)
    else if 1048576 ≤ k.leaf || !flash then (spdmError req (Config.spdmByte i 0) (Config.spdmByte i 1), s)
    else (spdmSignedBytes i k.leaf n req, { s with keystone := { k with leaf := k.leaf + 1 } })

/-- SPDM (R398): the message in the buffer is answered in place; `turn.val` bytes stand in the answer beside what it must hold, and
`turn.ok` says whether flash takes the leaf index. -/
def execSpdm (σ : State) : Out :=
  let k := σ.keystone
  if !k.runs 0x10 then .next σ
  else
    let r := σ.answerSpdm (readBytes k.buffer 0 (min 4096 k.len)) σ.turn.ok σ.turn.val
    .next (r.2.mailDone 0 r.1)

/-- IMAGE_LOAD (R395): the request's bytes are staged for the next start, which verifies them. -/
def execImageLoad (σ : State) : Out :=
  let k := σ.keystone
  if !k.runs 0x20 then .next σ
  else
    let bs := readBytes k.buffer 0 (min 4096 k.len)
    .next (({ σ with keystone := { k with stagedImg := k.stagedImg ++ [bs] } }).mailDone 0 [])

/-- MCTP_I3C_MESSAGE (R398): the bytes of the act are for `turn.sub` 0 an SPDM message, for 1 a PLDM message of type 2, monitoring,
and for 2 one of type 5, firmware update, which stages them. The reply goes out on I3C. -/
def execMctpI3cMessage (σ : State) : Out :=
  let k := σ.keystone
  match σ.turn.sub with
  | 0 =>
    let r := σ.answerSpdm σ.turn.bytes σ.turn.ok σ.turn.val
    .next { r.2 with hostReply := r.1 }
  | 1 =>
    let (i, s) := σ.takeFree
    .next { s with hostReply := spdmBytes i 0 (min 4096 σ.turn.val) }
  | 2 => .next { σ with keystone := { k with stagedImg := k.stagedImg ++ [σ.turn.bytes] } }
  | _ => .fault .noSuchUnit

/-! ## CKPT_START and RESET (R401, R397) -/

/-- The destination, with the bitmap after the range, lies within the partition's host or CXL aperture. -/
def Partition.destOk (p : Partition) (dest : Nat) : Bool :=
  let n := p.msize + (p.msize / 65536 + 7) / 8
  let within := fun (r : Nat × Nat) => decide (r.1 ≤ dest) && decide (dest + n ≤ r.1 + r.2)
  within p.host || within p.cxl

/-- CKPT_START (R401): a session for partition `turn.unit`, with the destination base in word 0 and the staging buffer of
64 MiB at word 1 (log 37). -/
def execCkptStart (σ : State) : Out :=
  let p := σ.turn.unit
  if 8 ≤ p then .fault .noSuchUnit
  else if !σ.keystone.runs 0x30 then .next σ
  else
    let r := σ.part p
    let dest := (σ.given 0).toNat
    let stg := (σ.given 1).toNat
    if !r.valid || !r.destOk dest || stg < r.mbase || r.mbase + r.msize < stg + 2 ^ 26 || σ.cutting p then .next σ.mailRefused
    else .next (({ σ with ckpts := put σ.ckpts p { part := p, dest := dest, staging := stg } }).mailDone 0 [])

/-- MAILBOX_RESET (R397): a full device start, through reset. In minimal mode only one with bit 8 of CMD set retries a
normal start, and its failure leaves minimal mode and FAILS as they are. -/
def execMailboxReset (σ : State) : Out :=
  let k := σ.keystone
  if !k.runs 0x40 then .next σ
  else if k.minimal && fieldOf k.cmd 8 8 = 0 then .next (σ.mailDone 0 [])
  else .next σ.resetDevice.runStart

/-! ## Reads of BAR0 (00 R4, R388-R391, R395, R396, R401) -/

/-- WCTRL as it reads: GO reads zero. -/
def HostWindow.ctrl (x : HostWindow) : Word :=
  wordOf ((if x.busy then 2 ^ 62 else 0) + (if x.lost then 2 ^ 61 else 0) + at_ x.words 4 0)

/-- A register of a window at offset `o` in it; offset 0x38 reads zero. -/
def HostWindow.reg (x : HostWindow) (o : Nat) : Word :=
  if o < 0x20 then find x.payload (o / 8) 0#64
  else if o = 0x20 then x.ctrl
  else if o = 0x28 then x.evbase
  else if o = 0x30 then wordOf (at_ x.cons 16 16 + at_ x.prod 16 0)
  else 0#64

/-- CKPTSTAT. -/
def Ckpt.stat (c : Ckpt) : Word :=
  wordOf ((if c.active then 2 ^ 63 else 0) + (if c.err then 2 ^ 62 else 0) + at_ c.staged.length 16 32 + at_ c.copied 32 0)

/-- BOOTSTAT. -/
def Keystone.bootstat (k : Keystone) : Word :=
  wordOf ((if k.minimal then 2 ^ 63 else 0) + at_ k.fails 2 8 + at_ k.stage 4 4 + at_ k.reason 4 0)

/-- STS. -/
def Keystone.sts (k : Keystone) : Word :=
  wordOf ((if k.busy then 2 ^ 63 else 0) + at_ k.replyLen 16 32 + at_ k.result 16 0)

/-- The capability list (R391): five records of 64 bytes, one behind the other from offset 0x20_0000 on, with the identifiers 1
to 5; their order and length, which the manual leaves open, and what they hold (log 87). -/
def State.capability (s : State) (p o : Nat) : Word :=
  let id := o / 64 + 1
  if 5 < id then 0#64
  else if o % 64 = 0 then
    let next := if id < 5 then 0x200000 + 64 * id else 0
    wordOf (at_ next 24 40 + at_ 64 16 24 + at_ (Config.capVersion id).toNat 8 16 + at_ id 16 0)
  else Config.capWord id (o % 64 / 8) s.devidx (s.part p).record

/-- A register of the BAR0 of partition `p`'s function; an offset that holds none reads zero (log 90). -/
def State.partBar (s : State) (p o : Nat) : Word :=
  if o < 0x400 then (s.window p (o / 64)).reg (o % 64)
  else if o = 0x100000 then wordOf (s.part p).lattol
  else if o = 0x100040 then (find s.ckpts p {}).stat
  else if 0x200000 ≤ o then s.capability p (o - 0x200000)
  else 0#64

/-- A register of the management function's BAR0; an offset that holds none reads zero (log 90). -/
def Keystone.bar (k : Keystone) (o : Nat) : Word :=
  if o < 0x1000 then k.word (o / 8)
  else if o = 0x1000 then k.bootstat
  else if o = 0x1800 then k.cmd
  else if o = 0x1808 then k.sts
  else 0#64

/-- The host reads the 8 bytes at offset `o`, rounded down to a multiple of 8 (log 90), of BAR0 of function `fn`. A function that is not there, or whose partition's record is
not valid, exposes no BAR and answers nothing (R388); in minimal mode only function 0 is there (R397). -/
def State.hostRead (s : State) (fn o : Nat) : State :=
  let o := o / 8 * 8
  if fn = 0 then { s with hostReply := bytesOfNat 8 (s.keystone.bar o).toNat }
  else if fn ≤ 8 ∧ (s.part (fn - 1)).valid = true ∧ s.keystone.minimal = false then { s with hostReply := bytesOfNat 8 (s.partBar (fn - 1) o).toNat }
  else s

end Sys2Proof.Machine
end

