-- ==== Sys2Proof/Machine/CkptRows.lean ====
section
/-!
DEFINITION. A checkpoint cut as it copies (22 R402, R403): the copies of a system copy engine, the copy into staging before
a write, the cut's end. PC sampling (23 R406, R407).
-/

namespace Sys2Proof.Machine

/-! ## Copies of a cut (22 R402) -/

/-- The cut stops with ERR. -/
def Ckpt.fail (c : Ckpt) : Ckpt := { c with active := false, err := true }

/-- CHECKPOINT_GRANULE_COPY (R402): system copy engine `turn.sub` writes the lowest granule of the copy set of partition
`turn.unit`; with `turn.ok` false the destination write fails, and so it does on a frozen engine. -/
def execCheckpointGranuleCopy (σ : State) : Out :=
  let p := σ.turn.unit
  if 8 ≤ p || 128 ≤ σ.turn.sub then .fault .noSuchUnit
  else match look σ.ckpts p with
  | none => .next σ
  | some c => match c.todo with
    | [] => .next σ
    | g :: _ =>
      if !c.active then .next σ
      else if !σ.turn.ok || (find σ.engines σ.turn.sub {}).frozen then .next { σ with ckpts := put σ.ckpts p c.fail }
      else .next (σ.copyGranule p g)

/-- CKPT_STAGE_COPY (R402): the home slices copy the granule of address `turn.val` into staging, where it is still to be
copied and staging has room. -/
def execCkptStageCopy (σ : State) : Out := .next (if σ.stageFull σ.turn.val then σ else σ.stage σ.turn.val)

/-- The bytes of the bitmap of the granules of a cut, `n` of them from the granule of number `i`. -/
def cutBitmap (c : Ckpt) (mbase : Nat) (n : Nat) : List Byte :=
  let bits := c.doneSet.map fun g => (g - mbase) / 65536
  (rangeFrom 0 n).map fun i => BitVec.ofNat 8 ((rangeFrom 0 8).foldl (fun b k => if bits.contains (8 * i + k) then b + 2 ^ k else b) 0)

/-- CUT_COMPLETE (R402): every granule of the cut of partition `turn.unit` is copied; the bitmap is written after the
range. With `turn.ok` false its destination write fails (R403). -/
def execCutComplete (σ : State) : Out :=
  let p := σ.turn.unit
  if 8 ≤ p then .fault .noSuchUnit
  else match look σ.ckpts p with
  | none => .next σ
  | some c =>
    let r := σ.part p
    if !c.active || !c.todo.isEmpty then .next σ
    else if !σ.turn.ok then .next { σ with ckpts := put σ.ckpts p c.fail }
    else
      let m := writeBytes σ.mem (c.dest + r.msize) (cutBitmap c r.mbase ((r.msize / 65536 + 7) / 8))
      .next { σ with mem := m, ckpts := put σ.ckpts p { c with active := false } }

/-! ## PC sampling (23 R406, R407) -/

/-- The code of a stall reason. -/
def Stall.code : Stall → Nat
  | .none => 0 | .q0Empty => 1 | .q1Full => 2 | .q23 => 3 | .viewHold => 4 | .fillWindow => 5 | .tagWait => 6 | .barrier => 7
  | .matrixFull => 8 | .outboxFull => 9 | .sendRefused => 10 | .atomicPending => 11 | .fence => 12 | .fetchMiss => 13
  | .checkerReplay => 14 | .scoreboard => 15 | .sfuBusy => 16 | .streamBuffer => 17 | .preempting => 18

/-- Half of context `k` of a core issued in clock `cyc`. A slot that was lost was taken without an issue (08 R166); a request that
was sent stalls what it was issued for. -/
def Core.issuedIn (c : Core) (k cyc : Nat) : Half → Bool
  | .A => c.usedA == some cyc && c.lastA == k && ((c.ctx k).stallA == .none || (c.ctx k).pend.isSome)
  | .E => c.usedE == some cyc && c.lastE == k

/-- The reason that a sample of context `k` records in clock `cyc`: 0 where a half has issued, else that of the A half, or of the E
half where the A half has no instruction to issue. -/
def Core.sampleReason (c : Core) (k cyc : Nat) : Nat :=
  let x := c.ctx k
  if c.issuedIn k cyc .A || c.issuedIn k cyc .E then 0
  else if x.auto || (x.routine && fieldOf x.epca 62 62 == 1) then 18
  else if x.afault.isSome then x.stallE.code
  else x.stallA.code

/-- The context of a core that is sampled next: round robin, among those that hold an activation and are not parked. -/
def Core.sampleNext (c : Core) : Option Nat :=
  [1, 2, 3, 4].map (fun k => (c.sampleLast + k) % 4) |>.find? fun k =>
    decide ((c.ctx k).status = .running) && (c.ctx k).act.isSome

/-- PC_SAMPLE (R406): core `turn.unit` samples when PERIOD clocks have passed since the MTS or the last sample. -/
def execPcSample (σ : State) : Out :=
  let n := σ.turn.unit
  let c := σ.core n
  if !coreOk n then .fault .noSuchUnit
  else if c.samplep = 0#32 || σ.cyc < c.sampleAt + c.samplep.toNat then .next σ
  else
    let t := σ.modCore n fun c => { c with sampleAt := c.sampleAt + c.samplep.toNat }
    match c.sampleNext with
    | none => .next t
    | some k =>
      let x := c.ctx k
      let a : Activation := x.act.getD {}
      let w1 := wordOf (at_ a.name 32 32 + at_ n 14 16 + at_ k 2 8 + at_ (c.sampleReason k σ.cyc) 5 0)
      let t := t.modCore n fun c => { c with sampleLast := k }
      .next (t.ringRecord a.part false [] [wordOf σ.time, w1, x.nextA.setWidth 64, x.nextE.setWidth 64])

end Sys2Proof.Machine
end

