-- ==== Sys2Proof/Machine/Fetch.lean ====
section
/-!
DEFINITION. The front end (01 R16, 02 R24, R29-R31): what a half does when it is its turn to issue: the pre-emption
interrupt (15 R365), HANG (14 R339), fetching a word through translation, the limits of a hint group, the slots that an
instruction loses while its sources are not ready (08 R166, R184).
-/

namespace Sys2Proof.Machine

/-! ## Fetching a word -/

/-- The instruction a word stands for; a word that is none stands for its own ILLEGAL (02 R40). -/
def wordInstr (w : BitVec 32) : Instr := match decode w with
  | .ok i => i
  | .error _ => .illegalWord w

/-- The word at a virtual address as context `k` of core `n` fetches it, and the state with what its translation left. A
fetch reads memory itself (log 4), or the register of a block of device registers that is open to the partition (03 R57,
R58). -/
def State.fetchWord (s : State) (n k va : Nat) : Except TFail (BitVec 32 × State) :=
  let c := s.ctx n k
  let a : Activation := c.act.getD {}
  let x : Access := { part := a.part, super := c.super, kind := 2, va := va, cluster := n / 8, core := some n }
  match s.translate x with
  | .error e => .error e
  | .ok (pa, t) =>
    if inDevreg pa then
      match devRegAt ((pa - 0x8000000000) / 8 * 8) with
      | some r =>
        if r.opens a.part then .ok (BitVec.ofNat 32 ((t.devRead r).toNat / 2 ^ (8 * (pa % 8))), t)
        else .error (.violation, faultX57 8 (s.levelOf x) 2 va, 0#64)
      | none => .error (.violation, faultX57 8 (s.levelOf x) 2 va, 0#64)
    else .ok (BitVec.ofNat 32 (readNat t.mem pa 4), t)

/-! ## Hint groups (02 R29, R30) -/

/-- A hint's kind. -/
def hintKind (w : BitVec 32) : Nat := (kind4 w).toNat

/-- How many hints of a kind a group holds at most: two HIMMs, one of the others, none of kinds 4 to 15. -/
def hintLimit (kind : Nat) : Nat := if kind = 1 then 2 else if kind < 4 then 1 else 0

/-- The first hint of a run that breaks the limits; the run stands last first. -/
def overLimit : List (BitVec 32) → Option (BitVec 32)
  | [] => none
  | w :: ws => match overLimit ws with
    | some x => some x
    | none => if hintLimit (hintKind w) ≤ (ws.filter fun v => hintKind v == hintKind w).length then some w else none

/-- What a run of hints comes to from an address on: a word that cannot be fetched, or the word after it. -/
inductive Run where
  | broken (f : TFail) (va : Nat)
  | done (ws : List (BitVec 32))
  deriving DecidableEq, Repr

/-- Follows a run of hints, the words so far last first, on fuel. Addresses wrap modulo 2^52. -/
def State.scanHints (s : State) (n k : Nat) : Nat → Nat → List (BitVec 32) → Run
  | 0, _, ws => .done ws
  | fuel + 1, va, ws => match s.fetchWord n k va with
    | .error f => .broken f va
    | .ok (w, _) => if isHintWord w then s.scanHints n k fuel ((va + 4) % 2 ^ 52) (w :: ws) else .done ws

/-! ## Results that are not ready (08 R166) -/

/-- The registers that an instruction of chapter 08 reads. -/
def regsRead : Instr → List (BitVec 5)
  | .add _ s t | .sub _ s t | .and _ s t | .or _ s t | .xor _ s t | .andn _ s t | .orn _ s t => [s, t]
  | .sll _ s t | .srl _ s t | .sra _ s t | .rol _ s t | .ror _ s t | .mul _ s t | .mulh _ s t | .mulhn _ s t => [s, t]
  | .div _ s t | .divn _ s t | .rem _ s t | .remn _ s t | .min _ s t | .max _ s t | .minn _ s t | .maxn _ s t => [s, t]
  | .slt _ s t | .sltn _ s t | .seq _ s t | .sne _ s t | .hmix _ s t | .crc32c _ s t | .bfxv _ s t => [s, t]
  | .bfiv d s t => [d, s, t]
  | .bfi d s .. => [d, s]
  | .clz _ s | .ctz _ s | .popc _ s | .bswap _ s | .jalr _ s => [s]
  | .bfx _ s .. | .bfxs _ s .. => [s]
  | .addi _ s _ | .andi _ s _ | .ori _ s _ | .xori _ s _ | .slti _ s _ | .sltni _ s _ | .muli _ s _ => [s]
  | .slli _ s _ | .srli _ s _ | .srai _ s _ | .roli _ s _ => [s]
  | .beq s t _ | .bne s t _ | .blt s t _ | .bge s t _ | .bltn s t _ | .bgen s t _ => [s, t]
  | .jr s | .dbnz s _ | .mts s _ => [s]
  | _ => []

/-- The register that an instruction writes, and the clocks after which its value may be read; a result of another chapter is
there when its instruction retires. -/
def resultAfter : Instr → Option (BitVec 5 × Nat)
  | .add d .. | .sub d .. | .and d .. | .or d .. | .xor d .. | .andn d .. | .orn d .. | .sll d .. | .srl d .. => some (d, 1)
  | .sra d .. | .rol d .. | .ror d .. | .min d .. | .max d .. | .minn d .. | .maxn d .. | .slt d .. | .sltn d .. => some (d, 1)
  | .seq d .. | .sne d .. | .clz d .. | .ctz d .. | .popc d .. | .bswap d .. | .bfx d .. | .bfxs d .. | .bfi d .. => some (d, 1)
  | .bfxv d .. | .bfiv d .. | .addi d .. | .andi d .. | .ori d .. | .xori d .. | .slti d .. | .sltni d .. => some (d, 1)
  | .lui d .. | .slli d .. | .srli d .. | .srai d .. | .roli d .. | .mfs d .. | .rdcyc d | .rdtime d | .jalr d _ => some (d, 1)
  | .bal _ => some (1#5, 1)
  | .dbnz s _ => some (s, 1)
  | .crc32c d .. => some (d, 2)
  | .mul d .. | .mulh d .. | .mulhn d .. | .muli d .. | .hmix d .. => some (d, 4)
  | .div d .. | .divn d .. | .rem d .. | .remn d .. => some (d, 24)
  | .ld d .. | .ldro d .. | .aadd d .. | .aand d .. | .aor d .. | .axor d .. | .amin d .. | .amax d .. | .aminn d .. => some (d, 1)
  | .amaxn d .. | .aswap d .. | .acas d .. | .afadd d .. | .waita d .. | .chnew d _ | .einfo d .. | .rateget d _ => some (d, 1)
  | .gname d _ | .waitany d _ | .waitall d _ | .ffr d _ | .bararr _ _ d | .bartest _ _ d | .mpoll d _ | .lwait d .. => some (d, 1)
  | _ => none

/-- `k` registers from field `b`. -/
def regRun (b : BitVec 5) (k : Nat) : List Nat := rangeFrom b.toNat k

/-- The registers of the coordinates of an access: as many as its layout has dimensions (05 R101). -/
def State.coordRegs (s : State) (c : BitVec 5) (l : BitVec 8) : List Nat := regRun c (layRank (s.self.layout l.toNat))

/-- The registers of the other words of the A half, whose turn it is: coordinates, boxes of three registers, the words of messages
and of layout entries, names, masks and references (02 R33). -/
def State.wordRegs (s : State) : Instr → List Nat
  | .ld _ c l .. | .ldro _ c l .. => s.coordRegs c l
  | .st d c l .. | .aadd d c l .. | .aand d c l .. | .aor d c l .. | .axor d c l .. | .amin d c l .. | .amax d c l ..
  | .aminn d c l .. | .amaxn d c l .. | .aswap d c l .. | .afadd d c l .. | .waita d c l .. => d.toNat :: s.coordRegs c l
  | .acas d c l .. => regRun d 2 ++ s.coordRegs c l
  | .ldq c | .stq c | .pref c .. => regRun c 3
  | .layset i b => i.toNat :: regRun b 8
  | .layget _ i => [i.toNat]
  | .laysub i b => i.toNat :: regRun b 3
  | .chnew _ r | .ebind r _ | .emask r _ | .rateset r _ | .qfence r | .mwait r | .mpoll _ r => [r.toNat]
  | .waitany _ r | .waitall _ r | .ffr _ r | .tagclr r => [r.toNat]
  | .send f n _ => regRun f n.toNat
  | .sende f n l _ => l.toNat :: regRun f n.toNat
  | .spawn b a l n => l.toNat :: regRun b 2 ++ regRun a n.toNat
  | .gstv a b _ | .ghold a b | .gwait a b | .barinit a b | .bararr a b _ | .barwait a b | .bartest a b _ | .lwait _ a b =>
    [a.toNat, b.toNat]
  | .cpy d a _ | .cpyred d a _ | .mma _ d a _ | .mrot _ d a _ => regRun d 3 ++ regRun a 3
  | .gath d a i _ | .scat d a i _ | .mmas d a i _ => regRun d 3 ++ regRun a 3 ++ regRun i 3
  | .halo o b k _ => [o.toNat, k.toNat] ++ regRun b 3
  | .strm _ b _ | .fillw _ b _ _ | .mrd b _ _ | .lgraph b => regRun b 3
  | i => (regsRead i).map BitVec.toNat

/-- The register that HMOD names a barrier reference in (08 R186). -/
def Ctx.barReg (c : Ctx) : List Nat :=
  let b := (hintsOf c.hints).hmod.bar
  if b = 0 then [] else [b]

/-- The sources of an instruction are ready in this clock. -/
def State.operandsReady (s : State) (n k : Nat) (i : Instr) : Bool :=
  let t : State := { s with turn := { s.turn with core := n, ctx := k } }
  (t.wordRegs i ++ (s.ctx n k).barReg).all fun r => decide (find (s.ctx n k).aReady r 0 ≤ s.cyc)

/-- An instruction whose sources are not ready loses its slot, which is counted (08 R166); after an HSTALL it loses one at
most, which counts as STALLSHORT instead and shows no stall (08 R184). -/
def State.loseSlot (s : State) (n k : Nat) : State :=
  let c := s.ctx n k
  let took := fun (s : State) => s.modCore n fun x => { x with lastA := k, usedA := some s.cyc }
  if (hintsOf c.hints).hstall.isNone then took (s.stall n k .A .scoreboard none)
  else
    let t := s.modCtx n k fun c => { c with lost := true, stallA := .none, waitA := none }
    if c.lost then t else (took t).count (c.act.getD {}).part 13 1

/-- After an instruction of the A half was chosen: its result is ready after its latency. a0 holds no result, and a30 names a
queue. -/
def State.noteResult (s : State) (n k : Nat) (i : Instr) : State :=
  match resultAfter i with
  | some (d, l) =>
    s.modCtx n k fun c =>
      if c.stallA = .none && c.act.isSome then
        { c with aReady := if l = 1 ∨ d = 0#5 ∨ 30#5 ≤ d then drop c.aReady d.toNat else put c.aReady d.toNat (s.cyc + l) }
      else c
  | none => s

/-! ## A half's turn -/

/-- What a turn comes to: nothing more, or an instruction to run in a state. -/
inductive Fetched where
  | idle (s : State)
  | run (i : Instr) (s : State)
  deriving DecidableEq, Repr

/-- The partition of the activation in a context. -/
def State.partAt (s : State) (n k : Nat) : Nat := ((s.ctx n k).act.getD {}).part

/-- The fault of a fetch: inside a hint group FAULTX is the base of the page that cannot be fetched (R30), else as R57
gives. -/
def State.fetchFault (s : State) (n k : Nat) (f : TFail) (group : Bool) (va : Nat) : State :=
  (s.walkLoads (s.partAt n k) (s.failReads (failAccess (s.partAt n k) (n / 8) (some n) (wordOf va)))).raiseA n k f.1
    (if group then wordOf (va / 4096 * 4096) else f.2.1) f.2.2

/-- The A half's front end fetches the word at the program counter. The limits of a group are tested when one of its hints
is fetched. An instruction under HSTALL is no candidate before its clock. -/
def State.fetchA (s : State) (n k : Nat) : Fetched :=
  let c := s.ctx n k
  let pre := c.hints.map EWord.word
  match s.fetchWord n k c.pc.toNat with
  | .error f => .idle (s.fetchFault n k f (!pre.isEmpty) c.pc.toNat)
  | .ok (w, t) =>
    if !isHintWord w then
      if s.cyc < c.heldTo && (hintsOf c.hints).hstall.isSome && !routesToE w then .idle s
      else if t.operandsReady n k (wordInstr w) then .run (wordInstr w) t
      else .idle (t.loseSlot n k)
    else match s.scanHints n k (2 ^ 50) ((c.pc.toNat + 4) % 2 ^ 52) (w :: pre.reverse) with
      | .broken f va => .idle (s.fetchFault n k f true va)
      | .done ws => match overLimit ws with
        | some x => .idle (t.raiseA n k .illegal (x.setWidth 64) 0#64)
        | none => .run (wordInstr w) t

/-- The A half's turn: an interrupt, a core that saves the context itself, a spent budget, else the next word. -/
def State.turnA (s : State) (n k : Nat) : Fetched :=
  let c := s.ctx n k
  if !c.issues then .idle s
  else if c.takesInterrupt then .idle (s.takeInterrupt n k)
  else if c.auto then .idle s.autoIssue
  else if c.hangs then .idle (s.hang n k)
  else s.fetchA n k

/-- A hint of the group at the head of the E queue issues: it takes a slot of the E half (02 R29). -/
def State.issueHint (s : State) (n k : Nat) (w : BitVec 32) : State :=
  let s := s.modCtx n k fun c =>
    { c with hinted := c.hinted + 1, stallE := .none, waitE := none,
             heldE := match (hintsOf [{ word := w }]).hstall with
               | some m => s.cyc + m
               | none => c.heldE }
  s.modCore n fun x => { x with lastE := k, usedE := some s.cyc }

/-- The E half's turn: the hints of the group at the head of its queue, each in a slot of its own, then its instruction. Under an
HSTALL the selector skips it until its clock (08 R184). -/
def State.turnE (s : State) (n k : Nat) : Fetched :=
  let c := s.ctx n k
  let g := headGroup c.eq
  match g.dropLast[c.hinted]? with
  | some h => .idle (s.issueHint n k h.word)
  | none =>
    if s.cyc < c.heldE && (hintsOf g.dropLast).hstall.isSome then .idle s
    else match g.getLast? with
      | some e => .run (wordInstr e.word) s
      | none => .idle s

/-- A half's turn in the machine. Contexts of a cluster or a device that sleeps do not issue (22 R399). -/
def State.fetched (s : State) : Fetched :=
  let n := s.turn.core
  let k := s.turn.ctx
  if s.idle ≠ .run || (s.cluster (n / 8)).idle ≠ .run then .idle s
  else match s.turn.half with
    | .A => s.turnA n k
    | .E => s.turnE n k

/-- A half has issued in this clock already (01 R17), or the device runs in minimal mode, without its cores (22 R397). -/
def State.spent (s : State) (t : Turn) : Bool :=
  s.keystone.minimal || (match t.half with
    | .A => (s.core t.core).usedA
    | .E => (s.core t.core).usedE) == some s.cyc

/-- The fault that a context has met: code and FAULTX. -/
def Ctx.failure (c : Ctx) : Option (Nat × Word) := match c.afault with
  | some f => some (f.code.toByte.toNat, f.x)
  | none => if c.status = .parked ∨ c.status = .frozen then some (c.faultc.toNat % 256, c.faultx) else none

/-- The table entries that the walk of an instruction has loaded which ran in `u` and failed, leaving `s` (03 R55). -/
def State.failedReads (u s : State) (n k : Nat) : List Nat :=
  if (u.ctx n k).failure.isSome then []
  else match (s.ctx n k).failure with
    | some f => if walkFault f.1 f.2 then u.failReads (failAccess (u.partAt n k) (n / 8) (some n) f.2) else []
    | none => []

/-- After the turn `t` ran instruction `i` in state `u` and left the state as `s`: the selector notes whether the half issued
(01 R17), and the result's latency runs (08 R166). The front end's routing of a word to the E queue is an issue of the A half in this
(log 91). -/
def State.afterTurn (s u : State) (t : Turn) (i : Instr) : State :=
  let sent := (u.ctx t.core t.ctx).pend.isNone && (s.ctx t.core t.ctx).pend.isSome
  let s := (s.noteIssued t.core t.ctx t.half sent).walkLoads (u.partAt t.core t.ctx) (u.failedReads s t.core t.ctx)
  match t.half with
  | .A => s.noteResult t.core t.ctx i
  | .E => s

/-- A step's outcome with its next state changed. -/
def nextWith (f : State → State) : Out → Out
  | .next s => .next (f s)
  | .fault e => .fault e
  | .refused r => .refused r

end Sys2Proof.Machine
end

