-- ==== Sys2Proof/Machine/Auto.lean ====
section
/-!
DEFINITION. What comes next when the agenda is empty (log 1): one clock of the machine, in a fixed order: the rows that
pending work could need, then one turn of each half of each core (01 R17), then the passing of the clock. A row that
finds nothing to do leaves the state as it is. Passing of time (08 R169, 14 R339, 23 R408, R411).
-/

namespace Sys2Proof.Machine

/-! ## Issue selection (01 R17) -/

/-- The A half of a context has something to do. -/
def Ctx.readyA (c : Ctx) : Bool := c.issues

/-- Round robin over `n` candidates from the one after the last chosen. -/
def orderFrom (last n : Nat) : List Nat := (rangeFrom 1 n).map fun k => (last + k) % n

/-- A core's turns of the A half in one clock: the selector's candidates in its order. One that issues is the last to do so in
the clock (`State.spent`); one that cannot proceed leaves the slot to the next. -/
def Core.turnsA (n : Nat) (c : Core) : List Act :=
  ((orderFrom c.lastA 4).filter fun k => (c.ctx k).readyA).map fun k => .issue { core := n, ctx := k, half := .A }

/-- A core's turns of the E half in one clock. While an instruction has beats to come no other context is a candidate (09 R194). -/
def Core.turnsE (n : Nat) (c : Core) : List Act :=
  let ready := (orderFrom c.lastE 4).filter fun k => (c.ctx k).readyE
  let busy := ready.filter fun k => (c.ctx k).eprog.beat != 0
  (if busy.isEmpty then ready else busy).map fun k => .issue { core := n, ctx := k, half := .E }

/-- The turns of the E halves of a cluster's cores, which contend for its special-function unit in the order of the core after
the one served last (01 R12). -/
def State.clusterTurnsE (s : State) (cl : Nat) : List Act :=
  ((orderFrom (s.cluster cl).sfuLast 8).map fun q => (s.core (8 * cl + q)).turnsE (8 * cl + q)).flatten

/-! ## Rows that pending work could need -/

/-- An act for a row. -/
def row (e : Instr) (unit : Nat := 0) (sub : Nat := 0) (val : Nat := 0) : Act := .event e { unit := unit, sub := sub, val := val }

/-- An act for a row of a context. -/
def ctxRow (e : Instr) (n k : Nat) : Act := .event e { core := n, ctx := k }

/-- Acts that come only if a test holds. -/
def when_ (b : Bool) (as : List Act) : List Act := if b then as else []

/-- Rows of a context. -/
def Ctx.rows (n k : Nat) (c : Ctx) : List Act :=
  when_ (c.q0.any (·.awaits) || c.pend.isSome) [ctxRow .loadDataReturn n k, ctxRow .atomicReply n k]
    ++ when_ (match c.pend with | some p => p.remote | none => false) [ctxRow .remoteReplyTimeout n k]
    ++ when_ c.podFence.isSome [ctxRow .fenceAckTimeout n k]
    ++ when_ (c.sealed && !c.outbox.isEmpty) [ctxRow .outboxEntryLeave n k]

/-- Rows of a core. -/
def State.coreRows (s : State) (n : Nat) (c : Core) : List Act :=
  ((rangeFrom 0 4).map fun k => (c.ctx k).rows n k).flatten
    ++ when_ (c.inboxes.any fun i => i.period != 0) [row .ratePeriodEnd n]
    ++ when_ (s.nextControl n).isSome [row .resume n, row .restart n, row .kill n, row .exit n]
    ++ when_ ((s.freeCtxOf n).isSome && !(s.readyOn n).isEmpty) [row .activationStart n]

/-- Rows for what reached a cluster's local port. -/
def arrivalRows (cl : Nat) : List Act :=
  [.messageArrival, .homeForward, .locationUpdate, .endLandingRegistration, .closeMarker, .receiveClose, .spawnArrival,
   .eventDelivery, .landingStoreArrival, .haloPushArrival, .rateUpdate, .rateDelta, .rateAck].map (fun e => row e cl)
    ++ [row .parkedDrain cl 1]

/-- Rows of a hod queue. -/
def hodRows (cl q : Nat) : List Act := [row .hodCommandComplete cl q]

/-- Rows of a matrix queue. -/
def matRows (cl q : Nat) : List Act :=
  [row .matrixJobPoison cl q, row .writebackPortOp cl q, row .rotationSlotAccept cl q 0, row .rotationSlotAccept cl q 1,
   row .matrixJobComplete cl q]

/-- The keys of a map whose entries meet a test. -/
def keysOf {α : Type} (m : Map α) (p : α → Bool) : List Nat := (m.filter fun e => p e.2).map Prod.fst

/-- Rows of the watches at a cluster's slices and scratchpads. -/
def State.watchRows (s : State) (cl : Nat) (c : Cluster) : List Act :=
  (keysOf c.slices fun l => !l.watches.isEmpty).map (fun q => row .waitaTimeout cl q)
    ++ ((rangeFrom 0 8).filter fun q => !(s.core (8 * cl + q)).watches.isEmpty).map (fun q => row .waitaTimeout cl (q + 4))

/-- Rows of a cluster. -/
def State.clusterRows (s : State) (cl : Nat) (c : Cluster) : List Act :=
  let hod := keysOf c.hod fun q => !q.isEmpty
  let mat := keysOf c.mat fun q => !q.isEmpty
  when_ (c.idle ≠ .run && (!c.arrived.isEmpty || !s.clusterIdle cl)) [row .idleWake cl]
    ++ when_ c.idleExit.isSome [row .idleExitDone cl]
    ++ when_ (!(c.router.inp.all (·.2.isEmpty)) || !(c.router.out.all (·.2.isEmpty))) ((rangeFrom 0 19).map (fun q => row .mortarHop cl q))
    ++ when_ (!c.arrived.isEmpty) (arrivalRows cl)
    ++ when_ (!hod.isEmpty) (row .hodLineTransfer cl :: (hod.map (hodRows cl)).flatten)
    ++ when_ (!mat.isEmpty || c.mstep.isSome) (row .matrixStepRetire cl :: row .matrixStepGrant cl :: (mat.map (matRows cl)).flatten)
    ++ (keysOf c.slices fun l => !l.windows.isEmpty).map (fun q => row .combiningWindowClose cl q)
    ++ s.watchRows cl c
    ++ when_ c.preempt.isSome ((rangeFrom 0 8).map (fun q => row .coreAcknowledge cl q) ++ [row .poolCopyDone cl])

/-- Rows of a channel at its home. -/
def Chan.rows (k : Nat) (c : Chan) : List Act :=
  when_ (!c.parked.isEmpty) (if c.role = 1 then [row .launch k, row .cancel k] else [row .parkedDrain k])
    ++ when_ c.draining [row .drainMarker 0 1 k]

/-- Rows of a partition. -/
def State.partRows (s : State) (p : Nat) (q : Partition) : List Act :=
  when_ (s.headNet p).isSome [row .networkDispatch p]
    ++ (keysOf q.windows (·.busy)).map (fun w => row .hostWindowGo p w 1)
    ++ (keysOf q.windows fun w => !w.waiting.isEmpty).map (fun w => row .hostEventEntry p w)

/-- Rows of the pod's ports. -/
def State.podRows (s : State) : List Act :=
  let ins := (keysOf s.ports fun p => !p.inp.isEmpty) ++ (if s.inject.isEmpty then [] else [12])
  (ins.map fun i => [.countMarkerArrival, .countMarkerAck, .remotePacketArrival, .packetAgeing].map fun e => row e i).flatten
    ++ (keysOf s.ports fun p => !p.inp.isEmpty).map (fun i => row .lintelIngressFlit i)
    ++ (keysOf s.ports fun p => !p.inp.isEmpty).map (fun i => row .timeMessage i)
    ++ (keysOf s.ports fun p => !p.inp.isEmpty).map (fun i => row .drainMarker i 2)
    ++ when_ (!ins.isEmpty) ((rangeFrom 0 12).map fun p => row .xanolForward p)
    ++ (keysOf s.ports fun p => !p.flits.isEmpty).map (fun i => row .ingressFlitExpiry i)
    ++ when_ (!s.stamped.isEmpty || !s.farWait.isEmpty) [row .orderedPacketRelease 0, row .orderedPacketRelease 1]
    ++ when_ (!s.marks.isEmpty) [row .countMarkerArrival 12, row .markerWaitExpiry]

/-- Rows of a Lintel array. -/
def Array12.rows (k : Nat) (a : Array12) : List Act :=
  when_ (!a.queue.isEmpty) [row .lintelGraphStart k]
    ++ ((rangeFrom 0 a.graphs.length).map fun g =>
      ((rangeFrom 0 32).map fun u => row .lintelUnitFlit k g u) ++ [row .lintelGraphEnd k g]).flatten

/-- Clusters in which a retired core still holds processes: they are pre-empted (15 R376). -/
def State.retiredClusters (s : State) : List Nat :=
  ((s.cores.filter fun e => e.2.retired && !(s.residents e.1).isEmpty).map fun e => e.1 / 8).eraseDups.filter fun cl =>
    (s.cluster cl).preempt.isNone

/-- Images and the cores that they are resumed on (15 R369). -/
def State.resumable (s : State) : List (Nat × Nat) :=
  s.images.filterMap fun e =>
    if e.1 < 16384 then none else (s.imagePlace e.2).map fun n => (e.1, n)

/-- Rows of the rest of the device. -/
def State.deviceRows (s : State) : List Act :=
  when_ (!s.barOps.isEmpty) [row .barrierOperation]
    ++ when_ (!s.hostReqs.isEmpty) [row .hostCxlAccess]
    ++ s.faultMsgs.map (fun m => row .messageArrival m.die 1 m.part)
    ++ (keysOf s.nets fun n => decide (n.state = .running) || decide (n.state = .cancelling)).map (fun k => row .networkDone 0 0 k)
    ++ (keysOf s.dies fun d => !d.done).map (fun d => row .tinvcDone d)
    ++ s.dieMsgs.map (fun m => row .interDieMessage m.dst)
    ++ s.draining.map (fun d => row .drainMarker 0 0 d.slot)
    ++ (s.retiredClusters.map fun cl => row .preempt cl)
    ++ s.resumable.map (fun r => row .imageResume r.2 0 r.1)
    ++ (s.procs.filter fun e => e.2.moving && decide (e.2.state = .resident)).map (fun e => row .processMove 0 0 e.1)
    ++ (keysOf s.engines fun e => !e.queue.isEmpty).map (fun u => row .systemCopyTransfer u)
    ++ (keysOf s.ckpts (·.active)).map (fun p => if ((find s.ckpts p {}).todo).isEmpty then row .cutComplete p else row .checkpointGranuleCopy p)
    ++ when_ (s.keystone.runs 0x02) [row .devSet] ++ when_ (s.keystone.runs 0x20) [row .imageLoad]
/-! ## A device that sleeps (22 R399, R400) -/

/-- A row that comes about while the device is in I3 or I4: those of the Keystone and the host link, the timeout of a WAITA,
and waking. -/
def rowAsleep : Instr → Bool
  | .idleWake | .idleExitDone | .waitaTimeout | .deviceReset | .deviceStart | .thermalTrip | .mailboxReset | .spdm | .imageLoad
  | .mctpI3cMessage | .hostEventEntry => true
  | _ => false

/-- A row that comes about in minimal mode, where only the Keystone and function 0 of the host link run (22 R397). -/
def rowMinimal (e : Instr) (t : Turn) : Bool := match e with
  | .deviceReset | .deviceStart | .thermalTrip | .mailboxReset | .spdm | .imageLoad | .mctpI3cMessage => true
  | .registerWrite => t.sub == 1 && t.val == 0
  | _ => false

/-- A row by which the host reaches the device. -/
def hostRow (e : Instr) (t : Turn) : Bool := match e with
  | .hostWindowGo => t.val != 1
  | .registerWrite => t.sub == 1
  | .hostBar2Access | .lattolWrite | .hostFunctionReset => true
  | _ => false

/-- The host's access wakes the device, and waits for the exit (R400). -/
def State.hostWakes (s : State) (a : Act) : State := { s.wakeDevice with hostWaits := s.hostWaits ++ [a] }

/-- One clock of a device that does not sleep. -/
def State.planAwake (s : State) : List Act :=
  s.deviceRows ++ s.podRows
    ++ (s.arrays.map fun e => e.2.rows e.1).flatten
    ++ (s.chans.map fun e => e.2.rows e.1).flatten
    ++ (s.parts.map fun e => s.partRows e.1 e.2).flatten
    ++ (s.clusters.map fun e => s.clusterRows e.1 e.2).flatten
    ++ (s.cores.map fun e => s.coreRows e.1 e.2).flatten
    ++ (s.cores.map fun e => e.2.turnsA e.1).flatten
    ++ ((s.cores.map fun e => e.1 / 8).eraseDups.map s.clusterTurnsE).flatten
    ++ (keysOf s.cores fun c => c.samplep != 0#32).map (fun n => row .pcSample n)

/-- The home of a channel can offer the first of what it has parked, and the core has room for it. -/
def State.drainable (s : State) (k : Nat) : Bool :=
  let c := s.chan k
  match c.parked with
  | [] => false
  | x :: _ => decide (c.rst = .here) && !c.offered
      && (decide (devOf c.rname ≠ s.devidx) || (s.takeParked c.rloc (s.devidx * 2 ^ 24 + k) x).isSome)

/-- An act of the plan that is more than a look at what may have become due, or at what waits for something else to change: a parked
or fault message without room, an event for a full ring, a network without a place or with processes left. -/
def State.works (s : State) : Act → Bool
  | .event e t => match e with
    | .idleExitDone | .waitaTimeout | .loadDataReturn | .atomicReply | .remoteReplyTimeout | .fenceAckTimeout | .pcSample
    | .ratePeriodEnd => false
    | .networkDone => s.netOver t.val
    | .drainMarker => !s.landingsOut && (t.sub != 0 || s.draining.any fun d => d.slot == t.val && d.out.isNone)
    | .messageArrival => t.sub != 1 || (s.deliverFault t.val t.unit).faultMsgs.length != s.faultMsgs.length
    | .parkedDrain => t.sub == 1 || s.drainable t.unit
    | .hostEventEntry => (s.window t.unit t.sub).ringRoom
    | .networkDispatch => (s.headNet t.unit).any fun n => !s.netsBlocked.contains n.1
    | _ => true
  | _ => true

/-- The device has work: a message or a packet on its way, an access, a command, something for a scheduler or a context to
do. -/
def State.stirs (s : State) : Bool := !s.quiet || !(s.usedClusters.all s.clusterIdle) || s.planAwake.any s.works

/-- DEVICE_IDLE_ENTRY (R399): the device enters I3 or I4 when every cluster is idle, no session is copying and no link carries
traffic. It stays awake as well while a message or other work is on its way, which would wake it at once (log 52). -/
def execDeviceIdleEntry (σ : State) : Out :=
  if σ.idle ≠ .run || σ.idleExit.isSome || σ.stirs then .next σ
  else match σ.deviceIdle with
  | some i => .next { σ with idle := i }
  | none => .next σ

/-- One clock of a device that sleeps: work wakes it, a WAITA may time out. -/
def State.planAsleep (s : State) : List Act :=
  when_ s.stirs [row .idleWake 0 1] ++ when_ s.idleExit.isSome [row .idleExitDone 0 1]
    ++ (s.clusters.map fun e => s.watchRows e.1 e.2).flatten

/-- One clock. -/
def State.plan (s : State) : List Act :=
  (if s.idle = .run then s.planAwake ++ s.usedClusters.map (fun cl => row .idleEntry cl) ++ [row .deviceIdleEntry] else s.planAsleep)
    ++ [.pass 1 ((s.cyc + 1) * 5 / 7 - s.cyc * 5 / 7)]

/-! ## Time passes -/

/-- A context's budget runs while its activation holds the context and is not parked; all ones never counts (14 R339). -/
def Ctx.tick (c : Ctx) (clocks : Nat) : Ctx :=
  if c.act.isSome && decide (c.status = .running) && c.actbud != BitVec.allOnes 64 then
    { c with actbud := wordOf (c.actbud.toNat - clocks) }
  else c

/-- A context of the partition holds an activation. -/
def State.partBusy (s : State) (p : Nat) : Bool :=
  s.cores.any fun e => e.2.ctxs.any fun x => match x.2.act with
    | some a => a.part == p
    | none => false

/-- A cluster of the partition is in I1 or I2. -/
def State.partIdles (s : State) (p : Nat) : Bool :=
  s.clusters.any fun e => (e.2.idle == .i1 || e.2.idle == .i2) && (s.part p).hasColumn (clusterX e.1)

/-- Events 1 and 20 of R408. -/
def State.countClocks (s : State) (clocks : Nat) : State :=
  (rangeFrom 0 8).foldl (fun s p =>
    let s := if s.partBusy p then s.count p 1 clocks else s
    if s.partIdles p then s.count p 20 clocks else s) s

/-- By how much TIME moves when `ns` nanoseconds pass: while it has to gain, by up to twice as much; while it has to fall back, by down
to half as much, so that it never stands still or steps back (23 R411, log 3). -/
def slewed (slew : Int) (ns : Nat) : Nat :=
  if 0 ≤ slew then ns + min ns slew.toNat else ns - min (ns / 2) (-slew).toNat

/-- Clocks and nanoseconds pass. The Keystone refuses a command that nobody serves and writes a waiting post. -/
def State.passTime (s : State) (clocks ns : Nat) : State :=
  let s := s.countClocks clocks
  let s := { s with
    cyc := s.cyc + clocks
    time := s.time + slewed s.slew ns
    slew := s.slew - ((slewed s.slew ns : Nat) : Int) + ((ns : Nat) : Int)
    cores := s.cores.map fun (e : Nat × Core) => (e.1, { e.2 with ctxs := e.2.ctxs.map fun (x : Nat × Ctx) => (x.1, x.2.tick clocks) }) }
  s.mailUnserved.mailPost

/-! ## Acts that are no row -/

/-- A line of memory suffers an uncorrectable error (03 R59). -/
def State.softError (s : State) (line : Nat) : State :=
  let l := line / 128 * 128
  if s.badLines.contains l then s else { s with badLines := s.badLines ++ [l] }

/-- The rows of the table without an encoding: what happens beside the instructions. -/
def isRow : Instr → Bool
  | .deviceReset | .deviceStart | .partSet | .devSet | .spdm | .imageLoad | .ckptStart | .mailboxReset
  | .hostWindowGo | .hostEventEntry | .hostBar2Access | .hostCxlAccess | .tinvcGo | .tinvcDone | .scfgWrite
  | .fillmaskWrite | .pctlWrite | .portstatClr | .portstatRetrain | .ringConfigWrite | .pcntWrite
  | .lattolWrite | .registerWrite | .hang | .waitaTimeout | .combiningWindowClose | .markerWaitExpiry
  | .fenceAckTimeout | .remoteReplyTimeout | .ingressFlitExpiry | .packetAgeing | .ratePeriodEnd | .rateUpdate
  | .rateDelta | .rateAck | .pcSample | .idleEntry | .deviceIdleEntry | .idleWake | .idleExitDone
  | .timeMessage | .loadDataReturn | .sliceAccess | .sliceFillData | .evictionReport | .remoteInvalidation
  | .interDieMessage | .reductionMerge | .atomicAtHome | .atomicReply | .scratchpadAtomic | .pageWalk
  | .mortarHop | .linkReplay | .linkTrainingDone | .xanolForward | .remotePacketArrival
  | .orderedPacketRelease | .countMarkerArrival | .countMarkerAck | .drainMarker | .lintelIngressFlit
  | .lintelGraphStart | .lintelUnitFlit | .lintelGraphEnd | .outboxEntryLeave | .hodLineTransfer
  | .hodCommandComplete | .systemCopyTransfer | .barrierOperation | .haloPushArrival | .landingStoreArrival
  | .matrixStepGrant | .matrixStepRetire | .matrixJobComplete | .matrixJobPoison | .rotationSlotAccept
  | .writebackPortOp | .activationStart | .messageArrival | .homeForward | .locationUpdate
  | .endLandingRegistration | .parkedDrain | .closeMarker | .receiveClose | .spawnArrival | .eventDelivery
  | .launch | .cancel | .networkDispatch | .networkDone | .preempt | .coreAcknowledge | .poolCopyDone
  | .imageResume | .processMove | .resume | .restart | .kill | .exit | .checkpointGranuleCopy | .ckptStageCopy
  | .cutComplete | .thermalTrip | .hostFunctionReset | .mctpI3cMessage => true
  | _ => false

end Sys2Proof.Machine
end

