-- ==== Sys2Proof/Machine/Reduce.lean ====
section
/-!
DEFINITION. The VRED group (09 R206-R211): reductions, scans, dot products, top-k and permutes.
-/

namespace Sys2Proof.Machine

/-! ## Axes -/

/-- The product of the extents below an axis. -/
def lowCount (dims : List Nat) (axis : Nat) : Nat := (dims.take axis).foldl (· * ·) 1

/-- The element at index `i` along an axis, for output `k`: the k-th combination of the other indices (R206). -/
def axisElem (dims : List Nat) (axis k i : Nat) : Nat :=
  let low := lowCount dims axis
  k % low + low * (i + dims.getD axis 1 * (k / low))

/-- The output that element `j` belongs to. -/
def axisOut (dims : List Nat) (axis j : Nat) : Nat :=
  let low := lowCount dims axis
  j % low + low * (j / (low * dims.getD axis 1))

/-- An axis at or beyond the rank raises ILLEGAL. -/
def axisRule (o : Opnd) (axis : Nat) : M Unit := require (decide (axis < zRank o.view))

/-! ## The reductions (R206, R207) -/

/-- The identity of max (`greater`) or min. -/
def identityOf (ty : Nat) (greater : Bool) : Nat :=
  if isIntType ty then
    let r := intRange (isSigned ty) (typeBits ty)
    wrapTo (typeBits ty) (if greater then r.1 else r.2)
  else if ty = 5 then (if greater then 0x3F else 0x1F)
  else if ty = 3 then (if greater then 0xFE else 0x7E)
  else
    let m := fracBits ty
    (if greater then 2 ^ (m + expBits ty) else 0) + (2 ^ (m + expBits ty) - 2 ^ m)

/-- A list in parts of 16 indices, those governed off left out; an empty part adds nothing. -/
def groups16 (xs : List (Option Val)) : List (List Val) := (chunks 16 (xs.length + 1) xs).map fun g => g.filterMap id

/-- The FP32 sum of groups: each group exactly, each addition to the accumulator rounded. -/
def sumGroups (m : Nat) (gs : List (List Val)) : Nat × BitVec 6 :=
  gs.foldl (fun (r : Nat × BitVec 6) g =>
    match g with
    | [] => r
    | v :: vs =>
      let s := vs.foldl (addVal m) v
      let x := encodeFloat 0 m false (addVal m (decodeVal 0 r.1) s)
      (x.1, r.2 ||| x.2)) (0, 0#6)

/-- An FP32 accumulator in the type of the result (07 R156). -/
def fromAcc (ty m : Nat) (r : Nat × BitVec 6) : Nat × BitVec 6 :=
  let x := encodeFloat ty m false (decodeVal 0 r.1)
  (x.1, r.2 ||| x.2)

/-- One more element of a max or min; none so far is `none`. -/
def stepPick (ty : Nat) (greater : Bool) (acc : Option (Nat × BitVec 6)) (x : Nat) : Option (Nat × BitVec 6) :=
  match acc with
  | none =>
    (match nanRule ty [decodeVal ty x] with
      | some r => some r
      | none => some (x, 0#6))
  | some a =>
    let r := pick ty greater a.1 x
    some (r.1, a.2 ||| r.2)

/-- VRED of the elements along an axis (`none` is governed off): op 0 sum, 1 max, 2 min. -/
def reduce (op ty m : Nat) (xs : List (Option Nat)) : Nat × BitVec 6 :=
  if op = 0 then
    if isIntType ty then
      (wrapTo (typeBits ty) ((xs.filterMap id).foldl (fun (t : Int) x => t + intVal ty x) 0), 0#6)
    else fromAcc ty m (sumGroups m (groups16 (xs.map fun x => x.map (decodeVal ty))))
  else
    let greater := decide (op = 1)
    match (xs.filterMap id).foldl (stepPick ty greater) none with
    | some r => r
    | none => (identityOf ty greater, 0#6)

/-- VDOT of pairs along an axis (R209). -/
def dot (ty m : Nat) (xs : List (Option (Nat × Nat))) : Nat × BitVec 6 :=
  if isIntType ty then
    (wrapTo (typeBits ty) ((xs.filterMap id).foldl (fun (t : Int) p => t + intVal ty p.1 * intVal ty p.2) 0), 0#6)
  else fromAcc ty m (sumGroups m (groups16 (xs.map fun p => p.map fun p => mulVal (decodeVal ty p.1) (decodeVal ty p.2))))

/-- Elements read, those governed off as `none`. -/
def ruled (gov : Word) (lanes : Nat) (acc : List Nat) (k : Nat) : Option Nat :=
  if laneOn gov lanes k then some (acc.getD k 0) else none

/-- The writes of a destination: values of lanes that are on, others kept or zero. -/
def writesOf (o : Opnd) (gov : Word) (pz : Bool) (vals : List Nat) : List (Option Nat) :=
  (vals.zip (rangeFrom 0 vals.length)).map fun e => laneValue gov (laneCount o.ty) pz e.2 e.1

/-- The flags of results in lanes that are on. -/
def flagsOf (o : Opnd) (gov : Word) (rs : List (Nat × BitVec 6)) : BitVec 6 :=
  (rs.zip (rangeFrom 0 rs.length)).foldl (fun f e => if laneOn gov (laneCount o.ty) e.2 then f ||| e.1.2 else f) 0#6

/-- VRED and VDOT: every output from the elements along the axis. -/
def reduceBody (i : Instr) (d : BitVec 5) (srcs : List (BitVec 5)) (t : BitVec 4) (axis : Nat)
    (f : Nat → List (Option Nat) → Nat × BitVec 6) (h : Hints) : M Disp := do
  let ty := t.toNat
  rndRule i h ty
  let r ← operandsOf d srcs ty
  let a := r.2.headD { num := 0, kind := .iota, ty := ty }
  axisRule a axis
  let dims := zDims a.view
  let n := zCount a.view
  let outs := n / dims.getD axis 1
  require (r.2.all fun o => o.count == some n)
  require (r.1.count.isNone || r.1.count == some outs)
  let outs := match r.1.kind with
    | .scalar => 1
    | _ => outs
  let m ← roundOf h
  let lanes := laneCount ty
  runWhole [{ srcs := numberFrom 0 r.2, n := n, lanes := lanes }] [(r.1, outs)] h fun gov acc =>
    let rs := (rangeFrom 0 outs).map fun k =>
      f m ((rangeFrom 0 (dims.getD axis 1)).map fun j => ruled gov lanes acc (axisElem dims axis k j))
    ([(r.1, writesOf r.1 gov h.hmod.pz (rs.map Prod.fst))], flagsOf r.1 gov rs)

/-- VRED -/
def execVred (d a : BitVec 5) (t : BitVec 4) (o x : BitVec 2) (σ : State) : Out :=
  eHalf (.vred d a t o x) (reduceBody (.vred d a t o x) d [a] t x.toNat fun m xs =>
    reduce o.toNat t.toNat m (xs.map fun c => c.map fun c => codeAt c 0)) σ

/-- VDOT -/
def execVdot (d a b : BitVec 5) (t : BitVec 4) (x : BitVec 2) (σ : State) : Out :=
  eHalf (.vdot d a b t x) (reduceBody (.vdot d a b t x) d [a, b] t x.toNat fun m xs =>
    dot t.toNat m (xs.map fun c => c.map fun c => (codeAt c 0, codeAt c 1))) σ

/-! ## VSCAN (R208) -/

/-- One step of a scan: the running value of an output (0 is none, else one more than its code) and an element. -/
def scanStep (op ty m acc x : Nat) : Nat × BitVec 6 :=
  if op = 0 then
    if isIntType ty then
      (wrapTo (typeBits ty) (intVal ty (acc - 1) + intVal ty x) + 1, 0#6)
    else
      let r := encodeFloat 0 m false (addVal m (decodeVal 0 (acc - 1)) (decodeVal ty x))
      (r.1 + 1, r.2)
  else match stepPick ty (decide (op = 1)) (if acc = 0 then none else some (acc - 1, 0#6)) x with
    | some r => (r.1 + 1, r.2)
    | none => (acc, 0#6)

/-- The value a scan writes for a running value. -/
def scanValue (op ty m acc : Nat) : Nat × BitVec 6 :=
  if op = 0 ∧ !isIntType ty then encodeFloat ty m false (decodeVal 0 (acc - 1)) else (acc - 1, 0#6)

/-- The elements of a beat through a scan: the running values, the values written, the flags. -/
def scanBeat (op ty m axis : Nat) (dims : List Nat) (gov : Word) (lanes : Nat) (acc : List Nat) :
    List (Nat × Nat) → List Nat × List Nat × BitVec 6
  | [] => (acc, [], 0#6)
  | (k, x) :: es =>
    if laneOn gov lanes k then
      let j := axisOut dims axis k
      let s := scanStep op ty m (acc.getD j 0) x
      let v := scanValue op ty m s.1
      let r := scanBeat op ty m axis dims gov lanes (acc.set j s.1) es
      (r.1, v.1 :: r.2.1, s.2 ||| v.2 ||| r.2.2)
    else
      let r := scanBeat op ty m axis dims gov lanes acc es
      (r.1, 0 :: r.2.1, r.2.2)

/-- VSCAN: beats in order, each reading before it writes (05 R97). -/
def execVscan (d a : BitVec 5) (t : BitVec 4) (o x : BitVec 2) (σ : State) : Out :=
  eHalf (.vscan d a t o x) (fun h => do
    let ty := t.toNat
    let op := o.toNat
    rndRule (.vscan d a t o x) h ty
    let r ← operandsOf d [a] ty
    let y := r.2.headD { num := 0, kind := .iota, ty := ty }
    axisRule y x.toNat
    let dims := zDims y.view
    let p ← planOf (some r.1) r.2 (laneCount ty)
    let m ← roundOf h
    let c ← me
    beginBeats p h
    if c.eprog.beat = 0 ∧ c.eprog.acc.isEmpty then
      modMe fun c => { c with eprog := { c.eprog with acc := List.replicate (p.n / dims.getD x.toNat 1) (if op = 0 then 1 else 0) } }
    else pure ()
    runBeats p.beats p.ready (fun b => do
      let w := p.bounds b
      takeBeat p.srcs w.1 w.2
      let c ← me
      let gov := c.eprog.gov
      let codes ← readBeat p.srcs gov p.lanes w.1 w.2
      let res := scanBeat op ty m x.toNat dims gov p.lanes c.eprog.acc
        ((rangeFrom w.1 (w.2 - w.1)).zip (codes.map fun l => src l 0))
      modMe fun c => { c with eprog := { c.eprog with acc := res.1 } }
      addFlags res.2.2
      writeElems r.1 w.1 ((res.2.1.zip (rangeFrom w.1 res.2.1.length)).map fun e =>
        laneValue gov p.lanes h.hmod.pz e.2 e.1)) (p.beats + 1)) σ

/-! ## VTOPK (R210) -/

/-- The extents padded to four. -/
def dims4 (o : Opnd) : List Nat := (rangeFrom 0 4).map fun k => (zDims o.view).getD k 1

/-- a stands before b: larger first or smaller first; −0 below +0, NaN above every number, equal values lower index first. -/
def topBefore (ty : Nat) (smallest : Bool) (a b : Nat × Nat) : Bool :=
  let x := decodeVal ty a.2
  let y := decodeVal ty b.2
  let lt := if y.isNan then !x.isNan else !x.isNan && below x y
  let gt := if x.isNan then !y.isNan else !y.isNan && below y x
  if smallest then lt || (!gt && decide (a.1 < b.1)) else gt || (!lt && decide (a.1 < b.1))

/-- Inserts into an ordered list. -/
def insertTop (ty : Nat) (smallest : Bool) (a : Nat × Nat) : List (Nat × Nat) → List (Nat × Nat)
  | [] => [a]
  | b :: bs => if topBefore ty smallest a b then a :: b :: bs else b :: insertTop ty smallest a bs

/-- Position and code of the elements along axis 0 for output column `k`, in order. -/
def topList (ty : Nat) (smallest : Bool) (xs : List (Nat × Nat)) : List (Nat × Nat) :=
  xs.foldr (insertTop ty smallest) []

/-- A value that no rule gives: output `k` of an instruction that takes free values from counter `base` on (log 9). -/
def freeCode (base k w : Nat) : Nat := (Config.freeWord (base + k)).toNat % 2 ^ w

/-- VTOPK: values, and positions when `k` is set; an output without a candidate is a free value (log 24). -/
def execVtopk (d a b : BitVec 5) (t : BitVec 4) (k o : BitVec 1) (σ : State) : Out :=
  eHalf (.vtopk d a b t k o) (fun h => do
    let ty := t.toNat
    rndRule (.vtopk d a b t k o) h ty
    let w ← viewOpnd d.toNat true
    let x ← viewOpnd a.toNat false
    let pos ← if k = 1#1 then do
        let z ← viewOpnd b.toNat true
        pure (some z)
      else pure none
    let w ← w.typed ty
    let x ← x.typed ty
    let pos ← match pos with
      | some z => do
        let z ← z.typed 13
        pure (some z)
      | none => pure none
    let n := zDim w.view 0
    let all := zDim x.view 0
    require ((dims4 w).drop 1 == (dims4 x).drop 1 && decide (1 ≤ n ∧ n ≤ all)
      && (match pos with
        | some z => dims4 z == dims4 w
        | none => true))
    let s ← gets id
    let base := s.freeCount
    let outs := zCount w.view
    let lanes := laneCount ty
    let d ← runWhole [{ srcs := numberFrom 0 [x], n := zCount x.view, lanes := lanes }]
      ((w, outs) :: (pos.toList.map fun z => (z, outs))) h fun gov acc =>
        let cols := (rangeFrom 0 (outs / n)).map fun c =>
          topList ty (o == 1#1) ((rangeFrom 0 all).filterMap fun j =>
            (ruled gov lanes acc (c * all + j)).map fun v => (j, codeAt v 0))
        let outAt := fun (q : Nat) => (cols.getD (q / n) [])[q % n]?
        let vals := (rangeFrom 0 outs).map fun q => match outAt q with
          | some e => e.2
          | none => freeCode base q (typeBits ty)
        let idx := (rangeFrom 0 outs).map fun q => match outAt q with
          | some e => e.1
          | none => freeCode base (outs + q) 32
        ((w, writesOf w gov h.hmod.pz vals) :: (pos.toList.map fun z => (z, writesOf z gov h.hmod.pz idx)), 0#6)
    if d = .retire then mods fun s => { s with freeCount := s.freeCount + 2 * outs } else pure ()
    pure d) σ

/-! ## VPERM (R211) -/

/-- VPERM: zd(i0, …) is za(j, …) with j from zb; an element that is governed off in za gives a free value (log 24). -/
def execVperm (d a b : BitVec 5) (t : BitVec 4) (w n : BitVec 1) (σ : State) : Out :=
  eHalf (.vperm d a b t w n) (fun h => do
    let ty := t.toNat
    rndRule (.vperm d a b t w n) h ty
    let o ← viewOpnd d.toNat true
    let x ← viewOpnd a.toNat false
    let z ← viewOpnd b.toNat false
    let o ← o.typed ty
    let x ← x.typed ty
    let z ← z.typed (if n = 1#1 then 13 else 11)
    require (dims4 z == dims4 o && (dims4 o).drop 1 == (dims4 x).drop 1)
    let s ← gets id
    let base := s.freeCount
    let nx := zCount x.view
    let outs := zCount o.view
    let d0 := zDim x.view 0
    let e0 := zDim o.view 0
    let lanes := laneCount ty
    let srcs := numberFrom 0 [x, z]
    let r ← runWhole [{ srcs := srcs.take 1, n := nx, lanes := lanes }, { srcs := srcs.drop 1, n := outs, lanes := lanes }]
      [(o, outs)] h fun gov acc =>
        let vals := (rangeFrom 0 outs).map fun q =>
          let j := codeAt (acc.getD (nx + q) 0) 0
          if d0 ≤ j ∧ w = 0#1 then 0
          else match ruled gov lanes acc (q / e0 * d0 + j % d0) with
            | some v => codeAt v 0
            | none => freeCode base q (typeBits ty)
        ([(o, writesOf o gov h.hmod.pz vals)], 0#6)
    if r = .retire then mods fun s => { s with freeCount := s.freeCount + outs } else pure ()
    pure r) σ

end Sys2Proof.Machine
end

