-- ==== Sys2Proof/Machine/Sfu.lean ====
section
/-!
DEFINITION. The special functions (09 R212, 07 R165). A function value is computed in fixed point to 800 binary places, with
a last sticky bit that marks a value that is not exact; the cases in which a function value of a dyadic argument is dyadic
are found exactly. BF16 and FP16 results are that value rounded once to nearest-even; an FP32 result is one of the two
values that bracket it, and which one the manual leaves open (log 9).
-/

namespace Sys2Proof.Machine

/-! ## Fixed point -/

/-- 1 in fixed point: a number v stands for v / 2^800. -/
def fixOne : Int := 2 ^ 800

/-- The product of two fixed-point numbers. -/
def fixMul (a b : Int) : Int := (a * b).fdiv fixOne

/-- The quotient of two fixed-point numbers. -/
def fixDiv (a b : Int) : Int := (a * fixOne).fdiv b

/-- n·2^e in fixed point. -/
def toFix (n : Nat) (e : Int) : Int := ((n * 2 ^ (e + 800).toNat / 2 ^ (-(e + 800)).toNat : Nat) : Int)

/-- Σ t·r^j·k!/(k+j)! from index k: the tail of the exponential series that starts with term t. -/
def expTail (r : Int) : Nat → Nat → Int → Int
  | 0, _, _ => 0
  | fuel + 1, k, t => if t = 0 then 0 else t + expTail r fuel (k + 1) ((fixMul t r).fdiv ((k + 1 : Nat) : Int))

/-- Σ 1/((2k+1)·q^(2k+1)), or the alternating sum: atanh 1/q and atan 1/q. -/
def atanTail (q : Int) (alternate : Bool) : Nat → Nat → Int → Int
  | 0, _, _ => 0
  | fuel + 1, k, t =>
    if t = 0 then 0
    else
      let x := t.fdiv ((2 * k + 1 : Nat) : Int)
      (if alternate && k % 2 = 1 then -x else x) + atanTail q alternate fuel (k + 1) (t.fdiv (q * q))

/-- ln 2 = 2·atanh 1/3 -/
def fixLn2 : Int := 2 * atanTail 3 false 400 0 (fixOne.fdiv 3)

/-- π = 16·atan 1/5 − 4·atan 1/239 -/
def fixPi : Int := 16 * atanTail 5 true 400 0 (fixOne.fdiv 5) - 4 * atanTail 239 true 400 0 (fixOne.fdiv 239)

/-- e^x for |x| below 2^10 as (m, k): m·2^k in fixed point. -/
def expFix (x : Int) : Int × Int :=
  let k := x.fdiv fixLn2
  (expTail (x - k * fixLn2) 400 0 fixOne, k)

/-- A fixed-point number times 2^k. -/
def fixShift (x k : Int) : Int := if 0 ≤ k then x * 2 ^ k.toNat else x.fdiv (2 ^ (-k).toNat)

/-- ln m for m in [1, 2): 2·atanh((m − 1)/(m + 1)). -/
def logTail (u u2 : Int) : Nat → Nat → Int
  | 0, _ => 0
  | fuel + 1, k => if u = 0 then 0 else u.fdiv ((2 * k + 1 : Nat) : Int) + logTail (fixMul u u2) u2 fuel (k + 1)

/-- ln m for m in [1, 2). -/
def lnFix (m : Int) : Int :=
  let u := fixDiv (m - fixOne) (m + fixOne)
  2 * logTail u (fixMul u u) 400 0

/-- Σ of the sine (from term x, k = 1) or cosine (from 1, k = 0) series: the next term is −t·x²/((k+1)(k+2)). -/
def trigTail (x2 : Int) : Nat → Nat → Int → Int
  | 0, _, _ => 0
  | fuel + 1, k, t =>
    if t = 0 then 0 else t + trigTail x2 fuel (k + 2) ((-(fixMul t x2)).fdiv (((k + 1) * (k + 2) : Nat) : Int))

/-- Σ c^j·x^(2j+1)/(2j+1)!! from the term t. -/
def erfTail (x2 c : Int) : Nat → Nat → Int → Int
  | 0, _, _ => 0
  | fuel + 1, k, t => if t = 0 then 0 else t + erfTail x2 c fuel (k + 1) ((c * fixMul t x2).fdiv ((2 * k + 3 : Nat) : Int))

/-- A step of the integer square root from above. -/
def isqrtGo (n : Nat) : Nat → Nat → Nat
  | 0, x => x
  | fuel + 1, x =>
    let y := (x + n / x) / 2
    if y < x then isqrtGo n fuel y else x

/-- The integer square root. -/
def isqrt (n : Nat) : Nat := if n = 0 then 0 else isqrtGo n (Nat.log2 n + 8) (2 ^ (Nat.log2 n / 2 + 1))

/-- The square root of a fixed-point number that is not negative. -/
def fixSqrt (x : Int) : Int := ((isqrt (x.toNat * 2 ^ 800) : Nat) : Int)

/-! ## Function values -/

/-- A value known to 800 places that is not exact: its last bit is sticky. -/
def sticky (x : Int) : Val := .fin (x < 0) (2 * x.natAbs + 1) (-801)

/-- A value that is not exact times 2^k. -/
def stickyAt (x k : Int) : Val := scaleVal (sticky x) k

/-- A positive value below every subnormal, that is not 0. -/
def tinyVal (neg : Bool) : Val := .fin neg 1 (-2000)

/-- A value just below 1 in magnitude. -/
def nearOne (neg : Bool) : Val := .fin neg (2 ^ 400 - 1) (-400)

/-- A value above every finite one. -/
def hugeVal : Val := .fin false 1 2000

/-- 2^(x) for x = ±n·2^e, not 0. -/
def exp2Val (neg : Bool) (n : Nat) (e : Int) : Val :=
  if !ltDyadic n e 1 10 then (if neg then tinyVal false else hugeVal)
  else
    let x := if neg then -(toFix n e) else toFix n e
    let k := x.fdiv fixOne
    let f := x - k * fixOne
    if f = 0 then .fin false 1 k
    else
      let r := expFix (fixMul f fixLn2)
      stickyAt r.1 (r.2 + k)

/-- e^x -/
def expVal (neg : Bool) (n : Nat) (e : Int) : Val :=
  if !ltDyadic n e 1 9 then (if neg then tinyVal false else hugeVal)
  else
    let r := expFix (if neg then -(toFix n e) else toFix n e)
    stickyAt r.1 r.2

/-- m·2^k with m in [1, 2), of n·2^e. -/
def normOf (n : Nat) (e : Int) : Int × Int :=
  let t := topBit n e
  (toFix n (e - t), t)

/-- log2 x (`two`) or ln x of x = n·2^e, not 0: exact for a power of two, and for 1. -/
def logVal (two : Bool) (n : Nat) (e : Int) : Val :=
  let r := normOf n e
  if r.1 = fixOne ∧ (two ∨ r.2 = 0) then ofInt r.2
  else if two then sticky (r.2 * fixOne + fixDiv (lnFix r.1) fixLn2)
  else sticky (r.2 * fixLn2 + lnFix r.1)

/-- n·2^e with n odd. -/
def oddPart (n : Nat) (e : Int) : Nat → Nat × Int
  | 0 => (n, e)
  | fuel + 1 => if n % 2 = 0 then oddPart (n / 2) (e + 1) fuel else (n, e)

/-- √x and 1/√x of x = n·2^e, not 0. -/
def sqrtVal (recip : Bool) (n : Nat) (e : Int) : Val :=
  let o := oddPart n e 400
  let m := if o.2.emod 2 = 0 then o.1 else 2 * o.1
  let h := (if o.2.emod 2 = 0 then o.2 else o.2 - 1).ediv 2
  if recip then
    if m = 1 then .fin false 1 (-h) else .fin false (2 * isqrt (2 ^ 800 / m) + 1) (-h - 401)
  else
    let r := isqrt m
    if r * r = m then .fin false r h else .fin false (2 * isqrt (m * 2 ^ 800) + 1) (h - 401)

/-- sin x (`cosine` false) and cos x of x = ±n·2^e, not 0: x is reduced exactly by multiples of π/2. -/
def trigVal (cosine neg : Bool) (n : Nat) (e : Int) : Val :=
  let x := toFix n e
  let half := fixPi.fdiv 2
  let q := x.fdiv half
  -- 2x − qπ keeps the reduction's last bit
  let r := (2 * x - q * fixPi).fdiv 2
  let r2 := fixMul r r
  let quad := (q.toNat + (if cosine then 1 else 0)) % 4
  let v := if quad % 2 = 0 then trigTail r2 400 1 r else trigTail r2 400 0 fixOne
  let s := sticky (if 2 ≤ quad then -v else v)
  if neg && !cosine then negVal s else s

/-- tanh x -/
def tanhVal (neg : Bool) (n : Nat) (e : Int) : Val :=
  if !ltDyadic n e 1 8 then nearOne neg
  else
    let r := expFix (2 * toFix n e)
    let y := fixShift r.1 r.2
    let v := sticky (fixOne - fixDiv (2 * fixOne) (y + fixOne))
    if neg then negVal v else v

/-- 1/(1 + e^−x) in fixed point, for |x| below 2^9. -/
def sigmFix (neg : Bool) (x : Int) : Int :=
  let r := expFix (if neg then -x else x)
  let y := fixShift r.1 r.2
  fixDiv y (y + fixOne)

/-- The logistic function of x, not 0. -/
def sigmVal (neg : Bool) (n : Nat) (e : Int) : Val :=
  if !ltDyadic n e 1 8 then (if neg then tinyVal false else nearOne false)
  else sticky (sigmFix neg (toFix n e))

/-- x·(a value in (0, 1) just below 1). -/
def justBelow (n : Nat) (e : Int) : Val := .fin false (n * 2 ^ 400 - 1) (e - 400)

/-- x/(1 + e^−x) -/
def siluVal (neg : Bool) (n : Nat) (e : Int) : Val :=
  if !ltDyadic n e 1 8 then (if neg then tinyVal true else justBelow n e)
  else
    let v := sticky (fixMul (toFix n e) (sigmFix neg (toFix n e)))
    if neg then negVal v else v

/-- e^−y for a fixed-point y in [0, 2^9). -/
def expNeg (y : Int) : Int :=
  let r := expFix (-y)
  fixShift r.1 r.2

/-- x·(1 + erf(x/√2))/2: erf(x/√2)/2 = e^(−x²/2)·Σ x^(2j+1)/(2j+1)!! / √(2π). -/
def geluVal (neg : Bool) (n : Nat) (e : Int) : Val :=
  if !ltDyadic n e 20 0 then (if neg then tinyVal true else justBelow n e)
  else
    let x := toFix n e
    let x2 := fixMul x x
    let p := fixDiv (fixMul (expNeg (x2.fdiv 2)) (erfTail x2 1 2000 0 x)) (fixSqrt (2 * fixPi))
    let half := fixOne.fdiv 2
    let v := sticky (fixMul x (if neg then half - p else half + p))
    if neg then negVal v else v

/-- erf x = 2·e^(−x²)·Σ 2^j·x^(2j+1)/(2j+1)!! / √π -/
def erfVal (neg : Bool) (n : Nat) (e : Int) : Val :=
  if !ltDyadic n e 12 0 then nearOne neg
  else
    let x := toFix n e
    let x2 := fixMul x x
    let v := sticky (fixDiv (2 * fixMul (expNeg x2) (erfTail x2 2 2000 0 x)) (fixSqrt fixPi))
    if neg then negVal v else v

/-- 1 -/
def oneVal : Val := .fin false 1 0

/-- The special inputs of R212, and zeros: value and flags. -/
def sfuSpecial (fn : Nat) (v : Val) : Option (Val × BitVec 6) :=
  let nanV : Val × BitVec 6 := (.nan true, 0#6)
  match v with
  | .nan _ => none
  | .inf neg =>
    (match fn with
      | 0 | 1 => some (if neg then .fin false 0 0 else .inf false, 0#6)
      | 2 | 3 | 6 => some (if neg then nanV else (.inf false, 0#6))
      | 4 => some (.fin neg 0 0, 0#6)
      | 5 => some (if neg then nanV else (.fin false 0 0, 0#6))
      | 7 | 8 => some nanV
      | 9 | 13 => some (.fin neg 1 0, 0#6)
      | 10 => some (if neg then .fin false 0 0 else oneVal, 0#6)
      | _ => some (if neg then .fin true 0 0 else .inf false, 0#6))
  | .fin neg n _ =>
    if n = 0 then
      (match fn with
        | 0 | 1 | 8 => some (oneVal, 0#6)
        | 2 | 3 => some (.inf true, fDivZero)
        | 4 | 5 => some (.inf neg, fDivZero)
        | 10 => some (.fin false 1 (-1), 0#6)
        | _ => some (v, 0#6))
    else if neg then
      (match fn with
        | 2 | 3 | 5 | 6 => some nanV
        | _ => none)
    else none

/-- The function value of a finite argument that is not 0. -/
def sfuValue (fn : Nat) (neg : Bool) (n : Nat) (e : Int) : Val :=
  match fn with
  | 0 => exp2Val neg n e
  | 1 => expVal neg n e
  | 2 => logVal true n e
  | 3 => logVal false n e
  | 4 => divVal oneVal (.fin neg n e)
  | 5 => sqrtVal true n e
  | 6 => sqrtVal false n e
  | 7 => trigVal false neg n e
  | 8 => trigVal true neg n e
  | 9 => tanhVal neg n e
  | 10 => sigmVal neg n e
  | 11 => geluVal neg n e
  | 12 => siluVal neg n e
  | _ => erfVal neg n e

/-- A function value in the argument's type (R165, R212): a magnitude above the largest finite value gives an infinity. -/
def sfuRound (fn ty x : Nat) (v : Val) : Nat × BitVec 6 :=
  match v with
  | .fin neg n e =>
    let m := fracBits ty
    if ltDyadic (2 ^ (m + 1) - 1) ((biasOf ty : Int) - m) n e then
      ((encodeFloat ty 0 false (.inf neg)).1, fOverflow ||| fInexact)
    else encodeIeee ty (if ty = 0 then (if Config.sfuUpper fn x then 2 else 3) else 0) false neg n e
  | v => encodeFloat ty 0 false v

/-- A special function of a code of type `ty`. -/
def sfu (fn ty x : Nat) : Nat × BitVec 6 :=
  let v := decodeVal ty x
  match nanRule ty [v] with
  | some r => r
  | none =>
    match sfuSpecial fn v with
    | some (w, f) =>
      let r := encodeFloat ty 0 false w
      (r.1, r.2 ||| f)
    | none =>
      (match v with
        | .fin neg n e => sfuRound fn ty x (sfuValue fn neg n e)
        | w => encodeFloat ty 0 false w)

/-- The unit of a core's cluster has taken a request, one beat, in this clock (01 R12, R194). -/
def State.sfuServed (s : State) (core : Nat) : State :=
  s.modCluster (core / 8) fun c => { c with sfuLast := core % 8, sfuFree := s.cyc + 1 }

/-- A beat of a VSFU instruction is one request to the cluster's unit, which takes one in a clock: the core waits while the unit
serves another, and a beat with others behind it leaves the instruction in hand for the next clock (01 R12, R194). -/
def sfuBeat (p : Plan) (h : Hints) (f : Nat → List Nat → Nat × BitVec 6) : M Disp := do
  beginBeats p h
  let s ← gets id
  let n := s.turn.core
  let b := s.actor.eprog.beat
  match (p.ready s b).and fun _ => if s.cyc < (s.cluster (n / 8)).sfuFree then .stall .sfuBusy none else .go with
  | .stall why q => pure (.hold why q)
  | .fault code x => pure (.broken code x)
  | .go => do
    eachBeat p h f b
    mods fun s => s.sfuServed n
    modMe fun c => { c with eprog := { c.eprog with beat := b + 1 }, stallE := .none, waitE := none }
    pure (if p.beats ≤ b + 1 then .retire else .left)

/-- A VSFU instruction. -/
def sfuBody (fn : Nat) (i : Instr) (d a : BitVec 5) (t : BitVec 4) (h : Hints) : M Disp :=
  varithBy sfuBeat i d [a] t (fun _ _ _ xs => sfu fn t.toNat (src xs 0)) h

/-- VEXP2 -/
def execVexp2 (d a : BitVec 5) (t : BitVec 4) (σ : State) : Out := eHalf (.vexp2 d a t) (sfuBody 0 (.vexp2 d a t) d a t) σ
/-- VEXP -/
def execVexp (d a : BitVec 5) (t : BitVec 4) (σ : State) : Out := eHalf (.vexp d a t) (sfuBody 1 (.vexp d a t) d a t) σ
/-- VLOG2 -/
def execVlog2 (d a : BitVec 5) (t : BitVec 4) (σ : State) : Out := eHalf (.vlog2 d a t) (sfuBody 2 (.vlog2 d a t) d a t) σ
/-- VLN -/
def execVln (d a : BitVec 5) (t : BitVec 4) (σ : State) : Out := eHalf (.vln d a t) (sfuBody 3 (.vln d a t) d a t) σ
/-- VRCP -/
def execVrcp (d a : BitVec 5) (t : BitVec 4) (σ : State) : Out := eHalf (.vrcp d a t) (sfuBody 4 (.vrcp d a t) d a t) σ
/-- VRSQRT -/
def execVrsqrt (d a : BitVec 5) (t : BitVec 4) (σ : State) : Out := eHalf (.vrsqrt d a t) (sfuBody 5 (.vrsqrt d a t) d a t) σ
/-- VSQRT -/
def execVsqrt (d a : BitVec 5) (t : BitVec 4) (σ : State) : Out := eHalf (.vsqrt d a t) (sfuBody 6 (.vsqrt d a t) d a t) σ
/-- VSIN -/
def execVsin (d a : BitVec 5) (t : BitVec 4) (σ : State) : Out := eHalf (.vsin d a t) (sfuBody 7 (.vsin d a t) d a t) σ
/-- VCOS -/
def execVcos (d a : BitVec 5) (t : BitVec 4) (σ : State) : Out := eHalf (.vcos d a t) (sfuBody 8 (.vcos d a t) d a t) σ
/-- VTANH -/
def execVtanh (d a : BitVec 5) (t : BitVec 4) (σ : State) : Out := eHalf (.vtanh d a t) (sfuBody 9 (.vtanh d a t) d a t) σ
/-- VSIGM -/
def execVsigm (d a : BitVec 5) (t : BitVec 4) (σ : State) : Out := eHalf (.vsigm d a t) (sfuBody 10 (.vsigm d a t) d a t) σ
/-- VGELU -/
def execVgelu (d a : BitVec 5) (t : BitVec 4) (σ : State) : Out := eHalf (.vgelu d a t) (sfuBody 11 (.vgelu d a t) d a t) σ
/-- VSILU -/
def execVsilu (d a : BitVec 5) (t : BitVec 4) (σ : State) : Out := eHalf (.vsilu d a t) (sfuBody 12 (.vsilu d a t) d a t) σ
/-- VERF -/
def execVerf (d a : BitVec 5) (t : BitVec 4) (σ : State) : Out := eHalf (.verf d a t) (sfuBody 13 (.verf d a t) d a t) σ

end Sys2Proof.Machine
end

