-- ==== Sys2Proof/Machine/Dispatch.lean ====
section
/-!
DEFINITION. One arm per constructor of Instr, each a direct call of its meaning.
-/

namespace Sys2Proof.Machine

/-- What one row of the opcode table does. -/
def exec (i : Instr) (s : State) : Host.Outcome State Fault Refusal :=
  match i with
  | .nop => Sys2Proof.Machine.execNop s
  | .trap a => Sys2Proof.Machine.execTrap a s
  | .eret => Sys2Proof.Machine.execEret s
  | .mfs a b => Sys2Proof.Machine.execMfs a b s
  | .mts a b => Sys2Proof.Machine.execMts a b s
  | .park a => Sys2Proof.Machine.execPark a s
  | .ctxsave => Sys2Proof.Machine.execCtxsave s
  | .ctxrest => Sys2Proof.Machine.execCtxrest s
  | .rdcyc a => Sys2Proof.Machine.execRdcyc a s
  | .rdtime a => Sys2Proof.Machine.execRdtime a s
  | .add a b c => Sys2Proof.Machine.execAdd a b c s
  | .sub a b c => Sys2Proof.Machine.execSub a b c s
  | .and a b c => Sys2Proof.Machine.execAnd a b c s
  | .or a b c => Sys2Proof.Machine.execOr a b c s
  | .xor a b c => Sys2Proof.Machine.execXor a b c s
  | .andn a b c => Sys2Proof.Machine.execAndn a b c s
  | .orn a b c => Sys2Proof.Machine.execOrn a b c s
  | .sll a b c => Sys2Proof.Machine.execSll a b c s
  | .srl a b c => Sys2Proof.Machine.execSrl a b c s
  | .sra a b c => Sys2Proof.Machine.execSra a b c s
  | .rol a b c => Sys2Proof.Machine.execRol a b c s
  | .ror a b c => Sys2Proof.Machine.execRor a b c s
  | .mul a b c => Sys2Proof.Machine.execMul a b c s
  | .mulh a b c => Sys2Proof.Machine.execMulh a b c s
  | .mulhn a b c => Sys2Proof.Machine.execMulhn a b c s
  | .div a b c => Sys2Proof.Machine.execDiv a b c s
  | .divn a b c => Sys2Proof.Machine.execDivn a b c s
  | .rem a b c => Sys2Proof.Machine.execRem a b c s
  | .remn a b c => Sys2Proof.Machine.execRemn a b c s
  | .min a b c => Sys2Proof.Machine.execMin a b c s
  | .max a b c => Sys2Proof.Machine.execMax a b c s
  | .minn a b c => Sys2Proof.Machine.execMinn a b c s
  | .maxn a b c => Sys2Proof.Machine.execMaxn a b c s
  | .slt a b c => Sys2Proof.Machine.execSlt a b c s
  | .sltn a b c => Sys2Proof.Machine.execSltn a b c s
  | .seq a b c => Sys2Proof.Machine.execSeq a b c s
  | .sne a b c => Sys2Proof.Machine.execSne a b c s
  | .clz a b => Sys2Proof.Machine.execClz a b s
  | .ctz a b => Sys2Proof.Machine.execCtz a b s
  | .popc a b => Sys2Proof.Machine.execPopc a b s
  | .bswap a b => Sys2Proof.Machine.execBswap a b s
  | .hmix a b c => Sys2Proof.Machine.execHmix a b c s
  | .crc32c a b c => Sys2Proof.Machine.execCrc32c a b c s
  | .bfx a b c d => Sys2Proof.Machine.execBfx a b c d s
  | .bfxs a b c d => Sys2Proof.Machine.execBfxs a b c d s
  | .bfi a b c d => Sys2Proof.Machine.execBfi a b c d s
  | .bfxv a b c => Sys2Proof.Machine.execBfxv a b c s
  | .bfiv a b c => Sys2Proof.Machine.execBfiv a b c s
  | .addi a b c => Sys2Proof.Machine.execAddi a b c s
  | .andi a b c => Sys2Proof.Machine.execAndi a b c s
  | .ori a b c => Sys2Proof.Machine.execOri a b c s
  | .xori a b c => Sys2Proof.Machine.execXori a b c s
  | .slti a b c => Sys2Proof.Machine.execSlti a b c s
  | .sltni a b c => Sys2Proof.Machine.execSltni a b c s
  | .muli a b c => Sys2Proof.Machine.execMuli a b c s
  | .lui a b => Sys2Proof.Machine.execLui a b s
  | .slli a b c => Sys2Proof.Machine.execSlli a b c s
  | .srli a b c => Sys2Proof.Machine.execSrli a b c s
  | .srai a b c => Sys2Proof.Machine.execSrai a b c s
  | .roli a b c => Sys2Proof.Machine.execRoli a b c s
  | .beq a b c => Sys2Proof.Machine.execBeq a b c s
  | .bne a b c => Sys2Proof.Machine.execBne a b c s
  | .blt a b c => Sys2Proof.Machine.execBlt a b c s
  | .bge a b c => Sys2Proof.Machine.execBge a b c s
  | .bltn a b c => Sys2Proof.Machine.execBltn a b c s
  | .bgen a b c => Sys2Proof.Machine.execBgen a b c s
  | .b a => Sys2Proof.Machine.execB a s
  | .bal a => Sys2Proof.Machine.execBal a s
  | .jr a => Sys2Proof.Machine.execJr a s
  | .jalr a b => Sys2Proof.Machine.execJalr a b s
  | .bp a b c => Sys2Proof.Machine.execBp a b c s
  | .dbnz a b => Sys2Proof.Machine.execDbnz a b s
  | .ld a b c d e => Sys2Proof.Machine.execLd a b c d e s
  | .st a b c d e => Sys2Proof.Machine.execSt a b c d e s
  | .ldro a b c d => Sys2Proof.Machine.execLdro a b c d s
  | .ldq a => Sys2Proof.Machine.execLdq a s
  | .stq a => Sys2Proof.Machine.execStq a s
  | .layset a b => Sys2Proof.Machine.execLayset a b s
  | .layget a b => Sys2Proof.Machine.execLayget a b s
  | .laysub a b => Sys2Proof.Machine.execLaysub a b s
  | .pref a b => Sys2Proof.Machine.execPref a b s
  | .aadd a b c d e => Sys2Proof.Machine.execAadd a b c d e s
  | .aand a b c d e => Sys2Proof.Machine.execAand a b c d e s
  | .aor a b c d e => Sys2Proof.Machine.execAor a b c d e s
  | .axor a b c d e => Sys2Proof.Machine.execAxor a b c d e s
  | .amin a b c d e => Sys2Proof.Machine.execAmin a b c d e s
  | .amax a b c d e => Sys2Proof.Machine.execAmax a b c d e s
  | .aminn a b c d e => Sys2Proof.Machine.execAminn a b c d e s
  | .amaxn a b c d e => Sys2Proof.Machine.execAmaxn a b c d e s
  | .aswap a b c d e => Sys2Proof.Machine.execAswap a b c d e s
  | .acas a b c d e => Sys2Proof.Machine.execAcas a b c d e s
  | .afadd a b c d e => Sys2Proof.Machine.execAfadd a b c d e s
  | .waita a b c d => Sys2Proof.Machine.execWaita a b c d s
  | .fence a b => Sys2Proof.Machine.execFence a b s
  | .qfence a => Sys2Proof.Machine.execQfence a s
  | .rosync => Sys2Proof.Machine.execRosync s
  | .chnew a b => Sys2Proof.Machine.execChnew a b s
  | .send a b c => Sys2Proof.Machine.execSend a b c s
  | .sende a b c d => Sys2Proof.Machine.execSende a b c d s
  | .eclose a => Sys2Proof.Machine.execEclose a s
  | .einfo a b c => Sys2Proof.Machine.execEinfo a b c s
  | .ebind a b => Sys2Proof.Machine.execEbind a b s
  | .emask a b => Sys2Proof.Machine.execEmask a b s
  | .spawn a b c d => Sys2Proof.Machine.execSpawn a b c d s
  | .hend a => Sys2Proof.Machine.execHend a s
  | .hseal => Sys2Proof.Machine.execHseal s
  | .rateset a b => Sys2Proof.Machine.execRateset a b s
  | .rateget a b => Sys2Proof.Machine.execRateget a b s
  | .gname a b => Sys2Proof.Machine.execGname a b s
  | .gstv a b c => Sys2Proof.Machine.execGstv a b c s
  | .ghold a b => Sys2Proof.Machine.execGhold a b s
  | .gwait a b => Sys2Proof.Machine.execGwait a b s
  | .barinit a b => Sys2Proof.Machine.execBarinit a b s
  | .bararr a b c => Sys2Proof.Machine.execBararr a b c s
  | .barwait a b => Sys2Proof.Machine.execBarwait a b s
  | .bartest a b c => Sys2Proof.Machine.execBartest a b c s
  | .waitany a b => Sys2Proof.Machine.execWaitany a b s
  | .waitall a b => Sys2Proof.Machine.execWaitall a b s
  | .ffr a b => Sys2Proof.Machine.execFfr a b s
  | .tagclr a => Sys2Proof.Machine.execTagclr a s
  | .cpy a b c => Sys2Proof.Machine.execCpy a b c s
  | .cpyred a b c => Sys2Proof.Machine.execCpyred a b c s
  | .gath a b c d => Sys2Proof.Machine.execGath a b c d s
  | .scat a b c d => Sys2Proof.Machine.execScat a b c d s
  | .halo a b c d => Sys2Proof.Machine.execHalo a b c d s
  | .strm a b c => Sys2Proof.Machine.execStrm a b c s
  | .fillw a b c d => Sys2Proof.Machine.execFillw a b c d s
  | .cpycan a => Sys2Proof.Machine.execCpycan a s
  | .mma a b c d => Sys2Proof.Machine.execMma a b c d s
  | .mmas a b c d => Sys2Proof.Machine.execMmas a b c d s
  | .mrot a b c d => Sys2Proof.Machine.execMrot a b c d s
  | .mzero a b => Sys2Proof.Machine.execMzero a b s
  | .mrd a b c => Sys2Proof.Machine.execMrd a b c s
  | .mwait a => Sys2Proof.Machine.execMwait a s
  | .mpoll a b => Sys2Proof.Machine.execMpoll a b s
  | .mcan a => Sys2Proof.Machine.execMcan a s
  | .vadd a b c d => Sys2Proof.Machine.execVadd a b c d s
  | .vsub a b c d => Sys2Proof.Machine.execVsub a b c d s
  | .vmul a b c d => Sys2Proof.Machine.execVmul a b c d s
  | .vfma a b c d => Sys2Proof.Machine.execVfma a b c d s
  | .vfms a b c d => Sys2Proof.Machine.execVfms a b c d s
  | .vnfma a b c d => Sys2Proof.Machine.execVnfma a b c d s
  | .vdiv a b c d => Sys2Proof.Machine.execVdiv a b c d s
  | .vmin a b c d => Sys2Proof.Machine.execVmin a b c d s
  | .vmax a b c d => Sys2Proof.Machine.execVmax a b c d s
  | .vabs a b c => Sys2Proof.Machine.execVabs a b c s
  | .vneg a b c => Sys2Proof.Machine.execVneg a b c s
  | .vand a b c d => Sys2Proof.Machine.execVand a b c d s
  | .vor a b c d => Sys2Proof.Machine.execVor a b c d s
  | .vxor a b c d => Sys2Proof.Machine.execVxor a b c d s
  | .vnot a b c => Sys2Proof.Machine.execVnot a b c s
  | .vshl a b c d => Sys2Proof.Machine.execVshl a b c d s
  | .vshr a b c d => Sys2Proof.Machine.execVshr a b c d s
  | .vshra a b c d => Sys2Proof.Machine.execVshra a b c d s
  | .vclamp a b c d => Sys2Proof.Machine.execVclamp a b c d s
  | .vmov a b c => Sys2Proof.Machine.execVmov a b c s
  | .vbcast a b c => Sys2Proof.Machine.execVbcast a b c s
  | .viota a b => Sys2Proof.Machine.execViota a b s
  | .vaddi a b c => Sys2Proof.Machine.execVaddi a b c s
  | .vmuli a b c => Sys2Proof.Machine.execVmuli a b c s
  | .vmaxi a b c => Sys2Proof.Machine.execVmaxi a b c s
  | .vseti a b => Sys2Proof.Machine.execVseti a b s
  | .vcmp a b c d e => Sys2Proof.Machine.execVcmp a b c d e s
  | .vsel a b c d e => Sys2Proof.Machine.execVsel a b c d e s
  | .pand a b c => Sys2Proof.Machine.execPand a b c s
  | .por a b c => Sys2Proof.Machine.execPor a b c s
  | .pxor a b c => Sys2Proof.Machine.execPxor a b c s
  | .pnot a b => Sys2Proof.Machine.execPnot a b s
  | .pcnt a => Sys2Proof.Machine.execPcnt a s
  | .pset a b => Sys2Proof.Machine.execPset a b s
  | .vcvt a b c => Sys2Proof.Machine.execVcvt a b c s
  | .vbq a b c d => Sys2Proof.Machine.execVbq a b c d s
  | .vbdq a b c d => Sys2Proof.Machine.execVbdq a b c d s
  | .vred a b c d e => Sys2Proof.Machine.execVred a b c d e s
  | .vscan a b c d e => Sys2Proof.Machine.execVscan a b c d e s
  | .vdot a b c d e => Sys2Proof.Machine.execVdot a b c d e s
  | .vtopk a b c d e f => Sys2Proof.Machine.execVtopk a b c d e f s
  | .vperm a b c d e f => Sys2Proof.Machine.execVperm a b c d e f s
  | .vexp2 a b c => Sys2Proof.Machine.execVexp2 a b c s
  | .vexp a b c => Sys2Proof.Machine.execVexp a b c s
  | .vlog2 a b c => Sys2Proof.Machine.execVlog2 a b c s
  | .vln a b c => Sys2Proof.Machine.execVln a b c s
  | .vrcp a b c => Sys2Proof.Machine.execVrcp a b c s
  | .vrsqrt a b c => Sys2Proof.Machine.execVrsqrt a b c s
  | .vsqrt a b c => Sys2Proof.Machine.execVsqrt a b c s
  | .vsin a b c => Sys2Proof.Machine.execVsin a b c s
  | .vcos a b c => Sys2Proof.Machine.execVcos a b c s
  | .vtanh a b c => Sys2Proof.Machine.execVtanh a b c s
  | .vsigm a b c => Sys2Proof.Machine.execVsigm a b c s
  | .vgelu a b c => Sys2Proof.Machine.execVgelu a b c s
  | .vsilu a b c => Sys2Proof.Machine.execVsilu a b c s
  | .verf a b c => Sys2Proof.Machine.execVerf a b c s
  | .zset a b c => Sys2Proof.Machine.execZset a b c s
  | .zld a b => Sys2Proof.Machine.execZld a b s
  | .zst a b => Sys2Proof.Machine.execZst a b s
  | .zinc a b c => Sys2Proof.Machine.execZinc a b c s
  | .vtag a b c => Sys2Proof.Machine.execVtag a b c s
  | .vtagrd a => Sys2Proof.Machine.execVtagrd a s
  | .lgraph a => Sys2Proof.Machine.execLgraph a s
  | .lwait a b c => Sys2Proof.Machine.execLwait a b c s
  | .hstall a => Sys2Proof.Machine.execHstall a s
  | .himm a => Sys2Proof.Machine.execHimm a s
  | .hmod a b c d e f g h j => Sys2Proof.Machine.execHmod a b c d e f g h j s
  | .hbr a => Sys2Proof.Machine.execHbr a s
  | .illegalWord a => Sys2Proof.Machine.execIllegalWord a s
  | .deviceReset => Sys2Proof.Machine.execDeviceReset s
  | .deviceStart => Sys2Proof.Machine.execDeviceStart s
  | .partSet => Sys2Proof.Machine.execPartSet s
  | .devSet => Sys2Proof.Machine.execDevSet s
  | .spdm => Sys2Proof.Machine.execSpdm s
  | .imageLoad => Sys2Proof.Machine.execImageLoad s
  | .ckptStart => Sys2Proof.Machine.execCkptStart s
  | .mailboxReset => Sys2Proof.Machine.execMailboxReset s
  | .hostWindowGo => Sys2Proof.Machine.execHostWindowGo s
  | .hostEventEntry => Sys2Proof.Machine.execHostEventEntry s
  | .hostBar2Access => Sys2Proof.Machine.execHostBar2Access s
  | .hostCxlAccess => Sys2Proof.Machine.execHostCxlAccess s
  | .tinvcGo => Sys2Proof.Machine.execTinvcGo s
  | .tinvcDone => Sys2Proof.Machine.execTinvcDone s
  | .scfgWrite => Sys2Proof.Machine.execScfgWrite s
  | .fillmaskWrite => Sys2Proof.Machine.execFillmaskWrite s
  | .pctlWrite => Sys2Proof.Machine.execPctlWrite s
  | .portstatClr => Sys2Proof.Machine.execPortstatClr s
  | .portstatRetrain => Sys2Proof.Machine.execPortstatRetrain s
  | .ringConfigWrite => Sys2Proof.Machine.execRingConfigWrite s
  | .pcntWrite => Sys2Proof.Machine.execPcntWrite s
  | .lattolWrite => Sys2Proof.Machine.execLattolWrite s
  | .registerWrite => Sys2Proof.Machine.execRegisterWrite s
  | .hang => Sys2Proof.Machine.execHang s
  | .waitaTimeout => Sys2Proof.Machine.execWaitaTimeout s
  | .combiningWindowClose => Sys2Proof.Machine.execCombiningWindowClose s
  | .markerWaitExpiry => Sys2Proof.Machine.execMarkerWaitExpiry s
  | .fenceAckTimeout => Sys2Proof.Machine.execFenceAckTimeout s
  | .remoteReplyTimeout => Sys2Proof.Machine.execRemoteReplyTimeout s
  | .ingressFlitExpiry => Sys2Proof.Machine.execIngressFlitExpiry s
  | .packetAgeing => Sys2Proof.Machine.execPacketAgeing s
  | .ratePeriodEnd => Sys2Proof.Machine.execRatePeriodEnd s
  | .rateUpdate => Sys2Proof.Machine.execRateUpdate s
  | .rateDelta => Sys2Proof.Machine.execRateDelta s
  | .rateAck => Sys2Proof.Machine.execRateAck s
  | .pcSample => Sys2Proof.Machine.execPcSample s
  | .idleEntry => Sys2Proof.Machine.execIdleEntry s
  | .deviceIdleEntry => Sys2Proof.Machine.execDeviceIdleEntry s
  | .idleWake => Sys2Proof.Machine.execIdleWake s
  | .idleExitDone => Sys2Proof.Machine.execIdleExitDone s
  | .timeMessage => Sys2Proof.Machine.execTimeMessage s
  | .loadDataReturn => Sys2Proof.Machine.execLoadDataReturn s
  | .sliceAccess => Sys2Proof.Machine.execSliceAccess s
  | .sliceFillData => Sys2Proof.Machine.execSliceFillData s
  | .evictionReport => Sys2Proof.Machine.execEvictionReport s
  | .remoteInvalidation => Sys2Proof.Machine.execRemoteInvalidation s
  | .interDieMessage => Sys2Proof.Machine.execInterDieMessage s
  | .reductionMerge => Sys2Proof.Machine.execReductionMerge s
  | .atomicAtHome => Sys2Proof.Machine.execAtomicAtHome s
  | .atomicReply => Sys2Proof.Machine.execAtomicReply s
  | .scratchpadAtomic => Sys2Proof.Machine.execScratchpadAtomic s
  | .pageWalk => Sys2Proof.Machine.execPageWalk s
  | .mortarHop => Sys2Proof.Machine.execMortarHop s
  | .linkReplay => Sys2Proof.Machine.execLinkReplay s
  | .linkTrainingDone => Sys2Proof.Machine.execLinkTrainingDone s
  | .xanolForward => Sys2Proof.Machine.execXanolForward s
  | .remotePacketArrival => Sys2Proof.Machine.execRemotePacketArrival s
  | .orderedPacketRelease => Sys2Proof.Machine.execOrderedPacketRelease s
  | .countMarkerArrival => Sys2Proof.Machine.execCountMarkerArrival s
  | .countMarkerAck => Sys2Proof.Machine.execCountMarkerAck s
  | .drainMarker => Sys2Proof.Machine.execDrainMarker s
  | .lintelIngressFlit => Sys2Proof.Machine.execLintelIngressFlit s
  | .lintelGraphStart => Sys2Proof.Machine.execLintelGraphStart s
  | .lintelUnitFlit => Sys2Proof.Machine.execLintelUnitFlit s
  | .lintelGraphEnd => Sys2Proof.Machine.execLintelGraphEnd s
  | .outboxEntryLeave => Sys2Proof.Machine.execOutboxEntryLeave s
  | .hodLineTransfer => Sys2Proof.Machine.execHodLineTransfer s
  | .hodCommandComplete => Sys2Proof.Machine.execHodCommandComplete s
  | .systemCopyTransfer => Sys2Proof.Machine.execSystemCopyTransfer s
  | .barrierOperation => Sys2Proof.Machine.execBarrierOperation s
  | .haloPushArrival => Sys2Proof.Machine.execHaloPushArrival s
  | .landingStoreArrival => Sys2Proof.Machine.execLandingStoreArrival s
  | .matrixStepGrant => Sys2Proof.Machine.execMatrixStepGrant s
  | .matrixStepRetire => Sys2Proof.Machine.execMatrixStepRetire s
  | .matrixJobComplete => Sys2Proof.Machine.execMatrixJobComplete s
  | .matrixJobPoison => Sys2Proof.Machine.execMatrixJobPoison s
  | .rotationSlotAccept => Sys2Proof.Machine.execRotationSlotAccept s
  | .writebackPortOp => Sys2Proof.Machine.execWritebackPortOp s
  | .activationStart => Sys2Proof.Machine.execActivationStart s
  | .messageArrival => Sys2Proof.Machine.execMessageArrival s
  | .homeForward => Sys2Proof.Machine.execHomeForward s
  | .locationUpdate => Sys2Proof.Machine.execLocationUpdate s
  | .endLandingRegistration => Sys2Proof.Machine.execEndLandingRegistration s
  | .parkedDrain => Sys2Proof.Machine.execParkedDrain s
  | .closeMarker => Sys2Proof.Machine.execCloseMarker s
  | .receiveClose => Sys2Proof.Machine.execReceiveClose s
  | .spawnArrival => Sys2Proof.Machine.execSpawnArrival s
  | .eventDelivery => Sys2Proof.Machine.execEventDelivery s
  | .launch => Sys2Proof.Machine.execLaunch s
  | .cancel => Sys2Proof.Machine.execCancel s
  | .networkDispatch => Sys2Proof.Machine.execNetworkDispatch s
  | .networkDone => Sys2Proof.Machine.execNetworkDone s
  | .preempt => Sys2Proof.Machine.execPreempt s
  | .coreAcknowledge => Sys2Proof.Machine.execCoreAcknowledge s
  | .poolCopyDone => Sys2Proof.Machine.execPoolCopyDone s
  | .imageResume => Sys2Proof.Machine.execImageResume s
  | .processMove => Sys2Proof.Machine.execProcessMove s
  | .resume => Sys2Proof.Machine.execResume s
  | .restart => Sys2Proof.Machine.execRestart s
  | .kill => Sys2Proof.Machine.execKill s
  | .exit => Sys2Proof.Machine.execExit s
  | .checkpointGranuleCopy => Sys2Proof.Machine.execCheckpointGranuleCopy s
  | .ckptStageCopy => Sys2Proof.Machine.execCkptStageCopy s
  | .cutComplete => Sys2Proof.Machine.execCutComplete s
  | .thermalTrip => Sys2Proof.Machine.execThermalTrip s
  | .hostFunctionReset => Sys2Proof.Machine.execHostFunctionReset s
  | .mctpI3cMessage => Sys2Proof.Machine.execMctpI3cMessage s

end Sys2Proof.Machine
end

