-- ==== Sys2Proof/Machine/Step.lean ====
section
/-!
DEFINITION. The step of the machine (log 1): the next act of the agenda, or of the plan of one clock when the agenda is
empty. How the host places an instruction where the next step runs it (log 2).
-/

namespace Sys2Proof.Machine

/-- The act that comes next, and the state without it. -/
def State.takeAct (s : State) : Act × State := match s.agenda with
  | a :: rest => (a, { s with agenda := rest })
  | [] => match s.plan with
    | a :: rest => (a, { s with agenda := rest })
    | [] => (.pass 1 1, s)

/-- A half's turn: it names a context of a core that exists, and comes to nothing where the half has issued in this clock. -/
def issueAct (t : Turn) (s : State) : Host.Outcome State Fault Refusal :=
  if !coreOk t.core || 4 ≤ t.ctx then .fault .noSuchUnit
  else if s.spent t then .next s
  else match ({ s with turn := t } : State).fetched with
    | .idle u => .next u
    | .run i u => nextWith (fun v => v.afterTurn u t i) (exec i u)

/-- One act. -/
def doAct (a : Act) (s : State) : Host.Outcome State Fault Refusal := match a with
  | .issue t => issueAct t s
  | .event e t =>
    if !isRow e then .fault .noSuchUnit
    else if s.keystone.minimal && !rowMinimal e t then .next s
    else if s.idle = .run || rowAsleep e then exec e { s with turn := t }
    else if hostRow e t then .next (s.hostWakes a)
    else .next s
  | .pass clocks ns => .next (s.passTime clocks ns)
  | .softError line => .next (s.softError line)
  | .arrive port p => if 12 ≤ port then .fault .noSuchUnit else .next (if s.keystone.minimal then s else s.arrivePacket port p)
  | .hostRead fn off => .next (if s.idle = .run then s.hostRead fn off else s.hostWakes a)
  | .outside a bytes => .next (s.outsideWrite a bytes)

/-- One step of the machine. -/
def step (s : State) : Host.Outcome State Fault Refusal := doAct s.takeAct.1 s.takeAct.2

/-! ## Placing an instruction (log 2) -/

/-- The physical and virtual address where `withFetchWord` places an instruction. -/
def placeAt : Nat := 0x100000

/-- Partition 0 as `withFetchWord` sets it up: all columns, all of HBM, the translation root at 0x10000. -/
def placePart : Partition :=
  { record := BitVec.ofNat 512 (at_ (2 ^ 48 - 1) 48 464 + at_ 0x8000000000 64 320 + at_ 0x10001 64 256 + 1) }

/-- The two table entries that translate the first 512 MiB to themselves, with all rights for USER code. -/
def placeTables (m : Memory) : Memory :=
  let m := writeNat m 0x10000 8 0x20001
  writeNat m 0x20000 8 (at_ 7 3 52 + at_ 1 2 1 + 1)

/-- The activation that runs the placed instruction. -/
def placeActivation (s : State) : Activation := { slot := 1, name := s.nameOf 1, id := s.fresh + 1 }

/-- `s` with the instruction of `nbits` bits `w` placed where the next step fetches: partition 0 with its tables, a process
in slot 1 resident on core 0, its activation in context 0 of that core, and that context's turn at the head of the
agenda. -/
def State.withFetchWord (s : State) (nbits w : Nat) : State :=
  let x := w % 2 ^ nbits % 2 ^ 32
  let c := s.core 0
  let ctx : Ctx := { status := .running, act := some (placeActivation s), pc := BitVec.ofNat 52 placeAt }
  let m := placeTables (writeNat s.mem placeAt 4 x)
  { s with
    agenda := .issue {} :: s.agenda
    idle := .run
    idleExit := none
    mem := m
    parts := put s.parts 0 placePart
    procs := put s.procs 1 { name := s.nameOf 1, state := .resident }
    clusters := put s.clusters 0 { s.cluster 0 with idle := .run, idleExit := none, tlb := [], upper := [] }
    cores := put s.cores 0 { c with ctxs := put c.ctxs 0 ctx, tlb := [], usedA := none, usedE := none } }

end Sys2Proof.Machine
end

