-- ==== Sys2Proof/Safety.lean ====
section
/-!
DEFINITION. What counts as a safe run, in the terms that statements use: a half that can issue, a context that is stopped
by a fault, a step that answers, bytes and registers as a program sees them.
-/

namespace Sys2Proof.Machine


/-- The A half whose turn it is can issue a word without hints: its context runs, no fault and no reply is pending, no
older E word waits, and no disturbance of the hardware meets the word. -/
structure ReadyA (s : State) : Prop where
  running : s.actor.status = .running
  calm : s.actor.afault = none
  clear : s.turn.upset = .none
  plain : s.actor.hints = []
  drained : s.actor.eq = []
  free : s.actor.pend = none

/-- The front end is to route a word to an empty E queue, and the word can run at once: no E word is in hand, the core's E
half has not issued in this clock and no other context of the core has E words to run (01 R17). -/
structure ReadyE (s : State) : Prop where
  half : s.turn.half = .A
  ready : ReadyA s
  outside : s.actor.routine = false
  fresh : s.actor.eprog = {}
  unused : (s.core s.turn.core).usedE ≠ some s.cyc
  alone : ∀ k, k < 4 → k ≠ s.turn.ctx → (s.ctx s.turn.core k).readyE = false

/-- The special function unit of the cluster is free, and no other core of the cluster runs a context that could ask for it
(01 R12). -/
structure SfuFree (s : State) : Prop where
  free : (s.cluster (s.turn.core / 8)).sfuFree ≤ s.cyc
  alone : ∀ m k, m / 8 = s.turn.core / 8 → m ≠ s.turn.core → k < 4 → (s.ctx m k).status ≠ .running

/-- A context is stopped by a fault of a code: it is parked, or frozen by VIOLATION (15 R355, R377). -/
def Stopped (s : State) (core ctx : Nat) (code : FaultCode) : Prop :=
  ((s.ctx core ctx).status = .parked ∨ (s.ctx core ctx).status = .frozen)
    ∧ (s.ctx core ctx).faultc.extractLsb' 0 8 = code.toByte

/-- A context holds no fault: a safe run keeps every context so. -/
def Unstopped (s : State) (core ctx : Nat) : Prop :=
  (s.ctx core ctx).status ≠ .parked ∧ (s.ctx core ctx).status ≠ .frozen

/-- A run is safe for a number of steps: each of them answers a next state in which no context is stopped. -/
def SafeFor : Nat → State → Prop
  | 0, _ => True
  | n + 1, s => match step s with
    | .next t => (∀ core ctx, Unstopped t core ctx) ∧ SafeFor n t
    | .fault _ => False
    | .refused _ => False

/-- A register as an instruction reads it: a0 reads zero (02 R32). -/
def regOf (c : Ctx) (r : BitVec 5) : Word := if r = 0#5 then 0#64 else c.a[r.toNat]'r.isLt

/-- A source field (02 R32-R34): a0 reads zero, a30 pops an entry of q3 and needs one, 31 names none; the value and the
context after. -/
def Ctx.source (c : Ctx) (r : BitVec 5) : Option (Word × Ctx) :=
  if r = 30#5 then
    match c.q3 with
    | [] => none
    | x :: q => some (x, { c with q3 := q })
  else if r = 31#5 then none
  else some (regOf c r, c)

/-- A destination field (02 R32-R34): a0 discards, a30 pushes an entry of q2 and needs room, 31 names none. -/
def Ctx.dest (c : Ctx) (r : BitVec 5) (v : Word) : Option Ctx :=
  if r = 0#5 then some c
  else if r = 30#5 then (if c.q2.length < 8 then some { c with q2 := c.q2 ++ [v] } else none)
  else if r = 31#5 then none
  else some { c with a := c.a.set r.toNat v r.isLt }

/-- Two source fields, the first read before the second (02 R34). -/
def Ctx.sources (c : Ctx) (a b : BitVec 5) : Option (Word × Word × Ctx) :=
  match c.source a with
  | some (x, c) => (match c.source b with
    | some (y, c) => some (x, y, c)
    | none => none)
  | none => none

/-- The state in which the acting context is `c` and nothing else has changed. -/
def State.withActor (s : State) (c : Ctx) : State := s.setCtx s.turn.core s.turn.ctx c

/-- The state after an A word retired that left its context as `c`: the hints are spent, control is at `pc`, no stall is
noted, and the partition's counter of retired A words has risen (23 R408). Nothing else has changed. -/
def State.ends (s : State) (c : Ctx) (pc : BitVec 52) : State :=
  (s.withActor { c with hints := [], pc := pc, stallA := .none, waitA := none }).count s.activity.part 2 1

/-- The same with control at the next word. -/
def State.ends4 (s : State) (c : Ctx) : State := s.ends c (s.actor.pc + 4#52)

end Sys2Proof.Machine
end

