-- ==== Sys2Proof/Certificates/Slice0/Obligations.lean ====
section
/-!
DEFINITION. The statements for the provers, one proposition each. `Gives` and its kin say that an instruction of the A half
completes: the state after is the one before with the acting context changed as named, the word retired, and nothing else
changed.
-/

open Sys2Proof Sys2Proof.Machine

namespace Sys2Proof.Machine

/-- An instruction of the A half retires and writes a value to field `d`; `c` is the context after the sources are read. -/
def Gives (s : State) (i : Instr) (c : Ctx) (d : BitVec 5) (v : Word) : Prop :=
  ∀ c', c.dest d v = some c' → exec i s = .next (s.ends4 c')

/-- The same with flags set. -/
def GivesF (s : State) (i : Instr) (c : Ctx) (d : BitVec 5) (v : Word) (f : BitVec 6) : Prop :=
  ∀ c', c.dest d v = some c' → exec i s = .next (s.ends4 { c' with flags := c'.flags ||| f })

end Sys2Proof.Machine

/-! ## Words -/

/-- O1. Words written out from the encodings of the spec decode to the instructions they stand for (02 R28; 08 R176; 02 R38,
major 0x00). -/
def Obligations.DecodesTheManualsWords : Prop :=
  decode 0xFC400000#32 = .ok (.himm 0#22) ∧ decode 0x28808000#32 = .ok (.lui 4#5 0x8000#16)
    ∧ decode 0x08A11860#32 = .ok (.bfx 5#5 1#5 6#6 6#6) ∧ decode 0x08C18200#32 = .ok (.bfx 6#5 1#5 32#6 32#6)
    ∧ decode 0x00000000#32 = .ok .nop

/-- O2. Decoding the word of a well-formed instruction gives the instruction back, with every operand (02 R26, R38). The rows
without an encoding have no word, and `illegalWord` stands for words that are no instruction. -/
def Obligations.EveryWordReadsBack : Prop :=
  ∀ i : Instr, isRow i = false → (∀ w, i ≠ .illegalWord w) → i.wellFormed = true → decode (encode i) = .ok i

/-- O3. A word that decodes is the word of what it decodes to: no bit of it is ignored, so that a non-zero unused field
decodes to nothing (02 R27), and two words never stand for one instruction. -/
def Obligations.NoBitIsIgnored : Prop :=
  ∀ (w : BitVec 32) (i : Instr), decode w = .ok i → encode i = w

/-! ## The step -/

/-- O4. When the bytes at the program counter hold the word of a well-formed instruction that is no hint, a turn of the A
half of a context at an instruction boundary is `exec` of that instruction, at the state with the turn noted and with what
the translation of the address left (01 R16, 02 R24). -/
def Obligations.AStepRunsTheDecodedInstruction : Prop :=
  ∀ (s : State) (t : Turn) (rest : List Act) (i : Instr) (u : State),
    s.agenda = .issue t :: rest → coreOk t.core = true → t.ctx < 4 → t.half = .A →
    let p : State := { s with agenda := rest, turn := t }
    ({ s with agenda := rest } : State).spent t = false →
    p.idle = .run → (p.cluster (t.core / 8)).idle = .run → p.actor.issues = true → p.actor.takesInterrupt = false → p.actor.auto = false →
    p.actor.hangs = false → p.actor.heldTo ≤ p.cyc → isRow i = false → (∀ w, i ≠ .illegalWord w) → i.wellFormed = true →
    isHintWord (encode i) = false → p.fetchWord t.core t.ctx p.actor.pc.toNat = .ok (encode i, u) →
    u.operandsReady t.core t.ctx i = true → step s = nextWith (fun v => v.afterTurn u t i) (exec i u)

/-- O5. A fetch that translation refuses raises its fault in the A half: with no hint fetched and no E word queued the
context parks with FAULTA at the word and FAULTX as 03 R57 gives (02 R24, 15 R355). -/
def Obligations.AnUnfetchableWordParks : Prop :=
  ∀ (s : State) (t : Turn) (rest : List Act) (f : TFail),
    s.agenda = .issue t :: rest → coreOk t.core = true → t.ctx < 4 → t.half = .A →
    let p : State := { s with agenda := rest, turn := t }
    ({ s with agenda := rest } : State).spent t = false →
    p.idle = .run → (p.cluster (t.core / 8)).idle = .run → ReadyA p → p.actor.takesInterrupt = false → p.actor.auto = false →
    p.actor.hangs = false → p.fetchWord t.core t.ctx p.actor.pc.toNat = .error f →
    ∃ u, step s = .next u ∧ Stopped u t.core t.ctx f.1 ∧ (u.ctx t.core t.ctx).faulta = p.actor.pc
      ∧ (u.ctx t.core t.ctx).faultx = f.2.1 ∧ u.mem = s.mem

/-! ## The ALU (08 R170-R173) -/

/-- O6. The three-operand ALU functions without flags, for every register and queue operand (08 R170, 02 R32-R34). -/
def Obligations.AluWritesItsFunction : Prop :=
  ∀ (s : State) (d a b : BitVec 5) (x y : Word) (c : Ctx), ReadyA s → s.actor.sources a b = some (x, y, c) →
    Gives s (.add d a b) c d (x + y) ∧ Gives s (.sub d a b) c d (x - y) ∧ Gives s (.mul d a b) c d (x * y)
      ∧ Gives s (.and d a b) c d (x &&& y) ∧ Gives s (.or d a b) c d (x ||| y) ∧ Gives s (.xor d a b) c d (x ^^^ y)
      ∧ Gives s (.andn d a b) c d (x &&& ~~~y) ∧ Gives s (.orn d a b) c d (x ||| ~~~y)
      ∧ Gives s (.sll d a b) c d (x <<< (y.toNat % 64)) ∧ Gives s (.srl d a b) c d (x >>> (y.toNat % 64))
      ∧ Gives s (.sra d a b) c d (x.sshiftRight (y.toNat % 64))
      ∧ Gives s (.rol d a b) c d (x.rotateLeft (y.toNat % 64)) ∧ Gives s (.ror d a b) c d (x.rotateRight (y.toNat % 64))
      ∧ Gives s (.mulh d a b) c d (BitVec.ofInt 64 (x.toInt * y.toInt / 2 ^ 64))
      ∧ Gives s (.mulhn d a b) c d (BitVec.ofNat 64 (x.toNat * y.toNat / 2 ^ 64))
      ∧ Gives s (.min d a b) c d (if x.toInt ≤ y.toInt then x else y)
      ∧ Gives s (.max d a b) c d (if x.toInt ≤ y.toInt then y else x)
      ∧ Gives s (.minn d a b) c d (if x.toNat ≤ y.toNat then x else y)
      ∧ Gives s (.maxn d a b) c d (if x.toNat ≤ y.toNat then y else x)
      ∧ Gives s (.slt d a b) c d (if x.toInt < y.toInt then 1#64 else 0#64)
      ∧ Gives s (.sltn d a b) c d (if x.toNat < y.toNat then 1#64 else 0#64)
      ∧ Gives s (.seq d a b) c d (if x = y then 1#64 else 0#64) ∧ Gives s (.sne d a b) c d (if x = y then 0#64 else 1#64)

/-- O7. Division (08 R171): truncation toward zero, the remainder with the dividend's sign, and the two fixed cases. -/
def Obligations.DivisionAndItsCorners : Prop :=
  ∀ (s : State) (d a b : BitVec 5) (x y : Word) (c : Ctx), ReadyA s → s.actor.sources a b = some (x, y, c) →
    (y = 0#64 → GivesF s (.div d a b) c d (BitVec.allOnes 64) fDivZero ∧ GivesF s (.divn d a b) c d (BitVec.allOnes 64) fDivZero
      ∧ GivesF s (.rem d a b) c d x fDivZero ∧ GivesF s (.remn d a b) c d x fDivZero)
    ∧ (y ≠ 0#64 → Gives s (.div d a b) c d (BitVec.ofInt 64 (x.toInt.tdiv y.toInt))
      ∧ Gives s (.divn d a b) c d (BitVec.ofNat 64 (x.toNat / y.toNat))
      ∧ Gives s (.rem d a b) c d (BitVec.ofInt 64 (x.toInt.tmod y.toInt))
      ∧ Gives s (.remn d a b) c d (BitVec.ofNat 64 (x.toNat % y.toNat)))
    ∧ (x.toInt = -2 ^ 63 → y.toInt = -1 → Gives s (.div d a b) c d x ∧ Gives s (.rem d a b) c d 0#64)

/-- O8. HMIX and CRC32C (08 R172). Counts of bits and the byte swap (08 R170). -/
def Obligations.HashStepsAndBitCounts : Prop :=
  (∀ (s : State) (d a b : BitVec 5) (x y : Word) (c : Ctx), ReadyA s → s.actor.sources a b = some (x, y, c) →
    let h := x + y * 0x9E3779B97F4A7C15#64
    let g := (h ^^^ (h >>> 31)) * 0xBF58476D1CE4E5B9#64
    let bit := fun (r : BitVec 32) => if r.getLsbD 0 then (r >>> 1) ^^^ 0x82F63B78#32 else r >>> 1
    let byte := fun (r : BitVec 32) (k : Nat) => Nat.iterate bit 8 (r ^^^ (y.extractLsb' (8 * k) 8).setWidth 32)
    Gives s (.hmix d a b) c d (g ^^^ (g >>> 27))
      ∧ Gives s (.crc32c d a b) c d (([0, 1, 2, 3, 4, 5, 6, 7].foldl byte (x.setWidth 32)).setWidth 64))
  ∧ (∀ (s : State) (d a : BitVec 5) (x : Word) (c : Ctx), ReadyA s → s.actor.source a = some (x, c) →
    (∃ n, (x = 0#64 → n = 64) ∧ (x ≠ 0#64 → n < 64 ∧ x.getLsbD (63 - n) = true ∧ ∀ j, 63 - n < j → x.getLsbD j = false)
      ∧ Gives s (.clz d a) c d (BitVec.ofNat 64 n))
    ∧ (∃ n, (x = 0#64 → n = 64) ∧ (x ≠ 0#64 → n < 64 ∧ x.getLsbD n = true ∧ ∀ j, j < n → x.getLsbD j = false)
      ∧ Gives s (.ctz d a) c d (BitVec.ofNat 64 n))
    ∧ Gives s (.popc d a) c d (BitVec.ofNat 64 ((List.range 64).countP fun j => x.getLsbD j))
    ∧ ∃ v : Word, (∀ j, j < 8 → v.extractLsb' (8 * j) 8 = x.extractLsb' (8 * (7 - j)) 8) ∧ Gives s (.bswap d a) c d v)

/-- O9. Saturation under HMOD's saturate bit (08 R173): the exact signed result, clamped, with SAT where it was clamped. -/
def Obligations.SaturatingArithmetic : Prop :=
  ∀ (s : State) (d a b : BitVec 5) (i : BitVec 16) (x y : Word) (c : Ctx) (w : EWord),
    s.actor.status = .running → s.actor.afault = none → s.turn.upset = .none → s.actor.eq = [] →
    s.actor.hints = [w] → w.word = encode (.hmod 0#3 1#1 0#3 0#1 0#1 0#1 0#5 0#2 0#3) →
    let clamp := fun (z : Int) => max (-2 ^ 63) (min z (2 ^ 63 - 1))
    let sat := fun (z : Int) => if clamp z = z then 0#6 else fSat
    (s.actor.sources a b = some (x, y, c) →
      GivesF s (.add d a b) c d (BitVec.ofInt 64 (clamp (x.toInt + y.toInt))) (sat (x.toInt + y.toInt))
      ∧ GivesF s (.sub d a b) c d (BitVec.ofInt 64 (clamp (x.toInt - y.toInt))) (sat (x.toInt - y.toInt))
      ∧ GivesF s (.mul d a b) c d (BitVec.ofInt 64 (clamp (x.toInt * y.toInt))) (sat (x.toInt * y.toInt)))
    ∧ (s.actor.source a = some (x, c) →
      GivesF s (.addi d a i) c d (BitVec.ofInt 64 (clamp (x.toInt + i.toInt))) (sat (x.toInt + i.toInt))
      ∧ GivesF s (.muli d a i) c d (BitVec.ofInt 64 (clamp (x.toInt * i.toInt))) (sat (x.toInt * i.toInt)))

/-! ## Bit fields, immediates (08 R174-R176, 02 R28) -/

/-- O10. Bit fields (08 R176): every bit of the result, for the immediate and the register forms; the insert forms read d
after the other sources. Function values 5–15 raise ILLEGAL. -/
def Obligations.BitFieldsMoveTheirBits : Prop :=
  ∀ (s : State) (d a b : BitVec 5) (p l : BitVec 6) (x : Word) (c : Ctx), ReadyA s → s.actor.source a = some (x, c) →
    (∃ v : Word, (∀ j, j < 64 → v.getLsbD j = (decide (j < l.toNat) && x.getLsbD (p.toNat + j))) ∧ Gives s (.bfx d a p l) c d v)
    ∧ (∃ v : Word, (∀ j, j < 64 → v.getLsbD j = (decide (l ≠ 0#6) && x.getLsbD (min (p.toNat + min j (l.toNat - 1)) 63)))
      ∧ Gives s (.bfxs d a p l) c d v)
    ∧ (∀ old c', c.source d = some (old, c') → ∃ v : Word,
      (∀ j, j < 64 → v.getLsbD j = if p.toNat ≤ j ∧ j < p.toNat + l.toNat then x.getLsbD (j - p.toNat) else old.getLsbD j)
      ∧ Gives s (.bfi d a p l) c' d v)
    ∧ (∀ y c', c.source b = some (y, c') →
      let pos := (y.extractLsb' 0 8).toNat
      let wid := (y.extractLsb' 8 8).toNat
      (∃ v : Word, (∀ j, j < 64 → v.getLsbD j = (decide (j < wid) && x.getLsbD (pos + j))) ∧ Gives s (.bfxv d a b) c' d v)
      ∧ ∀ old c'', c'.source d = some (old, c'') → ∃ v : Word,
        (∀ j, j < 64 → v.getLsbD j = if pos ≤ j ∧ j < pos + wid then x.getLsbD (j - pos) else old.getLsbD j)
        ∧ Gives s (.bfiv d a b) c'' d v)
    ∧ (∀ w : BitVec 32, w.extractLsb' 26 6 = 2#6 → 5 ≤ (w.extractLsb' 0 4).toNat →
      ∃ u, exec (wordInstr w) s = .next u ∧ Stopped u s.turn.core s.turn.ctx .illegal ∧ u.actor.faultx = w.setWidth 64)

namespace Sys2Proof.Machine

/-- The immediate forms with the signed value `u`, the unsigned value `v` and LUI's value `w` (08 R174). -/
def ImmediateForms (s : State) (d a : BitVec 5) (i : BitVec 16) (x u v w : Word) (c : Ctx) : Prop :=
  Gives s (.addi d a i) c d (x + u) ∧ Gives s (.muli d a i) c d (x * u)
    ∧ Gives s (.andi d a i) c d (x &&& v) ∧ Gives s (.ori d a i) c d (x ||| v) ∧ Gives s (.xori d a i) c d (x ^^^ v)
    ∧ Gives s (.slti d a i) c d (if x.toInt < u.toInt then 1#64 else 0#64)
    ∧ Gives s (.sltni d a i) c d (if x.toNat < u.toNat then 1#64 else 0#64)
    ∧ Gives s (.lui d i) s.actor d w

end Sys2Proof.Machine

/-- O11. Immediate forms by the hints before them (08 R174, R175; 02 R28): none, one HIMM, two HIMMs; the shifts. -/
def Obligations.ImmediatesWiden : Prop :=
  ∀ (s : State) (d a : BitVec 5) (i : BitVec 16) (n : BitVec 6) (p q : BitVec 22) (x : Word) (c : Ctx),
    s.actor.status = .running → s.actor.afault = none → s.turn.upset = .none → s.actor.eq = [] →
    s.actor.source a = some (x, c) →
    (s.actor.hints = [] →
      ImmediateForms s d a i x (i.signExtend 64) (i.setWidth 64) (i.signExtend 64 <<< 16) c
      ∧ Gives s (.slli d a n) c d (x <<< n.toNat) ∧ Gives s (.srli d a n) c d (x >>> n.toNat)
      ∧ Gives s (.srai d a n) c d (x.sshiftRight n.toNat) ∧ Gives s (.roli d a n) c d (x.rotateLeft n.toNat))
    ∧ (∀ e, s.actor.hints = [e] → e.word = encode (.himm p) →
      ImmediateForms s d a i x ((p ++ i).signExtend 64) ((p ++ i).setWidth 64) ((p ++ i).signExtend 64 <<< 16) c)
    ∧ (∀ e f, s.actor.hints = [e, f] → e.word = encode (.himm p) → f.word = encode (.himm q) →
      ImmediateForms s d a i x ((p ++ q ++ i).signExtend 64) ((p ++ q ++ i).setWidth 64) ((p ++ q ++ i).signExtend 64 <<< 16) c)

/-! ## Branches (08 R177-R182) -/

namespace Sys2Proof.Machine

/-- A conditional transfer to the word at `disp`: taken where its condition holds, else the next word. -/
def Branches (s : State) (i : Instr) (c : Ctx) (disp : Int) (cond : Prop) : Prop :=
  (cond → ∀ t : BitVec 52, (t.toNat : Int) = s.actor.pc.toNat + 4 * disp → t.toNat % 4 = 0 → exec i s = .next (s.ends c t))
    ∧ (¬cond → exec i s = .next (s.ends4 c))

end Sys2Proof.Machine

/-- O12. Conditional branches (08 R177, R180, R181): the condition of each, the target 4·disp away; BP's four tests;
DBNZ's count. A field of 31, and DBNZ's s outside 1–29 or t other than 0, raise ILLEGAL. -/
def Obligations.ConditionalTransfers : Prop :=
  ∀ (s : State) (a b : BitVec 5) (m : BitVec 16), ReadyA s →
    (∀ x y c, s.actor.sources a b = some (x, y, c) →
      Branches s (.beq a b m) c m.toInt (x = y) ∧ Branches s (.bne a b m) c m.toInt (x ≠ y)
      ∧ Branches s (.blt a b m) c m.toInt (x.toInt < y.toInt) ∧ Branches s (.bge a b m) c m.toInt (y.toInt ≤ x.toInt)
      ∧ Branches s (.bltn a b m) c m.toInt (x.toNat < y.toNat) ∧ Branches s (.bgen a b m) c m.toInt (y.toNat ≤ x.toNat))
    ∧ (∀ p : BitVec 3,
      let v : Word := if p = 0#3 then BitVec.allOnes 64 else s.actor.p[p.toNat]'p.isLt
      Branches s (.bp p 0#2 m) s.actor m.toInt (v ≠ 0#64) ∧ Branches s (.bp p 1#2 m) s.actor m.toInt (v = BitVec.allOnes 64)
      ∧ Branches s (.bp p 2#2 m) s.actor m.toInt (v = 0#64) ∧ Branches s (.bp p 3#2 m) s.actor m.toInt (v ≠ BitVec.allOnes 64))
    ∧ (1 ≤ a.toNat → a.toNat ≤ 29 → ∀ c', s.actor.dest a (regOf s.actor a - 1#64) = some c' →
      Branches s (.dbnz a m) c' m.toInt (regOf s.actor a ≠ 1#64))
    ∧ (∀ w : BitVec 32,
      let major := (w.extractLsb' 26 6).toNat
      let x := (w.extractLsb' 21 5).toNat
      let y := (w.extractLsb' 16 5).toNat
      (0x0C ≤ major ∧ major ≤ 0x11 ∧ (x = 31 ∨ y = 31)) ∨ (major = 0x16 ∧ (x = 0 ∨ 30 ≤ x ∨ y ≠ 0)) →
      ∃ u, exec (wordInstr w) s = .next u ∧ Stopped u s.turn.core s.turn.ctx .illegal ∧ u.actor.faultx = w.setWidth 64)

/-- O13. Jumps (08 R178, R179): B, BAL with its link in a1, JR, JALR, which reads its target before it writes the link. A
transfer whose target has bit 0 or 1 set, or lies outside 0 to 2^52 − 1, raises ILLEGAL at itself: the context parks with
the target in FAULTX, and no link is written (02 R24, 08 R182). -/
def Obligations.JumpsAndBadTargets : Prop :=
  (∀ (s : State), ReadyA s →
    let pc := s.actor.pc
    let link : Word := BitVec.ofNat 64 (pc.toNat + 4)
    (∀ (m : BitVec 26) (t : BitVec 52), (t.toNat : Int) = pc.toNat + 4 * m.toInt → t.toNat % 4 = 0 →
      exec (.b m) s = .next (s.ends s.actor t)
      ∧ ∀ c, s.actor.dest 1#5 link = some c → exec (.bal m) s = .next (s.ends c t))
    ∧ (∀ (a d : BitVec 5) (x : Word) (c : Ctx), s.actor.source a = some (x, c) → x.toNat < 2 ^ 52 → x.toNat % 4 = 0 →
      exec (.jr a) s = .next (s.ends c (x.setWidth 52))
      ∧ ∀ c', c.dest d link = some c' → exec (.jalr d a) s = .next (s.ends c' (x.setWidth 52))))
  ∧ (∀ (s : State) (i : Instr) (t : Int), ReadyA s → (t < 0 ∨ 2 ^ 52 ≤ t ∨ t % 4 ≠ 0) →
    ((∃ m : BitVec 26, (i = .b m ∨ i = .bal m) ∧ t = s.actor.pc.toNat + 4 * m.toInt)
      ∨ ∃ a d x c, (i = .jr a ∨ i = .jalr d a) ∧ s.actor.source a = some (x, c) ∧ t = (x.toNat : Int)) →
    ∃ u, exec i s = .next u ∧ Stopped u s.turn.core s.turn.ctx .illegal ∧ u.actor.faulta = s.actor.pc
      ∧ u.actor.faultx = BitVec.ofInt 64 t ∧ u.actor.a = s.actor.a ∧ u.actor.q3 = s.actor.q3 ∧ u.mem = s.mem)

/-! ## Reset, hints, words that are no instruction -/

/-- O14. What reset leaves: PARTW (05 R84), tags, error bits and counts (06 R116), job records (10 R227), fill windows (06
R133), the arbiters of both halves (01 R17), POD_FENCE_TIMEOUT (12 R278), the ageing quantum (14 R332); memory in its
canonical form; no context runs. DEVIDX reads 0 as the model's choice (log 6). -/
def Obligations.ResetLeaves : Prop :=
  let s := State.reset
  s.mem.wf = true ∧ s.pftmo = 20 ∧ s.ageq = 10000 ∧ s.devidx = 0 ∧ s.procs = []
    ∧ (∀ n, (s.core n).partw = 0x4023#64 ∧ (s.core n).tagDone = BitVec.allOnes 64 ∧ (s.core n).tagErr = 0#64
      ∧ (s.core n).lastA = 3 ∧ (s.core n).lastE = 3 ∧ (s.core n).fwin = Vector.replicate 8 0#64 ∧ (s.core n).pool.wf = true
      ∧ (∀ k, (s.core n).tagCount k = 0) ∧ ∀ q, (s.core n).jobStatus q = some 4)
    ∧ (∀ p, (s.part p).valid = false)
    ∧ ∀ n k, (s.ctx n k).status = .free ∧ (s.ctx n k).flags = 0#6 ∧ (s.ctx n k).rmode = 0#3 ∧ (s.ctx n k).eq = []
      ∧ (s.ctx n k).q0 = [] ∧ (s.ctx n k).q1 = [] ∧ (s.ctx n k).q2 = [] ∧ (s.ctx n k).q3 = [] ∧ (s.ctx n k).outbox = []

/-- O15. A hint is fetched and waits for its instruction: it joins the group and the program counter moves on (01 R17, 02 R29,
R31); HSTALL also holds its instruction back for its clocks (08 R184). Nothing else changes. A hint word whose payload is not
allowed is fetched as well; its group faults later. -/
def Obligations.HintsWaitForTheirInstruction : Prop :=
  ∀ (s : State), s.actor.issues = true → s.turn.half = .A →
    let fetched := fun (i : Instr) => { s.actor with
      hints := s.actor.hints ++ [{ addr := s.actor.pc.toNat, word := encode i }]
      pc := s.actor.pc + 4#52, stallA := .none, waitA := none }
    (∀ i : Instr, ((∃ p, i = .himm p) ∨ (∃ r t p z o u b c e, i = .hmod r t p z o u b c e) ∨ (∃ x, i = .hbr x)
        ∨ ∃ w, i = .illegalWord w ∧ isHintWord w = true ∧ (kind4 w).toNat ≤ 3) →
      exec i s = .next (s.withActor (fetched i)))
    ∧ ∀ n, exec (.hstall n) s = .next (s.withActor { fetched (.hstall n) with heldTo := s.cyc + n.toNat, lost := false })

/-- O16. A word that is no instruction raises ILLEGAL with the word in FAULTX, in the half its major routes to; in USER code a
word that names ERET, PARK, CTXSAVE, CTXREST or FENCE of kind 3 raises PRIVILEGE (02 R40, R41; 15 R355). A hint group of one
hint too many raises ILLEGAL at its first hint, with the offending hint in FAULTX (02 R29, R30): at most two HIMMs and one
of each other kind, whatever their order. -/
def Obligations.WordsAndGroupsThatAreIllegal : Prop :=
  (∀ (s : State) (w : BitVec 32), ReadyE s → (isHintWord w && decide ((kind4 w).toNat ≤ 3)) = false →
    ∃ u, exec (.illegalWord w) s = .next u ∧ u.actor.faultx = w.setWidth 64 ∧ u.mem = s.mem
      ∧ Stopped u s.turn.core s.turn.ctx
        (if !routesToE w && namesSuper w && !s.actor.super then .privilege else .illegal)
      ∧ (if routesToE w then u.actor.faulte = s.actor.pc ∧ u.actor.faultc.extractLsb' 8 2 = 2#2
        else u.actor.faulta = s.actor.pc ∧ u.actor.faultc.extractLsb' 8 2 = 1#2))
  ∧ ((∀ (s : State) (t : Turn) (rest : List Act) (w x : BitVec 32) (ws : List (BitVec 32)) (u : State),
    s.agenda = .issue t :: rest → coreOk t.core = true → t.ctx < 4 → t.half = .A →
    let p : State := { s with agenda := rest, turn := t }
    ({ s with agenda := rest } : State).spent t = false →
    p.idle = .run → (p.cluster (t.core / 8)).idle = .run → ReadyA p → p.actor.takesInterrupt = false → p.actor.auto = false →
    p.actor.hangs = false → p.fetchWord t.core t.ctx p.actor.pc.toNat = .ok (w, u) → isHintWord w = true →
    p.scanHints t.core t.ctx (2 ^ 50) ((p.actor.pc.toNat + 4) % 2 ^ 52) [w] = .done ws → overLimit ws = some x →
    ∃ v, step s = .next v ∧ Stopped v t.core t.ctx .illegal ∧ (v.ctx t.core t.ctx).faulta = p.actor.pc
      ∧ (v.ctx t.core t.ctx).faultx = x.setWidth 64)
  ∧ ∀ (p q r : BitVec 22) (a b : BitVec 8) (x y : BitVec 2),
    overLimit [encode (.himm r), encode (.himm q), encode (.himm p)] = some (encode (.himm r))
      ∧ overLimit [encode (.himm q), encode (.himm p)] = none
      ∧ overLimit [encode (.hstall b), encode (.hstall a)] = some (encode (.hstall b))
      ∧ overLimit [encode (.hbr y), encode (.himm p), encode (.hbr x)] = some (encode (.hbr y))
      ∧ overLimit [encode (.hbr x), encode (.hstall a), encode (.himm q), encode (.himm p)] = none)

/-! ## System registers (02 R42, R43; 08 R168) -/

namespace Sys2Proof.Machine

/-- The registers of 02 R42 that are a field of the state as they stand, with their numbers. -/
def plainRegisters (s : State) : List (Nat × Word) :=
  let c := s.actor
  let k := s.core s.turn.core
  let p := s.self
  [(0, BitVec.ofNat 64 s.cyc), (1, BitVec.ofNat 64 s.time), (2, BitVec.ofNat 64 s.turn.core), (3, BitVec.ofNat 64 s.devidx),
    (4, BitVec.ofNat 64 p.name), (5, BitVec.ofNat 64 s.turn.ctx), (6, c.rmode.setWidth 64), (7, c.flags.setWidth 64)]
    ++ [(9, k.tagDone &&& p.tagm), (10, p.tagm), (11, k.partw), (12, p.weight.setWidth 64), (13, c.jobid.setWidth 64),
    (14, c.waittmo.setWidth 64), (15, p.ringw.setWidth 64), (16, p.ringn.setWidth 64), (21, p.hcnt), (22, k.fwin[0]), (29, k.fwin[7])]
    ++ [(30, c.faulta.setWidth 64), (31, c.faulte.setWidth 64), (32, c.faultc.setWidth 64), (33, c.faultx), (34, c.statusReg),
    (35, c.pvec.setWidth 64), (36, c.tvec.setWidth 64), (37, c.actbud), (40, p.pflags.setWidth 64), (41, k.samplep.setWidth 64),
    (43, c.epca), (44, c.epce.setWidth 64)]

/-- An instruction of the A half retires with the acting context left as `c`; nothing else changes. -/
def Leaves (s : State) (i : Instr) (c : Ctx) : Prop := exec i s = .next (s.ends4 c)

/-- The same after the state outside the context has become `t`. -/
def LeavesIn (s t : State) (i : Instr) (c : Ctx) : Prop := exec i s = .next (t.ends4 c)

end Sys2Proof.Machine

/-- O17. NOP; RDCYC and RDTIME; MFS of every register that the privilege may read, with the value the register stands for
(08 R168, R169; 02 R42). A read of TAGS is an acquire (06 R117). -/
def Obligations.SystemReads : Prop :=
  ∀ (s : State) (d : BitVec 5), ReadyA s →
    Leaves s .nop s.actor
      ∧ Gives s (.rdcyc d) s.actor d (BitVec.ofNat 64 s.cyc) ∧ Gives s (.rdtime d) s.actor d (BitVec.ofNat 64 s.time)
      ∧ (∀ x : BitVec 6, x.toNat < 45 → x ≠ 9#6 → (superOnly x.toNat = true → s.actor.super = true) →
        Gives s (.mfs d x) s.actor d (s.sysReg x.toNat))
      ∧ (∀ c', s.actor.dest d (s.sysReg 9) = some c' →
        LeavesIn s (s.learn s.agent (s.core s.turn.core).tagKnow) (.mfs d 9#6) c')
      ∧ ∀ e ∈ plainRegisters s, s.sysReg e.1 = e.2

/-- O18. MTS writes the registers that are RW at the privilege, and leaves the others as they are; an invalid RMODE raises ILLEGAL,
and so does a PARTW that leaves no scratchpad, that another process of the core stands against, or in which the process's own
places do not lie (08 R168, 02 R42, R43; 07 R159, R161; 05 R84-R86). -/
def Obligations.SystemWrites : Prop :=
  ∀ (s : State) (a : BitVec 5) (v : Word) (c : Ctx), ReadyA s → s.actor.source a = some (v, c) →
    let slot := s.activity.slot
    (v.toNat % 8 ≤ 4 → Leaves s (.mts a 6#6) { c with rmode := v.setWidth 3 })
      ∧ Leaves s (.mts a 7#6) { c with flags := v.setWidth 6 }
      ∧ Leaves s (.mts a 14#6) { c with waittmo := v.setWidth 32 }
      ∧ LeavesIn s (s.modProc slot fun p => { p with ringw := v.setWidth 14 }) (.mts a 15#6) c
      ∧ LeavesIn s (s.modProc slot fun p => { p with nbr := p.nbr.set 3 (v.setWidth 32) }) (.mts a 20#6) c
      ∧ LeavesIn s (s.modProc slot fun p => { p with hcnt := v }) (.mts a 21#6) c
      ∧ (s.actor.super = true →
        Leaves s (.mts a 30#6) { c with faulta := v.setWidth 52 } ∧ Leaves s (.mts a 32#6) { c with faultc := v.setWidth 10 }
        ∧ Leaves s (.mts a 33#6) { c with faultx := v } ∧ Leaves s (.mts a 36#6) { c with tvec := v.setWidth 52 }
        ∧ Leaves s (.mts a 37#6) { c with actbud := v } ∧ Leaves s (.mts a 44#6) { c with epce := v.setWidth 52 }
        ∧ LeavesIn s (s.modProc slot fun p => { p with tagm := v }) (.mts a 10#6) c
        ∧ (256 ≤ v.toNat % 65536 → v.toNat % 65536 ≤ 65280 →
          LeavesIn s (s.modProc slot fun p => { p with weight := v.setWidth 16 }) (.mts a 12#6) c)
        ∧ (let n := s.turn.core
          let acc := v.toNat / 16 % 4
          let valid := 4 * (v.toNat % 8 + 1) + (if acc = 0 then 0 else 4 * 2 ^ (acc - 1)) + v.toNat / 4096 % 16 ≤ 38
            ∧ (∀ e ∈ s.procs, e.1 ≠ slot → e.2.core = n → e.2.state ≠ .resident) ∧ s.self.fits (partwFields v) = true
          (valid → LeavesIn s (s.modCore n fun k => { k with partw := partwFields v }) (.mts a 11#6) c)
            ∧ (¬valid → ∃ u, exec (.mts a 11#6) s = .next u ∧ Stopped u n s.turn.ctx .illegal
              ∧ (u.core n).partw = (s.core n).partw)))
      ∧ (4 < v.toNat % 8 → ∃ u, exec (.mts a 6#6) s = .next u ∧ Stopped u s.turn.core s.turn.ctx .illegal
        ∧ u.actor.rmode = s.actor.rmode)
      ∧ (∀ x : BitVec 6, x ∈ [0#6, 1#6, 2#6, 3#6, 4#6, 5#6, 9#6, 13#6, 22#6, 29#6, 34#6, 38#6, 39#6, 42#6] → Leaves s (.mts a x) c)
      ∧ (s.actor.super = false → ∀ x : BitVec 6, x ∈ [10#6, 11#6, 12#6, 37#6, 40#6] → Leaves s (.mts a x) c)

/-- O19. A register that USER code has no access to, and SUPER instructions in USER code, raise PRIVILEGE with the word in
FAULTX; nothing is written (02 R41, R42). -/
def Obligations.UserCodeMeetsPrivilege : Prop :=
  ∀ (s : State) (i : Instr), ReadyA s → s.actor.super = false →
    (i = .eret ∨ i = .ctxsave ∨ i = .ctxrest ∨ (∃ x, i = .park x) ∨ (∃ k, i = .fence 3#2 k)
      ∨ ∃ r x, (i = .mfs r x ∨ i = .mts r x) ∧ superOnly x.toNat = true) →
    ∃ u, exec i s = .next u ∧ Stopped u s.turn.core s.turn.ctx .privilege ∧ u.actor.faulta = s.actor.pc
      ∧ u.actor.faultx = (encode i).setWidth 64 ∧ u.actor.a = s.actor.a ∧ u.actor.epca = s.actor.epca
      ∧ u.actor.super = false ∧ u.mem = s.mem

/-! ## Vectored routines (15 R363-R368) -/

namespace Sys2Proof.Machine

/-- The registers a program computes with are the same in two contexts. -/
def Ctx.sameWork (c d : Ctx) : Prop :=
  c.a = d.a ∧ c.z = d.z ∧ c.p = d.p ∧ c.q0 = d.q0 ∧ c.q1 = d.q1 ∧ c.q2 = d.q2 ∧ c.q3 = d.q3 ∧ c.flags = d.flags
    ∧ c.rmode = d.rmode ∧ c.waittmo = d.waittmo ∧ c.statusReg = d.statusReg ∧ c.jobid = d.jobid ∧ c.actbud = d.actbud
    ∧ c.outbox = d.outbox ∧ c.eq = d.eq

/-- A context in a vectored routine can issue, as SUPER. -/
def InRoutine (s : State) : Prop := ReadyA s ∧ s.actor.super = true ∧ s.actor.routine = true

end Sys2Proof.Machine

/-- O20. TRAP (15 R363): through TVEC it enters the routine as SUPER, with EPCA and EPCE saved; without a vector the context
parks with TRAP after the instruction; in a routine, or with a vector whose bits 1:0 are not 0, it raises ILLEGAL (02 R24).
ERET returns to EPCA.PC with the privilege of PRV, the E half at EPCE, and PARK 0 parks at the addresses EPCA and EPCE hold
with TRAP and the trap code (15 R364, R367). -/
def Obligations.RoutinesAreEnteredAndLeft : Prop :=
  (∀ (s : State) (x : BitVec 6), ReadyA s →
    let next := s.actor.pc + 4#52
    let retired := fun (c : Ctx) => (s.withActor c).count s.activity.part 2 1
    (s.actor.routine = false → s.actor.tvec ≠ 0#52 → s.actor.tvec.toNat % 4 = 0 → ∃ c, exec (.trap x) s = .next (retired c)
      ∧ c.pc = s.actor.tvec ∧ c.super = true ∧ c.routine = true ∧ c.epce = next ∧ c.epca.extractLsb' 0 52 = next
      ∧ c.epca.extractLsb' 52 6 = x ∧ c.epca.getLsbD 63 = s.actor.super ∧ c.epca.getLsbD 62 = false ∧ c.epca.getLsbD 61 = false
      ∧ c.status = .running ∧ c.sameWork s.actor)
    ∧ (s.actor.routine = false → s.actor.tvec.toNat % 4 ≠ 0 → ∃ u, exec (.trap x) s = .next u
      ∧ Stopped u s.turn.core s.turn.ctx .illegal ∧ u.actor.faulta = s.actor.pc ∧ u.actor.faultx = s.actor.tvec.setWidth 64 ∧ u.mem = s.mem)
    ∧ (s.actor.routine = false → s.actor.tvec = 0#52 → ∃ u, exec (.trap x) s = .next u ∧ Stopped u s.turn.core s.turn.ctx .trap
      ∧ u.actor.faulta = next ∧ u.actor.faulte = next ∧ u.actor.faultx = x.setWidth 64 ∧ u.actor.sameWork s.actor ∧ u.mem = s.mem)
    ∧ (s.actor.routine = true → ∃ u, exec (.trap x) s = .next u ∧ Stopped u s.turn.core s.turn.ctx .illegal
      ∧ u.actor.faulta = s.actor.pc ∧ u.mem = s.mem))
  ∧ (∀ (s : State), InRoutine s →
    ((s.actor.epca.extractLsb' 0 52).toNat % 4 = 0 → s.actor.epce.toNat % 4 = 0 →
      ∃ c, exec .eret s = .next ((s.withActor c).count s.activity.part 2 1)
      ∧ c.pc = s.actor.epca.extractLsb' 0 52 ∧ c.super = s.actor.epca.getLsbD 63 ∧ c.routine = false ∧ c.status = .running
      ∧ c.sameWork s.actor)
    ∧ ((s.actor.epca.extractLsb' 0 52).toNat % 4 ≠ 0 ∨ s.actor.epce.toNat % 4 ≠ 0 → ∃ u, exec .eret s = .next u ∧ Stopped u s.turn.core s.turn.ctx .illegal)
    ∧ (∃ u, exec (.park 0#6) s = .next u ∧ Stopped u s.turn.core s.turn.ctx .trap
      ∧ u.actor.faulta = s.actor.epca.extractLsb' 0 52 ∧ u.actor.faulte = s.actor.epce
      ∧ u.actor.faultx = (s.actor.epca.extractLsb' 52 6).setWidth 64 ∧ u.actor.sameWork s.actor ∧ u.mem = s.mem)
    ∧ (s.actor.saved = true → ∃ u, exec (.park 1#6) s = .next u ∧ u.actor.status = .free
      ∧ (∃ d, look (u.image s.turn.core).ctxs s.turn.ctx = some d ∧ d.sameWork s.actor) ∧ u.mem = s.mem)
    ∧ (s.actor.saved = false → ∃ u, exec (.park 1#6) s = .next u ∧ Stopped u s.turn.core s.turn.ctx .illegal))

/-- O21. CTXSAVE writes the save area of the context, and CTXREST reads it back (15 R367, R368): what it reads after a save
is what was saved, with PVEC and TVEC from the partition record. The places of the 16 entries of a queue are the model's
(log 26). -/
def Obligations.SaveAreasReadBack : Prop :=
  ∀ (s : State), InRoutine s →
    let base := 0xC800 + s.turn.ctx * 0xE00
    let part := s.part s.activity.part
    let read := s.actor.loadArea (readBytes (s.core s.turn.core).pool base 0xE00) (BitVec.ofNat 52 part.vecp) (BitVec.ofNat 52 part.vect)
    let saved : State := s.modCore s.turn.core fun c => { c with pool := writeBytes c.pool base s.actor.saveArea }
    ((∀ e ∈ s.actor.q0, e.awaits = false) → s.actor.podFence = none → s.actor.sent = [] →
      exec .ctxsave s = .next (saved.ends4 { s.actor with saved := true }))
    ∧ exec .ctxrest s = .next (s.ends4 read)
    ∧ (s.turn.ctx < 4 → s.actor.saveArea.length = 0xE00
      ∧ (∀ o, o < base ∨ base + 0xE00 ≤ o →
        readByte (saved.core s.turn.core).pool o = readByte (s.core s.turn.core).pool o)
      ∧ read.pvec = BitVec.ofNat 52 part.vecp ∧ read.tvec = BitVec.ofNat 52 part.vect
      ∧ ∀ d : Ctx, readBytes (s.core s.turn.core).pool base 0xE00 = d.saveArea →
        d.q0.length ≤ 16 → d.q1.length ≤ 16 → d.q2.length ≤ 8 → d.q3.length ≤ 8 → d.eq.length ≤ 8 →
        (∀ k : Nat, 1 ≤ k → k < 30 → read.a[k]? = d.a[k]?) ∧ (∀ k : Nat, 1 ≤ k → k < 8 → read.p[k]? = d.p[k]?)
          ∧ (∀ k : Nat, k < 30 → read.z[k]? = d.z[k]?) ∧ read.epca = d.epca ∧ read.epce = d.epce ∧ read.actbud = d.actbud
          ∧ read.statusReg = d.statusReg ∧ read.flags = d.flags ∧ read.rmode = d.rmode ∧ read.waittmo = d.waittmo
          ∧ read.jobid = d.jobid ∧ read.sealed = d.sealed ∧ read.q2 = d.q2 ∧ read.q3 = d.q3)

/-! ## Elements, loads and stores (05 R98-R108) -/

namespace Sys2Proof.Machine

/-- The value a load gives: types 8, 10 and 12 (S8, S16, S32) sign-extend, the others zero-extend (05 R102). -/
def loadedValue (ty : Nat) (bs : List Byte) : Word :=
  if ty = 8 then (BitVec.ofNat 8 (natOfBytes bs)).signExtend 64
  else if ty = 10 then (BitVec.ofNat 16 (natOfBytes bs)).signExtend 64
  else if ty = 12 then (BitVec.ofNat 32 (natOfBytes bs)).signExtend 64
  else BitVec.ofNat 64 (natOfBytes bs)

/-- The operands of an access to an element of a local layout: the entry, which the access may use, and the element its
coordinates name. -/
structure ElementAt (s : State) (i : Instr) (c : BitVec 5) (L : BitVec 8) (t : BitVec 4) (e : BitVec 512) (o : ElemOff) : Prop where
  entry : useLayout L.toNat s = .ok (e, s)
  coords : ∃ cs, coordsAt i c (layRank e) s = .ok (cs, s) ∧ elemOffset e cs s = .ok (o, s)
  type : layType e = t.toNat
  plain : layRed e = false
  here : laySpace e ≠ 1

/-- A load of that element: where its bytes lie, and the bytes, read from the pool or HBM; `u` is the state after. -/
structure LoadAt (s : State) (L : BitVec 8) (t : BitVec 4) (acq ro : Bool) (e : BitVec 512) (o : ElemOff) (ls : List Loc)
    (bs : List Byte) (u : State) : Prop where
  cached : ro = true → laySpace e = 0 ∨ laySpace e = 4 ∨ laySpace e = 5
  found : ∃ v w, elemReadPlaces { s.client 0 with plain := !acq } L.toNat e ro o s = .ok (ls, v)
    ∧ (if acq then scopeM ls (wrapTo 52 (o.addr e)) 5 else pure ()) v = .ok ((), w)
    ∧ loadLocs { s.client 0 with plain := !acq } t.toNat ls w = .ok (bs, u)
  memory : ∀ a rest, ls = .phys a :: rest → inHbm a = true

/-- A load retires: the value goes to a register or q2; field 31 fills one q0 entry, which awaits its data where the
element lies in HBM. -/
def Loads (s u : State) (i : Instr) (d : BitVec 5) (t : BitVec 4) (ls : List Loc) (bs : List Byte) : Prop :=
  (∀ c', u.actor.dest d (loadedValue t.toNat bs) = some c' → (d = 30#5 → s.actor.q2.length < 8) → exec i s = .next (u.ends4 c'))
    ∧ (d = 31#5 → s.actor.q0.length < 16 →
      let far := match ls with
        | .phys _ :: _ => true
        | _ => false
      exec i s = .next (u.ends4 { u.actor with
        q0 := u.actor.q0 ++ [{ data := BitVec.ofNat 512 (natOfBytes bs), tag := tagOf t.toNat, awaits := far }] }))

end Sys2Proof.Machine

/-- O22. The element address (05 R101) for coordinates within the layout's dimensions is the sum of coordinate times stride;
outside them FAULT raises LAYOUT with the dimension and coordinate in FAULTX, ZERO names nothing, CLAMP takes the nearest
element, and nothing where the dimension is empty. -/
def Obligations.ElementAddresses : Prop :=
  ∀ (s : State) (e : BitVec 512) (c : Int) (cs : List Int) (i : Nat) (off : Int) (cl : Bool),
    (∀ ds, ds.length ≤ layRank e → (∀ k, k < ds.length → 0 ≤ ds.getD k 0 ∧ ds.getD k 0 < ((layDim e k : Nat) : Int)) →
      elemOffset e ds s
        = .ok (.elem (((List.range ds.length).map fun k => ds.getD k 0 * layStride e k).sum) false, s))
    ∧ (¬(0 ≤ c ∧ c < ((layDim e i : Nat) : Int)) →
      (layOor e = 0 → i < 4 →
        ∃ x : Word, elemOffsetFrom e i (c :: cs) off cl s = .error (.fault .layout x 0#64)
          ∧ x.extractLsb' 60 4 = BitVec.ofNat 4 i ∧ x.extractLsb' 0 60 = (BitVec.ofInt 60 c))
      ∧ (layOor e = 1 → elemOffsetFrom e i (c :: cs) off cl s = .ok (.zero, s))
      ∧ (layOor e = 2 → layDim e i = 0 → elemOffsetFrom e i (c :: cs) off cl s = .ok (.zero, s))
      ∧ (layOor e = 2 → layDim e i ≠ 0 → elemOffsetFrom e i (c :: cs) off cl s
        = elemOffsetFrom e (i + 1) cs (off + (if c < 0 then 0 else ((layDim e i : Nat) : Int) - 1) * layStride e i) true s))

/-- O23. LD, LD.acq and LDRO of an element in HBM or a pool give its bytes, extended by its type (05 R102-R104, 02 R32). That LD.acq of a
layout with ROP reads past the read-only cache is the model's choice (log 67). -/
def Obligations.LoadsGiveTheElement : Prop :=
  ∀ (s : State) (d c : BitVec 5) (L : BitVec 8) (t : BitVec 4) (e : BitVec 512) (o : ElemOff) (ls : List Loc) (bs : List Byte)
    (u : State), ReadyA s →
    (∀ q : BitVec 1, ElementAt s (.ld d c L t q) c L t e o →
      LoadAt s L t (q == 1#1) (layRop e && !(q == 1#1)) e o ls bs u → Loads s u (.ld d c L t q) d t ls bs)
    ∧ (ElementAt s (.ldro d c L t) c L t e o → LoadAt s L t false true e o ls bs u → Loads s u (.ldro d c L t) d t ls bs)

/-- O24. ST and ST.rel to an element in HBM or a pool store the low bytes of their data at the element's places, computed
after the data is taken; the data is a register, q3, or lane 0 of the entry popped from q1 (05 R102, R103; 02 R32, R35).
ST.rel at DEVICE scope is checked against the line's record (11 R248). -/
def Obligations.StoresPutTheElement : Prop :=
  ∀ (s : State) (d c : BitVec 5) (L : BitVec 8) (t : BitVec 4) (r : BitVec 1) (e : BitVec 512) (o : ElemOff) (v : Nat)
    (s1 s2 s3 u : State) (ls : List Loc), ReadyA s → ElementAt s (.st d c L t r) c L t e o →
    storeData d t.toNat s = .ok (v, s1) →
    elemWritePlaces (s1.client 0) L.toNat e o s1 = .ok (ls, s2) →
    (if r = 1#1 then scopeM ls (wrapTo 52 (o.addr e)) 5 else pure ()) s2 = .ok ((), s3) →
    (∀ a rest, ls = .phys a :: rest → inHbm a = true) →
    storeLocs (s1.client 0) t.toNat ls (bytesOfNat (typeBytes t.toNat) v) s3 = .ok ((), u) →
    LeavesIn s u (.st d c L t r) u.actor
      ∧ (∀ x c', s.actor.source d = some (x, c') → d ≠ 31#5 → v = x.toNat % 2 ^ typeBits t.toNat)
      ∧ (∀ x q, s.actor.q1 = x :: q → d = 31#5 → x.tag = tagOf t.toNat → v = x.data.toNat % 2 ^ typeBits t.toNat ∧ s1.actor.q1 = q)

/-- O25. What a write of bytes to HBM changes in memory: the bytes themselves, but for the 8-byte words that lose against a
concurrent store of a higher agent (11 R243), and bits of the dirty bitmap of the partition that owns the range (03 R60).
Every other byte reads as before. No checkpoint session is open. -/
def Obligations.WritesReachTheirBytesOnly : Prop :=
  ∀ (s : State) (w : Writer) (a : Nat) (bs : List Byte), s.ckpts = [] → bs ≠ [] →
    let t := s.write w a bs
    let dirt := fun (x : Nat) => ∃ y p, (a ≤ y ∧ y < a + bs.length) ∧ s.ownerOf y = some p
      ∧ x = (s.part p).dirty + (y - (s.part p).mbase) / 65536 / 8
    (∀ x, x < a ∨ a + bs.length ≤ x → ¬dirt x → readByte t.mem x = readByte s.mem x)
      ∧ (∀ k, k < bs.length → ¬dirt (a + k) →
        readByte t.mem (a + k) = if s.loses w ((a + k) / 8) = true then readByte s.mem (a + k)
          else bs.getD k 0#8)
      ∧ (s.mem.wf = true → t.mem.wf = true)

/-- O26. What a read of memory and a read and a write of a core's pool give (05 R88-R90): a byte of a tagged granule
without a valid tag reads zero; a write sets the bytes, the tags of the tagged granules it touches, and zeroes the rest of
such a granule; every other byte of the pool reads as before, and memory does not change. -/
def Obligations.PoolBytesAndTags : Prop :=
  ∀ (s : State) (n o : Nat) (bs : List Byte) (ty : Nat) (k : Know), bs ≠ [] →
    let t := s.poolWrite n o bs ty k
    (∀ x, s.tagged n x = true → tagValid ((s.core n).tag (x / 64)) = false → s.poolByte n x = 0#8)
      ∧ (∀ x, s.tagged n x = false → s.poolByte n x = readByte (s.core n).pool x)
      ∧ (∀ j, j < bs.length → s.tagged n (o + j) = s.tagged n ((o + j) / 64 * 64) → t.poolByte n (o + j) = bs.getD j 0#8)
      ∧ (∀ x, x < o ∨ o + bs.length ≤ x → s.tagged n x = s.tagged n (x / 64 * 64) → t.poolByte n x = s.poolByte n x)
      ∧ (∀ g, g ∈ granulesOf o bs.length → s.tagged n (g * 64) = true → (t.core n).tag g = tagOf ty)
      ∧ t.mem = s.mem ∧ ∀ m, m ≠ n → t.poolByte m = s.poolByte m

/-- O27. LDQ and STQ (05 R105, R106): a transfer that finds room, or its entries, runs to its end; LDQ adds one q0 entry for each
strip, with the tag of the layout's type, behind those there; one of a pool has its data at once. -/
def Obligations.BoxesMoveThroughTheQueues : Prop :=
  ∀ (s : State) (c : BitVec 5) (b : Box) (u : State), ReadyA s → readBox c s = .ok (b, s) → queueBox b s = .ok ((), s) →
    boxInRange b s = .ok ((), s) → laySpace b.entry ≠ 1 → (laySpace b.entry = 4 ∨ laySpace b.entry = 5 → s.hostReqs = []) →
    (∀ codes, s.actor.q0.length + b.strips ≤ 16 → (rangeFrom 0 b.count).mapM (boxElem (s.client 0) b) s = .ok (codes, u) →
      let far := laySpace b.entry != 2 && laySpace b.entry != 3
      let es := (stripsOf (layType b.entry) codes).map fun x => ({ data := x, tag := tagOf (layType b.entry), awaits := far } : QEntry)
      LeavesIn s u (.ldq c) { u.actor with q0 := u.actor.q0 ++ es } ∧ es.length = b.strips)
    ∧ (b.strips ≤ s.actor.q1.length →
      ((rangeFrom 0 b.strips).forM fun j => do
        let x ← popQ1 (layType b.entry)
        stqStrip (s.client 0) b x j) s = .ok ((), u) → LeavesIn s u (.stq c) u.actor)

/-- O28. The layout table (05 R100, R107): LAYSET writes the entry the eight registers hold unless it is malformed; LAYGET writes
the eight words of an entry; an id's bits 63:8 are ignored. LAYSUB writes the box's layout, its base moved to the box's
start and its dimensions the extents, under an unbound id (05 R107), for a type of whole bytes in a memory space; PREF
always retires, and does nothing outside the spaces it caches (05 R104, R108). -/
def Obligations.LayoutsAndSubLayouts : Prop :=
  (∀ (s : State) (i b : BitVec 5) (w : Word) (c : Ctx), ReadyA s → s.actor.source i = some (w, c) → b.toNat + 8 ≤ 30 →
    let slot := s.activity.slot
    let l := w.toNat % 256
    let e : BitVec 512 := BitVec.ofNat 512 (((List.range 8).map fun k =>
      (regOf c (BitVec.ofNat 5 (b.toNat + k))).toNat * 2 ^ (64 * k)).sum)
    (layMalformed (decide (l < 16)) e = false →
      LeavesIn s (s.modProc slot fun p => { p with layouts := put p.layouts l e }) (.layset i b) c)
    ∧ (layMalformed (decide (l < 16)) e = true → ∃ u, exec (.layset i b) s = .next u ∧ Stopped u s.turn.core s.turn.ctx .illegal)
    ∧ (∃ c', Leaves s (.layget b i) c' ∧ (∀ k, k < 8 → b.toNat + k ≠ 0 →
        regOf c' (BitVec.ofNat 5 (b.toNat + k)) = ((s.self.layout l).extractLsb' (64 * k) 64))
      ∧ (∀ k : Nat, k < b.toNat ∨ b.toNat + 8 ≤ k → c'.a[k]? = c.a[k]?) ∧ c'.q2 = c.q2 ∧ c'.q3 = c.q3))
  ∧ (∀ (s : State) (i b : BitVec 5) (w : Word) (c : Ctx) (x : Box) (r : BitVec 1), ReadyA s → s.actor.source i = some (w, c) →
    readBox b (s.withActor c) = .ok (x, s.withActor c) →
    let e := x.entry
    (16 ≤ w.toNat % 256 → 16 ≤ x.lid → isSix (layType e) = false → isBlock (layType e) = false →
      laySpace e ≠ 2 → laySpace e ≠ 3 →
      (∀ k, k < layRank e → x.start.getD k 0 + x.ext.getD k 0 ≤ layDim e k) →
      ∃ e', LeavesIn s (s.modProc s.activity.slot fun p => { p with layouts := put p.layouts (w.toNat % 256) e' }) (.laysub i b) c
        ∧ (∀ k, k < layRank e → layDim e' k = x.ext.getD k 0 % 2 ^ 32 ∧ layStride e' k = layStride e k)
        ∧ ((layVbase e' : Int) = ((layVbase e : Int) + elemSize e
          * (((List.range (layRank e)).map fun k => (x.start.getD k 0 : Int) * layStride e k).sum)) % 2 ^ 52)
        ∧ layType e' = layType e ∧ laySpace e' = laySpace e)
    ∧ (readBox b s = .ok (x, s) → (∃ u, LeavesIn s u (.pref b r) u.actor)
      ∧ (laySpace e ≠ 0 → r = 0#1 ∨ (laySpace e ≠ 4 ∧ laySpace e ≠ 5) → Leaves s (.pref b r) s.actor)))

/-! ## Atomics and WAITA (11 R257-R262, R426) -/

namespace Sys2Proof.Machine

/-- The instruction of the ATOM major with an operation code of 02 R38. -/
def atomInstr (op : Nat) (d c : BitVec 5) (L : BitVec 8) (r q : BitVec 1) : Instr :=
  match op with
  | 0 => .aadd d c L r q
  | 1 => .aand d c L r q
  | 2 => .aor d c L r q
  | 3 => .axor d c L r q
  | 4 => .amin d c L r q
  | 5 => .amax d c L r q
  | 6 => .aminn d c L r q
  | 7 => .amaxn d c L r q
  | 8 => .aswap d c L r q
  | 9 => .acas d c L r q
  | 10 => .afadd d c L r q
  | _ => .waita d c L q

/-- An atomic's word, which it may use: the entry, the element, its alignment; `v` and `cmp` are the operands as the
registers hold them, and `s1` the state after they are read. -/
structure AtomAt (s : State) (i : Instr) (op : Nat) (d c : BitVec 5) (L : BitVec 8) (e : BitVec 512) (off : Int)
    (v cmp : Word) (s1 : State) : Prop where
  entry : useLayout L.toNat s = .ok (e, s)
  coords : ∃ cs, coordsAt i c (layRank e) s = .ok (cs, s) ∧ elemOffset e cs s = .ok (.elem off false, s)
  type : atomicType op (layType e) = true
  plain : layRed e = false
  space : laySpace e = 0 ∨ laySpace e = 2
  right : layRat e = true
  aligned : ((elemAddrs e off).headD 0).emod (typeBytes (layType e)) = 0
  first : readA d s = .ok (v, s1)
  second : (op = 9 → regAt d 1 s1 = .ok (cmp, s1)) ∧ (op ≠ 9 → cmp = 0#64)

/-- The operation as the home or the controller takes it. -/
def atomOpOf (s1 : State) (op ty : Nat) (v cmp : Word) : AtomicOp :=
  { op := op, ty := ty, v := v.toNat % 2 ^ typeBits ty, cmp := cmp.toNat % 2 ^ typeBits ty, tmo := s1.actor.waittmo.toNat }

/-- An atomic that was performed retires with the old value in `d`, and ACAS and WAITA with their status. -/
def AtomGives (s u : State) (i : Instr) (op : Nat) (d : BitVec 5) (ty old st : Nat) : Prop :=
  ∀ c', u.actor.dest d (if ty = 12 then (BitVec.ofNat 32 old).signExtend 64 else BitVec.ofNat 64 old) = some c' →
    LeavesIn s u i (if op = 9 ∨ op = 11 then { c' with statusReg := BitVec.ofNat 64 st } else c')

end Sys2Proof.Machine

/-- O29. The atomics' arithmetic (11 R258-R260): the types of each operation; the new value and the status of each for every type it
takes; WAITA writes nothing. -/
def Obligations.AtomicArithmetic : Prop :=
  (∀ (x y z : BitVec 32) (ty : Nat), ty = 12 ∨ ty = 13 →
    atomicNew 0 ty x.toNat y.toNat z.toNat = (some (x + y).toNat, 0)
      ∧ atomicNew 1 ty x.toNat y.toNat z.toNat = (some (x &&& y).toNat, 0)
      ∧ atomicNew 2 ty x.toNat y.toNat z.toNat = (some (x ||| y).toNat, 0)
      ∧ atomicNew 3 ty x.toNat y.toNat z.toNat = (some (x ^^^ y).toNat, 0)
      ∧ atomicNew 4 ty x.toNat y.toNat z.toNat = (some (if y.toInt < x.toInt then y else x).toNat, 0)
      ∧ atomicNew 5 ty x.toNat y.toNat z.toNat = (some (if x.toInt < y.toInt then y else x).toNat, 0)
      ∧ atomicNew 6 ty x.toNat y.toNat z.toNat = (some (if y.toNat < x.toNat then y else x).toNat, 0)
      ∧ atomicNew 7 ty x.toNat y.toNat z.toNat = (some (if x.toNat < y.toNat then y else x).toNat, 0)
      ∧ atomicNew 8 ty x.toNat y.toNat z.toNat = (some y.toNat, 0)
      ∧ atomicNew 9 ty x.toNat y.toNat z.toNat = if x = y then (some z.toNat, 1) else (none, 0))
    ∧ (∀ (x y z : Word) (ty : Nat), ty = 14 ∨ ty = 15 →
      atomicNew 0 ty x.toNat y.toNat z.toNat = (some (x + y).toNat, 0)
        ∧ atomicNew 1 ty x.toNat y.toNat z.toNat = (some (x &&& y).toNat, 0)
        ∧ atomicNew 2 ty x.toNat y.toNat z.toNat = (some (x ||| y).toNat, 0)
        ∧ atomicNew 3 ty x.toNat y.toNat z.toNat = (some (x ^^^ y).toNat, 0)
        ∧ atomicNew 4 ty x.toNat y.toNat z.toNat = (some (if y.toInt < x.toInt then y else x).toNat, 0)
        ∧ atomicNew 5 ty x.toNat y.toNat z.toNat = (some (if x.toInt < y.toInt then y else x).toNat, 0)
        ∧ atomicNew 6 ty x.toNat y.toNat z.toNat = (some (if y.toNat < x.toNat then y else x).toNat, 0)
        ∧ atomicNew 7 ty x.toNat y.toNat z.toNat = (some (if x.toNat < y.toNat then y else x).toNat, 0)
        ∧ atomicNew 8 ty x.toNat y.toNat z.toNat = (some y.toNat, 0)
        ∧ atomicNew 9 ty x.toNat y.toNat z.toNat = if x = y then (some z.toNat, 1) else (none, 0))
    ∧ (∀ x y z : BitVec 32, atomicNew 8 0 x.toNat y.toNat z.toNat = (some y.toNat, 0)
      ∧ atomicNew 9 0 x.toNat y.toNat z.toNat = if x = y then (some z.toNat, 1) else (none, 0))
    ∧ (∀ (ty x y z : Nat), ty ≤ 2 →
      let sum := addVal 0 (decodeVal ty x) (decodeVal ty y)
      ((∃ b, decodeVal ty x = .nan b ∨ decodeVal ty y = .nan b) → atomicNew 10 ty x y z = (some (canonNan ty), 0))
        ∧ (sum.isZero = true → atomicNew 10 ty x y z = (some 0, 0))
        ∧ (sum.isZero = false → atomicNew 10 ty x y z = (some (encodeFloat ty 0 false sum).1, 0)))
    ∧ (∀ (x : AtomicOp) (old : Nat), x.op = 11 → x.writes old = false)
    ∧ ∀ op ty : Nat, op ≤ 11 → ty < 16 → (atomicType op ty = true ↔
      ((op ≠ 10 ∧ 12 ≤ ty) ∨ (8 ≤ op ∧ op ≠ 10 ∧ ty = 0) ∨ (op = 10 ∧ ty ≤ 2)))

/-- O30. The atomics and WAITA on a word of a pool, performed by the controller of its core (11 R257, R426), while no fill window
holds the word (06 R134) and the die may send to the word's (11 R242). One that writes is logged, or makes the activation
unrollable (15 R370, R371). WAITA on an equal value with room in the watch table waits, and is not stated here. The atomics
and WAITA on a word of HBM, performed at its home slice after the scope check at DEVICE scope (11 R244, R248, R257). WAITA
at its home (11 R261): a value that differs replies at once with status 0; an equal one is watched while the slice's table
of 32 has room, and its watch stands behind those there; with 32 watches it replies with 1. No byte of memory changes. The
controller of a core does likewise with a table of 16 (11 R426). -/
def Obligations.AtomicsAndWaita : Prop :=
  (∀ (s : State) (op : Nat) (d c : BitVec 5) (L : BitVec 8) (r q : BitVec 1) (e : BitVec 512) (off : Int) (v cmp : Word)
    (s1 s2 u : State) (n o old st : Nat) (rest : List Loc), op ≤ 11 → ReadyA s →
    AtomAt s (atomInstr op d c L r q) op d c L e off v cmp s1 →
    placesOf (s1.client 0) L.toNat e 3 false (elemAddrs e off) s1 = .ok (.pool n o :: rest, s2) →
    let w := typeBytes (layType e)
    let x := atomOpOf s1 op (layType e) v cmp
    s1.readTagFault n o w (layType e) = none → (n = s.turn.core → s1.fillHold n s1.self o w = .free) →
    s1.crossBusy s1.issuer.die (dieOf (n / 8)) = false →
    let t := if x.writes (natOfBytes (s1.poolBytes n o w)) = false then s2
      else if n = s.turn.core then s2.logUndo o w else s2.setUnroll
    t.atomicPad t.issuer n o x = (.reply old st, u) →
    AtomGives s u (atomInstr op d c L r q) op d (layType e) old st ∧ old = natOfBytes (t.poolBytes n o w))
  ∧ (∀ (s : State) (op : Nat) (d c : BitVec 5) (L : BitVec 8) (r q : BitVec 1) (e : BitVec 512) (off : Int) (v cmp : Word)
    (s1 s2 s3 u : State) (a old st : Nat) (rest : List Loc), op ≤ 11 → ReadyA s →
    AtomAt s (atomInstr op d c L r q) op d c L e off v cmp s1 →
    placesOf (s1.client 0) L.toNat e 3 false (elemAddrs e off) s1 = .ok (.phys a :: rest, s2) →
    scopeM (.phys a :: rest) (wrapTo 52 ((elemAddrs e off).headD 0)) 5 s2 = .ok ((), s3) → s3.stageFull a = false →
    s3.crossFull s3.issuer.die a = false →
    s3.atomicAt s3.issuer a (atomOpOf s1 op (layType e) v cmp) = (.reply old st, u) →
    let x := atomOpOf s1 op (layType e) v cmp
    let w := typeBytes (layType e)
    AtomGives s (if x.writes (readNat s3.mem a w) then u.setUnroll else u)
      (atomInstr op d c L r q) op d (layType e) old st
      ∧ old = readNat s3.mem a w)
  ∧ (∀ (s : State) (i : Issuer) (a n o : Nat) (x : AtomicOp), x.op = 11 →
    let w := typeBytes x.ty
    let h := homeOf a
    let here := s.atomicAt i a x
    let pad := s.atomicPad i n o x
    here.2.mem = s.mem ∧ pad.2.mem = s.mem
      ∧ (readNat s.mem a w ≠ x.v → here.1 = .reply (readNat s.mem a w) 0)
      ∧ (readNat s.mem a w = x.v → (s.sliceAt h).watches.length < 32 → here.1 = .watch
        ∧ ∃ k, k.core = i.core ∧ k.ctx = i.ctx ∧ k.addr = a ∧ k.width = w ∧ k.tmo = x.tmo
          ∧ (here.2.sliceAt h).watches = (s.sliceAt h).watches ++ [k])
      ∧ (readNat s.mem a w = x.v → 32 ≤ (s.sliceAt h).watches.length → here.1 = .reply x.v 1)
      ∧ (natOfBytes (s.poolBytes n o w) ≠ x.v → pad.1 = .reply (natOfBytes (s.poolBytes n o w)) 0)
      ∧ (natOfBytes (s.poolBytes n o w) = x.v → (s.core n).watches.length < 16 → pad.1 = .watch
        ∧ ∃ k, k.core = i.core ∧ k.ctx = i.ctx ∧ k.addr = o ∧ k.tmo = x.tmo
          ∧ (pad.2.core n).watches = (s.core n).watches ++ [k])
      ∧ (natOfBytes (s.poolBytes n o w) = x.v → 16 ≤ (s.core n).watches.length → pad.1 = .reply x.v 1))

/-! ## Fences (11 R253-R256) -/

/-- O31. FENCE, QFENCE and ROSYNC. A fence of acquire kind, or at a scope up to DEVICE, retires at once on this in-order core
(11 R245, R253); at POD and SYSTEM it retires when no remote store is uncounted and no store to HOST is out, and else sends
count markers and waits (12 R274); fence.ckpt, at DEVICE scope in SUPER code, takes a cut (22 R401), and only orders without a
session (log 20). QFENCE places its entry (11 R255); ROSYNC empties the
read-only cache (11 R256). -/
def Obligations.FencesOrder : Prop :=
  ∀ (s : State), ReadyA s →
    (∀ k, k ≠ 0#3 → Leaves s (.fence 1#2 k) s.actor)
    ∧ (∀ (f : BitVec 2) (k : BitVec 3), k ≠ 0#3 → f = 0#2 ∨ f = 2#2 →
      (k.toNat < 6 ∨ ((k = 7#3 → s.hostStoresOut s.turn.core s.turn.ctx = false) ∧ s.actor.podFence = none ∧ s.actor.sent = []) →
        Leaves s (.fence f k) s.actor)
      ∧ (k = 6#3 → s.actor.podFence = none → s.actor.sent ≠ [] → ∃ u, exec (.fence f k) s = .next u ∧ u.actor.podFence ≠ none
        ∧ u.actor.pc = s.actor.pc ∧ u.inject.length = s.inject.length + 4 * s.actor.sent.length ∧ u.mem = s.mem))
    ∧ (s.actor.super = true → s.cutting s.activity.part = false →
      LeavesIn s (s.takeCut s.activity.part) (.fence 3#2 5#3) (s.takeCut s.activity.part).actor)
    ∧ (∀ (f : BitVec 5) (m : Word) (c : Ctx), s.actor.source f = some (m, c) → m.toNat < 16 → s.actor.sealed = false →
      s.actor.outbox.length < 16 → outBytes s.actor.outbox + 32 ≤ 1024 →
      Leaves s (.qfence f) { c with outbox := c.outbox ++ [.qfence m.toNat] })
    ∧ LeavesIn s (s.modCluster (s.turn.core / 8) fun c => { c with ro := [] }) .rosync s.actor

/-! ## Messages and ends (13 R301-R324; 14 R344, R345, R349-R353) -/

namespace Sys2Proof.Machine

/-- The outbox has room for an entry of a number of bytes, and the activation has not sealed. -/
def RoomFor (c : Ctx) (size : Nat) : Prop := c.sealed = false ∧ c.outbox.length < 16 ∧ outBytes c.outbox + size ≤ 1024

/-- Register `k` holds an end that the activation has not sent or closed. -/
def HoldsEnd (s : State) (k : Nat) (r : EndReg) : Prop :=
  s.self.endAt k = r ∧ r.state = .held ∧ k ∉ s.actor.gone

/-- The values of `n` registers from field `f`, none beyond a29. -/
def regsFrom (c : Ctx) (f : BitVec 5) (n : Nat) : List Word := (List.range n).map fun k => regOf c (BitVec.ofNat 5 (f.toNat + k))

end Sys2Proof.Machine

/-- O32. SEND, SENDE, ECLOSE and SPAWN place their entries in the outbox, with what they carry, and mark the ends that leave
(13 R295, R307, R312, R317, R321). -/
def Obligations.MessagesWaitInTheOutbox : Prop :=
  ∀ (s : State) (f n l a : BitVec 5) (e m : BitVec 6) (r : EndReg), ReadyA s → f.toNat + n.toNat ≤ 30 →
    (HoldsEnd s e.toNat r → hRecv r.handle = false → RoomFor s.actor (16 + 8 * n.toNat) →
      Leaves s (.send f n e) { s.actor with outbox := s.actor.outbox ++ [.send e.toNat (regsFrom s.actor f n.toNat) []] })
    ∧ (∀ v c k x, HoldsEnd s e.toNat r → hRecv r.handle = false → s.streamMode r.handle = false →
      s.actor.source l = some (v, c) → v.toNat = k → k < 64 → k ≠ e.toNat → HoldsEnd s k x → hMv x.handle = true →
      RoomFor s.actor (16 + 8 * n.toNat + 16) →
      Leaves s (.sende f n l e) { c with
        outbox := c.outbox ++ [.send e.toNat (regsFrom c f n.toNat) [k]], gone := c.gone ++ [k] })
    ∧ (HoldsEnd s e.toNat r → RoomFor s.actor 16 →
      Leaves s (.eclose e) { s.actor with outbox := s.actor.outbox ++ [.close e.toNat], gone := s.actor.gone ++ [e.toNat] })
    ∧ (∀ b : BitVec 5, b.toNat + 2 ≤ 30 → a.toNat + m.toNat ≤ 30 →
      let w0 := regOf s.actor b
      let w1 := regOf s.actor (b + 1#5)
      w0.toNat < 2 ^ 14 → w1.toNat < 2 ^ 22 → coreOk w0.toNat = true → s.coreInPart w0.toNat s.activity.part = true →
      RoomFor s.actor (32 + 8 * m.toNat) →
      Leaves s (.spawn b a 0#5 m) { s.actor with
        outbox := s.actor.outbox ++ [.spawn w0.toNat (w1.toNat % 2 ^ 16) (w1.toNat / 2 ^ 16) (regsFrom s.actor a m.toNat) []]
        gone := s.actor.gone })

/-- O33. CHNEW makes a channel with its two ends in registers, or says that it cannot; EINFO and EBIND read and bind an end
(13 R303-R305). That a new channel takes the lowest free index, with its home at that index mod 4 of the creating cluster, is the
model's choice (log 16); that EINFO still reads an end that is leaving is its reading (log 17). -/
def Obligations.EndsAreMadeAndBound : Prop :=
  ∀ (s : State) (d r : BitVec 5) (v : Word) (s1 : State) (e : BitVec 6) (x : EndReg), ReadyA s →
    (readA r s = .ok (v, s1) → chnewOk v = true →
      (s1.self.chanRegs v = none → ∀ c', s1.actor.dest d 0#64 = some c' → LeavesIn s s1 (.chnew d r) { c' with statusReg := 0#64 })
      ∧ (∀ a b k, s1.self.chanRegs v = some (a, b) → s1.freeIndex = some k →
        let u := s1.makeChan k s.turn.core s.activity.slot a b (v.toNat % 128) (v.getLsbD 9) (v.getLsbD 8) (!v.getLsbD 9) true
          (s.turn.core / 8 * 4 + k % 4)
        (∀ c', u.actor.dest d (BitVec.ofNat 64 (a + b * 256)) = some c' → LeavesIn s u (.chnew d r) { c' with statusReg := 1#64 })
        ∧ (a ≠ b → hRecv (((u.proc s.activity.slot).endAt a).handle) = false ∧ hRecv (((u.proc s.activity.slot).endAt b).handle) = true
          ∧ ((u.proc s.activity.slot).endAt a).state = .held ∧ ((u.proc s.activity.slot).endAt b).state = .held
          ∧ (u.chan k).cap = v.toNat % 128)))
    ∧ (s.self.endAt e.toNat = x → x.state = .held →
      (∀ c', s.actor.dest d (x.handle.extractLsb' 64 64) = some c' → Leaves s (.einfo d 0#5 e) { c' with statusReg := 1#64 })
      ∧ (∀ c', s.actor.dest d (x.handle.extractLsb' 0 64) = some c' → Leaves s (.einfo d 1#5 e) { c' with statusReg := 1#64 })
      ∧ ∀ c', s.actor.dest d x.info = some c' → Leaves s (.einfo d 2#5 e) { c' with statusReg := 1#64 })
    ∧ (s.self.endAt e.toNat = x → x.state ≠ .held → ∀ (q : BitVec 5) (c' : Ctx), s.actor.dest d 0#64 = some c' →
      Leaves s (.einfo d q e) { c' with statusReg := 0#64 })
    ∧ (∀ h w c, HoldsEnd s e.toNat x → hRecv x.handle = true → s.actor.source h = some (w, c) → w.toNat < 64 →
      (w = 0#64 ∨ s.self.handlerOk w.toNat = true) →
      LeavesIn s (s.modEnd s.activity.slot e.toNat fun y => { y with bind := w.toNat }) (.ebind h e) c)

/-- O34. EMASK, RATESET, RATEGET and GNAME of a channel whose home is on this device: the home answers at once (13 R306; 14
R344, R345, R349). `homeAsk` is the home's act. That it answers at once, and that the core's own registration on its way holds it up, is the model's
reading (log 57). -/
def Obligations.HomesAnswer : Prop :=
  ∀ (s : State) (d r : BitVec 5) (e : BitVec 6) (x : EndReg) (w : Word) (s1 : State), ReadyA s → HoldsEnd s e.toNat x →
    chDev (hChid x.handle) = s.devidx → s.landingOut s.devidx s.turn.core (hChid x.handle) = false →
    (readA r s = .ok (w, s1) →
      (w.toNat < 8 → (hRecv x.handle = true ∨ w.getLsbD 0 = false) →
        let t := s1.modEnd s.activity.slot e.toNat fun y =>
          { y with hold := w.getLsbD 0, enLanded := w.getLsbD 1, enMoved := w.getLsbD 2 }
        let u := (t.homeAsk (.emask (hChid x.handle) (hRecv x.handle) (w.getLsbD 1) (w.getLsbD 2))).2.2.2
        LeavesIn s u (.emask r e) u.actor)
      ∧ (hRt x.handle = true → w.extractLsb' 32 32 = 0#32 → w.extractLsb' 25 6 = 0#6 → w.extractLsb' 6 2 = 0#2 →
        ∀ v st u, s1.homeAsk (.rateset (hChid x.handle) w) = (v, st, none, u) →
          LeavesIn s u (.rateset r e) { u.actor with statusReg := BitVec.ofNat 64 st }))
    ∧ (∀ v st u c', s.homeAsk (.rateget (hChid x.handle)) = (v, st, none, u) → u.actor.dest d v = some c' →
      LeavesIn s u (.rateget d e) { c' with statusReg := BitVec.ofNat 64 st })
    ∧ (∀ c n, s.record (hChid x.handle) = some c →
      ((if hRecv x.handle then c.sst else c.rst) = .here ∨ (if hRecv x.handle then c.sst else c.rst) = .inTransit) →
      n = (if hRecv x.handle then c.sname else c.rname) →
      ∀ c', s.actor.dest d (BitVec.ofNat 64 n) = some c' →
        Leaves s (.gname d e) { c' with
          statusReg := if (if hRecv x.handle then c.sst else c.rst) = .here then 1#64 else 2#64 })

/-- O35. HSEAL seals, and the outbox leaves; HEND seals, its flags go to PFLAGS, and the context is free; HEND.exit makes the
process exit when no other activation of it runs (13 R296, R323, R324; 07 R162; 15 R370). -/
def Obligations.ActivationsEnd : Prop :=
  ∀ (s : State) (a : Activation), ReadyA s → s.actor.act = some a → s.turn.ctx < 4 →
    (s.actor.outbox = [] → Leaves s .hseal { s.actor with sealed := true })
    ∧ (∀ u, sealNow s = .ok (none, u) → LeavesIn s u .hseal u.actor)
    ∧ (s.actor.outbox = [] → s.actor.streams = [] → (s.proc a.slot).exiting = false →
      (∃ u, exec (.hend 0#1) s = .next u ∧ u.actor.status = .free ∧ u.actor.act = none ∧ u.actor.outbox = []
        ∧ (u.proc a.slot).pflags = (s.proc a.slot).pflags ||| s.actor.flags ∧ (u.proc a.slot).state = (s.proc a.slot).state
        ∧ u.mem = s.mem)
      ∧ ((s.proc a.slot).core = s.turn.core → (∀ k, k < 4 → k ≠ s.turn.ctx → (s.ctx s.turn.core k).act = none) →
        (s.proc a.slot).state ≠ .exited → ∃ u, exec (.hend 1#1) s = .next u ∧ u.actor.status = .free
          ∧ (u.proc a.slot).state = .exited ∧ (⟨a.slot, none⟩ : Drain) ∈ u.draining ∧ u.mem = s.mem))

/-- O36. GSTV places a register store with one beat of its view; GHOLD sets the hold bits of its granules; GWAIT retires when
its granules are not held, and else waits (14 R350, R352, R353). That the target's name is the low 32 bits of the operand is the model's reading (log 19). -/
def Obligations.RegisterStoresAndHolds : Prop :=
  ∀ (s : State) (n o v : BitVec 5), ReadyA s →
    (∀ name off s1 s2 x s3 w s4, readA n s = .ok (name, s1) → readA o s1 = .ok (off, s2) →
      viewOpnd v.toNat false s2 = .ok (x, s3) → x.kind ≠ .queue → x.kind ≠ .stream → off.toNat % 64 = 0 → off.toNat < 8192 →
      zCount x.view ≤ laneCount x.ty → devOf (name.toNat % 2 ^ 32) = s3.devidx → s3.devidx < 192 →
      readOneBeat x s3 = .ok (w, s4) → RoomFor s4.actor 80 →
      ∃ g : Landing, g.target = name.toNat % 2 ^ 32 ∧ g.off = off.toNat ∧ g.data = [w] ∧ g.ty = x.ty ∧ g.name = s.activity.name
        ∧ LeavesIn s s4 (.gstv n o v) { s4.actor with outbox := s4.actor.outbox ++ [.gstv g] })
    ∧ (∀ g k s1, holdRange o n s = .ok ((g, k), s1) →
      LeavesIn s (s1.modProc s.activity.slot fun p => { p with holds := p.holds ||| holdMask g k }) (.ghold o n) s1.actor
        ∧ (∀ j, j < 128 → (holdMask g k).getLsbD j = decide (g ≤ j ∧ j < g + k))
        ∧ (s1.self.holds &&& holdMask g k = 0#128 → LeavesIn s (s1.learn s1.agent s1.self.landKnow) (.gwait o n) s1.actor)
        ∧ (s1.self.holds &&& holdMask g k ≠ 0#128 → ∃ u, exec (.gwait o n) s = .next u ∧ u.actor.pc = s.actor.pc
          ∧ u.actor.stallA = .viewHold ∧ u.actor.q3 = s.actor.q3))

/-! ## Tags and barriers (06 R116-R118, R137-R140) -/

namespace Sys2Proof.Machine

/-- An instruction of the A half waits: it has not retired, its operands stand where they stood, and the stall is noted. -/
def Waits (s : State) (i : Instr) (why : Stall) : Prop :=
  ∃ u, exec i s = .next u ∧ u.actor.pc = s.actor.pc ∧ u.actor.stallA = why ∧ u.actor.q3 = s.actor.q3 ∧ u.actor.a = s.actor.a
    ∧ u.mem = s.mem

end Sys2Proof.Machine

/-- O37. WAITANY, WAITALL, FFR and TAGCLR under TAGM (06 R116-R118): what they give when their wait is over, the wait itself, and
the bits that TAGCLR clears. Seeing a completed tag is an acquire. The count of a tag (06 R116): issue at count 0 clears its
completion and error bits; the last end sets its completion bit, and a failure its error bit; no other tag changes. -/
def Obligations.TagsCountAndAreAwaited : Prop :=
  (∀ (s : State) (d a : BitVec 5) (v : Word) (c : Ctx), ReadyA s → s.actor.source a = some (v, c) →
    let m := v &&& s.self.tagm
    let k := s.core s.turn.core
    let seen : State := if k.tagDone &&& m ≠ 0#64 then s.learn s.agent k.tagKnow else s
    let gives := fun (i : Instr) (w : Word) => ∀ c', c.dest d w = some c' → LeavesIn s seen i { c' with statusReg := k.tagErr &&& m }
    (tagInOutbox m s.actor.outbox = false →
      (k.tagDone &&& m ≠ 0#64 ∨ m = 0#64 → gives (.waitany d a) (k.tagDone &&& m))
      ∧ (k.tagDone &&& m = m → gives (.waitall d a) m)
      ∧ (k.tagDone &&& m = 0#64 → m ≠ 0#64 → Waits s (.waitany d a) .tagWait)
      ∧ (k.tagDone &&& m ≠ m → Waits s (.waitall d a) .tagWait))
    ∧ (∃ n, (k.tagDone &&& m = 0#64 → n = 64)
      ∧ (k.tagDone &&& m ≠ 0#64 → n < 64 ∧ (k.tagDone &&& m).getLsbD n = true ∧ ∀ j, j < n → (k.tagDone &&& m).getLsbD j = false)
      ∧ gives (.ffr d a) (BitVec.ofNat 64 n))
    ∧ LeavesIn s (s.modCore s.turn.core fun k => { k with tagErr := k.tagErr &&& ~~~m }) (.tagclr a) c)
  ∧ (∀ (k : Core) (t j : Nat) (err : Bool), t < 64 → j < 64 →
    (k.tagIssue t).tagCount t = k.tagCount t + 1 ∧ (k.tagEnd t err).tagCount t = k.tagCount t - 1
      ∧ (k.tagCount t = 0 → (k.tagIssue t).tagDone.getLsbD t = false ∧ (k.tagIssue t).tagErr.getLsbD t = false)
      ∧ (k.tagCount t ≤ 1 → (k.tagEnd t err).tagDone.getLsbD t = true)
      ∧ (1 < k.tagCount t → (k.tagEnd t err).tagDone = k.tagDone)
      ∧ ((k.tagEnd t err).tagErr.getLsbD t = (err || k.tagErr.getLsbD t))
      ∧ (j ≠ t → (k.tagIssue t).tagDone.getLsbD j = k.tagDone.getLsbD j ∧ (k.tagEnd t err).tagDone.getLsbD j = k.tagDone.getLsbD j
        ∧ (k.tagEnd t err).tagErr.getLsbD j = k.tagErr.getLsbD j ∧ (k.tagEnd t err).tagCount j = k.tagCount j))

/-- O38. BARINIT, BARARR, BARWAIT and BARTEST on a barrier whose owner is resident (06 R137-R140), and the controller's
completion of a barrier. The controller tests after every operation, so that an object which a store has left complete
completes then (06 R138): `after` is the state after that test of an object that the operation itself leaves as it is. -/
def Obligations.BarriersArriveAndWait : Prop :=
  (∀ (s : State) (f a d : BitVec 5) (ref v : Word) (s1 s2 : State) (core off : Nat), ReadyA s →
    readA f s = .ok (ref, s1) → readA a s1 = .ok (v, s2) → s2.barrier s.activity.part ref = .here core off →
    s2.barQueued ref = false → barInOutbox (barKey ref) s.actor.outbox = false →
    let b := s2.barRead core off
    let status := fun (n : Nat) (c : Ctx) => { c with statusReg := BitVec.ofNat 64 n }
    let complete := barPoison b = false ∧ barPending b = 0 ∧ barOut b = 0 ∧ barIn b = 0
    let after := fun (t u : State) => (¬complete ∧ u = t)
      ∨ (complete ∧ ∃ t', noteBarWrite core off t = .ok ((), t') ∧ u = t'.barWrite core off (barKey ref) b [] none)
    let learnt := fun (t : State) => t.learn t.agent (find t.barKnow (barKey ref) [])
    let other := barGen b ≠ v.toNat % 16
    (1 ≤ v.toNat → v.toNat < 2 ^ 20 → ∀ s3, noteBarWrite core off s2 = .ok ((), s3) →
      ∃ x : Bar, barExpected x = v.toNat ∧ barPending x = v.toNat ∧ barOut x = 0 ∧ barIn x = 0 ∧ barPoison x = false ∧ barGen x = 0
        ∧ let u := s3.barWrite core off (barKey ref) x (s3.knows s3.agent) (some 2)
          LeavesIn s u (.barinit f a) u.actor)
    ∧ (∀ u c', after s2 u → u.actor.dest d (BitVec.ofNat 64 (barGen b)) = some c' →
      (barPoison b = true → LeavesIn s u (.bararr f a d) (status 2 c'))
      ∧ (barPoison b = false → barPending b = 0 → LeavesIn s u (.bararr f a d) (status 3 c')))
    ∧ (barPoison b = false → barPending b ≠ 0 → ∀ s3, noteBarWrite core off s2 = .ok ((), s3) →
      ∃ x : Bar, barPending x = barPending b - 1 ∧ barOut x = (barOut b + v.toNat % 2 ^ 32) % 2 ^ 32
        ∧ barIn x = (barIn b + v.toNat / 2 ^ 32) % 2 ^ 32 ∧ barGen x = barGen b ∧ barExpected x = barExpected b
        ∧ let u := s3.barWrite core off (barKey ref) x (s3.knows s3.agent) none
          ∀ c', u.actor.dest d (BitVec.ofNat 64 (barGen b)) = some c' → LeavesIn s u (.bararr f a d) (status 0 c'))
    ∧ (barPoison b = true → LeavesIn s s2 (.barwait f a) (status 2 s2.actor))
    ∧ (barPoison b = false → other → ∀ u, after (learnt s2) u → LeavesIn s u (.barwait f a) (status 0 u.actor))
    ∧ (barPoison b = false → ¬other → complete → ∀ u, after s2 u → LeavesIn s (learnt u) (.barwait f a) (status 0 (learnt u).actor))
    ∧ (barPoison b = false → ¬other → ¬complete → ∃ u, exec (.barwait f a) s = .next u ∧ u.actor.pc = s.actor.pc
      ∧ ∃ p, u.actor.pend = some p ∧ p.kind = .barwait ∧ p.va = barKey ref)
    ∧ ∀ r u c', (r = if barPoison b = true then 2 else if other then 1 else 0) →
      after (if r = 1 then learnt s2 else s2) u → u.actor.dest d (BitVec.ofNat 64 r) = some c' →
      LeavesIn s u (.bartest f a d) (status r c'))
  ∧ ∀ b : Bar, (barPoison b = false ∧ barPending b = 0 ∧ barOut b = 0 ∧ barIn b = 0 →
      barGen (barTest b).1 = (barGen b + 1) % 16 ∧ barPending (barTest b).1 = barExpected b ∧ (barTest b).2 = true)
    ∧ (barPoison b = true ∨ barPending b ≠ 0 ∨ barOut b ≠ 0 ∨ barIn b ≠ 0 → barTest b = (b, false))

/-! ## Commands and jobs (06 R113-R136, 10 R213-R237) -/

namespace Sys2Proof.Machine

/-- A copy command passes its checks at issue and finds room: its tag lies in TAGM with a count below 32, its boxes are in
range, the outbox has room. -/
def MayIssue (s : State) (t : BitVec 6) (boxes : List Box) : Prop :=
  s.self.tagm.getLsbD t.toNat = true ∧ (s.core s.turn.core).tagCount t.toNat < 32 ∧ RoomFor s.actor 32
    ∧ ∀ b ∈ boxes, boxInRange b s = .ok ((), s)

/-- The box in the registers from a field, usable by a command. -/
def BoxIs (s : State) (f : BitVec 5) (b : Box) : Prop := copyBox f s = .ok (b, s)

/-- A copy instruction places a command with the issuer, tag and modes of its context, as `P` says; its tag counts it. -/
def IssuesCopy (s t : State) (i : Instr) (tag : BitVec 6) (c : Ctx) (P : CopyCmd → Prop) : Prop :=
  ∃ x : CopyCmd, P x ∧ x.tag = tag.toNat ∧ x.core = s.turn.core ∧ x.ctx = s.turn.ctx ∧ x.name = s.activity.name
    ∧ x.super = s.activity.super ∧ x.bar = none ∧ x.rnd = s.actor.rmode.toNat ∧ x.sat = false ∧ x.begun = false
    ∧ LeavesIn s (({ t with fresh := t.fresh + 1 } : State).modCore s.turn.core fun k => k.tagIssue tag.toNat) i
      { c with outbox := c.outbox ++ [.copy x] }

/-- A matrix instruction places a job; its tag counts it, its record is pending, and JOBID names it (10 R226, R227). -/
def IssuesJob (s : State) (i : Instr) (tag : BitVec 6) (P : MJob → Prop) : Prop :=
  let q := (s.core s.turn.core).jobSeq
  ∃ j : MJob, P j ∧ j.tag = tag.toNat ∧ j.seq = q.toNat ∧ j.core = s.turn.core ∧ j.ctx = s.turn.ctx ∧ j.name = s.activity.name
    ∧ j.rnd = s.actor.rmode.toNat ∧ j.gate = none ∧ j.granted = 0
    ∧ LeavesIn s
      (({ s with fresh := s.fresh + 1 } : State).modCore s.turn.core fun k =>
        let k := k.tagIssue tag.toNat
        { k with jobSeq := k.jobSeq + 1#10, jobs := put k.jobs q.toNat none, jobNum := put k.jobNum q.toNat s.fresh })
      i { s.actor with jobid := BitVec.ofNat 16 (q.toNat * 64 + tag.toNat), outbox := s.actor.outbox ++ [.job j] }

end Sys2Proof.Machine

/-- O39. CPY, CPYRED, GATH, SCAT and HALO place their commands (06 R113-R116, R124-R129); a HALO that sends to no neighbour ends
at once; CPYCAN removes the queued commands of its tag and counts them in STATUS (06 R135). STRM arms its view with eight
strips of register space and places its command; FILLW loads a fill window with MARK at its start and places its command (06
R131, R133). The fields that STRM keeps and the views that FILLW takes are the model's reading (log 22), the count modulo
2^16 its choice (log 73). -/
def Obligations.CopiesStreamsAndFills : Prop :=
  (∀ (s : State) (d a x : BitVec 5) (t : BitVec 6) (p q r : Box), ReadyA s → BoxIs s d p → BoxIs s a q → BoxIs s x r →
    (MayIssue s t [p, q] → p.count = q.count → sizeRules p s = .ok ((), s) → sizeRules q s = .ok ((), s) →
      IssuesCopy s s (.cpy d a t) t s.actor (fun c => c.op = .cpy ∧ c.dst = p ∧ c.src = q ∧ c.count = p.count)
      ∧ (redDest p.entry = true → isF (layType q.entry) = true → layRed q.entry = false →
        IssuesCopy s s (.cpyred d a t) t s.actor (fun c => c.op = .cpyred ∧ c.dst = p ∧ c.src = q ∧ c.count = p.count)))
    ∧ (MayIssue s t [p, q, r] →
      (rowRules q p r s = .ok ((), s) →
        IssuesCopy s s (.gath d a x t) t s.actor (fun c => c.op = .gath ∧ c.dst = p ∧ c.src = q ∧ c.idx = r ∧ c.count = p.count))
      ∧ (rowRules p q r s = .ok ((), s) →
        IssuesCopy s s (.scat d a x t) t s.actor (fun c => c.op = .scat ∧ c.dst = p ∧ c.src = q ∧ c.idx = r ∧ c.count = q.count)))
    ∧ (∀ (o k : BitVec 5), MayIssue s t [q] → plainBox q s = .ok ((), s) → q.strips * 64 ≤ 8192 → o ≠ 30#5 → o ≠ 31#5 →
      k ≠ 30#5 → k ≠ 31#5 → (regOf s.actor o).toNat % 64 = 0 → (regOf s.actor o).toNat < 8192 →
      (0 < (regOf s.actor k).toNat → (regOf s.actor k).toNat < 16 →
        IssuesCopy s s (.halo o a k t) t s.actor (fun c => c.op = .halo ∧ c.src = q ∧ c.off = (regOf s.actor o).toNat
          ∧ (∀ j : Fin 4, c.names.getD j.val 0 = if (regOf s.actor k).getLsbD j.val then (s.self.nbr[j]).toNat else 0)))
      ∧ ((regOf s.actor k).toNat = 0 → ∃ c : CopyCmd, c.op = .halo ∧ c.tag = t.toNat ∧
        let u := (s.modCore s.turn.core fun k => k.tagIssue t.toNat).endCopy c .done
        LeavesIn s u (.halo o a k t) u.actor))
    ∧ (s.self.tagm.getLsbD t.toNat = true →
      let w := s.takeCopies s.turn.core fun c => c.tag == t.toNat
      let u := w.1.foldl (fun s c => s.endCopy c .cancelled) w.2
      LeavesIn s u (.cpycan t) { u.actor with statusReg := BitVec.ofNat 64 w.1.length }))
  ∧ (∀ (s : State) (v b w : BitVec 5) (t : BitVec 6) (q : Box), ReadyA s → BoxIs s b q → MayIssue s t [q] →
    plainBox q s = .ok ((), s) →
    let z := s.actor.z[v.toNat]'v.isLt
    (zSpace z = 0 → zOffset z % 64 = 0 → zOffset z + 512 ≤ rsBytes (s.core s.turn.core).partw →
      (s.actor.streams.any fun t => t.1 = v.toNat) = false →
      IssuesCopy s s (.strm v b t) t
        { s.actor with
          z := s.actor.z.set v.toNat (streamView z (layType q.entry) q.count) v.isLt
          streams := s.actor.streams ++ [(v.toNat, zOffset z, q.strips, 0, 0, false)] }
        (fun c => c.op = .strm ∧ c.src = q ∧ c.view = v.toNat ∧ c.base = zOffset z ∧ c.count = q.count))
    ∧ (∀ o, fillable z = true → viewOpnd v.toNat true s = .ok (o, s) → q.count = zDim z 0 → (hw : w.toNat < 8) →
      fwActive ((s.core s.turn.core).fwin[w.toNat]) = false →
      IssuesCopy s
        (s.modCore s.turn.core fun k =>
          { k with fwin := k.fwin.set w.toNat (fillWord z s.turn.ctx) hw, fwOwner := put k.fwOwner w.toNat s.activity.name })
        (.fillw v b w t) t s.actor
        (fun c => c.op = .fillw ∧ c.src = q ∧ c.win = w.toNat ∧ c.ty = zType z ∧ c.count = q.count)
      ∧ (zOffset z + fillBytes z < 2 ^ 16 →
        let f := fillWord z s.turn.ctx
        fwActive f = true ∧ fwFailed f = false ∧ fwStart f = zOffset z ∧ fwMark f = zOffset z ∧ fwEnd f = zOffset z + fillBytes z)))

/-- O40. MMA, MMAS, MROT, MZERO and MRD place their jobs after the checks of 10 R234; MWAIT, MPOLL and MCAN read the records
and cancel (10 R216-R237). -/
def Obligations.MatrixJobsAreIssued : Prop :=
  ∀ (s : State) (v a b : BitVec 5) (t : BitVec 6) (x y d : Box) (tile : Nat), ReadyA s →
    (tileOf v s = .ok (tile, s) → MayIssue s t [] → IssuesJob s (.mzero v t) t (fun j => j.op = .mzero ∧ j.tile = tile))
    ∧ (tileOf v s = .ok (tile, s) → BoxIs s a x → MayIssue s t [x] → x.count = 1024 → laySpace x.entry ≤ 3 →
      plainBox x s = .ok ((), s) → IssuesJob s (.mrd a v t) t (fun j => j.op = .mrd ∧ j.tile = tile ∧ j.dst = x))
    ∧ (BoxIs s a x → BoxIs s b y →
      (tileOf v s = .ok (tile, s) → MayIssue s t [x, y] → operandRules [x, y] false s = .ok ((), s) →
        IssuesJob s (.mma v a b t) t (fun j => j.op = .mma ∧ j.tile = tile ∧ j.a = some x ∧ j.b = some y ∧ j.k = y.k ∧ j.areuse = false))
      ∧ (BoxIs s v d → redBox d = true → MayIssue s t [d, x, y] → operandRules [x, y] false s = .ok ((), s) →
        IssuesJob s (.mmas v a b t) t (fun j => j.op = .mmas ∧ j.dst = d ∧ j.a = some x ∧ j.b = some y ∧ j.k = y.k))
      ∧ (tileOf v s = .ok (tile, s) → a ≠ 0#5 → b ≠ 0#5 → MayIssue s t [x, y] → operandRules [x, y] true s = .ok ((), s) →
        ringTarget s.self.ringw s = .ok (s.self.ringw.toNat, s) → ringTarget s.self.ringn s = .ok (s.self.ringn.toNat, s) →
        IssuesJob s (.mrot v a b t) t (fun j => j.op = .mrot ∧ j.tile = tile ∧ j.a = some x ∧ j.b = some y
          ∧ j.ringw = s.self.ringw.toNat ∧ j.ringn = s.self.ringn.toNat)))
    ∧ (∀ (w : Word) (c : Ctx), s.actor.source a = some (w, c) → jobInOutbox (w.toNat / 64 % 1024) s.actor.outbox = false →
      let k := s.core s.turn.core
      let seen := s.learn s.agent k.tagKnow
      (k.jobStatus (w.toNat / 64 % 1024) = none → Waits s (.mwait a) .scoreboard
        ∧ ∀ c', c.dest b 0#64 = some c' → Leaves s (.mpoll b a) { c' with statusReg := 0#64 })
      ∧ (∀ st, k.jobStatus (w.toNat / 64 % 1024) = some st →
        LeavesIn s seen (.mwait a) { c with statusReg := BitVec.ofNat 64 st }
        ∧ ∀ c', c.dest b 1#64 = some c' → LeavesIn s seen (.mpoll b a) { c' with statusReg := BitVec.ofNat 64 st }))
    ∧ (s.self.tagm.getLsbD t.toNat = true →
      let w := s.takeJobs s.turn.core t.toNat
      let u := (w.1.foldl (fun s j => s.endJob j 3 none) w.2).closeRoutes (s.turn.core / 8) (s.turn.core % 8)
      LeavesIn s u (.mcan t) { u.actor with statusReg := BitVec.ofNat 64 w.1.length })

/-- O41. LGRAPH places a start entry with the layouts of its ids as they stand; LWAIT compares its notify register with a
threshold modulo 2^48, and gives the register (12 R285-R287). -/
def Obligations.GraphsStartAndNotify : Prop :=
  ∀ (s : State) (f d a c : BitVec 5), ReadyA s →
    (f.toNat + 2 < 30 →
      let l : LStart := { w0 := regOf s.actor f, w1 := regOf s.actor (f + 1#5), w2 := regOf s.actor (f + 2#5), core := s.turn.core,
                          ctx := s.turn.ctx, name := s.activity.name }
      l.ok = true → s.allotted l.array l.notify s.activity.part = true → RoomFor s.actor 32 →
      ∃ g : LStart, g.w0 = l.w0 ∧ g.w1 = l.w1 ∧ g.w2 = l.w2 ∧ g.core = l.core ∧ g.ctx = l.ctx ∧ g.name = l.name
        ∧ (∀ k, k < 5 → g.lays.getD k 0#512 = s.self.layout (g.w0.toNat / 2 ^ (8 * k) % 256))
        ∧ LeavesIn s { s with fresh := s.fresh + 1 } (.lgraph f) { s.actor with outbox := s.actor.outbox ++ [.lgraph g] })
    ∧ (∀ w t c1, s.actor.sources a c = some (w, t, c1) → w.toNat < 2 ^ 12 → w.toNat / 64 % 4 = 0 →
      let k := w.toNat / 256
      let r := w.toNat % 64
      k < 12 → s.allotted k r s.activity.part = true →
      let n := find (s.lintel k).notify r (0, 0)
      ((n.2 + 2 ^ 48 - t.toNat % 2 ^ 48) % 2 ^ 48 < 2 ^ 47 → ∀ c', c1.dest d (BitVec.ofNat 64 (n.1 % 2 ^ 16 * 2 ^ 48 + n.2 % 2 ^ 48)) = some c' →
        LeavesIn s (s.learn s.agent (find (s.lintel k).notifyKnow r [])) (.lwait d a c) c')
      ∧ (2 ^ 47 ≤ (n.2 + 2 ^ 48 - t.toNat % 2 ^ 48) % 2 ^ 48 → Waits s (.lwait d a c) .scoreboard))

/-! ## Vector instructions (09 R189-R212, 05 R92-R109) -/

namespace Sys2Proof.Machine

/-- The E half of the acting context has issued in this clock (01 R17). -/
def State.issuedE (s : State) : State := s.modCore s.turn.core fun x => { x with lastE := s.turn.ctx, usedE := some s.cyc }

/-- The state after an instruction that an empty E queue took at once has retired, its context otherwise left as `c`: it is the
last that the E half of the core issued, in this clock. -/
def State.vends (s : State) (c : Ctx) : State :=
  ((s.withActor { c with
    eq := [], hints := [], pc := s.actor.pc + 4#52, eprog := {}, stallA := .none, stallE := .none, waitA := none,
    waitE := none }).count s.activity.part 3 1).issuedE

/-- An instruction of the E half retires in state `t`, which differs from `s` outside the context. -/
def VLeaves (s t : State) (i : Instr) (c : Ctx) : Prop := exec i s = .next (t.vends c)

/-- Lane `j` of a strip as the code of a type. -/
def laneAt (ty : Nat) (e : QEntry) (j : Nat) : Nat := e.data.toNat / 2 ^ (laneBits ty * j) % 2 ^ laneBits ty

/-- An entry of queue 1 of some codes of a type. -/
def stripOf (ty : Nat) (codes : List Nat) : QEntry := { data := packLanes (laneBits ty) codes, tag := tagOf ty }

/-- A q0 entry is filled and tagged with a type. -/
def QEntry.isOf (e : QEntry) (ty : Nat) : Prop := e.tag = tagOf ty ∧ e.awaits = false

/-- All operands z31: one q2 entry for each source in field order, and element 0 of the result to q3 (02 R35); outside the context
`s` becomes `t`. -/
def Scalars (s t : State) (i : Instr) (ty n : Nat) (f : List Nat → Nat × BitVec 6) : Prop :=
  ∀ xs rest, s.actor.q2 = xs ++ rest → xs.length = n → s.actor.q3.length < 8 →
    let r := f (xs.map fun x => x.toNat % 2 ^ typeBits ty)
    VLeaves s t i { s.actor with
      q2 := rest, q3 := s.actor.q3 ++ [scalarWord ty r.1], flags := s.actor.flags ||| r.2 }

/-- All operands z30: one q0 entry for each source, every lane computed, one q1 entry (02 R35). -/
def Strips (s t : State) (i : Instr) (ty n : Nat) (f : List Nat → Nat × BitVec 6) : Prop :=
  ∀ es rest, s.actor.q0 = es ++ rest → es.length = n → (∀ e ∈ es, e.isOf ty) → s.actor.q1.length < 16 →
    let rs := (List.range (laneCount ty)).map fun j => f (es.map fun e => laneAt ty e j)
    VLeaves s t i { s.actor with
      q0 := rest, q1 := s.actor.q1 ++ [stripOf ty (rs.map Prod.fst)]
      flags := s.actor.flags ||| (rs.map Prod.snd).foldl (· ||| ·) 0#6 }

/-- Any operands: after the checks of the views and types, the driver computes every element with the lane function, and the
instruction retires. -/
def Driven (s : State) (i : Instr) (d : BitVec 5) (srcs : List (BitVec 5)) (ty : Nat)
    (f : List Nat → Nat × BitVec 6) : Prop :=
  ∀ o xs p u, operandsOf d srcs ty (s.routeE i) = .ok ((o, xs), s.routeE i) →
    planOf (some o) xs (laneCount ty) (s.routeE i) = .ok (p, s.routeE i) →
    runEach p {} (fun _ => f) (s.routeE i) = .ok (.retire, u) → exec i s = .next u.retireE.issuedE

/-- An instruction of the vector unit alone, in the three ways of naming its operands. -/
def Computes (s : State) (scalars strips i : Instr) (d : BitVec 5) (srcs : List (BitVec 5)) (ty : Nat)
    (f : List Nat → Nat × BitVec 6) : Prop :=
  Scalars s s scalars ty srcs.length f ∧ Strips s s strips ty srcs.length f ∧ Driven s i d srcs ty f

/-- A special function, each beat of which is one request that the cluster's unit takes in a clock (01 R12, 09 R194). One with
several beats has run the first of them, and stands in hand with its others. -/
def Serves (s : State) (scalars strips i : Instr) (d a : BitVec 5) (ty : Nat) (f : List Nat → Nat × BitVec 6) : Prop :=
  let core := s.turn.core
  let r := s.routeE i
  Scalars s (s.sfuServed core) scalars ty 1 f ∧ Strips s (s.sfuServed core) strips ty 1 f
    ∧ ∀ o xs p, operandsOf d [a] ty r = .ok ((o, xs), r) → planOf (some o) xs (laneCount ty) r = .ok (p, r) →
      (∀ u, p.beats = 1 → runEach p {} (fun _ => f) r = .ok (.retire, u) → exec i s = .next (u.sfuServed core).retireE.issuedE)
      ∧ ∀ t u, 1 < p.beats → beginBeats p {} r = .ok ((), t) → p.ready t 0 = .go → eachBeat p {} (fun _ => f) 0 t = .ok ((), u) →
        exec i s = .next ((u.sfuServed core).modActor fun c =>
          { c with eprog := { c.eprog with beat := 1 }, stallE := .none, waitE := none }).issuedE

/-- The two kinds of a lane function: exact values rounded once for a float type, exact integers modulo 2^w (07 R155, R156;
09 R196). -/
def laneFn (ty m : Nat) (f : List Val → Val) (g : List Int → Int) (xs : List Nat) : Nat × BitVec 6 :=
  if 8 ≤ ty then (wrapTo (typeBits ty) (g (xs.map (intVal ty))), 0#6) else encodeFloat ty m false (f (xs.map (decodeVal ty)))

/-- Operations of two sources on types F and I, with their lane functions for a mode. -/
def twoSource (ty m : Nat) : List ((BitVec 5 → BitVec 5 → BitVec 5 → BitVec 4 → Instr) × (List Nat → Nat × BitVec 6)) :=
  [(.vadd, laneFn ty m (fun v => addVal m (valAt v 0) (valAt v 1)) fun v => intAt v 0 + intAt v 1),
    (.vsub, laneFn ty m (fun v => addVal m (valAt v 0) (negVal (valAt v 1))) fun v => intAt v 0 - intAt v 1),
    (.vmul, laneFn ty m (fun v => mulVal (valAt v 0) (valAt v 1)) fun v => intAt v 0 * intAt v 1),
    (.vdiv, fun xs => laneDiv ty m false 0 xs), (.vmin, fun xs => pick ty false (src xs 0) (src xs 1)),
    (.vmax, fun xs => pick ty true (src xs 0) (src xs 1))]
  ++ [(.vand, fun xs => (src xs 0 &&& src xs 1, 0#6)), (.vor, fun xs => (src xs 0 ||| src xs 1, 0#6)),
    (.vxor, fun xs => (src xs 0 ^^^ src xs 1, 0#6)),
    (.vshl, fun xs => (src xs 0 * 2 ^ (src xs 1 % 2 ^ typeBits ty) % 2 ^ typeBits ty, 0#6)),
    (.vshr, fun xs => (src xs 0 % 2 ^ typeBits ty / 2 ^ (src xs 1 % 2 ^ typeBits ty), 0#6)),
    (.vshra, fun xs => (wrapTo (typeBits ty) (signedOf (typeBits ty) (src xs 0) / 2 ^ (src xs 1 % 2 ^ typeBits ty)), 0#6))]

/-- Operations of three sources, the third the destination. -/
def threeSource (ty m : Nat) : List ((BitVec 5 → BitVec 5 → BitVec 5 → BitVec 4 → Instr) × (List Nat → Nat × BitVec 6)) :=
  [(.vfma, laneFn ty m (fun v => addVal m (mulVal (valAt v 0) (valAt v 1)) (valAt v 2)) fun v => intAt v 0 * intAt v 1 + intAt v 2),
    (.vfms, laneFn ty m (fun v => addVal m (mulVal (valAt v 0) (valAt v 1)) (negVal (valAt v 2)))
      fun v => intAt v 0 * intAt v 1 - intAt v 2),
    (.vnfma, laneFn ty m (fun v => addVal m (valAt v 2) (negVal (mulVal (valAt v 0) (valAt v 1))))
      fun v => intAt v 2 - intAt v 0 * intAt v 1),
    (.vclamp, fun xs =>
      let x := pick ty true (src xs 0) (src xs 1)
      let y := pick ty false x.1 (src xs 2)
      (y.1, x.2 ||| y.2))]

/-- Operations of one source. -/
def oneSource (ty m : Nat) : List ((BitVec 5 → BitVec 5 → BitVec 4 → Instr) × (List Nat → Nat × BitVec 6)) :=
  [(.vabs, fun xs => laneSign ty false m false 0 xs), (.vneg, fun xs => laneSign ty true m false 0 xs),
    (.vnot, fun xs => (2 ^ typeBits ty - 1 - src xs 0 % 2 ^ typeBits ty, 0#6)), (.vmov, fun xs => (src xs 0, 0#6))]

/-- The special functions, which take types F. -/
def specialFunctions (ty : Nat) : List ((BitVec 5 → BitVec 5 → BitVec 4 → Instr) × (List Nat → Nat × BitVec 6)) :=
  [(.vexp2, fun xs => sfu 0 ty (src xs 0)), (.vexp, fun xs => sfu 1 ty (src xs 0)), (.vlog2, fun xs => sfu 2 ty (src xs 0))]
  ++ [(.vln, fun xs => sfu 3 ty (src xs 0)), (.vrcp, fun xs => sfu 4 ty (src xs 0)), (.vrsqrt, fun xs => sfu 5 ty (src xs 0)),
    (.vsqrt, fun xs => sfu 6 ty (src xs 0)), (.vsin, fun xs => sfu 7 ty (src xs 0)), (.vcos, fun xs => sfu 8 ty (src xs 0)),
    (.vtanh, fun xs => sfu 9 ty (src xs 0))]
  ++ [(.vsigm, fun xs => sfu 10 ty (src xs 0)), (.vgelu, fun xs => sfu 11 ty (src xs 0)), (.vsilu, fun xs => sfu 12 ty (src xs 0)),
    (.verf, fun xs => sfu 13 ty (src xs 0))]

/-- A view register names a queue: type, one dimension of `n` elements that one strip holds. -/
def QueueView (s : State) (r : BitVec 5) (ty n : Nat) : Prop :=
  r.toNat < 30 ∧ let v := s.actor.z[r.toNat]'r.isLt
    zMalformed v = false ∧ zSpace v = 5 ∧ zType v = ty ∧ zRank v = 1 ∧ zDim v 0 = n ∧ n ≤ laneCount ty ∧ zRdonly v = false

/-- The codes of the first `n` lanes of an entry. -/
def lanesOf (ty n : Nat) (e : QEntry) : List Nat := (List.range n).map (laneAt ty e)

end Sys2Proof.Machine

/-- O42. The number formats (07 R142-R158): a code of FP32, BF16, FP16, E4M3 or E5M2 that is no NaN stands for a value that
encodes to it again, without a flag, in every rounding mode; the canonical NaN is a quiet NaN; an integer wraps modulo
2^w, or saturates to the nearer end with SAT. -/
def Obligations.NumberFormats : Prop :=
  (∀ ty m x, ty ≤ 4 → x < 2 ^ typeBits ty → (decodeVal ty x).isNan = false → m ≤ 4 →
    encodeFloat ty m false (decodeVal ty x) = (x, 0#6))
  ∧ (∀ ty, ty ≤ 4 → (decodeVal ty (canonNan ty)).isNan = true ∧ (decodeVal ty (canonNan ty)).isSnan = false)
  ∧ ∀ (signed : Bool) (w : Nat) (x : Int), 1 ≤ w →
    let r := intRange signed w
    (narrowInt signed false w x).2 = 0#6 ∧ ((narrowInt signed false w x).1 : Int) = x % 2 ^ w
      ∧ (r.1 ≤ x ∧ x ≤ r.2 → narrowInt signed true w x = narrowInt signed false w x)
      ∧ (x < r.1 → narrowInt signed true w x = (wrapTo w r.1, fSat)) ∧ (r.2 < x → narrowInt signed true w x = (wrapTo w r.2, fSat))

/-- O43. The elementwise instructions and special functions (09 R189-R198, R212): on q2 and q3 values, on whole strips of the
queues, and through views, every element is its lane function, and the flags of every element are set. VBCAST repeats
element 0; VIOTA gives positions. VADDI, VMULI, VMAXI and VSETI on queue views, without HIMM: the immediate in the view's
type (09 R199, 07 R164). -/
def Obligations.ElementwiseAndImmediates : Prop :=
  (∀ (s : State) (t : BitVec 4) (d a b : BitVec 5), ReadyE s → tyFI t = true →
    let ty := t.toNat
    let m := s.actor.rmode.toNat
    (∀ e ∈ twoSource ty m, Computes s (e.1 31#5 31#5 31#5 t) (e.1 30#5 30#5 30#5 t) (e.1 d a b t) d [a, b] ty e.2)
    ∧ (∀ e ∈ threeSource ty m, Computes s (e.1 31#5 31#5 31#5 t) (e.1 30#5 30#5 30#5 t) (e.1 d a b t) d [a, b, d] ty e.2)
    ∧ (∀ e ∈ oneSource ty m, Computes s (e.1 31#5 31#5 t) (e.1 30#5 30#5 t) (e.1 d a t) d [a] ty e.2)
    ∧ (SfuFree s → ∀ e ∈ specialFunctions ty,
      Serves s (e.1 31#5 31#5 t) (e.1 30#5 30#5 t) (e.1 d a t) d a ty e.2)
    ∧ Scalars s s (.vbcast 31#5 31#5 t) ty 1 (fun xs => (src xs 0, 0#6))
    ∧ (∀ e rest, s.actor.q0 = e :: rest → e.isOf ty → s.actor.q1.length < 16 →
      VLeaves s s (.vbcast 30#5 30#5 t) { s.actor with
        q0 := rest, q1 := s.actor.q1 ++ [stripOf ty (List.replicate (laneCount ty) (laneAt ty e 0))] })
    ∧ (s.actor.q1.length < 16 →
      let rs := (List.range (laneCount ty)).map fun k => laneFn ty m (fun _ => .fin false k 0) (fun _ => k) []
      VLeaves s s (.viota 30#5 t) { s.actor with
        q1 := s.actor.q1 ++ [stripOf ty (rs.map Prod.fst)], flags := s.actor.flags ||| (rs.map Prod.snd).foldl (· ||| ·) 0#6 }))
  ∧ (∀ (s : State) (d a : BitVec 5) (i : BitVec 16) (ty n : Nat) (e : QEntry) (rest : List QEntry), ReadyE s →
    QueueView s d ty n → QueueView s a ty n → s.actor.q1.length < 16 →
    let m := s.actor.rmode.toNat
    let imm := if ty = 0 then i.toNat * 2 ^ 16 else if 8 ≤ ty then wrapTo (typeBits ty) i.toInt else i.toNat
    let gives := fun (j : Instr) (f : List Nat → Nat × BitVec 6) =>
      let rs := (lanesOf ty n e).map fun x => f [x, imm]
      VLeaves s s j { s.actor with
        q0 := rest, q1 := s.actor.q1 ++ [stripOf ty (rs.map Prod.fst)]
        flags := s.actor.flags ||| (rs.map Prod.snd).foldl (· ||| ·) 0#6 }
    (okFI ty = true → s.actor.q0 = e :: rest → e.isOf ty →
      gives (.vaddi d a i) (laneFn ty m (fun v => addVal m (valAt v 0) (valAt v 1)) fun v => intAt v 0 + intAt v 1)
      ∧ gives (.vmuli d a i) (laneFn ty m (fun v => mulVal (valAt v 0) (valAt v 1)) fun v => intAt v 0 * intAt v 1)
      ∧ gives (.vmaxi d a i) (fun xs => pick ty true (src xs 0) (src xs 1)))
    ∧ (okFI ty = true → VLeaves s s (.vseti d i) { s.actor with
        q1 := s.actor.q1 ++ [stripOf ty (List.replicate n imm)] })
    ∧ (ty = 3 ∨ ty = 4 → VLeaves s s (.vseti d i) { s.actor with
        q1 := s.actor.q1 ++ [stripOf ty ((List.range n).map fun k => if k % 2 = 0 then i.toNat % 256 else i.toNat / 256)] }))

/-- O44. VRED, VDOT, VSCAN, VTOPK and VPERM over queue views of one dimension (09 R206-R211). -/
def Obligations.ReductionsAndPermutes : Prop :=
  ∀ (s : State) (d a b : BitVec 5) (t : BitVec 4) (o : BitVec 2) (w k : BitVec 1) (n l : Nat) (e f : QEntry)
    (rest : List QEntry), ReadyE s → tyFI t = true → o ≠ 3#2 →
    let ty := t.toNat
    let m := s.actor.rmode.toNat
    (QueueView s a ty n → e.isOf ty → s.actor.q3.length < 8 →
      (s.actor.q0 = e :: rest →
        let r := reduce o.toNat ty m ((lanesOf ty n e).map some)
        VLeaves s s (.vred 31#5 a t o 0#2) { s.actor with
          q0 := rest, q3 := s.actor.q3 ++ [scalarWord ty r.1], flags := s.actor.flags ||| r.2 })
      ∧ (QueueView s b ty n → f.isOf ty → s.actor.q0 = e :: f :: rest →
        let r := dot ty m (((lanesOf ty n e).zip (lanesOf ty n f)).map some)
        VLeaves s s (.vdot 31#5 a b t 0#2) { s.actor with
          q0 := rest, q3 := s.actor.q3 ++ [scalarWord ty r.1], flags := s.actor.flags ||| r.2 }))
    ∧ (QueueView s a ty n → QueueView s d ty n → e.isOf ty → s.actor.q0 = e :: rest → s.actor.q1.length < 16 →
      let r := scanBeat o.toNat ty m 0 [n] (BitVec.allOnes 64) (laneCount ty) [if o = 0#2 then 1 else 0]
        ((List.range n).zip (lanesOf ty n e))
      VLeaves s s (.vscan d a t o 0#2) { s.actor with
        q0 := rest, q1 := s.actor.q1 ++ [stripOf ty r.2.1], flags := s.actor.flags ||| r.2.2 })
    ∧ (QueueView s a ty l → QueueView s d ty n → n ≤ l → e.isOf ty → s.actor.q0 = e :: rest → s.actor.q1.length < 15 →
      let top := (topList ty (w == 1#1) ((List.range l).zip (lanesOf ty l e))).take n
      VLeaves s { s with freeCount := s.freeCount + 2 * n } (.vtopk d a 0#5 t 0#1 w) { s.actor with
        q0 := rest, q1 := s.actor.q1 ++ [stripOf ty (top.map Prod.snd)] }
      ∧ (QueueView s b 13 n → VLeaves s { s with freeCount := s.freeCount + 2 * n } (.vtopk d a b t 1#1 w) { s.actor with
        q0 := rest, q1 := s.actor.q1 ++ [stripOf ty (top.map Prod.snd), stripOf 13 (top.map Prod.fst)] }))
    ∧ (let it := if k = 1#1 then 13 else 11
      QueueView s a ty l → QueueView s d ty n → QueueView s b it n → e.isOf ty → f.isOf it → s.actor.q0 = e :: f :: rest →
      s.actor.q1.length < 16 →
      VLeaves s { s with freeCount := s.freeCount + n } (.vperm d a b t w k) { s.actor with
        q0 := rest
        q1 := s.actor.q1 ++ [stripOf ty ((lanesOf it n f).map fun j =>
          if l ≤ j ∧ w = 0#1 then 0 else laneAt ty e (j % l))] })
    ∧ ∀ xs : List (Nat × Nat), (topList ty (w == 1#1) xs).Perm xs

/-- O45. VCVT takes its source type from the tag of the entry it pops; VBQ quantises a block of 64 elements with one scale;
VBDQ scales them back (09 R203-R205, 07 R152-R158). -/
def Obligations.ConversionsAndBlocks : Prop :=
  ∀ (s : State) (d a b : BitVec 5) (t : BitVec 4) (e f : QEntry) (rest : List QEntry), ReadyE s →
    let m := s.actor.rmode.toNat
    let ty := t.toNat
    (∀ from', from' < 16 → okMove from' = true → okMove ty = true → e.isOf from' → s.actor.q0 = e :: rest →
      (∀ j, from' = 5 → laneAt 5 e j ≠ reservedL6) →
      let one := fun (x : Nat) => if from' = ty then (x, 0#6) else convert from' ty m false x
      (s.actor.q3.length < 8 → VLeaves s s (.vcvt 31#5 30#5 t) { s.actor with
        q0 := rest, q3 := s.actor.q3 ++ [scalarWord ty (one (laneAt from' e 0)).1]
        flags := s.actor.flags ||| (one (laneAt from' e 0)).2 })
      ∧ (laneCount from' = laneCount ty → s.actor.q1.length < 16 →
        let rs := (List.range (laneCount ty)).map fun j => one (laneAt from' e j)
        VLeaves s s (.vcvt 30#5 30#5 t) { s.actor with
          q0 := rest, q1 := s.actor.q1 ++ [stripOf ty (rs.map Prod.fst)]
          flags := s.actor.flags ||| (rs.map Prod.snd).foldl (· ||| ·) 0#6 }))
    ∧ (∀ src', src' = 1 ∨ src' = 2 → (let v := s.actor.z[a.toNat]'a.isLt
        a.toNat < 30 ∧ zMalformed v = false ∧ zSpace v = 5 ∧ zType v = src' ∧ zRank v = 1 ∧ zDim v 0 = 64) →
      (ty = 6 ∨ ty = 7) → QueueView s d ty 64 → QueueView s b 9 1 → s.actor.q0 = e :: f :: rest → e.isOf src' → f.isOf src' →
      s.actor.q1.length < 15 →
      let r := encodeBlock ty m false ((lanesOf src' 32 e ++ lanesOf src' 32 f).map (decodeVal src'))
      VLeaves s s (.vbq d a b t) { s.actor with
        q0 := rest, q1 := s.actor.q1 ++ [stripOf ty r.1, stripOf 9 [r.2.1]], flags := s.actor.flags ||| r.2.2 })
    ∧ (∀ blk, blk = 6 ∨ blk = 7 → ty = 1 ∨ ty = 2 → QueueView s a blk 64 → QueueView s b 9 1 →
      (let v := s.actor.z[d.toNat]'d.isLt
        d.toNat < 30 ∧ zMalformed v = false ∧ zSpace v = 5 ∧ zType v = ty ∧ zRank v = 1 ∧ zDim v 0 = 64 ∧ zRdonly v = false) →
      s.actor.q0 = e :: f :: rest → e.isOf blk → f.isOf 9 → s.actor.q1.length < 15 →
      (∀ j, j < 64 → blk = 6 → laneAt 6 e j ≠ reservedL6) →
      let rs := (lanesOf blk 64 e).map fun x => encodeFloat ty m false (decodeScaled blk x (laneAt 9 f 0))
      VLeaves s s (.vbdq d a b t) { s.actor with
        q0 := rest
        q1 := s.actor.q1 ++ [stripOf ty ((rs.take 32).map Prod.fst), stripOf ty ((rs.drop 32).map Prod.fst)]
        flags := s.actor.flags ||| (rs.map Prod.snd).foldl (· ||| ·) 0#6 })

/-- O46. Predicates (09 R192, R200-R202; 02 R36): VCMP writes a bit a lane, VSEL chooses by lane, and the predicate operations;
p0 reads all ones and discards what is written. -/
def Obligations.PredicatesAndSelection : Prop :=
  ∀ (s : State) (t : BitVec 4) (c p q r : BitVec 3) (e f : QEntry) (rest : List QEntry), ReadyE s →
    let ty := t.toNat
    let val := fun (k : BitVec 3) => if k = 0#3 then BitVec.allOnes 64 else s.actor.p[k.toNat]'k.isLt
    let sets := fun (k : BitVec 3) (v : Word) (x : Ctx) => if k = 0#3 then x else { x with p := x.p.set k.toNat v k.isLt }
    (ty ≠ 5 → e.isOf ty → f.isOf ty → s.actor.q0 = e :: f :: rest →
      (∃ v : Word, (∀ j, j < 64 → v.getLsbD j = (decide (j < laneCount ty) && (compareLane ty c.toNat (laneAt ty e j) (laneAt ty f j)).1))
        ∧ VLeaves s s (.vcmp 30#5 30#5 t c p) (sets p v { s.actor with
          q0 := rest
          flags := s.actor.flags |||
            (((List.range (laneCount ty)).map fun j => (compareLane ty c.toNat (laneAt ty e j) (laneAt ty f j)).2).foldl (· ||| ·) 0#6) }))
      ∧ (s.actor.q1.length < 16 → VLeaves s s (.vsel 30#5 30#5 30#5 t p) { s.actor with
          q0 := rest
          q1 := s.actor.q1 ++ [stripOf ty ((List.range (laneCount ty)).map fun j =>
            if (val p).getLsbD j then laneAt ty e j else laneAt ty f j)] }))
    ∧ VLeaves s s (.pand p q r) (sets r (val p &&& val q) s.actor) ∧ VLeaves s s (.por p q r) (sets r (val p ||| val q) s.actor)
    ∧ VLeaves s s (.pxor p q r) (sets r (val p ^^^ val q) s.actor) ∧ VLeaves s s (.pnot p r) (sets r (~~~val p) s.actor)
    ∧ (s.actor.q3.length < 8 → VLeaves s s (.pcnt p) { s.actor with
        q3 := s.actor.q3 ++ [BitVec.ofNat 64 ((List.range 64).countP fun j => (val p).getLsbD j)] })
    ∧ (∀ x rest, s.actor.q2 = x :: rest →
      VLeaves s s (.pset 0#1 r) (sets r x { s.actor with q2 := rest })
      ∧ ∃ v : Word, (∀ j, j < 64 → v.getLsbD j = decide (j < x.toNat)) ∧ VLeaves s s (.pset 1#1 r) (sets r v { s.actor with q2 := rest }))

/-- O47. View registers (05 R92, R94, R109): ZSET writes the field its selector names, ZINC moves OFFSET, ZLD and ZST exchange
with the process's view table; VTAG and VTAGRD set and read the tags of the granules a view touches. -/
def Obligations.ViewRegisters : Prop :=
  ∀ (s : State) (d a f : BitVec 5), ReadyE s →
    let z := s.actor.z[a.toNat]'a.isLt
    (∀ x rest, s.actor.q2 = x :: rest →
      (x.toNat < 2 ^ 32 → ∃ v : BitVec 256, zOffset v = x.toNat ∧ (∀ j, j < 256 → (j < 32 ∨ 64 ≤ j) → v.getLsbD j = z.getLsbD j)
        ∧ VLeaves s s (.zset d a 0#5) { s.actor with q2 := rest, z := s.actor.z.set d.toNat v d.isLt })
      ∧ (∀ k, 1 ≤ f.toNat → f.toNat ≤ 4 → k = f.toNat - 1 → x.toNat < 2 ^ 16 → ∃ v : BitVec 256, zDim v k = x.toNat
        ∧ (∀ j, j < 256 → (j < 64 + 16 * k ∨ 80 + 16 * k ≤ j) → v.getLsbD j = z.getLsbD j)
        ∧ VLeaves s s (.zset d a f) { s.actor with q2 := rest, z := s.actor.z.set d.toNat v d.isLt })
      ∧ (∀ k, 5 ≤ f.toNat → f.toNat ≤ 8 → k = f.toNat - 5 → -2 ^ 31 ≤ x.toInt → x.toInt < 2 ^ 31 →
        ∃ v : BitVec 256, zStride v k = x.toInt
        ∧ (∀ j, j < 256 → (j < 128 + 32 * k ∨ 160 + 32 * k ≤ j) → v.getLsbD j = z.getLsbD j)
        ∧ VLeaves s s (.zset d a f) { s.actor with q2 := rest, z := s.actor.z.set d.toNat v d.isLt })
      ∧ (x.toNat < 2 ^ 32 → (s.actor.streams.any fun t => t.1 = d.toNat) = false → ∃ v : BitVec 256,
        (∀ j, j < 256 → v.getLsbD j = if j = 22 then false else if j < 32 then x.getLsbD j else z.getLsbD j)
        ∧ VLeaves s s (.zset d a 9#5) { s.actor with q2 := rest, z := s.actor.z.set d.toNat v d.isLt })
      ∧ (f.toNat < 4 → ∃ v : BitVec 256, (zOffset v : Int) = ((zOffset z : Int) + x.toInt * zStride z f.toNat) % 2 ^ 32
        ∧ (∀ j, j < 256 → (j < 32 ∨ 64 ≤ j) → v.getLsbD j = z.getLsbD j)
        ∧ VLeaves s s (.zinc d a f) { s.actor with q2 := rest, z := s.actor.z.set d.toNat v d.isLt })
      ∧ (∃ v : BitVec 256, (zOffset v : Int) = ((zOffset z : Int) + x.toInt) % 2 ^ 32
        ∧ VLeaves s s (.zinc d a 4#5) { s.actor with q2 := rest, z := s.actor.z.set d.toNat v d.isLt }))
    ∧ VLeaves s s (.zld d f) { s.actor with z := s.actor.z.set d.toNat (find s.self.views f.toNat 0#256) d.isLt }
    ∧ VLeaves s (s.modProc s.activity.slot fun p => { p with views := put p.views f.toNat z }) (.zst a f) s.actor
    ∧ (∀ o n t, tagView d.toNat (s.routeE (.vtag d n t)) = .ok (o, s.routeE (.vtag d n t)) →
      let u := (o.granules (List.range (zCount o.view))).foldl (fun s g =>
        if s.tagged s.turn.core (g * 64) then s.setTag s.turn.core g (if n = 1#1 then 0#5 else tagOf t.toNat) else s) s
      VLeaves s u (.vtag d n t) u.actor)
    ∧ (∀ o, tagView a.toNat (s.routeE (.vtagrd a)) = .ok (o, s.routeE (.vtagrd a)) → s.actor.q3.length < 8 →
      let gs := o.granules (List.range (zCount o.view))
      let g := (s.core s.turn.core).tag (gs.headD 0)
      VLeaves s s (.vtagrd a) { s.actor with
        q3 := s.actor.q3 ++ [BitVec.ofNat 64 (g.toNat + if gs.all fun x => (s.core s.turn.core).tag x == g then 32 else 0)] })

/-- O48. The frame of the vector driver: whatever views it reads and writes, memory, the registers a1-a29, the views, the
predicates, the system registers, the outbox and every process stay as they are; a lane governed off under merging keeps
its element (05 R97, 09 R192). -/
def Obligations.VectorFrame : Prop :=
  ∀ (s u : State) (p : Plan) (h : Hints) (f : Nat → List Nat → Nat × BitVec 6) (d : Disp), runEach p h f s = .ok (d, u) →
    u.mem = s.mem ∧ u.procs = s.procs ∧ u.parts = s.parts ∧ u.clusters = s.clusters ∧ u.turn = s.turn ∧ u.freeCount = s.freeCount
      ∧ u.actor.a = s.actor.a ∧ u.actor.z = s.actor.z ∧ u.actor.p = s.actor.p ∧ u.actor.flags = s.actor.flags
      ∧ u.actor.rmode = s.actor.rmode ∧ u.actor.outbox = s.actor.outbox ∧ u.actor.pc = s.actor.pc
      ∧ (∀ n, n ≠ s.turn.core → (u.core n).pool = (s.core n).pool ∧ (u.core n).tags = (s.core n).tags)
      ∧ ∀ gov lanes k x, laneValue gov lanes false k x = if gov.getLsbD (k % lanes) then some x else none

/-! ## Rows without an encoding: the Keystone, the host, registers -/

namespace Sys2Proof.Machine

/-- A row of the table without an encoding takes place and leaves this state. -/
def Goes (s : State) (i : Instr) (t : State) : Prop := exec i s = .next t

/-- A mailbox command of this code is in progress, outside minimal mode (22 R395, R397). -/
def MailIs (s : State) (code : Nat) : Prop :=
  s.keystone.busy = true ∧ s.keystone.cmd.toNat % 256 = code ∧ s.keystone.minimal = false

end Sys2Proof.Machine

/-- O49. DEVICE_RESET, DEVICE_START, THERMAL_TRIP and the mailbox's RESET (01 R17; 22 R396, R397): a start fails at its first stage
that fails, stage 2 where neither firmware slot verifies and stage 3 where another image does not. That the bytes of memory and what
flash and fuses hold outlive a reset is the model's reading, and whether a signature verifies is an operand (log 35). -/
def Obligations.DevicesResetAndStart : Prop :=
  ∀ (s : State),
    (∃ t, Goes s .deviceReset t ∧ t.cores = [] ∧ t.clusters = [] ∧ t.procs = [] ∧ t.chans = [] ∧ t.nets = [] ∧ t.parts = []
      ∧ t.dies = [] ∧ t.ports = [] ∧ t.arrays = [] ∧ t.engines = [] ∧ t.cyc = 0 ∧ t.time = 0 ∧ t.keystone.stage = 0
      ∧ t.keystone.busy = false ∧ t.mem = s.mem ∧ t.keystone.fails = s.keystone.fails ∧ t.keystone.leaf = s.keystone.leaf
      ∧ t.keystone.kiln = s.keystone.kiln ∧ t.keystone.fused = s.keystone.fused ∧ t.keystone.stagedImg = s.keystone.stagedImg
      ∧ (MailIs s 0x40 → Goes s .mailboxReset t.runStart)
      ∧ (s.keystone.fails < 3 → Goes t .deviceStart t.runStart))
    ∧ (s.keystone.stage ≠ 7 → s.keystone.minimal = false →
      let slot := s.verifies 0 = true ∨ s.verifies 1 = true
      (s.failsAt = 0 → ∃ t, Goes s .deviceStart t ∧ t.keystone.stage = 7 ∧ t.keystone.fails = 0
        ∧ t.keystone.minimal = false ∧ t.devidx = (s.given 1).toNat % 256 ∧ t.mem = s.mem ∧ t.cores = s.cores
        ∧ ∀ p, p < 12 → (t.port p).state = (if (s.given 0).getLsbD p then .up else (s.port p).state)
          ∧ ((s.given 0).getLsbD p = true → (t.port p).stopAt = (s.given (2 + p)).toNat + 4))
      ∧ (s.failsAt ≠ 0 → ∃ k : Keystone, Goes s .deviceStart { s with keystone := k }
        ∧ k.stage = s.failsAt ∧ k.fails = min 3 (s.keystone.fails + 1) ∧ k.minimal = decide (2 ≤ s.keystone.fails)
        ∧ k.reason = [6, 1, 1, 3, 2, 4].getD (s.failsAt - 1) 0
        ∧ (k.kiln = true ↔ 2 ≤ s.keystone.fails ∧ s.failsAt = 2))
      ∧ (¬(1 ≤ s.turn.val ∧ s.turn.val ≤ 6) → slot → s.verifies 2 = true → s.failsAt = 0)
      ∧ (s.turn.val ≠ 1 → ¬slot → s.failsAt = 2) ∧ (slot → s.turn.val = 0 ∨ 3 ≤ s.turn.val → s.verifies 2 = false → s.failsAt = 3)
      ∧ (1 ≤ s.turn.val → s.turn.val ≤ 6 → ∃ k : Keystone, Goes s .thermalTrip { s with keystone := k }
        ∧ k.stage = s.turn.val ∧ k.fails = min 3 (s.keystone.fails + 1) ∧ k.minimal = decide (2 ≤ s.keystone.fails) ∧ k.reason = 5
        ∧ k.kiln = false))

/-- O50. The mailbox commands PART_SET, DEV_SET, SPDM, IMAGE_LOAD and CKPT_START, and a message over MCTP (22 R392-R395, R398,
R401). An SPDM request of a code that is not supported gets an error response; a signed response carries the leaf's index with an LMS
signature and then an ECDSA one, once flash has the next leaf. The bytes of an SPDM response are SPDM's and stand free, and the codes
and lengths that the manual does not give are the model's (log 36); which
operands a command's row carries is the model's (logs 32, 37); so is a refusal's result other than 0 (log 38). -/
def Obligations.MailboxCommands : Prop :=
  ∀ (s : State),
    (∀ (r : Nat) (bs : List Byte), bs.length ≤ 4096 →
      let t := s.mailDone r bs
      t = { s with keystone := t.keystone } ∧ t.keystone.busy = false ∧ t.keystone.result = r ∧ t.keystone.replyLen = bs.length
        ∧ (s.keystone.buffer.wf = true → readBytes t.keystone.buffer 0 bs.length = bs))
    ∧ (MailIs s 1 → s.turn.unit < 8 →
      let p := s.turn.unit
      let q : Partition := { record := recordOf (BitVec.ofNat 512 (readNat s.keystone.buffer 0 64)),
                             aperture := apertureOf (BitVec.ofNat 512 (readNat s.keystone.buffer 64 64)) }
      (s.keystone.len = 128 → s.partRefused p q = false →
        Goes s .partSet ((s.setPart p q (fieldOf (s.given 0) 51 0) (s.given 1)).mailDone 0 [])
        ∧ (q.valid = false → s.setPart p q (fieldOf (s.given 0) 51 0) (s.given 1)
          = [0, 1, 2, 3].foldl (fun s d => s.modDie d fun k => k.setMask s.cyc p ((s.given 1).setWidth 16))
            (s.modPart p fun _ => q)))
      ∧ (s.partRefused p q = true → ∃ r, r ≠ 0 ∧ Goes s .partSet (({ s with freeCount := s.freeCount + 1 } : State).mailDone r [])))
    ∧ (MailIs s 2 → ∀ r, devRegAt (s.keystone.word 0).toNat = some r →
      (r = .pctl ∨ r = .schctl ∨ (∃ d, r = .scfg d) ∨ ∃ p, r = .portstat p) →
      Goes s .devSet ((s.devWrite (s.keystone.word 1) r).mailDone 0 []))
    ∧ (let t : State := { s with freeCount := s.freeCount + 1 }
      let sent : State := { t with keystone := { t.keystone with leaf := t.keystone.leaf + 1 } }
      let answers := fun (req : List Byte) (i : Instr) (done : State → List Byte → State) =>
        let ver := req.getD 0 0#8
        let code := req.getD 1 0#8
        let known := code.toNat ∈ [0x84, 0xE1, 0xE3, 0x81, 0x82, 0x83, 0xE0]
        let signed := code = 0x83#8 ∨ (code = 0xE0#8 ∧ (req.getD 2 0#8).getLsbD 0 = true)
        let leaves := s.keystone.leaf < 2 ^ 20 ∧ s.turn.ok = true
        (¬known → Goes s i (done s [ver, 0x7F#8, 0x07#8, code]))
        ∧ (known → ¬signed → ∃ bs, 2 ≤ bs.length ∧ Goes s i (done t ([ver, code &&& 0x7F#8] ++ bs)))
        ∧ (known → signed → leaves → ∃ bs lms ecdsa, lms.length = 2824 ∧ ecdsa.length = 96
          ∧ Goes s i (done sent ([ver, code &&& 0x7F#8] ++ bs ++ (bytesOfNat 4 s.keystone.leaf).reverse ++ lms ++ ecdsa)))
        ∧ (known → signed → ¬leaves → ∃ x y : Byte, Goes s i (done t [ver, 0x7F#8, x, y]))
      (MailIs s 0x10 → answers (readBytes s.keystone.buffer 0 (min 4096 s.keystone.len)) .spdm fun u bs => u.mailDone 0 bs)
      ∧ (s.turn.sub = 0 → answers s.turn.bytes .mctpI3cMessage fun u bs => { u with hostReply := bs })
      ∧ (s.turn.sub = 1 → ∃ bs, Goes s .mctpI3cMessage { t with hostReply := bs })
      ∧ (s.turn.sub = 2 → Goes s .mctpI3cMessage
        { s with keystone := { s.keystone with stagedImg := s.keystone.stagedImg ++ [s.turn.bytes] } }))
    ∧ (MailIs s 0x20 → Goes s .imageLoad
      (({ s with keystone := { s.keystone with
          stagedImg := s.keystone.stagedImg ++ [readBytes s.keystone.buffer 0 (min 4096 s.keystone.len)] } } : State).mailDone 0 []))
    ∧ (MailIs s 0x30 → s.turn.unit < 8 →
      let r := s.part s.turn.unit
      let dest := (s.given 0).toNat
      let stg := (s.given 1).toNat
      r.valid = true → r.destOk dest = true → r.mbase ≤ stg → stg + 2 ^ 26 ≤ r.mbase + r.msize → s.cutting s.turn.unit = false →
      Goes s .ckptStart (({ s with
        ckpts := put s.ckpts s.turn.unit { part := s.turn.unit, dest := dest, staging := stg } } : State).mailDone 0 []))

/-- O51. The host's side (22 R388-R390; 11 R425; 15 R377): a GO of an end window sends its words once and sets LOST while BUSY;
an event takes the next place of the ring; BAR2 reads and writes the partition's range, and beyond it freezes the function;
an access that N0 passes on is performed. When BUSY clears, where host addresses lie in the physical map, and that a frozen function drops writes and goes on reading, are
the model's choices (log 33). -/
def Obligations.TheHostReachesTheDevice : Prop :=
  (∀ (s : State), s.turn.unit < 8 →
    let p := s.turn.unit
    let w := s.turn.sub
    let x := s.window p w
    let v := s.given 0
    let words := min 4 (v.toNat % 16)
    let lost := x.lost && !v.getLsbD 61
    (w < 16 → s.turn.val ≠ 1 → (s.part p).valid = true → (s.part p).frozen = false → ∀ k, x.chan = some k →
      (x.busy = false → ∃ m : Msg, m.kind = .data ∧ m.chid = s.devidx * 2 ^ 24 + k ∧ m.seq = x.seq ∧ m.window = some (16 * p + w)
        ∧ m.words = (rangeFrom 0 words).map (fun i => find x.payload i 0#64) ∧
        Goes s .hostWindowGo
          ((s.modWindow p w fun x => { x with words := words, lost := lost, busy := true, seq := (x.seq + 1) % 2 ^ 32 }).sendPkt
            (ioCluster 0) ((s.chan k).home / 4) p (.toHome m)))
      ∧ (x.busy = true → Goes s .hostWindowGo (s.modWindow p w fun x => { x with words := words, lost := true })))
    ∧ (w < 16 → s.turn.val = 1 → s.windowOut p w = false → Goes s .hostWindowGo (s.modWindow p w fun x => { x with busy := false }))
    ∧ (w < 16 → ∀ e es, x.waiting = e :: es → x.evbase ≠ 0#64 → (x.prod + 2 ^ 16 - x.cons) % 2 ^ 16 ≠ 64 →
      let a := 0x800000000000 + (x.evbase.toNat + 128 * (x.prod % 64)) % 2 ^ 47
      Goes s .hostEventEntry ((({ s with mem := writeBytes s.mem a (ringEntry e) } : State)).modWindow p w fun x =>
        { x with waiting := es, prod := (x.prod + 1) % 2 ^ 16 })
      ∧ (ringEntry e).length = 128
      ∧ ∀ k, k < 8 → ((ringEntry e).drop (8 * (k + 1))).take 8 = bytesOfNat 8 (e.payload.getD k 0#64).toNat)
    ∧ ((s.part p).valid = true →
      let a := (s.part p).mbase + s.turn.sub
      (∀ n, s.turn.bytes = [] → n = min 4096 s.turn.val → 0 < n → s.turn.sub + n ≤ (s.part p).msize →
        ∃ t, Goes s .hostBar2Access t ∧ t.hostReply = readBytes s.mem a n ∧ t.mem = s.mem ∧ t.cores = s.cores)
      ∧ (s.turn.bytes ≠ [] → (s.part p).frozen = true → Goes s .hostBar2Access s)
      ∧ (s.turn.bytes ≠ [] → (s.part p).frozen = false → s.turn.sub + s.turn.bytes.length ≤ (s.part p).msize → s.stageFull a = false →
        s.stageFull (a + s.turn.bytes.length - 1) = false →
        Goes s .hostBar2Access (s.write { part := p, die := 4, kind := .host } a s.turn.bytes))
      ∧ (s.turn.bytes ≠ [] → (s.part p).frozen = false → (s.part p).msize < s.turn.sub + s.turn.bytes.length →
        s.turn.sub + s.turn.bytes.length ≤ bar2Size (s.part p).msize →
        ∃ t, Goes s .hostBar2Access t ∧ (t.part p).frozen = true ∧ t.mem = s.mem ∧ t.cores = s.cores
          ∧ t.keystone.posts.length = s.keystone.posts.length + 1))
    ∧ ∃ t, Goes s .hostFunctionReset t ∧ (t.part p).frozen = false ∧ t.mem = s.mem ∧ t.cores = s.cores)
  ∧ ∀ (s : State) (r : HostReq) (rs : List HostReq), s.hostReqs = r :: rs →
    (∀ bs, r.bytes = some bs → ∃ t, Goes s .hostCxlAccess t ∧ t.hostReqs = rs ∧ t.mem = writeAt s.mem r.addrs bs
      ∧ t.cores = s.cores ∧ t.procs = s.procs)
    ∧ (r.bytes = none → ∃ t, Goes s .hostCxlAccess t ∧ t.mem = s.mem ∧ t.hostReqs = rs
      ∧ let own := s.turn.bytes.isEmpty
        let bs := if own then r.addrs.map (readByte s.mem) else s.turn.bytes.take r.size
        let x : Reply := { value := BitVec.ofNat 64 (natOfBytes bs), know := if own then s.knownAt r.addrs else [] }
        ∀ q, (s.ctx r.core r.ctx).pend = some q → q.id = r.req → (t.ctx r.core r.ctx).pend = some { q with reply := some x })

/-- O52. Device registers (00 R4; 03 R58; 04 R69-R72; 12 R278; 22 R395; 23 R404-R408): what their rows write, for the Keystone
or the partition that may. A fill of the clock of the write still follows the old RWAYS and the old mask (04 R67, R69); a
counter takes the value written and the events of the clock (23 R408); DONE waits
for the accesses that used a dropped translation, and held GOs then take effect in order, each with the VPAGE it was written with (log 66). REGISTER_WRITE with sub 2 as the reset of a system copy engine is the model's choice
(log 34). -/
def Obligations.RegistersAreWritten : Prop :=
  ∀ (s : State),
    let v := s.given 0
    let d := s.turn.unit
    let may := fun (r : DevReg) => s.turn.val = 8 ∨ r.writable s.turn.val v = true
    (s.turn.val = 8 →
      (d < 4 → ∃ k : Die, Goes s .scfgWrite (s.modDie d fun _ => k)
        ∧ k = { s.die d with mcwin := fieldOf v 15 8, rways := min 8 (fieldOf v 3 0), rwaysWas := k.rwaysWas }
        ∧ k.rwaysAt s.cyc = (s.die d).rwaysAt s.cyc ∧ ∀ c, s.cyc < c → k.rwaysAt c = min 8 (fieldOf v 3 0))
      ∧ Goes s .pctlWrite { s with pftmo := max 1 (fieldOf v 31 16) }
      ∧ (d < 12 → Goes s .portstatClr (s.modPort d fun k => { k with replay := 0, stomp := 0, drop := 0 })
        ∧ Goes s .portstatRetrain (s.modPort d fun k => { k with state := .training, row := 0 }))
      ∧ (s.turn.sub = 0 → ∀ r, devRegAt d = some r → Goes s .registerWrite (s.devWrite v r)))
    ∧ (d < 4 → s.turn.sub < 8 → may (.fillmask d s.turn.sub) →
      ∃ k : Die, Goes s .fillmaskWrite (s.modDie d fun _ => k)
        ∧ k = { s.die d with fillmask := put (s.die d).fillmask s.turn.sub (v.setWidth 16), maskWas := k.maskWas }
        ∧ k.maskAt s.cyc s.turn.sub = (s.die d).maskAt s.cyc s.turn.sub
        ∧ ∀ c, s.cyc < c → k.maskAt c s.turn.sub = v.setWidth 16)
    ∧ (d < 8 → s.turn.sub < 64 → may (.pcnt d s.turn.sub) →
      Goes s .pcntWrite (s.modObs d fun o => { o with pcnt := put o.pcnt s.turn.sub (v + find (o.inClock s.cyc) s.turn.sub 0#64) }))
    ∧ (d < 8 → s.turn.sub = 0 → may (.sring d) → ∃ x : Word, Goes s .ringConfigWrite (s.modObs d fun o => { o with sring := x })
      ∧ fieldOf x 47 12 = fieldOf v 47 12 ∧ fieldOf x 4 0 = (if s.ringRejected d v then 0 else fieldOf v 4 0))
    ∧ (d < 4 → s.turn.val = 8 →
      let size := fieldOf v 6 4
      ((s.die d).done = true → ∃ t, Goes s .tinvcGo t ∧ (t.die d).done = decide (6 ≤ size) ∧ (t.die d).err = decide (6 ≤ size)
        ∧ t.mem = s.mem
        ∧ (size < 6 → ∀ c, dieOf c = d → ∀ e ∈ (t.cluster c).tlb, e.dropped (fieldOf v 10 8) (s.die d).tinva.toNat (tinvBits size) = false))
      ∧ ((s.die d).done = false → ∃ x : Word, x.toNat % 2 = 1 ∧ x.toNat / 2 = v.toNat / 2 ∧
        Goes s .tinvcGo (s.modDie d fun k => { k with held := k.held ++ [(k.tinva, x)] })))
    ∧ (d < 4 → (s.die d).done = false →
      ((s.hostReqs.any fun r => (s.die d).users.contains r.req) = true → Goes s .tinvcDone s)
      ∧ ((s.hostReqs.any fun r => (s.die d).users.contains r.req) = false →
        ((s.die d).held = [] → Goes s .tinvcDone (s.modDie d fun k => { k with done := true, users := [], held := [] }))
        ∧ ∀ h hs, (s.die d).held = h :: hs → ∃ t, Goes s .tinvcDone t ∧ t.mem = s.mem
          ∧ (fieldOf h.2 6 4 < 6 → (t.die d).done = false ∧ (t.die d).err = false ∧ (t.die d).held = hs
            ∧ ∀ c, dieOf c = d → ∀ e ∈ (t.cluster c).tlb, e.dropped (fieldOf h.2 10 8) h.1.toNat (tinvBits (fieldOf h.2 6 4)) = false)
          ∧ (hs = [] → 6 ≤ fieldOf h.2 6 4 → (t.die d).done = true ∧ (t.die d).err = true ∧ (t.die d).held = [])))
    ∧ (s.turn.sub = 1 → s.turn.val = 0 → d % 8 = 0 →
      (d < 0x1000 → Goes s .registerWrite
        { s with keystone := { s.keystone with buffer := writeBytes s.keystone.buffer d (bytesOfNat 8 v.toNat) } })
      ∧ (d = 0x1800 → s.keystone.busy = false → ∃ c : Word, fieldOf c 7 0 = fieldOf v 7 0 ∧ fieldOf c 31 16 = fieldOf v 31 16 ∧
        Goes s .registerWrite { s with keystone := { s.keystone with cmd := c, busy := true } })
      ∧ (d = 0x1800 → s.keystone.busy = true → Goes s .registerWrite s))
    ∧ (s.turn.sub = 2 → d < 128 → ∃ t, Goes s .registerWrite t ∧ (find t.engines d {}).frozen = false
      ∧ (find t.engines d {}).queue = (find s.engines d {}).queue ∧ t.mem = s.mem)

/-- O53. Sampling, idle states, time (23 R406, R411; 22 R399, R400): a sample when its period has passed; entry after ten
exit latencies where LATTOL allows the state; exit after its latency, which the host's accesses wait for (that work on its way
keeps the device awake is the model's reading, log 52; so is what a sample's reason rests on, log 53); the reference sends TIME, the
others slew towards it at the model's pace (log 3), and no TIME steps back. -/
def Obligations.SleepSamplesAndTime : Prop :=
  ∀ (s : State),
    let d := s.turn.unit
    let k := s.cluster d
    (coreOk d = true → (s.core d).samplep ≠ 0#32 → (s.core d).sampleAt + (s.core d).samplep.toNat ≤ s.cyc →
      let t := s.modCore d fun c => { c with sampleAt := c.sampleAt + c.samplep.toNat }
      ((s.core d).sampleNext = none → Goes s .pcSample t)
      ∧ ∀ j a, (s.core d).sampleNext = some j → (s.ctx d j).act = some a →
        let x := s.ctx d j
        Goes s .pcSample ((t.modCore d fun c => { c with sampleLast := j }).ringRecord a.part false []
          [BitVec.ofNat 64 s.time,
            BitVec.ofNat 64 (a.name % 2 ^ 32 * 2 ^ 32 + d % 2 ^ 14 * 2 ^ 16 + j % 4 * 2 ^ 8 + (s.core d).sampleReason j s.cyc % 32),
            x.nextA.setWidth 64, x.nextE.setWidth 64]))
    ∧ (clusterOk d = true → s.clusterIdle d = true →
      (k.idleSince = none → Goes s .idleEntry (s.modCluster d fun k => { k with idleSince := some s.time }))
      ∧ (∀ t p, k.idleSince = some t → s.clusterPart d = some p → k.idle = .run ∨ (k.idle = .i1 ∧ 50 ≤ (s.part p).lattol) → k.idleExit = none →
        let us := (s.part p).lattol
        (50 ≤ us → t + 500000 ≤ s.time → Goes s .idleEntry (s.modCluster d fun k => { k with idle := .i2 }))
        ∧ (2 ≤ us → us < 50 → t + 20000 ≤ s.time → Goes s .idleEntry (s.modCluster d fun k => { k with idle := .i1 }))
        ∧ (us < 2 → Goes s .idleEntry s)))
    ∧ (clusterOk d = true → s.clusterIdle d = false → k.idleSince ≠ none →
      Goes s .idleEntry (s.modCluster d fun k => { k with idleSince := none }))
    ∧ (s.idle = .run → s.idleExit = none → s.quiet = true → s.planAwake.any s.works = false →
      (∀ c, c ∈ s.clusters.map Prod.fst ∨ c ∈ s.cores.map (fun e => e.1 / 8) → s.clusterIdle c = true) →
      (∀ i, s.deviceIdle = some i → Goes s .deviceIdleEntry { s with idle := i })
      ∧ (∀ us, s.leastLattol = some us → s.deviceIdle = if 30000 ≤ us then some .i4 else if 2000 ≤ us then some .i3 else none))
    ∧ (s.turn.sub ≠ 1 → clusterOk d = true →
      (∀ us, (k.idle, us) ∈ [(Idle.i1, 2), (Idle.i2, 50)] → k.idleExit = none →
        Goes s .idleWake (s.modCluster d fun k => { k with idleExit := some (s.time + 1000 * us) }))
      ∧ (∀ t, k.idleExit = some t → t ≤ s.time →
        Goes s .idleExitDone (s.modCluster d fun k => { k with idle := .run, idleExit := none, idleSince := none })))
    ∧ (s.turn.sub = 1 →
      (∀ us, (s.idle, us) ∈ [(Idle.i3, 2000), (Idle.i4, 30000)] → s.idleExit = none →
        Goes s .idleWake { s with idleExit := some (s.time + 1000 * us) })
      ∧ (∀ t, s.idleExit = some t → t ≤ s.time →
        Goes s .idleExitDone { s with idle := .run, idleExit := none, agenda := s.hostWaits ++ s.agenda, hostWaits := [] }))
    ∧ (d < 8 → (s.part d).valid = true → (s.part d).frozen = false →
      ∃ t, Goes s .lattolWrite t ∧ (t.part d).lattol = (s.given 0).toNat % 2 ^ 32 ∧ t.mem = s.mem ∧ t.cores = s.cores)
    ∧ (d < 13 → ∀ p rest n, takeFirst (fun (p : PodPacket) => p.dst == s.devidx && p.body.timeOf.isSome && !p.stomped) (s.inputOf d)
        = some (p, rest) → p.body = .time n →
      s.turn.sub ≠ 1 → Goes s .timeMessage (if p.src < s.devidx then { s.setInput d rest with slew := (n : Int) - s.time }
        else s.setInput d rest))
    ∧ (s.turn.sub = 1 →
      let up := s.turn.words.map BitVec.toNat
      ((s.devidx ∈ up ∧ ∀ x ∈ up, s.devidx ≤ x) → ∃ t, Goes s .timeMessage t ∧ t.mem = s.mem ∧ t.time = s.time
        ∧ t.inject.length = s.inject.length + (up.filter (· != s.devidx)).length
        ∧ ∀ x ∈ up, x ≠ s.devidx → ∃ q ∈ t.inject, q.dst = x ∧ q.cls = 1 ∧ q.body = .time s.time)
      ∧ (¬(s.devidx ∈ up ∧ ∀ x ∈ up, s.devidx ≤ x) → Goes s .timeMessage s))
    ∧ ∀ c ns, s.time + ns / 2 ≤ (s.passTime c ns).time ∧ (s.passTime c ns).time ≤ s.time + 2 * ns
      ∧ (s.slew = 0 → (s.passTime c ns).time = s.time + ns)

/-! ## Rows of the memory system -/

/-- O54. Replies, slices, atomics at their homes, walks and watches, the pseudo-channel of a cluster's home (01 R9, R13, R19;
03 R55-R59; 04 R63-R73; 06 R125, R427; 11 R242-R244, R257-R261, R426). An access, a fill or an
invalidation changes no byte of memory, of which the model has one copy (log 4); a failed walk loads its entries and installs
nothing (log 11). -/
def Obligations.MemoryRowsTakePlace : Prop :=
  ∀ (s : State),
    let a := s.turn.sub
    let line := a / 128 * 128
    let d := s.turn.unit
    let h := homeOf line
    let kept := fun (t : State) => t.mem = s.mem ∧ t.cores = s.cores ∧ t.procs = s.procs
    let filled := fun (k part : Nat) (t : State) => (t.lineSet h).way k = { state := .clean, line := line, owner := part }
    (s.actor.pend = none → ∀ es e rest, s.actor.q0 = es ++ e :: rest → (∀ x ∈ es, x.awaits = true → x.req ≠ none) → e.awaits = true →
      e.req = none → Goes s .loadDataReturn (s.withActor { s.actor with q0 := es ++ { e with awaits := false } :: rest }))
    ∧ (∀ p r, s.actor.issues = true → s.actor.pend = some p → p.reply = some r → r.fault = none →
      (p.kind = .load → p.dest ≠ 31#5 → ∀ c', ({ s.actor with pend := none } : Ctx).dest p.dest
          (if p.ty = 8 ∨ p.ty = 10 ∨ p.ty = 12 then BitVec.ofInt 64 (signedOf (typeBits p.ty) r.value.toNat) else r.value) = some c' →
        Goes s .loadDataReturn ((s.learn s.agent r.know).ends4 c'))
      ∧ (p.kind = .atomic ∨ p.kind = .waita → ∀ c', ({ s.actor with pend := none } : Ctx).dest p.dest
          (if p.ty = 12 then BitVec.ofInt 64 (signedOf 32 r.value.toNat) else r.value) = some c' →
        Goes s .atomicReply
          ((s.learn s.agent r.know).ends4 (if p.setsStatus then { c' with statusReg := BitVec.ofNat 64 r.status } else c'))))
    ∧ (inHbm a = true → inHbm (a + s.turn.bytes.length) = true →
      (s.turn.bytes = [] → ∃ t, Goes s .sliceAccess t ∧ kept t ∧ (dieOf (s.turn.core / 8) = h.die →
        (∀ k, (s.lineSet h).hit line = some k → (t.lineSet h).hit line = some k ∧ (t.lineSet h).order.getLast? = some k)
        ∧ (∀ k, (s.lineSet h).hit line = none → (s.lineSet h).victim (s.eligible h.die s.activity.part false) = some k →
          filled k s.activity.part t)))
      ∧ (s.turn.bytes ≠ [] → s.stageFull a = false → s.stageFull (a + s.turn.bytes.length - 1) = false →
        Goes s .sliceAccess (s.write (s.writer 0) a s.turn.bytes)))
    ∧ (clusterOk d = true → s.turn.val < 8 → inHbm line = true → dieOf d = h.die →
      (∀ k, (s.lineSet h).hit line = some k → Goes s .sliceFillData s)
      ∧ ((s.lineSet h).hit line = none → ∀ k, (s.lineSet h).victim (s.eligible h.die s.turn.val false) = some k →
        ∃ t, Goes s .sliceFillData t ∧ kept t ∧ filled k s.turn.val t))
    ∧ (d < 4 → inHbm line = true → (s.lineSet (cachingOf line d)).hit line = none →
      Goes s .evictionReport { s with copies := put s.copies line ((find s.copies line []).filter (· != d)) })
    ∧ (d < 4 → ∀ (i : Instr) (want : DieMsg → Bool), (i = .remoteInvalidation ∧ (want = fun m => m.line == line))
        ∨ (i = .interDieMessage ∧ want = fun _ => true) →
      ∀ m rest, takeFirst (fun m => m.dst == d && want m && s.dieReady m) s.dieMsgs = some (m, rest) →
        ∃ t, Goes s i t ∧ kept t ∧ t.dieMsgs = rest ∧ ((t.lineSet (cachingOf m.line d)).hit m.line = none)
          ∧ d ∉ find t.copies m.line []
          ∧ ∀ k, k < 8 → (t.die d).vec.getD k 0
            = if k = d then (s.die d).vec.getD k 0 else laterCount ((s.die d).vec.getD k 0) (m.vec.getD k 0))
    ∧ (inHbm a = true → a % 16 = 0 →
      let w : Writer := { agent := s.agent, part := s.activity.part, die := dieOf (s.turn.core / 8), kind := .atomic }
      let r := accAdd (signedOf 8 (s.turn.val % 256)) (signedOf 128 (natOfBytes (readBytes s.mem a 16))) (fieldOf (s.given 0) 31 0)
      let t := s.write w a (bytesOfNat 16 (wrapTo 128 r.1))
      Goes s .reductionMerge (if r.2 then { t with ovf := if t.ovf.contains line then t.ovf else t.ovf ++ [line] } else t))
    ∧ (∀ (w acc g : Int) (x : Nat), acc ≠ -2 ^ 127 → g ≠ -2 ^ 127 → accOf w x = (g, false) →
      accAdd w acc x = (max (-(2 ^ 127 - 1)) (min (acc + g) (2 ^ 127 - 1)), decide (2 ^ 127 - 1 < acc + g ∨ acc + g < -(2 ^ 127 - 1))))
    ∧ (let x := s.rowAtomic
      let w := typeBytes x.ty
      let gives := fun (i : Instr) (old st : Nat) (u : State) => ∀ p, (u.ctx s.turn.core s.turn.ctx).pend = some p →
        Goes s i (u.modCtx s.turn.core s.turn.ctx fun c =>
          { c with pend := some { p with reply := some { value := BitVec.ofNat 64 old, status := st } } })
      atomicType x.op x.ty = true →
      (inHbm a = true → a % w = 0 → d = 0 →
        (∀ old st u, s.atomicAt s.issuer a x = (.reply old st, u) → old = readNat s.mem a w ∧ gives .atomicAtHome old st u)
        ∧ (∀ u, s.atomicAt s.issuer a x = (.watch, u) → Goes s .atomicAtHome u))
      ∧ (coreOk d = true → a < 65536 → a % w = 0 →
        (∀ old st u, s.atomicPad s.issuer d a x = (.reply old st, u) →
          old = natOfBytes (s.poolBytes d a w) ∧ gives .scratchpadAtomic old st u)
        ∧ (∀ u, s.atomicPad s.issuer d a x = (.watch, u) → Goes s .scratchpadAtomic u)))
    ∧ (clusterOk d = true → s.turn.val < 8 →
      let x : Access := { part := s.turn.val, super := s.turn.ok, kind := a, va := (s.given 0).toNat % 2 ^ 52, cluster := d, core := none }
      (∀ pa t, s.translate x = .ok (pa, t) → Goes s .pageWalk t ∧ (s.tlbHit x = none →
        ∃ e ∈ (t.cluster d).tlb, e.covers x.part x.va = true ∧ pa = e.phys x.va))
      ∧ (∀ code fx w4, s.translate x = .error (code, fx, w4) → ∃ t, Goes s .pageWalk t ∧ kept t
        ∧ (∀ c, (t.cluster c).tlb = (s.cluster c).tlb ∧ (t.cluster c).upper = (s.cluster c).upper)
        ∧ (code = .tablePoison → w4.toNat ∈ t.poisoned)))
    ∧ (clusterOk d = true → a < 4 → ∀ w rest, w.far = none →
      takeFirst (fun (w : Watch) => w.tmo != 0 && decide (w.since + w.tmo ≤ s.cyc)) (find (s.cluster d).slices a {}).watches = some (w, rest) →
      ∃ t, Goes s .waitaTimeout t ∧ t.mem = s.mem ∧ (find (t.cluster d).slices a {}).watches = rest
        ∧ let r : Reply := { value := BitVec.ofNat 64 (readNat s.mem w.addr w.width), status := 2, know := s.wordKnow w.addr }
          ∀ p, (s.ctx w.core w.ctx).pend = some p → (t.ctx w.core w.ctx).pend = some { p with reply := some r })
    ∧ (clusterOk d = true → 4 ≤ a → a < 12 → ∀ w rest, w.far = none →
      let n := d * 8 + (a - 4)
      takeFirst (fun (w : Watch) => w.tmo != 0 && decide (w.since + w.tmo ≤ s.cyc)) (s.core n).watches = some (w, rest) →
      ∃ t, Goes s .waitaTimeout t ∧ t.mem = s.mem ∧ (t.core n).watches = rest
        ∧ let v := BitVec.ofNat 64 (natOfBytes (s.poolBytes n w.addr w.width))
          let r : Reply := { value := v, status := 2, know := s.poolKnown n w.addr w.width }
          ∀ p, (s.ctx w.core w.ctx).pend = some p → (t.ctx w.core w.ctx).pend = some { p with reply := some r })
    ∧ (clusterOk d = true → a < 4 → ∀ w, let at' : Home := { die := dieOf d, cluster := d, slice := a, set := 0 }
      (s.sliceAt at').windows.find? (fun w => decide (w.since + (s.die (dieOf d)).mcwin ≤ s.cyc)) = some w →
      (∀ v ∈ (s.sliceAt at').windows, v.line = w.line → v = w) →
      ∃ t, Goes s .combiningWindowClose t ∧ kept t
        ∧ (t.sliceAt at').windows = (s.sliceAt at').windows.filter (fun v => v.line != w.line)
        ∧ ∃ p : Packet, p.dst = w.joined ∧ p.cls = .response ∧ p.body = .multicast w.line (readBytes s.mem w.line 128)
          ∧ find (t.cluster d).router.inp 13 [] = find (s.cluster d).router.inp 13 [] ++ [p])
    ∧ (homeStack 1310 = 6 ∧ homeChannel 1310 = 54 ∧ ∀ c e, clusterOk c = true → clusterOk e = true →
      homeChannel c < 192 ∧ dieOfStack (homeStack c) = dieOf c
        ∧ (homeStack c = homeStack e → homeChannel c = homeChannel e → c = e))
    ∧ ∀ o os t, s.barOps = o :: os → s.barApply o = some t → Goes s .barrierOperation { t with barOps := os }

/-! ## Rows of Mortar and the pod -/

/-- O55. Mortar, the links, the Xanol routers and count markers (04 R76-R79; 12 R264-R277; 13 R319; 14 R346; 18 R381). Which devices drain markers go to is the model's choice (log 80). -/
def Obligations.PacketsTravel : Prop :=
  ∀ (s : State),
    let d := s.turn.unit
    let k := s.turn.sub
    let kept := fun (t : State) => t.mem = s.mem ∧ t.cores = s.cores ∧ t.procs = s.procs
    (clusterOk d = true → k < 15 → ∀ p rest x, find (s.cluster d).router.inp k [] = p :: rest → p.dst = [x] →
      (x = d → s.absorb p.body = none → ∃ t, Goes s .mortarHop t ∧ kept t ∧ find (t.cluster d).router.inp k [] = rest
        ∧ (t.cluster d).arrived = (s.cluster d).arrived ++ [p])
      ∧ (∀ o, o = mortarOut d x → o < 4 → (s.cluster d).router.admits (k / 3) o (k % 3) = true →
        ∃ t, Goes s .mortarHop t ∧ kept t ∧ find (t.cluster d).router.inp k [] = rest
          ∧ find (t.cluster d).router.out (o * 3 + k % 3) [] = find (s.cluster d).router.out (o * 3 + k % 3) [] ++ [p]))
    ∧ (clusterOk d = true → ∀ o c p, o < 4 → k = 15 + o → s.linkClass d o = some c → ((s.cluster d).router).nextOut o c = some p →
      let n := mortarNext d o
      let key := mortarOpp o * 3 + c
      ∃ t q, Goes s .mortarHop t ∧ kept t ∧ find (t.cluster n).router.inp key [] = find (s.cluster n).router.inp key [] ++ [q]
        ∧ q = { p with unheld := q.unheld } ∧ ((∀ id, p.body ≠ .openRoute id) → q = p)
        ∧ find (t.cluster d).router.out (o * 3 + c) [] = (find (s.cluster d).router.out (o * 3 + c) []).filter (· != p))
    ∧ (d < 12 →
      ((s.port d).state = .up → Goes s .linkReplay (s.modPort d fun h =>
        if 7 ≤ h.row then { h with replay := min 65535 (h.replay + 1), state := .training, row := 0 }
        else { h with replay := min 65535 (h.replay + 1), row := h.row + 1 }))
      ∧ ((s.port d).state = .training → Goes s .linkTrainingDone (s.modPort d fun h =>
        if s.turn.ok then { h with state := .up, stopAt := s.turn.val + 4, stop := [], row := 0 } else { h with state := .down }))
      ∧ Goes s .ingressFlitExpiry (s.modPort d fun h => Port.stopGo
        { h with drop := min 65535 (h.drop + (h.flits.filter fun x => decide (x.2.2.2.2.2 + 1000000 ≤ s.time)).length)
                 flits := h.flits.filter fun x => decide (s.time < x.2.2.2.2.2 + 1000000) })
      ∧ (let u := s.modPort d fun h => h.hear s.farFree
        (∀ i p, bestOf (s.port d).last (u.wanting d true) = some (i, p) →
          ∃ t, Goes s .xanolForward t ∧ kept t ∧ (t.port d).drop = min 65535 ((s.port d).drop + 1)
            ∧ t.inputOf i = removePkt p (s.inputOf i))
        ∧ (bestOf (s.port d).last (u.wanting d true) = none → (s.port d).state = .up →
          ∀ i p, bestOf (s.port d).last (u.wanting d false) = some (i, p) → p.stomped = false →
            ∃ t, Goes s .xanolForward t ∧ kept t ∧ t.inputOf i = removePkt p (s.inputOf i) ∧ (t.port d).last = i
              ∧ (t.port d).sent = (s.port d).sent ++ [{ p with stomped := decide (s.turn.val % 2 = 1) }])))
    ∧ (d < 13 →
      Goes s .packetAgeing (s.setInput d ((s.inputOf d).map fun p =>
        if p.since + 128 ≤ s.cyc then { p with age := min 255 (p.age + 1), since := p.since + 128 } else p))
      ∧ (∀ p rest, takeFirst (fun (p : PodPacket) => p.stomped) (s.inputOf d) = some (p, rest) →
        Goes s .remotePacketArrival ((s.setInput d rest).countStomp d))
      ∧ (∀ p rest u, (∀ q ∈ s.inputOf d, q.stomped = false) →
        takeFirst (fun (p : PodPacket) => p.dst == s.devidx && !p.ownRow) (s.inputOf d) = some (p, rest) →
        let io := dieOfInput d p.path
        let t := s.setInput d rest
        let r := if p.counted then t.countRecv io p else t
        (t.stampMet p = true → r.takeFar io p = some u → Goes s .remotePacketArrival u)
        ∧ (t.stampMet p = true → r.takeFar io p = none → p.counted = true → Goes s .remotePacketArrival
          { r with farWait := put r.farWait io (find r.farWait io [] ++ [p]) })
        ∧ (t.stampMet p = false → p.counted = false → (find t.stamped io []).length < 256 → Goes s .remotePacketArrival
          { t with stamped := put t.stamped io (find t.stamped io [] ++ [p]) }))
      ∧ (∀ p rest, takeFirst (fun (p : PodPacket) => p.dst == s.devidx && p.body.isMarker && !p.stomped) (s.inputOf d) = some (p, rest) →
        ((s.setInput d rest).markMet p = true → Goes s .countMarkerArrival ((s.setInput d rest).ackMarker p true))
        ∧ ((s.setInput d rest).markMet p = false → Goes s .countMarkerArrival
          { s.setInput d rest with marks := s.marks ++ [{ pkt := p, since := s.time }] }))
      ∧ (∀ p rest b, takeFirst (fun (p : PodPacket) => p.dst == s.devidx && p.body.isAck && !p.stomped) (s.inputOf d) = some (p, rest) →
        p.body = .ack b → ∃ t, Goes s .countMarkerAck t ∧ t.mem = s.mem
          ∧ ∀ f, (s.ctx p.core p.ctx).podFence = some f → (t.ctx p.core p.ctx).podFence = some (f.heard p b)))
    ∧ (∀ p ok, (ok = false → ∀ e ∈ s.stamped, ∀ r ∈ e.2, ∀ g, r.body ≠ .landing g) → ∃ q : PodPacket, q.dst = p.src ∧ q.core = p.core ∧ q.ctx = p.ctx ∧ q.path = p.path ∧ q.cls = 1 ∧ q.body = .ack ok
      ∧ (s.ackMarker p ok).inject = s.inject ++ [q] ∧ kept (s.ackMarker p ok)
      ∧ (ok = false → ∀ io, ∀ r ∈ find (s.ackMarker p ok).stamped io [], ¬(r.src = p.src ∧ r.core = p.core ∧ r.ctx = p.ctx ∧ r.interval ≤ p.interval)))
    ∧ (∀ (u v : State) (io : Nat) (p : PodPacket) (va a : Nat),
      (∀ bs, p.body = .store va bs 0 → u.translateFar io p 1 va = .ok (a, v) → v.farBusy io a = false →
        v.farBusy io (a + bs.length - 1) = false → u.takeFar io p = some (v.write (v.farWriter io p) a bs))
      ∧ (∀ n req, p.body = .load va n 0 req → u.translateFar io p 0 va = .ok (a, v) →
        let r : Reply := { value := BitVec.ofNat 64 (natOfBytes (readBytes v.mem a n)),
                           know := joinKnow (v.wordKnow a) (v.wordKnow (a + n - 1)) }
        ∃ w q, u.takeFar io p = some w ∧ w.mem = v.mem ∧ w.inject = v.inject ++ [q] ∧ q.dst = p.src ∧ q.path = p.path
          ∧ q.body = .reply req r))
    ∧ (d < 2 → ∀ p rest u,
      (find s.farWait d [] = [] → takeFirst s.stampMet (find s.stamped d []) = some (p, rest) →
        ({ s with stamped := put s.stamped d rest } : State).takeFar d p = some u → Goes s .orderedPacketRelease u)
      ∧ (let t : State := { s with farWait := put s.farWait d [] }
        find s.farWait d [] = p :: rest → t.stampMet p = true → t.takeFar d p = some u →
          Goes s .orderedPacketRelease { u with farWait := put u.farWait d rest }))
    ∧ (∀ w rest, takeFirst (fun (w : MarkWait) => decide (w.since + 1000 * s.pftmo ≤ s.time) && !s.countMet w.pkt) s.marks = some (w, rest) →
      Goes s .markerWaitExpiry (({ s with marks := rest } : State).ackMarker w.pkt false))
    ∧ (coreOk s.turn.core = true → s.turn.ctx < 4 →
      (∀ f, s.actor.podFence = some f → f.since + 4000 * s.pftmo ≤ s.time →
        ∃ g, Goes s .fenceAckTimeout (s.withActor { s.actor with podFence := some g }) ∧ g.paths = f.paths
          ∧ (∀ x ∈ f.got, x ∈ g.got) ∧ ∀ q ∈ f.paths, (∃ ok, (q.1, q.2, ok) ∈ f.got) ∨ (q.1, q.2, false) ∈ g.got)
      ∧ (∀ p, s.actor.pend = some p → p.remote = true → p.reply = none → p.since + 4000 * s.pftmo ≤ s.time →
        s.actor.issues = true → s.actor.eq = [] →
        ∃ t, Goes s .remoteReplyTimeout t ∧ Stopped t s.turn.core s.turn.ctx .dataPoison
          ∧ (t.ctx s.turn.core s.turn.ctx).faultx = BitVec.ofNat 64 p.va ∧ t.mem = s.mem))
    ∧ (s.landingsOut = false →
      (k = 0 → ∀ x, s.draining.find? (fun y => y.slot == s.turn.val && y.out.isNone) = some x →
        let devs := (s.turn.words.map BitVec.toNat).filter (· != s.devidx)
        ∃ t, Goes s .drainMarker t ∧ kept t
          ∧ (devs = [] → t.draining = s.draining.filter (·.slot != x.slot) ∧ t.inject = s.inject
            ∧ t.gens = put s.gens x.slot (find s.gens x.slot 0#8 + 1#8))
          ∧ (devs ≠ [] → t.gens = s.gens)
          ∧ ∀ v ∈ devs, ∀ path, path < 4 → ∃ q ∈ t.inject, q.dst = v ∧ q.path = path ∧ q.cls = 0 ∧ q.body = .drain x.slot)
      ∧ (k = 1 → (s.chan s.turn.val).draining = true → Goes s .drainMarker { s with chans := drop s.chans s.turn.val })
      ∧ (2 ≤ k → d < 13 → ∀ p rest slot,
        takeFirst (fun (p : PodPacket) => p.dst == s.devidx && p.body.drains.isSome && !p.stomped) (s.inputOf d) = some (p, rest) →
        p.body = .drain slot →
        (p.cls = 1 → ∀ x, s.draining.find? (fun y => y.slot == slot) = some x →
          let others := s.draining.filter (·.slot != slot)
          (x.out = some [(p.src, p.path)] → Goes s .drainMarker
            { s.setInput d rest with draining := others, gens := put s.gens slot (find s.gens slot 0#8 + 1#8) })
          ∧ (∀ l, x.out = some l → l.erase (p.src, p.path) ≠ [] → Goes s .drainMarker
            { s.setInput d rest with draining := others ++ [{ x with out := some (l.erase (p.src, p.path)) }] }))
        ∧ (p.cls ≠ 1 → ∃ t q, Goes s .drainMarker t ∧ kept t ∧ t.inject = (s.setInput d rest).inject ++ [q]
          ∧ q.dst = p.src ∧ q.path = p.path ∧ q.cls = 1 ∧ q.body = .drain slot)))

/-! ## Rows of the engines -/

/-- O56. Outbox entries that leave, the hod, the system copy engines, the copies of a checkpoint cut (06 R112-R141; 13 R296; 15 R377;
22 R402). What one step moves is the model's choice (log 21). -/
def Obligations.CopyEnginesWork : Prop :=
  ∀ (s : State),
    let d := s.turn.unit
    (∀ e es, s.actor.sealed = true → s.actor.outbox = e :: es →
      let u := s.modActor fun c => { c with outbox := es }
      (∀ s1, canLeave e s = .ok (none, s1) → Goes s .outboxEntryLeave ((s1.modActor fun c => { c with outbox := es }).leave e))
      ∧ (∀ c, e = .copy c → c.sys = none → cmdCount (find (s.cluster (c.core / 8)).hod c.queue []) < 32 →
        Goes s .outboxEntryLeave ((u.enlist c.agent).modCluster (c.core / 8) fun k =>
          { k with hod := put k.hod c.queue (find k.hod c.queue [] ++ [.cmd c]) }))
      ∧ (∀ j, e = .job j → jobCount (find (s.cluster (j.core / 8)).mat (j.core % 8) []) < 8 →
        Goes s .outboxEntryLeave ((u.enlist j.agent).modCluster (j.core / 8) fun k =>
          { k with mat := put k.mat (j.core % 8) (find k.mat (j.core % 8) [] ++ [.job j]) }))
      ∧ (∀ reg ws n, e = .send reg ws [] → (s.self.endAt reg).loc = some n →
        let h := (s.self.endAt reg).handle
        ∃ m : Msg, m.kind = .data ∧ m.chid = hChid h ∧ m.seq = hSeq h ∧ m.words = ws ∧ m.ends = [] ∧ m.name = s.self.name ∧
          Goes s .outboxEntryLeave ((u.modEnd s.activity.slot reg fun r =>
            { r with handle := hSetSeq r.handle ((hSeq r.handle + 1) % 2 ^ 32) }).sendPkt
              (s.turn.core / 8) (n / 8) s.self.part (.msg n m))))
    ∧ (clusterOk d = true → (∀ q ∈ (s.cluster d).hod, hodFences q.2 = []) → ∀ q defs c,
      let weight := fun q => match s.hodHead d q with
        | some c => if s.copyReady c then some (s.weightOf c.name) else none
        | none => none
      (grantQueue 16 weight (s.cluster d).hodLast (s.cluster d).hodDef = (none, defs) →
        Goes s .hodLineTransfer (s.modCluster d fun k => { k with hodDef := defs }))
      ∧ (grantQueue 16 weight (s.cluster d).hodLast (s.cluster d).hodDef = (some q, defs) → s.hodHead d q = some c →
      let u := s.modCluster d fun k => { k with hodLast := q, hodDef := defs }
      let noted := fun (v : State) => if c.begun then v else v.copyRecord c 0 0#64
      (c.stopped = true → Goes s .hodLineTransfer (u.closeCopy c .cancelled))
      ∧ (c.stopped = false →
        (∀ x t, transfer c u = .ok (x, t) →
          Goes s .hodLineTransfer ((noted (t.replaceCopy c (some x))).count (u.partOf c.name) 9 (x.lines - c.lines)))
        ∧ ∀ code x w, transfer c u = .error (.fault code x w) →
          Goes s .hodLineTransfer (((noted u).lostBy (u.partOf c.name) (c.core / 8) (code, x, w)).closeCopy c (.failed code x)))))
    ∧ (∀ (c c' : CopyCmd) (t u v w : State) (o p : ElemOff) (x : Item) (ls : List Loc), c.op = .cpy → c.begun = true → c.hold = [] →
      c.pos + 1 = c.count → layType c.src.entry = layType c.dst.entry → isSix (layType c.dst.entry) = false →
      isBlock (layType c.dst.entry) = false → layRed c.src.entry = false → layRed c.dst.entry = false →
      laySpace c.src.entry ≠ 1 → laySpace c.dst.entry ≠ 1 →
      c.srcOff c.pos t = .ok (o, t) → c.dstOff c.pos t = .ok (p, t) → readItem (t.hodClient c) c.src o t = .ok (x, u) →
      c.dstOff c.pos u = .ok (p, u) → writeGroup (t.hodClient c) c.dst [(p, x.code)] u = .ok (ls, v) →
      noteRun c ls v = .ok (c', w) → transfer c t = .ok ({ c with pos := c.pos + 1, lines := c.lines + 1, run := c'.run }, w))
    ∧ (clusterOk d = true → s.turn.sub < 16 → ∀ c, s.hodHead d s.turn.sub = some c → c.over = true → c.stopped = false →
      (laySpace c.dst.entry ≠ 1 ∨ s.packetsOut c.core c.ctx = false) →
      (c.overrun = false → c.staleHit = false → Goes s .hodCommandComplete (s.closeCopy c .done))
      ∧ (c.overrun = true → c.staleHit = false → ∃ x, Goes s .hodCommandComplete (s.closeCopy c (.failed .layout x)))
      ∧ (c.overrun = false → c.staleHit = true → Goes s .hodCommandComplete
        ((s.modCore c.core fun k => { k with tagErr := setBit k.tagErr c.tag true }).closeCopy c .done)))
    ∧ (∀ (c : CopyCmd) (e : Ending), c.bar = none → c.op = .cpy → fieldOf (s.obs (s.partOf c.name)).eRing 4 0 = 0 → e = .done ∨ e = .cancelled →
      let t := s.endCopy c e
      (t.core c.core).tagDone = ((s.core c.core).tagEnd c.tag (e != .done)).tagDone
        ∧ (t.core c.core).tagErr = ((s.core c.core).tagEnd c.tag (e != .done)).tagErr
        ∧ (t.core c.core).tagCnt = ((s.core c.core).tagEnd c.tag (e != .done)).tagCnt ∧ t.mem = s.mem)
    ∧ (d < 128 → hodFences (find s.engines d {}).queue = [] → ∀ c, headCmd [] (find s.engines d {}).queue = some c →
      ((find s.engines d {}).frozen = true → Goes s .systemCopyTransfer ((s.replaceCopy c none).endCopy c (.failed .violation 0#64)))
      ∧ ((find s.engines d {}).frozen = false →
        (s.copyOver c = true → Goes s .systemCopyTransfer (s.completeCopy c))
        ∧ (c.over = false → s.copyReady c = true → Goes s .systemCopyTransfer (s.runCopy c))))
    ∧ (d < 8 → ∀ c, look s.ckpts d = some c → c.active = true →
      (s.turn.sub < 128 → ∀ g gs, c.todo = g :: gs →
        (s.turn.ok = true → (find s.engines s.turn.sub {}).frozen = false →
          ∃ t, Goes s .checkpointGranuleCopy t ∧ t.cores = s.cores
            ∧ t.mem = writeBytes s.mem (c.dest + (g - (s.part d).mbase)) (readBytes s.mem (c.sourceOf g) 65536)
            ∧ look t.ckpts d = some { c with todo := gs, staged := c.staged.filter fun e => e.1 != g
                                             copied := c.copied + 1, doneSet := c.doneSet ++ [g] })
        ∧ (s.turn.ok = false → Goes s .checkpointGranuleCopy { s with ckpts := put s.ckpts d { c with active := false, err := true } }))
      ∧ (c.todo = [] → s.turn.ok = true → Goes s .cutComplete { s with
          mem := writeBytes s.mem (c.dest + (s.part d).msize) (cutBitmap c (s.part d).mbase (((s.part d).msize / 65536 + 7) / 8))
          ckpts := put s.ckpts d { c with active := false } })
      ∧ (c.todo = [] → s.turn.ok = false → Goes s .cutComplete { s with ckpts := put s.ckpts d { c with active := false, err := true } }))
    ∧ (s.stageFull s.turn.val = false → Goes s .ckptStageCopy (s.stage s.turn.val))

/-- O57. The matrix engine and the Lintel arrays (10 R215-R235; 12 R280-R286). -/
def Obligations.MatrixAndLintelWork : Prop :=
  ∀ (s : State),
    let d := s.turn.unit
    let q := s.turn.sub
    let id := fun (j : MJob) => BitVec.ofNat 64 (jobWord j.seq j.tag)
    (clusterOk d = true → (s.cluster d).mstep = none → (∀ e ∈ (s.cluster d).mat, matFences e.2 = []) → ∀ q defs j,
      let weight := fun q => if s.stepReady d q then (s.matHead d q).map fun j => s.weightOf j.name else none
      (grantQueue 8 weight (s.cluster d).matLast (s.cluster d).matDef = (none, defs) →
        Goes s .matrixStepGrant (s.modCluster d fun k => { k with matDef := defs }))
      ∧ (grantQueue 8 weight (s.cluster d).matLast (s.cluster d).matDef = (some q, defs) → s.matHead d q = some j →
      let u := s.modCluster d fun k => { k with matLast := q, matDef := defs }
      let u := if j.granted = 0 then u.eventRecord (u.partOf j.name) 2 0 j.name j.core (id j) 0#64 else u
      ∀ x y pins t acc v, takeOperands d q j u = .ok ((x, y, pins), t) →
        (if j.granted = 0 then openAcc j t = .ok (acc, v) else acc = find (t.cluster d).macc q [] ∧ v = t) →
        Goes s .matrixStepGrant
          (((v.modCluster d fun k => { k with macc := put k.macc q acc, mstep := some { queue := q, a := x, b := y, pins := pins } }).setHead
            d q (some { j with granted := j.granted + 1, replayed := false })).count (u.partOf j.name) 8 1)))
    ∧ (clusterOk d = true → ∀ m j, (s.cluster d).mstep = some m → s.matHead d m.queue = some j →
      let r := stepAll m.a m.b ((matClass m.a.ty).getD 0) (find (s.cluster d).macc m.queue [])
      let t := (s.dropPins m.pins).modCluster d fun k =>
        { k with macc := put k.macc m.queue r.1, keptA := put k.keptA m.queue m.a, mstep := none }
      (s.turn.upset = .none → j.op ≠ .mrot → j.sendA = none → j.sendB = none →
        Goes s .matrixStepRetire (t.setHead d m.queue (some { j with done := j.done + 1, flags := j.flags ||| r.2 })))
      ∧ (s.turn.upset = .none → j.op = .mrot → j.areuse = false → ∃ u k, Goes s .matrixStepRetire u ∧ u.matHead d m.queue = some k
        ∧ k.done = j.done + 1 ∧ k.sendA = some m.a ∧ k.sendB = some m.b ∧ find (u.cluster d).macc m.queue [] = r.1)
      ∧ (s.turn.upset = .checkerTwice → j.replayed = true →
        ∃ x : Word, Goes s .matrixStepRetire (s.closeJob d m.queue j 1 (some (.checker, x))))
      ∧ (s.turn.upset = .checkerTwice → j.replayed = false → ∀ u, replayStep d m j s = .ok ((), u) →
        ∃ x : Word, Goes s .matrixStepRetire (u.closeJob d m.queue { j with replayed := true } 1 (some (.checker, x))))
      ∧ (s.turn.upset = .checkerOnce → j.replayed = false → ∀ u, replayStep d m j s = .ok ((), u) → Goes s .matrixStepRetire u))
    ∧ (∀ (x y : Operand) (cls : Nat) (acc : List Nat) (i : Nat), i < acc.length →
      (stepAll x y cls acc).1.getD i 0 = (stepElem x y cls (i / 32) (i % 32) (acc.getD i 0)).1)
    ∧ (clusterOk d = true → q < 8 → ∀ j, s.matHead d q = some j →
      (j.steps ≠ 0 → j.done = j.steps → j.sendA = none → j.sendB = none →
        (j.op ≠ .mmas → Goes s .matrixJobComplete ((s.writeTile j (find (s.cluster d).macc q [])).closeJob d q j 0 none))
        ∧ (j.op = .mmas → ∀ t, mergeAll (s.jobClient j) j.dst (find (s.cluster d).macc q []) s = .ok ((), t) →
          Goes s .matrixJobComplete (t.closeJob d q j 0 none)))
      ∧ (j.granted = 0 → s.gateOf j = .poisoned → Goes s .matrixJobPoison
        (((s.modCluster d fun k => { k with mat := put k.mat q ((find (s.cluster d).mat q []).filter fun e => match e with
            | .job _ => false
            | .fence _ => true) }).poisonJobs (jobsOf (find (s.cluster d).mat q []))).closeRoutes d q))
      ∧ (matFences (find (s.cluster d).mat q []) = [] → (s.cluster d).preempt = none →
        (j.op = .mzero → Goes s .writebackPortOp ((s.writeTile j (List.replicate 1024 0)).closeJob d q j 0 none))
        ∧ (j.op = .mrd → j.sent = false → ∀ f t, readOut j s = .ok ((true, f), t) →
          let k := { j with flags := f, sent := true }
          (laySpace j.dst.entry ≠ 1 → Goes s .writebackPortOp (t.closeJob d q k 0 none))
          ∧ (laySpace j.dst.entry = 1 → Goes s .writebackPortOp (t.setHead d q (some k))))
        ∧ (j.op = .mrd → j.sent = true → s.packetsOut j.core j.ctx = false → Goes s .writebackPortOp (s.closeJob d q j 0 none))))
    ∧ (clusterOk d = true → q < 8 → s.coreSwapped (8 * d + q) = false →
      (s.turn.val = 0 → look (s.cluster d).slotA q = none → ∀ o n rest,
        takeOperand (8 * d + q) true (s.cluster d).arrived = some (o, n, rest) →
        Goes s .rotationSlotAccept ((s.modCluster d fun k => { k with arrived := rest, slotA := put k.slotA q o }).sendTaken n true))
      ∧ (s.turn.val ≠ 0 → look (s.cluster d).slotB q = none → ∀ o n rest,
        takeOperand (8 * d + q) false (s.cluster d).arrived = some (o, n, rest) →
        Goes s .rotationSlotAccept ((s.modCluster d fun k => { k with arrived := rest, slotB := put k.slotB q o }).sendTaken n false)))
    ∧ (d < 12 →
      (∀ g, s.graph d q = some g → g.over = true → ∃ t, Goes s .lintelGraphEnd t ∧ t.mem = s.mem ∧ t.cores = s.cores
        ∧ (t.lintel d).graphs = (s.lintel d).graphs.eraseIdx q
        ∧ (let n := find (s.lintel d).notify g.start.notify (0, 0)
          find (t.lintel d).notify g.start.notify (0, 0) = (n.1 % 2 ^ 16, (n.2 + 1) % 2 ^ 48))
        ∧ ∀ p, s.named g.start.name = some p → (t.proc (slotOf g.start.name)).pflags = p.pflags ||| g.flags)
      ∧ (linFences (s.lintel d).queue = [] → ∀ l es, (s.lintel d).queue = .start l :: es →
        (∀ im t, openGraph l s = .ok (im, t) → (t.lintel d).queue = .start l :: es →
          ((t.lintel d).graphs.any fun g => (unitsOf g.image).any fun u => (unitsOf im).contains u) = false →
          Goes s .lintelGraphStart (t.modLintel d fun a =>
            { a with queue := es, graphs := a.graphs ++ [{ start := l, image := im, part := t.partOf l.name }] }))
        ∧ (∀ code x w, openGraph l s = .error (.fault code x w) →
          Goes s .lintelGraphStart (((s.modLintel d fun a => { a with queue := es }).lostBy (s.partOf l.name) (l.core / 8)
            (code, x, w)).failGraph d l 0#6 code x)))
      ∧ (∀ g, s.graph d q = some g →
        (∀ g', s.turn.val < 24 → unitAct g s.turn.val = .go g' → Goes s .lintelUnitFlit (s.setGraph d q g'))
        ∧ (∀ g' t, 24 ≤ s.turn.val → s.turn.val < 27 → portRead g.start g (s.turn.val - 24) s = .ok (g', t) →
          Goes s .lintelUnitFlit (t.setGraph d q g'))
        ∧ (∀ g' t, s.turn.val = 31 → portWrite g.start g s = .ok (g', t) → Goes s .lintelUnitFlit (t.setGraph d q g'))
        ∧ (∀ f rest, s.turn.val = 30 → g.at 30 = some f :: rest →
          ∃ t pkt, Goes s .lintelUnitFlit t ∧ t.inject = s.inject ++ [pkt] ∧ pkt.body = .flit g.start.key f.seq f.data f.scale false
            ∧ pkt.cls = 2 ∧ pkt.prio = imgByte g.image 38 ∧ pkt.port = some (portOf d (imgByte g.image 37))
            ∧ t.mem = s.mem ∧ t.cores = s.cores))
      ∧ (∀ x rest, headFlit (s.port d).inp = some (x, rest) → (s.port d).flits.length < 256 → Goes s .lintelIngressFlit
        (((s.modPort d fun h => { h with
          inp := rest, flits := h.flits ++ [(x.1, x.2.1, x.2.2.1, x.2.2.2.1, x.2.2.2.2.1, s.time)] }).deliverFlits d).modPort d Port.stopGo))
      ∧ (∀ (u : State) (x : Waiting) (a k : Nat) (g : Graph), (∀ b, b < a → b % 2 = d % 2 → (u.lintel b).takes b d x.1 = none) →
        a < 12 → a % 2 = d % 2 → (u.lintel a).takes a d x.1 = some k → u.graph a k = some g → x.2.2.2.2.1 = false →
        u.deliverFlit d x = some (u.setGraph a k (g.emit 28 (some { seq := x.2.1, data := x.2.2.1, scale := x.2.2.2.1 })))))

/-! ## Rows of channels, stores into registers, rate loops and activations -/

namespace Sys2Proof.Machine

/-- The row of the table that takes a packet which has reached its cluster. -/
def PBody.row : PBody → Option Instr
  | .msg _ m => some (if m.kind = .spawn then .spawnArrival else .messageArrival)
  | .toHome _ | .depart _ _ _ _ _ _ _ _ _ | .ask _ _ _ _ _ | .tookParked _ _ _ => some .homeForward
  | .refused _ _ _ | .event _ _ => some .eventDelivery
  | .location _ _ _ _ => some .locationUpdate
  | .landing _ _ _ _ _ => some .endLandingRegistration
  | .parked _ _ _ _ => some .parkedDrain
  | .closeMark _ _ _ | .closeFwd _ _ _ _ => some .closeMarker
  | .recvClose _ _ _ => some .receiveClose
  | .rateReport _ _ => some .rateUpdate
  | .rateDelta _ _ _ _ => some .rateDelta
  | .rateAck _ _ _ => some .rateAck
  | .store g => some (if g.halo then .haloPushArrival else .landingStoreArrival)
  | _ => none

/-- The oldest packet for a row at cluster `turn.unit`, which does not sleep, and whose turn it is at its home (13 R298), has this
body; `t` is the state without it. -/
def Reached (s : State) (i : Instr) (b : PBody) (t : State) : Prop :=
  clusterOk s.turn.unit = true ∧ (s.cluster s.turn.unit).idle = .run ∧ b.row = some i
    ∧ ∃ p rest, takeInTurn (fun b => b.row == some i) s.waitsTurn [] (s.cluster s.turn.unit).arrived = some (p, rest) ∧ p.body = b
      ∧ t = s.modCluster s.turn.unit fun c => { c with arrived := rest }

/-- What waits to leave a cluster in a class of Mortar. -/
def State.leaving (s : State) (cl : Nat) (c : PClass) : List Packet := find (s.cluster cl).router.inp (12 + c.idx) []

/-- The packets with these bodies, for these clusters, have been sent from a cluster since a state, in each class in this order. -/
def SentSince (s u : State) (cl : Nat) (bs : List (Nat × PBody)) : Prop :=
  ∀ c : PClass, ∃ ps : List Packet, u.leaving cl c = s.leaving cl c ++ ps
    ∧ ps.map (fun p => (p.dst, p.body)) = (bs.filter fun b => b.2.cls == c).map fun b => ([b.1], b.2)

end Sys2Proof.Machine

/-- O58. Channel traffic at its cluster, fault messages, stores that land in registers, spawns, events, rate loops, the start of an activation
(06 R130; 13 R291-R293, R308-R326; 14 R337, R340-R342, R347, R348, R350; 15 R357). The order of a spawn's refusals (log 17) and the direction CD of a rate loop (log 46) are the model's
readings, the registers and homes of fault and control channels its choice (log 32). -/
def Obligations.ChannelRows : Prop :=
  ∀ (s t : State),
    let d := s.turn.unit
    (∀ (i : Instr) (g : Landing), Reached s i (.store g) t →
      let k := slotOf g.target
      let P := s.proc k
      let n := g.data.length
      let there := g.target ≠ 0 ∧ P.name = g.target ∧ P.state ≠ .exited
      let done := fun (u : State) => if g.halo then u else u.setGstv g.agent g.target (g.seq + 1)
      g.halo = true ∨ g.seq = s.gstvExpected g.agent g.target →
      (g.data = [] → Goes s i (done t))
      ∧ (g.data ≠ [] → ¬there → Goes s i (done (t.dropStale g false)))
      ∧ (g.data ≠ [] → there → P.part ≠ g.part → Goes s i (done (t.dropBreach g)))
      ∧ (g.data ≠ [] → there → P.part = g.part → P.land.2 < g.off + 64 * n → Goes s i (done (if g.halo then t.haloDone g true else t.dropStale g true)))
      ∧ (g.data ≠ [] → there → P.part = g.part → g.off + 64 * n ≤ P.land.2 →
        (P.state ≠ .moving → let u := t.applyLanding k g
          Goes s i (done (u.haloDone g false)) ∧ (∀ j, j < 128 → (u.proc k).holds.getLsbD j = (P.holds.getLsbD j
              && !(decide (g.off / 64 ≤ j) && decide (j < g.off / 64 + n) && decide (look P.armed j ≠ some s.cyc))))
            ∧ (u.proc k).hcnt = (if g.halo then hcntInc P.hcnt g.side else P.hcnt)
            ∧ (P.state ≠ .swapped → (s.core P.core).pool.wf = true → (P.land.1 + g.off) % 64 = 0 →
              readBytes (u.core P.core).pool (P.land.1 + g.off) (64 * n) = (g.data.map granuleBytes).flatten))
        ∧ (P.state = .moving → P.queued.length < 64 → Goes s i (done (t.modProc k fun p => { p with queued := P.queued ++ [g] })))
        ∧ (P.state = .moving → 64 ≤ P.queued.length → Goes s i s)))
    ∧ (s.turn.sub = 0 → ∀ (n : Nat) (m : Msg), Reached s .messageArrival (.msg n m) t → m.again = false →
      ((s.core n).inbox m.chid = none → s.inboxImage n m.chid = none → Goes s .messageArrival (t.toHome n m.chid m.home m.part (.toHome m)))
      ∧ ∀ i, (s.core n).inbox m.chid = some i → i.control = none →
        let P := s.proc i.slot
        let full := i.cap ≤ i.held.length + s.parkedFor i
        let room := (s.core n).pooled < (s.core n).poolRoom
        (∀ lands, ¬full → room → P.freeEnds m.ends.length = some lands → ∃ u, Goes s .messageArrival u
          ∧ let m' := { m with lands := lands, arrived := s.cyc, taken := m.taken || !m.ends.isEmpty }
            (u.core n).inbox m.chid = some { i with held := insertSeq (hSeq (P.endAt i.reg).handle) m' i.held })
        ∧ (∀ why, (full ∧ why = 0) ∨ (¬full ∧ ¬room ∧ why = 1) ∨ (¬full ∧ room ∧ P.freeEnds m.ends.length = none ∧ why = 4) →
          Goes s .messageArrival (((t.modInbox n m.chid fun i =>
            { i with settled := i.settled ++ [m.seq], refused := i.refused + (if why = 4 then 0 else 1) }).advance n m.chid).refuse
              n m why P.name)))
    ∧ (s.turn.sub = 1 → d < 4 → s.turn.val < 8 → ∀ f rest i,
      takeFirst (fun (m : FaultMsg) => m.part == s.turn.val && m.die == d) s.faultMsgs = some (f, rest) →
      let P := s.proc (find (s.part s.turn.val).supers d 0)
      let chid := hChid (P.endAt 0).handle
      P.state ≠ .exited → (s.core P.core).inbox chid = some i → i.held.length < i.cap → (s.core P.core).pooled < (s.core P.core).poolRoom →
      ∃ u j m, Goes s .messageArrival u ∧ u.faultMsgs = rest ∧ (u.core P.core).inbox chid = some j ∧ m ∈ j.held ∧ m.words = f.words)
    ∧ (∀ m, Reached s .homeForward (.toHome m) t →
      (s.record m.chid = none → Goes s .homeForward (t.refuse m.core m 2 0))
      ∧ ∀ c, s.record m.chid = some c → c.role ≠ 1 → devOf m.name = s.devidx → m.again = false →
        let at' := c.at / 8
        let loc := (m.core / 8, PBody.location m.core m.chid (c.seenFrom s.devidx) (decide (c.rst = .closed)))
        (c.rst = .here → devOf c.rname = s.devidx → ∃ u, Goes s .homeForward u ∧ SentSince s u at' [loc, (c.rloc / 8, .msg c.rloc m)])
        ∧ (c.rst = .closed → ∃ u, Goes s .homeForward u ∧ SentSince s u at' [loc, (m.core / 8, .refused m 2 c.rname)])
        ∧ (c.rst = .inTransit → s.parkedAt m.chid < c.cap → ∃ u, Goes s .homeForward u ∧ SentSince s u at' [loc]
          ∧ (u.chan (chIdx m.chid)).parked = insertParked c.dseq (.msg m) c.parked)
        ∧ (c.rst = .inTransit → c.cap ≤ s.parkedAt m.chid → ∃ u, Goes s .homeForward u
          ∧ SentSince s u at' [loc, (m.core / 8, .refused m 3 c.rname)]))
    ∧ (∀ n chid loc closed, Reached s .locationUpdate (.location n chid loc closed) t →
      ∀ e k, s.procs.find? (fun e => e.2.state != .exited && e.2.core == n && (e.2.holds? chid false).isSome) = some e → e.2.holds? chid false = some k →
        ∃ u, Goes s .locationUpdate u ∧ (u.proc e.1).endAt k = { (s.proc e.1).endAt k with loc := loc, pcl := ((s.proc e.1).endAt k).pcl || closed })
    ∧ (∀ h name n reg back, Reached s .endLandingRegistration (.landing h name n reg back) t → ∀ c, s.record (hChid h) = some c →
      ∃ u, Goes s .endLandingRegistration u ∧ let c' := u.chan (chIdx (hChid h))
        (hRecv h = true → c.rst ≠ .closed → (hMoves h + 2 ^ 16 - c.mvr) % 2 ^ 16 < 2 ^ 15 →
          c'.rst = .here ∧ c'.rname = name ∧ c'.rloc = n ∧ c'.rreg = reg)
        ∧ (hRecv h = false → c.sst ≠ .closed → (hMoves h + 2 ^ 16 - c.mvs) % 2 ^ 16 < 2 ^ 15 →
          c'.sst = .here ∧ c'.sname = name ∧ c'.sloc = n ∧ c'.sreg = reg))
    ∧ (s.turn.sub = 0 → (s.chan d).role ≠ 1 → (s.chan d).rst = .here → (s.chan d).offered = false → devOf (s.chan d).rname = s.devidx →
      ∀ x xs v, (s.chan d).parked = x :: xs → s.takeParked (s.chan d).rloc (s.devidx * 2 ^ 24 + d) x = some v →
        Goes s .parkedDrain ((v.modChan d fun c => { c with parked := xs }).drainParked d xs.length))
    ∧ (s.turn.sub = 1 → ∀ n chid x more v, Reached s .parkedDrain (.parked n chid x more) t → t.takeOffer n chid x more = some v →
      Goes s .parkedDrain v)
    ∧ (∀ chid seq name, Reached s .closeMarker (.closeMark chid seq name) t → ∀ c, s.record chid = some c →
      ∃ u, Goes s .closeMarker u ∧ (u.chan (chIdx chid)).sst = .closed ∧ (u.chan (chIdx chid)).fseq = seq
        ∧ (c.rst = .closed → (u.chan (chIdx chid)).draining = true))
    ∧ (∀ n chid seq name, Reached s .closeMarker (.closeFwd n chid seq name) t → ((s.core n).inbox chid).isSome = true →
      Goes s .closeMarker ((t.modInbox n chid fun i => { i with fseq := some seq, closer := name }).advance n chid))
    ∧ (∀ chid disc name, Reached s .receiveClose (.recvClose chid disc name) t → ∀ c, s.record chid = some c →
      let n := disc + (c.parked.filter fun x => match x with
        | .msg _ => true
        | _ => false).length
      ∃ u, Goes s .receiveClose u ∧ let c' := u.chan (chIdx chid)
        c'.rst = .closed ∧ c'.disc = n ∧ c'.parked = [] ∧ (c.sst = .inTransit → c'.owe = some (n, name))
          ∧ (c.sst = .closed → c'.draining = true))
    ∧ (∀ n m, Reached s .spawnArrival (.msg n m) t → (s.core n).stopped = false →
      let net := find t.nets (t.proc (slotOf m.name)).net {}
      (4 ≤ (s.residents n).length ∨ s.freeSlot = none → Goes s .spawnArrival (t.refuse n m 5 0))
      ∧ ((s.residents n).length < 4 → ∀ k, s.freeSlot = some k → ∀ x tab v,
        readOne m.part net.die net.image m.tmpl t = .ok (some (x, tab), v) →
        ((tab.handlers.getD m.handler 0#64).getLsbD 56 = false → Goes s .spawnArrival (t.refuse n m 7 0))
        ∧ ((tab.handlers.getD m.handler 0#64).getLsbD 56 = true →
          (v.canHold n m.part x.needs = none → Goes s .spawnArrival (t.refuse n m 6 0))
          ∧ (∀ w r, v.canHold n m.part x.needs = some (w, r) → ∃ u, Goes s .spawnArrival u ∧ (u.core n).partw = w
            ∧ let P := u.proc k
              P.state = .resident ∧ P.core = n ∧ P.part = m.part ∧ P.name = v.nameOf k ∧ P.starts.map Msg.words = [m.words]))))
    ∧ (∀ name e, Reached s .eventDelivery (.event name e) t →
      (s.named name = none → Goes s .eventDelivery t)
      ∧ ∀ P, s.named name = some P → P.events.length < 16 → ∃ u, Goes s .eventDelivery u
        ∧ (u.proc (slotOf name)).events = P.events ++ [{ e with arrived := s.cyc }]
        ∧ (∀ chid recv k, e.closes = some (chid, recv) → P.holds? chid recv = some k → ((u.proc (slotOf name)).endAt k).pcl = true))
    ∧ (∀ m why name, Reached s .eventDelivery (.refused m why name) t → m.window = none → ∀ P, s.named m.name = some P →
      P.events.length < 16 →
      Goes s .eventDelivery (((t.returnEnds m).queueEvent (slotOf m.name) (refusedEvt m why name)).count m.part 10 1))
    ∧ (coreOk d = true → ∀ i, (s.core d).inboxes.find? (fun i => i.period != 0 && decide (i.since + 256 * i.period ≤ s.cyc)) = some i →
      (s.core d).inbox i.chid = some i → ∃ u, Goes s .ratePeriodEnd u
        ∧ (u.core d).inbox i.chid = some { i with refused := 0, since := i.since + 256 * i.period }
        ∧ (chDev i.chid = s.devidx → SentSince s u (d / 8) [(i.home / 4, .rateReport i.chid
          (min 127 (if i.refused = 0 then i.held.length + s.parkedAt i.chid else i.cap + i.refused)))]))
    ∧ (∀ chid o, Reached s .rateUpdate (.rateReport chid o) t → ∀ c, s.record chid = some c → c.rate = true → c.ren = true →
      c.sst = .here → c.rst = .here →
      let e : Int := (o : Int) - c.sp
      let i : Int := if c.cd ≠ 0 ∧ e.sign = c.cd then c.i else max (-4096) (min 4096 (c.i + e))
      let u := ((e * 256) >>> c.gp) + ((i * 256) >>> c.gi)
      Goes s .rateUpdate (((t.modChan (chIdx chid) fun c => { c with i := i, cd := 0 }).sendDelta c c.sname chid (-u) true).sendDelta
        c c.rname chid u false))
    ∧ (∀ name chid delta producer, Reached s .rateDelta (.rateDelta name chid delta producer) t → ∀ P h, s.named name = some P →
      P.homeOf chid = some h → chDev chid = s.devidx →
      let w : Int := (P.weight.toNat : Int) + delta
      ∃ u, Goes s .rateDelta u ∧ (u.proc (slotOf name)).weight = BitVec.ofInt 16 (max 256 (min 65280 w))
        ∧ SentSince s u (P.core / 8) [(h / 4, .rateAck chid producer (if w < 256 then -1 else if 65280 < w then 1 else 0))])
    ∧ (∀ chid producer clamp, Reached s .rateAck (.rateAck chid producer clamp) t → ∀ c, s.record chid = some c → clamp ≠ 0 →
      Goes s .rateAck (t.modChan (chIdx chid) fun c => { c with cd := if producer then -clamp else clamp }))
    ∧ (coreOk d = true → (s.cluster (d / 8)).idle = .run → ∀ k r, s.freeCtxOf d = some k → chooseRunnable (s.readyOn d) = some r →
      (r ∈ s.readyOn d ∧ ∀ x ∈ s.readyOn d, x.prio ≤ r.prio)
      ∧ ∃ u, Goes s .activationStart u ∧ let c := u.ctx d k
        let P := s.proc r.slot
        c.status = .running ∧ (∃ a, c.act = some a ∧ a.slot = r.slot ∧ a.kind = r.kind ∧ a.handler = r.handler ∧ a.arrival = r.reg)
          ∧ c.pc = BitVec.ofNat 52 (fieldOf (find P.handlers r.handler 0#64) 51 0)
          ∧ c.actbud = (if P.budget = 0#64 then BitVec.allOnes 64 else P.budget)
          ∧ (u.proc r.slot).pass = P.pass + BitVec.ofNat 32 (2 ^ 24 / (P.weight.toNat / 256))
          ∧ (∀ m, r.kind = .data → (s.core d).nextMsg (P.endAt r.reg) = some m →
            c.a[1] = headerOf m.name 0 m.lands m.words.length r.handler r.reg ∧ ∀ i : Fin 8, c.a[i.val + 2] = m.words.getD i.val 0#64)
          ∧ (∀ e es, r.kind = .event → P.events = e :: es → c.a[2] = wordOf e.code ∧ c.a[3] = wordOf e.reg ∧ c.a[4] = e.detail
            ∧ (u.proc r.slot).events = es))

/-! ## Rows of the scheduler, of pre-emption and of a supervisor -/

/-- O59. Launch and cancel, dispatch, completion, pre-emption and resumption, the move of a process, a supervisor's commands, a
budget that runs out (14 R331-R336, R339; 15 R360, R361, R365-R369, R374). What words 1, 2 and 5 of a report hold is the model's
reading (log 32); what moves with a process, where it goes that its network's rule gives no other core, and where an image goes whose
rule gives none, is the model's (log 84); so is the clearing of bits 1:0 of FAULTA at RESUME (log 8), and a move or a placement that
waits for a registration of the ends (log 17). -/
def Obligations.SchedulerAndControlRows : Prop :=
  ∀ (s : State),
    let d := s.turn.unit
    (∀ m t, s.nextLaunch d = some (m, t) →
      let die := (s.chan d).die
      let base := fieldOf (m.words.getD 0 0#64) 51 0
      (m.launchOk = false → Goes s .launch (t.reject die m 1))
      ∧ (m.launchOk = true → m.isCancel = false →
        (∀ code x w, readNet m.part die base t = .error (.fault code x w) →
          Goes s .launch ((t.imageLost m.part die (code, x, w)).reject die m 5))
        ∧ ∀ n v, readNet m.part die base t = .ok (n, v) →
          let why := v.launchReason n m.part (t.netOf d m.ticket).isSome
          (why ≠ 0 → Goes s .launch (v.reject die m why))
          ∧ (why = 0 → ∃ u id, Goes s .launch u ∧ look u.nets id = some
            { ticket := m.ticket, chan := d, die := die, part := m.part, prio := n.header.prio, accepted := v.time, image := base
              prereqs := n.header.pres, state := .queued, launcher := m.name, lreg := m.reg, window := m.window }))
      ∧ (m.launchOk = true → m.isCancel = true →
        (t.netOf d m.ticket = none → Goes s .cancel (t.tellDone die m.part m.name m.reg m.window (doneWord 0 4 m.ticket)))
        ∧ ∀ id n, t.netOf d m.ticket = some (id, n) →
          (n.state = .queued → Goes s .cancel (({ t with nets := drop t.nets id } : State).tellDone die m.part m.name m.reg m.window
            (doneWord 0 1 m.ticket)))
          ∧ (n.state ≠ .queued → ∃ u, Goes s .cancel u ∧ look u.nets id = some { n with state := .cancelling })))
    ∧ (∀ why st tk, why < 256 → st < 256 → tk < 65536 →
      fieldOf (doneWord why st tk) 31 24 = why ∧ fieldOf (doneWord why st tk) 23 16 = st ∧ fieldOf (doneWord why st tk) 15 0 = tk)
    ∧ (d < 8 → ∀ id n, s.headNet d = some (id, n) → ∀ im v, readNet n.part n.die n.image s = .ok (im, v) →
      (v.instantiate id n.die n.part false im.header.place im = none → Goes s .networkDispatch
        { s with netsBlocked := id :: s.netsBlocked.filter (· != id) })
      ∧ ∀ slots w, v.instantiate id n.die n.part false im.header.place im = some (slots, w) →
        let u : State := { w with nets := put w.nets id { n with state := .running }, netsBlocked := w.netsBlocked.filter (· != id) }
        Goes s .networkDispatch (u.schedRecord n.part 1 n.die n.ticket 0)
        ∧ ∀ e ∈ im.launched, let P := w.proc (find slots e.1 0)
          P.state = .resident ∧ P.net = id ∧ P.tmpl = e.1 ∧ P.part = n.part
            ∧ ∃ m ∈ P.starts, m.kind = .start ∧ m.handler = 1 ∧ m.words = e.2.1.lwords.take e.2.1.nlw)
    ∧ (∀ n, look s.nets s.turn.val = some n → n.state = .running ∨ n.state = .cancelling → s.netOver s.turn.val = true →
      let st := if n.state = .cancelling then 2 else 0
      Goes s .networkDone ((({ s with nets := put s.nets s.turn.val { n with state := .done } } : State).tellDone
        n.die n.part n.launcher n.lreg n.window (doneWord 0 st n.ticket)).schedRecord n.part 2 n.die n.ticket st))
    ∧ (clusterOk d = true → (s.cluster d).preempt = none → s.graphWrites d = false → ∃ u, Goes s .preempt u
      ∧ (u.cluster d).preempt = some s.cyc ∧ (u.cluster d).copying = false
      ∧ (∀ q, q < 8 → (u.core (8 * d + q)).stopped = true ∧ (u.core (8 * d + q)).acked = false
        ∧ ∀ k, k < 4 → (s.ctx (8 * d + q) k).status = .running → (u.ctx (8 * d + q) k).interrupt = true)
      ∧ ∀ k, (s.proc k).core / 8 = d → (s.proc k).state = .resident → (u.proc k).state = .moving)
    ∧ (clusterOk d = true → s.turn.sub < 8 →
      let n := 8 * d + s.turn.sub
      (s.cluster d).preempt.isSome = true → (s.core n).stopped = true → (s.core n).acked = false →
      (∀ k, k < 4 → (s.ctx n k).status ≠ .running) →
      let last := ∀ q, q < 8 → q ≠ s.turn.sub → (s.core (8 * d + q)).acked = true
      (¬last → Goes s .coreAcknowledge (s.modCore n fun c => { c with acked := true }))
      ∧ (last → ∃ u, Goes s .coreAcknowledge u ∧ (u.core n).acked = true ∧ (u.cluster d).copying = true))
    ∧ (clusterOk d = true → (s.cluster d).copying = true → s.enginesStopped d = true → ∃ u, Goes s .poolCopyDone u
      ∧ (u.cluster d).preempt = none ∧ (u.cluster d).copying = false
      ∧ ∀ k, (s.proc k).core / 8 = d → (s.proc k).state = .moving → (u.proc k).state = .swapped
        ∧ ∃ key im, 16384 ≤ key ∧ look u.images key = some im ∧ k ∈ im.slots ∧ im.core = (s.proc k).core
          ∧ im.partw = (s.core im.core).partw ∧ im.jobSeq = (s.core im.core).jobSeq)
    ∧ (coreOk d = true → ∀ im, look s.images s.turn.val = some im → im.slots ≠ [] → 16384 ≤ s.turn.val →
      s.imagePlace im = some d → s.coreDrained d = true → im.slots.any s.landsOut = false → ∃ u, Goes s .imageResume u ∧ look u.images s.turn.val = none ∧ (u.core d).partw = im.partw
        ∧ (∀ k ∈ im.slots, (u.proc k).state = .resident ∧ (u.proc k).core = d)
        ∧ (s.gstvWait = [] → ∀ k c, im.ctxs = [(k, c)] → c.status = .running → (u.ctx d k).routine = true ∧ (u.ctx d k).act = c.act
          ∧ ((s.part im.part).vecp % 4 = 0 → (u.ctx d k).pc = BitVec.ofNat 52 (s.part im.part).vecp)
          ∧ ((s.part im.part).vecp % 4 ≠ 0 → (u.ctx d k).status = .parked
            ∧ (u.ctx d k).faultx = (BitVec.ofNat 52 (s.part im.part).vecp).setWidth 64)))
    ∧ (let k := s.turn.val
      let P := s.proc k
      let stay := s.modProc k fun p => { p with moving := false }
      P.moving = true → P.state = .resident →
      (s.parkedRuns k = true → Goes s .processMove stay)
      ∧ (s.parkedRuns k = false → s.landsOut k = true ∨ s.runs k ≠ [] ∨ s.begunOf P = true → Goes s .processMove s)
      ∧ (s.landsOut k = false → s.runs k = [] → s.begunOf P = false →
        (s.movePlace P = none → Goes s .processMove stay)
        ∧ ∀ n w r, s.movePlace P = some n → s.canHold n P.part (s.needsOf P) = some (w, r) → n ≠ P.core
          ∧ (s.workFits P n = false → Goes s .processMove s)
          ∧ (s.workFits P n = true → ∃ u, Goes s .processMove u ∧ let Q := u.proc k
            Q.core = n ∧ Q.state = .resident ∧ Q.moving = false ∧ Q.regions = r.regions ∧ Q.land = r.land ∧ Q.tiles = r.tiles
              ∧ (u.core n).partw = w)))
    ∧ (coreOk d = true → ∀ i part m, s.nextControl d = some (i, part, m) →
      let t := s.takeControl d i m
      let rows := [Instr.resume, .restart, .kill, .exit]
      (m.controlWords = none → ∀ row ∈ rows, let w := m.words.getD 0 0#64
        Goes s row (t.reportControl d part w 4 (s.ctx d (fieldOf w 1 0))))
      ∧ ∀ w w1, m.controlWords = some (w, w1) →
        let k := fieldOf w 1 0
        let c := s.ctx d k
        let tells := fun (v : State) (o : Nat) => v.reportControl d part w o c
        let row := rows.getD (fieldOf w 7 4) .resume
        (controlOk w w1 = false → ∀ r ∈ rows, Goes s r (tells t 4))
        ∧ (controlOk w w1 = true →
          (∀ r ∈ rows, r ≠ row → Goes s r s)
          ∧ (c.act = none → Goes s row (tells t 1))
          ∧ ∀ a, c.act = some a →
            let right := (c.status = .parked ∨ c.status = .frozen) ∧ a.name = fieldOf w 63 32 ∧ a.part = part
            (¬right → Goes s row (tells t 1))
            ∧ (right →
              (row = .resume → c.status = .parked → ∃ u, Goes s .resume u ∧ (u.ctx d k).status = .running ∧ (u.ctx d k).pc = c.faulta &&& ~~~3#52
                ∧ (u.ctx d k).eq = c.eq)
              ∧ (row = .resume ∨ row = .restart → c.status = .frozen → Goes s row (tells t 3))
              ∧ (row = .restart → c.status = .parked →
                (c.rollable = false → Goes s .restart (tells t 2))
                ∧ (c.rollable = true → Goes s .restart (tells ((t.endStreams d k).rerun d k) 0)
                  ∧ (((t.endStreams d k).rerun d k).ctx d k).act = none))
              ∧ (row = .kill → Goes s .kill (tells (t.killCtx d k) 0) ∧ ((t.killCtx d k).ctx d k).act = none)
              ∧ (row = .exit → ∃ u, Goes s .exit u ∧ (u.ctx d k).act = none
                ∧ ((u.proc a.slot).exiting = true ∨ (u.proc a.slot).state = .exited)))))
    ∧ (∀ (t : State) (part o : Nat) (w : Word) (was : Ctx), ∃ m : FaultMsg, (t.reportControl d part w o was).faultMsgs = t.faultMsgs ++ [m]
      ∧ m.part = part ∧ m.die = dieOf (d / 8) ∧ m.words.getD 3 0#64 = wordOf o ∧ fieldOf (m.words.getD 0 0#64) 15 12 = 7
      ∧ fieldOf (m.words.getD 0 0#64) 9 0 = 0 ∧ (∀ a, was.act = some a → a.part = part →
        m.words.getD 1 0#64 = was.faulta.setWidth 64 ∧ m.words.getD 2 0#64 = was.faulte.setWidth 64
          ∧ m.words.getD 5 0#64 = was.faultWord5 a))
    ∧ (coreOk s.turn.core = true → s.turn.ctx < 4 → s.actor.hangs = true → ∃ u, Goes s .hang u
      ∧ Stopped u s.turn.core s.turn.ctx .hang ∧ let c := u.ctx s.turn.core s.turn.ctx
        c.faulta = s.actor.nextA ∧ c.faulte = s.actor.nextE ∧ c.faultx = 0#64)

/-- O60. Every step of the machine keeps the memory in its canonical form: the invariant of the model's memory, which is the
model's own way of holding bytes (log 5); the accesses themselves are those of 11 R241 and 22 R388. -/
def Obligations.EveryStepKeepsMemory : Prop :=
  ∀ s t : State, s.mem.wf = true → step s = .next t → t.mem.wf = true
end

