-- ==== Sys2Proof/Laws/Maps.lean ====
section
/-!
SUPPORT. Laws of sparse maps: what a key holds after an update.
-/

namespace Sys2Proof.Machine

variable {α : Type}

@[simp] theorem look_put_same (m : Map α) (k : Nat) (x : α) : look (put m k x) k = some x := by
  induction m with
  | nil => simp [put, look]
  | cons e m ih =>
    obtain ⟨j, y⟩ := e
    simp only [put]
    split_ifs with h1 h2
    · simp [look]
    · simp [look]
    · simp [look, h2, ih]

theorem look_put_other (m : Map α) (k l : Nat) (x : α) (h : l ≠ k) : look (put m k x) l = look m l := by
  induction m with
  | nil => simp [put, look, h]
  | cons e m ih =>
    obtain ⟨j, y⟩ := e
    simp only [put]
    split_ifs with h1 h2
    · simp [look, h]
    · subst h2; simp [look, h]
    · simp [look, ih]

@[simp] theorem find_put_same (m : Map α) (k : Nat) (x d : α) : find (put m k x) k d = x := by simp [find]

theorem find_put_other (m : Map α) (k l : Nat) (x d : α) (h : l ≠ k) : find (put m k x) l d = find m l d := by
  simp [find, look_put_other m k l x h]

@[simp] theorem put_put (m : Map α) (k : Nat) (x y : α) : put (put m k x) k y = put m k y := by
  induction m with
  | nil => simp [put]
  | cons e m ih =>
    obtain ⟨j, z⟩ := e
    by_cases h1 : k < j
    · simp [put, h1]
    · by_cases h2 : k = j
      · subst h2; simp [put]
      · simp [put, h1, h2, ih]

theorem find_put (m : Map α) (k l : Nat) (x d : α) : find (put m k x) l d = if l = k then x else find m l d := by
  split_ifs with h
  · subst h; simp
  · exact find_put_other m k l x d h

end Sys2Proof.Machine
end

