-- ==== Sys2Proof/Laws/State.lean ====
section
/-!
SUPPORT. Laws of the state's updates: what each leaves alone, field by field, and what it sets.
-/

namespace Sys2Proof.Machine

/-! ## What an update leaves alone -/

@[simp] theorem State.setCore_agenda (s : State) (n : Nat) (c : Core) : (s.setCore n c).agenda = s.agenda := rfl
@[simp] theorem State.setCore_turn (s : State) (n : Nat) (c : Core) : (s.setCore n c).turn = s.turn := rfl
@[simp] theorem State.setCore_freeCount (s : State) (n : Nat) (c : Core) : (s.setCore n c).freeCount = s.freeCount := rfl
@[simp] theorem State.setCore_fresh (s : State) (n : Nat) (c : Core) : (s.setCore n c).fresh = s.fresh := rfl
@[simp] theorem State.setCore_cyc (s : State) (n : Nat) (c : Core) : (s.setCore n c).cyc = s.cyc := rfl
@[simp] theorem State.setCore_time (s : State) (n : Nat) (c : Core) : (s.setCore n c).time = s.time := rfl
@[simp] theorem State.setCore_slew (s : State) (n : Nat) (c : Core) : (s.setCore n c).slew = s.slew := rfl
@[simp] theorem State.setCore_mem (s : State) (n : Nat) (c : Core) : (s.setCore n c).mem = s.mem := rfl
@[simp] theorem State.setCore_poisoned (s : State) (n : Nat) (c : Core) : (s.setCore n c).poisoned = s.poisoned := rfl
@[simp] theorem State.setCore_badLines (s : State) (n : Nat) (c : Core) : (s.setCore n c).badLines = s.badLines := rfl
@[simp] theorem State.setCore_ovf (s : State) (n : Nat) (c : Core) : (s.setCore n c).ovf = s.ovf := rfl
@[simp] theorem State.setCore_sync (s : State) (n : Nat) (c : Core) : (s.setCore n c).sync = s.sync := rfl
@[simp] theorem State.setCore_copies (s : State) (n : Nat) (c : Core) : (s.setCore n c).copies = s.copies := rfl
@[simp] theorem State.setCore_know (s : State) (n : Nat) (c : Core) : (s.setCore n c).know = s.know := rfl
@[simp] theorem State.setCore_wrote (s : State) (n : Nat) (c : Core) : (s.setCore n c).wrote = s.wrote := rfl
@[simp] theorem State.setCore_barKnow (s : State) (n : Nat) (c : Core) : (s.setCore n c).barKnow = s.barKnow := rfl
@[simp] theorem State.setCore_barOps (s : State) (n : Nat) (c : Core) : (s.setCore n c).barOps = s.barOps := rfl
@[simp] theorem State.setCore_clusters (s : State) (n : Nat) (c : Core) : (s.setCore n c).clusters = s.clusters := rfl
@[simp] theorem State.setCore_procs (s : State) (n : Nat) (c : Core) : (s.setCore n c).procs = s.procs := rfl
@[simp] theorem State.setCore_gens (s : State) (n : Nat) (c : Core) : (s.setCore n c).gens = s.gens := rfl
@[simp] theorem State.setCore_draining (s : State) (n : Nat) (c : Core) : (s.setCore n c).draining = s.draining := rfl
@[simp] theorem State.setCore_images (s : State) (n : Nat) (c : Core) : (s.setCore n c).images = s.images := rfl
@[simp] theorem State.setCore_chans (s : State) (n : Nat) (c : Core) : (s.setCore n c).chans = s.chans := rfl
@[simp] theorem State.setCore_nets (s : State) (n : Nat) (c : Core) : (s.setCore n c).nets = s.nets := rfl
@[simp] theorem State.setCore_netsBlocked (s : State) (n : Nat) (c : Core) : (s.setCore n c).netsBlocked = s.netsBlocked := rfl
@[simp] theorem State.setCore_parts (s : State) (n : Nat) (c : Core) : (s.setCore n c).parts = s.parts := rfl
@[simp] theorem State.setCore_dies (s : State) (n : Nat) (c : Core) : (s.setCore n c).dies = s.dies := rfl
@[simp] theorem State.setCore_dieMsgs (s : State) (n : Nat) (c : Core) : (s.setCore n c).dieMsgs = s.dieMsgs := rfl
@[simp] theorem State.setCore_ports (s : State) (n : Nat) (c : Core) : (s.setCore n c).ports = s.ports := rfl
@[simp] theorem State.setCore_inject (s : State) (n : Nat) (c : Core) : (s.setCore n c).inject = s.inject := rfl
@[simp] theorem State.setCore_recv (s : State) (n : Nat) (c : Core) : (s.setCore n c).recv = s.recv := rfl
@[simp] theorem State.setCore_stamped (s : State) (n : Nat) (c : Core) : (s.setCore n c).stamped = s.stamped := rfl
@[simp] theorem State.setCore_marks (s : State) (n : Nat) (c : Core) : (s.setCore n c).marks = s.marks := rfl
@[simp] theorem State.setCore_farWait (s : State) (n : Nat) (c : Core) : (s.setCore n c).farWait = s.farWait := rfl
@[simp] theorem State.setCore_intervals (s : State) (n : Nat) (c : Core) : (s.setCore n c).intervals = s.intervals := rfl
@[simp] theorem State.setCore_gstvNext (s : State) (n : Nat) (c : Core) : (s.setCore n c).gstvNext = s.gstvNext := rfl
@[simp] theorem State.setCore_gstvWait (s : State) (n : Nat) (c : Core) : (s.setCore n c).gstvWait = s.gstvWait := rfl
@[simp] theorem State.setCore_haloParts (s : State) (n : Nat) (c : Core) : (s.setCore n c).haloParts = s.haloParts := rfl
@[simp] theorem State.setCore_devidx (s : State) (n : Nat) (c : Core) : (s.setCore n c).devidx = s.devidx := rfl
@[simp] theorem State.setCore_pftmo (s : State) (n : Nat) (c : Core) : (s.setCore n c).pftmo = s.pftmo := rfl
@[simp] theorem State.setCore_arrays (s : State) (n : Nat) (c : Core) : (s.setCore n c).arrays = s.arrays := rfl
@[simp] theorem State.setCore_engines (s : State) (n : Nat) (c : Core) : (s.setCore n c).engines = s.engines := rfl
@[simp] theorem State.setCore_hostReqs (s : State) (n : Nat) (c : Core) : (s.setCore n c).hostReqs = s.hostReqs := rfl
@[simp] theorem State.setCore_hostReply (s : State) (n : Nat) (c : Core) : (s.setCore n c).hostReply = s.hostReply := rfl
@[simp] theorem State.setCore_faultMsgs (s : State) (n : Nat) (c : Core) : (s.setCore n c).faultMsgs = s.faultMsgs := rfl
@[simp] theorem State.setCore_ageq (s : State) (n : Nat) (c : Core) : (s.setCore n c).ageq = s.ageq := rfl
@[simp] theorem State.setCore_keystone (s : State) (n : Nat) (c : Core) : (s.setCore n c).keystone = s.keystone := rfl
@[simp] theorem State.setCore_ckpts (s : State) (n : Nat) (c : Core) : (s.setCore n c).ckpts = s.ckpts := rfl
@[simp] theorem State.setCore_observe (s : State) (n : Nat) (c : Core) : (s.setCore n c).observe = s.observe := rfl
@[simp] theorem State.setCore_idle (s : State) (n : Nat) (c : Core) : (s.setCore n c).idle = s.idle := rfl
@[simp] theorem State.setCore_idleExit (s : State) (n : Nat) (c : Core) : (s.setCore n c).idleExit = s.idleExit := rfl
@[simp] theorem State.setCore_hostWaits (s : State) (n : Nat) (c : Core) : (s.setCore n c).hostWaits = s.hostWaits := rfl

@[simp] theorem State.modCore_agenda (s : State) (n : Nat) (f : Core → Core) : (s.modCore n f).agenda = s.agenda := rfl
@[simp] theorem State.modCore_turn (s : State) (n : Nat) (f : Core → Core) : (s.modCore n f).turn = s.turn := rfl
@[simp] theorem State.modCore_freeCount (s : State) (n : Nat) (f : Core → Core) : (s.modCore n f).freeCount = s.freeCount := rfl
@[simp] theorem State.modCore_fresh (s : State) (n : Nat) (f : Core → Core) : (s.modCore n f).fresh = s.fresh := rfl
@[simp] theorem State.modCore_cyc (s : State) (n : Nat) (f : Core → Core) : (s.modCore n f).cyc = s.cyc := rfl
@[simp] theorem State.modCore_time (s : State) (n : Nat) (f : Core → Core) : (s.modCore n f).time = s.time := rfl
@[simp] theorem State.modCore_slew (s : State) (n : Nat) (f : Core → Core) : (s.modCore n f).slew = s.slew := rfl
@[simp] theorem State.modCore_mem (s : State) (n : Nat) (f : Core → Core) : (s.modCore n f).mem = s.mem := rfl
@[simp] theorem State.modCore_poisoned (s : State) (n : Nat) (f : Core → Core) : (s.modCore n f).poisoned = s.poisoned := rfl
@[simp] theorem State.modCore_badLines (s : State) (n : Nat) (f : Core → Core) : (s.modCore n f).badLines = s.badLines := rfl
@[simp] theorem State.modCore_ovf (s : State) (n : Nat) (f : Core → Core) : (s.modCore n f).ovf = s.ovf := rfl
@[simp] theorem State.modCore_sync (s : State) (n : Nat) (f : Core → Core) : (s.modCore n f).sync = s.sync := rfl
@[simp] theorem State.modCore_copies (s : State) (n : Nat) (f : Core → Core) : (s.modCore n f).copies = s.copies := rfl
@[simp] theorem State.modCore_know (s : State) (n : Nat) (f : Core → Core) : (s.modCore n f).know = s.know := rfl
@[simp] theorem State.modCore_wrote (s : State) (n : Nat) (f : Core → Core) : (s.modCore n f).wrote = s.wrote := rfl
@[simp] theorem State.modCore_barKnow (s : State) (n : Nat) (f : Core → Core) : (s.modCore n f).barKnow = s.barKnow := rfl
@[simp] theorem State.modCore_barOps (s : State) (n : Nat) (f : Core → Core) : (s.modCore n f).barOps = s.barOps := rfl
@[simp] theorem State.modCore_clusters (s : State) (n : Nat) (f : Core → Core) : (s.modCore n f).clusters = s.clusters := rfl
@[simp] theorem State.modCore_procs (s : State) (n : Nat) (f : Core → Core) : (s.modCore n f).procs = s.procs := rfl
@[simp] theorem State.modCore_gens (s : State) (n : Nat) (f : Core → Core) : (s.modCore n f).gens = s.gens := rfl
@[simp] theorem State.modCore_draining (s : State) (n : Nat) (f : Core → Core) : (s.modCore n f).draining = s.draining := rfl
@[simp] theorem State.modCore_images (s : State) (n : Nat) (f : Core → Core) : (s.modCore n f).images = s.images := rfl
@[simp] theorem State.modCore_chans (s : State) (n : Nat) (f : Core → Core) : (s.modCore n f).chans = s.chans := rfl
@[simp] theorem State.modCore_nets (s : State) (n : Nat) (f : Core → Core) : (s.modCore n f).nets = s.nets := rfl
@[simp] theorem State.modCore_netsBlocked (s : State) (n : Nat) (f : Core → Core) : (s.modCore n f).netsBlocked = s.netsBlocked := rfl
@[simp] theorem State.modCore_parts (s : State) (n : Nat) (f : Core → Core) : (s.modCore n f).parts = s.parts := rfl
@[simp] theorem State.modCore_dies (s : State) (n : Nat) (f : Core → Core) : (s.modCore n f).dies = s.dies := rfl
@[simp] theorem State.modCore_dieMsgs (s : State) (n : Nat) (f : Core → Core) : (s.modCore n f).dieMsgs = s.dieMsgs := rfl
@[simp] theorem State.modCore_ports (s : State) (n : Nat) (f : Core → Core) : (s.modCore n f).ports = s.ports := rfl
@[simp] theorem State.modCore_inject (s : State) (n : Nat) (f : Core → Core) : (s.modCore n f).inject = s.inject := rfl
@[simp] theorem State.modCore_recv (s : State) (n : Nat) (f : Core → Core) : (s.modCore n f).recv = s.recv := rfl
@[simp] theorem State.modCore_stamped (s : State) (n : Nat) (f : Core → Core) : (s.modCore n f).stamped = s.stamped := rfl
@[simp] theorem State.modCore_marks (s : State) (n : Nat) (f : Core → Core) : (s.modCore n f).marks = s.marks := rfl
@[simp] theorem State.modCore_farWait (s : State) (n : Nat) (f : Core → Core) : (s.modCore n f).farWait = s.farWait := rfl
@[simp] theorem State.modCore_intervals (s : State) (n : Nat) (f : Core → Core) : (s.modCore n f).intervals = s.intervals := rfl
@[simp] theorem State.modCore_gstvNext (s : State) (n : Nat) (f : Core → Core) : (s.modCore n f).gstvNext = s.gstvNext := rfl
@[simp] theorem State.modCore_gstvWait (s : State) (n : Nat) (f : Core → Core) : (s.modCore n f).gstvWait = s.gstvWait := rfl
@[simp] theorem State.modCore_haloParts (s : State) (n : Nat) (f : Core → Core) : (s.modCore n f).haloParts = s.haloParts := rfl
@[simp] theorem State.modCore_devidx (s : State) (n : Nat) (f : Core → Core) : (s.modCore n f).devidx = s.devidx := rfl
@[simp] theorem State.modCore_pftmo (s : State) (n : Nat) (f : Core → Core) : (s.modCore n f).pftmo = s.pftmo := rfl
@[simp] theorem State.modCore_arrays (s : State) (n : Nat) (f : Core → Core) : (s.modCore n f).arrays = s.arrays := rfl
@[simp] theorem State.modCore_engines (s : State) (n : Nat) (f : Core → Core) : (s.modCore n f).engines = s.engines := rfl
@[simp] theorem State.modCore_hostReqs (s : State) (n : Nat) (f : Core → Core) : (s.modCore n f).hostReqs = s.hostReqs := rfl
@[simp] theorem State.modCore_hostReply (s : State) (n : Nat) (f : Core → Core) : (s.modCore n f).hostReply = s.hostReply := rfl
@[simp] theorem State.modCore_faultMsgs (s : State) (n : Nat) (f : Core → Core) : (s.modCore n f).faultMsgs = s.faultMsgs := rfl
@[simp] theorem State.modCore_ageq (s : State) (n : Nat) (f : Core → Core) : (s.modCore n f).ageq = s.ageq := rfl
@[simp] theorem State.modCore_keystone (s : State) (n : Nat) (f : Core → Core) : (s.modCore n f).keystone = s.keystone := rfl
@[simp] theorem State.modCore_ckpts (s : State) (n : Nat) (f : Core → Core) : (s.modCore n f).ckpts = s.ckpts := rfl
@[simp] theorem State.modCore_observe (s : State) (n : Nat) (f : Core → Core) : (s.modCore n f).observe = s.observe := rfl
@[simp] theorem State.modCore_idle (s : State) (n : Nat) (f : Core → Core) : (s.modCore n f).idle = s.idle := rfl
@[simp] theorem State.modCore_idleExit (s : State) (n : Nat) (f : Core → Core) : (s.modCore n f).idleExit = s.idleExit := rfl
@[simp] theorem State.modCore_hostWaits (s : State) (n : Nat) (f : Core → Core) : (s.modCore n f).hostWaits = s.hostWaits := rfl

@[simp] theorem State.setCtx_agenda (s : State) (n k : Nat) (x : Ctx) : (s.setCtx n k x).agenda = s.agenda := rfl
@[simp] theorem State.setCtx_turn (s : State) (n k : Nat) (x : Ctx) : (s.setCtx n k x).turn = s.turn := rfl
@[simp] theorem State.setCtx_freeCount (s : State) (n k : Nat) (x : Ctx) : (s.setCtx n k x).freeCount = s.freeCount := rfl
@[simp] theorem State.setCtx_fresh (s : State) (n k : Nat) (x : Ctx) : (s.setCtx n k x).fresh = s.fresh := rfl
@[simp] theorem State.setCtx_cyc (s : State) (n k : Nat) (x : Ctx) : (s.setCtx n k x).cyc = s.cyc := rfl
@[simp] theorem State.setCtx_time (s : State) (n k : Nat) (x : Ctx) : (s.setCtx n k x).time = s.time := rfl
@[simp] theorem State.setCtx_slew (s : State) (n k : Nat) (x : Ctx) : (s.setCtx n k x).slew = s.slew := rfl
@[simp] theorem State.setCtx_mem (s : State) (n k : Nat) (x : Ctx) : (s.setCtx n k x).mem = s.mem := rfl
@[simp] theorem State.setCtx_poisoned (s : State) (n k : Nat) (x : Ctx) : (s.setCtx n k x).poisoned = s.poisoned := rfl
@[simp] theorem State.setCtx_badLines (s : State) (n k : Nat) (x : Ctx) : (s.setCtx n k x).badLines = s.badLines := rfl
@[simp] theorem State.setCtx_ovf (s : State) (n k : Nat) (x : Ctx) : (s.setCtx n k x).ovf = s.ovf := rfl
@[simp] theorem State.setCtx_sync (s : State) (n k : Nat) (x : Ctx) : (s.setCtx n k x).sync = s.sync := rfl
@[simp] theorem State.setCtx_copies (s : State) (n k : Nat) (x : Ctx) : (s.setCtx n k x).copies = s.copies := rfl
@[simp] theorem State.setCtx_know (s : State) (n k : Nat) (x : Ctx) : (s.setCtx n k x).know = s.know := rfl
@[simp] theorem State.setCtx_wrote (s : State) (n k : Nat) (x : Ctx) : (s.setCtx n k x).wrote = s.wrote := rfl
@[simp] theorem State.setCtx_barKnow (s : State) (n k : Nat) (x : Ctx) : (s.setCtx n k x).barKnow = s.barKnow := rfl
@[simp] theorem State.setCtx_barOps (s : State) (n k : Nat) (x : Ctx) : (s.setCtx n k x).barOps = s.barOps := rfl
@[simp] theorem State.setCtx_clusters (s : State) (n k : Nat) (x : Ctx) : (s.setCtx n k x).clusters = s.clusters := rfl
@[simp] theorem State.setCtx_procs (s : State) (n k : Nat) (x : Ctx) : (s.setCtx n k x).procs = s.procs := rfl
@[simp] theorem State.setCtx_gens (s : State) (n k : Nat) (x : Ctx) : (s.setCtx n k x).gens = s.gens := rfl
@[simp] theorem State.setCtx_draining (s : State) (n k : Nat) (x : Ctx) : (s.setCtx n k x).draining = s.draining := rfl
@[simp] theorem State.setCtx_images (s : State) (n k : Nat) (x : Ctx) : (s.setCtx n k x).images = s.images := rfl
@[simp] theorem State.setCtx_chans (s : State) (n k : Nat) (x : Ctx) : (s.setCtx n k x).chans = s.chans := rfl
@[simp] theorem State.setCtx_nets (s : State) (n k : Nat) (x : Ctx) : (s.setCtx n k x).nets = s.nets := rfl
@[simp] theorem State.setCtx_netsBlocked (s : State) (n k : Nat) (x : Ctx) : (s.setCtx n k x).netsBlocked = s.netsBlocked := rfl
@[simp] theorem State.setCtx_parts (s : State) (n k : Nat) (x : Ctx) : (s.setCtx n k x).parts = s.parts := rfl
@[simp] theorem State.setCtx_dies (s : State) (n k : Nat) (x : Ctx) : (s.setCtx n k x).dies = s.dies := rfl
@[simp] theorem State.setCtx_dieMsgs (s : State) (n k : Nat) (x : Ctx) : (s.setCtx n k x).dieMsgs = s.dieMsgs := rfl
@[simp] theorem State.setCtx_ports (s : State) (n k : Nat) (x : Ctx) : (s.setCtx n k x).ports = s.ports := rfl
@[simp] theorem State.setCtx_inject (s : State) (n k : Nat) (x : Ctx) : (s.setCtx n k x).inject = s.inject := rfl
@[simp] theorem State.setCtx_recv (s : State) (n k : Nat) (x : Ctx) : (s.setCtx n k x).recv = s.recv := rfl
@[simp] theorem State.setCtx_stamped (s : State) (n k : Nat) (x : Ctx) : (s.setCtx n k x).stamped = s.stamped := rfl
@[simp] theorem State.setCtx_marks (s : State) (n k : Nat) (x : Ctx) : (s.setCtx n k x).marks = s.marks := rfl
@[simp] theorem State.setCtx_farWait (s : State) (n k : Nat) (x : Ctx) : (s.setCtx n k x).farWait = s.farWait := rfl
@[simp] theorem State.setCtx_intervals (s : State) (n k : Nat) (x : Ctx) : (s.setCtx n k x).intervals = s.intervals := rfl
@[simp] theorem State.setCtx_gstvNext (s : State) (n k : Nat) (x : Ctx) : (s.setCtx n k x).gstvNext = s.gstvNext := rfl
@[simp] theorem State.setCtx_gstvWait (s : State) (n k : Nat) (x : Ctx) : (s.setCtx n k x).gstvWait = s.gstvWait := rfl
@[simp] theorem State.setCtx_haloParts (s : State) (n k : Nat) (x : Ctx) : (s.setCtx n k x).haloParts = s.haloParts := rfl
@[simp] theorem State.setCtx_devidx (s : State) (n k : Nat) (x : Ctx) : (s.setCtx n k x).devidx = s.devidx := rfl
@[simp] theorem State.setCtx_pftmo (s : State) (n k : Nat) (x : Ctx) : (s.setCtx n k x).pftmo = s.pftmo := rfl
@[simp] theorem State.setCtx_arrays (s : State) (n k : Nat) (x : Ctx) : (s.setCtx n k x).arrays = s.arrays := rfl
@[simp] theorem State.setCtx_engines (s : State) (n k : Nat) (x : Ctx) : (s.setCtx n k x).engines = s.engines := rfl
@[simp] theorem State.setCtx_hostReqs (s : State) (n k : Nat) (x : Ctx) : (s.setCtx n k x).hostReqs = s.hostReqs := rfl
@[simp] theorem State.setCtx_hostReply (s : State) (n k : Nat) (x : Ctx) : (s.setCtx n k x).hostReply = s.hostReply := rfl
@[simp] theorem State.setCtx_faultMsgs (s : State) (n k : Nat) (x : Ctx) : (s.setCtx n k x).faultMsgs = s.faultMsgs := rfl
@[simp] theorem State.setCtx_ageq (s : State) (n k : Nat) (x : Ctx) : (s.setCtx n k x).ageq = s.ageq := rfl
@[simp] theorem State.setCtx_keystone (s : State) (n k : Nat) (x : Ctx) : (s.setCtx n k x).keystone = s.keystone := rfl
@[simp] theorem State.setCtx_ckpts (s : State) (n k : Nat) (x : Ctx) : (s.setCtx n k x).ckpts = s.ckpts := rfl
@[simp] theorem State.setCtx_observe (s : State) (n k : Nat) (x : Ctx) : (s.setCtx n k x).observe = s.observe := rfl
@[simp] theorem State.setCtx_idle (s : State) (n k : Nat) (x : Ctx) : (s.setCtx n k x).idle = s.idle := rfl
@[simp] theorem State.setCtx_idleExit (s : State) (n k : Nat) (x : Ctx) : (s.setCtx n k x).idleExit = s.idleExit := rfl
@[simp] theorem State.setCtx_hostWaits (s : State) (n k : Nat) (x : Ctx) : (s.setCtx n k x).hostWaits = s.hostWaits := rfl

@[simp] theorem State.modCtx_agenda (s : State) (n k : Nat) (f : Ctx → Ctx) : (s.modCtx n k f).agenda = s.agenda := rfl
@[simp] theorem State.modCtx_turn (s : State) (n k : Nat) (f : Ctx → Ctx) : (s.modCtx n k f).turn = s.turn := rfl
@[simp] theorem State.modCtx_freeCount (s : State) (n k : Nat) (f : Ctx → Ctx) : (s.modCtx n k f).freeCount = s.freeCount := rfl
@[simp] theorem State.modCtx_fresh (s : State) (n k : Nat) (f : Ctx → Ctx) : (s.modCtx n k f).fresh = s.fresh := rfl
@[simp] theorem State.modCtx_cyc (s : State) (n k : Nat) (f : Ctx → Ctx) : (s.modCtx n k f).cyc = s.cyc := rfl
@[simp] theorem State.modCtx_time (s : State) (n k : Nat) (f : Ctx → Ctx) : (s.modCtx n k f).time = s.time := rfl
@[simp] theorem State.modCtx_slew (s : State) (n k : Nat) (f : Ctx → Ctx) : (s.modCtx n k f).slew = s.slew := rfl
@[simp] theorem State.modCtx_mem (s : State) (n k : Nat) (f : Ctx → Ctx) : (s.modCtx n k f).mem = s.mem := rfl
@[simp] theorem State.modCtx_poisoned (s : State) (n k : Nat) (f : Ctx → Ctx) : (s.modCtx n k f).poisoned = s.poisoned := rfl
@[simp] theorem State.modCtx_badLines (s : State) (n k : Nat) (f : Ctx → Ctx) : (s.modCtx n k f).badLines = s.badLines := rfl
@[simp] theorem State.modCtx_ovf (s : State) (n k : Nat) (f : Ctx → Ctx) : (s.modCtx n k f).ovf = s.ovf := rfl
@[simp] theorem State.modCtx_sync (s : State) (n k : Nat) (f : Ctx → Ctx) : (s.modCtx n k f).sync = s.sync := rfl
@[simp] theorem State.modCtx_copies (s : State) (n k : Nat) (f : Ctx → Ctx) : (s.modCtx n k f).copies = s.copies := rfl
@[simp] theorem State.modCtx_know (s : State) (n k : Nat) (f : Ctx → Ctx) : (s.modCtx n k f).know = s.know := rfl
@[simp] theorem State.modCtx_wrote (s : State) (n k : Nat) (f : Ctx → Ctx) : (s.modCtx n k f).wrote = s.wrote := rfl
@[simp] theorem State.modCtx_barKnow (s : State) (n k : Nat) (f : Ctx → Ctx) : (s.modCtx n k f).barKnow = s.barKnow := rfl
@[simp] theorem State.modCtx_barOps (s : State) (n k : Nat) (f : Ctx → Ctx) : (s.modCtx n k f).barOps = s.barOps := rfl
@[simp] theorem State.modCtx_clusters (s : State) (n k : Nat) (f : Ctx → Ctx) : (s.modCtx n k f).clusters = s.clusters := rfl
@[simp] theorem State.modCtx_procs (s : State) (n k : Nat) (f : Ctx → Ctx) : (s.modCtx n k f).procs = s.procs := rfl
@[simp] theorem State.modCtx_gens (s : State) (n k : Nat) (f : Ctx → Ctx) : (s.modCtx n k f).gens = s.gens := rfl
@[simp] theorem State.modCtx_draining (s : State) (n k : Nat) (f : Ctx → Ctx) : (s.modCtx n k f).draining = s.draining := rfl
@[simp] theorem State.modCtx_images (s : State) (n k : Nat) (f : Ctx → Ctx) : (s.modCtx n k f).images = s.images := rfl
@[simp] theorem State.modCtx_chans (s : State) (n k : Nat) (f : Ctx → Ctx) : (s.modCtx n k f).chans = s.chans := rfl
@[simp] theorem State.modCtx_nets (s : State) (n k : Nat) (f : Ctx → Ctx) : (s.modCtx n k f).nets = s.nets := rfl
@[simp] theorem State.modCtx_netsBlocked (s : State) (n k : Nat) (f : Ctx → Ctx) : (s.modCtx n k f).netsBlocked = s.netsBlocked := rfl
@[simp] theorem State.modCtx_parts (s : State) (n k : Nat) (f : Ctx → Ctx) : (s.modCtx n k f).parts = s.parts := rfl
@[simp] theorem State.modCtx_dies (s : State) (n k : Nat) (f : Ctx → Ctx) : (s.modCtx n k f).dies = s.dies := rfl
@[simp] theorem State.modCtx_dieMsgs (s : State) (n k : Nat) (f : Ctx → Ctx) : (s.modCtx n k f).dieMsgs = s.dieMsgs := rfl
@[simp] theorem State.modCtx_ports (s : State) (n k : Nat) (f : Ctx → Ctx) : (s.modCtx n k f).ports = s.ports := rfl
@[simp] theorem State.modCtx_inject (s : State) (n k : Nat) (f : Ctx → Ctx) : (s.modCtx n k f).inject = s.inject := rfl
@[simp] theorem State.modCtx_recv (s : State) (n k : Nat) (f : Ctx → Ctx) : (s.modCtx n k f).recv = s.recv := rfl
@[simp] theorem State.modCtx_stamped (s : State) (n k : Nat) (f : Ctx → Ctx) : (s.modCtx n k f).stamped = s.stamped := rfl
@[simp] theorem State.modCtx_marks (s : State) (n k : Nat) (f : Ctx → Ctx) : (s.modCtx n k f).marks = s.marks := rfl
@[simp] theorem State.modCtx_farWait (s : State) (n k : Nat) (f : Ctx → Ctx) : (s.modCtx n k f).farWait = s.farWait := rfl
@[simp] theorem State.modCtx_intervals (s : State) (n k : Nat) (f : Ctx → Ctx) : (s.modCtx n k f).intervals = s.intervals := rfl
@[simp] theorem State.modCtx_gstvNext (s : State) (n k : Nat) (f : Ctx → Ctx) : (s.modCtx n k f).gstvNext = s.gstvNext := rfl
@[simp] theorem State.modCtx_gstvWait (s : State) (n k : Nat) (f : Ctx → Ctx) : (s.modCtx n k f).gstvWait = s.gstvWait := rfl
@[simp] theorem State.modCtx_haloParts (s : State) (n k : Nat) (f : Ctx → Ctx) : (s.modCtx n k f).haloParts = s.haloParts := rfl
@[simp] theorem State.modCtx_devidx (s : State) (n k : Nat) (f : Ctx → Ctx) : (s.modCtx n k f).devidx = s.devidx := rfl
@[simp] theorem State.modCtx_pftmo (s : State) (n k : Nat) (f : Ctx → Ctx) : (s.modCtx n k f).pftmo = s.pftmo := rfl
@[simp] theorem State.modCtx_arrays (s : State) (n k : Nat) (f : Ctx → Ctx) : (s.modCtx n k f).arrays = s.arrays := rfl
@[simp] theorem State.modCtx_engines (s : State) (n k : Nat) (f : Ctx → Ctx) : (s.modCtx n k f).engines = s.engines := rfl
@[simp] theorem State.modCtx_hostReqs (s : State) (n k : Nat) (f : Ctx → Ctx) : (s.modCtx n k f).hostReqs = s.hostReqs := rfl
@[simp] theorem State.modCtx_hostReply (s : State) (n k : Nat) (f : Ctx → Ctx) : (s.modCtx n k f).hostReply = s.hostReply := rfl
@[simp] theorem State.modCtx_faultMsgs (s : State) (n k : Nat) (f : Ctx → Ctx) : (s.modCtx n k f).faultMsgs = s.faultMsgs := rfl
@[simp] theorem State.modCtx_ageq (s : State) (n k : Nat) (f : Ctx → Ctx) : (s.modCtx n k f).ageq = s.ageq := rfl
@[simp] theorem State.modCtx_keystone (s : State) (n k : Nat) (f : Ctx → Ctx) : (s.modCtx n k f).keystone = s.keystone := rfl
@[simp] theorem State.modCtx_ckpts (s : State) (n k : Nat) (f : Ctx → Ctx) : (s.modCtx n k f).ckpts = s.ckpts := rfl
@[simp] theorem State.modCtx_observe (s : State) (n k : Nat) (f : Ctx → Ctx) : (s.modCtx n k f).observe = s.observe := rfl
@[simp] theorem State.modCtx_idle (s : State) (n k : Nat) (f : Ctx → Ctx) : (s.modCtx n k f).idle = s.idle := rfl
@[simp] theorem State.modCtx_idleExit (s : State) (n k : Nat) (f : Ctx → Ctx) : (s.modCtx n k f).idleExit = s.idleExit := rfl
@[simp] theorem State.modCtx_hostWaits (s : State) (n k : Nat) (f : Ctx → Ctx) : (s.modCtx n k f).hostWaits = s.hostWaits := rfl

@[simp] theorem State.modActor_agenda (s : State) (f : Ctx → Ctx) : (s.modActor f).agenda = s.agenda := rfl
@[simp] theorem State.modActor_turn (s : State) (f : Ctx → Ctx) : (s.modActor f).turn = s.turn := rfl
@[simp] theorem State.modActor_freeCount (s : State) (f : Ctx → Ctx) : (s.modActor f).freeCount = s.freeCount := rfl
@[simp] theorem State.modActor_fresh (s : State) (f : Ctx → Ctx) : (s.modActor f).fresh = s.fresh := rfl
@[simp] theorem State.modActor_cyc (s : State) (f : Ctx → Ctx) : (s.modActor f).cyc = s.cyc := rfl
@[simp] theorem State.modActor_time (s : State) (f : Ctx → Ctx) : (s.modActor f).time = s.time := rfl
@[simp] theorem State.modActor_slew (s : State) (f : Ctx → Ctx) : (s.modActor f).slew = s.slew := rfl
@[simp] theorem State.modActor_mem (s : State) (f : Ctx → Ctx) : (s.modActor f).mem = s.mem := rfl
@[simp] theorem State.modActor_poisoned (s : State) (f : Ctx → Ctx) : (s.modActor f).poisoned = s.poisoned := rfl
@[simp] theorem State.modActor_badLines (s : State) (f : Ctx → Ctx) : (s.modActor f).badLines = s.badLines := rfl
@[simp] theorem State.modActor_ovf (s : State) (f : Ctx → Ctx) : (s.modActor f).ovf = s.ovf := rfl
@[simp] theorem State.modActor_sync (s : State) (f : Ctx → Ctx) : (s.modActor f).sync = s.sync := rfl
@[simp] theorem State.modActor_copies (s : State) (f : Ctx → Ctx) : (s.modActor f).copies = s.copies := rfl
@[simp] theorem State.modActor_know (s : State) (f : Ctx → Ctx) : (s.modActor f).know = s.know := rfl
@[simp] theorem State.modActor_wrote (s : State) (f : Ctx → Ctx) : (s.modActor f).wrote = s.wrote := rfl
@[simp] theorem State.modActor_barKnow (s : State) (f : Ctx → Ctx) : (s.modActor f).barKnow = s.barKnow := rfl
@[simp] theorem State.modActor_barOps (s : State) (f : Ctx → Ctx) : (s.modActor f).barOps = s.barOps := rfl
@[simp] theorem State.modActor_clusters (s : State) (f : Ctx → Ctx) : (s.modActor f).clusters = s.clusters := rfl
@[simp] theorem State.modActor_procs (s : State) (f : Ctx → Ctx) : (s.modActor f).procs = s.procs := rfl
@[simp] theorem State.modActor_gens (s : State) (f : Ctx → Ctx) : (s.modActor f).gens = s.gens := rfl
@[simp] theorem State.modActor_draining (s : State) (f : Ctx → Ctx) : (s.modActor f).draining = s.draining := rfl
@[simp] theorem State.modActor_images (s : State) (f : Ctx → Ctx) : (s.modActor f).images = s.images := rfl
@[simp] theorem State.modActor_chans (s : State) (f : Ctx → Ctx) : (s.modActor f).chans = s.chans := rfl
@[simp] theorem State.modActor_nets (s : State) (f : Ctx → Ctx) : (s.modActor f).nets = s.nets := rfl
@[simp] theorem State.modActor_netsBlocked (s : State) (f : Ctx → Ctx) : (s.modActor f).netsBlocked = s.netsBlocked := rfl
@[simp] theorem State.modActor_parts (s : State) (f : Ctx → Ctx) : (s.modActor f).parts = s.parts := rfl
@[simp] theorem State.modActor_dies (s : State) (f : Ctx → Ctx) : (s.modActor f).dies = s.dies := rfl
@[simp] theorem State.modActor_dieMsgs (s : State) (f : Ctx → Ctx) : (s.modActor f).dieMsgs = s.dieMsgs := rfl
@[simp] theorem State.modActor_ports (s : State) (f : Ctx → Ctx) : (s.modActor f).ports = s.ports := rfl
@[simp] theorem State.modActor_inject (s : State) (f : Ctx → Ctx) : (s.modActor f).inject = s.inject := rfl
@[simp] theorem State.modActor_recv (s : State) (f : Ctx → Ctx) : (s.modActor f).recv = s.recv := rfl
@[simp] theorem State.modActor_stamped (s : State) (f : Ctx → Ctx) : (s.modActor f).stamped = s.stamped := rfl
@[simp] theorem State.modActor_marks (s : State) (f : Ctx → Ctx) : (s.modActor f).marks = s.marks := rfl
@[simp] theorem State.modActor_farWait (s : State) (f : Ctx → Ctx) : (s.modActor f).farWait = s.farWait := rfl
@[simp] theorem State.modActor_intervals (s : State) (f : Ctx → Ctx) : (s.modActor f).intervals = s.intervals := rfl
@[simp] theorem State.modActor_gstvNext (s : State) (f : Ctx → Ctx) : (s.modActor f).gstvNext = s.gstvNext := rfl
@[simp] theorem State.modActor_gstvWait (s : State) (f : Ctx → Ctx) : (s.modActor f).gstvWait = s.gstvWait := rfl
@[simp] theorem State.modActor_haloParts (s : State) (f : Ctx → Ctx) : (s.modActor f).haloParts = s.haloParts := rfl
@[simp] theorem State.modActor_devidx (s : State) (f : Ctx → Ctx) : (s.modActor f).devidx = s.devidx := rfl
@[simp] theorem State.modActor_pftmo (s : State) (f : Ctx → Ctx) : (s.modActor f).pftmo = s.pftmo := rfl
@[simp] theorem State.modActor_arrays (s : State) (f : Ctx → Ctx) : (s.modActor f).arrays = s.arrays := rfl
@[simp] theorem State.modActor_engines (s : State) (f : Ctx → Ctx) : (s.modActor f).engines = s.engines := rfl
@[simp] theorem State.modActor_hostReqs (s : State) (f : Ctx → Ctx) : (s.modActor f).hostReqs = s.hostReqs := rfl
@[simp] theorem State.modActor_hostReply (s : State) (f : Ctx → Ctx) : (s.modActor f).hostReply = s.hostReply := rfl
@[simp] theorem State.modActor_faultMsgs (s : State) (f : Ctx → Ctx) : (s.modActor f).faultMsgs = s.faultMsgs := rfl
@[simp] theorem State.modActor_ageq (s : State) (f : Ctx → Ctx) : (s.modActor f).ageq = s.ageq := rfl
@[simp] theorem State.modActor_keystone (s : State) (f : Ctx → Ctx) : (s.modActor f).keystone = s.keystone := rfl
@[simp] theorem State.modActor_ckpts (s : State) (f : Ctx → Ctx) : (s.modActor f).ckpts = s.ckpts := rfl
@[simp] theorem State.modActor_observe (s : State) (f : Ctx → Ctx) : (s.modActor f).observe = s.observe := rfl
@[simp] theorem State.modActor_idle (s : State) (f : Ctx → Ctx) : (s.modActor f).idle = s.idle := rfl
@[simp] theorem State.modActor_idleExit (s : State) (f : Ctx → Ctx) : (s.modActor f).idleExit = s.idleExit := rfl
@[simp] theorem State.modActor_hostWaits (s : State) (f : Ctx → Ctx) : (s.modActor f).hostWaits = s.hostWaits := rfl

@[simp] theorem State.modCluster_agenda (s : State) (n : Nat) (f : Cluster → Cluster) : (s.modCluster n f).agenda = s.agenda := rfl
@[simp] theorem State.modCluster_turn (s : State) (n : Nat) (f : Cluster → Cluster) : (s.modCluster n f).turn = s.turn := rfl
@[simp] theorem State.modCluster_freeCount (s : State) (n : Nat) (f : Cluster → Cluster) : (s.modCluster n f).freeCount = s.freeCount := rfl
@[simp] theorem State.modCluster_fresh (s : State) (n : Nat) (f : Cluster → Cluster) : (s.modCluster n f).fresh = s.fresh := rfl
@[simp] theorem State.modCluster_cyc (s : State) (n : Nat) (f : Cluster → Cluster) : (s.modCluster n f).cyc = s.cyc := rfl
@[simp] theorem State.modCluster_time (s : State) (n : Nat) (f : Cluster → Cluster) : (s.modCluster n f).time = s.time := rfl
@[simp] theorem State.modCluster_slew (s : State) (n : Nat) (f : Cluster → Cluster) : (s.modCluster n f).slew = s.slew := rfl
@[simp] theorem State.modCluster_mem (s : State) (n : Nat) (f : Cluster → Cluster) : (s.modCluster n f).mem = s.mem := rfl
@[simp] theorem State.modCluster_poisoned (s : State) (n : Nat) (f : Cluster → Cluster) : (s.modCluster n f).poisoned = s.poisoned := rfl
@[simp] theorem State.modCluster_badLines (s : State) (n : Nat) (f : Cluster → Cluster) : (s.modCluster n f).badLines = s.badLines := rfl
@[simp] theorem State.modCluster_ovf (s : State) (n : Nat) (f : Cluster → Cluster) : (s.modCluster n f).ovf = s.ovf := rfl
@[simp] theorem State.modCluster_sync (s : State) (n : Nat) (f : Cluster → Cluster) : (s.modCluster n f).sync = s.sync := rfl
@[simp] theorem State.modCluster_copies (s : State) (n : Nat) (f : Cluster → Cluster) : (s.modCluster n f).copies = s.copies := rfl
@[simp] theorem State.modCluster_know (s : State) (n : Nat) (f : Cluster → Cluster) : (s.modCluster n f).know = s.know := rfl
@[simp] theorem State.modCluster_wrote (s : State) (n : Nat) (f : Cluster → Cluster) : (s.modCluster n f).wrote = s.wrote := rfl
@[simp] theorem State.modCluster_barKnow (s : State) (n : Nat) (f : Cluster → Cluster) : (s.modCluster n f).barKnow = s.barKnow := rfl
@[simp] theorem State.modCluster_barOps (s : State) (n : Nat) (f : Cluster → Cluster) : (s.modCluster n f).barOps = s.barOps := rfl
@[simp] theorem State.modCluster_cores (s : State) (n : Nat) (f : Cluster → Cluster) : (s.modCluster n f).cores = s.cores := rfl
@[simp] theorem State.modCluster_procs (s : State) (n : Nat) (f : Cluster → Cluster) : (s.modCluster n f).procs = s.procs := rfl
@[simp] theorem State.modCluster_gens (s : State) (n : Nat) (f : Cluster → Cluster) : (s.modCluster n f).gens = s.gens := rfl
@[simp] theorem State.modCluster_draining (s : State) (n : Nat) (f : Cluster → Cluster) : (s.modCluster n f).draining = s.draining := rfl
@[simp] theorem State.modCluster_images (s : State) (n : Nat) (f : Cluster → Cluster) : (s.modCluster n f).images = s.images := rfl
@[simp] theorem State.modCluster_chans (s : State) (n : Nat) (f : Cluster → Cluster) : (s.modCluster n f).chans = s.chans := rfl
@[simp] theorem State.modCluster_nets (s : State) (n : Nat) (f : Cluster → Cluster) : (s.modCluster n f).nets = s.nets := rfl
@[simp] theorem State.modCluster_netsBlocked (s : State) (n : Nat) (f : Cluster → Cluster) : (s.modCluster n f).netsBlocked = s.netsBlocked := rfl
@[simp] theorem State.modCluster_parts (s : State) (n : Nat) (f : Cluster → Cluster) : (s.modCluster n f).parts = s.parts := rfl
@[simp] theorem State.modCluster_dies (s : State) (n : Nat) (f : Cluster → Cluster) : (s.modCluster n f).dies = s.dies := rfl
@[simp] theorem State.modCluster_dieMsgs (s : State) (n : Nat) (f : Cluster → Cluster) : (s.modCluster n f).dieMsgs = s.dieMsgs := rfl
@[simp] theorem State.modCluster_ports (s : State) (n : Nat) (f : Cluster → Cluster) : (s.modCluster n f).ports = s.ports := rfl
@[simp] theorem State.modCluster_inject (s : State) (n : Nat) (f : Cluster → Cluster) : (s.modCluster n f).inject = s.inject := rfl
@[simp] theorem State.modCluster_recv (s : State) (n : Nat) (f : Cluster → Cluster) : (s.modCluster n f).recv = s.recv := rfl
@[simp] theorem State.modCluster_stamped (s : State) (n : Nat) (f : Cluster → Cluster) : (s.modCluster n f).stamped = s.stamped := rfl
@[simp] theorem State.modCluster_marks (s : State) (n : Nat) (f : Cluster → Cluster) : (s.modCluster n f).marks = s.marks := rfl
@[simp] theorem State.modCluster_farWait (s : State) (n : Nat) (f : Cluster → Cluster) : (s.modCluster n f).farWait = s.farWait := rfl
@[simp] theorem State.modCluster_intervals (s : State) (n : Nat) (f : Cluster → Cluster) : (s.modCluster n f).intervals = s.intervals := rfl
@[simp] theorem State.modCluster_gstvNext (s : State) (n : Nat) (f : Cluster → Cluster) : (s.modCluster n f).gstvNext = s.gstvNext := rfl
@[simp] theorem State.modCluster_gstvWait (s : State) (n : Nat) (f : Cluster → Cluster) : (s.modCluster n f).gstvWait = s.gstvWait := rfl
@[simp] theorem State.modCluster_haloParts (s : State) (n : Nat) (f : Cluster → Cluster) : (s.modCluster n f).haloParts = s.haloParts := rfl
@[simp] theorem State.modCluster_devidx (s : State) (n : Nat) (f : Cluster → Cluster) : (s.modCluster n f).devidx = s.devidx := rfl
@[simp] theorem State.modCluster_pftmo (s : State) (n : Nat) (f : Cluster → Cluster) : (s.modCluster n f).pftmo = s.pftmo := rfl
@[simp] theorem State.modCluster_arrays (s : State) (n : Nat) (f : Cluster → Cluster) : (s.modCluster n f).arrays = s.arrays := rfl
@[simp] theorem State.modCluster_engines (s : State) (n : Nat) (f : Cluster → Cluster) : (s.modCluster n f).engines = s.engines := rfl
@[simp] theorem State.modCluster_hostReqs (s : State) (n : Nat) (f : Cluster → Cluster) : (s.modCluster n f).hostReqs = s.hostReqs := rfl
@[simp] theorem State.modCluster_hostReply (s : State) (n : Nat) (f : Cluster → Cluster) : (s.modCluster n f).hostReply = s.hostReply := rfl
@[simp] theorem State.modCluster_faultMsgs (s : State) (n : Nat) (f : Cluster → Cluster) : (s.modCluster n f).faultMsgs = s.faultMsgs := rfl
@[simp] theorem State.modCluster_ageq (s : State) (n : Nat) (f : Cluster → Cluster) : (s.modCluster n f).ageq = s.ageq := rfl
@[simp] theorem State.modCluster_keystone (s : State) (n : Nat) (f : Cluster → Cluster) : (s.modCluster n f).keystone = s.keystone := rfl
@[simp] theorem State.modCluster_ckpts (s : State) (n : Nat) (f : Cluster → Cluster) : (s.modCluster n f).ckpts = s.ckpts := rfl
@[simp] theorem State.modCluster_observe (s : State) (n : Nat) (f : Cluster → Cluster) : (s.modCluster n f).observe = s.observe := rfl
@[simp] theorem State.modCluster_idle (s : State) (n : Nat) (f : Cluster → Cluster) : (s.modCluster n f).idle = s.idle := rfl
@[simp] theorem State.modCluster_idleExit (s : State) (n : Nat) (f : Cluster → Cluster) : (s.modCluster n f).idleExit = s.idleExit := rfl
@[simp] theorem State.modCluster_hostWaits (s : State) (n : Nat) (f : Cluster → Cluster) : (s.modCluster n f).hostWaits = s.hostWaits := rfl

@[simp] theorem State.modProc_agenda (s : State) (n : Nat) (f : Proc → Proc) : (s.modProc n f).agenda = s.agenda := rfl
@[simp] theorem State.modProc_turn (s : State) (n : Nat) (f : Proc → Proc) : (s.modProc n f).turn = s.turn := rfl
@[simp] theorem State.modProc_freeCount (s : State) (n : Nat) (f : Proc → Proc) : (s.modProc n f).freeCount = s.freeCount := rfl
@[simp] theorem State.modProc_fresh (s : State) (n : Nat) (f : Proc → Proc) : (s.modProc n f).fresh = s.fresh := rfl
@[simp] theorem State.modProc_cyc (s : State) (n : Nat) (f : Proc → Proc) : (s.modProc n f).cyc = s.cyc := rfl
@[simp] theorem State.modProc_time (s : State) (n : Nat) (f : Proc → Proc) : (s.modProc n f).time = s.time := rfl
@[simp] theorem State.modProc_slew (s : State) (n : Nat) (f : Proc → Proc) : (s.modProc n f).slew = s.slew := rfl
@[simp] theorem State.modProc_mem (s : State) (n : Nat) (f : Proc → Proc) : (s.modProc n f).mem = s.mem := rfl
@[simp] theorem State.modProc_poisoned (s : State) (n : Nat) (f : Proc → Proc) : (s.modProc n f).poisoned = s.poisoned := rfl
@[simp] theorem State.modProc_badLines (s : State) (n : Nat) (f : Proc → Proc) : (s.modProc n f).badLines = s.badLines := rfl
@[simp] theorem State.modProc_ovf (s : State) (n : Nat) (f : Proc → Proc) : (s.modProc n f).ovf = s.ovf := rfl
@[simp] theorem State.modProc_sync (s : State) (n : Nat) (f : Proc → Proc) : (s.modProc n f).sync = s.sync := rfl
@[simp] theorem State.modProc_copies (s : State) (n : Nat) (f : Proc → Proc) : (s.modProc n f).copies = s.copies := rfl
@[simp] theorem State.modProc_know (s : State) (n : Nat) (f : Proc → Proc) : (s.modProc n f).know = s.know := rfl
@[simp] theorem State.modProc_wrote (s : State) (n : Nat) (f : Proc → Proc) : (s.modProc n f).wrote = s.wrote := rfl
@[simp] theorem State.modProc_barKnow (s : State) (n : Nat) (f : Proc → Proc) : (s.modProc n f).barKnow = s.barKnow := rfl
@[simp] theorem State.modProc_barOps (s : State) (n : Nat) (f : Proc → Proc) : (s.modProc n f).barOps = s.barOps := rfl
@[simp] theorem State.modProc_cores (s : State) (n : Nat) (f : Proc → Proc) : (s.modProc n f).cores = s.cores := rfl
@[simp] theorem State.modProc_clusters (s : State) (n : Nat) (f : Proc → Proc) : (s.modProc n f).clusters = s.clusters := rfl
@[simp] theorem State.modProc_gens (s : State) (n : Nat) (f : Proc → Proc) : (s.modProc n f).gens = s.gens := rfl
@[simp] theorem State.modProc_draining (s : State) (n : Nat) (f : Proc → Proc) : (s.modProc n f).draining = s.draining := rfl
@[simp] theorem State.modProc_images (s : State) (n : Nat) (f : Proc → Proc) : (s.modProc n f).images = s.images := rfl
@[simp] theorem State.modProc_chans (s : State) (n : Nat) (f : Proc → Proc) : (s.modProc n f).chans = s.chans := rfl
@[simp] theorem State.modProc_nets (s : State) (n : Nat) (f : Proc → Proc) : (s.modProc n f).nets = s.nets := rfl
@[simp] theorem State.modProc_netsBlocked (s : State) (n : Nat) (f : Proc → Proc) : (s.modProc n f).netsBlocked = s.netsBlocked := rfl
@[simp] theorem State.modProc_parts (s : State) (n : Nat) (f : Proc → Proc) : (s.modProc n f).parts = s.parts := rfl
@[simp] theorem State.modProc_dies (s : State) (n : Nat) (f : Proc → Proc) : (s.modProc n f).dies = s.dies := rfl
@[simp] theorem State.modProc_dieMsgs (s : State) (n : Nat) (f : Proc → Proc) : (s.modProc n f).dieMsgs = s.dieMsgs := rfl
@[simp] theorem State.modProc_ports (s : State) (n : Nat) (f : Proc → Proc) : (s.modProc n f).ports = s.ports := rfl
@[simp] theorem State.modProc_inject (s : State) (n : Nat) (f : Proc → Proc) : (s.modProc n f).inject = s.inject := rfl
@[simp] theorem State.modProc_recv (s : State) (n : Nat) (f : Proc → Proc) : (s.modProc n f).recv = s.recv := rfl
@[simp] theorem State.modProc_stamped (s : State) (n : Nat) (f : Proc → Proc) : (s.modProc n f).stamped = s.stamped := rfl
@[simp] theorem State.modProc_marks (s : State) (n : Nat) (f : Proc → Proc) : (s.modProc n f).marks = s.marks := rfl
@[simp] theorem State.modProc_farWait (s : State) (n : Nat) (f : Proc → Proc) : (s.modProc n f).farWait = s.farWait := rfl
@[simp] theorem State.modProc_intervals (s : State) (n : Nat) (f : Proc → Proc) : (s.modProc n f).intervals = s.intervals := rfl
@[simp] theorem State.modProc_gstvNext (s : State) (n : Nat) (f : Proc → Proc) : (s.modProc n f).gstvNext = s.gstvNext := rfl
@[simp] theorem State.modProc_gstvWait (s : State) (n : Nat) (f : Proc → Proc) : (s.modProc n f).gstvWait = s.gstvWait := rfl
@[simp] theorem State.modProc_haloParts (s : State) (n : Nat) (f : Proc → Proc) : (s.modProc n f).haloParts = s.haloParts := rfl
@[simp] theorem State.modProc_devidx (s : State) (n : Nat) (f : Proc → Proc) : (s.modProc n f).devidx = s.devidx := rfl
@[simp] theorem State.modProc_pftmo (s : State) (n : Nat) (f : Proc → Proc) : (s.modProc n f).pftmo = s.pftmo := rfl
@[simp] theorem State.modProc_arrays (s : State) (n : Nat) (f : Proc → Proc) : (s.modProc n f).arrays = s.arrays := rfl
@[simp] theorem State.modProc_engines (s : State) (n : Nat) (f : Proc → Proc) : (s.modProc n f).engines = s.engines := rfl
@[simp] theorem State.modProc_hostReqs (s : State) (n : Nat) (f : Proc → Proc) : (s.modProc n f).hostReqs = s.hostReqs := rfl
@[simp] theorem State.modProc_hostReply (s : State) (n : Nat) (f : Proc → Proc) : (s.modProc n f).hostReply = s.hostReply := rfl
@[simp] theorem State.modProc_faultMsgs (s : State) (n : Nat) (f : Proc → Proc) : (s.modProc n f).faultMsgs = s.faultMsgs := rfl
@[simp] theorem State.modProc_ageq (s : State) (n : Nat) (f : Proc → Proc) : (s.modProc n f).ageq = s.ageq := rfl
@[simp] theorem State.modProc_keystone (s : State) (n : Nat) (f : Proc → Proc) : (s.modProc n f).keystone = s.keystone := rfl
@[simp] theorem State.modProc_ckpts (s : State) (n : Nat) (f : Proc → Proc) : (s.modProc n f).ckpts = s.ckpts := rfl
@[simp] theorem State.modProc_observe (s : State) (n : Nat) (f : Proc → Proc) : (s.modProc n f).observe = s.observe := rfl
@[simp] theorem State.modProc_idle (s : State) (n : Nat) (f : Proc → Proc) : (s.modProc n f).idle = s.idle := rfl
@[simp] theorem State.modProc_idleExit (s : State) (n : Nat) (f : Proc → Proc) : (s.modProc n f).idleExit = s.idleExit := rfl
@[simp] theorem State.modProc_hostWaits (s : State) (n : Nat) (f : Proc → Proc) : (s.modProc n f).hostWaits = s.hostWaits := rfl

@[simp] theorem State.modPart_agenda (s : State) (n : Nat) (f : Partition → Partition) : (s.modPart n f).agenda = s.agenda := rfl
@[simp] theorem State.modPart_turn (s : State) (n : Nat) (f : Partition → Partition) : (s.modPart n f).turn = s.turn := rfl
@[simp] theorem State.modPart_freeCount (s : State) (n : Nat) (f : Partition → Partition) : (s.modPart n f).freeCount = s.freeCount := rfl
@[simp] theorem State.modPart_fresh (s : State) (n : Nat) (f : Partition → Partition) : (s.modPart n f).fresh = s.fresh := rfl
@[simp] theorem State.modPart_cyc (s : State) (n : Nat) (f : Partition → Partition) : (s.modPart n f).cyc = s.cyc := rfl
@[simp] theorem State.modPart_time (s : State) (n : Nat) (f : Partition → Partition) : (s.modPart n f).time = s.time := rfl
@[simp] theorem State.modPart_slew (s : State) (n : Nat) (f : Partition → Partition) : (s.modPart n f).slew = s.slew := rfl
@[simp] theorem State.modPart_mem (s : State) (n : Nat) (f : Partition → Partition) : (s.modPart n f).mem = s.mem := rfl
@[simp] theorem State.modPart_poisoned (s : State) (n : Nat) (f : Partition → Partition) : (s.modPart n f).poisoned = s.poisoned := rfl
@[simp] theorem State.modPart_badLines (s : State) (n : Nat) (f : Partition → Partition) : (s.modPart n f).badLines = s.badLines := rfl
@[simp] theorem State.modPart_ovf (s : State) (n : Nat) (f : Partition → Partition) : (s.modPart n f).ovf = s.ovf := rfl
@[simp] theorem State.modPart_sync (s : State) (n : Nat) (f : Partition → Partition) : (s.modPart n f).sync = s.sync := rfl
@[simp] theorem State.modPart_copies (s : State) (n : Nat) (f : Partition → Partition) : (s.modPart n f).copies = s.copies := rfl
@[simp] theorem State.modPart_know (s : State) (n : Nat) (f : Partition → Partition) : (s.modPart n f).know = s.know := rfl
@[simp] theorem State.modPart_wrote (s : State) (n : Nat) (f : Partition → Partition) : (s.modPart n f).wrote = s.wrote := rfl
@[simp] theorem State.modPart_barKnow (s : State) (n : Nat) (f : Partition → Partition) : (s.modPart n f).barKnow = s.barKnow := rfl
@[simp] theorem State.modPart_barOps (s : State) (n : Nat) (f : Partition → Partition) : (s.modPart n f).barOps = s.barOps := rfl
@[simp] theorem State.modPart_cores (s : State) (n : Nat) (f : Partition → Partition) : (s.modPart n f).cores = s.cores := rfl
@[simp] theorem State.modPart_clusters (s : State) (n : Nat) (f : Partition → Partition) : (s.modPart n f).clusters = s.clusters := rfl
@[simp] theorem State.modPart_procs (s : State) (n : Nat) (f : Partition → Partition) : (s.modPart n f).procs = s.procs := rfl
@[simp] theorem State.modPart_gens (s : State) (n : Nat) (f : Partition → Partition) : (s.modPart n f).gens = s.gens := rfl
@[simp] theorem State.modPart_draining (s : State) (n : Nat) (f : Partition → Partition) : (s.modPart n f).draining = s.draining := rfl
@[simp] theorem State.modPart_images (s : State) (n : Nat) (f : Partition → Partition) : (s.modPart n f).images = s.images := rfl
@[simp] theorem State.modPart_chans (s : State) (n : Nat) (f : Partition → Partition) : (s.modPart n f).chans = s.chans := rfl
@[simp] theorem State.modPart_nets (s : State) (n : Nat) (f : Partition → Partition) : (s.modPart n f).nets = s.nets := rfl
@[simp] theorem State.modPart_netsBlocked (s : State) (n : Nat) (f : Partition → Partition) : (s.modPart n f).netsBlocked = s.netsBlocked := rfl
@[simp] theorem State.modPart_dies (s : State) (n : Nat) (f : Partition → Partition) : (s.modPart n f).dies = s.dies := rfl
@[simp] theorem State.modPart_dieMsgs (s : State) (n : Nat) (f : Partition → Partition) : (s.modPart n f).dieMsgs = s.dieMsgs := rfl
@[simp] theorem State.modPart_ports (s : State) (n : Nat) (f : Partition → Partition) : (s.modPart n f).ports = s.ports := rfl
@[simp] theorem State.modPart_inject (s : State) (n : Nat) (f : Partition → Partition) : (s.modPart n f).inject = s.inject := rfl
@[simp] theorem State.modPart_recv (s : State) (n : Nat) (f : Partition → Partition) : (s.modPart n f).recv = s.recv := rfl
@[simp] theorem State.modPart_stamped (s : State) (n : Nat) (f : Partition → Partition) : (s.modPart n f).stamped = s.stamped := rfl
@[simp] theorem State.modPart_marks (s : State) (n : Nat) (f : Partition → Partition) : (s.modPart n f).marks = s.marks := rfl
@[simp] theorem State.modPart_farWait (s : State) (n : Nat) (f : Partition → Partition) : (s.modPart n f).farWait = s.farWait := rfl
@[simp] theorem State.modPart_intervals (s : State) (n : Nat) (f : Partition → Partition) : (s.modPart n f).intervals = s.intervals := rfl
@[simp] theorem State.modPart_gstvNext (s : State) (n : Nat) (f : Partition → Partition) : (s.modPart n f).gstvNext = s.gstvNext := rfl
@[simp] theorem State.modPart_gstvWait (s : State) (n : Nat) (f : Partition → Partition) : (s.modPart n f).gstvWait = s.gstvWait := rfl
@[simp] theorem State.modPart_haloParts (s : State) (n : Nat) (f : Partition → Partition) : (s.modPart n f).haloParts = s.haloParts := rfl
@[simp] theorem State.modPart_devidx (s : State) (n : Nat) (f : Partition → Partition) : (s.modPart n f).devidx = s.devidx := rfl
@[simp] theorem State.modPart_pftmo (s : State) (n : Nat) (f : Partition → Partition) : (s.modPart n f).pftmo = s.pftmo := rfl
@[simp] theorem State.modPart_arrays (s : State) (n : Nat) (f : Partition → Partition) : (s.modPart n f).arrays = s.arrays := rfl
@[simp] theorem State.modPart_engines (s : State) (n : Nat) (f : Partition → Partition) : (s.modPart n f).engines = s.engines := rfl
@[simp] theorem State.modPart_hostReqs (s : State) (n : Nat) (f : Partition → Partition) : (s.modPart n f).hostReqs = s.hostReqs := rfl
@[simp] theorem State.modPart_hostReply (s : State) (n : Nat) (f : Partition → Partition) : (s.modPart n f).hostReply = s.hostReply := rfl
@[simp] theorem State.modPart_faultMsgs (s : State) (n : Nat) (f : Partition → Partition) : (s.modPart n f).faultMsgs = s.faultMsgs := rfl
@[simp] theorem State.modPart_ageq (s : State) (n : Nat) (f : Partition → Partition) : (s.modPart n f).ageq = s.ageq := rfl
@[simp] theorem State.modPart_keystone (s : State) (n : Nat) (f : Partition → Partition) : (s.modPart n f).keystone = s.keystone := rfl
@[simp] theorem State.modPart_ckpts (s : State) (n : Nat) (f : Partition → Partition) : (s.modPart n f).ckpts = s.ckpts := rfl
@[simp] theorem State.modPart_observe (s : State) (n : Nat) (f : Partition → Partition) : (s.modPart n f).observe = s.observe := rfl
@[simp] theorem State.modPart_idle (s : State) (n : Nat) (f : Partition → Partition) : (s.modPart n f).idle = s.idle := rfl
@[simp] theorem State.modPart_idleExit (s : State) (n : Nat) (f : Partition → Partition) : (s.modPart n f).idleExit = s.idleExit := rfl
@[simp] theorem State.modPart_hostWaits (s : State) (n : Nat) (f : Partition → Partition) : (s.modPart n f).hostWaits = s.hostWaits := rfl

@[simp] theorem State.modDie_agenda (s : State) (n : Nat) (f : Die → Die) : (s.modDie n f).agenda = s.agenda := rfl
@[simp] theorem State.modDie_turn (s : State) (n : Nat) (f : Die → Die) : (s.modDie n f).turn = s.turn := rfl
@[simp] theorem State.modDie_freeCount (s : State) (n : Nat) (f : Die → Die) : (s.modDie n f).freeCount = s.freeCount := rfl
@[simp] theorem State.modDie_fresh (s : State) (n : Nat) (f : Die → Die) : (s.modDie n f).fresh = s.fresh := rfl
@[simp] theorem State.modDie_cyc (s : State) (n : Nat) (f : Die → Die) : (s.modDie n f).cyc = s.cyc := rfl
@[simp] theorem State.modDie_time (s : State) (n : Nat) (f : Die → Die) : (s.modDie n f).time = s.time := rfl
@[simp] theorem State.modDie_slew (s : State) (n : Nat) (f : Die → Die) : (s.modDie n f).slew = s.slew := rfl
@[simp] theorem State.modDie_mem (s : State) (n : Nat) (f : Die → Die) : (s.modDie n f).mem = s.mem := rfl
@[simp] theorem State.modDie_poisoned (s : State) (n : Nat) (f : Die → Die) : (s.modDie n f).poisoned = s.poisoned := rfl
@[simp] theorem State.modDie_badLines (s : State) (n : Nat) (f : Die → Die) : (s.modDie n f).badLines = s.badLines := rfl
@[simp] theorem State.modDie_ovf (s : State) (n : Nat) (f : Die → Die) : (s.modDie n f).ovf = s.ovf := rfl
@[simp] theorem State.modDie_sync (s : State) (n : Nat) (f : Die → Die) : (s.modDie n f).sync = s.sync := rfl
@[simp] theorem State.modDie_copies (s : State) (n : Nat) (f : Die → Die) : (s.modDie n f).copies = s.copies := rfl
@[simp] theorem State.modDie_know (s : State) (n : Nat) (f : Die → Die) : (s.modDie n f).know = s.know := rfl
@[simp] theorem State.modDie_wrote (s : State) (n : Nat) (f : Die → Die) : (s.modDie n f).wrote = s.wrote := rfl
@[simp] theorem State.modDie_barKnow (s : State) (n : Nat) (f : Die → Die) : (s.modDie n f).barKnow = s.barKnow := rfl
@[simp] theorem State.modDie_barOps (s : State) (n : Nat) (f : Die → Die) : (s.modDie n f).barOps = s.barOps := rfl
@[simp] theorem State.modDie_cores (s : State) (n : Nat) (f : Die → Die) : (s.modDie n f).cores = s.cores := rfl
@[simp] theorem State.modDie_clusters (s : State) (n : Nat) (f : Die → Die) : (s.modDie n f).clusters = s.clusters := rfl
@[simp] theorem State.modDie_procs (s : State) (n : Nat) (f : Die → Die) : (s.modDie n f).procs = s.procs := rfl
@[simp] theorem State.modDie_gens (s : State) (n : Nat) (f : Die → Die) : (s.modDie n f).gens = s.gens := rfl
@[simp] theorem State.modDie_draining (s : State) (n : Nat) (f : Die → Die) : (s.modDie n f).draining = s.draining := rfl
@[simp] theorem State.modDie_images (s : State) (n : Nat) (f : Die → Die) : (s.modDie n f).images = s.images := rfl
@[simp] theorem State.modDie_chans (s : State) (n : Nat) (f : Die → Die) : (s.modDie n f).chans = s.chans := rfl
@[simp] theorem State.modDie_nets (s : State) (n : Nat) (f : Die → Die) : (s.modDie n f).nets = s.nets := rfl
@[simp] theorem State.modDie_netsBlocked (s : State) (n : Nat) (f : Die → Die) : (s.modDie n f).netsBlocked = s.netsBlocked := rfl
@[simp] theorem State.modDie_parts (s : State) (n : Nat) (f : Die → Die) : (s.modDie n f).parts = s.parts := rfl
@[simp] theorem State.modDie_dieMsgs (s : State) (n : Nat) (f : Die → Die) : (s.modDie n f).dieMsgs = s.dieMsgs := rfl
@[simp] theorem State.modDie_ports (s : State) (n : Nat) (f : Die → Die) : (s.modDie n f).ports = s.ports := rfl
@[simp] theorem State.modDie_inject (s : State) (n : Nat) (f : Die → Die) : (s.modDie n f).inject = s.inject := rfl
@[simp] theorem State.modDie_recv (s : State) (n : Nat) (f : Die → Die) : (s.modDie n f).recv = s.recv := rfl
@[simp] theorem State.modDie_stamped (s : State) (n : Nat) (f : Die → Die) : (s.modDie n f).stamped = s.stamped := rfl
@[simp] theorem State.modDie_marks (s : State) (n : Nat) (f : Die → Die) : (s.modDie n f).marks = s.marks := rfl
@[simp] theorem State.modDie_farWait (s : State) (n : Nat) (f : Die → Die) : (s.modDie n f).farWait = s.farWait := rfl
@[simp] theorem State.modDie_intervals (s : State) (n : Nat) (f : Die → Die) : (s.modDie n f).intervals = s.intervals := rfl
@[simp] theorem State.modDie_gstvNext (s : State) (n : Nat) (f : Die → Die) : (s.modDie n f).gstvNext = s.gstvNext := rfl
@[simp] theorem State.modDie_gstvWait (s : State) (n : Nat) (f : Die → Die) : (s.modDie n f).gstvWait = s.gstvWait := rfl
@[simp] theorem State.modDie_haloParts (s : State) (n : Nat) (f : Die → Die) : (s.modDie n f).haloParts = s.haloParts := rfl
@[simp] theorem State.modDie_devidx (s : State) (n : Nat) (f : Die → Die) : (s.modDie n f).devidx = s.devidx := rfl
@[simp] theorem State.modDie_pftmo (s : State) (n : Nat) (f : Die → Die) : (s.modDie n f).pftmo = s.pftmo := rfl
@[simp] theorem State.modDie_arrays (s : State) (n : Nat) (f : Die → Die) : (s.modDie n f).arrays = s.arrays := rfl
@[simp] theorem State.modDie_engines (s : State) (n : Nat) (f : Die → Die) : (s.modDie n f).engines = s.engines := rfl
@[simp] theorem State.modDie_hostReqs (s : State) (n : Nat) (f : Die → Die) : (s.modDie n f).hostReqs = s.hostReqs := rfl
@[simp] theorem State.modDie_hostReply (s : State) (n : Nat) (f : Die → Die) : (s.modDie n f).hostReply = s.hostReply := rfl
@[simp] theorem State.modDie_faultMsgs (s : State) (n : Nat) (f : Die → Die) : (s.modDie n f).faultMsgs = s.faultMsgs := rfl
@[simp] theorem State.modDie_ageq (s : State) (n : Nat) (f : Die → Die) : (s.modDie n f).ageq = s.ageq := rfl
@[simp] theorem State.modDie_keystone (s : State) (n : Nat) (f : Die → Die) : (s.modDie n f).keystone = s.keystone := rfl
@[simp] theorem State.modDie_ckpts (s : State) (n : Nat) (f : Die → Die) : (s.modDie n f).ckpts = s.ckpts := rfl
@[simp] theorem State.modDie_observe (s : State) (n : Nat) (f : Die → Die) : (s.modDie n f).observe = s.observe := rfl
@[simp] theorem State.modDie_idle (s : State) (n : Nat) (f : Die → Die) : (s.modDie n f).idle = s.idle := rfl
@[simp] theorem State.modDie_idleExit (s : State) (n : Nat) (f : Die → Die) : (s.modDie n f).idleExit = s.idleExit := rfl
@[simp] theorem State.modDie_hostWaits (s : State) (n : Nat) (f : Die → Die) : (s.modDie n f).hostWaits = s.hostWaits := rfl

@[simp] theorem State.modPort_agenda (s : State) (n : Nat) (f : Port → Port) : (s.modPort n f).agenda = s.agenda := rfl
@[simp] theorem State.modPort_turn (s : State) (n : Nat) (f : Port → Port) : (s.modPort n f).turn = s.turn := rfl
@[simp] theorem State.modPort_freeCount (s : State) (n : Nat) (f : Port → Port) : (s.modPort n f).freeCount = s.freeCount := rfl
@[simp] theorem State.modPort_fresh (s : State) (n : Nat) (f : Port → Port) : (s.modPort n f).fresh = s.fresh := rfl
@[simp] theorem State.modPort_cyc (s : State) (n : Nat) (f : Port → Port) : (s.modPort n f).cyc = s.cyc := rfl
@[simp] theorem State.modPort_time (s : State) (n : Nat) (f : Port → Port) : (s.modPort n f).time = s.time := rfl
@[simp] theorem State.modPort_slew (s : State) (n : Nat) (f : Port → Port) : (s.modPort n f).slew = s.slew := rfl
@[simp] theorem State.modPort_mem (s : State) (n : Nat) (f : Port → Port) : (s.modPort n f).mem = s.mem := rfl
@[simp] theorem State.modPort_poisoned (s : State) (n : Nat) (f : Port → Port) : (s.modPort n f).poisoned = s.poisoned := rfl
@[simp] theorem State.modPort_badLines (s : State) (n : Nat) (f : Port → Port) : (s.modPort n f).badLines = s.badLines := rfl
@[simp] theorem State.modPort_ovf (s : State) (n : Nat) (f : Port → Port) : (s.modPort n f).ovf = s.ovf := rfl
@[simp] theorem State.modPort_sync (s : State) (n : Nat) (f : Port → Port) : (s.modPort n f).sync = s.sync := rfl
@[simp] theorem State.modPort_copies (s : State) (n : Nat) (f : Port → Port) : (s.modPort n f).copies = s.copies := rfl
@[simp] theorem State.modPort_know (s : State) (n : Nat) (f : Port → Port) : (s.modPort n f).know = s.know := rfl
@[simp] theorem State.modPort_wrote (s : State) (n : Nat) (f : Port → Port) : (s.modPort n f).wrote = s.wrote := rfl
@[simp] theorem State.modPort_barKnow (s : State) (n : Nat) (f : Port → Port) : (s.modPort n f).barKnow = s.barKnow := rfl
@[simp] theorem State.modPort_barOps (s : State) (n : Nat) (f : Port → Port) : (s.modPort n f).barOps = s.barOps := rfl
@[simp] theorem State.modPort_cores (s : State) (n : Nat) (f : Port → Port) : (s.modPort n f).cores = s.cores := rfl
@[simp] theorem State.modPort_clusters (s : State) (n : Nat) (f : Port → Port) : (s.modPort n f).clusters = s.clusters := rfl
@[simp] theorem State.modPort_procs (s : State) (n : Nat) (f : Port → Port) : (s.modPort n f).procs = s.procs := rfl
@[simp] theorem State.modPort_gens (s : State) (n : Nat) (f : Port → Port) : (s.modPort n f).gens = s.gens := rfl
@[simp] theorem State.modPort_draining (s : State) (n : Nat) (f : Port → Port) : (s.modPort n f).draining = s.draining := rfl
@[simp] theorem State.modPort_images (s : State) (n : Nat) (f : Port → Port) : (s.modPort n f).images = s.images := rfl
@[simp] theorem State.modPort_chans (s : State) (n : Nat) (f : Port → Port) : (s.modPort n f).chans = s.chans := rfl
@[simp] theorem State.modPort_nets (s : State) (n : Nat) (f : Port → Port) : (s.modPort n f).nets = s.nets := rfl
@[simp] theorem State.modPort_netsBlocked (s : State) (n : Nat) (f : Port → Port) : (s.modPort n f).netsBlocked = s.netsBlocked := rfl
@[simp] theorem State.modPort_parts (s : State) (n : Nat) (f : Port → Port) : (s.modPort n f).parts = s.parts := rfl
@[simp] theorem State.modPort_dies (s : State) (n : Nat) (f : Port → Port) : (s.modPort n f).dies = s.dies := rfl
@[simp] theorem State.modPort_dieMsgs (s : State) (n : Nat) (f : Port → Port) : (s.modPort n f).dieMsgs = s.dieMsgs := rfl
@[simp] theorem State.modPort_inject (s : State) (n : Nat) (f : Port → Port) : (s.modPort n f).inject = s.inject := rfl
@[simp] theorem State.modPort_recv (s : State) (n : Nat) (f : Port → Port) : (s.modPort n f).recv = s.recv := rfl
@[simp] theorem State.modPort_stamped (s : State) (n : Nat) (f : Port → Port) : (s.modPort n f).stamped = s.stamped := rfl
@[simp] theorem State.modPort_marks (s : State) (n : Nat) (f : Port → Port) : (s.modPort n f).marks = s.marks := rfl
@[simp] theorem State.modPort_farWait (s : State) (n : Nat) (f : Port → Port) : (s.modPort n f).farWait = s.farWait := rfl
@[simp] theorem State.modPort_intervals (s : State) (n : Nat) (f : Port → Port) : (s.modPort n f).intervals = s.intervals := rfl
@[simp] theorem State.modPort_gstvNext (s : State) (n : Nat) (f : Port → Port) : (s.modPort n f).gstvNext = s.gstvNext := rfl
@[simp] theorem State.modPort_gstvWait (s : State) (n : Nat) (f : Port → Port) : (s.modPort n f).gstvWait = s.gstvWait := rfl
@[simp] theorem State.modPort_haloParts (s : State) (n : Nat) (f : Port → Port) : (s.modPort n f).haloParts = s.haloParts := rfl
@[simp] theorem State.modPort_devidx (s : State) (n : Nat) (f : Port → Port) : (s.modPort n f).devidx = s.devidx := rfl
@[simp] theorem State.modPort_pftmo (s : State) (n : Nat) (f : Port → Port) : (s.modPort n f).pftmo = s.pftmo := rfl
@[simp] theorem State.modPort_arrays (s : State) (n : Nat) (f : Port → Port) : (s.modPort n f).arrays = s.arrays := rfl
@[simp] theorem State.modPort_engines (s : State) (n : Nat) (f : Port → Port) : (s.modPort n f).engines = s.engines := rfl
@[simp] theorem State.modPort_hostReqs (s : State) (n : Nat) (f : Port → Port) : (s.modPort n f).hostReqs = s.hostReqs := rfl
@[simp] theorem State.modPort_hostReply (s : State) (n : Nat) (f : Port → Port) : (s.modPort n f).hostReply = s.hostReply := rfl
@[simp] theorem State.modPort_faultMsgs (s : State) (n : Nat) (f : Port → Port) : (s.modPort n f).faultMsgs = s.faultMsgs := rfl
@[simp] theorem State.modPort_ageq (s : State) (n : Nat) (f : Port → Port) : (s.modPort n f).ageq = s.ageq := rfl
@[simp] theorem State.modPort_keystone (s : State) (n : Nat) (f : Port → Port) : (s.modPort n f).keystone = s.keystone := rfl
@[simp] theorem State.modPort_ckpts (s : State) (n : Nat) (f : Port → Port) : (s.modPort n f).ckpts = s.ckpts := rfl
@[simp] theorem State.modPort_observe (s : State) (n : Nat) (f : Port → Port) : (s.modPort n f).observe = s.observe := rfl
@[simp] theorem State.modPort_idle (s : State) (n : Nat) (f : Port → Port) : (s.modPort n f).idle = s.idle := rfl
@[simp] theorem State.modPort_idleExit (s : State) (n : Nat) (f : Port → Port) : (s.modPort n f).idleExit = s.idleExit := rfl
@[simp] theorem State.modPort_hostWaits (s : State) (n : Nat) (f : Port → Port) : (s.modPort n f).hostWaits = s.hostWaits := rfl

@[simp] theorem State.modLintel_agenda (s : State) (n : Nat) (f : Array12 → Array12) : (s.modLintel n f).agenda = s.agenda := rfl
@[simp] theorem State.modLintel_turn (s : State) (n : Nat) (f : Array12 → Array12) : (s.modLintel n f).turn = s.turn := rfl
@[simp] theorem State.modLintel_freeCount (s : State) (n : Nat) (f : Array12 → Array12) : (s.modLintel n f).freeCount = s.freeCount := rfl
@[simp] theorem State.modLintel_fresh (s : State) (n : Nat) (f : Array12 → Array12) : (s.modLintel n f).fresh = s.fresh := rfl
@[simp] theorem State.modLintel_cyc (s : State) (n : Nat) (f : Array12 → Array12) : (s.modLintel n f).cyc = s.cyc := rfl
@[simp] theorem State.modLintel_time (s : State) (n : Nat) (f : Array12 → Array12) : (s.modLintel n f).time = s.time := rfl
@[simp] theorem State.modLintel_slew (s : State) (n : Nat) (f : Array12 → Array12) : (s.modLintel n f).slew = s.slew := rfl
@[simp] theorem State.modLintel_mem (s : State) (n : Nat) (f : Array12 → Array12) : (s.modLintel n f).mem = s.mem := rfl
@[simp] theorem State.modLintel_poisoned (s : State) (n : Nat) (f : Array12 → Array12) : (s.modLintel n f).poisoned = s.poisoned := rfl
@[simp] theorem State.modLintel_badLines (s : State) (n : Nat) (f : Array12 → Array12) : (s.modLintel n f).badLines = s.badLines := rfl
@[simp] theorem State.modLintel_ovf (s : State) (n : Nat) (f : Array12 → Array12) : (s.modLintel n f).ovf = s.ovf := rfl
@[simp] theorem State.modLintel_sync (s : State) (n : Nat) (f : Array12 → Array12) : (s.modLintel n f).sync = s.sync := rfl
@[simp] theorem State.modLintel_copies (s : State) (n : Nat) (f : Array12 → Array12) : (s.modLintel n f).copies = s.copies := rfl
@[simp] theorem State.modLintel_know (s : State) (n : Nat) (f : Array12 → Array12) : (s.modLintel n f).know = s.know := rfl
@[simp] theorem State.modLintel_wrote (s : State) (n : Nat) (f : Array12 → Array12) : (s.modLintel n f).wrote = s.wrote := rfl
@[simp] theorem State.modLintel_barKnow (s : State) (n : Nat) (f : Array12 → Array12) : (s.modLintel n f).barKnow = s.barKnow := rfl
@[simp] theorem State.modLintel_barOps (s : State) (n : Nat) (f : Array12 → Array12) : (s.modLintel n f).barOps = s.barOps := rfl
@[simp] theorem State.modLintel_cores (s : State) (n : Nat) (f : Array12 → Array12) : (s.modLintel n f).cores = s.cores := rfl
@[simp] theorem State.modLintel_clusters (s : State) (n : Nat) (f : Array12 → Array12) : (s.modLintel n f).clusters = s.clusters := rfl
@[simp] theorem State.modLintel_procs (s : State) (n : Nat) (f : Array12 → Array12) : (s.modLintel n f).procs = s.procs := rfl
@[simp] theorem State.modLintel_gens (s : State) (n : Nat) (f : Array12 → Array12) : (s.modLintel n f).gens = s.gens := rfl
@[simp] theorem State.modLintel_draining (s : State) (n : Nat) (f : Array12 → Array12) : (s.modLintel n f).draining = s.draining := rfl
@[simp] theorem State.modLintel_images (s : State) (n : Nat) (f : Array12 → Array12) : (s.modLintel n f).images = s.images := rfl
@[simp] theorem State.modLintel_chans (s : State) (n : Nat) (f : Array12 → Array12) : (s.modLintel n f).chans = s.chans := rfl
@[simp] theorem State.modLintel_nets (s : State) (n : Nat) (f : Array12 → Array12) : (s.modLintel n f).nets = s.nets := rfl
@[simp] theorem State.modLintel_netsBlocked (s : State) (n : Nat) (f : Array12 → Array12) : (s.modLintel n f).netsBlocked = s.netsBlocked := rfl
@[simp] theorem State.modLintel_parts (s : State) (n : Nat) (f : Array12 → Array12) : (s.modLintel n f).parts = s.parts := rfl
@[simp] theorem State.modLintel_dies (s : State) (n : Nat) (f : Array12 → Array12) : (s.modLintel n f).dies = s.dies := rfl
@[simp] theorem State.modLintel_dieMsgs (s : State) (n : Nat) (f : Array12 → Array12) : (s.modLintel n f).dieMsgs = s.dieMsgs := rfl
@[simp] theorem State.modLintel_ports (s : State) (n : Nat) (f : Array12 → Array12) : (s.modLintel n f).ports = s.ports := rfl
@[simp] theorem State.modLintel_inject (s : State) (n : Nat) (f : Array12 → Array12) : (s.modLintel n f).inject = s.inject := rfl
@[simp] theorem State.modLintel_recv (s : State) (n : Nat) (f : Array12 → Array12) : (s.modLintel n f).recv = s.recv := rfl
@[simp] theorem State.modLintel_stamped (s : State) (n : Nat) (f : Array12 → Array12) : (s.modLintel n f).stamped = s.stamped := rfl
@[simp] theorem State.modLintel_marks (s : State) (n : Nat) (f : Array12 → Array12) : (s.modLintel n f).marks = s.marks := rfl
@[simp] theorem State.modLintel_farWait (s : State) (n : Nat) (f : Array12 → Array12) : (s.modLintel n f).farWait = s.farWait := rfl
@[simp] theorem State.modLintel_intervals (s : State) (n : Nat) (f : Array12 → Array12) : (s.modLintel n f).intervals = s.intervals := rfl
@[simp] theorem State.modLintel_gstvNext (s : State) (n : Nat) (f : Array12 → Array12) : (s.modLintel n f).gstvNext = s.gstvNext := rfl
@[simp] theorem State.modLintel_gstvWait (s : State) (n : Nat) (f : Array12 → Array12) : (s.modLintel n f).gstvWait = s.gstvWait := rfl
@[simp] theorem State.modLintel_haloParts (s : State) (n : Nat) (f : Array12 → Array12) : (s.modLintel n f).haloParts = s.haloParts := rfl
@[simp] theorem State.modLintel_devidx (s : State) (n : Nat) (f : Array12 → Array12) : (s.modLintel n f).devidx = s.devidx := rfl
@[simp] theorem State.modLintel_pftmo (s : State) (n : Nat) (f : Array12 → Array12) : (s.modLintel n f).pftmo = s.pftmo := rfl
@[simp] theorem State.modLintel_engines (s : State) (n : Nat) (f : Array12 → Array12) : (s.modLintel n f).engines = s.engines := rfl
@[simp] theorem State.modLintel_hostReqs (s : State) (n : Nat) (f : Array12 → Array12) : (s.modLintel n f).hostReqs = s.hostReqs := rfl
@[simp] theorem State.modLintel_hostReply (s : State) (n : Nat) (f : Array12 → Array12) : (s.modLintel n f).hostReply = s.hostReply := rfl
@[simp] theorem State.modLintel_faultMsgs (s : State) (n : Nat) (f : Array12 → Array12) : (s.modLintel n f).faultMsgs = s.faultMsgs := rfl
@[simp] theorem State.modLintel_ageq (s : State) (n : Nat) (f : Array12 → Array12) : (s.modLintel n f).ageq = s.ageq := rfl
@[simp] theorem State.modLintel_keystone (s : State) (n : Nat) (f : Array12 → Array12) : (s.modLintel n f).keystone = s.keystone := rfl
@[simp] theorem State.modLintel_ckpts (s : State) (n : Nat) (f : Array12 → Array12) : (s.modLintel n f).ckpts = s.ckpts := rfl
@[simp] theorem State.modLintel_observe (s : State) (n : Nat) (f : Array12 → Array12) : (s.modLintel n f).observe = s.observe := rfl
@[simp] theorem State.modLintel_idle (s : State) (n : Nat) (f : Array12 → Array12) : (s.modLintel n f).idle = s.idle := rfl
@[simp] theorem State.modLintel_idleExit (s : State) (n : Nat) (f : Array12 → Array12) : (s.modLintel n f).idleExit = s.idleExit := rfl
@[simp] theorem State.modLintel_hostWaits (s : State) (n : Nat) (f : Array12 → Array12) : (s.modLintel n f).hostWaits = s.hostWaits := rfl

@[simp] theorem State.modChan_agenda (s : State) (n : Nat) (f : Chan → Chan) : (s.modChan n f).agenda = s.agenda := rfl
@[simp] theorem State.modChan_turn (s : State) (n : Nat) (f : Chan → Chan) : (s.modChan n f).turn = s.turn := rfl
@[simp] theorem State.modChan_freeCount (s : State) (n : Nat) (f : Chan → Chan) : (s.modChan n f).freeCount = s.freeCount := rfl
@[simp] theorem State.modChan_fresh (s : State) (n : Nat) (f : Chan → Chan) : (s.modChan n f).fresh = s.fresh := rfl
@[simp] theorem State.modChan_cyc (s : State) (n : Nat) (f : Chan → Chan) : (s.modChan n f).cyc = s.cyc := rfl
@[simp] theorem State.modChan_time (s : State) (n : Nat) (f : Chan → Chan) : (s.modChan n f).time = s.time := rfl
@[simp] theorem State.modChan_slew (s : State) (n : Nat) (f : Chan → Chan) : (s.modChan n f).slew = s.slew := rfl
@[simp] theorem State.modChan_mem (s : State) (n : Nat) (f : Chan → Chan) : (s.modChan n f).mem = s.mem := rfl
@[simp] theorem State.modChan_poisoned (s : State) (n : Nat) (f : Chan → Chan) : (s.modChan n f).poisoned = s.poisoned := rfl
@[simp] theorem State.modChan_badLines (s : State) (n : Nat) (f : Chan → Chan) : (s.modChan n f).badLines = s.badLines := rfl
@[simp] theorem State.modChan_ovf (s : State) (n : Nat) (f : Chan → Chan) : (s.modChan n f).ovf = s.ovf := rfl
@[simp] theorem State.modChan_sync (s : State) (n : Nat) (f : Chan → Chan) : (s.modChan n f).sync = s.sync := rfl
@[simp] theorem State.modChan_copies (s : State) (n : Nat) (f : Chan → Chan) : (s.modChan n f).copies = s.copies := rfl
@[simp] theorem State.modChan_know (s : State) (n : Nat) (f : Chan → Chan) : (s.modChan n f).know = s.know := rfl
@[simp] theorem State.modChan_wrote (s : State) (n : Nat) (f : Chan → Chan) : (s.modChan n f).wrote = s.wrote := rfl
@[simp] theorem State.modChan_barKnow (s : State) (n : Nat) (f : Chan → Chan) : (s.modChan n f).barKnow = s.barKnow := rfl
@[simp] theorem State.modChan_barOps (s : State) (n : Nat) (f : Chan → Chan) : (s.modChan n f).barOps = s.barOps := rfl
@[simp] theorem State.modChan_cores (s : State) (n : Nat) (f : Chan → Chan) : (s.modChan n f).cores = s.cores := rfl
@[simp] theorem State.modChan_clusters (s : State) (n : Nat) (f : Chan → Chan) : (s.modChan n f).clusters = s.clusters := rfl
@[simp] theorem State.modChan_procs (s : State) (n : Nat) (f : Chan → Chan) : (s.modChan n f).procs = s.procs := rfl
@[simp] theorem State.modChan_gens (s : State) (n : Nat) (f : Chan → Chan) : (s.modChan n f).gens = s.gens := rfl
@[simp] theorem State.modChan_draining (s : State) (n : Nat) (f : Chan → Chan) : (s.modChan n f).draining = s.draining := rfl
@[simp] theorem State.modChan_images (s : State) (n : Nat) (f : Chan → Chan) : (s.modChan n f).images = s.images := rfl
@[simp] theorem State.modChan_nets (s : State) (n : Nat) (f : Chan → Chan) : (s.modChan n f).nets = s.nets := rfl
@[simp] theorem State.modChan_netsBlocked (s : State) (n : Nat) (f : Chan → Chan) : (s.modChan n f).netsBlocked = s.netsBlocked := rfl
@[simp] theorem State.modChan_parts (s : State) (n : Nat) (f : Chan → Chan) : (s.modChan n f).parts = s.parts := rfl
@[simp] theorem State.modChan_dies (s : State) (n : Nat) (f : Chan → Chan) : (s.modChan n f).dies = s.dies := rfl
@[simp] theorem State.modChan_dieMsgs (s : State) (n : Nat) (f : Chan → Chan) : (s.modChan n f).dieMsgs = s.dieMsgs := rfl
@[simp] theorem State.modChan_ports (s : State) (n : Nat) (f : Chan → Chan) : (s.modChan n f).ports = s.ports := rfl
@[simp] theorem State.modChan_inject (s : State) (n : Nat) (f : Chan → Chan) : (s.modChan n f).inject = s.inject := rfl
@[simp] theorem State.modChan_recv (s : State) (n : Nat) (f : Chan → Chan) : (s.modChan n f).recv = s.recv := rfl
@[simp] theorem State.modChan_stamped (s : State) (n : Nat) (f : Chan → Chan) : (s.modChan n f).stamped = s.stamped := rfl
@[simp] theorem State.modChan_marks (s : State) (n : Nat) (f : Chan → Chan) : (s.modChan n f).marks = s.marks := rfl
@[simp] theorem State.modChan_farWait (s : State) (n : Nat) (f : Chan → Chan) : (s.modChan n f).farWait = s.farWait := rfl
@[simp] theorem State.modChan_intervals (s : State) (n : Nat) (f : Chan → Chan) : (s.modChan n f).intervals = s.intervals := rfl
@[simp] theorem State.modChan_gstvNext (s : State) (n : Nat) (f : Chan → Chan) : (s.modChan n f).gstvNext = s.gstvNext := rfl
@[simp] theorem State.modChan_gstvWait (s : State) (n : Nat) (f : Chan → Chan) : (s.modChan n f).gstvWait = s.gstvWait := rfl
@[simp] theorem State.modChan_haloParts (s : State) (n : Nat) (f : Chan → Chan) : (s.modChan n f).haloParts = s.haloParts := rfl
@[simp] theorem State.modChan_devidx (s : State) (n : Nat) (f : Chan → Chan) : (s.modChan n f).devidx = s.devidx := rfl
@[simp] theorem State.modChan_pftmo (s : State) (n : Nat) (f : Chan → Chan) : (s.modChan n f).pftmo = s.pftmo := rfl
@[simp] theorem State.modChan_arrays (s : State) (n : Nat) (f : Chan → Chan) : (s.modChan n f).arrays = s.arrays := rfl
@[simp] theorem State.modChan_engines (s : State) (n : Nat) (f : Chan → Chan) : (s.modChan n f).engines = s.engines := rfl
@[simp] theorem State.modChan_hostReqs (s : State) (n : Nat) (f : Chan → Chan) : (s.modChan n f).hostReqs = s.hostReqs := rfl
@[simp] theorem State.modChan_hostReply (s : State) (n : Nat) (f : Chan → Chan) : (s.modChan n f).hostReply = s.hostReply := rfl
@[simp] theorem State.modChan_faultMsgs (s : State) (n : Nat) (f : Chan → Chan) : (s.modChan n f).faultMsgs = s.faultMsgs := rfl
@[simp] theorem State.modChan_ageq (s : State) (n : Nat) (f : Chan → Chan) : (s.modChan n f).ageq = s.ageq := rfl
@[simp] theorem State.modChan_keystone (s : State) (n : Nat) (f : Chan → Chan) : (s.modChan n f).keystone = s.keystone := rfl
@[simp] theorem State.modChan_ckpts (s : State) (n : Nat) (f : Chan → Chan) : (s.modChan n f).ckpts = s.ckpts := rfl
@[simp] theorem State.modChan_observe (s : State) (n : Nat) (f : Chan → Chan) : (s.modChan n f).observe = s.observe := rfl
@[simp] theorem State.modChan_idle (s : State) (n : Nat) (f : Chan → Chan) : (s.modChan n f).idle = s.idle := rfl
@[simp] theorem State.modChan_idleExit (s : State) (n : Nat) (f : Chan → Chan) : (s.modChan n f).idleExit = s.idleExit := rfl
@[simp] theorem State.modChan_hostWaits (s : State) (n : Nat) (f : Chan → Chan) : (s.modChan n f).hostWaits = s.hostWaits := rfl

/-! ## What an update sets -/

@[simp] theorem State.core_setCore_same (s : State) (n : Nat) (c : Core) : (s.setCore n c).core n = c := by
  simp [State.core, State.setCore]

theorem State.core_setCore_other (s : State) (n m : Nat) (c : Core) (h : m ≠ n) : (s.setCore n c).core m = s.core m := by
  simp [State.core, State.setCore, find_put_other _ _ _ _ _ h]

@[simp] theorem State.ctx_setCtx_same (s : State) (n k : Nat) (x : Ctx) : (s.setCtx n k x).ctx n k = x := by
  simp [State.ctx, State.setCtx, State.modCore, Core.ctx]

theorem State.ctx_setCtx_other (s : State) (n k m j : Nat) (x : Ctx) (h : m ≠ n ∨ j ≠ k) :
    (s.setCtx n k x).ctx m j = s.ctx m j := by
  by_cases hm : m = n
  · subst hm
    have hj : j ≠ k := by simpa using h
    simp [State.ctx, State.setCtx, State.modCore, Core.ctx, find_put_other _ _ _ _ _ hj]
  · simp [State.ctx, State.setCtx, State.modCore, State.core_setCore_other _ _ _ _ hm]

@[simp] theorem State.ctx_modCtx_same (s : State) (n k : Nat) (f : Ctx → Ctx) : (s.modCtx n k f).ctx n k = f (s.ctx n k) := by
  simp [State.modCtx]

theorem State.ctx_modCtx_other (s : State) (n k m j : Nat) (f : Ctx → Ctx) (h : m ≠ n ∨ j ≠ k) :
    (s.modCtx n k f).ctx m j = s.ctx m j := State.ctx_setCtx_other s n k m j _ h

@[simp] theorem State.actor_modActor (s : State) (f : Ctx → Ctx) : (s.modActor f).actor = f s.actor := by
  simp [State.actor, State.modActor]

theorem State.ctx_modActor_other (s : State) (m j : Nat) (f : Ctx → Ctx) (h : m ≠ s.turn.core ∨ j ≠ s.turn.ctx) :
    (s.modActor f).ctx m j = s.ctx m j := State.ctx_modCtx_other s _ _ m j f h

@[simp] theorem State.cluster_modCluster_same (s : State) (n : Nat) (f : Cluster → Cluster) :
    (s.modCluster n f).cluster n = f (s.cluster n) := by simp [State.cluster, State.modCluster]

@[simp] theorem State.proc_modProc_same (s : State) (n : Nat) (f : Proc → Proc) : (s.modProc n f).proc n = f (s.proc n) := by
  simp [State.proc, State.modProc]

theorem State.proc_modProc_other (s : State) (n m : Nat) (f : Proc → Proc) (h : m ≠ n) : (s.modProc n f).proc m = s.proc m := by
  simp [State.proc, State.modProc, find_put_other _ _ _ _ _ h]

@[simp] theorem State.part_modPart_same (s : State) (n : Nat) (f : Partition → Partition) :
    (s.modPart n f).part n = f (s.part n) := by simp [State.part, State.modPart]

@[simp] theorem State.die_modDie_same (s : State) (n : Nat) (f : Die → Die) : (s.modDie n f).die n = f (s.die n) := by
  simp [State.die, State.modDie]

@[simp] theorem State.port_modPort_same (s : State) (n : Nat) (f : Port → Port) : (s.modPort n f).port n = f (s.port n) := by
  simp [State.port, State.modPort]

@[simp] theorem State.lintel_modLintel_same (s : State) (n : Nat) (f : Array12 → Array12) :
    (s.modLintel n f).lintel n = f (s.lintel n) := by simp [State.lintel, State.modLintel]

@[simp] theorem State.chan_modChan_same (s : State) (n : Nat) (f : Chan → Chan) : (s.modChan n f).chan n = f (s.chan n) := by
  simp [State.chan, State.modChan]

end Sys2Proof.Machine
end

