-- ==== Sys2Proof/Laws/Half.lean ====
section
/-!
SUPPORT. Laws of the two halves: what a body that retires, faults or waits comes to; what reading and writing an ordinary
register does; successive changes of the acting context.
-/

namespace Sys2Proof.Machine

/-! ## The acting context -/

@[simp] theorem State.modActor_modActor (s : State) (f g : Ctx → Ctx) : (s.modActor f).modActor g = s.modActor (g ∘ f) := by
  simp [State.modActor, State.modCtx, State.setCtx, State.modCore, State.setCore, State.core, State.ctx, Core.ctx]

@[simp] theorem State.activity_modActor (s : State) (f : Ctx → Ctx) (h : (f s.actor).act = s.actor.act) :
    (s.modActor f).activity = s.activity := by simp [State.activity, h]

/-! ## Hints -/

@[simp] theorem groupFault_nil (i : Instr) : groupFault i [] = none := by
  simp [groupFault, hintsOf, hintsAllowed]

@[simp] theorem hintsOf_nil : hintsOf [] = {} := rfl

/-! ## The A half -/

theorem ReadyA.issues {s : State} (h : ReadyA s) : s.actor.issues = true := by simp [Ctx.issues, h.running, h.calm]

/-- A body that comes to an end, in a half that can issue. -/
theorem aHalf_done {i : Instr} {body : Hints → M Disp} {s t : State} {d : Disp} (h : ReadyA s) (hb : body {} s = .ok (d, t)) :
    aHalf i body s = .next (t.finishA d) := by
  simp [aHalf, h.issues, Upset.error, h.clear, h.plain, h.drained, hb]

/-- A body that faults, in a half that can issue. -/
theorem aHalf_fault {i : Instr} {body : Hints → M Disp} {s : State} {code : FaultCode} {x e : Word} (h : ReadyA s)
    (hb : body {} s = .error (.fault code x e)) : aHalf i body s = .next (s.raiseA s.turn.core s.turn.ctx code x e) := by
  simp [aHalf, h.issues, Upset.error, h.clear, h.plain, h.drained, hb]

/-- A body that waits, in a half that can issue. -/
theorem aHalf_wait {i : Instr} {body : Hints → M Disp} {s : State} {why : Stall} {q : Option QWait} (h : ReadyA s)
    (hb : body {} s = .error (.wait why q)) : aHalf i body s = .next (s.stall s.turn.core s.turn.ctx .A why q) := by
  simp [aHalf, h.issues, Upset.error, h.clear, h.plain, h.drained, hb]

/-- A half that does not issue leaves the state as it is. -/
theorem aHalf_idle {i : Instr} {body : Hints → M Disp} {s : State} (h : s.actor.issues = false) : aHalf i body s = .next s := by
  simp [aHalf, h]

/-- An instruction of the A half always answers a next state. -/
theorem aHalf_answers (i : Instr) (body : Hints → M Disp) (s : State) : ∃ t, aHalf i body s = .next t := by
  unfold aHalf
  dsimp only
  repeat' split
  all_goals exact ⟨_, rfl⟩

/-! ## The E half -/

/-- An instruction of the E half always answers a next state. -/
theorem eHalf_answers (i : Instr) (body : Hints → M Disp) (s : State) : ∃ t, eHalf i body s = .next t := by
  unfold eHalf
  dsimp only
  repeat' split
  all_goals exact ⟨_, rfl⟩

/-- No other context of the core has E words to run. -/
theorem ReadyE.others {s : State} (h : ReadyE s) :
    ((rangeFrom 0 4).all fun j => j == s.turn.ctx || !(s.ctx s.turn.core j).readyE) = true := by
  rw [List.all_eq_true]
  intro j hj
  have hj4 : j < 4 := by simp [rangeFrom] at hj; omega
  by_cases e : j = s.turn.ctx
  · simp [e]
  · simp [h.alone j hj4 e]

/-- An E half that can issue is free for every instruction but a special function. -/
theorem ReadyE.eFree {i : Instr} {s : State} (h : ReadyE s) (hi : isSfu i = false) :
    s.eFree s.turn.core s.turn.ctx i = true := by
  have hu : ((s.core s.turn.core).usedE != some s.cyc) = true := by simpa using h.unused
  simp [State.eFree, hu, h.others, hi]

/-- For a special function it is free where the cluster's unit is. -/
theorem ReadyE.eFree_sfu {i : Instr} {s : State} (h : ReadyE s) (g : SfuFree s) :
    s.eFree s.turn.core s.turn.ctx i = true := by
  by_cases hi : isSfu i = true
  · have hu : ((s.core s.turn.core).usedE != some s.cyc) = true := by simpa using h.unused
    have hs : ((rangeFrom (s.turn.core / 8 * 8) 8).all fun m => m == s.turn.core
        || (rangeFrom 0 4).all fun j => decide ((s.ctx m j).status ≠ .running)) = true := by
      rw [List.all_eq_true]
      intro m hm
      by_cases e : m = s.turn.core
      · simp [e]
      · rw [Bool.or_eq_true]
        right
        rw [List.all_eq_true]
        intro j hj
        have hj4 : j < 4 := by simp [rangeFrom] at hj; omega
        have hm8 : m / 8 = s.turn.core / 8 := by simp [rangeFrom] at hm; omega
        simpa using g.alone m j hm8 e hj4
    unfold State.eFree
    rw [hu, h.others]
    simpa [hi] using hs
  · exact h.eFree (by simpa using hi)

/-- A word routed to an empty queue runs at once, where the E half is free. -/
theorem eHalf_routed {i : Instr} {body : Hints → M Disp} {s : State} (h : ReadyE s)
    (hf : s.eFree s.turn.core s.turn.ctx i = true) :
    eHalf i body s = .next ((runE i body (s.routeE i)).noteIssued s.turn.core s.turn.ctx .E false) := by
  simp [eHalf, h.half, h.ready.issues, h.outside, h.ready.drained, h.ready.plain, hf]

/-- Binding in the monad of meanings. -/
theorem M.bind_ok {α β : Type} {m : M α} {f : α → M β} {s t : State} {x : α} (h : m s = .ok (x, t)) : (m >>= f) s = f x t := by
  show StateT.bind m f s = f x t
  unfold StateT.bind
  rw [h]
  rfl

theorem M.bind_error {α β : Type} {m : M α} {f : α → M β} {s : State} {e : Stop} (h : m s = .error e) :
    (m >>= f) s = .error e := by
  show StateT.bind m f s = .error e
  unfold StateT.bind
  rw [h]
  rfl

@[simp] theorem me_run (s : State) : me s = .ok (s.actor, s) := rfl
@[simp] theorem gets_run {α : Type} (f : State → α) (s : State) : gets f s = .ok (f s, s) := rfl
@[simp] theorem mods_run (f : State → State) (s : State) : mods f s = .ok ((), f s) := rfl
@[simp] theorem modMe_run (f : Ctx → Ctx) (s : State) : modMe f s = .ok ((), s.modActor f) := rfl
@[simp] theorem pure_run {α : Type} (x : α) (s : State) : (pure x : M α) s = .ok (x, s) := rfl

/-! ## The acting context changed, and nothing else -/

/-- `t` is `s` with its acting context left as `c`. -/
def SetTo (s t : State) (c : Ctx) : Prop := (t = s ∧ c = s.actor) ∨ t = s.withActor c

theorem SetTo.refl (s : State) : SetTo s s s.actor := .inl ⟨rfl, rfl⟩

@[simp] theorem State.actor_withActor (s : State) (c : Ctx) : (s.withActor c).actor = c := by
  simp [State.actor, State.withActor]

@[simp] theorem State.turn_withActor (s : State) (c : Ctx) : (s.withActor c).turn = s.turn := rfl

@[simp] theorem State.withActor_withActor (s : State) (c d : Ctx) : (s.withActor c).withActor d = s.withActor d := by
  simp [State.withActor, State.setCtx, State.modCore, State.setCore, State.core]

theorem State.modActor_eq (s : State) (f : Ctx → Ctx) : s.modActor f = s.withActor (f s.actor) := rfl

theorem SetTo.actor {s t : State} {c : Ctx} (h : SetTo s t c) : t.actor = c := by
  rcases h with ⟨rfl, rfl⟩ | rfl
  · rfl
  · simp

theorem SetTo.turn {s t : State} {c : Ctx} (h : SetTo s t c) : t.turn = s.turn := by
  rcases h with ⟨rfl, -⟩ | rfl <;> rfl

theorem SetTo.modActor {s t : State} {c : Ctx} (h : SetTo s t c) (f : Ctx → Ctx) : SetTo s (t.modActor f) (f c) := by
  right
  rw [State.modActor_eq, h.actor]
  rcases h with ⟨rfl, -⟩ | rfl
  · rfl
  · simp

theorem SetTo.retire {s t : State} {c : Ctx} (h : SetTo s t c) (ha : c.act = s.actor.act) (pc : Nat) :
    t.retireA pc = s.ends c (BitVec.ofNat 52 pc) := by
  have h2 := h.modActor fun c => { c with hints := [], pc := BitVec.ofNat 52 pc, stallA := .none, waitA := none }
  have hc : (t.modActor fun c => { c with hints := [], pc := BitVec.ofNat 52 pc, stallA := .none, waitA := none }).activity
      = s.activity := by
    unfold State.activity; rw [h2.actor]; simp [ha]
  simp only [State.retireA, State.ends]
  rw [hc, State.modActor_eq, h.actor]
  rcases h with ⟨rfl, -⟩ | rfl
  · rfl
  · simp

theorem SetTo.finish {s t : State} {c : Ctx} (h : SetTo s t c) (ha : c.act = s.actor.act) (hp : c.pc = s.actor.pc) :
    t.finishA .retire = s.ends4 c := by
  simp only [State.finishA, State.ends4]
  rw [h.retire ha, h.actor, hp]
  congr 1

/-! ## Registers -/

theorem readA_source {s t : State} {c c' : Ctx} {r : BitVec 5} {x : Word} (h : SetTo s t c) (hs : c.source r = some (x, c')) :
    ∃ u, readA r t = .ok (x, u) ∧ SetTo s u c' := by
  have ht := h.actor
  by_cases h0 : r = 0#5
  · subst h0
    simp [Ctx.source, regOf] at hs
    obtain ⟨rfl, rfl⟩ := hs
    exact ⟨t, rfl, h⟩
  · by_cases h1 : r = 30#5
    · subst h1
      unfold Ctx.source at hs
      cases hq : c.q3 with
      | nil => simp [hq] at hs
      | cons y q =>
        simp [hq] at hs
        obtain ⟨rfl, rfl⟩ := hs
        refine ⟨t.modActor fun c => { c with q3 := q }, ?_, h.modActor _⟩
        unfold readA
        rw [if_neg h0, if_pos rfl, M.bind_ok (me_run t), ht, hq]
        rfl
    · by_cases h2 : r = 31#5
      · subst h2; simp [Ctx.source] at hs
      · simp [Ctx.source, h1, h2] at hs
        obtain ⟨rfl, rfl⟩ := hs
        refine ⟨t, ?_, h⟩
        unfold readA
        rw [if_neg h0, if_neg h1, if_neg h2, M.bind_ok (me_run t), ht]
        simp [regOf, h0]

theorem writeA_dest {s t : State} {c c' : Ctx} {r : BitVec 5} {v : Word} (h : SetTo s t c) (hd : c.dest r v = some c') :
    ∃ u, writeA r v t = .ok ((), u) ∧ SetTo s u c' := by
  have ht := h.actor
  unfold Ctx.dest at hd
  unfold writeA
  split_ifs at hd ⊢ with h1 h2 h3 h4
  · cases hd; exact ⟨t, rfl, h⟩
  · cases hd
    unfold pushQ2
    rw [M.bind_ok (me_run t), ht, if_pos h3]
    exact ⟨_, rfl, h.modActor _⟩
  · cases hd
    exact ⟨_, rfl, h.modActor _⟩

theorem Ctx.source_keeps {c c' : Ctx} {r : BitVec 5} {x : Word} (h : c.source r = some (x, c')) : ∃ q, c' = { c with q3 := q } := by
  unfold Ctx.source at h
  split_ifs at h with h1 h2
  · cases hq : c.q3 with
    | nil => simp [hq] at h
    | cons y q => simp [hq] at h; exact ⟨q, h.2.symm⟩
  · simp only [Option.some.injEq, Prod.mk.injEq] at h; exact ⟨c.q3, h.2.symm⟩

theorem Ctx.dest_keeps {c c' : Ctx} {r : BitVec 5} {v : Word} (h : c.dest r v = some c') : ∃ q a, c' = { c with q2 := q, a := a } := by
  unfold Ctx.dest at h
  split_ifs at h <;> cases h
  · exact ⟨c.q2, c.a, rfl⟩
  · exact ⟨_, c.a, rfl⟩
  · exact ⟨c.q2, _, rfl⟩

theorem alu3_ends {s : State} {d a b : BitVec 5} (f : Word → Word → Word) {x y : Word} {c c' : Ctx}
    (hs : s.actor.sources a b = some (x, y, c)) (hd : c.dest d (f x y) = some c') :
    ∃ u, alu3 d a b f s = .ok (.retire, u) ∧ u.finishA .retire = s.ends4 c' := by
  unfold Ctx.sources at hs
  revert hs
  cases h1 : s.actor.source a with
  | none => intro hs; cases hs
  | some p =>
    obtain ⟨x', c1⟩ := p
    cases h2 : c1.source b with
    | none => intro hs; simp [h2] at hs
    | some q =>
      obtain ⟨y', c2⟩ := q
      intro hs
      simp only [h2, Option.some.injEq, Prod.mk.injEq] at hs
      obtain ⟨rfl, rfl, rfl⟩ := hs
      obtain ⟨u1, e1, k1⟩ := readA_source (SetTo.refl s) h1
      obtain ⟨u2, e2, k2⟩ := readA_source k1 h2
      obtain ⟨u3, e3, k3⟩ := writeA_dest k2 hd
      refine ⟨u3, ?_, ?_⟩
      · unfold alu3
        rw [M.bind_ok e1, M.bind_ok e2, M.bind_ok e3]
        rfl
      · obtain ⟨q1, rfl⟩ := Ctx.source_keeps h1
        obtain ⟨q2, rfl⟩ := Ctx.source_keeps h2
        obtain ⟨q3, a3, rfl⟩ := Ctx.dest_keeps hd
        exact k3.finish rfl rfl

end Sys2Proof.Machine
end

