-- ==== Sys2Proof/Laws/Memory.lean ====
section
/-!
SUPPORT. Laws of byte memory: the canonical form is kept, a read after a write of the same address gives the value, a
write leaves every other address alone.
-/

namespace Sys2Proof.Machine

theorem above_mono {m : Memory} {lo lo' : Nat} (h : lo' ≤ lo) (w : Memory.above lo m = true) : Memory.above lo' m = true := by
  cases m with
  | nil => rfl
  | cons e m =>
    simp only [Memory.above, Bool.and_eq_true, decide_eq_true_eq] at w ⊢
    exact ⟨⟨le_trans h w.1.1, w.1.2⟩, w.2⟩

/-- A byte written at or above the lower bound keeps the form. -/
theorem above_writeByte {m : Memory} {lo : Nat} (a : Nat) (v : Byte) (ha : lo ≤ a) (w : Memory.above lo m = true) :
    Memory.above lo (writeByte m a v) = true := by
  induction m generalizing lo with
  | nil =>
    simp only [writeByte]
    split_ifs with h
    · rfl
    · simp [Memory.above, ha, h]
  | cons e m ih =>
    obtain ⟨b, x⟩ := e
    simp only [Memory.above, Bool.and_eq_true, decide_eq_true_eq] at w
    obtain ⟨⟨w1, w2⟩, w3⟩ := w
    simp only [writeByte]
    split_ifs with h1 h2 h3 h4
    · simp [Memory.above, w1, w2, w3]
    · simp only [Memory.above, Bool.and_eq_true, decide_eq_true_eq]
      exact ⟨⟨ha, h2⟩, ⟨⟨by omega, w2⟩, w3⟩⟩
    · exact above_mono (by omega) w3
    · subst h3
      simp only [Memory.above, Bool.and_eq_true, decide_eq_true_eq]
      exact ⟨⟨ha, h4⟩, w3⟩
    · simp only [Memory.above, Bool.and_eq_true, decide_eq_true_eq]
      exact ⟨⟨w1, w2⟩, ih (by omega) w3⟩

theorem wf_writeByte {m : Memory} (a : Nat) (v : Byte) (w : m.wf = true) : (writeByte m a v).wf = true :=
  above_writeByte a v (Nat.zero_le _) w

theorem wf_writeBytes {m : Memory} (a : Nat) (bs : List Byte) (w : m.wf = true) : (writeBytes m a bs).wf = true := by
  induction bs generalizing m a with
  | nil => exact w
  | cons b bs ih => exact ih (a + 1) (wf_writeByte a b w)

theorem wf_writeNat {m : Memory} (a n x : Nat) (w : m.wf = true) : (writeNat m a n x).wf = true := wf_writeBytes a _ w

/-- Below the lower bound nothing is listed. -/
theorem readByte_below {m : Memory} {lo a : Nat} (h : a < lo) (w : Memory.above lo m = true) : readByte m a = unlisted := by
  cases m with
  | nil => rfl
  | cons e m =>
    obtain ⟨b, x⟩ := e
    simp only [Memory.above, Bool.and_eq_true, decide_eq_true_eq] at w
    simp only [readByte]
    rw [if_neg (by omega), if_pos (by omega)]

theorem readByte_writeByte_above {m : Memory} {lo : Nat} (a c : Nat) (v : Byte) (w : Memory.above lo m = true) :
    readByte (writeByte m a v) c = if c = a then v else readByte m c := by
  induction m generalizing lo with
  | nil =>
    simp only [writeByte]
    by_cases h : v = unlisted
    · subst h; simp [readByte]
    · simp only [h, if_false, readByte]; split_ifs <;> rfl
  | cons e m ih =>
    obtain ⟨b, x⟩ := e
    simp only [Memory.above, Bool.and_eq_true, decide_eq_true_eq] at w
    obtain ⟨⟨w1, w2⟩, w3⟩ := w
    simp only [writeByte]
    by_cases h1 : a < b
    · simp only [h1, if_true]
      by_cases h2 : v = unlisted
      · subst h2
        simp only [if_true, readByte]
        split_ifs <;> first | rfl | omega
      · simp only [h2, if_false, readByte]
        split_ifs <;> first | rfl | omega
    · by_cases h3 : a = b
      · subst h3
        simp only [h1, if_false, if_true]
        by_cases h4 : v = unlisted
        · subst h4
          simp only [if_true, readByte]
          split_ifs with h5 h6
          · subst h5; exact readByte_below (by omega) w3
          · exact readByte_below (by omega) w3
          · rfl
        · simp only [h4, if_false, readByte]
          split_ifs <;> rfl
      · simp only [h1, h3, if_false, readByte]
        by_cases h5 : c = b
        · subst h5
          simp only [if_true]
          rw [if_neg (by omega)]
        · simp only [h5, if_false]
          by_cases h6 : c < b
          · simp only [h6, if_true]
            rw [if_neg (by omega)]
          · simp only [h6, if_false]
            exact ih w3

/-- A read after a write: the value at the written address, every other address as before. -/
theorem readByte_writeByte {m : Memory} (a c : Nat) (v : Byte) (w : m.wf = true) :
    readByte (writeByte m a v) c = if c = a then v else readByte m c := readByte_writeByte_above a c v w

/-- A write of bytes leaves every address outside them alone. -/
theorem readByte_writeBytes_other {m : Memory} (a c : Nat) (bs : List Byte) (w : m.wf = true) (h : c < a ∨ a + bs.length ≤ c) :
    readByte (writeBytes m a bs) c = readByte m c := by
  induction bs generalizing m a with
  | nil => rfl
  | cons b bs ih =>
    simp only [writeBytes, List.length_cons] at h ⊢
    rw [ih (a + 1) (wf_writeByte a b w) (by omega), readByte_writeByte a c b w, if_neg (by omega)]

/-- The bytes written are read back. -/
theorem readBytes_writeBytes {m : Memory} (a : Nat) (bs : List Byte) (w : m.wf = true) :
    readBytes (writeBytes m a bs) a bs.length = bs := by
  induction bs generalizing m a with
  | nil => rfl
  | cons b bs ih =>
    simp only [writeBytes, List.length_cons, readBytes]
    rw [readByte_writeBytes_other (a + 1) a bs (wf_writeByte a b w) (by omega), readByte_writeByte a a b w, if_pos rfl,
      ih (a + 1) (wf_writeByte a b w)]

end Sys2Proof.Machine
end

