-- ==== Sys2Proof/Laws/Scalar.lean ====
section
/-!
SUPPORT. Laws of the shared shapes of the A half's arithmetic: each retires with its result in the destination field.
-/

namespace Sys2Proof.Machine

theorem Ctx.sources_cases {c c' : Ctx} {a b : BitVec 5} {x y : Word} (h : c.sources a b = some (x, y, c')) :
    ∃ c1, c.source a = some (x, c1) ∧ c1.source b = some (y, c') := by
  unfold Ctx.sources at h
  cases h1 : c.source a with
  | none => simp [h1] at h
  | some p =>
    obtain ⟨x', c1⟩ := p
    cases h2 : c1.source b with
    | none => simp [h1, h2] at h
    | some q =>
      obtain ⟨y', c2⟩ := q
      simp [h1, h2] at h
      obtain ⟨rfl, rfl, rfl⟩ := h
      exact ⟨c1, rfl, h2⟩

/-- A destination keeps the activation and the program counter. -/
theorem Ctx.dest_act {c c' : Ctx} {r : BitVec 5} {v : Word} (h : c.dest r v = some c') : c'.act = c.act ∧ c'.pc = c.pc := by
  obtain ⟨q, a, rfl⟩ := Ctx.dest_keeps h; exact ⟨rfl, rfl⟩

/-- A source keeps the activation and the program counter. -/
theorem Ctx.source_act {c c' : Ctx} {r : BitVec 5} {x : Word} (h : c.source r = some (x, c')) : c'.act = c.act ∧ c'.pc = c.pc := by
  obtain ⟨q, rfl⟩ := Ctx.source_keeps h; exact ⟨rfl, rfl⟩

theorem alu2_ends {s : State} {d a : BitVec 5} (f : Word → Word) {x : Word} {c c' : Ctx}
    (hs : s.actor.source a = some (x, c)) (hd : c.dest d (f x) = some c') :
    ∃ u, alu2 d a f s = .ok (.retire, u) ∧ u.finishA .retire = s.ends4 c' := by
  obtain ⟨u1, e1, k1⟩ := readA_source (SetTo.refl s) hs
  obtain ⟨u2, e2, k2⟩ := writeA_dest k1 hd
  refine ⟨u2, ?_, ?_⟩
  · unfold alu2; rw [M.bind_ok e1, M.bind_ok e2]; rfl
  · exact k2.finish ((Ctx.dest_act hd).1.trans (Ctx.source_act hs).1) ((Ctx.dest_act hd).2.trans (Ctx.source_act hs).2)

theorem alu2f_ends {s : State} {d a : BitVec 5} (f : Word → Word × BitVec 6) {x : Word} {c c' : Ctx}
    (hs : s.actor.source a = some (x, c)) (hd : c.dest d (f x).1 = some c') :
    ∃ u, alu2f d a f s = .ok (.retire, u) ∧ u.finishA .retire = s.ends4 { c' with flags := c'.flags ||| (f x).2 } := by
  obtain ⟨u1, e1, k1⟩ := readA_source (SetTo.refl s) hs
  obtain ⟨u2, e2, k2⟩ := writeA_dest k1 hd
  refine ⟨u2.modActor fun c => { c with flags := c.flags ||| (f x).2 }, ?_, (k2.modActor _).finish
    ((Ctx.dest_act hd).1.trans (Ctx.source_act hs).1) ((Ctx.dest_act hd).2.trans (Ctx.source_act hs).2)⟩
  unfold alu2f; rw [M.bind_ok e1, M.bind_ok e2]; rfl

theorem alu3f_ends {s : State} {d a b : BitVec 5} (f : Word → Word → Word × BitVec 6) {x y : Word} {c c' : Ctx}
    (hs : s.actor.sources a b = some (x, y, c)) (hd : c.dest d (f x y).1 = some c') :
    ∃ u, alu3f d a b f s = .ok (.retire, u) ∧ u.finishA .retire = s.ends4 { c' with flags := c'.flags ||| (f x y).2 } := by
  obtain ⟨c1, h1, h2⟩ := Ctx.sources_cases hs
  obtain ⟨u1, e1, k1⟩ := readA_source (SetTo.refl s) h1
  obtain ⟨u2, e2, k2⟩ := readA_source k1 h2
  obtain ⟨u3, e3, k3⟩ := writeA_dest k2 hd
  refine ⟨u3.modActor fun c => { c with flags := c.flags ||| (f x y).2 }, ?_, (k3.modActor _).finish
    ((Ctx.dest_act hd).1.trans ((Ctx.source_act h2).1.trans (Ctx.source_act h1).1))
    ((Ctx.dest_act hd).2.trans ((Ctx.source_act h2).2.trans (Ctx.source_act h1).2))⟩
  unfold alu3f; rw [M.bind_ok e1, M.bind_ok e2, M.bind_ok e3]; rfl

end Sys2Proof.Machine
end

