-- ==== Sys2Proof/Laws/Writes.lean ====
section
/-!
SUPPORT. The writes of masters keep the canonical form of memory: the words a race keeps (11 R243), bytes at listed
addresses (11 R425), and a reset (22 R399).
-/

namespace Sys2Proof.Machine

theorem wf_writeKept {m : Memory} (keep : List Nat) (a : Nat) (bs : List Byte) (w : m.wf = true) :
    (writeKept m keep a bs).wf = true := by
  induction bs generalizing m a with
  | nil => exact w
  | cons b bs ih =>
    refine ih (a + 1) ?_
    split
    · exact wf_writeByte a b w
    · exact w

theorem wf_writeAt {m : Memory} (as : List Nat) (bs : List Byte) (w : m.wf = true) : (writeAt m as bs).wf = true := by
  induction as generalizing m bs with
  | nil => simpa [writeAt] using w
  | cons a as ih =>
    cases bs with
    | nil => simpa [writeAt] using w
    | cons b bs => exact ih bs (wf_writeByte a b w)

end Sys2Proof.Machine
end

