-- ==== Sys2Proof/Tests/Slice0.lean ====
section
/-!
SUPPORT. Tests: ill-formed terms that WellFormed refuses; words of the spec's encodings and what they decode to; single steps
on a small state, with results from the spec's words or worked by hand; and for every statement with hypotheses a witness: a
concrete state and operands that meet them.
-/

open Sys2Proof Sys2Proof.Machine

namespace Sys2Proof.Tests

set_option Elab.async false

/-! ## Words and ill-formed terms -/

/-- Each word decodes to its instruction. The words are 02 R26's formats and R38's numbers filled in, field by field. -/
def reads (ws : List (BitVec 32 × Instr)) : Bool :=
  ws.all fun p => match decode p.1 with
    | .ok i => i == p.2
    | .error _ => false

/-- Each word decodes to nothing, for this reason. -/
def refuses (e : DecodeError) (ws : List (BitVec 32)) : Bool :=
  ws.all fun w => match decode w with
    | .ok _ => false
    | .error x => x == e

theorem test_decode_sys : reads
    [(0x00000000#32, .nop), (0x000004A1#32, .trap 37), (0x00000002#32, .eret), (0x006004C3#32, .mfs 3 38),
     (0x000304C4#32, .mts 3 38), (0x00000025#32, .park 1), (0x00000006#32, .ctxsave), (0x00000007#32, .ctxrest),
     (0x00600008#32, .rdcyc 3), (0x00600009#32, .rdtime 3)] = true := by
  decide +kernel

theorem test_decode_alu_1 : reads
    [(0x046AA800#32, .add 3 10 21), (0x046AA801#32, .sub 3 10 21), (0x046AA802#32, .and 3 10 21),
     (0x046AA803#32, .or 3 10 21), (0x046AA804#32, .xor 3 10 21), (0x046AA805#32, .andn 3 10 21),
     (0x046AA806#32, .orn 3 10 21), (0x046AA807#32, .sll 3 10 21), (0x046AA808#32, .srl 3 10 21),
     (0x046AA809#32, .sra 3 10 21), (0x046AA80A#32, .rol 3 10 21), (0x046AA80B#32, .ror 3 10 21),
     (0x046AA80C#32, .mul 3 10 21), (0x046AA80D#32, .mulh 3 10 21), (0x046AA80E#32, .mulhn 3 10 21),
     (0x046AA80F#32, .div 3 10 21), (0x046AA810#32, .divn 3 10 21), (0x046AA811#32, .rem 3 10 21),
     (0x046AA812#32, .remn 3 10 21), (0x046AA813#32, .min 3 10 21), (0x046AA814#32, .max 3 10 21),
     (0x046AA815#32, .minn 3 10 21), (0x046AA816#32, .maxn 3 10 21), (0x046AA817#32, .slt 3 10 21)] = true := by
  decide +kernel

theorem test_decode_alu_2 : reads
    [(0x046AA818#32, .sltn 3 10 21), (0x046AA819#32, .seq 3 10 21), (0x046AA81A#32, .sne 3 10 21),
     (0x046A001B#32, .clz 3 10), (0x046A001C#32, .ctz 3 10), (0x046A001D#32, .popc 3 10), (0x046A001E#32, .bswap 3 10),
     (0x046AA81F#32, .hmix 3 10 21), (0x046AA820#32, .crc32c 3 10 21)] = true := by
  decide +kernel

theorem test_decode_bitf : reads
    [(0x086A94D0#32, .bfx 3 10 37 13), (0x086A94D1#32, .bfxs 3 10 37 13), (0x086A94D2#32, .bfi 3 10 37 13),
     (0x086AA803#32, .bfxv 3 10 21), (0x086AA804#32, .bfiv 3 10 21)] = true := by
  decide +kernel

theorem test_decode_immediates : reads
    [(0x0C6ABEEF#32, .addi 3 10 48879), (0x106ABEEF#32, .andi 3 10 48879), (0x146ABEEF#32, .ori 3 10 48879),
     (0x186ABEEF#32, .xori 3 10 48879), (0x1C6ABEEF#32, .slti 3 10 48879), (0x206ABEEF#32, .sltni 3 10 48879),
     (0x246ABEEF#32, .muli 3 10 48879), (0x2860BEEF#32, .lui 3 48879), (0x2C6A0025#32, .slli 3 10 37),
     (0x2C6A4025#32, .srli 3 10 37), (0x2C6A8025#32, .srai 3 10 37), (0x2C6AC025#32, .roli 3 10 37)] = true := by
  decide +kernel

theorem test_decode_branches : reads
    [(0x306ABEEF#32, .beq 3 10 48879), (0x346ABEEF#32, .bne 3 10 48879), (0x386ABEEF#32, .blt 3 10 48879),
     (0x3C6ABEEF#32, .bge 3 10 48879), (0x406ABEEF#32, .bltn 3 10 48879), (0x446ABEEF#32, .bgen 3 10 48879),
     (0x4AABCDEF#32, .b 44813807), (0x4EABCDEF#32, .bal 44813807), (0x56A0BEEF#32, .bp 5 1 48879),
     (0x5860BEEF#32, .dbnz 3 48879)] = true := by
  decide +kernel

theorem test_decode_jumps : reads
    [(0x50030000#32, .jr 3), (0x506A0001#32, .jalr 3 10)] = true := by
  decide +kernel

theorem test_decode_loads_stores : reads
    [(0x606AA791#32, .ld 3 10 167 9 1), (0x646AA792#32, .st 3 10 167 9 1), (0x686AA790#32, .ldro 3 10 167 9)] = true := by
  decide +kernel

theorem test_decode_queue_boxes : reads
    [(0x6C030000#32, .ldq 3), (0x6C030001#32, .stq 3)] = true := by
  decide +kernel

theorem test_decode_layouts : reads
    [(0x706A0000#32, .layset 3 10), (0x706A0001#32, .layget 3 10), (0x706A0002#32, .laysub 3 10),
     (0x70030023#32, .pref 3 1)] = true := by
  decide +kernel

theorem test_decode_atomics : reads
    [(0x746AA703#32, .aadd 3 10 167 1 1), (0x746AA713#32, .aand 3 10 167 1 1), (0x746AA723#32, .aor 3 10 167 1 1),
     (0x746AA733#32, .axor 3 10 167 1 1), (0x746AA743#32, .amin 3 10 167 1 1), (0x746AA753#32, .amax 3 10 167 1 1),
     (0x746AA763#32, .aminn 3 10 167 1 1), (0x746AA773#32, .amaxn 3 10 167 1 1), (0x746AA783#32, .aswap 3 10 167 1 1),
     (0x746AA793#32, .acas 3 10 167 1 1), (0x746AA7A3#32, .afadd 3 10 167 1 1),
     (0x746AA7B1#32, .waita 3 10 167 1)] = true := by
  decide +kernel

theorem test_decode_fences : reads
    [(0x780001A0#32, .fence 1 5), (0x78600001#32, .qfence 3), (0x78000002#32, .rosync)] = true := by
  decide +kernel

theorem test_decode_messages : reads
    [(0x7C6A0000#32, .chnew 3 10), (0x7C6504A1#32, .send 3 5 37), (0x7C65ACA2#32, .sende 3 5 21 37),
     (0x7C0004A3#32, .eclose 37), (0x7C6204A4#32, .einfo 3 2 37), (0x7C6004A5#32, .ebind 3 37),
     (0x7C6004A6#32, .emask 3 37), (0x7C7548C7#32, .spawn 3 21 9 6), (0x7C000028#32, .hend 1), (0x7C000009#32, .hseal),
     (0x7C6004AA#32, .rateset 3 37), (0x7C6004AB#32, .rateget 3 37)] = true := by
  decide +kernel

theorem test_decode_groups : reads
    [(0x806004A0#32, .gname 3 37), (0x806AA801#32, .gstv 3 10 21), (0x806A0002#32, .ghold 3 10),
     (0x806A0003#32, .gwait 3 10)] = true := by
  decide +kernel

theorem test_decode_barriers : reads
    [(0x846A0000#32, .barinit 3 10), (0x846AA801#32, .bararr 3 10 21), (0x846A0002#32, .barwait 3 10),
     (0x846AA803#32, .bartest 3 10 21)] = true := by
  decide +kernel

theorem test_decode_tags : reads
    [(0x886A0000#32, .waitany 3 10), (0x886A0001#32, .waitall 3 10), (0x886A0002#32, .ffr 3 10),
     (0x88030003#32, .tagclr 3)] = true := by
  decide +kernel

theorem test_decode_copies : reads
    [(0x8C6A04A0#32, .cpy 3 10 37), (0x8C6A04A1#32, .cpyred 3 10 37), (0x8C6AACA2#32, .gath 3 10 21 37),
     (0x8C6AACA3#32, .scat 3 10 21 37), (0x8C6AACA4#32, .halo 3 10 21 37), (0x8C6A04A5#32, .strm 3 10 37),
     (0x8C6A34A6#32, .fillw 3 10 6 37), (0x8C0004A7#32, .cpycan 37)] = true := by
  decide +kernel

theorem test_decode_matrix : reads
    [(0x906AACA0#32, .mma 3 10 21 37), (0x906AACA1#32, .mmas 3 10 21 37), (0x906AACA2#32, .mrot 3 10 21 37),
     (0x906004A3#32, .mzero 3 37), (0x906A04A4#32, .mrd 3 10 37), (0x90600005#32, .mwait 3),
     (0x906A0006#32, .mpoll 3 10), (0x900004A7#32, .mcan 37)] = true := by
  decide +kernel

theorem test_decode_varith : reads
    [(0x946AAC80#32, .vadd 3 10 21 9), (0x946AAC81#32, .vsub 3 10 21 9), (0x946AAC82#32, .vmul 3 10 21 9),
     (0x946AAC83#32, .vfma 3 10 21 9), (0x946AAC84#32, .vfms 3 10 21 9), (0x946AAC85#32, .vnfma 3 10 21 9),
     (0x946AAC86#32, .vdiv 3 10 21 9), (0x946AAC87#32, .vmin 3 10 21 9), (0x946AAC88#32, .vmax 3 10 21 9),
     (0x946A0489#32, .vabs 3 10 9), (0x946A048A#32, .vneg 3 10 9), (0x946AAC8B#32, .vand 3 10 21 9),
     (0x946AAC8C#32, .vor 3 10 21 9), (0x946AAC8D#32, .vxor 3 10 21 9), (0x946A048E#32, .vnot 3 10 9),
     (0x946AAC8F#32, .vshl 3 10 21 9), (0x946AAC90#32, .vshr 3 10 21 9), (0x946AAC91#32, .vshra 3 10 21 9),
     (0x946AAC92#32, .vclamp 3 10 21 9), (0x946A0493#32, .vmov 3 10 9), (0x946A0494#32, .vbcast 3 10 9),
     (0x94600495#32, .viota 3 9)] = true := by
  decide +kernel

theorem test_decode_vector_immediates : reads
    [(0xA86ABEEF#32, .vaddi 3 10 48879), (0xAC6ABEEF#32, .vmuli 3 10 48879), (0xB06ABEEF#32, .vmaxi 3 10 48879),
     (0xB460BEEF#32, .vseti 3 48879)] = true := by
  decide +kernel

theorem test_decode_vcmp : reads
    [(0x980354AD#32, .vcmp 3 10 9 5 5), (0x986AACC5#32, .vsel 3 10 21 9 5), (0x9805284D#32, .pand 5 5 5),
     (0x98052855#32, .por 5 5 5), (0x9805285D#32, .pxor 5 5 5), (0x98050065#32, .pnot 5 5), (0x9BE0006D#32, .pcnt 5),
     (0x981F0875#32, .pset 1 5)] = true := by
  decide +kernel

theorem test_decode_vconv : reads
    [(0x9C6A0480#32, .vcvt 3 10 9), (0x9C6AAB81#32, .vbq 3 10 21 7), (0x9C6AA902#32, .vbdq 3 10 21 2)] = true := by
  decide +kernel

theorem test_decode_vred : reads
    [(0xA06A0485#32, .vred 3 10 9 1 1), (0xA06A0495#32, .vscan 3 10 9 1 1), (0xA06AACA1#32, .vdot 3 10 21 9 1),
     (0xA06AACB3#32, .vtopk 3 10 21 9 1 1), (0xA06AACC3#32, .vperm 3 10 21 9 1 1)] = true := by
  decide +kernel

theorem test_decode_vsfu : reads
    [(0xA46A0100#32, .vexp2 3 10 2), (0xA46A0101#32, .vexp 3 10 2), (0xA46A0102#32, .vlog2 3 10 2),
     (0xA46A0103#32, .vln 3 10 2), (0xA46A0104#32, .vrcp 3 10 2), (0xA46A0105#32, .vrsqrt 3 10 2),
     (0xA46A0106#32, .vsqrt 3 10 2), (0xA46A0107#32, .vsin 3 10 2), (0xA46A0108#32, .vcos 3 10 2),
     (0xA46A0109#32, .vtanh 3 10 2), (0xA46A010A#32, .vsigm 3 10 2), (0xA46A010B#32, .vgelu 3 10 2),
     (0xA46A010C#32, .vsilu 3 10 2), (0xA46A010D#32, .verf 3 10 2)] = true := by
  decide +kernel

theorem test_decode_views : reads
    [(0xB86A4800#32, .zset 3 10 9), (0xB8605001#32, .zld 3 10), (0xB8035002#32, .zst 3 10),
     (0xB86A2003#32, .zinc 3 10 4), (0xB8600484#32, .vtag 3 0 9), (0xBBE30005#32, .vtagrd 3)] = true := by
  decide +kernel

theorem test_decode_lintel : reads
    [(0xBC600000#32, .lgraph 3), (0xBC6AA801#32, .lwait 3 10 21)] = true := by
  decide +kernel

theorem test_decode_hints : reads
    [(0xFC0000A7#32, .hstall 167), (0xFC6ABCDE#32, .himm 2800862), (0xFCAEF1B4#32, .hmod 5 1 5 1 1 1 3 1 5),
     (0xFCC00001#32, .hbr 1)] = true := by
  decide +kernel
theorem test_decode_unassigned_majors : refuses .unassignedMajor [0x5C000000#32, 0xC0000000#32, 0xF8000000#32] = true := by
  decide +kernel

theorem test_decode_unlisted_functions : refuses .unlistedFunction
    [0x0000000A#32, 0x04000021#32, 0x08000005#32, 0x50000002#32, 0x6C000002#32, 0x70000004#32, 0x740000C0#32, 0x78000003#32,
     0x7C00000C#32, 0x80000004#32, 0x84000004#32, 0x88000004#32, 0x8C000008#32, 0x90000008#32, 0x94000016#32, 0x98000078#32,
     0x9C000003#32, 0xA0000050#32, 0xA400000E#32, 0xB8000006#32, 0xBC000002#32, 0xFD000000#32] = true := by
  decide +kernel

/-- R27: BP's zero field, the spare bits of CLZ's function, of NOP, of SHI's immediate, of LD's and LDRO's ordering. -/
theorem test_decode_unused_fields : refuses .unusedField
    [0x54210000#32, 0x0443081B#32, 0x00200000#32, 0x2C654040#32, 0x60220004#32, 0x60220002#32, 0x64220001#32, 0x68220001#32] = true := by
  decide +kernel

/-- Every kind of check of WellFormed refuses a term: registers 31, ranges beyond a29, views, types, counts, codes. -/
theorem test_ill_formed_scalar :
    ([.add 31 1 2, .add 1 31 2, .add 1 2 31, .clz 31 1, .clz 1 31, .bfx 31 1 0 1, .bfxv 1 2 31, .addi 31 1 0, .addi 1 31 0, .lui 31 0,
      .slli 1 31 0, .beq 31 1 0, .beq 1 31 0, .jr 31, .jalr 31 1, .dbnz 0 0, .dbnz 30 0, .mfs 31 0, .mfs 1 45, .mts 31 0, .mts 1 45,
      .park 2, .rdcyc 31, .rdtime 31, .hmod 6 0 0 0 0 0 0 0 0, .hmod 0 0 0 1 0 0 0 0 0, .hmod 0 0 0 0 0 0 30 0 0,
      .hmod 0 0 0 0 0 0 0 3 0, .hbr 0, .hbr 3] : List Instr).all (fun i => !i.wellFormed) = true := by
  decide +kernel

theorem test_ill_formed_memory :
    ([.ld 1 30 0 0 0, .ld 1 1 0 5 0, .st 1 31 0 0 0, .st 1 1 0 7 0, .ldro 1 30 0 0, .ldq 28, .stq 28, .layset 31 1, .layset 1 23,
      .layget 23 1, .layget 1 31, .laysub 31 1, .laysub 1 28, .pref 28 0, .aadd 31 1 0 0 0, .aadd 1 30 0 0 0, .acas 0 1 0 0 0,
      .acas 29 1 0 0 0, .acas 1 30 0 0 0, .waita 31 1 0 0, .waita 1 30 0 0, .fence 0 0, .fence 3 4, .qfence 31] : List Instr).all
      (fun i => !i.wellFormed) = true := by
  decide +kernel

theorem test_ill_formed_messages :
    ([.chnew 31 1, .chnew 1 31, .send 1 9 0, .send 1 0 0, .send 23 8 0, .sende 1 9 1 0, .sende 1 1 0 0, .sende 1 1 31 0, .einfo 31 0 0,
      .einfo 1 3 0, .ebind 31 0, .emask 31 0, .spawn 29 1 0 1, .spawn 1 1 0 7, .spawn 1 1 31 1, .rateset 31 0, .rateget 31 0,
      .gname 31 0, .gstv 31 1 1, .gstv 1 31 1, .gstv 1 1 30, .ghold 31 1, .gwait 1 31, .barinit 31 1, .bararr 1 1 31, .barwait 1 31,
      .bartest 31 1 1, .waitany 31 1, .waitall 1 31, .ffr 31 1, .tagclr 31] : List Instr).all (fun i => !i.wellFormed) = true := by
  decide +kernel

theorem test_ill_formed_engines :
    ([.cpy 28 1 0, .cpyred 1 28 0, .gath 1 1 28 0, .scat 28 1 1 0, .halo 31 1 1 0, .halo 1 28 1 0, .halo 1 1 31 0, .strm 30 1 0,
      .strm 1 28 0, .fillw 30 1 0 0, .fillw 1 28 0 0, .fillw 1 1 8 0, .mma 30 1 1 0, .mma 1 28 1 0, .mrot 1 1 28 0, .mmas 28 1 1 0,
      .mzero 30 0, .mrd 28 1 0, .mrd 1 30 0, .mwait 31, .mpoll 31 1, .mpoll 1 31, .lgraph 28, .lwait 31 1 1] : List Instr).all
      (fun i => !i.wellFormed) = true := by
  decide +kernel

theorem test_ill_formed_vector :
    ([.vadd 1 1 1 3, .vabs 1 1 5, .vand 1 1 1 0, .vnot 1 1 2, .vmov 1 1 6, .vbcast 1 1 7, .viota 1 3, .vaddi 30 1 0, .vmuli 1 31 0,
      .vseti 30 0, .vcmp 1 1 6 0 0, .vsel 1 1 1 7 0, .vcvt 1 31 0, .vcvt 1 1 6, .vbq 30 1 1 6, .vbq 1 1 1 5, .vbdq 1 1 1 6,
      .vbdq 1 1 31 0, .vred 30 1 0 0 0, .vred 1 30 0 0 0, .vred 1 1 0 3 0, .vred 1 1 3 0 0, .vscan 30 1 0 0 0, .vdot 30 1 1 0 0,
      .vdot 1 1 1 4 0, .vtopk 30 1 0 0 0 0, .vtopk 1 1 1 0 0 0, .vtopk 1 1 30 0 1 0, .vtopk 1 1 0 4 0 0, .vperm 1 1 30 0 0 0,
      .vperm 1 1 1 6 0 0, .vexp2 1 1 3, .verf 1 1 8, .zset 30 1 0, .zset 1 30 0, .zset 1 1 10, .zld 30 1, .zld 1 30, .zst 30 1,
      .zinc 1 1 5, .vtag 30 0 0, .vtagrd 30] : List Instr).all (fun i => !i.wellFormed) = true := by
  decide +kernel

theorem test_encode_is_the_word : encode (.add 3 10 21) = 0x046AA800#32 ∧ encode (.himm 0) = 0xFC400000#32
    ∧ encode (.lui 4 0x8000) = 0x28808000#32 ∧ encode (.bfx 5 1 6 6) = 0x08A11860#32 := by decide +kernel

/-! ## A small state -/

/-- A process in slot 1 of partition 0 on core 0, whose activation runs in context 0 at `placeAt`; the A half's turn. -/
def base : State := { State.reset.withFetchWord 32 0 with agenda := [] }

/-- `base` with the context changed. -/
def ctxIs (f : Ctx → Ctx) : State := base.modActor f

/-- `base` with registers set. -/
def regsAre (rs : List (Nat × Word)) : State :=
  ctxIs fun c => { c with a := rs.foldl (fun v e => v.setIfInBounds e.1 e.2) c.a }

/-- The instruction answers a next state with a property. -/
def gives (i : Instr) (s : State) (f : State → Bool) : Bool :=
  match exec i s with
  | .next t => f t
  | _ => false

/-- A register of the acting context after an instruction. -/
def givesReg (i : Instr) (s : State) (r : Fin 32) (v : Word) : Bool := gives i s fun t => t.actor.a[r] == v

/-- The acting context is parked with a fault code. -/
def parks (i : Instr) (s : State) (code : FaultCode) : Bool := gives i s fun t =>
  (t.actor.status == .parked || t.actor.status == .frozen) && t.actor.faultc.extractLsb' 0 8 == code.toByte

theorem ready_of {s : State} (h : (s.actor.status == .running && s.actor.afault.isNone && s.turn.upset == .none
    && s.actor.hints.isEmpty && s.actor.eq.isEmpty && s.actor.pend.isNone) = true) : ReadyA s := by
  simp only [Bool.and_eq_true, beq_iff_eq, Option.isNone_iff_eq_none, List.isEmpty_iff] at h
  exact ⟨h.1.1.1.1.1, h.1.1.1.1.2, h.1.1.1.2, h.1.1.2, h.1.2, h.2⟩

theorem readyE_of {s : State} (h : ReadyA s) (g : (s.turn.half == .A && !s.actor.routine && s.actor.eprog == {}
    && (s.core s.turn.core).usedE != some s.cyc
    && (rangeFrom 0 4).all fun k => k == s.turn.ctx || !(s.ctx s.turn.core k).readyE) = true) : ReadyE s := by
  simp only [Bool.and_eq_true, beq_iff_eq, Bool.not_eq_true', bne_iff_ne] at g
  obtain ⟨⟨⟨⟨a, b⟩, c⟩, d⟩, e⟩ := g
  refine ⟨a, h, b, c, d, fun k hk hne => ?_⟩
  simp only [rangeFrom, List.all_cons, List.all_nil, Bool.and_eq_true, Bool.or_eq_true, beq_iff_eq, Bool.not_eq_true'] at e
  rcases k with _ | _ | _ | _ | k
  · exact e.1.resolve_left hne
  · exact e.2.1.resolve_left hne
  · exact e.2.2.1.resolve_left hne
  · exact e.2.2.2.1.resolve_left hne
  · omega

theorem base_ready : ReadyA base := ready_of (by decide +kernel)
theorem base_readyE : ReadyE base := readyE_of base_ready (by decide +kernel)

/-- `base` with registers a1 = 7, a2 = −2 and a3 = 0 and an entry in q3. -/
def alu : State := ctxIs fun c => { c with
  a := ((c.a.setIfInBounds 1 7#64).setIfInBounds 2 (-2 : Word)).setIfInBounds 4 0x8000000000000000#64, q3 := [9#64] }

theorem alu_ready : ReadyA alu := ready_of (by decide +kernel)

/-! ## Witnesses: words, steps, the scalar instructions -/

theorem witness_words_read_back : isRow (.add 3 10 21) = false ∧ Instr.wellFormed (.add 3 10 21) = true
    ∧ (∀ w, Instr.add 3 10 21 ≠ .illegalWord w) ∧ decode 0x046AA800#32 = .ok (.add 3 10 21) := by
  refine ⟨?_, ?_, fun w h => ?_, ?_⟩
  case refine_3 => cases h
  all_goals decide +kernel

/-- The turn of a step, and the state in which its word is fetched. -/
def stepped (w : Nat) : State :=
  let s := State.reset.withFetchWord 32 w
  { s with agenda := [], turn := {} }

/-- What `fetchWord` gives for the placed word. -/
def fetches (p : State) (w : BitVec 32) : Bool :=
  match p.fetchWord 0 0 p.actor.pc.toNat with
  | .ok (x, _) => x == w
  | .error _ => false

theorem witness_step_runs_the_word : (State.reset.withFetchWord 32 0x0C210005).agenda = [.issue {}]
    ∧ (stepped 0x0C210005).idle = .run ∧ ((stepped 0x0C210005).cluster 0).idle = .run ∧ (stepped 0x0C210005).actor.issues = true
    ∧ (stepped 0x0C210005).spent {} = false ∧ (stepped 0x0C210005).actor.heldTo ≤ (stepped 0x0C210005).cyc
    ∧ (stepped 0x0C210005).operandsReady 0 0 (.addi 1 1 5) = true ∧ (stepped 0x0C210005).actor.takesInterrupt = false ∧ (stepped 0x0C210005).actor.auto = false
    ∧ (stepped 0x0C210005).actor.hangs = false ∧ Instr.wellFormed (.addi 1 1 5) = true
    ∧ isHintWord (encode (.addi 1 1 5)) = false ∧ fetches (stepped 0x0C210005) (encode (.addi 1 1 5)) = true := by
  decide +kernel

/-- The same state with an empty translation root: the fetch fails with NOT_PRESENT (03 R57). -/
def unmapped : State := { stepped 0 with parts := put (stepped 0).parts 0 { placePart with record := BitVec.ofNat 512 1 } }

theorem witness_unfetchable : ReadyA unmapped ∧ unmapped.spent {} = false ∧ unmapped.actor.takesInterrupt = false ∧ unmapped.actor.auto = false
    ∧ unmapped.actor.hangs = false ∧ (match unmapped.fetchWord 0 0 unmapped.actor.pc.toNat with
      | .ok _ => false
      | .error _ => true) = true := by
  refine ⟨ready_of ?_, ?_⟩ <;> and_intros <;> decide +kernel

theorem witness_alu : ReadyA alu ∧ alu.actor.sources 1 2 = some (7#64, -2, alu.actor) ∧ (alu.actor.dest 3 5#64).isSome = true
    ∧ (alu.actor.sources 30 1).map (fun p => (p.1, p.2.1)) = some (9#64, 7#64) ∧ (alu.actor.dest 30 5#64).isSome = true
    ∧ alu.actor.dest 0 5#64 = some alu.actor := by
  refine ⟨alu_ready, ?_⟩ <;> and_intros <;> decide +kernel

theorem witness_division : ReadyA alu ∧ alu.actor.sources 1 3 = some (7#64, 0#64, alu.actor)
    ∧ (regsAre [(1, 0x8000000000000000#64), (2, -1)]).actor.sources 1 2
      = some (0x8000000000000000#64, -1, (regsAre [(1, 0x8000000000000000#64), (2, -1)]).actor) := by
  refine ⟨alu_ready, ?_⟩ <;> and_intros <;> decide +kernel

theorem witness_bit_counts : ReadyA alu ∧ alu.actor.source 3 = some (0#64, alu.actor)
    ∧ alu.actor.source 1 = some (7#64, alu.actor) := by
  refine ⟨alu_ready, ?_⟩ <;> and_intros <;> decide +kernel

/-- `alu` behind one hint or more. -/
def hinted (ws : List Instr) : State := ctxIs fun c => { c with
  a := (c.a.setIfInBounds 1 0x7FFFFFFFFFFFFFFF#64).setIfInBounds 2 3#64, hints := ws.map fun i => { addr := 0x100000, word := encode i } }

theorem witness_saturation : let s := hinted [.hmod 0 1 0 0 0 0 0 0 0]
    s.actor.status = .running ∧ s.actor.afault = none ∧ s.turn.upset = .none ∧ s.actor.eq = []
    ∧ s.actor.hints = [{ addr := 0x100000, word := encode (.hmod 0#3 1#1 0#3 0#1 0#1 0#1 0#5 0#2 0#3) }] := by
  decide +kernel

theorem witness_bit_fields : ReadyA alu ∧ alu.actor.source 1 = some (7#64, alu.actor) ∧ alu.actor.source 3 = some (0#64, alu.actor) := by
  refine ⟨alu_ready, ?_⟩ <;> and_intros <;> decide +kernel

theorem witness_immediates : (hinted []).actor.hints = [] ∧ (hinted [.himm 1]).actor.hints.map EWord.word = [encode (.himm 1)]
    ∧ (hinted [.himm 1, .himm 0x3FFFFF]).actor.hints.map EWord.word = [encode (.himm 1), encode (.himm 0x3FFFFF)]
    ∧ (hinted [.himm 1]).actor.status = .running ∧ (hinted [.himm 1]).actor.afault = none
    ∧ (hinted [.himm 1]).actor.eq = [] ∧ (hinted [.himm 1]).turn.upset = .none
    ∧ (hinted [.himm 1]).actor.source 2 = some (3#64, (hinted [.himm 1]).actor) := by decide +kernel

theorem witness_branches : ReadyA alu ∧ alu.actor.sources 1 2 = some (7#64, -2, alu.actor)
    ∧ (0x100000 + 4 * (0xFFFF#16).toInt : Int) = (0xFFFFC#52).toNat ∧ (0xFFFFC#52).toNat % 4 = 0
    ∧ alu.actor.pc = 0x100000#52 ∧ (alu.actor.dest 1 6#64).isSome = true := by
  refine ⟨alu_ready, ?_⟩ <;> and_intros <;> decide +kernel

theorem witness_jumps : ReadyA alu ∧ alu.actor.source 3 = some (0#64, alu.actor) ∧ (0#64).toNat % 4 = 0
    ∧ alu.actor.source 1 = some (7#64, alu.actor) ∧ (7 : Int) % 4 ≠ 0
    ∧ (alu.actor.pc.toNat + 4 * (0x2000000#26).toInt : Int) < 0 := by
  refine ⟨alu_ready, ?_⟩ <;> and_intros <;> decide +kernel

theorem witness_hints : base.actor.issues = true ∧ base.turn.half = .A := by decide +kernel

theorem witness_illegal_words : ReadyE base ∧ (isHintWord 0x5C000000#32 && decide ((kind4 0x5C000000#32).toNat ≤ 3)) = false
    ∧ (isHintWord 0xFD000000#32 && decide ((kind4 0xFD000000#32).toNat ≤ 3)) = false
    ∧ routesToE 0x94000016#32 = true ∧ namesSuper 0x00200002#32 = true := by
  refine ⟨base_readyE, ?_⟩ <;> and_intros <;> decide +kernel

/-- Memory with three HIMMs and an ADDI at the program counter. -/
def threeHints : State :=
  let s := stepped 0xFC400001
  { s with mem := writeBytes s.mem 0x100004 (bytesOfNat 4 0xFC400002 ++ bytesOfNat 4 0xFC400003 ++ bytesOfNat 4 0x0C210005) }

theorem witness_too_many_hints : ReadyA threeHints ∧ threeHints.spent {} = false ∧ fetches threeHints 0xFC400001#32 = true ∧ isHintWord 0xFC400001#32 = true
    ∧ (match threeHints.scanHints 0 0 (2 ^ 50) (0x100004 % 2 ^ 52) [0xFC400001#32] with
      | .done ws => overLimit ws == some 0xFC400003#32
      | _ => false) = true := by
  refine ⟨ready_of ?_, ?_⟩ <;> and_intros <;> decide +kernel

theorem witness_system_registers : ReadyA base ∧ superOnly 6 = false ∧ superOnly 30 = true ∧ base.actor.super = false
    ∧ ReadyA (ctxIs fun c => { c with super := true }) ∧ (ctxIs fun c => { c with super := true }).actor.super = true
    ∧ base.actor.source 0 = some (0#64, base.actor) ∧ (256#64).toNat % 65536 = 256 := by
  refine ⟨base_ready, ?_, ?_, ?_, ready_of ?_, ?_⟩ <;> and_intros <;> decide +kernel

/-- PARTW 0x6025 leaves a scratchpad of no bytes and 0x7025 a negative one; RMODE 5 is no mode. -/
theorem witness_invalid_values : let kib := fun (v : Nat) =>
      4 * (v % 8 + 1) + (if v / 16 % 4 = 0 then 0 else 4 * 2 ^ (v / 16 % 4 - 1)) + v / 4096 % 16
    kib 0x6025 = 38 ∧ kib 0x7025 = 39
    ∧ (∀ e ∈ base.procs, e.1 ≠ base.activity.slot → e.2.core = base.turn.core → e.2.state ≠ .resident)
    ∧ base.self.fits (partwFields 0x6025) = true ∧ 4 < (5#64).toNat % 8 ∧ base.actor.source 0 = some (0#64, base.actor) := by
  decide +kernel

/-- A vectored routine, with a save made or not. -/
def routine (saved : Bool) (epca : Word) : State := ctxIs fun c => { c with super := true, routine := true, saved := saved, epca := epca }

theorem witness_routines : ReadyA base ∧ base.actor.routine = false ∧ base.actor.tvec = 0#52
    ∧ (ctxIs fun c => { c with tvec := 0x2000#52 }).actor.tvec ≠ 0#52 ∧ ReadyA (ctxIs fun c => { c with tvec := 0x2000#52 })
    ∧ (0x2000#52).toNat % 4 = 0 ∧ (0x2002#52).toNat % 4 ≠ 0 := by
  refine ⟨base_ready, ?_, ?_, ?_, ready_of ?_, ?_⟩ <;> and_intros <;> decide +kernel

theorem witness_in_routine : InRoutine (routine true 0x1000#64) ∧ InRoutine (routine false 0x1002#64)
    ∧ (routine true 0x1000#64).actor.saved = true ∧ ((0x1002#64).extractLsb' 0 52).toNat % 4 ≠ 0 := by
  refine ⟨⟨ready_of ?_, ?_, ?_⟩, ⟨ready_of ?_, ?_, ?_⟩, ?_⟩ <;> and_intros <;> decide +kernel

theorem witness_save_area : let s := routine false 0#64
    InRoutine s ∧ s.turn.ctx < 4 ∧ (∀ e ∈ s.actor.q0, e.awaits = false) ∧ s.actor.podFence = none ∧ s.actor.sent = [] := by
  refine ⟨⟨ready_of ?_, ?_, ?_⟩, ?_⟩ <;> and_intros <;> decide +kernel


/-- `s` after a save: its save area holds what it saved. -/
theorem witness_saved_area : let s := routine true 0x1000#64
    let t := s.modCore 0 fun k => { k with pool := writeBytes k.pool 0xC800 s.actor.saveArea }
    s.actor.saveArea.length = 0xE00 ∧ readBytes (t.core 0).pool 0xC800 0xE00 = s.actor.saveArea ∧ s.actor.q0.length ≤ 16
      ∧ s.actor.eq.length ≤ 8 ∧ (0x1000#64).toNat % 4 = 0 ∧ s.actor.epce.toNat % 4 = 0 := by
  have len : (routine true 0x1000#64).actor.saveArea.length = 0xE00 := by decide +kernel
  refine ⟨len, ?_, ?_⟩
  · have h := readBytes_writeBytes (m := ((routine true 0x1000#64).core 0).pool) 0xC800 (routine true 0x1000#64).actor.saveArea (by decide +kernel)
    rw [len] at h
    have c : (((routine true 0x1000#64).modCore 0 fun k => { k with pool := writeBytes k.pool 0xC800 (routine true 0x1000#64).actor.saveArea }).core
        0).pool = writeBytes ((routine true 0x1000#64).core 0).pool 0xC800 (routine true 0x1000#64).actor.saveArea := by
      simp only [State.modCore, State.setCore, State.core, find_put_same]
    exact (congrArg (fun m => readBytes m 0xC800 0xE00) c).trans h
  · and_intros <;> decide +kernel

/-! ## Layouts and memory -/

/-- A layout entry with every right: space, type, first byte, extents with strides, further bits (05 R98). -/
def layOf (space ty base : Nat) (dims : List (Nat × Nat)) (more : Nat) : BitVec 512 :=
  BitVec.ofNat 512 (at_ space 3 0 + at_ 7 3 16 + at_ (dims.length - 1) 2 34 + at_ ty 4 36 + at_ base 52 128
    + (rangeFrom 0 4).foldl (fun n k => n + at_ (dims.getD k (1, 0)).1 32 (256 + 32 * k)
      + at_ (dims.getD k (1, 0)).2 32 (384 + 32 * k)) 0 + more)

/-- 16: U32 in HBM; 17: U32 in core 0's scratchpad; 18: S8 in HBM; 19: S64 in HBM; 20: a reduction region; 21 and 22: FP32 in
HBM, 32 by 32 and 4 by 4. -/
def layTable : Map (BitVec 512) :=
  [(16, layOf 0 13 0x200000 [(16, 1)] 0), (17, layOf 2 13 0x8000 [(16, 1)] 0), (18, layOf 0 8 0x200040 [(16, 1)] 0),
    (19, layOf 0 14 0x200080 [(16, 1)] 0), (20, layOf 0 0 0x300000 [(32, 1), (32, 32)] (2 ^ 22)),
    (21, layOf 0 0 0x400000 [(32, 1), (32, 32)] 0), (22, layOf 0 0 0x200100 [(4, 1), (4, 4)] 0)]

/-- `base` with the table and all tags; U32 element 2 of 16 is 0x89ABCDEF, S8 element 1 of 18 is −2, S64 element 0 of 19 is 5;
registers a1 = 2, a2 = 1, a3 = 0, a4-a6 the box of elements 1 and 2 of layout 16, a7-a9 of layout 17, a10-a12 and a13-a15 the
whole of 21, a16-a18 the whole of 20, a19 = 16; an entry of U32 strips in q1, and q3 = 7. -/
def memory : State :=
  let s := base.modProc 1 fun p => { p with layouts := layTable, tagm := BitVec.allOnes 64 }
  let s := s.modActor fun c => { c with
    a := ([(1, 2#64), (2, 1#64), (4, 16#64), (5, 1#64), (6, 2#64), (7, 17#64), (8, 1#64), (9, 2#64), (10, 21#64), (12, 0x200020#64),
      (13, 21#64), (15, 0x200020#64), (16, 20#64), (18, 0x200020#64), (19, 16#64), (20, 5#64)] : List (Nat × Word)).foldl
        (fun v e => v.setIfInBounds e.1 e.2) c.a
    q1 := [{ data := 0x1122334455667788#512, tag := tagOf 13 }], q3 := [7#64] }
  { s with mem := writeBytes s.mem 0x200008 (bytesOfNat 4 0x89ABCDEF) |> fun m => writeBytes m 0x200041 [0xFE#8]
                  |> fun m => writeBytes m 0x200080 [5#8] }

theorem memory_ready : ReadyA memory := ready_of (by decide +kernel)

def lay (n : Nat) : BitVec 512 := find layTable n 0#512

/-- The state an operation leaves. -/
def after {α : Type} (x : Except Stop (α × State)) : State := match x with
  | .ok (_, s) => s
  | .error _ => default

/-- The client of a load. -/
def reader (acq : Bool) : Client := { memory.client 0 with plain := !acq }

def places16 : Except Stop (List Loc × State) := elemReadPlaces (reader false) 16 (lay 16) false (.elem 2 false) memory

/-- Element 2 of layout 16 at the coordinate in a1. -/
theorem element16 (i : Instr) (h : coordsAt i 1 (layRank (lay 16)) memory = .ok ([2], memory)) :
    ElementAt memory i 1 16 13 (lay 16) (.elem 2 false) := by
  refine ⟨?_, ⟨[2], h, ?_⟩, ?_, ?_, ?_⟩ <;> decide +kernel

theorem witness_load : ElementAt memory (.ld 3 1 16 13 0) 1 16 13 (lay 16) (.elem 2 false)
    ∧ ∃ ls bs u, LoadAt memory 16 13 false false (lay 16) (.elem 2 false) ls bs u := by
  refine ⟨element16 _ (by decide +kernel),
    [.phys 0x200008, .phys 0x200009, .phys 0x20000A, .phys 0x20000B], [0xEF, 0xCD, 0xAB, 0x89],
    after (loadLocs (reader false) 13 [.phys 0x200008, .phys 0x200009, .phys 0x20000A, .phys 0x20000B] (after places16)),
    ⟨fun h => ?_, ⟨after places16, after places16, ?_⟩, ?_⟩⟩
  · cases h
  · and_intros <;> decide +kernel
  · rintro a rest h; cases h; decide +kernel

theorem witness_element_addresses : 0 ≤ (15 : Int) ∧ (15 : Int) < ((layDim (lay 16) 0 : Nat) : Int)
    ∧ ¬(0 ≤ (16 : Int) ∧ (16 : Int) < ((layDim (lay 16) 0 : Nat) : Int)) ∧ layOor (lay 16) = 0
    ∧ layOor (layOf 0 13 0 [(16, 1)] (2 ^ 32)) = 1
    ∧ layOor (layOf 0 13 0 [(0, 1)] (2 ^ 33)) = 2 ∧ layDim (layOf 0 13 0 [(0, 1)] (2 ^ 33)) 0 = 0
    ∧ layOor (layOf 0 13 0 [(16, 1)] (2 ^ 33)) = 2 ∧ layDim (layOf 0 13 0 [(16, 1)] (2 ^ 33)) 0 = 16 := by decide +kernel

theorem witness_load_read_only : ElementAt memory (.ldro 3 1 16 13) 1 16 13 (lay 16) (.elem 2 false)
    ∧ (match elemReadPlaces (reader false) 16 (lay 16) true (.elem 2 false) memory with
      | .ok (.ro _ _ :: _, t) => laySpace (lay 16) == 0 && (loadLocs (reader false) 13
          [.ro 0 0x200008, .ro 0 0x200009, .ro 0 0x20000A, .ro 0 0x20000B] t).toOption.isSome
      | _ => false) = true := by
  refine ⟨element16 _ ?_, ?_⟩ <;> decide +kernel

/-- The places of element 2 of layout 16. -/
def word16 : List Loc := [.phys 0x200008, .phys 0x200009, .phys 0x20000A, .phys 0x20000B]

theorem witness_store : ElementAt memory (.st 2 1 16 13 1) 1 16 13 (lay 16) (.elem 2 false)
    ∧ storeData 2 13 memory = .ok (1, memory) ∧ storeData 30 13 memory = .ok (7, after (storeData 30 13 memory))
    ∧ storeData 31 13 memory = .ok (0x55667788, after (storeData 31 13 memory))
    ∧ (let w := elemWritePlaces (memory.client 0) 16 (lay 16) (.elem 2 false) memory
      let p := scopeM word16 (wrapTo 52 ((ElemOff.elem 2 false).addr (lay 16))) 5 (after w)
      w = .ok (word16, after w) ∧ p = .ok ((), after p)
        ∧ (storeLocs (memory.client 0) 13 word16 (bytesOfNat 4 1) (after p)).toOption.isSome = true) := by
  refine ⟨element16 _ ?_, ?_⟩ <;> and_intros <;> decide +kernel

theorem witness_writes : memory.ckpts = [] ∧ memory.ownerOf 0x200000 = some 0 ∧ memory.mem.wf = true
    ∧ memory.loses {} (0x200000 / 8) = false
    ∧ ({ memory with wrote := [(0x40000, { agent := 1, count := 1 })] } : State).loses {} 0x40000 = true := by
  decide +kernel

/-- The spaces below the scratchpad are tagged, and reset leaves every tag invalid (05 R88). -/
theorem witness_pool_tags : memory.tagged 0 0x5000 = true ∧ tagValid ((memory.core 0).tag 0) = false ∧ memory.tagged 0 0x8000 = false := by
  decide +kernel

theorem witness_box : ∃ b, readBox 7 memory = .ok (b, memory) ∧ queueBox b memory = .ok ((), memory)
    ∧ boxInRange b memory = .ok ((), memory) ∧ laySpace b.entry = 2 ∧ memory.hostReqs = []
    ∧ memory.actor.q0.length + b.strips ≤ 16 ∧ b.strips ≤ memory.actor.q1.length
    ∧ ((rangeFrom 0 b.count).mapM (boxElem (memory.client 0) b) memory).toOption.isSome = true
    ∧ (((rangeFrom 0 b.strips).forM fun j => do
        let x ← popQ1 (layType b.entry)
        stqStrip (memory.client 0) b x j) memory).toOption.isSome = true :=
  ⟨{ lid := 17, entry := lay 17, start := [1], ext := [2] }, by decide +kernel⟩

/-- `memory` with an entry's words in a20-a27. -/
def entryIn (e : BitVec 512) : State := memory.modActor fun c => { c with
  a := (rangeFrom 0 8).foldl (fun v k => v.setIfInBounds (20 + k) (e.extractLsb' (64 * k) 64)) c.a }

theorem witness_layset : ReadyA (entryIn (lay 22)) ∧ (entryIn (lay 22)).actor.source 19 = some (16#64, (entryIn (lay 22)).actor)
    ∧ (let w := fun (s : State) => (BitVec.ofNat 512 (((List.range 8).map fun k =>
          (regOf s.actor (BitVec.ofNat 5 (20 + k))).toNat * 2 ^ (64 * k)).sum) : BitVec 512)
      w (entryIn (lay 22)) = lay 22 ∧ layMalformed false (w (entryIn (lay 22))) = false
        ∧ layMalformed false (w (entryIn (layOf 7 13 0 [(1, 1)] 0))) = true) := by
  refine ⟨ready_of ?_, ?_⟩ <;> and_intros <;> decide +kernel

theorem witness_laysub : memory.actor.source 19 = some (16#64, memory.actor) ∧ ∃ x, readBox 4 (memory.withActor memory.actor)
    = .ok (x, memory.withActor memory.actor) ∧ readBox 4 memory = .ok (x, memory) ∧ 16 ≤ x.lid
    ∧ isSix (layType x.entry) = false ∧ isBlock (layType x.entry) = false ∧ laySpace x.entry ≠ 2 ∧ laySpace x.entry ≠ 3
    ∧ ∀ k, k < layRank x.entry → x.start.getD k 0 + x.ext.getD k 0 ≤ layDim x.entry k := by
  refine ⟨?_, { lid := 16, entry := lay 16, start := [1], ext := [2] }, ?_⟩ <;> and_intros <;> decide +kernel

/-- A state with register a1 set. -/
def elementIs (v : Word) : State := memory.modActor fun c => { c with a := c.a.set 1 v }

def atomPlaces : Except Stop (List Loc × State) :=
  placesOf (memory.client 0) 16 (lay 16) 3 false (elemAddrs (lay 16) 2) memory

/-- The word of an atomic at the coordinate in a1, in a table of `memory`. -/
theorem atomWord (i : Instr) (op : Nat) (d : BitVec 5) (L : BitVec 8) (e : BitVec 512) (v cmp : Word)
    (entry : useLayout L.toNat memory = .ok (e, memory)) (coords : coordsAt i 1 (layRank e) memory = .ok ([2], memory))
    (off : elemOffset e [2] memory = .ok (.elem 2 false, memory)) (type : atomicType op (layType e) = true)
    (plain : (layRed e == false && layRat e && decide (laySpace e = 0 ∨ laySpace e = 2)
      && decide (((elemAddrs e 2).headD 0).emod (typeBytes (layType e)) = 0)) = true) (first : readA d memory = .ok (v, memory))
    (second : (op = 9 → regAt d 1 memory = .ok (cmp, memory)) ∧ (op ≠ 9 → cmp = 0#64)) :
    AtomAt memory i op d 1 L e 2 v cmp memory := by
  simp only [Bool.and_eq_true, beq_iff_eq, decide_eq_true_eq] at plain
  exact ⟨entry, ⟨[2], coords, off⟩, type, plain.1.1.1, plain.1.2, plain.1.1.2, plain.2, first, second⟩

theorem witness_atomic : AtomAt memory (atomInstr 0 2 1 16 0 0) 0 2 1 16 (lay 16) 2 1#64 0#64 memory
    ∧ atomPlaces = .ok (word16, after atomPlaces)
    ∧ (let p := scopeM word16 (wrapTo 52 ((elemAddrs (lay 16) 2).headD 0)) 5 (after atomPlaces)
      p = .ok ((), after p) ∧ (after p).stageFull 0x200008 = false ∧ (after p).crossFull (after p).issuer.die 0x200008 = false
        ∧ ((after p).atomicAt (after p).issuer 0x200008 (atomOpOf memory 0 13 1 0)).1 = .reply 0x89ABCDEF 0
        ∧ ((after p).atomicAt (after p).issuer 0x200008 (atomOpOf memory 11 13 1 0)).1 = .reply 0x89ABCDEF 0) := by
  refine ⟨atomWord _ _ _ _ _ _ _ ?_ ?_ ?_ ?_ ?_ ?_ ⟨fun h => by simp at h, fun _ => rfl⟩, ?_⟩ <;> and_intros <;> decide +kernel

theorem witness_atomic_pool : AtomAt memory (atomInstr 9 1 1 17 0 0) 9 1 1 17 (lay 17) 2 2#64 1#64 memory
    ∧ (let p := placesOf (memory.client 0) 17 (lay 17) 3 false (elemAddrs (lay 17) 2) memory
      p.toOption.map (fun x => x.1.head?) = some (some (.pool 0 0x8008))
        ∧ memory.readTagFault 0 0x8008 4 13 = none ∧ memory.fillHold 0 memory.self 0x8008 4 = .free
        ∧ memory.crossBusy memory.issuer.die (dieOf 0) = false
        ∧ ((after p).atomicPad (after p).issuer 0 0x8008 (atomOpOf memory 9 13 2 1)).1 = .reply 0 0
        ∧ ((after p).atomicPad (after p).issuer 0 0x8008 (atomOpOf memory 11 13 2 1)).1 = .reply 0 0) := by
  refine ⟨atomWord _ _ _ _ _ _ _ ?_ ?_ ?_ ?_ ?_ ?_ ⟨fun _ => ?_, fun h => absurd rfl h⟩, ?_⟩ <;> and_intros <;> decide +kernel

/-- The home slice of the word at 2 MiB with a number of watches. -/
def watchedHome (n : Nat) : State := memory.modSlice (homeOf 0x200000) fun k => { k with watches := List.replicate n {} }

theorem witness_watch_home : readNat (watchedHome 31).mem 0x200000 4 = 0 ∧ ((watchedHome 31).sliceAt (homeOf 0x200000)).watches.length < 32
    ∧ readNat (watchedHome 32).mem 0x200000 4 = 0 ∧ 32 ≤ ((watchedHome 32).sliceAt (homeOf 0x200000)).watches.length
    ∧ readNat memory.mem 0x200008 4 ≠ 0 := by decide +kernel

theorem witness_atomic_codes : decodeVal 0 0x7FC00000 = .nan false ∧ (addVal 0 (decodeVal 1 0x3F80) (decodeVal 1 0xBF80)).isZero = true
    ∧ (addVal 0 (decodeVal 2 0x3C00) (decodeVal 2 0x3C00)).isZero = false := by decide +kernel

/-- Core 0 with 15 and with 16 watches. -/
def watched (n : Nat) : State := memory.modCore 0 fun k => { k with watches := List.replicate n {} }

theorem witness_watch : let x : AtomicOp := { op := 11, ty := 13, v := 0 }
    natOfBytes ((watched 15).poolBytes 0 0x8000 4) = x.v ∧ ((watched 15).core 0).watches.length < 16
      ∧ natOfBytes ((watched 16).poolBytes 0 0x8000 4) = x.v ∧ 16 ≤ ((watched 16).core 0).watches.length
      ∧ readNat memory.mem 0x200008 4 ≠ x.v ∧ readNat memory.mem 0x200000 4 = x.v := by decide +kernel

theorem witness_fences : let far := ctxIs fun c => { c with sent := [{ dev := 3, counts := [1, 0, 0, 0] }] }
    ReadyA far ∧ far.actor.podFence = none ∧ far.actor.sent ≠ [] ∧ base.actor.sent = []
      ∧ base.hostStoresOut base.turn.core base.turn.ctx = false ∧ (ctxIs fun c => { c with super := true }).actor.super = true
      ∧ base.cutting base.activity.part = false ∧ memory.actor.source 2 = some (1#64, memory.actor)
      ∧ memory.actor.source 0 = some (0#64, memory.actor) ∧ memory.actor.sealed = false ∧ memory.actor.outbox.length < 16 := by
  refine ⟨ready_of ?_, ?_⟩ <;> and_intros <;> decide +kernel

/-! ## Messages, barriers, commands -/

/-- A view record: space, type, offset, extents with strides, further bits (05 R92). -/
def viewOf (space ty off : Nat) (dims : List (Nat × Nat)) (more : Nat) : BitVec 256 :=
  BitVec.ofNat 256 (at_ space 3 0 + at_ ty 4 4 + at_ (dims.length - 1) 2 8 + at_ off 32 32
    + (rangeFrom 0 4).foldl (fun n k => n + at_ (dims.getD k (1, 0)).1 16 (64 + 16 * k)
      + at_ (dims.getD k (1, 0)).2 32 (128 + 32 * k)) 0 + more)

/-- Sets registers a of a context. -/
def Ctx.regs (c : Ctx) (rs : List (Nat × Word)) : Ctx := { c with a := rs.foldl (fun v e => v.setIfInBounds e.1 e.2) c.a }

/-- `memory` with a send end in register 1, a receive end in 2, both of channel 0, a send end of channel 1 with a rate loop in
3, which may move; one tile, a landing region, region 0 and notify register 0 of array 0; views 1 to 4. a21-a23 is the box of
16 by 32 of layout 21, a24-a26 of 4 by 2, a27-a29 the whole of layout 22. -/
def ends : State :=
  let n := memory.nameOf 1
  let s := memory.modProc 1 fun p => { p with
    ends := [(1, { state := .held, handle := mkHandle 0 5 0 0 false false false }),
      (2, { state := .held, handle := mkHandle 0 0 0 0 false false true }),
      (3, { state := .held, handle := mkHandle 1 0 0 0 true true false })]
    tiles := (0, 1), land := (0x6000, 0x800), regions := [(0, (0x6800, 0x400))] }
  let s := { s with
    chans := [(0, { sname := n, rname := n, sst := .here, rst := .here, cap := 4 }), (1, { sname := n, rname := n, sst := .here, rst := .here, rate := true })]
    arrays := [(0, { allot := [(0, 0)] })] }
  s.modActor fun c => { Ctx.regs c [(21, 21#64), (23, 0x200010#64), (24, 21#64), (26, 0x20004#64), (27, 22#64), (29, 0x40004#64),
      (20, 0x100000000#64)] with
    z := ([(1, viewOf 0 13 0 [(2, 4)] 0), (2, viewOf 0 13 64 [(2, 4)] 0), (3, viewOf 1 0 0 [(32, 4), (32, 128)] 0)] :
      List (Nat × BitVec 256)).foldl (fun v e => v.setIfInBounds e.1 e.2) c.z }

theorem ends_ready : ReadyA ends := ready_of (by decide +kernel)

theorem witness_messages : (∃ r, HoldsEnd ends 1 r ∧ hRecv r.handle = false ∧ ends.streamMode r.handle = false)
    ∧ (∃ x, HoldsEnd ends 3 x ∧ hMv x.handle = true) ∧ RoomFor ends.actor (16 + 8 * 8 + 16)
    ∧ (ends.modActor fun c => Ctx.regs c [(1, 3)]).actor.source 1 = some (3#64, (ends.modActor fun c => Ctx.regs c [(1, 3)]).actor)
    ∧ (regOf ends.actor 2).toNat < 2 ^ 14 ∧ (regOf ends.actor 3).toNat < 2 ^ 22 ∧ coreOk 1 = true
    ∧ ends.coreInPart (regOf ends.actor 2).toNat ends.activity.part = true := by
  refine ⟨⟨_, ⟨rfl, ?_, ?_⟩, ?_, ?_⟩, ⟨_, ⟨rfl, ?_, ?_⟩, ?_⟩, ⟨?_, ?_, ?_⟩, ?_⟩ <;> and_intros <;> decide +kernel

/-- A CHNEW word that names registers 1 and 9: register 1 is not empty. -/
def named : Word := 2 ^ 15 + 1 + 1 * 2 ^ 16 + 9 * 2 ^ 24

theorem witness_ends : readA 2 ends = .ok (1, ends) ∧ chnewOk 1 = true ∧ ends.self.chanRegs 1 = some (0, 4)
    ∧ ends.freeIndex = some 2 ∧ chnewOk named = true ∧ ends.self.chanRegs named = none ∧ chnewOk 64 = true
    ∧ (ends.self.endAt 2).state = .held ∧ hRecv (ends.self.endAt 2).handle = true ∧ (ends.self.endAt 9).state ≠ .held
    ∧ ends.actor.source 3 = some (0#64, ends.actor) := by decide +kernel

theorem witness_homes : HoldsEnd ends 3 (ends.self.endAt 3) ∧ chDev (hChid (ends.self.endAt 3).handle) = ends.devidx
    ∧ ends.landingOut ends.devidx ends.turn.core (hChid (ends.self.endAt 3).handle) = false ∧ readA 1 ends = .ok (2, ends) ∧ (2#64).toNat < 8 ∧ (2#64).getLsbD 0 = false ∧ hRt (ends.self.endAt 3).handle = true
    ∧ (ends.homeAsk (.rateset 1 2#64)).2.2.1 = none ∧ (ends.homeAsk (.rateget 1)).2.2.1 = none
    ∧ (ends.record 1).map (fun c => c.rst) = some .here := by
  refine ⟨⟨rfl, ?_, ?_⟩, ?_⟩ <;> and_intros <;> decide +kernel

theorem witness_activation_ends : ends.actor.act.isSome = true ∧ ends.actor.outbox = [] ∧ ends.actor.streams = []
    ∧ ends.turn.ctx < 4 ∧ (∃ a, ends.actor.act = some a ∧ (ends.proc a.slot).exiting = false
      ∧ (ends.proc a.slot).core = ends.turn.core ∧ (ends.proc a.slot).state ≠ .exited)
    ∧ (∀ k, k < 4 → k ≠ ends.turn.ctx → (ends.ctx ends.turn.core k).act = none) ∧ (sealNow ends).toOption.isSome = true := by
  refine ⟨?_, ?_, ?_, ?_, ⟨placeActivation State.reset, ?_⟩, ?_⟩ <;> and_intros <;> decide +kernel

/-- `ends` with one of its own names in a1. -/
def storing : State := ends.modActor fun c => Ctx.regs c [(1, BitVec.ofNat 64 (memory.nameOf 1)), (2, 64#64)]

theorem witness_register_store : readA 1 storing = .ok (storing.actor.a[1], storing) ∧ readA 2 storing = .ok (64#64, storing)
    ∧ (∃ x, viewOpnd 1 false storing = .ok (x, storing) ∧ x.kind ≠ .queue ∧ x.kind ≠ .stream ∧ zCount x.view ≤ laneCount x.ty
      ∧ (readOneBeat x storing).toOption.isSome = true)
    ∧ devOf ((storing.actor.a[1]).toNat % 2 ^ 32) = storing.devidx ∧ storing.devidx < 192 ∧ RoomFor storing.actor 80 := by
  refine ⟨?_, ?_, ⟨{ num := 1, kind := .pool 0, ty := 13, view := viewOf 0 13 0 [(2, 4)] 0, count := some 2 }, ?_⟩, ?_⟩ <;>
    and_intros <;> decide +kernel

theorem witness_hold : holdRange 3 1 ends = .ok ((0, 2), ends) ∧ ends.self.holds &&& holdMask 0 2 = 0#128
    ∧ (ends.modProc 1 fun p => { p with holds := 2#128 }).self.holds &&& holdMask 0 2 ≠ 0#128
    ∧ (holdRange 3 1 (ends.modProc 1 fun p => { p with holds := 2#128 })).toOption.isSome = true := by decide +kernel

/-- Core 0 with no tag complete. -/
def noTag : State := ends.modCore 0 fun k => { k with tagDone := 0#64, tagCnt := [(1, 2), (2, 1)] }

theorem witness_tags : ReadyA noTag ∧ noTag.actor.source 1 = some (2#64, noTag.actor)
    ∧ (noTag.core 0).tagDone &&& (2#64 &&& noTag.self.tagm) = 0#64 ∧ 2#64 &&& noTag.self.tagm ≠ 0#64
    ∧ (ends.core 0).tagDone &&& (2#64 &&& ends.self.tagm) = 2#64 ∧ tagInOutbox 2#64 noTag.actor.outbox = false
    ∧ (noTag.core 0).tagCount 1 = 2 ∧ (noTag.core 0).tagCount 2 = 1 ∧ (noTag.core 0).tagCount 0 = 0 := by
  refine ⟨ready_of ?_, ?_⟩ <;> and_intros <;> decide +kernel

/-- `ends` with a barrier in region 0: expected, pending, further bits. -/
def barred (expected pending more : Nat) : State := ends.modCore 0 fun k =>
  { k with pool := writeBytes k.pool 0x6800 (bytesOfNat 16 (at_ expected 20 44 + at_ pending 20 24 + more)) }

theorem witness_barrier : readA 20 ends = .ok (0x100000000#64, ends) ∧ readA 1 ends = .ok (2, ends)
    ∧ (match ends.barrier 0 0x100000000#64 with
      | .here 0 0x6800 => true
      | _ => false) = true
    ∧ ends.barQueued 0x100000000#64 = false ∧ barInOutbox (barKey 0x100000000#64) ends.actor.outbox = false
    ∧ barPending (ends.barRead 0 0x6800) = 0 ∧ barPending ((barred 2 1 0).barRead 0 0x6800) = 1
    ∧ barPoison ((barred 2 1 16).barRead 0 0x6800) = true ∧ barGen ((barred 2 1 2).barRead 0 0x6800) = 2
    ∧ (noteBarWrite 0 0x6800 ends).toOption.isSome = true := by decide +kernel

/-- The boxes of `ends`. -/
def boxOf (l : Nat) (s e : List Nat) : Box := { lid := l, entry := lay l, start := s, ext := e }

theorem witness_copy : BoxIs ends 10 (boxOf 21 [0, 0] [32, 32]) ∧ BoxIs ends 13 (boxOf 21 [0, 0] [32, 32])
    ∧ MayIssue ends 63 [boxOf 21 [0, 0] [32, 32], boxOf 21 [0, 0] [32, 32]]
    ∧ sizeRules (boxOf 21 [0, 0] [32, 32]) ends = .ok ((), ends) ∧ redDest (lay 21) = true ∧ redDest (lay 20) = true
    ∧ BoxIs ends 16 (boxOf 20 [0, 0] [32, 32]) ∧ isF (layType (lay 21)) = true := by
  refine ⟨?_, ?_, ⟨?_, ?_, ⟨?_, ?_, ?_⟩, ?_⟩, ?_⟩ <;> and_intros <;> (try unfold BoxIs) <;> decide +kernel

theorem witness_gather : BoxIs ends 24 (boxOf 21 [0, 0] [4, 2]) ∧ BoxIs ends 27 (boxOf 22 [0, 0] [4, 4]) ∧ BoxIs ends 4 (boxOf 16 [1] [2])
    ∧ MayIssue ends 0 [boxOf 21 [0, 0] [4, 2], boxOf 22 [0, 0] [4, 4], boxOf 16 [1] [2]]
    ∧ rowRules (boxOf 22 [0, 0] [4, 4]) (boxOf 21 [0, 0] [4, 2]) (boxOf 16 [1] [2]) ends = .ok ((), ends)
    ∧ rowRules (boxOf 22 [0, 0] [4, 4]) (boxOf 21 [0, 0] [4, 2]) (boxOf 16 [1] [2]) ends = .ok ((), ends) := by
  refine ⟨?_, ?_, ?_, ⟨?_, ?_, ⟨?_, ?_, ?_⟩, ?_⟩, ?_⟩ <;> and_intros <;> (try unfold BoxIs) <;> decide +kernel

/-- View 2 of `ends` as a destination. -/
def fillDest : Opnd := { num := 2, kind := .pool 0, ty := 13, view := viewOf 0 13 64 [(2, 4)] 0, count := some 2 }

theorem witness_streams : MayIssue ends 0 [boxOf 16 [1] [2]] ∧ plainBox (boxOf 16 [1] [2]) ends = .ok ((), ends)
    ∧ (boxOf 16 [1] [2]).strips * 64 ≤ 8192 ∧ (regOf ends.actor 0).toNat = 0 ∧ (regOf ends.actor 2).toNat = 1
    ∧ zSpace ends.actor.z[1] = 0 ∧ zOffset ends.actor.z[1] % 64 = 0 ∧ zOffset ends.actor.z[1] + 512 ≤ rsBytes (ends.core 0).partw
    ∧ (ends.actor.streams.any fun t => t.1 = 1) = false ∧ fillable ends.actor.z[2] = true
    ∧ (∃ o, viewOpnd 2 true ends = .ok (o, ends)) ∧ (boxOf 16 [1] [2]).count = zDim ends.actor.z[2] 0
    ∧ fwActive ((ends.core 0).fwin[7]) = false ∧ zOffset ends.actor.z[2] + fillBytes ends.actor.z[2] < 2 ^ 16 := by
  refine ⟨⟨?_, ?_, ⟨?_, ?_, ?_⟩, ?_⟩, ?_, ?_, ?_, ?_, ?_, ?_, ?_, ?_, ?_, ⟨fillDest, ?_⟩, ?_⟩ <;> and_intros <;>
    decide +kernel

theorem witness_jobs : tileOf 3 ends = .ok (0x4000, ends) ∧ MayIssue ends 0 [] ∧ BoxIs ends 10 (boxOf 21 [0, 0] [32, 32])
    ∧ (boxOf 21 [0, 0] [32, 32]).count = 1024 ∧ laySpace (lay 21) ≤ 3 ∧ plainBox (boxOf 21 [0, 0] [32, 32]) ends = .ok ((), ends)
    ∧ operandRules [boxOf 21 [0, 0] [32, 32], boxOf 21 [0, 0] [32, 32]] false ends = .ok ((), ends)
    ∧ redBox (boxOf 20 [0, 0] [32, 32]) = true ∧ BoxIs ends 21 (boxOf 21 [0, 0] [16, 32])
    ∧ operandRules [boxOf 21 [0, 0] [16, 32], boxOf 21 [0, 0] [16, 32]] true ends = .ok ((), ends)
    ∧ ringTarget ends.self.ringw ends = .ok (ends.self.ringw.toNat, ends) := by
  refine ⟨?_, ⟨?_, ?_, ⟨?_, ?_, ?_⟩, ?_⟩, ?_⟩ <;> and_intros <;> (try unfold BoxIs) <;> decide +kernel

theorem witness_job_records : let s := ends.modCore 0 fun k => { k with jobs := [(0, none)] }
    s.actor.source 1 = some (2#64, s.actor) ∧ jobInOutbox ((2#64).toNat / 64 % 1024) s.actor.outbox = false
      ∧ (s.core 0).jobStatus ((2#64).toNat / 64 % 1024) = none ∧ (ends.core 0).jobStatus 0 = some 4 ∧ ends.self.tagm.getLsbD 63 = true := by
  decide +kernel

/-- A start entry on array 0 in a20-a22: notify register 0, COUNT 1. -/
def graphing : State := ends.modActor fun c => Ctx.regs c [(20, 0x1010101010#64), (21, 1#64), (22, 0#64)]

theorem witness_graphs : let l : LStart := { w0 := regOf graphing.actor 20, w1 := regOf graphing.actor 21, w2 := regOf graphing.actor 22 }
    l.ok = true ∧ graphing.allotted l.array l.notify graphing.activity.part = true ∧ graphing.actor.sealed = false ∧ outBytes graphing.actor.outbox + 32 ≤ 1024
      ∧ graphing.actor.sources 3 3 = some (0#64, 0#64, graphing.actor) ∧ graphing.actor.sources 3 2 = some (0#64, 1#64, graphing.actor)
      ∧ (find (graphing.lintel 0).notify 0 (0, 0)).2 = 0 := by decide +kernel

/-! ## Vector instructions -/

/-- `ends` with the given queues, no predicate but p1 = 5, and views 5 to 9: queues of 16 FP32, 4 U32, 64 L6B, one U8 and 64
BF16 elements. -/
def queued (q0 : List QEntry) (q2 : List Word) : State := ends.modActor fun c => { c with
  q0 := q0, q1 := [], q2 := q2, q3 := [], p := c.p.set 1 5#64
  z := ([(5, viewOf 5 0 0 [(16, 0)] 0), (6, viewOf 5 13 0 [(4, 0)] 0), (7, viewOf 5 6 0 [(64, 0)] 0), (8, viewOf 5 9 0 [(1, 0)] 0),
    (9, viewOf 5 1 0 [(64, 0)] 0), (10, viewOf 5 0 0 [(2, 0)] 0), (11, viewOf 5 13 0 [(2, 0)] 0), (12, viewOf 5 3 0 [(4, 0)] 0)] :
      List (Nat × BitVec 256)).foldl (fun v e => v.setIfInBounds e.1 e.2) c.z }

/-- Strips of FP32 1.0 and 2.0 in each lane. -/
def ones : QEntry := stripOf 0 (List.replicate 16 0x3F800000)
def twos : QEntry := stripOf 0 (List.replicate 16 0x40000000)

theorem queued_ready (q0 : List QEntry) (q2 : List Word) : ReadyE (queued q0 q2) := by
  refine ⟨rfl, ⟨rfl, rfl, rfl, rfl, rfl, rfl⟩, rfl, rfl, nofun, fun k hk hne => ?_⟩
  rcases k with _ | _ | _ | _ | k
  · exact absurd rfl hne
  · rfl
  · rfl
  · rfl
  · omega

/-- No other core of the cluster runs anything. -/
theorem queued_sfu : SfuFree (queued [] []) := by
  have all : ∀ m < 8, m ≠ 0 → ∀ k < 4, ((queued [] []).ctx m k).status ≠ .running := by decide +kernel
  have here : (queued [] []).turn.core = 0 := rfl
  refine ⟨by decide +kernel, fun m k h ne hk => all m ?_ ?_ k hk⟩ <;> omega

theorem witness_elementwise : tyFI 0#4 = true ∧ tyFI 13#4 = true ∧ ones.isOf 0 ∧ twos.isOf 0
    ∧ (queued [ones, twos, ones] []).actor.q0 = [ones, twos] ++ [ones] ∧ (queued [ones, twos, ones] []).actor.q1.length < 16
    ∧ (queued [] [1, 2, 3]).actor.q2 = [1, 2] ++ [3] ∧ (queued [] [1, 2, 3]).actor.q3.length < 8
    ∧ (let s := (queued [ones] []).routeE (.vadd 1 2 2 13)
      let o := (operandsOf 1 [2, 2] 13 s).toOption
      (o.map fun r => (planOf (some r.1.1) r.1.2 (laneCount 13) s).toOption.isSome) = some true) := by
  refine ⟨?_, ?_, ⟨?_, rfl⟩, ⟨?_, rfl⟩, ?_⟩ <;> and_intros <;> decide +kernel

theorem witness_immediate_vector : QueueView (queued [ones] []) 5 0 16 ∧ QueueView (queued [ones] []) 12 3 4
    ∧ (queued [ones] []).actor.q0 = [ones] ∧ okFI 0 = true := by
  and_intros <;> (try unfold QueueView) <;> decide +kernel

/-- A strip of U32 indices. -/
def indices : QEntry := stripOf 13 [3, 0, 15, 16]

theorem witness_reductions : let s := queued [ones, indices] []
    QueueView s 5 0 16 ∧ QueueView s 6 13 4 ∧ QueueView s 10 0 2 ∧ QueueView s 11 13 2 ∧ ones.isOf 0 ∧ indices.isOf 13
      ∧ s.actor.q0 = [ones, indices] ∧ s.actor.q1.length < 15 ∧ s.actor.q3.length < 8 ∧ tyFI 0 = true := by
  refine ⟨?_, ?_, ?_, ?_, ⟨?_, rfl⟩, ⟨?_, rfl⟩, ?_⟩ <;> (try unfold QueueView) <;> decide +kernel

/-- BF16 ones; 64 L6B codes; a scale. -/
def halves : QEntry := stripOf 1 (List.replicate 32 0x3F80)
def sixes : QEntry := stripOf 6 (List.replicate 64 5)
def scale : QEntry := stripOf 9 [127]

theorem witness_conversions : okMove 1 = true ∧ okMove 2 = true ∧ halves.isOf 1 ∧ laneCount 1 = laneCount 2
    ∧ (let s := queued [halves, halves] []
      let v := s.actor.z[9]
      zMalformed v = false ∧ zSpace v = 5 ∧ zType v = 1 ∧ zRank v = 1 ∧ zDim v 0 = 64 ∧ zRdonly v = false ∧ QueueView s 7 6 64
        ∧ QueueView s 8 9 1 ∧ s.actor.q0 = [halves, halves] ∧ s.actor.q1.length < 15)
    ∧ sixes.isOf 6 ∧ scale.isOf 9 ∧ (∀ j, j < 64 → laneAt 6 sixes j ≠ reservedL6) := by
  refine ⟨?_, ?_, ⟨?_, rfl⟩, ?_, ⟨?_, ?_, ?_, ?_, ?_, ?_, ?_, ?_, ?_, ?_⟩, ⟨?_, rfl⟩, ⟨?_, rfl⟩, ?_⟩ <;> (try unfold QueueView) <;>
    decide +kernel

theorem witness_predicates : let s := queued [ones, twos] [3]
    ones.isOf 0 ∧ twos.isOf 0 ∧ s.actor.q0 = [ones, twos] ∧ s.actor.q1.length < 16 ∧ s.actor.q3.length < 8 ∧ s.actor.q2 = [3] := by
  refine ⟨⟨?_, rfl⟩, ⟨?_, rfl⟩, ?_⟩ <;> and_intros <;> decide +kernel

theorem witness_views : let s := queued [] [0x10000]
    s.actor.q2 = [0x10000] ∧ (0xFFFFFFFF#64).toNat < 2 ^ 32 ∧ (0xFFFF#64).toNat < 2 ^ 16 ∧ -2 ^ 31 ≤ (-2147483648#64).toInt
      ∧ (s.actor.streams.any fun t => t.1 = 5) = false
      ∧ (tagView 1 (s.routeE (.vtag 1 0 13))).toOption.isSome = true ∧ (tagView 1 (s.routeE (.vtagrd 1))).toOption.isSome = true := by
  decide +kernel

/-- The driver of VADD on views 1 and 2 runs. -/
theorem witness_vector_frame : (let s := (queued [] []).routeE (.vadd 1 2 2 13)
    match operandsOf 1 [2, 2] 13 s with
    | .ok ((o, xs), t) => (match planOf (some o) xs (laneCount 13) t with
      | .ok (p, u) => (runEach p {} (fun _ => fun v => (src v 0, 0#6)) u).toOption.isSome
      | .error _ => false)
    | .error _ => false) = true := by
  decide +kernel

/-- The driver of VEXP2 on views of 16 elements, which is one beat, and of 32, of which the first is ready. -/
theorem witness_special : (let z := viewOf 0 0 0
    let s := fun (n : Nat) => ((ends.modActor fun c => { c with z := c.z.setIfInBounds 13 (z [(n, 4)] 0) }).routeE (.vexp2 13 13 0))
    let plan := fun (n : Nat) => match operandsOf 13 [13] 0 (s n) with
      | .ok ((o, xs), t) => (planOf (some o) xs (laneCount 0) t).toOption.map Prod.fst
      | .error _ => none
    match plan 16, plan 32 with
    | some p, some q => decide (p.beats = 1) && (runEach p {} (fun _ => fun v => (src v 0, 0#6)) (s 16)).toOption.isSome
      && decide (1 < q.beats) && (match beginBeats q {} (s 32) with
        | .ok (_, t) => decide (q.ready t 0 = .go) && (eachBeat q {} (fun _ => fun v => (src v 0, 0#6)) 0 t).toOption.isSome
        | .error _ => false)
    | _, _ => false) = true := by
  decide +kernel

/-! ## Rows without an encoding -/

/-- A state at the turn of a row. -/
def State.at (s : State) (t : Turn) : State := { s with turn := t }

/-- A mailbox command in progress, with a length. -/
def mailed (code len : Nat) (t : Turn) : State :=
  State.at { State.reset with keystone := { busy := true, cmd := BitVec.ofNat 64 (at_ code 8 0 + at_ len 16 16) } } t

theorem witness_devices : MailIs (mailed 0x40 0 {}) 0x40 ∧ State.reset.keystone.fails < 3 ∧ State.reset.keystone.stage ≠ 7
    ∧ State.reset.keystone.minimal = false ∧ ¬(1 ≤ State.reset.turn.val ∧ State.reset.turn.val ≤ 6)
    ∧ (State.at State.reset { val := 6 }).turn.val ≤ 6 ∧ (mailed 0x40 0 {}).keystone.fails < 3 := by
  refine ⟨⟨?_, ?_, ?_⟩, ?_⟩ <;> decide +kernel

/-- A PART_SET request in the buffer: column 47, 1 GiB of HBM at 2 GiB, VALID. -/
def partRequest (words : List Word) : State :=
  let s := mailed 1 128 { unit := 1, words := words }
  { s with keystone := { s.keystone with buffer := writeNat (writeNat s.keystone.buffer 0 64
      (at_ 0x800000000000 48 464 + at_ 0x40000000 64 320 + at_ 0x80000000 64 256 + 1)) 64 64 0 } }

theorem witness_part_set : MailIs (partRequest []) 1 ∧ (partRequest []).turn.unit < 8 ∧ (partRequest []).keystone.len = 128
    ∧ (let q : Partition := { record := recordOf (BitVec.ofNat 512 (readNat (partRequest []).keystone.buffer 0 64)),
                              aperture := apertureOf (BitVec.ofNat 512 (readNat (partRequest []).keystone.buffer 64 64)) }
      q.valid = true ∧ (partRequest []).partRefused 1 q = false
        ∧ ({ partRequest [] with parts := [(0, placePart)] } : State).partRefused 1 q = true)
    ∧ ({} : Partition).valid = false ∧ (mailed 1 128 { unit := 1 }).partRefused 1 {} = false := by
  refine ⟨⟨?_, ?_, ?_⟩, ?_⟩ <;> decide +kernel

theorem witness_mailbox : MailIs (mailed 0x10 0 { sub := 1, val := 4 }) 0x10 ∧ (mailed 0x10 0 { sub := 1 }).keystone.leaf < 2 ^ 20
    ∧ (mailed 0x10 0 { sub := 1 }).turn.ok = true ∧ MailIs (mailed 0x20 4 {}) 0x20 ∧ MailIs (mailed 2 16 {}) 2
    ∧ devRegAt ((mailed 2 16 {}).keystone.word 0).toNat = none ∧ devRegAt 0x8000 = some .pctl := by
  refine ⟨⟨?_, ?_, ?_⟩, ?_, ?_, ⟨?_, ?_, ?_⟩, ⟨?_, ?_, ?_⟩, ?_⟩ <;> decide +kernel

/-- A device-register write of PCTL. -/
theorem witness_dev_set : let s := mailed 2 16 {}
    let t : State := { s with keystone := { s.keystone with buffer := writeNat s.keystone.buffer 0 8 0x8000 } }
    t.keystone.busy = true ∧ t.keystone.cmd.toNat % 256 = 2 ∧ t.keystone.minimal = false
      ∧ devRegAt (t.keystone.word 0).toNat = some .pctl := by decide +kernel

/-- Partition 0 with a window of CXL memory, and CKPT_START into it. -/
def cutting : State :=
  let s := mailed 0x30 16 { unit := 0, words := [0x1000000000000#64, 0x0#64] }
  { s with parts := [(0, { record := BitVec.ofNat 512 (at_ 0x800000000000 48 464 + at_ 0x4000000 64 320 + 1),
                           aperture := BitVec.ofNat 512 (at_ 0x1000000000000 64 128 + at_ 0x8000000 64 192) })] }

theorem witness_checkpoint : MailIs cutting 0x30 ∧ cutting.turn.unit < 8 ∧ (cutting.part 0).valid = true
    ∧ (cutting.part 0).destOk (cutting.given 0).toNat = true ∧ (cutting.part 0).mbase ≤ (cutting.given 1).toNat
    ∧ (cutting.given 1).toNat + 2 ^ 26 ≤ (cutting.part 0).mbase + (cutting.part 0).msize ∧ cutting.cutting 0 = false := by
  refine ⟨⟨?_, ?_, ?_⟩, ?_⟩ <;> decide +kernel

/-- Partition 0 with window 3 open on channel 0; an event waits; a ring of events. -/
def hosted (busy : Bool) (t : Turn) : State := State.at
  { base with chans := [(0, {})]
              parts := put base.parts 0 { placePart with windows := [(3, { busy := busy, chan := some 0, evbase := 0x1000#64, waiting := [{ code := 7 }] })] } }
  t

theorem witness_host_windows : let s := hosted false { unit := 0, sub := 3, words := [4#64] }
    s.turn.unit < 8 ∧ s.turn.sub < 16 ∧ s.turn.val ≠ 1 ∧ (s.part 0).valid = true ∧ (s.part 0).frozen = false
      ∧ (s.window 0 3).chan = some 0 ∧ (s.window 0 3).busy = false ∧ ((hosted true {}).window 0 3).busy = true
      ∧ s.windowOut 0 3 = false ∧ (s.window 0 3).waiting = [{ code := 7 }] ∧ (s.window 0 3).evbase ≠ 0#64
      ∧ ((s.window 0 3).prod + 2 ^ 16 - (s.window 0 3).cons) % 2 ^ 16 ≠ 64 := by decide +kernel

theorem witness_host_memory : let s := hosted false { unit := 0, sub := 0x200000, val := 4096, bytes := [1#8, 2#8] }
    s.turn.bytes ≠ [] ∧ s.turn.sub + s.turn.bytes.length ≤ (s.part 0).msize ∧ s.stageFull ((s.part 0).mbase + s.turn.sub) = false
      ∧ (hosted false { sub := 0x200000, val := 4096 }).turn.bytes = []
      ∧ (let q : Partition := { record := BitVec.ofNat 512 (0xC0000000 * 2 ^ 320 + 1) }
        q.msize = 0xC0000000 ∧ q.msize < 0xC0000000 + 1 ∧ 0xC0000000 + 1 ≤ bar2Size q.msize ∧ bar2Size 0x8000000000 = 0x8000000000) := by
  decide +kernel

theorem witness_host_requests : let s : State := { (ctxIs fun c => { c with pend := some { id := 5 } }) with hostReqs := [{ addrs := [0x800000000000], req := 5 }] }
    s.hostReqs = [{ addrs := [0x800000000000], req := 5 }] ∧ ((s.ctx 0 0).pend.map Pend.id) = some 5 := by decide +kernel

/-- A store to HOST that waits at N0, and an invalidation that waits for a load which used its translation. -/
theorem witness_host_stores : let s : State := { base with hostReqs := [{ addrs := [0x800000000000], bytes := some [7#8], req := 5 }] }
    (s.hostReqs.map HostReq.bytes) = [some [7#8]]
      ∧ (let t := fun (users : List Nat) (held : List (Word × Word)) => { s with dies := [(0, { done := false, users := users, held := held })] }
        (s.hostReqs.any fun r => ((t [5] []).die 0).users.contains r.req) = true
          ∧ (s.hostReqs.any fun r => ((t [6] []).die 0).users.contains r.req) = false
          ∧ ((t [6] []).die 0).held = [] ∧ ((t [6] [(1, 0)]).die 0).held = [(1, 0)] ∧ fieldOf (0#64) 6 4 < 6 ∧ 6 ≤ fieldOf (0x60#64) 6 4) := by
  decide +kernel

theorem witness_registers : let s := State.at base { val := 8, words := [0x4000#64] }
    s.turn.val = 8 ∧ s.turn.unit < 4 ∧ (s.die 0).done = true ∧ fieldOf (s.given 0) 6 4 < 6
      ∧ (({ s with dies := [(0, { done := false })] } : State).die 0).done = false
      ∧ (({ s with dies := [(0, { done := false, held := [(1#64, 2#64)] })] } : State).die 0).held = [(1#64, 2#64)]
      ∧ DevReg.writable 0 0#64 (.fillmask 1 0) = true ∧ DevReg.writable 0 0#64 (.pcnt 0 63) = true
      ∧ (State.at base { val := 0, unit := 0x1800, sub := 1 }).keystone.busy = false ∧ (mailed 1 0 { unit := 0x1800, sub := 1 }).keystone.busy = true
      ∧ DevReg.writable 0 0#64 (.sring 0) = true := by decide +kernel

/-- Core 0 with a sample period that has passed, at clock 64. -/
def sampled : State := { (base.modCore 0 fun k => { k with samplep := 64#32 }) with cyc := 64, time := 60 }

theorem witness_samples : (sampled.core 0).samplep ≠ 0#32 ∧ (sampled.core 0).sampleAt + (sampled.core 0).samplep.toNat ≤ sampled.cyc
    ∧ (sampled.core 0).sampleNext = some 0 ∧ (sampled.ctx 0 0).act.isSome = true
    ∧ ((State.reset.modCore 0 fun k => { k with samplep := 64#32 }).core 0).sampleNext = none := by decide +kernel

/-- A cluster that has been idle since time 0, its partition's LATTOL in microseconds. -/
def idling (us : Nat) (time : Nat) : State :=
  let s : State := { State.reset with parts := [(0, { placePart with lattol := us })], clusters := [(0, { idleSince := some 0 })] }
  { s with time := time, procs := [(1, { name := 1, state := .resident })] }

theorem witness_idle : (idling 50 500000).clusterIdle 0 = true ∧ (idling 50 500000).clusterPart 0 = some 0
    ∧ ((idling 49 20000).cluster 0).idleSince = some 0 ∧ ((idling 1 0).cluster 0).idle = .run ∧ base.clusterIdle 0 = false
    ∧ (idling 30000 0).idle = .run ∧ (idling 30000 0).quiet = true ∧ (idling 30000 0).planAwake.any (idling 30000 0).works = false
    ∧ (∀ c ∈ (idling 30000 0).clusters.map Prod.fst, (idling 30000 0).clusterIdle c = true)
    ∧ (idling 30000 0).deviceIdle = some .i4 ∧ (idling 2000 0).deviceIdle = some .i3 ∧ (idling 30000 0).leastLattol = some 30000
    ∧ (idling 1999 0).deviceIdle = none ∧ ((State.modCluster (idling 50 500000) 0 fun k => { k with idle := .i1 }).cluster 0).idle = .i1
    ∧ (State.modCluster (idling 50 500000) 0 fun k => { k with idle := .i1 }).clusterIdle 0 = true := by decide +kernel

theorem witness_time : let p : PodPacket := { src := 1, dst := 0, body := .time 77 }
    takeFirst (fun (q : PodPacket) => q.dst == State.reset.devidx && q.body.timeOf.isSome && !q.stomped) [p] = some (p, [])
      ∧ 0 < ({ State.reset with devidx := 1 } : State).devidx ∧ State.reset.devidx ∈ [0, 3] ∧ (∀ x ∈ [0, 3], State.reset.devidx ≤ x)
      ∧ State.reset.slew = 0 ∧ ({ State.reset with devidx := 1 } : State).devidx ∉ [0, 3] := by
  decide +kernel

/-- A start of which slot A of the firmware, both slots, or another image does not verify. -/
def starting (bits : Nat) (val : Nat) : State :=
  State.at State.reset { val := val, words := List.replicate 14 0#64 ++ [BitVec.ofNat 64 bits, 0#64, 0#64, 0#64] }

theorem witness_verification : ((starting 0 0).verifies 0 = true ∧ (starting 0 0).verifies 2 = true ∧ (starting 0 0).failsAt = 0)
    ∧ ((starting 1 0).verifies 0 = false ∧ (starting 1 0).verifies 1 = true) ∧ ((starting 5 0).verifies 0 = false ∧ (starting 5 0).verifies 1 = false)
    ∧ ((starting 16 0).verifies 0 = true ∧ (starting 16 0).verifies 2 = false) ∧ (starting 0 6).failsAt = 6 := by decide +kernel

/-- A request of a code in the buffer, at leaf `leaf`; a message of that request over MCTP. -/
def asked (code : Byte) (leaf : Nat) (ok : Bool) : State :=
  let s := mailed 0x10 4 { ok := ok, bytes := [0x12#8, code, 0#8, 0#8] }
  { s with keystone := { s.keystone with buffer := writeBytes s.keystone.buffer 0 [0x12#8, code, 0#8, 0#8], leaf := leaf } }

theorem witness_requests : MailIs (asked 0x83 5 true) 0x10
    ∧ (readBytes (asked 0x83 5 true).keystone.buffer 0 (min 4096 (asked 0x83 5 true).keystone.len)).getD 1 0#8 = 0x83#8
    ∧ (asked 0x83 5 true).keystone.leaf < 2 ^ 20 ∧ (asked 0x83 5 true).turn.ok = true ∧ (asked 0x83 5 false).turn.ok = false
    ∧ ¬(asked 0x83 (2 ^ 20) true).keystone.leaf < 2 ^ 20 ∧ (asked 0x84 5 true).turn.bytes.getD 1 0#8 = 0x84#8
    ∧ ((asked 0x99 5 true).turn.bytes.getD 1 0#8).toNat ∉ [0x84, 0xE1, 0xE3, 0x81, 0x82, 0x83, 0xE0] := by
  refine ⟨⟨?_, ?_, ?_⟩, ?_⟩ <;> and_intros <;> decide +kernel

/-! ## Rows of the memory system -/

/-- The home of the line at 2 MiB, and a cluster on its die. -/
def home2 : Home := homeOf 0x200000

theorem witness_load_returns : let s := ctxIs fun c => { c with q0 := [ones, { awaits := true }, ones] }
    let t := ctxIs fun c => { c with pend := some { kind := .load, dest := 3, ty := 12, reply := some { value := 5#64 } } }
    s.actor.pend = none ∧ s.actor.q0 = [ones] ++ { awaits := true } :: [ones] ∧ ones.awaits = false
      ∧ (({ awaits := true } : QEntry).req) = none ∧ t.actor.issues = true
      ∧ (t.actor.pend.bind Pend.reply).map Reply.fault = some none := by decide +kernel

theorem witness_slices : let s := State.at base { sub := 0x200000, val := 0, unit := home2.cluster }
    inHbm 0x200000 = true ∧ inHbm (0x200000 + s.turn.bytes.length) = true ∧ dieOf (s.turn.core / 8) = home2.die
      ∧ clusterOk s.turn.unit = true ∧ dieOf s.turn.unit = home2.die ∧ (s.lineSet home2).hit 0x200000 = none
      ∧ (s.lineSet home2).victim (s.eligible home2.die 0 false) = some 0
      ∧ (let t := s.modSet home2 fun u => { u with ways := [(5, { state := .clean, line := 0x200000 })] }
        (t.lineSet home2).hit 0x200000 = some 5) := by decide +kernel

/-- A die's message that may be applied. -/
def told : DieMsg := { src := 1, dst := 0, line := 0x2000000000, vec := [0, 1, 0, 0, 0, 0, 0, 0] }

theorem witness_between_dies : let s := State.at { base with dieMsgs := [told] } { unit := 0, sub := 0x2000000000 }
    takeFirst (fun m => m.dst == 0 && (m.line == 0x2000000000) && s.dieReady m) s.dieMsgs = some (told, [])
      ∧ (s.lineSet (cachingOf 0x200000 1)).hit 0x200000 = none := by decide +kernel

theorem witness_accumulators : inHbm 0x300000 = true ∧ 0x300000 % 16 = 0 ∧ accOf 0 0x3F800000 = (2 ^ 64, false)
    ∧ (2 ^ 127 - 1 : Int) ≠ -2 ^ 127 ∧ (2 ^ 64 : Int) ≠ -2 ^ 127 ∧ 2 ^ 127 - 1 < (2 ^ 127 - 1 : Int) + 2 ^ 64 := by decide +kernel

theorem witness_atomic_rows : let s := State.at base { sub := 0x200000, val := 13 * 16 + 9, words := [0#64, 7#64] }
    let w := State.at base { sub := 0x8000, val := 13 * 16 + 11, words := [0#64] }
    atomicType s.rowAtomic.op s.rowAtomic.ty = true ∧ (s.atomicAt s.issuer 0x200000 s.rowAtomic).1 = .reply 0 1
      ∧ (w.atomicAt w.issuer 0x200000 w.rowAtomic).1 = .watch ∧ (w.atomicPad w.issuer 0 0x8000 w.rowAtomic).1 = .watch
      ∧ (s.atomicPad s.issuer 0 0x8000 s.rowAtomic).1 = .reply 0 1 := by decide +kernel

theorem witness_walks : let x : Access := { part := 0, super := false, kind := 0, va := 0x200000, cluster := 0, core := none }
    (match base.translate x with
      | .ok (a, _) => a == 0x200000
      | .error _ => false) = true ∧ base.tlbHit x = none
    ∧ (match base.translate { x with va := 0x40000000 } with
      | .ok _ => false
      | .error e => e.1 == .notPresent) = true
    ∧ (match ({ base with badLines := [0x10000] } : State).translate x with
      | .ok _ => false
      | .error e => e.1 == .tablePoison) = true := by decide +kernel

/-- Slice 0 of cluster 0 and core 0 with a watch whose time has passed, and an open window. -/
def timed : State :=
  let w : Watch := { addr := 0x8000, width := 4, tmo := 5 }
  let s := (base.modCore 0 fun k => { k with watches := [w] }).modCluster 0 fun k => { k with
    slices := [(0, { watches := [{ w with addr := 0x200000 }], windows := [{ line := 0x200000, joined := [0, 1] }] })] }
  { s with cyc := 32 }

theorem witness_watches : takeFirst (fun (w : Watch) => w.tmo != 0 && decide (w.since + w.tmo ≤ timed.cyc))
      (find (timed.cluster 0).slices 0 {}).watches = some ({ addr := 0x200000, width := 4, tmo := 5 }, [])
    ∧ takeFirst (fun (w : Watch) => w.tmo != 0 && decide (w.since + w.tmo ≤ timed.cyc)) (timed.core 0).watches
      = some ({ addr := 0x8000, width := 4, tmo := 5 }, [])
    ∧ (timed.sliceAt { die := 0, cluster := 0, slice := 0, set := 0 }).windows.find?
      (fun w => decide (w.since + (timed.die (dieOf 0)).mcwin ≤ timed.cyc)) = some { line := 0x200000, joined := [0, 1] } := by
  decide +kernel

/-- A die's message vector merges modulo 2^16 (11 R242); cluster 1310's stack and channel (01 R9, R13). -/
theorem witness_counts : laterCount 65535 2 = 2 ∧ laterCount 2 65535 = 2 ∧ clusterOk 1310 = true := by decide +kernel

theorem witness_barrier_operation : let o : BarOp := { part := 0, ref := 0x100000000#64, poison := true }
    ((ends.barApply o).isSome = true) ∧ ({ ends with barOps := [o] } : State).barOps = [o] := by decide +kernel

/-! ## Rows of Mortar and the pod -/

/-- Cluster 0 with packets at inputs 12 and 13 for clusters 0 and 1, and one in the outgoing queue to the east. -/
def routed : State := base.modRouter 0 fun r => { r with
  inp := [(12, [{ dst := [0], body := .event 5 {} }]), (13, [{ dst := [1], body := .event 5 {} }])], out := [(0, [{ dst := [2], body := .event 5 {} }])] }

theorem witness_mortar : clusterOk 0 = true ∧ find (routed.cluster 0).router.inp 12 [] = [{ dst := [0], body := .event 5 {} }]
    ∧ mortarOut 0 1 = 0 ∧ (routed.cluster 0).router.admits 4 0 1 = true ∧ (routed.absorb (.event 5 {})).isSome = false
    ∧ routed.linkClass 0 0 = some 0 ∧ ((routed.cluster 0).router).nextOut 0 0 = some { dst := [2], body := .event 5 {} } := by
  decide +kernel

/-- A packet of the pod of device 1 for device 0, at the input of port 3. -/
def arriving (b : PodBody) : State := base.setInput 3 [{ src := 1, dst := 0, body := b }]

theorem witness_pod : ((State.reset.modPort 0 fun h => { h with state := .up }).port 0).state = .up
    ∧ ((State.reset.modPort 0 fun h => { h with state := .training }).port 0).state = .training
    ∧ takeFirst (fun (p : PodPacket) => p.dst == (arriving (.store 0x200000 [1] 0)).devidx && !p.ownRow)
      ((arriving (.store 0x200000 [1] 0)).inputOf 3) = some ({ src := 1, dst := 0, body := .store 0x200000 [1] 0 }, [])
    ∧ (arriving (.drain 0)).stampMet { src := 1 } = true
    ∧ (arriving (.drain 0)).stampMet { src := 1, stamp := some [1, 0, 0, 0] } = false
    ∧ ((arriving (.store 0x200000 [1] 0)).takeFar 1 { src := 1, dst := 0, body := .store 0x200000 [1] 0 }).isSome = true
    ∧ (arriving (.marker 0)).markMet { src := 1, dst := 0, body := .marker 0 } = true
    ∧ (arriving (.marker 0)).markMet { src := 1, dst := 0, body := .marker 1 } = false
    ∧ (takeFirst (fun (p : PodPacket) => p.dst == 0 && p.body.isAck && !p.stomped) ((arriving (.ack true)).inputOf 3)).isSome = true
    ∧ (match base.translateFar 1 {} 1 0x200000 with
      | .ok (a, u) => a == 0x200000 && !u.farBusy 1 a
      | .error _ => false) = true ∧ base.landingsOut = false ∧ base.stamped = [] := by decide +kernel

/-- Port 0 up, and a packet for device 1 injected here. -/
def leavingPod : State := State.at { base with ports := [(0, { state := .up })], inject := [{ dst := 1, body := .time 5 }] } {}

theorem witness_forward : ∃ i p, bestOf (leavingPod.port 0).last
      ((leavingPod.modPort 0 fun h => h.hear leavingPod.farFree).wanting 0 false) = some (i, p)
    ∧ p.stomped = false ∧ bestOf (leavingPod.port 0).last
      ((leavingPod.modPort 0 fun h => h.hear leavingPod.farFree).wanting 0 true) = none
    ∧ (let s : State := { leavingPod with ports := [] }
      (bestOf (s.port 0).last ((s.modPort 0 fun h => h.hear s.farFree).wanting 0 true)).map Prod.fst = some 12) := by
  refine ⟨12, { dst := 1, body := .time 5 }, ?_⟩
  and_intros <;> decide +kernel

/-- A packet of each kind that count markers and drains know, at port 3; a drain whose markers are out. -/
def stomps : State := base.setInput 3 [{ src := 1, dst := 0, body := .store 0x200000 [1] 0, stomped := true }]
def drained (out : Option (List (Nat × Nat))) (t : Turn) : State := State.at { base with draining := [⟨1, out⟩] } t

theorem witness_pod_waits : let s := { (ctxIs fun c => { c with podFence := some { paths := [(1, 0)] }, pend := some { remote := true } }) with time := 80000 }
    (s.actor.podFence.map PodFence.since) = some 0 ∧ 0 + 4000 * s.pftmo ≤ s.time ∧ s.actor.issues = true ∧ s.actor.eq = []
      ∧ (let w : MarkWait := { pkt := { body := .marker 1 } }
        let m : State := { base with time := 20000, marks := [w] }
        takeFirst (fun (w : MarkWait) => decide (w.since + 1000 * m.pftmo ≤ m.time) && !m.countMet w.pkt) m.marks = some (w, []))
      ∧ takeFirst (fun (p : PodPacket) => p.stomped) (stomps.inputOf 3)
        = some ({ src := 1, dst := 0, body := .store 0x200000 [1] 0, stomped := true }, []) := by decide +kernel

/-- A store of another device that was counted and waits for room in the staging buffer, and one that waits for its stamp. -/
theorem witness_ordered_release : let p : PodPacket := { src := 1, dst := 0, body := .store 0x200000 [1] 0 }
    let s : State := { base with farWait := [(1, [p])], stamped := [(0, [p])] }
    let t : State := { s with farWait := put s.farWait 1 [] }
    find s.farWait 0 [] = [] ∧ takeFirst s.stampMet (find s.stamped 0 []) = some (p, []) ∧ find s.farWait 1 [] = [p] ∧ t.stampMet p = true
      ∧ (t.takeFar 1 p).isSome = true ∧ ({ s with stamped := [] } : State).takeFar 0 p ≠ none ∧ p.counted = true := by decide +kernel

theorem witness_drains : let s := drained none { val := 1, words := [2#64] }
    let back := fun (out : List (Nat × Nat)) => (drained (some out) {}).setInput 3 [{ src := 2, dst := 0, path := 1, cls := 1, body := .drain 1 }]
    s.draining.find? (fun y => y.slot == s.turn.val && y.out.isNone) = some ⟨1, none⟩
      ∧ (s.turn.words.map BitVec.toNat).filter (· != s.devidx) = [2] ∧ s.landingsOut = false
      ∧ (({ base with chans := [(0, { draining := true })] } : State).chan 0).draining = true
      ∧ (takeFirst (fun (p : PodPacket) => p.dst == 0 && p.body.drains.isSome && !p.stomped) ((back [(2, 1)]).inputOf 3)).map
        (fun r => (r.1.body.drains, r.1.cls)) = some (some 1, 1)
      ∧ [(2, 1)].erase (2, 1) = ([] : List (Nat × Nat)) ∧ [(2, 1), (2, 3)].erase (2, 1) ≠ ([] : List (Nat × Nat)) := by decide +kernel

/-! ## Rows of the engines -/

/-- A copy of elements 1 and 2 of layout 16 to the start of layout 21, from context 0 of core 0. -/
def aCopy : CopyCmd := { src := boxOf 16 [1] [2], dst := { lid := 23, entry := layOf 0 13 0x210000 [(2, 1)] 0, start := [0], ext := [2] },
                         count := 2, tag := 3, name := memory.nameOf 1 }

/-- The sealed outbox of `ends` with an entry. -/
def sealedWith (e : OutEntry) : State := ends.modActor fun c => { c with sealed := true, outbox := [e] }

/-- A hod queue with a command. -/
def hodWith (c : CopyCmd) : State := ends.modCluster 0 fun k => { k with hod := [(0, [.cmd c])] }

theorem witness_outbox : (canLeave (.close 2) (sealedWith (.close 2))).toOption.map Prod.fst = some none
    ∧ aCopy.sys = none ∧ cmdCount (find ((sealedWith (.copy aCopy)).cluster 0).hod aCopy.queue []) < 32
    ∧ jobCount (find ((sealedWith (.job {})).cluster 0).mat 0 []) < 8 ∧ (sealedWith (.close 2)).actor.sealed = true
    ∧ (({ ends with procs := put ends.procs 1 { ends.proc 1 with ends := [(1, { state := .held, loc := some 9 })] } } : State).self.endAt 1).loc
      = some 9 := by decide +kernel

theorem witness_hod : let s := hodWith aCopy
    (∀ q ∈ (s.cluster 0).hod, hodFences q.2 = []) ∧ s.hodHead 0 0 = some aCopy ∧ s.copyReady aCopy = true ∧ aCopy.stopped = false
      ∧ (grantQueue 16 (fun q => match s.hodHead 0 q with
          | some c => if s.copyReady c then some (s.weightOf c.name) else none
          | none => none) (s.cluster 0).hodLast (s.cluster 0).hodDef).1 = some 0
      ∧ (grantQueue 16 (fun _ => none) (ends.cluster 0).hodLast (ends.cluster 0).hodDef).1 = none
      ∧ (transfer aCopy s).toOption.isSome = true ∧ ({ aCopy with begun := true, pos := 1 } : CopyCmd).pos + 1 = aCopy.count
      ∧ ({ aCopy with begun := true, pos := 2 } : CopyCmd).over = true ∧ laySpace aCopy.dst.entry ≠ 1
      ∧ aCopy.overrun = false ∧ aCopy.staleHit = false := by decide +kernel

/-- The copy's source lies where nothing is mapped. -/
def lostCopy : CopyCmd := { aCopy with src := { lid := 21, entry := layOf 0 13 0x40000000 [(2, 1)] 0, start := [0], ext := [2] } }

theorem witness_copy_fails : (match transfer lostCopy (hodWith lostCopy) with
    | .error (.fault code _ _) => code == .notPresent
    | _ => false) = true := by decide +kernel

theorem witness_copy_item : let c := { aCopy with begun := true, pos := 1 }
    let s := hodWith c
    (match c.srcOff 1 s, c.dstOff 1 s with
      | .ok (o, _), .ok (p, _) => (match readItem (s.hodClient c) c.src o s with
        | .ok (x, u) => x.code == 0x89ABCDEF && (match writeGroup (s.hodClient c) c.dst [(p, x.code)] u with
          | .ok (ls, v) => (noteRun c ls v).toOption.isSome
          | .error _ => false)
        | .error _ => false)
      | _, _ => false) = true ∧ layType c.src.entry = layType c.dst.entry ∧ isSix (layType c.dst.entry) = false
      ∧ layRed c.src.entry = false ∧ laySpace c.src.entry ≠ 1 ∧ laySpace c.dst.entry ≠ 1 ∧ c.hold = [] := by decide +kernel

/-- A system copy engine with a command of SUPER code from CXL. -/
def sysCopy : CopyCmd := { aCopy with super := true, src := { lid := 24, entry := layOf 5 13 0x1000000000000 [(2, 1)] 0, start := [0], ext := [2] } }

/-- A checkpoint session that copies one granule. -/
def copying : State := { cutting with ckpts := [(0, { part := 0, dest := 0x1000000000000, active := true, todo := [0x10000] })] }

/-- The same session with nothing left to copy; its destination write succeeds or fails. -/
def cutOver (ok : Bool) : State := State.at { copying with ckpts := [(0, { dest := 0x1000000000000, active := true })] } { ok := ok }

theorem witness_cut : (look (cutOver true).ckpts 0).map (fun c => (c.active, c.todo)) = some (true, []) ∧ (cutOver true).turn.ok = true
    ∧ (cutOver false).turn.ok = false := by decide +kernel

theorem witness_engines : hodFences ([.cmd sysCopy] : List HodEntry) = [] ∧ headCmd [] [.cmd sysCopy] = some sysCopy ∧ sysCopy.sys = some 0
    ∧ ends.copyOver { sysCopy with begun := true, pos := 2 } = true ∧ sysCopy.over = false ∧ ends.copyReady sysCopy = true
    ∧ fieldOf (ends.obs (ends.partOf aCopy.name)).eRing 4 0 = 0
    ∧ (look copying.ckpts 0).map Ckpt.todo = some [0x10000] ∧ (find copying.engines 0 {}).frozen = false ∧ copying.stageFull 0 = false := by
  decide +kernel

/-- A matrix job of `ends` on operands of 16 by 32 ones, and its queue. -/
def aJob : MJob := { op := .mma, tile := 0x4000, a := some (boxOf 21 [0, 0] [16, 32]), b := some (boxOf 21 [0, 0] [16, 32]), k := 16, tag := 2,
                     name := memory.nameOf 1 }
def matWith (j : MJob) : State := ends.modCluster 0 fun k => { k with mat := [(0, [.job j])] }

theorem witness_matrix : let s := matWith aJob
    (s.cluster 0).mstep = none ∧ (∀ e ∈ (s.cluster 0).mat, matFences e.2 = []) ∧ s.matHead 0 0 = some aJob ∧ s.stepReady 0 0 = true
      ∧ (grantQueue 8 (fun q => if s.stepReady 0 q then (s.matHead 0 q).map fun j => s.weightOf j.name else none)
        (s.cluster 0).matLast (s.cluster 0).matDef).1 = some 0 ∧ aJob.granted = 0 ∧ aJob.steps ≠ 0
      ∧ ({ aJob with done := 1, granted := 1 } : MJob).done = aJob.steps ∧ s.gateOf aJob = .opened
      ∧ ends.gateOf { aJob with gate := some (0xFFFF000000000000#64, 0) } = .poisoned ∧ (s.cluster 0).preempt = none
      ∧ s.coreSwapped 0 = false ∧ look (s.cluster 0).slotA 0 = none
      ∧ (takeOperand 0 true [{ body := .operand 0 true {} 8 }]).isSome = true ∧ (takeOperand 0 false [{ body := .operand 0 false {} 8 }]).isSome = true := by
  decide +kernel

/-- A job that rotates what its slots hold, and its queue. -/
def aTurn : MJob := { op := .mrot, tile := 0x4000, k := 16, tag := 2, name := memory.nameOf 1 }
def turning : State :=
  (matWith aTurn).modCluster 0 fun k => { k with slotA := [(0, { ty := 0, k := 16, codes := [[5]] })], slotB := [(0, { ty := 0, k := 16, codes := [[6]] })] }

theorem witness_matrix_rest : (grantQueue 8 (fun _ => none) (ends.cluster 0).matLast (ends.cluster 0).matDef).1 = none
    ∧ (let s := turning.modCluster 0 fun k => { k with mstep := some { queue := 0, a := { ty := 0, k := 16 } } }
      (s.cluster 0).mstep.map MStep.queue = some 0 ∧ s.matHead 0 0 = some aTurn ∧ aTurn.sendA = none ∧ s.turn.upset = .none
        ∧ matClass 0 = some 0)
    ∧ ends.packetsOut 0 0 = false ∧ ({ ends with inject := [{ engine := true, body := .store 0 [1] 0 }] } : State).packetsOut 0 0 = true := by
  decide +kernel

theorem witness_matrix_operands : let s := turning
    let u := s.modCluster 0 fun k => { k with matLast := 0, matDef := (s.cluster 0).matDef }
    let u := u.eventRecord (u.partOf aTurn.name) 2 0 aTurn.name aTurn.core (BitVec.ofNat 64 (jobWord aTurn.seq aTurn.tag)) 0#64
    (s.cluster 0).mstep = none ∧ s.matHead 0 0 = some aTurn ∧ s.stepReady 0 0 = true
      ∧ ((takeOperands 0 0 aTurn u).toOption.map fun r => (r.1.1.codes, r.1.2.1.codes, r.1.2.2)) = some ([[5]], [[6]], [])
      ∧ (openAcc aTurn u).toOption.isSome = true := by decide +kernel

/-- The step of a rotation on its slots is in progress, replayed or not, and fails its check twice or once. -/
def mismatching (upset : Upset) (again : Bool) : State :=
  let s := (matWith { aTurn with granted := 1, replayed := again }).modCluster 0 fun k => { k with mstep := some { queue := 0, a := { ty := 0, k := 16 }, b := { ty := 0, k := 16 } } }
  State.at s { upset := upset }

theorem witness_replay : (mismatching .checkerTwice false).turn.upset = .checkerTwice ∧ (mismatching .checkerOnce false).turn.upset = .checkerOnce
    ∧ ((mismatching .checkerTwice true).matHead 0 0).map MJob.replayed = some true
    ∧ (match ((mismatching .checkerTwice false).cluster 0).mstep with
      | some m => (replayStep 0 m { aTurn with granted := 1 } (mismatching .checkerTwice false)).toOption.isSome
      | none => false) = true := by decide +kernel

/-- A start entry for an image whose read port 0 feeds its write port; the image's bytes stand in memory. -/
def aStart : LStart := { w0 := 0x0000000012111010#64 ||| 0x1200000000#64, w1 := 1#64, name := memory.nameOf 1,
                         lays := [layOf 0 9 0x220000 [(512, 1)] 0, lay 16, lay 16, lay 16, layOf 0 13 0x210000 [(16, 1)] 0] }
def image : List Byte := List.replicate 31 0#8 ++ [0x9D#8] ++ List.replicate 480 0#8
def graphed (g : Option Graph) (q : List LinEntry) : State :=
  { ends with mem := writeByte ends.mem 0x22001F 0x9D#8, arrays := [(0, { allot := [(0, 0)], queue := q, graphs := g.toList })] }
def aGraph : Graph := { start := aStart, image := image }

theorem witness_graph_rows : (graphed (some aGraph) []).graph 0 0 = some aGraph ∧ ({ aGraph with ended := [31] } : Graph).over = true
    ∧ linFences ([.start aStart] : List LinEntry) = []
    ∧ (headFlit [{ body := .flit 3 0 [] 0 false }]).isSome = true ∧ (graphed none []).named aStart.name = some (ends.proc 1)
    ∧ ({ aGraph with sinks := [(31, [some { data := bytesOfNat 64 5 }])] } : Graph).at 31 = [some { data := bytesOfNat 64 5 }] := by decide +kernel

theorem witness_graph_ports : (portRead aStart aGraph 0 (graphed (some aGraph) [])).toOption.isSome = true
    ∧ (portWrite aStart { aGraph with sinks := [(31, [some { data := bytesOfNat 64 5 }])] } (graphed (some aGraph) [])).toOption.isSome = true := by
  decide +kernel

theorem witness_graph_refused : (match openGraph aStart { graphed none [.start aStart] with mem := [] } with
    | .error (.fault code _ _) => code == .notPresent
    | _ => false) = true := by decide +kernel

theorem witness_graph_start : (match openGraph aStart (graphed none [.start aStart]) with
    | .ok (im, t) => im == image && (t.lintel 0).graphs.isEmpty
    | .error _ => false) = true := by
  decide +kernel

/-! ## Rows of channels and activations -/

/-- `ends` with a packet at the local port of cluster 0. -/
def reached (b : PBody) : State := ends.modCluster 0 fun k => { k with arrived := [{ dst := [0], body := b }] }

/-- A packet for a row has reached cluster 0. -/
def Reaches (s : State) (i : Instr) (b : PBody) : Prop := ∃ t, Reached s i b t

theorem reaches_of {i : Instr} {b : PBody} {s : State} (h : (b.row == some i && (s.cluster s.turn.unit).idle == .run && clusterOk s.turn.unit
    && (takeInTurn (fun b => b.row == some i) s.waitsTurn [] (s.cluster s.turn.unit).arrived == some ({ dst := [0], body := b }, []))) = true) :
    Reaches s i b := by
  simp only [Bool.and_eq_true, beq_iff_eq] at h
  exact ⟨_, h.1.2, h.1.1.2, h.1.1.1, _, _, h.2, rfl, rfl⟩

/-- A store of one granule of `ends`' process into its own landing region, a spawn, and a data message on channel 0. -/
def aStore (target : Nat) (off : Nat) : Landing := { target := target, off := off, data := [5#512], ty := 13, name := target }
def aData (seq : Nat) : Msg := { chid := 0, seq := seq, name := memory.nameOf 1, reg := 1, words := [7#64] }
/-- The inbox of channel 0 on core 0. -/
def inboxed (b : PBody) : State := (reached b).modCore 0 fun k => { k with inboxes := [{ chid := 0, reg := 2, slot := 1, cap := 4 }] }

theorem witness_stores_land : Reaches (reached (.store (aStore (memory.nameOf 1) 0))) .landingStoreArrival (.store (aStore (memory.nameOf 1) 0))
    ∧ (aStore (memory.nameOf 1) 0).seq = ends.gstvExpected (aStore (memory.nameOf 1) 0).agent (memory.nameOf 1)
    ∧ memory.nameOf 1 ≠ 0 ∧ (ends.proc (slotOf (memory.nameOf 1))).name = memory.nameOf 1 ∧ ends.self.part = 0
    ∧ 0x7C0 + 64 ≤ ends.self.land.2 ∧ ends.self.land.2 < 0x7C1 + 64 ∧ (ends.proc (slotOf 5)).name ≠ 5 ∧ (ends.self.land.1 + 0) % 64 = 0 := by
  refine ⟨reaches_of ?_, ?_⟩ <;> and_intros <;> decide +kernel

theorem witness_nothing_lands : let g : Landing := { aStore (memory.nameOf 1) 0 with data := [] }
    Reaches (reached (.store g)) .landingStoreArrival (.store g) ∧ g.seq = ends.gstvExpected g.agent g.target := by
  refine ⟨reaches_of ?_, ?_⟩ <;> decide +kernel

theorem witness_messages_arrive : Reaches (inboxed (.msg 0 (aData 5))) .messageArrival (.msg 0 (aData 5))
    ∧ ((inboxed (.msg 0 (aData 5))).core 0).inbox 0 = some { chid := 0, reg := 2, slot := 1, cap := 4 }
    ∧ ((inboxed (.msg 0 (aData 5))).core 0).pooled < ((inboxed (.msg 0 (aData 5))).core 0).poolRoom
    ∧ (ends.proc 1).freeEnds 0 = some [] ∧ ((reached (.msg 0 (aData 5))).core 0).inbox 0 = none ∧ ends.inboxImage 0 0 = none
    ∧ Reaches (reached (.toHome (aData 5))) .homeForward (.toHome (aData 5)) ∧ (ends.record 0).isSome = true ∧ ends.record 77 = none := by
  refine ⟨reaches_of ?_, ?_, ?_, ?_, ?_, ?_, reaches_of ?_, ?_⟩ <;> and_intros <;> decide +kernel

theorem witness_channel_bodies : Reaches (reached (.location 0 0 (some 8) false)) .locationUpdate (.location 0 0 (some 8) false)
    ∧ Reaches (reached (.landing (mkHandle 0 0 0 0 false true true) 9 8 4 false)) .endLandingRegistration
      (.landing (mkHandle 0 0 0 0 false true true) 9 8 4 false)
    ∧ Reaches (inboxed (.parked 0 0 (.msg (aData 0)) 1)) .parkedDrain (.parked 0 0 (.msg (aData 0)) 1)
    ∧ ((inboxed (.parked 0 0 (.msg (aData 0)) 1)).takeOffer 0 0 (.msg (aData 0)) 1).isSome = true
    ∧ Reaches (reached (.closeMark 0 5 9)) .closeMarker (.closeMark 0 5 9)
    ∧ Reaches (inboxed (.closeFwd 0 0 5 9)) .closeMarker (.closeFwd 0 0 5 9)
    ∧ Reaches (reached (.recvClose 0 3 9)) .receiveClose (.recvClose 0 3 9)
    ∧ Reaches (reached (.event (memory.nameOf 1) { code := 2, reg := 2 })) .eventDelivery (.event (memory.nameOf 1) { code := 2, reg := 2 })
    ∧ Reaches (reached (.refused (aData 5) 3 9)) .eventDelivery (.refused (aData 5) 3 9)
    ∧ (ends.named (memory.nameOf 1)).isSome = true ∧ ends.named 9 = none
    ∧ (ends.procs.find? fun e => e.2.state != .exited && e.2.core == 0 && (e.2.holds? 0 false).isSome).map Prod.fst = some 1
    ∧ (ends.chan 0).offered = false ∧ (ends.chan 0).rst = .here ∧ devOf (ends.chan 0).rname = ends.devidx := by
  refine ⟨reaches_of ?_, reaches_of ?_, reaches_of ?_, ?_, reaches_of ?_, reaches_of ?_, reaches_of ?_, reaches_of ?_,
    reaches_of ?_, ?_⟩ <;> and_intros <;> decide +kernel

/-- `ends` with a rate loop on channel 1 whose period has passed at its receive end. -/
def looped (b : PBody) : State :=
  let s := (reached b).modChan 1 fun c => { c with ren := true, gp := 2, gi := 4, sp := 1, t := 1 }
  { (s.modCore 0 fun k => { k with inboxes := [{ chid := 1, reg := 3, slot := 1, cap := 4, period := 1 }] }) with cyc := 256 }

theorem witness_rates : ((looped (.rateReport 1 3)).core 0).inboxes.find? (fun i => i.period != 0 && decide (i.since + 256 * i.period ≤ 256))
      = some { chid := 1, reg := 3, slot := 1, cap := 4, period := 1 }
    ∧ Reaches (looped (.rateReport 1 3)) .rateUpdate (.rateReport 1 3)
    ∧ Reaches (looped (.rateDelta (memory.nameOf 1) 1 (-5) true)) .rateDelta (.rateDelta (memory.nameOf 1) 1 (-5) true)
    ∧ Reaches (looped (.rateAck 1 true 1)) .rateAck (.rateAck 1 true 1)
    ∧ ((looped (.rateReport 1 3)).record 1).map (fun c => (c.rate, c.ren, c.sst, c.rst)) = some (true, true, .here, .here)
    ∧ (ends.self.homeOf 1).isSome = true ∧ chDev 1 = ends.devidx := by
  refine ⟨?_, reaches_of ?_, reaches_of ?_, reaches_of ?_, ?_⟩ <;> and_intros <;> decide +kernel

/-- `ends` without its activation, an event and a data message waiting, handlers 0 to 2. -/
def runnable (es : List Evt) (held : List Msg) : State :=
  let s := ends.modProc 1 fun p => { p with events := es, handlers := [(0, 0x0100000000200000#64), (1, 0x0100000000200040#64), (2, 0x0100000000200080#64)] }
  let s := s.modEnd 1 2 fun x => { x with bind := 2 }
  let s := s.modCore 0 fun k => { k with inboxes := [{ chid := 0, reg := 2, slot := 1, cap := 4, held := held }] }
  s.modActor fun _ => {}

theorem witness_starts : (runnable [{ code := 4 }] []).freeCtxOf 0 = some 0 ∧ (chooseRunnable ((runnable [{ code := 4 }] []).readyOn 0)).map Runnable.kind = some .event
    ∧ (chooseRunnable ((runnable [] [aData 0]).readyOn 0)).map Runnable.kind = some .data ∧ coreOk 0 = true
    ∧ ((runnable [] []).cluster 0).idle = .run := by decide +kernel

/-! ## Rows of the scheduler and of a supervisor -/

/-- A network image at 0x500000 of one template that is launched: its handlers 0 and 1, 16 layouts of zeros (log 39). -/
def netMem : Memory :=
  let m := writeNat (writeNat ends.mem 0x500000 4 1) 0x500004 2 1
  let m := writeNat (writeNat (writeNat m 0x500088 8 0x502000) 0x500090 8 0x503000) 0x500098 8 0x504000
  let m := writeNat (writeNat (writeNat m 0x5000A0 2 16) 0x5000A3 1 1) 0x5000B8 2 256
  writeNat (writeNat m 0x502000 8 0x0100000000200000) 0x502008 8 0x0100000000200040

/-- A launch channel with a message. -/
def launching (w0 w1 : Word) (nets : Map Net) : State :=
  { ends with mem := netMem, chans := [(5, { sst := .here, rst := .here, role := 1, parked := [.msg { words := [w0, w1], name := memory.nameOf 1 }] })],
              nets := nets }

theorem witness_launch : ((launching 0x500000 0x70000 []).nextLaunch 5).map (fun r => (r.1.launchOk, r.1.isCancel, r.1.ticket)) = some (true, false, 7)
    ∧ ((launching 1 0x70000 []).nextLaunch 5).map (fun r => r.1.launchOk) = some false
    ∧ ((launching 0 0x70001 []).nextLaunch 5).map (fun r => (r.1.launchOk, r.1.isCancel)) = some (true, true)
    ∧ ((launching 0 0x70001 [(1, { ticket := 7, chan := 5 })]).netOf 5 7).map (fun r => r.2.state) = some .queued
    ∧ (readNet 0 0 0x40000000 (launching 0x40000000 0x70000 [])).toOption.isSome = false := by decide +kernel

theorem witness_image : (match readNet 0 0 0x500000 (launching 0 0 []) with
    | .ok (n, v) => v.launchReason n 0 false == 0
    | .error _ => false) = true := by decide +kernel

theorem witness_done : let s : State := { ends with nets := [(3, { state := .running, ticket := 7 })] }
    (look s.nets 3).map Net.state = some .running ∧ s.netOver 3 = true ∧ (7 : Nat) < 65536 ∧ (255 : Nat) < 256 := by decide +kernel

theorem witness_dispatch : let s : State := { launching 0 0 [(3, { image := 0x500000 })] with chans := [] }
    (s.headNet 0).map Prod.fst = some 3 ∧ (readNet 0 0 0x500000 s).toOption.isSome = true := by decide +kernel

theorem witness_preempt : clusterOk 0 = true ∧ (ends.cluster 0).preempt = none ∧ ends.graphWrites 0 = false ∧ (ends.proc 1).core / 8 = 0
    ∧ (let s := (base.modCluster 0 fun k => { k with preempt := some 0, copying := true }).modActor fun c => { c with status := .free, act := none }
      (s.cluster 0).preempt.isSome = true ∧ s.enginesStopped 0 = true ∧ (∀ k, k < 4 → (s.ctx 0 k).status ≠ .running)
        ∧ ((s.modCore 0 fun k => { k with stopped := true }).core 0).stopped = true) := by decide +kernel

/-- An image of core 0 that holds process 1, and the process swapped. -/
def swapped : State :=
  let s := ends.modProc 1 fun p => { p with state := .swapped, tiles := (0, 0), land := (0, 0) }
  { (s.modActor fun _ => {}) with images := [(16384, { slots := [1], partw := 0x4023#64, ctxs := [(2, { status := .running, act := some {} })] })] }

theorem witness_resume : look swapped.images 16384 = some { slots := [1], partw := 0x4023#64, ctxs := [(2, { status := .running, act := some {} })] }
    ∧ swapped.imagePlace { slots := [1], partw := 0x4023#64, ctxs := [(2, { status := .running, act := some {} })] } = some 0
    ∧ swapped.coreDrained 0 = true ∧ swapped.landsOut 1 = false ∧ swapped.gstvWait = [] ∧ (swapped.part 0).vecp % 4 = 0
    ∧ (({ swapped with parts := put swapped.parts 0 { swapped.part 0 with record := BitVec.ofNat 512 (2 ^ 129) } } : State).part 0).vecp % 4 ≠ 0 := by decide +kernel

/-- The process is to move, with its activation gone, running or parked. -/
def movingState (f : Ctx → Ctx) : State := (ends.modProc 1 fun p => { p with moving := true }).modActor f

theorem witness_move : let s := movingState fun _ => {}
    (s.proc 1).moving = true ∧ (s.proc 1).state = .resident ∧ s.runs 1 = [] ∧ s.parkedRuns 1 = false ∧ s.begunOf (s.proc 1) = false
      ∧ (match s.movePlace (s.proc 1) with
        | some n => n != 0 && (s.canHold n 0 (s.needsOf (s.proc 1))).isSome && s.workFits (s.proc 1) n
          && !((s.modCore n fun k => { k with tagCnt := [(3, 32)] }).modCluster 0 fun k => { k with hod := [(0, [.cmd aCopy])] }).workFits (s.proc 1) n
        | none => false) = true
      ∧ s.landsOut 1 = false
      ∧ ((s.modCluster 0 fun k => { k with arrived := [{ dst := [0], body := .landing (s.self.endAt 2).handle s.self.name 0 2 true }] }).landsOut 1) = true
      ∧ (movingState fun c => { c with status := .parked }).parkedRuns 1 = true
      ∧ (movingState id).parkedRuns 1 = false ∧ (movingState id).runs 1 = [0] := by decide +kernel

/-- A command of a supervisor of partition 0 for context 0 stands in the control channel 9 of core 0. -/
def order (op : Nat) : Msg := { chid := 9, words := [BitVec.ofNat 64 (at_ (memory.nameOf 1) 32 32 + at_ op 4 4), 0#64] }
def commanded (m : Msg) (f : Ctx → Ctx) : State :=
  (ctxIs f).modCore 0 fun k => { k with inboxes := [{ chid := 9, control := some 0, held := [m] }] }

theorem witness_control : let w := fun (op : Nat) => BitVec.ofNat 64 (at_ (memory.nameOf 1) 32 32 + at_ op 4 4)
    ((commanded (order 3) id).nextControl 0).map (fun r => (r.2.1, r.2.2)) = some (0, order 3)
    ∧ (order 3).controlWords = some (w 3, 0#64) ∧ ({ order 3 with words := [] } : Msg).controlWords = none
    ∧ controlOk (w 3) 0#64 = true ∧ controlOk (w 4) 0#64 = false ∧ fieldOf (w 0) 63 32 = memory.nameOf 1
    ∧ (ctxIs id).actor.act = some (placeActivation State.reset) ∧ (placeActivation State.reset).name = memory.nameOf 1
    ∧ (placeActivation State.reset).part = 0 ∧ (ctxIs fun c => { c with unroll := true }).actor.rollable = false
    ∧ (ctxIs fun c => { c with act := c.act.map fun a => { a with restartable := true }, status := .parked }).actor.rollable = true
    ∧ (base.ctx 0 1).act = none := by decide +kernel

/-- A fault message for a supervisor in slot 1, whose control end is register 0. -/
theorem witness_fault_messages : let n := memory.nameOf 1
    let s := ends.modProc 1 fun p => { p with ends := [(0, { state := .held, handle := mkHandle 0 0 0 0 false false true })] }
    let s := s.modCore 0 fun k => { k with inboxes := [{ chid := 0, slot := 1, cap := 4 }] }
    let s : State := { s with parts := put s.parts 0 { s.part 0 with supers := [(0, 1)] }, faultMsgs := [{ name := n, words := [5#64] }] }
    takeFirst (fun (m : FaultMsg) => m.part == 0 && m.die == 0) s.faultMsgs = some ({ name := n, words := [5#64] }, [])
      ∧ (s.proc (find (s.part 0).supers 0 0)).state ≠ .exited ∧ ((s.core 0).inbox (hChid ((s.proc 1).endAt 0).handle)).map Inbox.held = some []
      ∧ (s.core 0).pooled < (s.core 0).poolRoom := by decide +kernel

theorem witness_hang : (ctxIs fun c => { c with actbud := 0#64 }).actor.hangs = true := by decide +kernel

theorem witness_memory_kept : State.reset.mem.wf = true ∧ (match step State.reset with
    | .next t => t.mem.wf
    | _ => false) = true := by decide +kernel

/-! ## The matrix engine's terms: 10 R221's own examples -/

/-- 17 by 18 under equal scales is 55,109 × 2^−15; 20 by 16 with scales 127 and 129 is 32,768 × 2^−12 = 8. -/
theorem test_l6_terms : l6Term 17 18 127 127 = .fin false 55109 (-15) ∧ l6Term 20 16 127 129 = .fin false 32768 (-12)
    ∧ l6Term 0 16 127 127 = .fin false 0 0 := by decide +kernel

/-! ## The spec's worked examples -/

/-- 03, below R47: the home of 0x0061_2345_6780 and of the next line. -/
theorem test_home_of_a_line : (homeOf 0x6123456780).die = 3 ∧ (homeOf 0x6123456780).cluster = 21 * 64 + 25 ∧ (homeOf 0x6123456780).slice = 0
    ∧ (homeOf 0x6123456800).cluster = 21 * 64 + 38 ∧ (homeOf 0x6123456800).slice = 3 := by decide +kernel

/-- 07, below R154: a block whose largest magnitude is 20.0 takes scale 128 in L6B, and 20.0 the code 29. -/
theorem test_block_scale : blockScale 6 [.fin false 20 0, .fin true 3 (-1)] = (128, 0#6) := by decide +kernel

/-- 08, below R176: the header's handler, sender and kind, and the sign-extended field. -/
theorem test_fields : extractU 0x0123456700002085 6 6 = 2 ∧ extractU 0x0123456700002085 32 32 = 0x01234567
    ∧ extractU 0x0123456700002085 30 2 = 0 ∧ extractU 0xA000000000000000 60 8 = 0xA ∧ extractU 0xA000000000000000 70 8 = 0
    ∧ extractS 0xA000000000000000 60 4 = 0xFFFFFFFFFFFFFFFA := by decide +kernel

/-- 09, below R207: the sum of 2^24 and sixteen ones is exact in groups, and sticks at 2^24 in a scan (a scan's running
value is one more than its code). -/
theorem test_sum_and_scan : (reduce 0 0 0 (some 0x4B800000 :: List.replicate 16 (some 0x3F800000))).1 = 0x4B800008
    ∧ (scanStep 0 0 0 0x4B800001 0x3F800000).1 = 0x4B800001 := by decide +kernel

/-- Words that meet the last hypotheses of O10 and O12: BITF with function 5, BEQ with a field of 31, DBNZ of a30. -/
theorem witness_words_that_are_illegal : (0x08000005#32).extractLsb' 26 6 = 2#6 ∧ 5 ≤ ((0x08000005#32).extractLsb' 0 4).toNat
    ∧ ((0x33E00000#32).extractLsb' 26 6).toNat = 0x0C ∧ ((0x33E00000#32).extractLsb' 21 5).toNat = 31
    ∧ ((0x5BC00000#32).extractLsb' 26 6).toNat = 0x16 ∧ 30 ≤ ((0x5BC00000#32).extractLsb' 21 5).toNat := by decide

end Sys2Proof.Tests
end

section
/-!
SUPPORT. What the rows that write device registers leave behind (03 R58; 04 R67-R71; 12 R278; 22 R395; 23 R404, R408), and
the statement O52 put together from it.
-/

namespace Sys2Proof.Machine

/-! ## Fields of words -/

/-- Setting bit 0 changes no field above it. -/
theorem fieldOf_or_one (v : Word) (hi : Nat) {lo : Nat} (h : 0 < lo) : fieldOf (v ||| 1#64) hi lo = fieldOf v hi lo := by
  have h1 : 1 >>> lo = 0 := by rw [Nat.shiftRight_eq_div_pow]; exact Nat.div_eq_of_lt (Nat.one_lt_two_pow (by omega))
  simp [fieldOf, bitsOf, ← Nat.shiftRight_eq_div_pow, Nat.shiftRight_or_distrib, h1]

/-- Setting bit 0 makes the low field 1. -/
theorem fieldOf_or_one_low (v : Word) : fieldOf (v ||| 1#64) 0 0 = 1 := by
  simp [fieldOf, bitsOf, Nat.or_mod_two_eq_one]

theorem toNat_or_one_mod_two (v : Word) : (v ||| 1#64).toNat % 2 = 1 := by simp [Nat.or_mod_two_eq_one]

theorem toNat_or_one_div_two (v : Word) : (v ||| 1#64).toNat / 2 = v.toNat / 2 := by simp [Nat.or_div_two]

theorem toNat_wordOf (x : Nat) : (wordOf x).toNat = x % 2 ^ 64 := by simp [wordOf]

/-- The fields of a ring register after a write: the base that was written, and LOG2N, 0 where the setting is rejected
(23 R404). -/
theorem fieldOf_ringValue (s : State) (p : Nat) (old v : Word) :
    fieldOf (s.ringValue p old v) 47 12 = fieldOf v 47 12
      ∧ fieldOf (s.ringValue p old v) 4 0 = if s.ringRejected p v then 0 else fieldOf v 4 0 := by
  have hn : (if s.ringRejected p v then 0 else fieldOf v 4 0) < 32 := by
    split
    · omega
    · simp only [fieldOf, bitsOf]; omega
  have hb : fieldOf v 47 12 < 2 ^ 36 := Nat.mod_lt _ (by omega)
  simp only [State.ringValue]
  generalize (if s.ringRejected p v then 0 else fieldOf v 4 0) = n at hn ⊢
  generalize fieldOf v 47 12 = b at hb ⊢
  simp only [fieldOf, bitsOf, toNat_wordOf, at_]
  omega

/-- CMD stores the command and the length that were written (22 R395). -/
theorem fieldOf_cmdWord (v : Word) :
    fieldOf (cmdWord v) 7 0 = fieldOf v 7 0 ∧ fieldOf (cmdWord v) 31 16 = fieldOf v 31 16 := by
  simp only [cmdWord, fieldOf, bitsOf, toNat_wordOf, at_]
  omega

/-! ## RWAYS and masks: old in the clock of the write, new after it (04 R67, R69) -/

@[simp] theorem Die.rwaysAt_setRways_same (k : Die) (cyc n : Nat) : (k.setRways cyc n).rwaysAt cyc = k.rwaysAt cyc := by
  simp [Die.setRways, Die.rwaysAt]

theorem Die.rwaysAt_setRways_later (k : Die) {cyc c : Nat} (n : Nat) (h : cyc < c) : (k.setRways cyc n).rwaysAt c = n := by
  simp [Die.setRways, Die.rwaysAt, Nat.ne_of_lt h]

@[simp] theorem Die.maskAt_setMask_same (k : Die) (cyc p : Nat) (m : BitVec 16) :
    (k.setMask cyc p m).maskAt cyc p = k.maskAt cyc p := by
  simp [Die.setMask, Die.maskAt]

theorem Die.maskAt_setMask_later (k : Die) {cyc c : Nat} (p : Nat) (m : BitVec 16) (h : cyc < c) :
    (k.setMask cyc p m).maskAt c p = m := by
  simp [Die.setMask, Die.maskAt, Nat.ne_of_lt h]

/-! ## Dropping TLB entries (03 R58) -/

/-- No cluster TLB of a die holds an entry that an invalidation of this range would drop. -/
def State.TlbClear (s : State) (die part va bits : Nat) : Prop :=
  ∀ c, dieOf c = die → ∀ e ∈ (s.cluster c).tlb, e.dropped part va bits = false

/-- What a key holds after the entries of some keys are changed. -/
theorem look_map_at {α : Type} (p : Nat → Prop) [DecidablePred p] (f : α → α) (m : Map α) (k : Nat) :
    look (m.map fun e => if p e.1 then (e.1, f e.2) else e) k = (look m k).map (if p k then f else id) := by
  induction m with
  | nil => rfl
  | cons e m ih =>
    obtain ⟨j, x⟩ := e
    by_cases hk : k = j
    · subst hk; by_cases hp : p k <;> simp [look, hp]
    · by_cases hp : p j <;> simp [look, hp, hk, ih]

/-- A drop filters the TLBs of the clusters of its die, and touches no other cluster. -/
theorem State.cluster_dropTlb (s : State) (die part va bits c : Nat) :
    (s.dropTlb die part va bits).cluster c
      = if dieOf c = die then (s.cluster c).dropTlb part va bits else s.cluster c := by
  have hlook := look_map_at (fun k => dieOf k = die) (fun x : Cluster => x.dropTlb part va bits) s.clusters c
  simp only [State.cluster, State.dropTlb, find, hlook]
  cases look s.clusters c <;> split_ifs <;> rfl

@[simp] theorem State.mem_dropTlb (s : State) (die part va bits : Nat) : (s.dropTlb die part va bits).mem = s.mem := rfl
@[simp] theorem State.die_dropTlb (s : State) (die part va bits d : Nat) : (s.dropTlb die part va bits).die d = s.die d := rfl

/-- After a drop its die is clear of the range. -/
theorem State.tlbClear_dropTlb_self (s : State) (die part va bits : Nat) :
    (s.dropTlb die part va bits).TlbClear die part va bits := by
  intro c hc e he
  rw [State.cluster_dropTlb, if_pos hc] at he
  simpa using (List.mem_filter.mp he).2

/-- A die that is clear of a range stays so under any drop. -/
theorem State.TlbClear.dropTlb {s : State} {d p v b : Nat} (h : s.TlbClear d p v b) (die part va bits : Nat) :
    (s.dropTlb die part va bits).TlbClear d p v b := by
  intro c hc e he
  rw [State.cluster_dropTlb] at he
  split_ifs at he
  · exact h c hc e (List.mem_filter.mp he).1
  · exact h c hc e he

/-- Drops at several dies leave memory and the dies' registers alone, and each of those dies clear of the range. -/
theorem State.foldl_dropTlb (dies : List Nat) (part va bits : Nat) (s : State) :
    let t := dies.foldl (fun u die => u.dropTlb die part va bits) s
    t.mem = s.mem ∧ (∀ d, t.die d = s.die d) ∧ ∀ d, d ∈ dies ∨ s.TlbClear d part va bits → t.TlbClear d part va bits := by
  induction dies generalizing s with
  | nil => simp
  | cons a dies ih =>
    obtain ⟨hmem, hdie, hclear⟩ := ih (s.dropTlb a part va bits)
    refine ⟨hmem, hdie, fun d hd => hclear d ?_⟩
    rcases hd with hd | hd
    · rcases List.mem_cons.mp hd with rfl | hd
      · exact .inr (s.tlbClear_dropTlb_self d part va bits)
      · exact .inl hd
    · exact .inr (hd.dropTlb a part va bits)

/-! ## Invalidations: GO, held GOs, DONE (03 R58) -/

@[simp] theorem State.modDie_modDie (s : State) (d : Nat) (f g : Die → Die) :
    (s.modDie d f).modDie d g = s.modDie d (g ∘ f) := by simp [State.modDie, State.die]

/-- A GO that takes effect: DONE and ERR tell whether the size is reserved, the GOs held stay held, memory is as it was, and
for a size that stands the die is clear of the range. -/
theorem State.startInval_spec (s : State) {d : Nat} (hd : d < 4) (va v : Word) :
    let t := s.startInval d va v
    t.mem = s.mem ∧ (t.die d).done = decide (6 ≤ fieldOf v 6 4) ∧ (t.die d).err = decide (6 ≤ fieldOf v 6 4)
      ∧ (t.die d).held = (s.die d).held
      ∧ (fieldOf v 6 4 < 6 → t.TlbClear d (fieldOf v 10 8) va.toNat (tinvBits (fieldOf v 6 4))) := by
  by_cases hsize : 6 ≤ fieldOf v 6 4
  · simp [State.startInval, hsize]
  · have hmem : d ∈ if fieldOf v 1 1 = 1 then [0, 1, 2, 3] else [d] := by
      split
      · simp; omega
      · simp
    simp only [State.startInval, hsize, if_false]
    generalize (if fieldOf v 1 1 = 1 then [0, 1, 2, 3] else [d]) = dies at hmem ⊢
    generalize hu : s.modDie d _ = u
    obtain ⟨hm, hdie, hclear⟩ := State.foldl_dropTlb dies (fieldOf v 10 8) va.toNat (tinvBits (fieldOf v 6 4)) u
    refine ⟨hm.trans (hu ▸ rfl), ?_, ?_, ?_, fun _ => hclear d (.inl hmem)⟩ <;> rw [hdie, ← hu, State.die_modDie_same]

/-- Held GOs leave memory alone. -/
theorem State.mem_startHeld {d : Nat} (hd : d < 4) (hs : List (Word × Word)) (s : State) : (s.startHeld d hs).mem = s.mem := by
  induction hs generalizing s with
  | nil => rfl
  | cons h hs ih =>
    obtain ⟨hmem, -⟩ := s.startInval_spec hd h.1 h.2
    simp only [State.startHeld]
    split
    · rw [ih, hmem]
    · exact hmem

/-- The first held GO of a size that stands clears DONE; those behind it stay held. -/
theorem State.startHeld_stands {s : State} {d : Nat} (hd : d < 4) (h : Word × Word) (hs : List (Word × Word))
    (hsize : fieldOf h.2 6 4 < 6) :
    let t := s.startHeld d (h :: hs)
    (t.die d).done = false ∧ (t.die d).err = false ∧ (t.die d).held = hs
      ∧ t.TlbClear d (fieldOf h.2 10 8) h.1.toNat (tinvBits (fieldOf h.2 6 4)) := by
  obtain ⟨-, hdone, herr, -, hclear⟩ := s.startInval_spec hd h.1 h.2
  have hsize' : ¬6 ≤ fieldOf h.2 6 4 := by omega
  simp only [hsize', decide_false] at hdone herr
  simp only [State.startHeld, hdone, Bool.false_eq_true, if_false]
  exact ⟨by simp [hdone], by simp [herr], by simp, hclear hsize⟩

/-- The last held GO, where its size is reserved, sets DONE and ERR. -/
theorem State.startHeld_reserved {s : State} {d : Nat} (hd : d < 4) (h : Word × Word) (hsize : 6 ≤ fieldOf h.2 6 4) :
    let t := s.startHeld d [h]
    (t.die d).done = true ∧ (t.die d).err = true ∧ (t.die d).held = [] := by
  obtain ⟨-, hdone, herr, -, -⟩ := s.startInval_spec hd h.1 h.2
  simp only [hsize, decide_true] at hdone herr
  simp [State.startHeld, hdone, herr]

/-! ## The rows -/

/-- The writer of a row's register write, `turn.val`, may write this value: it is the Keystone, or a partition that may
(22 R394). -/
def State.mayWrite (s : State) (r : DevReg) (v : Word) : Prop := s.turn.val = 8 ∨ r.writable s.turn.val v = true

theorem State.rowWrite_of_mayWrite {s : State} {r : DevReg} {v : Word} (h : s.mayWrite r v) :
    s.rowWrite r v = s.devWrite v r := by
  rw [State.rowWrite, if_pos (by simpa [State.mayWrite] using h)]

section Rows
variable {s : State}

/-- SCFG_WRITE (04 R71): RWAYS of the clock of the write stays the old one (04 R67). -/
theorem goes_scfgWrite (h8 : s.turn.val = 8) (hd : s.turn.unit < 4) :
    Goes s .scfgWrite (s.modDie s.turn.unit fun k =>
      { k.setRways s.cyc (min 8 (fieldOf (s.given 0) 3 0)) with mcwin := fieldOf (s.given 0) 15 8 }) := by
  show execScfgWrite s = _
  simp only [execScfgWrite, Nat.not_le.mpr hd, if_false, State.rowWrite_of_mayWrite (.inl h8)]
  rfl

/-- FILLMASK_WRITE (04 R69). -/
theorem goes_fillmaskWrite (hd : s.turn.unit < 4) (hp : s.turn.sub < 8)
    (may : s.mayWrite (.fillmask s.turn.unit s.turn.sub) (s.given 0)) :
    Goes s .fillmaskWrite (s.modDie s.turn.unit fun k => k.setMask s.cyc s.turn.sub ((s.given 0).setWidth 16)) := by
  show execFillmaskWrite s = _
  simp only [execFillmaskWrite, Nat.not_le.mpr hd, Nat.not_le.mpr hp, decide_false, Bool.or_self, Bool.false_eq_true, if_false,
    State.rowWrite_of_mayWrite may]
  rfl

/-- PCTL_WRITE (12 R278). -/
theorem goes_pctlWrite (h8 : s.turn.val = 8) : Goes s .pctlWrite { s with pftmo := max 1 (fieldOf (s.given 0) 31 16) } := by
  show execPctlWrite s = _
  rw [execPctlWrite, State.rowWrite_of_mayWrite (.inl h8)]
  rfl

/-- PORTSTAT_CLR (12 R278). -/
theorem goes_portstatClr (h8 : s.turn.val = 8) (hd : s.turn.unit < 12) :
    Goes s .portstatClr (s.modPort s.turn.unit fun k => { k with replay := 0, stomp := 0, drop := 0 }) := by
  show execPortstatClr s = _
  simp only [execPortstatClr, Nat.not_le.mpr hd, if_false, State.rowWrite_of_mayWrite (.inl h8)]
  rfl

/-- PORTSTAT_RETRAIN (12 R278). -/
theorem goes_portstatRetrain (h8 : s.turn.val = 8) (hd : s.turn.unit < 12) :
    Goes s .portstatRetrain (s.modPort s.turn.unit fun k => { k with state := .training, row := 0 }) := by
  show execPortstatRetrain s = _
  rw [execPortstatRetrain, if_neg (Nat.not_le.mpr hd), State.rowWrite_of_mayWrite (.inl h8)]
  rfl

/-- PCNT_WRITE (23 R408): the value written, and the events of the clock. -/
theorem goes_pcntWrite (hd : s.turn.unit < 8) (hi : s.turn.sub < 64)
    (may : s.mayWrite (.pcnt s.turn.unit s.turn.sub) (s.given 0)) :
    Goes s .pcntWrite (s.modObs s.turn.unit fun o =>
      { o with pcnt := put o.pcnt s.turn.sub (s.given 0 + find (o.inClock s.cyc) s.turn.sub 0#64) }) := by
  show execPcntWrite s = _
  simp only [execPcntWrite, Nat.not_le.mpr hd, Nat.not_le.mpr hi, decide_false, Bool.or_self, Bool.false_eq_true, if_false,
    State.rowWrite_of_mayWrite may]
  rfl

/-- RING_CONFIG_WRITE of the sample ring (23 R404). -/
theorem goes_ringConfigWrite (hd : s.turn.unit < 8) (h0 : s.turn.sub = 0)
    (may : s.mayWrite (.sring s.turn.unit) (s.given 0)) :
    Goes s .ringConfigWrite (s.modObs s.turn.unit fun o =>
      { o with sring := s.ringValue s.turn.unit o.sring (s.given 0) }) := by
  show execRingConfigWrite s = _
  simp only [execRingConfigWrite, Nat.not_le.mpr hd, h0, if_false, if_true, State.rowWrite_of_mayWrite may]
  rfl

/-- TINVC_GO by the Keystone (03 R58): the GO takes effect, or is held while DONE is 0 with the VPAGE of the write (log 66). -/
theorem goes_tinvcGo (h8 : s.turn.val = 8) (hd : s.turn.unit < 4) :
    Goes s .tinvcGo (if (s.die s.turn.unit).done then s.startInval s.turn.unit (s.die s.turn.unit).tinva (s.given 0 ||| 1#64)
      else s.modDie s.turn.unit fun k => { k with held := k.held ++ [(k.tinva, s.given 0 ||| 1#64)] }) := by
  show execTinvcGo s = _
  simp only [execTinvcGo, Nat.not_le.mpr hd, if_false, State.rowWrite_of_mayWrite (.inl h8), State.devWrite, State.writeTinvc,
    fieldOf_or_one_low, Nat.one_ne_zero]

theorem goes_tinvcDone (hd : s.turn.unit < 4) : Goes s .tinvcDone (s.finishInval s.turn.unit) := by
  show execTinvcDone s = _
  simp only [execTinvcDone, Nat.not_le.mpr hd, if_false]

/-- REGISTER_WRITE of a device register by the Keystone (00 R4). -/
theorem goes_registerWrite_device (h8 : s.turn.val = 8) (h0 : s.turn.sub = 0) {r : DevReg} (hr : devRegAt s.turn.unit = some r) :
    Goes s .registerWrite (s.devWrite (s.given 0) r) := by
  show execRegisterWrite s = _
  simp only [execRegisterWrite, h0, if_true, hr, h8, decide_true, Bool.true_or, State.rowWrite_of_mayWrite (.inl h8)]

/-- REGISTER_WRITE to the management function's BAR0 (22 R395). -/
theorem goes_registerWrite_mgmt (h1 : s.turn.sub = 1) (h0 : s.turn.val = 0) (ha : s.turn.unit % 8 = 0) :
    Goes s .registerWrite (s.writeMgmtBar s.turn.unit (s.given 0)) := by
  show execRegisterWrite s = _
  simp [execRegisterWrite, h1, h0, ha]

/-- REGISTER_WRITE as the reset of a system copy engine (log 34). -/
theorem goes_registerWrite_engine (h2 : s.turn.sub = 2) (hd : s.turn.unit < 128) :
    Goes s .registerWrite (s.resetEngine s.turn.unit) := by
  show execRegisterWrite s = _
  simp [execRegisterWrite, h2, Nat.not_le.mpr hd]

end Rows

/-! ## The clauses of O52 -/

section Clauses
variable {s : State}

/-- SCFG: MCWIN and RWAYS are written, RWAYS from the next clock on. -/
theorem scfgWrite_sets (h8 : s.turn.val = 8) (hd : s.turn.unit < 4) :
    ∃ k : Die, Goes s .scfgWrite (s.modDie s.turn.unit fun _ => k)
      ∧ k = { s.die s.turn.unit with
        mcwin := fieldOf (s.given 0) 15 8, rways := min 8 (fieldOf (s.given 0) 3 0), rwaysWas := k.rwaysWas }
      ∧ k.rwaysAt s.cyc = (s.die s.turn.unit).rwaysAt s.cyc
      ∧ ∀ c, s.cyc < c → k.rwaysAt c = min 8 (fieldOf (s.given 0) 3 0) :=
  ⟨_, goes_scfgWrite h8 hd, rfl, Die.rwaysAt_setRways_same _ _ _, fun _ => Die.rwaysAt_setRways_later _ _⟩

/-- FILLMASK: the partition's mask is written, from the next clock on. -/
theorem fillmaskWrite_sets (hd : s.turn.unit < 4) (hp : s.turn.sub < 8)
    (may : s.mayWrite (.fillmask s.turn.unit s.turn.sub) (s.given 0)) :
    ∃ k : Die, Goes s .fillmaskWrite (s.modDie s.turn.unit fun _ => k)
      ∧ k = { s.die s.turn.unit with
        fillmask := put (s.die s.turn.unit).fillmask s.turn.sub ((s.given 0).setWidth 16), maskWas := k.maskWas }
      ∧ k.maskAt s.cyc s.turn.sub = (s.die s.turn.unit).maskAt s.cyc s.turn.sub
      ∧ ∀ c, s.cyc < c → k.maskAt c s.turn.sub = (s.given 0).setWidth 16 :=
  ⟨_, goes_fillmaskWrite hd hp may, rfl, Die.maskAt_setMask_same _ _ _ _, fun _ => Die.maskAt_setMask_later _ _ _⟩

/-- Only what a change makes of the block that stands matters. -/
theorem State.modObs_congr {p : Nat} {f g : Observe → Observe} (h : f (s.obs p) = g (s.obs p)) :
    s.modObs p f = s.modObs p g := by
  simp only [State.modObs, h]

/-- SRING: the base, and LOG2N unless the setting is rejected. -/
theorem ringConfigWrite_sets (hd : s.turn.unit < 8) (h0 : s.turn.sub = 0)
    (may : s.mayWrite (.sring s.turn.unit) (s.given 0)) :
    ∃ x : Word, Goes s .ringConfigWrite (s.modObs s.turn.unit fun o => { o with sring := x })
      ∧ fieldOf x 47 12 = fieldOf (s.given 0) 47 12
      ∧ fieldOf x 4 0 = if s.ringRejected s.turn.unit (s.given 0) then 0 else fieldOf (s.given 0) 4 0 := by
  refine ⟨s.ringValue s.turn.unit (s.obs s.turn.unit).sring (s.given 0), ?_, fieldOf_ringValue _ _ _ _⟩
  have hgo := goes_ringConfigWrite hd h0 may
  rwa [State.modObs_congr (g := fun o => { o with sring := s.ringValue s.turn.unit (s.obs s.turn.unit).sring (s.given 0) }) rfl]
    at hgo

/-- TINVC while DONE is 1: the GO takes effect. -/
theorem tinvcGo_starts (h8 : s.turn.val = 8) (hd : s.turn.unit < 4) (hdone : (s.die s.turn.unit).done = true) :
    let size := fieldOf (s.given 0) 6 4
    ∃ t, Goes s .tinvcGo t ∧ (t.die s.turn.unit).done = decide (6 ≤ size) ∧ (t.die s.turn.unit).err = decide (6 ≤ size)
      ∧ t.mem = s.mem
      ∧ (size < 6 →
        t.TlbClear s.turn.unit (fieldOf (s.given 0) 10 8) (s.die s.turn.unit).tinva.toNat (tinvBits size)) := by
  have hgo := goes_tinvcGo h8 hd
  rw [if_pos hdone] at hgo
  have hspec := s.startInval_spec hd (s.die s.turn.unit).tinva (s.given 0 ||| 1#64)
  simp only [fieldOf_or_one (s.given 0) 6 (show 0 < 4 by omega), fieldOf_or_one (s.given 0) 10 (show 0 < 8 by omega)] at hspec
  obtain ⟨hmem, hdone', herr, -, hclear⟩ := hspec
  exact ⟨_, hgo, hdone', herr, hmem, hclear⟩

/-- TINVC while DONE is 0: the GO is held with the VPAGE of the write. -/
theorem tinvcGo_holds (h8 : s.turn.val = 8) (hd : s.turn.unit < 4) (hdone : (s.die s.turn.unit).done = false) :
    ∃ x : Word, x.toNat % 2 = 1 ∧ x.toNat / 2 = (s.given 0).toNat / 2
      ∧ Goes s .tinvcGo (s.modDie s.turn.unit fun k => { k with held := k.held ++ [(k.tinva, x)] }) := by
  have hgo := goes_tinvcGo h8 hd
  rw [hdone] at hgo
  exact ⟨_, toNat_or_one_mod_two _, toNat_or_one_div_two _, hgo⟩

/-- DONE waits for the accesses that used a dropped translation. -/
theorem finishInval_waits {d : Nat} (hu : (s.hostReqs.any fun r => (s.die d).users.contains r.req) = true) :
    s.finishInval d = s := by simp only [State.finishInval, hu, Bool.or_true, if_true]

/-- Without such accesses DONE is set and the held GOs take effect. -/
theorem finishInval_starts {d : Nat} (hdone : (s.die d).done = false)
    (hu : (s.hostReqs.any fun r => (s.die d).users.contains r.req) = false) :
    s.finishInval d = (s.modDie d fun k => { k with done := true, users := [] }).startHeld d (s.die d).held := by
  simp only [State.finishInval, hu, hdone, Bool.or_self, Bool.false_eq_true, if_false]

/-- TINVC_DONE with nothing held. -/
theorem tinvcDone_ends (hd : s.turn.unit < 4) (hdone : (s.die s.turn.unit).done = false)
    (hu : (s.hostReqs.any fun r => (s.die s.turn.unit).users.contains r.req) = false) (hheld : (s.die s.turn.unit).held = []) :
    Goes s .tinvcDone (s.modDie s.turn.unit fun k => { k with done := true, users := [], held := [] }) := by
  have hgo := goes_tinvcDone hd
  rw [finishInval_starts hdone hu, hheld, State.startHeld, State.modDie_modDie] at hgo
  exact hgo

/-- TINVC_DONE with GOs held: they take effect in their order, each with the VPAGE of its write. -/
theorem tinvcDone_startsHeld (hd : s.turn.unit < 4) (hdone : (s.die s.turn.unit).done = false)
    (hu : (s.hostReqs.any fun r => (s.die s.turn.unit).users.contains r.req) = false) {h : Word × Word} {hs : List (Word × Word)}
    (hheld : (s.die s.turn.unit).held = h :: hs) :
    ∃ t, Goes s .tinvcDone t ∧ t.mem = s.mem
      ∧ (fieldOf h.2 6 4 < 6 →
        (t.die s.turn.unit).done = false ∧ (t.die s.turn.unit).err = false ∧ (t.die s.turn.unit).held = hs
          ∧ t.TlbClear s.turn.unit (fieldOf h.2 10 8) h.1.toNat (tinvBits (fieldOf h.2 6 4)))
      ∧ (hs = [] → 6 ≤ fieldOf h.2 6 4 →
        (t.die s.turn.unit).done = true ∧ (t.die s.turn.unit).err = true ∧ (t.die s.turn.unit).held = []) := by
  have hgo := goes_tinvcDone hd
  rw [finishInval_starts hdone hu, hheld] at hgo
  refine ⟨_, hgo, State.mem_startHeld hd _ _, State.startHeld_stands hd h hs, ?_⟩
  rintro rfl
  exact State.startHeld_reserved hd h

/-- REGISTER_WRITE of the mailbox: its buffer, and CMD, which a set BUSY ignores. -/
theorem registerWrite_mailbox (h1 : s.turn.sub = 1) (h0 : s.turn.val = 0) (ha : s.turn.unit % 8 = 0) :
    (s.turn.unit < 0x1000 → Goes s .registerWrite
      { s with keystone :=
        { s.keystone with buffer := writeBytes s.keystone.buffer s.turn.unit (bytesOfNat 8 (s.given 0).toNat) } })
    ∧ (s.turn.unit = 0x1800 → s.keystone.busy = false →
      ∃ c : Word, fieldOf c 7 0 = fieldOf (s.given 0) 7 0 ∧ fieldOf c 31 16 = fieldOf (s.given 0) 31 16
        ∧ Goes s .registerWrite { s with keystone := { s.keystone with cmd := c, busy := true } })
    ∧ (s.turn.unit = 0x1800 → s.keystone.busy = true → Goes s .registerWrite s) := by
  have hgo := goes_registerWrite_mgmt h1 h0 ha
  refine ⟨fun hbuf => ?_, fun hcmd hidle => ?_, fun hcmd hbusy => ?_⟩
  · simpa only [State.writeMgmtBar, hbuf, if_true] using hgo
  · obtain ⟨hcode, hlen⟩ := fieldOf_cmdWord (s.given 0)
    refine ⟨_, hcode, hlen, ?_⟩
    simpa [State.writeMgmtBar, hcmd, hidle] using hgo
  · simpa [State.writeMgmtBar, hcmd, hbusy] using hgo

/-- REGISTER_WRITE with sub 2: the engine is no longer frozen, and its queue stands. -/
theorem registerWrite_engine (h2 : s.turn.sub = 2) (hd : s.turn.unit < 128) :
    ∃ t, Goes s .registerWrite t ∧ (find t.engines s.turn.unit {}).frozen = false
      ∧ (find t.engines s.turn.unit {}).queue = (find s.engines s.turn.unit {}).queue ∧ t.mem = s.mem :=
  ⟨_, goes_registerWrite_engine h2 hd, by simp [State.resetEngine], by simp [State.resetEngine], rfl⟩

end Clauses

/-- Settles O52: each row's register write, taken from the lemma about that row. -/
theorem registersAreWritten : Obligations.RegistersAreWritten := by
  unfold Obligations.RegistersAreWritten
  intro s v d may
  refine ⟨fun h8 => ⟨scfgWrite_sets h8, goes_pctlWrite h8, fun hd => ⟨goes_portstatClr h8 hd, goes_portstatRetrain h8 hd⟩,
    fun h0 r hr => goes_registerWrite_device h8 h0 hr⟩, fillmaskWrite_sets, goes_pcntWrite, ringConfigWrite_sets,
    fun hd h8 => ⟨tinvcGo_starts h8 hd, tinvcGo_holds h8 hd⟩, fun hd hdone => ⟨fun hu => ?_, fun hu => ?_⟩,
    registerWrite_mailbox, registerWrite_engine⟩
  · have hgo := goes_tinvcDone hd
    rwa [finishInval_waits hu] at hgo
  · exact ⟨tinvcDone_ends hd hdone hu, fun h hs => tinvcDone_startsHeld hd hdone hu⟩

end Sys2Proof.Machine
end

section
/-!
SUPPORT. Decoding gives back what was encoded (02 R26-R40): what each field of a word of each format reads as.
-/

namespace Sys2Proof

/-! ## Bits of a word put together from fields -/

theorem toNat_append_eq {n k : Nat} (x : BitVec n) (y : BitVec k) : (x ++ y).toNat = x.toNat * 2 ^ k + y.toNat := by
  rw [BitVec.toNat_append, ← Nat.shiftLeft_add_eq_or_of_lt y.isLt, Nat.shiftLeft_eq]

theorem toNat_extract_eq {n : Nat} (x : BitVec n) (s l : Nat) : (x.extractLsb' s l).toNat = x.toNat / 2 ^ s % 2 ^ l := by
  rw [BitVec.extractLsb'_toNat, Nat.shiftRight_eq_div_pow]

/-! ## The formats of R26, read back -/

@[simp] theorem fields_mkRRR (m : BitVec 6) (d s t : BitVec 5) (fn : BitVec 11) :
    let w := mkRRR m d s t fn
    major w = m ∧ f25 w = d ∧ f20 w = s ∧ f15 w = t ∧ fn11 w = fn := by
  refine ⟨?_, ?_, ?_, ?_, ?_⟩ <;> apply BitVec.eq_of_toNat_eq <;>
    simp only [major, f25, f20, f15, fn11, mkRRR, toNat_append_eq, toNat_extract_eq] <;> omega

@[simp] theorem fields_mkI (m : BitVec 6) (d s : BitVec 5) (imm : BitVec 16) :
    let w := mkI m d s imm
    major w = m ∧ f25 w = d ∧ f20 w = s ∧ imm16 w = imm := by
  refine ⟨?_, ?_, ?_, ?_⟩ <;> apply BitVec.eq_of_toNat_eq <;>
    simp only [major, f25, f20, imm16, mkI, toNat_append_eq, toNat_extract_eq] <;> omega

@[simp] theorem fields_mkBF (m : BitVec 6) (d s : BitVec 5) (pos len : BitVec 6) (fn : BitVec 4) :
    let w := mkBF m d s pos len fn
    major w = m ∧ f25 w = d ∧ f20 w = s ∧ pos6 w = pos ∧ len6 w = len ∧ fn4 w = fn := by
  refine ⟨?_, ?_, ?_, ?_, ?_, ?_⟩ <;> apply BitVec.eq_of_toNat_eq <;>
    simp only [major, f25, f20, pos6, len6, fn4, mkBF, toNat_append_eq, toNat_extract_eq] <;> omega

@[simp] theorem fields_mkJ (m : BitVec 6) (disp : BitVec 26) :
    let w := mkJ m disp
    major w = m ∧ disp26 w = disp := by
  refine ⟨?_, ?_⟩ <;> apply BitVec.eq_of_toNat_eq <;>
    simp only [major, disp26, mkJ, toNat_append_eq, toNat_extract_eq] <;> omega

@[simp] theorem fields_mkBP (m : BitVec 6) (p : BitVec 3) (mode : BitVec 2) (zero : BitVec 5) (disp : BitVec 16) :
    let w := mkBP m p mode zero disp
    major w = m ∧ pred3 w = p ∧ mode2 w = mode ∧ f20 w = zero ∧ imm16 w = disp := by
  refine ⟨?_, ?_, ?_, ?_, ?_⟩ <;> apply BitVec.eq_of_toNat_eq <;>
    simp only [major, pred3, mode2, f20, imm16, mkBP, toNat_append_eq, toNat_extract_eq] <;> omega

@[simp] theorem fields_mkM (m : BitVec 6) (d c : BitVec 5) (lay fn : BitVec 8) :
    let w := mkM m d c lay fn
    major w = m ∧ f25 w = d ∧ f20 w = c ∧ lay8 w = lay ∧ fn8 w = fn := by
  refine ⟨?_, ?_, ?_, ?_, ?_⟩ <;> apply BitVec.eq_of_toNat_eq <;>
    simp only [major, f25, f20, lay8, fn8, mkM, toNat_append_eq, toNat_extract_eq] <;> omega

@[simp] theorem fields_mkV (m : BitVec 6) (zd za zb : BitVec 5) (ty : BitVec 4) (fn : BitVec 7) :
    let w := mkV m zd za zb ty fn
    major w = m ∧ f25 w = zd ∧ f20 w = za ∧ f15 w = zb ∧ ty4 w = ty ∧ fn7 w = fn := by
  refine ⟨?_, ?_, ?_, ?_, ?_, ?_⟩ <;> apply BitVec.eq_of_toNat_eq <;>
    simp only [major, f25, f20, f15, ty4, fn7, mkV, toNat_append_eq, toNat_extract_eq] <;> omega

@[simp] theorem fields_mkG (m : BitVec 6) (f1 f2 f3 : BitVec 5) (x : BitVec 6) (sub : BitVec 5) :
    let w := mkG m f1 f2 f3 x sub
    major w = m ∧ f25 w = f1 ∧ f20 w = f2 ∧ f15 w = f3 ∧ x6 w = x ∧ sub5 w = sub := by
  refine ⟨?_, ?_, ?_, ?_, ?_, ?_⟩ <;> apply BitVec.eq_of_toNat_eq <;>
    simp only [major, f25, f20, f15, x6, sub5, mkG, toNat_append_eq, toNat_extract_eq] <;> omega

@[simp] theorem fields_mkH (m : BitVec 6) (kind : BitVec 4) (payload : BitVec 22) :
    let w := mkH m kind payload
    major w = m ∧ kind4 w = kind ∧ pay22 w = payload := by
  refine ⟨?_, ?_, ?_⟩ <;> apply BitVec.eq_of_toNat_eq <;>
    simp only [major, kind4, pay22, mkH, toNat_append_eq, toNat_extract_eq] <;> omega
/-! ## Fields that are put together from smaller ones, by the widths of the parts -/

@[simp] theorem parts_5_1 (x : BitVec 5) (y : BitVec 1) :
    let f : BitVec 6 := x ++ y
    f.extractLsb' 0 1 = y ∧ f.extractLsb' 1 5 = x := by
  refine ⟨?_, ?_⟩ <;> apply BitVec.eq_of_toNat_eq <;>
    simp only [toNat_append_eq, toNat_extract_eq] <;> omega

@[simp] theorem parts_10_6 (k : BitVec 10) (y : BitVec 6) :
    let f : BitVec 16 := k ++ y
    f.extractLsb' 14 2 = k.extractLsb' 8 2 ∧ f.extractLsb' 6 8 = k.extractLsb' 0 8 ∧ f.extractLsb' 0 6 = y := by
  refine ⟨?_, ?_, ?_⟩ <;> apply BitVec.eq_of_toNat_eq <;>
    simp only [toNat_append_eq, toNat_extract_eq] <;> omega

@[simp] theorem parts_4_3_1 (x : BitVec 4) (y : BitVec 3) (z : BitVec 1) :
    let f : BitVec 8 := x ++ y ++ z
    f.extractLsb' 4 4 = x ∧ f.extractLsb' 1 3 = y ∧ f.extractLsb' 0 1 = z := by
  refine ⟨?_, ?_, ?_⟩ <;> apply BitVec.eq_of_toNat_eq <;>
    simp only [toNat_append_eq, toNat_extract_eq] <;> omega

@[simp] theorem parts_4_2_1_1 (x : BitVec 4) (y : BitVec 2) (z u : BitVec 1) :
    let f : BitVec 8 := x ++ y ++ z ++ u
    f.extractLsb' 4 4 = x ∧ f.extractLsb' 2 2 = y ∧ f.extractLsb' 1 1 = z ∧ f.extractLsb' 0 1 = u := by
  refine ⟨?_, ?_, ?_, ?_⟩ <;> apply BitVec.eq_of_toNat_eq <;>
    simp only [toNat_append_eq, toNat_extract_eq] <;> omega

@[simp] theorem parts_4_4 (x y : BitVec 4) :
    let f : BitVec 8 := x ++ y
    f.extractLsb' 4 4 = x ∧ f.extractLsb' 0 4 = y := by
  refine ⟨?_, ?_⟩ <;> apply BitVec.eq_of_toNat_eq <;>
    simp only [toNat_append_eq, toNat_extract_eq] <;> omega

@[simp] theorem parts_6_1_1 (k : BitVec 6) (y z : BitVec 1) :
    let f : BitVec 8 := k ++ y ++ z
    f.extractLsb' 4 4 = k.extractLsb' 2 4 ∧ f.extractLsb' 2 2 = k.extractLsb' 0 2 ∧ f.extractLsb' 1 1 = y
      ∧ f.extractLsb' 0 1 = z := by
  refine ⟨?_, ?_, ?_, ?_⟩ <;> apply BitVec.eq_of_toNat_eq <;>
    simp only [toNat_append_eq, toNat_extract_eq] <;> omega

@[simp] theorem parts_7_1 (k : BitVec 7) (y : BitVec 1) :
    let f : BitVec 8 := k ++ y
    f.extractLsb' 4 4 = k.extractLsb' 3 4 ∧ f.extractLsb' 1 3 = k.extractLsb' 0 3 ∧ f.extractLsb' 0 1 = y := by
  refine ⟨?_, ?_, ?_⟩ <;> apply BitVec.eq_of_toNat_eq <;>
    simp only [toNat_append_eq, toNat_extract_eq] <;> omega

@[simp] theorem parts_1_2_3 (x : BitVec 1) (y : BitVec 2) (z : BitVec 3) :
    let f : BitVec 6 := x ++ y ++ z
    f.extractLsb' 5 1 = x ∧ f.extractLsb' 3 2 = y ∧ f.extractLsb' 0 3 = z := by
  refine ⟨?_, ?_, ?_⟩ <;> apply BitVec.eq_of_toNat_eq <;>
    simp only [toNat_append_eq, toNat_extract_eq] <;> omega

@[simp] theorem parts_1_3_3 (x : BitVec 1) (y z : BitVec 3) :
    let f : BitVec 7 := x ++ y ++ z
    f.extractLsb' 3 4 = x ++ y ∧ f.extractLsb' 3 3 = y ∧ f.extractLsb' 0 3 = z := by
  refine ⟨?_, ?_, ?_⟩ <;> apply BitVec.eq_of_toNat_eq <;>
    simp only [toNat_append_eq, toNat_extract_eq] <;> omega

@[simp] theorem parts_4_3 (x : BitVec 4) (y : BitVec 3) :
    let f : BitVec 7 := x ++ y
    f.extractLsb' 3 4 = x ∧ f.extractLsb' 0 3 = y := by
  refine ⟨?_, ?_⟩ <;> apply BitVec.eq_of_toNat_eq <;>
    simp only [toNat_append_eq, toNat_extract_eq] <;> omega

@[simp] theorem parts_2_3 (x : BitVec 2) (y : BitVec 3) :
    let f : BitVec 5 := x ++ y
    f.extractLsb' 3 2 = x ∧ f.extractLsb' 0 3 = y := by
  refine ⟨?_, ?_⟩ <;> apply BitVec.eq_of_toNat_eq <;>
    simp only [toNat_append_eq, toNat_extract_eq] <;> omega

@[simp] theorem parts_4_1 (x : BitVec 4) (y : BitVec 1) :
    let f : BitVec 5 := x ++ y
    f.extractLsb' 1 4 = x ∧ f.extractLsb' 0 1 = y := by
  refine ⟨?_, ?_⟩ <;> apply BitVec.eq_of_toNat_eq <;>
    simp only [toNat_append_eq, toNat_extract_eq] <;> omega

@[simp] theorem parts_3_2_2 (x : BitVec 3) (y z : BitVec 2) :
    let f : BitVec 7 := x ++ y ++ z
    f.extractLsb' 4 3 = x ∧ f.extractLsb' 2 2 = y ∧ f.extractLsb' 0 2 = z := by
  refine ⟨?_, ?_, ?_⟩ <;> apply BitVec.eq_of_toNat_eq <;>
    simp only [toNat_append_eq, toNat_extract_eq] <;> omega

@[simp] theorem parts_5_2 (k : BitVec 5) (y : BitVec 2) :
    let f : BitVec 7 := k ++ y
    f.extractLsb' 4 3 = k.extractLsb' 2 3 ∧ f.extractLsb' 2 2 = k.extractLsb' 0 2 ∧ f.extractLsb' 0 2 = y := by
  refine ⟨?_, ?_, ?_⟩ <;> apply BitVec.eq_of_toNat_eq <;>
    simp only [toNat_append_eq, toNat_extract_eq] <;> omega

@[simp] theorem parts_5_1_1 (k : BitVec 5) (y z : BitVec 1) :
    let f : BitVec 7 := k ++ y ++ z
    f.extractLsb' 4 3 = k.extractLsb' 2 3 ∧ f.extractLsb' 2 2 = k.extractLsb' 0 2 ∧ f.extractLsb' 1 1 = y
      ∧ f.extractLsb' 0 1 = z := by
  refine ⟨?_, ?_, ?_, ?_⟩ <;> apply BitVec.eq_of_toNat_eq <;>
    simp only [toNat_append_eq, toNat_extract_eq] <;> omega

@[simp] theorem parts_14_8 (x : BitVec 14) (y : BitVec 8) :
    let f : BitVec 22 := x ++ y
    f.extractLsb' 8 14 = x ∧ f.extractLsb' 0 8 = y := by
  refine ⟨?_, ?_⟩ <;> apply BitVec.eq_of_toNat_eq <;>
    simp only [toNat_append_eq, toNat_extract_eq] <;> omega

@[simp] theorem parts_20_2 (x : BitVec 20) (y : BitVec 2) :
    let f : BitVec 22 := x ++ y
    f.extractLsb' 2 20 = x ∧ f.extractLsb' 0 2 = y := by
  refine ⟨?_, ?_⟩ <;> apply BitVec.eq_of_toNat_eq <;>
    simp only [toNat_append_eq, toNat_extract_eq] <;> omega

/-- HMOD's payload (08 R186). -/
@[simp] theorem parts_hmod (r : BitVec 3) (t : BitVec 1) (p : BitVec 3) (z o u : BitVec 1) (b : BitVec 5) (c : BitVec 2)
    (e : BitVec 3) (x : BitVec 2) :
    let f : BitVec 22 := r ++ t ++ p ++ z ++ o ++ u ++ b ++ c ++ e ++ x
    f.extractLsb' 19 3 = r ∧ f.extractLsb' 18 1 = t ∧ f.extractLsb' 15 3 = p ∧ f.extractLsb' 14 1 = z
      ∧ f.extractLsb' 13 1 = o ∧ f.extractLsb' 12 1 = u ∧ f.extractLsb' 7 5 = b ∧ f.extractLsb' 5 2 = c
      ∧ f.extractLsb' 2 3 = e ∧ f.extractLsb' 0 2 = x := by
  refine ⟨?_, ?_, ?_, ?_, ?_, ?_, ?_, ?_, ?_, ?_⟩ <;> apply BitVec.eq_of_toNat_eq <;>
    simp only [toNat_append_eq, toNat_extract_eq] <;> omega

/-! ## The table of a word's major (R38) -/

theorem decodeFields_mkG (d s t : BitVec 5) (x : BitVec 6) (n : BitVec 5) :
    (let w := mkG 0x00#6 d s t x n; decodeFields w = decodeSys w)
      ∧ (let w := mkG 0x1C#6 d s t x n; decodeFields w = decodeLay w)
      ∧ (let w := mkG 0x1E#6 d s t x n; decodeFields w = decodeFence w)
      ∧ (let w := mkG 0x1F#6 d s t x n; decodeFields w = decodeMsg w)
      ∧ (let w := mkG 0x20#6 d s t x n; decodeFields w = decodeGrp w)
      ∧ (let w := mkG 0x21#6 d s t x n; decodeFields w = decodeBar w)
      ∧ (let w := mkG 0x22#6 d s t x n; decodeFields w = decodeTag w)
      ∧ (let w := mkG 0x23#6 d s t x n; decodeFields w = decodeCopy w)
      ∧ (let w := mkG 0x24#6 d s t x n; decodeFields w = decodeMat w)
      ∧ (let w := mkG 0x2F#6 d s t x n; decodeFields w = decodeLnt w) := by
  simp only [decodeFields, fields_mkG, and_self]

theorem decodeFields_mkM (d c : BitVec 5) (l f : BitVec 8) :
    (let w := mkM 0x18#6 d c l f; decodeFields w = decodeLd w)
      ∧ (let w := mkM 0x19#6 d c l f; decodeFields w = decodeSt w)
      ∧ (let w := mkM 0x1A#6 d c l f; decodeFields w = decodeLdro w)
      ∧ (let w := mkM 0x1B#6 d c l f; decodeFields w = decodeQmem w)
      ∧ (let w := mkM 0x1D#6 d c l f; decodeFields w = decodeAtom w) := by
  simp only [decodeFields, fields_mkM, and_self]

theorem decodeFields_mkV (d a b : BitVec 5) (t : BitVec 4) (f : BitVec 7) :
    (let w := mkV 0x25#6 d a b t f; decodeFields w = decodeVarith w)
      ∧ (let w := mkV 0x26#6 d a b t f; decodeFields w = decodeVcmp w)
      ∧ (let w := mkV 0x27#6 d a b t f; decodeFields w = decodeVconv w)
      ∧ (let w := mkV 0x28#6 d a b t f; decodeFields w = decodeVred w)
      ∧ (let w := mkV 0x29#6 d a b t f; decodeFields w = decodeVsfu w)
      ∧ (let w := mkV 0x2E#6 d a b t f; decodeFields w = decodeVview w) := by
  simp only [decodeFields, fields_mkV, and_self]

theorem decodeFields_mkRRR (d s t : BitVec 5) (f : BitVec 11) :
    (let w := mkRRR 0x01#6 d s t f; decodeFields w = decodeAlu w)
      ∧ (let w := mkRRR 0x14#6 d s t f; decodeFields w = decodeJmpr w) := by
  simp only [decodeFields, fields_mkRRR, and_self]

theorem decodeFields_mkH (k : BitVec 4) (p : BitVec 22) : decodeFields (mkH 0x3F#6 k p) = decodeHint (mkH 0x3F#6 k p) := by
  simp only [decodeFields, fields_mkH]

theorem decodeFields_mkBF (d s : BitVec 5) (p l : BitVec 6) (f : BitVec 4) :
    decodeFields (mkBF 0x02#6 d s p l f) = decodeBitf (mkBF 0x02#6 d s p l f) := by
  simp only [decodeFields, fields_mkBF]

theorem decodeFields_mkI (d s : BitVec 5) (n : BitVec 16) :
    decodeFields (mkI 0x0B#6 d s n) = decodeShi (mkI 0x0B#6 d s n) := by
  simp only [decodeFields, fields_mkI]

/-! ## Decoding what was encoded -/

/-- VCMP's condition stands in the field that chooses the row. -/
theorem decodeVcmp_mkV_vcmp (a b : BitVec 5) (t : BitVec 4) (c p : BitVec 3) :
    decodeVcmp (mkV 0x26#6 0#5 a b t (0#1 ++ c ++ p)) = .ok (.vcmp a b t c p) := by
  have hc : ∀ c : BitVec 3, c = 0#3 ∨ c = 1#3 ∨ c = 2#3 ∨ c = 3#3 ∨ c = 4#3 ∨ c = 5#3 ∨ c = 6#3 ∨ c = 7#3 := by decide
  simp only [decodeVcmp, fields_mkV, parts_1_3_3]
  rcases hc c with rfl | rfl | rfl | rfl | rfl | rfl | rfl | rfl <;> rfl

/-- The fields of an instruction's word are those of the instruction. The word goes to the table of its major; there its fields are
read back, and they choose the instruction's row. -/
theorem decodeFields_encode {i : Instr} (hrow : Machine.isRow i = false) (hword : ∀ w, i ≠ .illegalWord w) :
    decodeFields (encode i) = .ok i := by
  cases i
  case vcmp a b t c p => simpa only [decodeFields_mkV, encode] using decodeVcmp_mkV_vcmp a b t c p
  case illegalWord w => exact absurd rfl (hword w)
  all_goals try exact Bool.noConfusion hrow
  all_goals
    simp only [encode, decodeFields_mkRRR, decodeFields_mkBF, decodeFields_mkI, decodeFields_mkM, decodeFields_mkG, decodeFields_mkV,
      decodeFields_mkH]
    dsimp only [decodeFields, decodeSys, decodeAlu, decodeBitf, decodeShi, decodeJmpr, decodeLd, decodeSt, decodeLdro, decodeQmem,
      decodeLay, decodeAtom, decodeFence, decodeMsg, decodeGrp, decodeBar, decodeTag, decodeCopy, decodeMat, decodeVarith, decodeVcmp,
      decodeVconv, decodeVred, decodeVsfu, decodeVview, decodeLnt, decodeHint]
    simp -iota only [fields_mkRRR, fields_mkBF, fields_mkI, fields_mkJ, fields_mkBP, fields_mkM, fields_mkG, fields_mkV, fields_mkH,
      parts_5_1, parts_10_6, parts_4_3_1, parts_4_2_1_1, parts_4_4, parts_6_1_1, parts_7_1, parts_1_2_3, parts_4_3, parts_2_3,
      parts_4_1, parts_3_2_2, parts_5_2, parts_5_1_1, parts_14_8, parts_20_2, parts_hmod]
    rfl

/-- The word of a well-formed instruction decodes to it, with every operand (02 R26, R38). -/
theorem decode_encode {i : Instr} (hrow : Machine.isRow i = false) (hword : ∀ w, i ≠ .illegalWord w)
    (hwf : i.wellFormed = true) : decode (encode i) = .ok i := by
  simp only [decode, decodeFields_encode hrow hword, hwf, if_true]

end Sys2Proof

namespace Sys2Proof.Machine

theorem wordInstr_encode {i : Instr} (hrow : isRow i = false) (hword : ∀ w, i ≠ .illegalWord w) (hwf : i.wellFormed = true) :
    wordInstr (encode i) = i := by
  rw [wordInstr, decode_encode hrow hword hwf]

end Sys2Proof.Machine
end

section
/-!
SUPPORT. Turns of the A half (01 R16, R17; 02 R24): a hint that is fetched, a word that runs; and the statements O15 and O4 put
together from them.
-/

namespace Sys2Proof.Machine

/-! ## Hints (02 R29, R31; 08 R184) -/

/-- The context after a hint of this word is fetched: the hint stands in its group, and control is at the next word. -/
def Ctx.hinting (c : Ctx) (w : BitVec 32) : Ctx :=
  { c with hints := c.hints ++ [{ addr := c.pc.toNat, word := w }], pc := c.pc + 4#52, stallA := .none, waitA := none }

section Hints
variable {s : State}

/-- A hint that is fetched joins the group. -/
theorem fetchHint_joins (w : BitVec 32) (hi : s.actor.issues = true) (hA : s.turn.half = .A) :
    fetchHint w s = .next (s.withActor (s.actor.hinting w)) := by
  simp [fetchHint, hi, hA, State.modActor_eq, Ctx.hinting]

/-- A hint word whose payload is not allowed is fetched like any hint. -/
theorem execIllegalWord_hint {w : BitVec 32} (hw : isHintWord w = true) (hk : (kind4 w).toNat ≤ 3) :
    execIllegalWord w s = fetchHint w s := by
  simp [execIllegalWord, hw, hk]

/-- HSTALL joins the group and holds its instruction back. -/
theorem fetchStall_holds (n : Nat) (w : BitVec 32) (hi : s.actor.issues = true) (hA : s.turn.half = .A) :
    fetchStall n w s = .next (s.withActor { s.actor.hinting w with heldTo := s.cyc + n, lost := false }) := by
  rw [fetchStall, if_neg (by simp [hi, hA])]
  refine (fetchHint_joins (s := s.modActor _) w (by rwa [State.actor_modActor]) hA).trans ?_
  rw [State.actor_modActor, State.modActor_eq, State.withActor_withActor]
  rfl

end Hints

/-- Settles O15: every hint is fetched by `fetchHint`, HSTALL by `fetchStall`. -/
theorem hintsWaitForTheirInstruction : Obligations.HintsWaitForTheirInstruction := by
  unfold Obligations.HintsWaitForTheirInstruction
  intro s hi hA
  refine ⟨?_, fun n => fetchStall_holds n.toNat _ hi hA⟩
  rintro i (⟨p, rfl⟩ | ⟨r, t, p, z, o, u, b, c, e, rfl⟩ | ⟨x, rfl⟩ | ⟨w, rfl, hw, hk⟩)
  · exact fetchHint_joins _ hi hA
  · exact fetchHint_joins _ hi hA
  · exact fetchHint_joins _ hi hA
  · exact (execIllegalWord_hint hw hk).trans (fetchHint_joins _ hi hA)

/-! ## A word that runs (01 R16, 02 R24) -/

section Turns
variable {s : State}

/-- A fetched word that is no hint, and that nothing holds back, runs once its sources are ready. -/
theorem State.fetchA_runs {n k : Nat} {w : BitVec 32} {u : State} (hw : isHintWord w = false)
    (hheld : (s.ctx n k).heldTo ≤ s.cyc) (hf : s.fetchWord n k (s.ctx n k).pc.toNat = .ok (w, u))
    (hready : u.operandsReady n k (wordInstr w) = true) : s.fetchA n k = .run (wordInstr w) u := by
  simp [State.fetchA, hf, hw, Nat.not_lt.mpr hheld, hready]

/-- At an instruction boundary, where nothing else takes the turn, the A half fetches. -/
theorem State.turnA_fetches {n k : Nat} (hi : (s.ctx n k).issues = true) (hint : (s.ctx n k).takesInterrupt = false)
    (hauto : (s.ctx n k).auto = false) (hhang : (s.ctx n k).hangs = false) : s.turnA n k = s.fetchA n k := by
  simp [State.turnA, hi, hint, hauto, hhang]

/-- The turn of an A half of a device and a cluster that are awake. -/
theorem State.fetched_A (hrun : s.idle = .run) (hcluster : (s.cluster (s.turn.core / 8)).idle = .run) (hA : s.turn.half = .A) :
    s.fetched = s.turnA s.turn.core s.turn.ctx := by
  simp [State.fetched, hrun, hcluster, hA]

/-- A turn of the agenda that comes to an instruction is `exec` of it. -/
theorem step_issue_runs {t : Turn} {rest : List Act} {i : Instr} {u : State} (hag : s.agenda = .issue t :: rest)
    (hcore : coreOk t.core = true) (hctx : t.ctx < 4) (hspent : ({ s with agenda := rest } : State).spent t = false)
    (hf : ({ s with agenda := rest, turn := t } : State).fetched = .run i u) :
    step s = nextWith (fun v => v.afterTurn u t i) (exec i u) := by
  simp [step, State.takeAct, hag, doAct, issueAct, hcore, hctx, hspent, hf]

end Turns

/-- Settles O4: the turn fetches the word, and the word of a well-formed instruction decodes to it. -/
theorem aStepRunsTheDecodedInstruction : Obligations.AStepRunsTheDecodedInstruction := by
  unfold Obligations.AStepRunsTheDecodedInstruction
  intro s t rest i u hag hcore hctx hA p hspent hrun hcluster hi hint hauto hhang hheld hrow hword hwf hhint hfetch hready
  have hdec : wordInstr (encode i) = i := wordInstr_encode hrow hword hwf
  have hfetched : p.fetched = .run i u := by
    calc p.fetched = p.turnA t.core t.ctx := State.fetched_A hrun hcluster hA
      _ = p.fetchA t.core t.ctx := State.turnA_fetches hi hint hauto hhang
      _ = .run (wordInstr (encode i)) u := State.fetchA_runs hhint hheld hfetch (by rwa [hdec])
      _ = .run i u := by rw [hdec]
  exact step_issue_runs hag hcore hctx hspent hfetched

end Sys2Proof.Machine
end

section
/-!
SUPPORT. Reset and the stages of a start (01 R17; 22 R396, R397), and the statement O49 put together from them.
-/

namespace Sys2Proof.Machine

/-! ## The stage at which a start fails (22 R396) -/

section Stages
variable {s : State}

/-- A stage fails: for another cause, stage 2 where neither firmware slot verifies, stage 3 where another image does not. -/
def State.stageFails (s : State) (n : Nat) : Bool :=
  s.turn.val == n || (n == 2 && !s.verifies 0 && !s.verifies 1) || (n == 3 && !s.verifies 2)

/-- A start fails at the first stage that fails. -/
theorem State.failsAt_eq_find (s : State) : s.failsAt = (([1, 2, 3, 4, 5, 6].find? s.stageFails).getD 0) := rfl

theorem State.failsAt_le (s : State) : s.failsAt ≤ 6 := by
  rw [State.failsAt_eq_find]
  cases h : [1, 2, 3, 4, 5, 6].find? s.stageFails with
  | none => exact Nat.zero_le _
  | some n =>
    have hmem := List.mem_of_find?_eq_some h
    simp only [List.mem_cons, List.not_mem_nil, or_false] at hmem
    simp only [Option.getD_some]
    omega

theorem State.failsAt_eq_zero (hval : ¬(1 ≤ s.turn.val ∧ s.turn.val ≤ 6)) (hslot : s.verifies 0 = true ∨ s.verifies 1 = true)
    (hother : s.verifies 2 = true) : s.failsAt = 0 := by
  have hnone : [1, 2, 3, 4, 5, 6].find? s.stageFails = none := by
    rw [List.find?_eq_none]
    intro n hn
    have hne : s.turn.val ≠ n := by simp only [List.mem_cons, List.not_mem_nil, or_false] at hn; omega
    rcases hslot with hslot | hslot <;> simp [State.stageFails, hne, hslot, hother]
  rw [State.failsAt_eq_find, hnone]
  rfl

theorem State.failsAt_eq_two (hval : s.turn.val ≠ 1) (hslot : ¬(s.verifies 0 = true ∨ s.verifies 1 = true)) : s.failsAt = 2 := by
  obtain ⟨h0, h1⟩ := not_or.mp hslot
  simp [State.failsAt_eq_find, State.stageFails, hval, h0, h1]

theorem State.failsAt_eq_three (hslot : s.verifies 0 = true ∨ s.verifies 1 = true) (hval : s.turn.val = 0 ∨ 3 ≤ s.turn.val)
    (hother : s.verifies 2 = false) : s.failsAt = 3 := by
  have hval1 : s.turn.val ≠ 1 := by omega
  have hval2 : s.turn.val ≠ 2 := by omega
  rcases hslot with hslot | hslot <;>
    simp [State.failsAt_eq_find, State.stageFails, hval1, hval2, hslot, hother]

end Stages

/-- The reasons of the stages, by their numbers. -/
theorem stageReason_eq_getD {n : Nat} (h0 : n ≠ 0) (h6 : n ≤ 6) : stageReason n = [6, 1, 1, 3, 2, 4].getD (n - 1) 0 := by
  have h : ∀ n, n ≤ 6 → n ≠ 0 → stageReason n = [6, 1, 1, 3, 2, 4].getD (n - 1) 0 := by decide
  exact h n h6 h0

/-! ## What a failed start leaves (22 R396, R397) -/

theorem Keystone.failAt_minimal (k : Keystone) (stage reason : Nat) :
    (k.failAt stage reason).minimal = decide (2 ≤ k.fails) := by
  simp only [Keystone.failAt, decide_eq_decide]
  omega

/-- The Kiln serves after the third failure in a row, when both firmware slots failed their verification. -/
theorem Keystone.failAt_kiln (k : Keystone) (stage reason : Nat) :
    (k.failAt stage reason).kiln = true ↔ 2 ≤ k.fails ∧ stage = 2 ∧ reason = 1 := by
  simp only [Keystone.failAt, Bool.and_eq_true, decide_eq_true_eq, beq_iff_eq]
  omega

/-! ## What a complete start leaves (12 R266, R278) -/

theorem State.port_modPort (s : State) (n m : Nat) (f : Port → Port) :
    (s.modPort n f).port m = if m = n then f (s.port n) else s.port m := by
  simp only [State.port, State.modPort, find_put]

/-- A port that training has brought up, with its STOPAT. -/
def Port.trained (k : Port) (stopAt : Nat) : Port := { k with state := .up, stopAt := stopAt, stop := [], row := 0 }

/-- Training of one port, which the mask may leave as it is. -/
def State.trainPort (mask : Nat) (s : State) (p : Nat) : State :=
  if mask.testBit p then s.modPort p fun k => k.trained ((s.given (2 + p)).toNat + 4) else s

theorem State.trainPort_frame (mask : Nat) (s : State) (p : Nat) :
    s.trainPort mask p = { s with ports := (s.trainPort mask p).ports } := by
  unfold State.trainPort
  split <;> rfl

/-- Training of some ports changes nothing else. -/
theorem State.foldl_trainPort_frame (mask : Nat) (ps : List Nat) (s : State) :
    ps.foldl (State.trainPort mask) s = { s with ports := (ps.foldl (State.trainPort mask) s).ports } := by
  induction ps generalizing s with
  | nil => rfl
  | cons q ps ih =>
    rw [List.foldl_cons, ih, State.trainPort_frame]

theorem State.port_trainPort (mask : Nat) (s : State) (q p : Nat) : (State.trainPort mask s q).port p =
    if p = q ∧ mask.testBit p = true then (s.port p).trained ((s.given (2 + p)).toNat + 4) else s.port p := by
  unfold State.trainPort
  by_cases hq : mask.testBit q = true
  · rw [if_pos hq, State.port_modPort]
    by_cases hp : p = q
    · subst hp; simp [hq]
    · simp [hp]
  · rw [if_neg hq, if_neg]
    rintro ⟨rfl, h⟩
    exact hq h

/-- Training brings up the ports of the mask, and no other. -/
theorem State.port_foldl_trainPort (mask : Nat) (ps : List Nat) (s : State) (p : Nat) :
    (ps.foldl (State.trainPort mask) s).port p =
      if p ∈ ps ∧ mask.testBit p = true then (s.port p).trained ((s.given (2 + p)).toNat + 4) else s.port p := by
  induction ps generalizing s with
  | nil => simp
  | cons q ps ih =>
    have hgiven : (State.trainPort mask s q).given = s.given := by rw [State.trainPort_frame]; rfl
    rw [List.foldl_cons, ih, hgiven, State.port_trainPort]
    by_cases hm : mask.testBit p = true
    · by_cases hps : p ∈ ps <;> simp only [hm, hps, List.mem_cons, and_true, or_true, or_false, if_true, if_false]
      split <;> rfl
    · simp only [hm, and_false, if_false, Bool.false_eq_true]

/-- The links that train are up, with their STOPATs, and the device index is fixed. -/
theorem State.trainLinks_eq (s : State) (mask dev : Nat) :
    s.trainLinks mask dev = (rangeFrom 0 12).foldl (State.trainPort mask) { s with devidx := dev } := rfl

theorem State.trainLinks_frame (s : State) (mask dev : Nat) :
    s.trainLinks mask dev = { s with devidx := dev, ports := (s.trainLinks mask dev).ports } := by
  rw [State.trainLinks_eq, State.foldl_trainPort_frame]

theorem State.port_trainLinks (s : State) (mask dev : Nat) {p : Nat} (hp : p < 12) : (s.trainLinks mask dev).port p =
    if mask.testBit p = true then (s.port p).trained ((s.given (2 + p)).toNat + 4) else s.port p := by
  have hmem : ∀ p, p < 12 → p ∈ rangeFrom 0 12 := by decide
  rw [State.trainLinks_eq, State.port_foldl_trainPort]
  simp only [hmem p hp, true_and]
  rfl

/-- The links that a start trains stand in the low bits of word 0. -/
theorem testBit_links (v : Word) {p : Nat} (hp : p < 12) : (fieldOf v 11 0).testBit p = v.getLsbD p := by
  have hlow : fieldOf v 11 0 = v.toNat % 2 ^ 12 := by simp [fieldOf, bitsOf]
  rw [hlow, Nat.testBit_mod_two_pow, BitVec.getLsbD, decide_eq_true hp, Bool.true_and]

/-! ## The rows -/

section Rows
variable {s : State}

theorem startable_of_standing (hstage : s.keystone.stage ≠ 7) (hmin : s.keystone.minimal = false) :
    s.keystone.startable = true := by
  simp [Keystone.startable, hstage, hmin]

theorem goes_deviceStart (h : s.keystone.startable = true) : Goes s .deviceStart s.runStart := by
  show execDeviceStart s = _
  rw [execDeviceStart, if_pos h]

theorem goes_thermalTrip (h1 : 1 ≤ s.turn.val) (h6 : s.turn.val ≤ 6) (h : s.keystone.startable = true) :
    Goes s .thermalTrip { s with keystone := s.keystone.failAt s.turn.val 5 } := by
  show execThermalTrip s = _
  simp [execThermalTrip, h, Nat.not_lt.mpr h1, Nat.not_lt.mpr h6]

/-- RESET of the mailbox, outside minimal mode: a full start, through reset. -/
theorem goes_mailboxReset (h : MailIs s 0x40) : Goes s .mailboxReset s.resetDevice.runStart := by
  obtain ⟨hbusy, hcode, hmin⟩ := h
  have hruns : s.keystone.runs 0x40 = true := by
    simp [Keystone.runs, Keystone.code, hbusy, hmin, fieldOf, bitsOf, hcode]
  show execMailboxReset s = _
  simp [execMailboxReset, hruns, hmin]

theorem startable_resetDevice (h : s.keystone.fails < 3) : s.resetDevice.keystone.startable = true := by
  simp [Keystone.startable, State.resetDevice, h]

/-- A start none of whose stages fails completes. -/
theorem runStart_completes (h : s.failsAt = 0) : let t := s.runStart
    t.keystone = s.keystone.complete ∧ t.devidx = (s.given 1).toNat % 256 ∧ t.mem = s.mem ∧ t.cores = s.cores
      ∧ ∀ p, p < 12 → t.port p =
        if (s.given 0).getLsbD p = true then (s.port p).trained ((s.given (2 + p)).toNat + 4) else s.port p := by
  have ht : s.runStart = ({ s with keystone := s.keystone.complete } : State).trainLinks
      (fieldOf (s.given 0) 11 0) (fieldOf (s.given 1) 7 0) := by
    simp [State.runStart, h]
  have hframe := ht.trans (State.trainLinks_frame _ _ _)
  refine ⟨by rw [hframe], ?_, by rw [hframe], by rw [hframe], fun p hp => ?_⟩
  · rw [hframe]; simp [fieldOf, bitsOf]
  · rw [ht, State.port_trainLinks _ _ _ hp, testBit_links _ hp]
    rfl

/-- A start fails at its first stage that fails. -/
theorem runStart_fails (h : s.failsAt ≠ 0) :
    s.runStart = { s with keystone := s.keystone.failAt s.failsAt (stageReason s.failsAt) } := by
  rw [State.runStart, if_pos h]

end Rows

/-! ## The clauses of O49 -/

section Clauses
variable {s : State}

theorem deviceStart_completes (hstart : s.keystone.startable = true) (h : s.failsAt = 0) :
    ∃ t, Goes s .deviceStart t ∧ t.keystone.stage = 7 ∧ t.keystone.fails = 0
      ∧ t.keystone.minimal = false ∧ t.devidx = (s.given 1).toNat % 256 ∧ t.mem = s.mem ∧ t.cores = s.cores
      ∧ ∀ p, p < 12 → (t.port p).state = (if (s.given 0).getLsbD p then .up else (s.port p).state)
        ∧ ((s.given 0).getLsbD p = true → (t.port p).stopAt = (s.given (2 + p)).toNat + 4) := by
  obtain ⟨hk, hdev, hmem, hcores, hports⟩ := runStart_completes h
  refine ⟨_, goes_deviceStart hstart, by rw [hk]; rfl, by rw [hk]; rfl, by rw [hk]; rfl, hdev, hmem, hcores, fun p hp => ?_⟩
  rw [hports p hp]
  split
  case isTrue hbit => exact ⟨rfl, fun _ => rfl⟩
  case isFalse hbit => exact ⟨rfl, fun hbit' => absurd hbit' hbit⟩

theorem deviceStart_fails (hstart : s.keystone.startable = true) (h : s.failsAt ≠ 0) :
    ∃ k : Keystone, Goes s .deviceStart { s with keystone := k }
      ∧ k.stage = s.failsAt ∧ k.fails = min 3 (s.keystone.fails + 1) ∧ k.minimal = decide (2 ≤ s.keystone.fails)
      ∧ k.reason = [6, 1, 1, 3, 2, 4].getD (s.failsAt - 1) 0
      ∧ (k.kiln = true ↔ 2 ≤ s.keystone.fails ∧ s.failsAt = 2) := by
  have hgo := goes_deviceStart hstart
  rw [runStart_fails h] at hgo
  refine ⟨_, hgo, rfl, rfl, Keystone.failAt_minimal _ _ _, stageReason_eq_getD h s.failsAt_le, ?_⟩
  have hreason : s.failsAt = 2 → stageReason s.failsAt = 1 := fun h2 => by rw [h2]; rfl
  rw [Keystone.failAt_kiln]
  exact ⟨fun ⟨hfails, h2, _⟩ => ⟨hfails, h2⟩, fun ⟨hfails, h2⟩ => ⟨hfails, h2, hreason h2⟩⟩

theorem thermalTrip_fails (hstart : s.keystone.startable = true) (h1 : 1 ≤ s.turn.val) (h6 : s.turn.val ≤ 6) :
    ∃ k : Keystone, Goes s .thermalTrip { s with keystone := k }
      ∧ k.stage = s.turn.val ∧ k.fails = min 3 (s.keystone.fails + 1) ∧ k.minimal = decide (2 ≤ s.keystone.fails)
      ∧ k.reason = 5 ∧ k.kiln = false := by
  refine ⟨_, goes_thermalTrip h1 h6 hstart, rfl, rfl, Keystone.failAt_minimal _ _ _, rfl, ?_⟩
  simp [← Bool.not_eq_true, Keystone.failAt_kiln]

end Clauses

/-- Settles O49: what a reset leaves is read off it; a start runs to the first stage that fails. -/
theorem devicesResetAndStart : Obligations.DevicesResetAndStart := by
  unfold Obligations.DevicesResetAndStart
  intro s
  refine ⟨⟨s.resetDevice, rfl, rfl, rfl, rfl, rfl, rfl, rfl, rfl, rfl, rfl, rfl, rfl, rfl, rfl, rfl, rfl, rfl, rfl, rfl, rfl, rfl,
    goes_mailboxReset, fun h => goes_deviceStart (startable_resetDevice h)⟩, fun hstage hmin => ?_⟩
  have hstart := startable_of_standing hstage hmin
  exact ⟨deviceStart_completes hstart, deviceStart_fails hstart, State.failsAt_eq_zero, State.failsAt_eq_two, State.failsAt_eq_three,
    thermalTrip_fails hstart⟩

end Sys2Proof.Machine
end

section
/-!
SUPPORT. The reply of an atomic (11 R257, R259; 15 R370), and the refutation of O54 by it.
-/

namespace Sys2Proof.Machine

/-- The reply of an ACAS that swapped: the old value, and STATUS 1 (R259). -/
def swapReply : Reply := { value := 5#64, status := 1 }

/-- The request of an ACAS of a 64-bit word at another device into a1, with that reply. -/
def swapPend : Pend :=
  { kind := .atomic, remote := true, dev := 1, dest := 1#5, ty := 15, setsStatus := true, swaps := true, reply := some swapReply }

/-- A context that runs and whose ACAS has been answered so. -/
def swapReplied : State := State.reset.withActor { status := .running, pend := some swapPend }

/-- The context after a1 took the old value. -/
def swapTaken : Ctx := { swapReplied.actor with pend := none, a := swapReplied.actor.a.set 1 5#64 }

/-- An ACAS at another device that swapped makes the activation unrollable, when its reply comes (15 R370). -/
theorem atomicReply_swapped_unrolls : ∃ t, exec .atomicReply swapReplied = .next t ∧ t.actor.unroll = true :=
  ⟨_, rfl, rfl⟩

/-- Refutes O54: its clause on ATOMIC_REPLY has nothing change but the destination, STATUS and the causal order.
The reply of an ACAS at another device that swapped also makes the activation unrollable (15 R370): `swapReplied` is such a state. -/
theorem not_memoryRowsTakePlace : ¬Obligations.MemoryRowsTakePlace := by
  unfold Obligations.MemoryRowsTakePlace
  intro h
  obtain ⟨-, hreplies, -⟩ := h swapReplied
  obtain ⟨-, hatomic⟩ := hreplies swapPend swapReply rfl rfl rfl rfl
  have hgo := hatomic (.inl rfl) swapTaken rfl
  obtain ⟨t, ht, hunroll⟩ := atomicReply_swapped_unrolls
  rw [Goes, ht, Host.Outcome.next.injEq] at hgo
  rw [hgo] at hunroll
  exact absurd hunroll (by decide)

end Sys2Proof.Machine
end

section
/-!
SUPPORT. A word that decodes is the encoding of what it decodes to (02 R26, R27, R38): every word is a word of each format, and the
table of its major accepts it only where its unused fields are zero. The statements O1, O2 and O3 put together from this and
from `decode_encode`.
-/

namespace Sys2Proof

/-! ## Every word is a word of each format (R26) -/

/-- A bit vector is two parts put together. -/
theorem exists_append {n k : Nat} (f : BitVec (n + k)) : ∃ (x : BitVec n) (y : BitVec k), f = x ++ y := by
  refine ⟨f.extractLsb' k n, f.extractLsb' 0 k, BitVec.eq_of_toNat_eq ?_⟩
  rw [toNat_append_eq, toNat_extract_eq, toNat_extract_eq, pow_zero, Nat.div_one,
    Nat.mod_eq_of_lt (Nat.div_lt_of_lt_mul (by rw [mul_comm, ← pow_add]; exact f.isLt)), mul_comm]
  exact (Nat.div_add_mod _ _).symm

theorem exists_mkRRR (w : BitVec 32) : ∃ m d s t fn, w = mkRRR m d s t fn := by
  obtain ⟨w, fn, rfl⟩ := exists_append (n := 21) (k := 11) w
  obtain ⟨w, t, rfl⟩ := exists_append (n := 16) (k := 5) w
  obtain ⟨w, s, rfl⟩ := exists_append (n := 11) (k := 5) w
  obtain ⟨m, d, rfl⟩ := exists_append (n := 6) (k := 5) w
  exact ⟨m, d, s, t, fn, rfl⟩

theorem exists_mkI (w : BitVec 32) : ∃ m d s imm, w = mkI m d s imm := by
  obtain ⟨w, imm, rfl⟩ := exists_append (n := 16) (k := 16) w
  obtain ⟨w, s, rfl⟩ := exists_append (n := 11) (k := 5) w
  obtain ⟨m, d, rfl⟩ := exists_append (n := 6) (k := 5) w
  exact ⟨m, d, s, imm, rfl⟩

theorem exists_mkBF (w : BitVec 32) : ∃ m d s pos len fn, w = mkBF m d s pos len fn := by
  obtain ⟨w, fn, rfl⟩ := exists_append (n := 28) (k := 4) w
  obtain ⟨w, len, rfl⟩ := exists_append (n := 22) (k := 6) w
  obtain ⟨w, pos, rfl⟩ := exists_append (n := 16) (k := 6) w
  obtain ⟨w, s, rfl⟩ := exists_append (n := 11) (k := 5) w
  obtain ⟨m, d, rfl⟩ := exists_append (n := 6) (k := 5) w
  exact ⟨m, d, s, pos, len, fn, rfl⟩

theorem exists_mkJ (w : BitVec 32) : ∃ m disp, w = mkJ m disp := exists_append (n := 6) (k := 26) w

theorem exists_mkBP (w : BitVec 32) : ∃ m p mode zero disp, w = mkBP m p mode zero disp := by
  obtain ⟨w, disp, rfl⟩ := exists_append (n := 16) (k := 16) w
  obtain ⟨w, zero, rfl⟩ := exists_append (n := 11) (k := 5) w
  obtain ⟨w, mode, rfl⟩ := exists_append (n := 9) (k := 2) w
  obtain ⟨m, p, rfl⟩ := exists_append (n := 6) (k := 3) w
  exact ⟨m, p, mode, zero, disp, rfl⟩

theorem exists_mkM (w : BitVec 32) : ∃ m d c lay fn, w = mkM m d c lay fn := by
  obtain ⟨w, fn, rfl⟩ := exists_append (n := 24) (k := 8) w
  obtain ⟨w, lay, rfl⟩ := exists_append (n := 16) (k := 8) w
  obtain ⟨w, c, rfl⟩ := exists_append (n := 11) (k := 5) w
  obtain ⟨m, d, rfl⟩ := exists_append (n := 6) (k := 5) w
  exact ⟨m, d, c, lay, fn, rfl⟩

theorem exists_mkV (w : BitVec 32) : ∃ m zd za zb ty fn, w = mkV m zd za zb ty fn := by
  obtain ⟨w, fn, rfl⟩ := exists_append (n := 25) (k := 7) w
  obtain ⟨w, ty, rfl⟩ := exists_append (n := 21) (k := 4) w
  obtain ⟨w, zb, rfl⟩ := exists_append (n := 16) (k := 5) w
  obtain ⟨w, za, rfl⟩ := exists_append (n := 11) (k := 5) w
  obtain ⟨m, zd, rfl⟩ := exists_append (n := 6) (k := 5) w
  exact ⟨m, zd, za, zb, ty, fn, rfl⟩

theorem exists_mkG (w : BitVec 32) : ∃ m f1 f2 f3 x sub, w = mkG m f1 f2 f3 x sub := by
  obtain ⟨w, sub, rfl⟩ := exists_append (n := 27) (k := 5) w
  obtain ⟨w, x, rfl⟩ := exists_append (n := 21) (k := 6) w
  obtain ⟨w, f3, rfl⟩ := exists_append (n := 16) (k := 5) w
  obtain ⟨w, f2, rfl⟩ := exists_append (n := 11) (k := 5) w
  obtain ⟨m, f1, rfl⟩ := exists_append (n := 6) (k := 5) w
  exact ⟨m, f1, f2, f3, x, sub, rfl⟩

theorem exists_mkH (w : BitVec 32) : ∃ m kind payload, w = mkH m kind payload := by
  obtain ⟨w, payload, rfl⟩ := exists_append (n := 10) (k := 22) w
  obtain ⟨m, kind, rfl⟩ := exists_append (n := 6) (k := 4) w
  exact ⟨m, kind, payload, rfl⟩

/-! ## What a table answers -/

/-- What a decoder answers for a word is nothing, or an instruction whose word it is. -/
def DecodesTo (w : BitVec 32) (r : Except DecodeError Instr) : Prop := ∀ i, r = .ok i → encode i = w

theorem decodesTo_error (w : BitVec 32) (e : DecodeError) : DecodesTo w (.error e) := nofun

theorem decodesTo_ok (w : BitVec 32) (i : Instr) : DecodesTo w (.ok i) ↔ encode i = w := by
  simp [DecodesTo]

theorem decodesTo_unusedZero (w : BitVec 32) (ok : Bool) (i : Instr) :
    DecodesTo w (unusedZero ok i) ↔ (ok = true → encode i = w) := by
  cases ok <;> simp [unusedZero, decodesTo_error, decodesTo_ok]

/-! ## Fields that are put together from smaller ones -/

/-- The last bit of a field of six bits whose others are zero. -/
theorem zero_append_extract_5_1 {x : BitVec 6} (h : x.extractLsb' 1 5 = 0#5) : 0#5 ++ x.extractLsb' 0 1 = x := by
  obtain ⟨y, z, rfl⟩ := exists_append (n := 5) (k := 1) x
  simp only [parts_5_1] at h ⊢
  rw [h]

/-- The last bit of a field of five bits whose others are zero. -/
theorem zero_append_extract_4_1 {x : BitVec 5} (h : x.extractLsb' 1 4 = 0#4) : 0#4 ++ x.extractLsb' 0 1 = x := by
  obtain ⟨y, z, rfl⟩ := exists_append (n := 4) (k := 1) x
  simp only [parts_4_1] at h ⊢
  rw [h]

/-- The number of a predicate in a field of five bits. -/
theorem zero_append_extract_2_3 {x : BitVec 5} (h : x.extractLsb' 3 2 = 0#2) : 0#2 ++ x.extractLsb' 0 3 = x := by
  obtain ⟨y, z, rfl⟩ := exists_append (n := 2) (k := 3) x
  simp only [parts_2_3] at h ⊢
  rw [h]

theorem extract_2_8 (x : BitVec 2) (y : BitVec 8) :
    (x ++ y).extractLsb' 8 2 = x ∧ (x ++ y).extractLsb' 0 8 = y := by
  constructor <;> apply BitVec.eq_of_toNat_eq <;> simp only [toNat_append_eq, toNat_extract_eq] <;> omega

/-- The field of WAITA that is not used. -/
theorem extract_1_3_eq_zero (x : BitVec 4) (y : BitVec 2) (z u : BitVec 1) :
    (x ++ y ++ z ++ u).extractLsb' 1 3 = 0#3 ↔ y = 0#2 ∧ z = 0#1 := by
  simp only [← BitVec.toNat_inj, toNat_append_eq, toNat_extract_eq, BitVec.toNat_ofNat]
  omega

/-! ## The majors of each format (R38) -/

/-- The majors of G. -/
def majorsG : List (BitVec 6) := [0x00#6, 0x1C#6, 0x1E#6, 0x1F#6, 0x20#6, 0x21#6, 0x22#6, 0x23#6, 0x24#6, 0x2F#6]

/-- The majors of I, VI and B, but for the shifts by an immediate, which divide the immediate further. -/
def majorsI : List (BitVec 6) :=
  [0x03#6, 0x04#6, 0x05#6, 0x06#6, 0x07#6, 0x08#6, 0x09#6, 0x0A#6, 0x0C#6, 0x0D#6, 0x0E#6, 0x0F#6, 0x10#6, 0x11#6, 0x16#6,
    0x2A#6, 0x2B#6, 0x2C#6, 0x2D#6]

/-- The majors of M, but for the loads, which divide the function field otherwise. -/
def majorsM : List (BitVec 6) := [0x19#6, 0x1B#6, 0x1D#6]

/-- The majors of V, but for the comparisons and the reductions, which divide the function field further. -/
def majorsV : List (BitVec 6) := [0x25#6, 0x27#6, 0x29#6, 0x2E#6]

/-- The majors of RRR. -/
def majorsRRR : List (BitVec 6) := [0x01#6, 0x14#6]

/-- The majors of J. -/
def majorsJ : List (BitVec 6) := [0x12#6, 0x13#6]

/-- The majors that stand for no instruction. -/
def majorsNone : List (BitVec 6) :=
  [0x17#6, 0x30#6, 0x31#6, 0x32#6, 0x33#6, 0x34#6, 0x35#6, 0x36#6, 0x37#6, 0x38#6, 0x39#6, 0x3A#6, 0x3B#6, 0x3C#6, 0x3D#6, 0x3E#6]

theorem decodesTo_formatG {w : BitVec 32} (hm : major w ∈ majorsG) : DecodesTo w (decodeFields w) := by
  obtain ⟨m, d, s, t, x, n, rfl⟩ := exists_mkG w
  obtain ⟨x, z, rfl⟩ := exists_append (n := 3) (k := 3) x
  obtain ⟨x, y, rfl⟩ := exists_append (n := 1) (k := 2) x
  simp only [fields_mkG, majorsG, List.mem_cons, List.not_mem_nil, or_false] at hm
  rcases hm with rfl | rfl | rfl | rfl | rfl | rfl | rfl | rfl | rfl | rfl
  all_goals
    simp only [decodeFields_mkG]
    simp only [decodeSys, decodeLay, decodeFence, decodeMsg, decodeGrp, decodeBar, decodeTag, decodeCopy, decodeMat, decodeLnt,
      fields_mkG, parts_1_2_3]
    split
  all_goals
    simp only [decodesTo_ok, decodesTo_error, decodesTo_unusedZero, Bool.and_eq_true, beq_iff_eq, and_imp]
  all_goals
    intros
    simp only [encode, zero_append_extract_5_1, *]

theorem decodesTo_formatI {w : BitVec 32} (hm : major w ∈ majorsI) : DecodesTo w (decodeFields w) := by
  obtain ⟨m, d, s, n, rfl⟩ := exists_mkI w
  simp only [fields_mkI, majorsI, List.mem_cons, List.not_mem_nil, or_false] at hm
  rcases hm with rfl | rfl | rfl | rfl | rfl | rfl | rfl | rfl | rfl | rfl | rfl | rfl | rfl | rfl | rfl | rfl | rfl | rfl | rfl
  all_goals
    simp only [decodeFields, fields_mkI, decodesTo_ok, decodesTo_unusedZero, beq_iff_eq]
    try rintro rfl
    rfl

theorem decodesTo_shift {w : BitVec 32} (hm : major w = 0x0B#6) : DecodesTo w (decodeFields w) := by
  obtain ⟨m, d, s, n, rfl⟩ := exists_mkI w
  obtain rfl : m = 0x0B#6 := by simpa only [fields_mkI] using hm
  obtain ⟨n, z, rfl⟩ := exists_append (n := 10) (k := 6) n
  obtain ⟨x, y, rfl⟩ := exists_append (n := 2) (k := 8) n
  simp only [decodeFields_mkI, decodeShi, fields_mkI, parts_10_6, extract_2_8]
  split
  all_goals
    simp only [decodesTo_unusedZero, beq_iff_eq]
    rintro rfl
    rfl

theorem decodesTo_ld {w : BitVec 32} (hm : major w = 0x18#6) : DecodesTo w (decodeFields w) := by
  obtain ⟨m, d, c, l, f, rfl⟩ := exists_mkM w
  obtain rfl : m = 0x18#6 := by simpa only [fields_mkM] using hm
  obtain ⟨f, z, rfl⟩ := exists_append (n := 7) (k := 1) f
  obtain ⟨x, y, rfl⟩ := exists_append (n := 4) (k := 3) f
  simp only [decodeFields_mkM]
  simp only [decodeLd, fields_mkM, parts_4_3_1, decodesTo_unusedZero, beq_iff_eq]
  rintro rfl
  rfl

theorem decodesTo_ldro {w : BitVec 32} (hm : major w = 0x1A#6) : DecodesTo w (decodeFields w) := by
  obtain ⟨m, d, c, l, f, rfl⟩ := exists_mkM w
  obtain rfl : m = 0x1A#6 := by simpa only [fields_mkM] using hm
  obtain ⟨x, y, rfl⟩ := exists_append (n := 4) (k := 4) f
  simp only [decodeFields_mkM]
  simp only [decodeLdro, fields_mkM, parts_4_4, decodesTo_unusedZero, beq_iff_eq]
  rintro rfl
  rfl

theorem decodesTo_formatM {w : BitVec 32} (hm : major w ∈ majorsM) : DecodesTo w (decodeFields w) := by
  obtain ⟨m, d, c, l, f, rfl⟩ := exists_mkM w
  obtain ⟨f, u, rfl⟩ := exists_append (n := 7) (k := 1) f
  obtain ⟨f, z, rfl⟩ := exists_append (n := 6) (k := 1) f
  obtain ⟨x, y, rfl⟩ := exists_append (n := 4) (k := 2) f
  simp only [fields_mkM, majorsM, List.mem_cons, List.not_mem_nil, or_false] at hm
  rcases hm with rfl | rfl | rfl
  all_goals
    simp only [decodeFields_mkM]
    simp only [decodeSt, decodeQmem, decodeAtom, fields_mkM, parts_4_2_1_1]
  case inl =>
    simp only [decodesTo_unusedZero, Bool.and_eq_true, beq_iff_eq, and_imp]
    rintro rfl rfl
    rfl
  case inr.inl =>
    split
    all_goals
      simp only [decodesTo_error, decodesTo_unusedZero, Bool.and_eq_true, beq_iff_eq, and_imp]
    all_goals
      rintro rfl rfl
      simp only [encode, *]
  case inr.inr =>
    split
    all_goals
      simp only [decodesTo_error, decodesTo_unusedZero, beq_iff_eq, extract_1_3_eq_zero, and_imp]
    all_goals
      rintro rfl
      try rintro rfl
      rfl

/-- VCMP's condition stands in the bits that choose the row. -/
theorem vcmp_fields_append {k : BitVec 4} (hk : k ≤ 7#4) (p : BitVec 3) :
    0#1 ++ (k ++ p).extractLsb' 3 3 ++ p = k ++ p := by
  obtain ⟨x, y, rfl⟩ := exists_append (n := 1) (k := 3) k
  have hx : x = 0#1 := by
    simp only [BitVec.le_def, ← BitVec.toNat_inj, toNat_append_eq, BitVec.toNat_ofNat] at hk ⊢
    omega
  simp only [parts_1_3_3, hx]

theorem decodesTo_compare {w : BitVec 32} (hm : major w = 0x26#6) : DecodesTo w (decodeFields w) := by
  obtain ⟨m, d, a, b, t, f, rfl⟩ := exists_mkV w
  obtain rfl : m = 0x26#6 := by simpa only [fields_mkV] using hm
  obtain ⟨k, p, rfl⟩ := exists_append (n := 4) (k := 3) f
  simp only [decodeFields_mkV]
  simp only [decodeVcmp, fields_mkV, parts_4_3]
  split
  all_goals
    simp only [decodesTo_ok, decodesTo_error, decodesTo_unusedZero, Bool.and_eq_true, beq_iff_eq, and_imp]
  all_goals
    intros
    simp only [encode, zero_append_extract_2_3, zero_append_extract_4_1, vcmp_fields_append, BitVec.reduceLE, *]

theorem decodesTo_formatV {w : BitVec 32} (hm : major w ∈ majorsV) : DecodesTo w (decodeFields w) := by
  obtain ⟨m, d, a, b, t, f, rfl⟩ := exists_mkV w
  simp only [fields_mkV, majorsV, List.mem_cons, List.not_mem_nil, or_false] at hm
  rcases hm with rfl | rfl | rfl | rfl
  all_goals
    simp only [decodeFields_mkV]
    simp only [decodeVarith, decodeVconv, decodeVsfu, decodeVview, fields_mkV]
    split
  all_goals
    simp only [decodesTo_ok, decodesTo_error, decodesTo_unusedZero, Bool.and_eq_true, beq_iff_eq, and_imp]
  all_goals
    intros
    simp only [encode, zero_append_extract_4_1, *]

/-- Two bits of VTOPK and VPERM, read one by one. -/
theorem append_extract_bits (k : BitVec 5) (z : BitVec 2) :
    k ++ (k ++ z).extractLsb' 1 1 ++ (k ++ z).extractLsb' 0 1 = k ++ z := by
  apply BitVec.eq_of_toNat_eq
  simp only [toNat_append_eq, toNat_extract_eq]
  omega

theorem decodesTo_reduction {w : BitVec 32} (hm : major w = 0x28#6) : DecodesTo w (decodeFields w) := by
  obtain ⟨m, d, a, b, t, f, rfl⟩ := exists_mkV w
  obtain rfl : m = 0x28#6 := by simpa only [fields_mkV] using hm
  obtain ⟨f, z, rfl⟩ := exists_append (n := 5) (k := 2) f
  obtain ⟨x, y, rfl⟩ := exists_append (n := 3) (k := 2) f
  simp only [decodeFields_mkV]
  simp only [decodeVred, fields_mkV, parts_3_2_2]
  split
  all_goals
    simp only [decodesTo_error, decodesTo_unusedZero, beq_iff_eq]
  all_goals
    rintro rfl
    simp only [encode, append_extract_bits, BitVec.reduceAppend]

theorem decodesTo_formatRRR {w : BitVec 32} (hm : major w ∈ majorsRRR) : DecodesTo w (decodeFields w) := by
  obtain ⟨m, d, s, t, f, rfl⟩ := exists_mkRRR w
  simp only [fields_mkRRR, majorsRRR, List.mem_cons, List.not_mem_nil, or_false] at hm
  rcases hm with rfl | rfl
  all_goals
    simp only [decodeFields_mkRRR]
    simp only [decodeAlu, decodeJmpr, fields_mkRRR]
    split
  all_goals
    simp only [decodesTo_ok, decodesTo_error, decodesTo_unusedZero, Bool.and_eq_true, beq_iff_eq, and_imp]
  all_goals
    intros
    simp only [encode, *]

theorem decodesTo_formatBF {w : BitVec 32} (hm : major w = 0x02#6) : DecodesTo w (decodeFields w) := by
  obtain ⟨m, d, s, p, l, f, rfl⟩ := exists_mkBF w
  obtain rfl : m = 0x02#6 := by simpa only [fields_mkBF] using hm
  obtain ⟨x, y, rfl⟩ := exists_append (n := 5) (k := 1) p
  simp only [decodeFields_mkBF, decodeBitf, fields_mkBF, parts_5_1]
  split
  all_goals
    simp only [decodesTo_ok, decodesTo_error, decodesTo_unusedZero, Bool.and_eq_true, beq_iff_eq, and_imp]
  all_goals
    intros
    simp only [encode, *]

theorem decodesTo_formatJ {w : BitVec 32} (hm : major w ∈ majorsJ) : DecodesTo w (decodeFields w) := by
  obtain ⟨m, disp, rfl⟩ := exists_mkJ w
  simp only [fields_mkJ, majorsJ, List.mem_cons, List.not_mem_nil, or_false] at hm
  rcases hm with rfl | rfl
  all_goals
    simp only [decodeFields, fields_mkJ, decodesTo_ok]
    rfl

theorem decodesTo_formatBP {w : BitVec 32} (hm : major w = 0x15#6) : DecodesTo w (decodeFields w) := by
  obtain ⟨m, p, mode, zero, disp, rfl⟩ := exists_mkBP w
  obtain rfl : m = 0x15#6 := by simpa only [fields_mkBP] using hm
  simp only [decodeFields, fields_mkBP, decodesTo_unusedZero, beq_iff_eq]
  rintro rfl
  rfl

/-- HSTALL's clocks (08 R184). -/
theorem zero_append_extract_14_8 {f : BitVec 22} (h : f.extractLsb' 8 14 = 0#14) : 0#14 ++ f.extractLsb' 0 8 = f := by
  obtain ⟨x, y, rfl⟩ := exists_append (n := 14) (k := 8) f
  simp only [parts_14_8] at h ⊢
  rw [h]

/-- HBR's prediction (08 R188). -/
theorem zero_append_extract_20_2 {f : BitVec 22} (h : f.extractLsb' 2 20 = 0#20) : 0#20 ++ f.extractLsb' 0 2 = f := by
  obtain ⟨x, y, rfl⟩ := exists_append (n := 20) (k := 2) f
  simp only [parts_20_2] at h ⊢
  rw [h]

/-- A payload is one of HMOD (08 R186). -/
theorem exists_hmod (f : BitVec 22) : ∃ (r : BitVec 3) (t : BitVec 1) (p : BitVec 3) (z o u : BitVec 1) (b : BitVec 5)
    (c : BitVec 2) (e : BitVec 3) (x : BitVec 2), f = r ++ t ++ p ++ z ++ o ++ u ++ b ++ c ++ e ++ x := by
  obtain ⟨f, x, rfl⟩ := exists_append (n := 20) (k := 2) f
  obtain ⟨f, e, rfl⟩ := exists_append (n := 17) (k := 3) f
  obtain ⟨f, c, rfl⟩ := exists_append (n := 15) (k := 2) f
  obtain ⟨f, b, rfl⟩ := exists_append (n := 10) (k := 5) f
  obtain ⟨f, u, rfl⟩ := exists_append (n := 9) (k := 1) f
  obtain ⟨f, o, rfl⟩ := exists_append (n := 8) (k := 1) f
  obtain ⟨f, z, rfl⟩ := exists_append (n := 7) (k := 1) f
  obtain ⟨f, p, rfl⟩ := exists_append (n := 4) (k := 3) f
  obtain ⟨r, t, rfl⟩ := exists_append (n := 3) (k := 1) f
  exact ⟨r, t, p, z, o, u, b, c, e, x, rfl⟩

theorem decodesTo_formatH {w : BitVec 32} (hm : major w = 0x3F#6) : DecodesTo w (decodeFields w) := by
  obtain ⟨m, k, f, rfl⟩ := exists_mkH w
  obtain rfl : m = 0x3F#6 := by simpa only [fields_mkH] using hm
  simp only [decodeFields_mkH, decodeHint, fields_mkH]
  split
  case h_3 =>
    obtain ⟨r, t, p, z, o, u, b, c, e, x, rfl⟩ := exists_hmod f
    simp only [parts_hmod, decodesTo_unusedZero, beq_iff_eq]
    rintro rfl
    rfl
  all_goals
    simp only [decodesTo_ok, decodesTo_error, decodesTo_unusedZero, beq_iff_eq]
  all_goals
    intros
    simp only [encode, zero_append_extract_14_8, zero_append_extract_20_2, *]

/-! ## All words -/

/-- The opcode map: every major is one of a format, or of none (02 R38). -/
theorem majors_cover : ∀ m : BitVec 6, m ∈ majorsG ∨ m ∈ majorsI ∨ m ∈ majorsM ∨ m ∈ majorsV ∨ m ∈ majorsRRR
    ∨ m ∈ majorsJ ∨ m = 0x02#6 ∨ m = 0x0B#6 ∨ m = 0x15#6 ∨ m = 0x18#6 ∨ m = 0x1A#6 ∨ m = 0x26#6 ∨ m = 0x28#6 ∨ m = 0x3F#6
    ∨ m ∈ majorsNone := by
  decide

theorem decodesTo_noFormat {w : BitVec 32} (hm : major w ∈ majorsNone) : DecodesTo w (decodeFields w) := by
  have hnone : decodeFields w = .error .unassignedMajor := by
    simp only [majorsNone, List.mem_cons, List.not_mem_nil, or_false] at hm
    rcases hm with hm | hm | hm | hm | hm | hm | hm | hm | hm | hm | hm | hm | hm | hm | hm | hm <;>
      simp [decodeFields, hm]
  rw [hnone]
  exact decodesTo_error _ _

/-- The table of a word's major (02 R38) answers nothing, or an instruction whose word it is. -/
theorem decodesTo_decodeFields (w : BitVec 32) : DecodesTo w (decodeFields w) := by
  rcases majors_cover (major w) with h | h | h | h | h | h | h | h | h | h | h | h | h | h | h
  exacts [decodesTo_formatG h, decodesTo_formatI h, decodesTo_formatM h, decodesTo_formatV h, decodesTo_formatRRR h,
    decodesTo_formatJ h, decodesTo_formatBF h, decodesTo_shift h, decodesTo_formatBP h, decodesTo_ld h, decodesTo_ldro h,
    decodesTo_compare h, decodesTo_reduction h, decodesTo_formatH h, decodesTo_noFormat h]

/-- A word that decodes is the word of what it decodes to (02 R27). -/
theorem encode_of_decode {w : BitVec 32} {i : Instr} (h : decode w = .ok i) : encode i = w := by
  unfold decode at h
  split at h
  case h_1 j hj =>
    split at h
    · cases h
      exact decodesTo_decodeFields w _ hj
    · cases h
  case h_2 => cases h

end Sys2Proof

namespace Sys2Proof.Machine

/-- Settles O1: each word is the encoding of its instruction. -/
theorem decodesTheManualsWords : Obligations.DecodesTheManualsWords := by
  unfold Obligations.DecodesTheManualsWords
  exact ⟨decode_encode (i := .himm 0#22) rfl nofun rfl, decode_encode (i := .lui 4#5 0x8000#16) rfl nofun rfl,
    decode_encode (i := .bfx 5#5 1#5 6#6 6#6) rfl nofun rfl, decode_encode (i := .bfx 6#5 1#5 32#6 32#6) rfl nofun rfl,
    decode_encode (i := .nop) rfl nofun rfl⟩

/-- Settles O2: the word of a well-formed instruction decodes to it. -/
theorem everyWordReadsBack : Obligations.EveryWordReadsBack := by
  unfold Obligations.EveryWordReadsBack
  exact fun i hrow hword hwf => decode_encode hrow hword hwf

/-- Settles O3: no table ignores a bit of the words that it accepts. -/
theorem noBitIsIgnored : Obligations.NoBitIsIgnored := by
  unfold Obligations.NoBitIsIgnored
  exact fun w i h => encode_of_decode h

end Sys2Proof.Machine
end

section
/-!
SUPPORT. What a fault leaves (15 R355, R358): the fault record of a stopped context, and that neither memory nor the turn changes;
an instruction of either half whose body faults at an instruction boundary.
-/

namespace Sys2Proof.Machine

/-! ## What a fault leaves of its context (15 R355, R358) -/

/-- A context as its fault record stops it (15 R355): frozen by VIOLATION, parked by any other code. -/
def Ctx.stopped (c : Ctx) (code : FaultCode) (half : Nat) (fa fe : BitVec 52) (x : Word) : Ctx :=
  { c with
    status := if code = .violation then .frozen else .parked
    faulta := fa, faulte := fe, faultc := BitVec.ofNat 10 (half * 256 + code.toByte.toNat), faultx := x
    afault := none, stallA := .none, stallE := .none, waitA := none, waitE := none }

section Counts
variable (s : State)

@[simp] theorem State.cores_count (p kind n : Nat) : (s.count p kind n).cores = s.cores := by
  unfold State.count; split <;> rfl

@[simp] theorem State.mem_count (p kind n : Nat) : (s.count p kind n).mem = s.mem := by
  unfold State.count; split <;> rfl

@[simp] theorem State.turn_count (p kind n : Nat) : (s.count p kind n).turn = s.turn := by
  unfold State.count; split <;> rfl

end Counts

/-- States with the same cores have the same contexts. -/
theorem State.ctx_congr {s t : State} (h : s.cores = t.cores) (n k : Nat) : s.ctx n k = t.ctx n k := by
  simp only [State.ctx, State.core, h]

/-- A change of a core that leaves its contexts as they are. -/
theorem State.ctx_modCore (s : State) (m : Nat) {f : Core → Core} (hf : ∀ c, (f c).ctxs = c.ctxs) (n k : Nat) :
    (s.modCore m f).ctx n k = s.ctx n k := by
  by_cases h : n = m
  · subst h; simp [State.ctx, State.modCore, Core.ctx, hf]
  · simp [State.ctx, State.modCore, State.core_setCore_other _ _ _ _ h]

section Park
variable (s : State) (n k : Nat) (code : FaultCode) (half : Nat) (fa fe : BitVec 52) (x extra : Word)

theorem State.ctx_post (part core source unit ctx faultc name : Nat) (ws : List Word) (m j : Nat) :
    (s.post part core source unit ctx faultc name ws).ctx m j = s.ctx m j :=
  State.ctx_modCore s core (f := fun c => { c with faultSeq := (s.core core).faultSeq + 1#16 }) (fun _ => rfl) m j

@[simp] theorem State.ctx_park : (s.park n k code half fa fe x extra).ctx n k = (s.ctx n k).stopped code half fa fe x := by
  have htell : ∀ (t : State) ws, (t.tellHost ws).ctx n k = t.ctx n k := fun _ _ => rfl
  have hcount : ∀ (t : State) p kind m, (t.count p kind m).ctx n k = t.ctx n k :=
    fun t p kind m => State.ctx_congr (t.cores_count p kind m) n k
  simp only [State.park]
  split_ifs <;> simp_all [State.ctx_post, Ctx.stopped]

@[simp] theorem State.mem_park : (s.park n k code half fa fe x extra).mem = s.mem := by
  simp only [State.park]
  split_ifs <;> simp [State.tellHost, State.post]

@[simp] theorem State.turn_park : (s.park n k code half fa fe x extra).turn = s.turn := by
  simp only [State.park]
  split_ifs <;> simp [State.tellHost, State.post]

@[simp] theorem State.cores_noteLost : (s.noteLost code extra).cores = s.cores := by
  unfold State.noteLost State.poisonLine; split_ifs <;> rfl

@[simp] theorem State.mem_noteLost : (s.noteLost code extra).mem = s.mem := by
  unfold State.noteLost State.poisonLine; split_ifs <;> rfl

@[simp] theorem State.turn_noteLost : (s.noteLost code extra).turn = s.turn := by
  unfold State.noteLost State.poisonLine; split_ifs <;> rfl

@[simp] theorem State.ctx_noteLost (m j : Nat) : (s.noteLost code extra).ctx m j = s.ctx m j :=
  State.ctx_congr (s.cores_noteLost code extra) m j

@[simp] theorem State.mem_settleFault : (s.settleFault n k).mem = s.mem := by
  unfold State.settleFault
  dsimp only
  split <;> simp

@[simp] theorem State.turn_settleFault : (s.settleFault n k).turn = s.turn := by
  unfold State.settleFault
  dsimp only
  split <;> simp

/-- A fault of the A half changes no memory. -/
@[simp] theorem State.mem_raiseA : (s.raiseA n k code x extra).mem = s.mem := by
  simp only [State.raiseA]
  split_ifs <;> simp

@[simp] theorem State.turn_raiseA : (s.raiseA n k code x extra).turn = s.turn := by
  simp only [State.raiseA]
  split_ifs <;> simp

/-- The E half's fault changes no memory. -/
@[simp] theorem State.mem_raiseE : (s.raiseE n k code x extra).mem = s.mem := by
  simp [State.raiseE]

@[simp] theorem State.turn_raiseE : (s.raiseE n k code x extra).turn = s.turn := by
  simp [State.raiseE]

variable {s n k}

theorem Ctx.nextA_of_plain {c : Ctx} (h : c.hints = []) : c.nextA = c.pc := by simp [Ctx.nextA, h]

/-- A fault of the A half stops a context with no hint fetched, no E word queued and no request out at its word. -/
theorem State.ctx_raiseA (hints : (s.ctx n k).hints = []) (heq : (s.ctx n k).eq = []) (hpend : (s.ctx n k).pend = none) :
    (s.raiseA n k code x extra).ctx n k = (s.ctx n k).stopped code 1 (s.ctx n k).pc (s.ctx n k).pc x := by
  simp [State.raiseA, State.settleFault, hpend, heq, Ctx.nextA_of_plain hints, Ctx.stopped, hints]

/-- A fault of the E half stops a context: FAULTE is the oldest queued word, FAULTA the next A word. -/
theorem State.ctx_raiseE : (s.raiseE n k code x extra).ctx n k =
    ({ s.ctx n k with hints := [], eprog := {}, hinted := 0, pc := (s.ctx n k).nextA } : Ctx).stopped code 2
      (s.ctx n k).nextA (s.ctx n k).nextE x := by
  simp [State.raiseE]

end Park

/-! ## The fault record, read -/

theorem Ctx.faultc_stopped_code (c : Ctx) (code : FaultCode) (half : Nat) (fa fe : BitVec 52) (x : Word) :
    (c.stopped code half fa fe x).faultc.extractLsb' 0 8 = code.toByte := by
  apply BitVec.eq_of_toNat_eq
  have := code.toByte.isLt
  simp only [Ctx.stopped, BitVec.extractLsb'_toNat, BitVec.toNat_ofNat]
  omega

theorem Ctx.faultc_stopped_half (c : Ctx) (code : FaultCode) (half : Nat) (fa fe : BitVec 52) (x : Word) :
    (c.stopped code half fa fe x).faultc.extractLsb' 8 2 = BitVec.ofNat 2 half := by
  apply BitVec.eq_of_toNat_eq
  have := code.toByte.isLt
  simp only [Ctx.stopped, BitVec.extractLsb'_toNat, BitVec.toNat_ofNat, Nat.shiftRight_eq_div_pow]
  omega

/-- A context that a fault record stops is stopped by its code. -/
theorem Stopped.of_ctx {s : State} {n k half : Nat} {c : Ctx} {code : FaultCode} {fa fe : BitVec 52} {x : Word}
    (h : s.ctx n k = c.stopped code half fa fe x) : Stopped s n k code := by
  rw [Stopped, h]
  refine ⟨?_, c.faultc_stopped_code ..⟩
  by_cases hv : code = .violation <;> simp [Ctx.stopped, hv]

theorem Stopped.of_actor {s u : State} {half : Nat} {c : Ctx} {code : FaultCode} {fa fe : BitVec 52} {x : Word}
    (hturn : u.turn = s.turn) (h : u.actor = c.stopped code half fa fe x) : Stopped u s.turn.core s.turn.ctx code :=
  hturn ▸ Stopped.of_ctx h

/-! ## A body that faults -/

section Bodies
variable {s : State}

/-- A fault of an instruction of the A half at an instruction boundary: the context stops at the word, and no register and no
memory is written. -/
theorem aHalf_stops {i : Instr} {body : Hints → M Disp} {code : FaultCode} {x e : Word} (h : ReadyA s)
    (hb : body {} s = .error (.fault code x e)) :
    ∃ u, aHalf i body s = .next u ∧ u.turn = s.turn ∧ u.mem = s.mem
      ∧ u.actor = s.actor.stopped code 1 s.actor.pc s.actor.pc x := by
  refine ⟨_, aHalf_fault h hb, State.turn_raiseA .., State.mem_raiseA .., ?_⟩
  rw [State.actor, State.turn_raiseA]
  exact State.ctx_raiseA code x e h.plain h.drained h.free

theorem headGroup_singleton (e : EWord) : headGroup [e] = [e] := by simp [headGroup]

theorem State.ctx_noteIssued (s : State) (n k : Nat) (hf : Half) (sent : Bool) (m j : Nat) :
    (s.noteIssued n k hf sent).ctx m j = s.ctx m j := by
  unfold State.noteIssued
  cases hf <;> dsimp only <;> split_ifs
  · exact State.ctx_modCore s n (f := fun x => { x with lastA := k, usedA := some s.cyc }) (fun _ => rfl) m j
  · rfl
  · exact State.ctx_modCore s n (f := fun x => { x with lastE := k, usedE := some s.cyc }) (fun _ => rfl) m j
  · rfl

@[simp] theorem State.mem_noteIssued (s : State) (n k : Nat) (hf : Half) (sent : Bool) :
    (s.noteIssued n k hf sent).mem = s.mem := by
  unfold State.noteIssued
  cases hf <;> dsimp only <;> split_ifs <;> rfl

@[simp] theorem State.turn_noteIssued (s : State) (n k : Nat) (hf : Half) (sent : Bool) :
    (s.noteIssued n k hf sent).turn = s.turn := by
  unfold State.noteIssued
  cases hf <;> dsimp only <;> split_ifs <;> rfl

@[simp] theorem State.turn_routeE (s : State) (i : Instr) : (s.routeE i).turn = s.turn := rfl
@[simp] theorem State.mem_routeE (s : State) (i : Instr) : (s.routeE i).mem = s.mem := rfl

@[simp] theorem State.hints_routeE (s : State) (i : Instr) : (s.routeE i).actor.hints = [] := by simp [State.routeE]

@[simp] theorem State.pc_routeE (s : State) (i : Instr) : (s.routeE i).actor.pc = s.actor.pc + 4#52 := by simp [State.routeE]

/-- The word stands alone in a queue that was empty. -/
theorem State.eq_routeE {i : Instr} (heq : s.actor.eq = []) (hhints : s.actor.hints = []) :
    (s.routeE i).actor.eq = [{ addr := s.actor.pc.toNat, word := encode i }] := by simp [State.routeE, heq, hhints]

/-- A body that faults at the head of a queue that holds its word alone. -/
theorem runE_fault {i : Instr} {body : Hints → M Disp} {e : EWord} {code : FaultCode} {x extra : Word}
    (hclear : s.turn.upset = .none) (heq : s.actor.eq = [e]) (hb : body {} s = .error (.fault code x extra)) :
    runE i body s = (s.modActor Ctx.untake).raiseE s.turn.core s.turn.ctx code x extra := by
  simp [runE, hclear, Upset.error, heq, headGroup_singleton, hb]

/-- A fault of a word that is routed to the empty E queue and runs there at once: FAULTE is the word, FAULTA the next one. -/
theorem eHalf_stops {i : Instr} {body : Hints → M Disp} {code : FaultCode} {x extra : Word} (h : ReadyE s)
    (hf : s.eFree s.turn.core s.turn.ctx i = true) (hb : body {} (s.routeE i) = .error (.fault code x extra)) :
    ∃ u, eHalf i body s = .next u ∧ u.turn = s.turn ∧ u.mem = s.mem
      ∧ ∃ c : Ctx, u.actor = c.stopped code 2 (s.actor.pc + 4#52) s.actor.pc x := by
  have heq := State.eq_routeE (i := i) h.ready.drained h.ready.plain
  have hrun := runE_fault (i := i) (body := body) (s := s.routeE i) h.ready.clear heq hb
  let t := (s.routeE i).modActor Ctx.untake
  have hA : t.actor.nextA = s.actor.pc + 4#52 := by simp [t, Ctx.nextA, Ctx.untake]
  have hE : t.actor.nextE = s.actor.pc := by simp [t, Ctx.nextE, Ctx.untake, heq]
  obtain ⟨c, hc⟩ : ∃ c : Ctx, (t.raiseE s.turn.core s.turn.ctx code x extra).ctx s.turn.core s.turn.ctx
      = c.stopped code 2 t.actor.nextA t.actor.nextE x := ⟨_, State.ctx_raiseE (s := t) code x extra⟩
  rw [hA, hE] at hc
  refine ⟨_, eHalf_routed h hf, by rw [hrun]; simp, by rw [hrun]; simp, c, ?_⟩
  rw [State.actor, State.turn_noteIssued, State.ctx_noteIssued, hrun, State.turn_raiseE]
  exact hc

end Bodies

end Sys2Proof.Machine
end

section
/-!
SUPPORT. What the loads of a walk, a write and a translation leave as it is (03 R55-R60; 04 R62-R73; 11 R242, R261): the cores but
for the TLBs, and a context that waits for no reply.
-/

namespace Sys2Proof.Machine

/-- What every step of a fold keeps, the fold keeps. -/
theorem foldl_keeps {σ α β : Type} (g : σ → β) {f : σ → α → σ} (h : ∀ s a, g (f s a) = g s) (as : List α) (s : σ) :
    g (as.foldl f s) = g s := by
  induction as generalizing s with
  | nil => rfl
  | cons a as ih => rw [List.foldl_cons, ih, h]

/-! ## The slices leave the cores and memory as they are -/

section Slices
variable (s : State)

@[simp] theorem State.modSlice_cores (h : Home) (f : Slice → Slice) : (s.modSlice h f).cores = s.cores := rfl
@[simp] theorem State.modSlice_mem (h : Home) (f : Slice → Slice) : (s.modSlice h f).mem = s.mem := rfl
@[simp] theorem State.modSet_cores (h : Home) (f : SliceSet → SliceSet) : (s.modSet h f).cores = s.cores := rfl
@[simp] theorem State.modSet_mem (h : Home) (f : SliceSet → SliceSet) : (s.modSet h f).mem = s.mem := rfl

@[simp] theorem State.cores_wakeCluster (cl : Nat) : (s.wakeCluster cl).cores = s.cores := by
  unfold State.wakeCluster; dsimp only; split_ifs <;> rfl

@[simp] theorem State.mem_wakeCluster (cl : Nat) : (s.wakeCluster cl).mem = s.mem := by
  unfold State.wakeCluster; dsimp only; split_ifs <;> rfl

@[simp] theorem State.cores_evict (h : Home) (w : Way) : (s.evict h w).cores = s.cores := by
  unfold State.evict; dsimp only; split_ifs <;> simp

@[simp] theorem State.mem_evict (h : Home) (w : Way) : (s.evict h w).mem = s.mem := by
  unfold State.evict; dsimp only; split_ifs <;> simp

@[simp] theorem State.cores_lineAccess (h : Home) (line part cache : Nat) (write : Bool) :
    (s.lineAccess h line part cache write).cores = s.cores := by
  unfold State.lineAccess
  dsimp only
  repeat' split
  all_goals simp

@[simp] theorem State.mem_lineAccess (h : Home) (line part cache : Nat) (write : Bool) :
    (s.lineAccess h line part cache write).mem = s.mem := by
  unfold State.lineAccess
  dsimp only
  repeat' split
  all_goals simp

@[simp] theorem State.cores_walkLoad (part a : Nat) : (s.walkLoad part a).cores = s.cores := by
  unfold State.walkLoad; dsimp only; split_ifs <;> simp

@[simp] theorem State.mem_walkLoad (part a : Nat) : (s.walkLoad part a).mem = s.mem := by
  unfold State.walkLoad; dsimp only; split_ifs <;> simp

@[simp] theorem State.cores_walkLoads (part : Nat) (reads : List Nat) : (s.walkLoads part reads).cores = s.cores :=
  foldl_keeps State.cores (fun s a => s.cores_walkLoad part a) reads s

@[simp] theorem State.mem_walkLoads (part : Nat) (reads : List Nat) : (s.walkLoads part reads).mem = s.mem :=
  foldl_keeps State.mem (fun s a => s.mem_walkLoad part a) reads s

@[simp] theorem State.cores_closeWindow (h : Home) (line : Nat) : (s.closeWindow h line).cores = s.cores := by
  unfold State.closeWindow; split <;> rfl

@[simp] theorem State.cores_applyDieMsg (m : DieMsg) : (s.applyDieMsg m).cores = s.cores := by
  simp [State.applyDieMsg]

@[simp] theorem State.cores_crossDie (src dst : Nat) : (s.crossDie src dst).cores = s.cores := by
  unfold State.crossDie
  split_ifs
  · rfl
  · simp only [State.modDie_cores]
    rw [foldl_keeps State.cores State.cores_applyDieMsg]
    rfl

@[simp] theorem State.cores_invalidateCopies (line home : Nat) (updates : Option Nat) :
    (s.invalidateCopies line home updates).cores = s.cores := by
  refine foldl_keeps State.cores ?_ _ s
  intros
  rfl

@[simp] theorem State.cores_writeLine (line part srcDie cache : Nat) (isStore : Bool) :
    (s.writeLine line part srcDie cache isStore).cores = s.cores := by
  unfold State.writeLine
  dsimp only
  simp only [State.cores_invalidateCopies, State.cores_lineAccess, State.cores_crossDie]
  rw [foldl_keeps State.cores fun s _ => s.cores_closeWindow _ _, State.cores_closeWindow]

end Slices

/-! ## A write leaves the cores as they are until its watches end -/

section Writes
variable (s : State)

@[simp] theorem State.cores_markDirty (a : Nat) : (s.markDirty a).cores = s.cores := by
  unfold State.markDirty; split <;> rfl

@[simp] theorem State.cores_copyGranule (p g : Nat) : (s.copyGranule p g).cores = s.cores := by
  unfold State.copyGranule; split <;> simp

@[simp] theorem State.cores_drainStaging (p : Nat) : (s.drainStaging p).cores = s.cores := by
  unfold State.drainStaging
  split
  · rfl
  · split_ifs
    · exact foldl_keeps State.cores (fun s g => s.cores_copyGranule p g) _ s
    · rfl

@[simp] theorem State.cores_stage (a : Nat) : (s.stage a).cores = s.cores := by
  unfold State.stage
  split
  · rfl
  · dsimp only
    split <;> split_ifs <;> simp

@[simp] theorem State.cores_markWord (w : Writer) (count word : Nat) : (s.markWord w count word).cores = s.cores := by
  unfold State.markWord; split <;> rfl

@[simp] theorem State.cores_stamp (w : Writer) : (s.stamp w).2.cores = s.cores := by
  unfold State.stamp; split <;> rfl

@[simp] theorem State.cores_coverLine (line : Nat) : (s.coverLine line).cores = s.cores := rfl

@[simp] theorem State.cores_crossLines (w : Writer) (ls : List Nat) : (s.crossLines w ls).cores = s.cores :=
  foldl_keeps State.cores (fun s l => s.cores_crossDie w.die (homeOf l).die) ls s

end Writes

/-! ## A context that waits for no reply is left as it is -/

/-- A context that waits for no reply is the same in two states. -/
structure CtxKept (n k : Nat) (s t : State) : Prop where
  kept : (s.ctx n k).pend = none → t.ctx n k = s.ctx n k

section Kept
variable {n k : Nat} {s t u : State}

theorem CtxKept.trans (h : CtxKept n k s t) (g : CtxKept n k t u) : CtxKept n k s u := ⟨fun hp => by
  have ht := h.kept hp
  rw [g.kept (by rwa [ht]), ht]⟩

theorem CtxKept.refl (s : State) : CtxKept n k s s := ⟨fun _ => rfl⟩

theorem CtxKept.of_cores (h : t.cores = s.cores) : CtxKept n k s t := ⟨fun _ => State.ctx_congr h n k⟩

theorem CtxKept.foldl {α : Type} {f : State → α → State} (h : ∀ s a, CtxKept n k s (f s a)) (as : List α) (s : State) :
    CtxKept n k s (as.foldl f s) := by
  induction as generalizing s with
  | nil => exact .refl s
  | cons a as ih => exact (h s a).trans (ih (f s a))

variable (n k s)

theorem ctxKept_reply (core ctx : Nat) (far : Option (Nat × Nat)) (part : Nat) (r : Reply) :
    CtxKept n k s (s.reply core ctx far part r) := by
  refine ⟨fun hp => ?_⟩
  unfold State.reply
  split
  · by_cases hc : n = core ∧ k = ctx
    · obtain ⟨rfl, rfl⟩ := hc
      simp [hp]
    · exact State.ctx_modCtx_other s core ctx n k _ (by tauto)
  · rfl

theorem ctxKept_endWatches (line : Nat) : CtxKept n k s (s.endWatches line) := by
  unfold State.endWatches
  dsimp only
  split_ifs
  · exact .refl s
  · refine .trans (.of_cores ?_) (.foldl (fun s w => ctxKept_reply n k s ..) _ _)
    rfl

/-- What a write of a line does last: the records of a line that it covers go, and its watches end. -/
theorem ctxKept_coverLine_endWatches (covers : Bool) (line : Nat) :
    CtxKept n k s ((if covers then s.coverLine line else s).endWatches line) := by
  cases covers
  · exact ctxKept_endWatches n k s line
  · exact .trans (t := s.coverLine line) (.of_cores rfl) (ctxKept_endWatches ..)

theorem ctxKept_write (w : Writer) (a : Nat) (bs : List Byte) : CtxKept n k s (s.write w a bs) := by
  unfold State.write
  dsimp only
  split_ifs
  · exact .of_cores (by simp)
  · refine .trans (.of_cores ?_) (.foldl (fun s l => ctxKept_coverLine_endWatches n k s _ l) _ _)
    rw [foldl_keeps State.cores fun s x => s.cores_markWord w _ x]
    dsimp only
    rw [foldl_keeps State.cores fun s l => s.cores_writeLine l _ _ _ _, foldl_keeps State.cores fun s g => by simp,
      State.cores_stamp]

theorem ctxKept_setPte (part cluster a bits : Nat) : CtxKept n k s (s.setPte part cluster a bits) := by
  unfold State.setPte
  dsimp only
  split_ifs
  · exact .refl s
  · exact ctxKept_write ..

theorem ctxKept_setDirt (part cluster : Nat) (d : Nat × Nat) : CtxKept n k s (s.setDirt part cluster d) :=
  .foldl (fun s _ => ctxKept_setPte n k s ..) _ s

theorem ctxKept_modCore (m : Nat) {f : Core → Core} (hf : ∀ c, (f c).ctxs = c.ctxs) : CtxKept n k s (s.modCore m f) :=
  ⟨fun _ => s.ctx_modCore m hf n k⟩

@[simp] theorem State.cores_chooseVictim (full : Bool) : (s.chooseVictim full).2.cores = s.cores := by
  unfold State.chooseVictim; split_ifs <;> rfl

theorem ctxKept_installLeaf (cluster : Nat) (core : Option Nat) (t : TlbEntry) :
    CtxKept n k s (s.installLeaf cluster core t) := by
  unfold State.installLeaf
  dsimp only
  split
  · exact .of_cores (by simp)
  · exact .trans (.of_cores (by simp)) (ctxKept_modCore _ _ _ _ fun _ => rfl)

theorem cores_installUpper (cluster : Nat) (us : List (Nat × Nat × Nat × Nat)) : (s.installUpper cluster us).cores = s.cores :=
  foldl_keeps State.cores (fun s u => by simp) us s

theorem ctxKept_finishWalk (cluster : Nat) (core : Option Nat) (part : Nat) (isWrite : Bool) (w : Walked) :
    CtxKept n k s (s.finishWalk cluster core part isWrite w) := by
  unfold State.finishWalk
  dsimp only
  refine .trans ?_ (ctxKept_installLeaf ..)
  refine .trans ?_ (.of_cores (cores_installUpper ..))
  have hread := CtxKept.of_cores (n := n) (k := k) (s.cores_walkLoads part (s.unpoisoned w.reads))
  have hpath := hread.trans (.foldl (fun s a => ctxKept_setPte n k s part cluster a pteA) w.path _)
  split_ifs
  · exact hpath.trans (ctxKept_setDirt ..)
  · exact hpath

theorem ctxKept_useHit (x : Access) (t : TlbEntry) : CtxKept n k s (s.useHit x t) := by
  unfold State.useHit
  have hdirt : CtxKept n k s (if x.writes && !t.dset then s.setDirt x.part x.cluster t.dirt else s) := by
    split_ifs
    · exact ctxKept_setDirt ..
    · exact .refl s
  extract_lets sets u v
  split
  · split
    · exact hdirt
    · exact hdirt.trans (ctxKept_installLeaf ..)
  · exact hdirt

theorem ctxKept_forget (x : Access) : CtxKept n k s (s.forget x) := by
  unfold State.forget
  dsimp only
  split
  · exact .trans (.of_cores (State.modCluster_cores ..)) (ctxKept_modCore _ _ _ _ fun _ => rfl)
  · exact .of_cores (State.modCluster_cores ..)

variable {n k s}

theorem ctxKept_translateWalk {x : Access} {pa : Nat} (h : s.translateWalk x = .ok (pa, t)) : CtxKept n k s t := by
  unfold State.translateWalk at h
  split at h
  · cases h
  · split at h
    · cases h
    · cases h
      exact ctxKept_finishWalk ..

/-- Translation changes no context, but for the replies of watches on the entries that it marks. -/
theorem ctxKept_translate {x : Access} {pa : Nat} (h : s.translate x = .ok (pa, t)) : CtxKept n k s t := by
  unfold State.translate at h
  split at h
  · cases h
  · split at h
    · split at h
      · exact (ctxKept_forget n k s x).trans (ctxKept_translateWalk h)
      · split at h
        · cases h
        · cases h
          exact ctxKept_useHit ..
    · exact ctxKept_translateWalk h

/-- The fetch of a word is a translation. -/
theorem ctxKept_fetchWord {m j va : Nat} {w : BitVec 32} (h : s.fetchWord m j va = .ok (w, t)) : CtxKept n k s t := by
  unfold State.fetchWord at h
  dsimp only at h
  split at h
  · cases h
  next pa u htr =>
    have hu : t = u := by
      split at h
      · split at h
        · split at h <;> cases h
          rfl
        · cases h
      · cases h
        rfl
    exact hu ▸ ctxKept_translate htr

end Kept

end Sys2Proof.Machine
end

section
/-!
SUPPORT. SUPER instructions and registers in USER code (02 R41, R42), and the statement O19 put together from them.
-/

namespace Sys2Proof.Machine

section Privilege
variable {s : State}

/-- An instruction raises PRIVILEGE with its word in FAULTX, and its context stops there. -/
def MeetsPrivilege (s : State) (i : Instr) : Prop :=
  ∃ u, exec i s = .next u ∧ u.turn = s.turn ∧ u.mem = s.mem
    ∧ u.actor = s.actor.stopped .privilege 1 s.actor.pc s.actor.pc ((encode i).setWidth 64)

section User
variable (h : ReadyA s) (hu : s.actor.super = false)
include hu

theorem needRoutine_user (i : Instr) : needRoutine i s = .error (.fault .privilege ((encode i).setWidth 64) 0#64) := by
  rw [needRoutine, M.bind_ok (me_run s), hu]
  rfl

include h

theorem eret_user : MeetsPrivilege s .eret := by
  show ∃ u, execEret s = _ ∧ _
  exact aHalf_stops h (M.bind_error (needRoutine_user hu _))

theorem ctxsave_user : MeetsPrivilege s .ctxsave := by
  show ∃ u, execCtxsave s = _ ∧ _
  exact aHalf_stops h (M.bind_error (needRoutine_user hu _))

theorem ctxrest_user : MeetsPrivilege s .ctxrest := by
  show ∃ u, execCtxrest s = _ ∧ _
  exact aHalf_stops h (M.bind_error (needRoutine_user hu _))

theorem park_user (x : BitVec 6) : MeetsPrivilege s (.park x) := by
  show ∃ u, execPark x s = _ ∧ _
  exact aHalf_stops h (M.bind_error (needRoutine_user hu _))

/-- FENCE of kind 3, a checkpoint cut. -/
theorem fence_user (k : BitVec 3) : MeetsPrivilege s (.fence 3#2 k) := by
  show ∃ u, execFence 3#2 k s = _ ∧ _
  refine aHalf_stops (e := 0#64) h ?_
  refine (M.bind_ok (me_run s)).trans ?_
  rw [hu]
  rfl

theorem mfs_user (d : BitVec 5) {x : BitVec 6} (hx : superOnly x.toNat = true) : MeetsPrivilege s (.mfs d x) := by
  show ∃ u, execMfs d x s = _ ∧ _
  refine aHalf_stops (e := 0#64) h ?_
  refine (M.bind_ok (me_run s)).trans ?_
  rw [hx, hu]
  rfl

theorem mts_user (d : BitVec 5) {x : BitVec 6} (hx : superOnly x.toNat = true) : MeetsPrivilege s (.mts d x) := by
  show ∃ u, execMts d x s = _ ∧ _
  refine aHalf_stops (e := 0#64) h ?_
  refine (M.bind_ok (me_run s)).trans ?_
  rw [hx, hu]
  rfl

end User

end Privilege

/-- Settles O19: each of them raises PRIVILEGE before it does anything else. -/
theorem userCodeMeetsPrivilege : Obligations.UserCodeMeetsPrivilege := by
  unfold Obligations.UserCodeMeetsPrivilege
  intro s i h hu hi
  have hp : MeetsPrivilege s i := by
    rcases hi with rfl | rfl | rfl | ⟨x, rfl⟩ | ⟨k, rfl⟩ | ⟨r, x, rfl | rfl, hx⟩
    · exact eret_user h hu
    · exact ctxsave_user h hu
    · exact ctxrest_user h hu
    · exact park_user h hu x
    · exact fence_user h hu k
    · exact mfs_user h hu r hx
    · exact mts_user h hu r hx
  obtain ⟨u, hexec, hturn, hmem, hactor⟩ := hp
  refine ⟨u, hexec, Stopped.of_actor hturn hactor, ?_⟩
  rw [hactor]
  exact ⟨rfl, rfl, rfl, rfl, hu, hmem⟩

end Sys2Proof.Machine
end

section
/-!
SUPPORT. Words that cannot run: a word that cannot be fetched (02 R24), one that is no instruction (02 R40, R41), a hint group that
breaks the limits (02 R29, R30); and the statements O5 and O16 put together from them.
-/

namespace Sys2Proof.Machine

/-! ## Turns that come to no instruction -/

section Turns
variable {s : State}

/-- A turn of the agenda in which no instruction comes to run. -/
theorem step_issue_idles {t : Turn} {rest : List Act} {u : State} (hag : s.agenda = .issue t :: rest)
    (hcore : coreOk t.core = true) (hctx : t.ctx < 4) (hspent : ({ s with agenda := rest } : State).spent t = false)
    (hf : ({ s with agenda := rest, turn := t } : State).fetched = .idle u) : step s = .next u := by
  simp [step, State.takeAct, hag, doAct, issueAct, hcore, hctx, hspent, hf]

/-- A turn of a half that can issue fetches, where nothing else takes the turn. -/
theorem State.fetched_ready (hrun : s.idle = .run) (hcluster : (s.cluster (s.turn.core / 8)).idle = .run) (hA : s.turn.half = .A)
    (h : ReadyA s) (hint : s.actor.takesInterrupt = false) (hauto : s.actor.auto = false) (hhang : s.actor.hangs = false) :
    s.fetched = s.fetchA s.turn.core s.turn.ctx :=
  (State.fetched_A hrun hcluster hA).trans (State.turnA_fetches h.issues hint hauto hhang)

variable {n k : Nat}

theorem State.fetchA_faults {f : TFail} (hf : s.fetchWord n k (s.ctx n k).pc.toNat = .error f)
    (hints : (s.ctx n k).hints = []) : s.fetchA n k = .idle (s.fetchFault n k f false (s.ctx n k).pc.toNat) := by
  simp [State.fetchA, hf, hints]

/-- A group of one hint too many faults when one of its hints is fetched. -/
theorem State.fetchA_overLimit {w x : BitVec 32} {ws : List (BitVec 32)} {u : State}
    (hf : s.fetchWord n k (s.ctx n k).pc.toNat = .ok (w, u)) (hw : isHintWord w = true) (hints : (s.ctx n k).hints = [])
    (hscan : s.scanHints n k (2 ^ 50) (((s.ctx n k).pc.toNat + 4) % 2 ^ 52) [w] = .done ws) (hover : overLimit ws = some x) :
    s.fetchA n k = .idle (u.raiseA n k .illegal (x.setWidth 64) 0#64) := by
  simp only [State.fetchA, hf, hw, hints, List.map_nil, List.reverse_nil, Bool.not_true, Bool.false_eq_true, if_false, hscan,
    hover]

theorem State.mem_fetchFault (f : TFail) (group : Bool) (va : Nat) : (s.fetchFault n k f group va).mem = s.mem := by
  simp [State.fetchFault]

/-- A fetch that fails outside a hint group stops a context with no E word queued at the word, with FAULTX as R57 gives. -/
theorem State.ctx_fetchFault (f : TFail) (va : Nat) (hints : (s.ctx n k).hints = []) (heq : (s.ctx n k).eq = [])
    (hpend : (s.ctx n k).pend = none) :
    (s.fetchFault n k f false va).ctx n k = (s.ctx n k).stopped f.1 1 (s.ctx n k).pc (s.ctx n k).pc f.2.1 := by
  let t := s.walkLoads (s.partAt n k) (s.failReads (failAccess (s.partAt n k) (n / 8) (some n) (wordOf va)))
  have ht : t.ctx n k = s.ctx n k := State.ctx_congr (s.cores_walkLoads _ _) n k
  have hraise := State.ctx_raiseA (s := t) f.1 f.2.1 f.2.2 (by rwa [ht]) (by rwa [ht]) (by rwa [ht])
  rwa [ht] at hraise

end Turns

/-- Settles O5: the fetch faults in the A half, which has no older word to wait for. -/
theorem anUnfetchableWordParks : Obligations.AnUnfetchableWordParks := by
  unfold Obligations.AnUnfetchableWordParks
  intro s t rest f hag hcore hctx hA p hspent hrun hcluster h hint hauto hhang hfetch
  have hfetched : p.fetched = .idle (p.fetchFault t.core t.ctx f false p.actor.pc.toNat) :=
    (State.fetched_ready hrun hcluster hA h hint hauto hhang).trans (State.fetchA_faults hfetch h.plain)
  have hstop := State.ctx_fetchFault (s := p) (n := t.core) (k := t.ctx) f p.actor.pc.toNat h.plain h.drained h.free
  refine ⟨_, step_issue_idles hag hcore hctx hspent hfetched, Stopped.of_ctx hstop, by rw [hstop]; rfl,
    by rw [hstop]; rfl, State.mem_fetchFault ..⟩

/-! ## Words that are no instruction (02 R40, R41) -/

section IllegalWords
variable {s : State} {w : BitVec 32}

/-- An illegal word of the A half stops its context at once. -/
theorem illegalWord_stops_A (h : ReadyA s) (hint : (isHintWord w && decide ((kind4 w).toNat ≤ 3)) = false)
    (hE : routesToE w = false) : ∃ u, exec (.illegalWord w) s = .next u ∧ u.turn = s.turn ∧ u.mem = s.mem
      ∧ u.actor = s.actor.stopped (if namesSuper w && !s.actor.super then .privilege else .illegal) 1 s.actor.pc s.actor.pc
        (w.setWidth 64) := by
  show ∃ u, execIllegalWord w s = _ ∧ _
  simp only [execIllegalWord, hint, hE, Bool.false_eq_true, if_false]
  refine aHalf_stops (e := 0#64) h ?_
  refine (M.bind_ok (me_run s)).trans ?_
  cases namesSuper w && !s.actor.super <;> rfl

/-- An illegal word of the E half stops its context when the E half runs it. -/
theorem illegalWord_stops_E (h : ReadyE s) (hint : (isHintWord w && decide ((kind4 w).toNat ≤ 3)) = false)
    (hE : routesToE w = true) : ∃ u, exec (.illegalWord w) s = .next u ∧ u.turn = s.turn ∧ u.mem = s.mem
      ∧ ∃ c : Ctx, u.actor = c.stopped .illegal 2 (s.actor.pc + 4#52) s.actor.pc (w.setWidth 64) := by
  show ∃ u, execIllegalWord w s = _ ∧ _
  simp only [execIllegalWord, hint, hE, Bool.false_eq_true, if_false, if_true]
  exact eHalf_stops h (h.eFree rfl) rfl

end IllegalWords

/-- An illegal word raises its fault in the half that its major routes to (02 R40, R41). -/
theorem illegalWord_raises {s : State} {w : BitVec 32} (h : ReadyE s)
    (hint : (isHintWord w && decide ((kind4 w).toNat ≤ 3)) = false) :
    ∃ u, exec (.illegalWord w) s = .next u ∧ u.actor.faultx = w.setWidth 64 ∧ u.mem = s.mem
      ∧ Stopped u s.turn.core s.turn.ctx
        (if !routesToE w && namesSuper w && !s.actor.super then .privilege else .illegal)
      ∧ (if routesToE w then u.actor.faulte = s.actor.pc ∧ u.actor.faultc.extractLsb' 8 2 = 2#2
        else u.actor.faulta = s.actor.pc ∧ u.actor.faultc.extractLsb' 8 2 = 1#2) := by
  cases hE : routesToE w
  case false =>
    obtain ⟨u, hexec, hturn, hmem, hactor⟩ := illegalWord_stops_A h.ready hint hE
    refine ⟨u, hexec, ?_, hmem, Stopped.of_actor hturn hactor, ?_⟩
    · rw [hactor]; rfl
    · rw [hactor]; exact ⟨rfl, Ctx.faultc_stopped_half ..⟩
  case true =>
    obtain ⟨u, hexec, hturn, hmem, c, hactor⟩ := illegalWord_stops_E h hint hE
    refine ⟨u, hexec, ?_, hmem, Stopped.of_actor hturn hactor, ?_⟩
    · rw [hactor]; rfl
    · rw [hactor]; exact ⟨rfl, Ctx.faultc_stopped_half ..⟩

/-! ## Hint groups (02 R29, R30) -/

@[simp] theorem hintKind_himm (p : BitVec 22) : hintKind (encode (.himm p)) = 1 := by simp [hintKind, encode]
@[simp] theorem hintKind_hstall (n : BitVec 8) : hintKind (encode (.hstall n)) = 0 := by simp [hintKind, encode]
@[simp] theorem hintKind_hbr (x : BitVec 2) : hintKind (encode (.hbr x)) = 3 := by simp [hintKind, encode]

/-- Settles O16: an illegal word faults in its half; a group faults at its first hint when its limits are found broken. -/
theorem wordsAndGroupsThatAreIllegal : Obligations.WordsAndGroupsThatAreIllegal := by
  unfold Obligations.WordsAndGroupsThatAreIllegal
  refine ⟨fun s w h hint => illegalWord_raises h hint, ?_, ?_⟩
  · intro s t rest w x ws u hag hcore hctx hA p hspent hrun hcluster h hint hauto hhang hfetch hw hscan hover
    have hfetched : p.fetched = .idle (u.raiseA t.core t.ctx .illegal (x.setWidth 64) 0#64) :=
      (State.fetched_ready hrun hcluster hA h hint hauto hhang).trans (State.fetchA_overLimit hfetch hw h.plain hscan hover)
    have hu : u.ctx t.core t.ctx = p.actor := (ctxKept_fetchWord hfetch).kept h.free
    have hstop := State.ctx_raiseA (s := u) (n := t.core) (k := t.ctx) .illegal (x.setWidth 64) 0#64
      (by rw [hu]; exact h.plain) (by rw [hu]; exact h.drained) (by rw [hu]; exact h.free)
    rw [hu] at hstop
    refine ⟨_, step_issue_idles hag hcore hctx hspent hfetched, Stopped.of_ctx hstop, by rw [hstop]; rfl, by rw [hstop]; rfl⟩
  · intro p q r a b x y
    simp [overLimit, hintLimit]

end Sys2Proof.Machine
end

section
/-!
SUPPORT. Mortar (04 R76-R81): what a cluster's router and local port hold after a hop, and what a hop leaves alone.
-/

namespace Sys2Proof.Machine

/-! ## What the rows of Mortar and the pod leave alone -/

/-- Memory, cores and processes are as they were. -/
def Unmoved (s t : State) : Prop := t.mem = s.mem ∧ t.cores = s.cores ∧ t.procs = s.procs

theorem Unmoved.refl (s : State) : Unmoved s s := ⟨rfl, rfl, rfl⟩

theorem Unmoved.trans {s t u : State} (h : Unmoved s t) (g : Unmoved t u) : Unmoved s u := by
  obtain ⟨hmem, hcores, hprocs⟩ := h
  obtain ⟨gmem, gcores, gprocs⟩ := g
  exact ⟨gmem.trans hmem, gcores.trans hcores, gprocs.trans hprocs⟩

/-! ## Clusters and routers after a change -/

section Routers
variable (s : State)

theorem State.cluster_modCluster (n m : Nat) (f : Cluster → Cluster) :
    (s.modCluster n f).cluster m = if m = n then f (s.cluster n) else s.cluster m := by
  simp only [State.cluster, State.modCluster, find_put]

/-- What a change of a router does not touch of any cluster stays as it was. -/
theorem State.cluster_modRouter_keeps {β : Type} (g : Cluster → β) {f : Router → Router}
    (hf : ∀ c : Cluster, g { c with router := f c.router } = g c) (n m : Nat) :
    g ((s.modRouter n f).cluster m) = g (s.cluster m) := by
  rw [State.modRouter, State.cluster_modCluster]
  split_ifs with h
  · rw [h]; exact hf _
  · rfl

@[simp] theorem State.router_modRouter_same (n : Nat) (f : Router → Router) :
    ((s.modRouter n f).cluster n).router = f (s.cluster n).router := by
  simp [State.modRouter]

theorem State.unmoved_modRouter (n : Nat) (f : Router → Router) : Unmoved s (s.modRouter n f) := ⟨rfl, rfl, rfl⟩

/-! ## STOP and GO (R79) -/

/-- STOP and GO change at most a stop flag of one router. -/
theorem State.stopGo_cases (cl key : Nat) : s.stopGo cl key = s
    ∨ ∃ up k b, s.stopGo cl key = s.modRouter up fun r => { r with stop := put r.stop k b } := by
  unfold State.stopGo
  dsimp only
  split_ifs
  · exact .inl rfl
  · exact .inr ⟨_, _, _, rfl⟩
  · exact .inr ⟨_, _, _, rfl⟩
  · exact .inl rfl

theorem State.unmoved_stopGo (cl key : Nat) : Unmoved s (s.stopGo cl key) := by
  rcases s.stopGo_cases cl key with h | ⟨up, k, b, h⟩ <;> rw [h]
  · exact .refl s
  · exact s.unmoved_modRouter _ _

/-- STOP and GO touch no queue. -/
theorem State.cluster_stopGo_keeps {β : Type} (g : Cluster → β)
    (hg : ∀ (c : Cluster) (x : Map Bool), g { c with router := { c.router with stop := x } } = g c) (cl key n : Nat) :
    g ((s.stopGo cl key).cluster n) = g (s.cluster n) := by
  rcases s.stopGo_cases cl key with h | ⟨up, k, b, h⟩ <;> rw [h]
  exact s.cluster_modRouter_keeps g (fun c => hg c _) up n

@[simp] theorem State.inp_stopGo (cl key n : Nat) : ((s.stopGo cl key).cluster n).router.inp = (s.cluster n).router.inp :=
  s.cluster_stopGo_keeps (fun c => c.router.inp) (fun _ _ => rfl) cl key n

@[simp] theorem State.out_stopGo (cl key n : Nat) : ((s.stopGo cl key).cluster n).router.out = (s.cluster n).router.out :=
  s.cluster_stopGo_keeps (fun c => c.router.out) (fun _ _ => rfl) cl key n

@[simp] theorem State.arrived_stopGo (cl key n : Nat) : ((s.stopGo cl key).cluster n).arrived = (s.cluster n).arrived :=
  s.cluster_stopGo_keeps Cluster.arrived (fun _ _ => rfl) cl key n

/-- Whether a packet has a row of its own depends on the homes' records only, which a router has no part in. -/
theorem State.absorb_stopGo_modRouter {b : PBody} (h : s.absorb b = none) (n cl key : Nat) (f : Router → Router) :
    ((s.modRouter n f).stopGo cl key).absorb b = none := by
  have hrecord : ∀ chid, ((s.modRouter n f).stopGo cl key).record chid = s.record chid := fun chid => by
    rcases (s.modRouter n f).stopGo_cases cl key with h | ⟨up, k, b, h⟩ <;> rw [h] <;> rfl
  cases b <;> simp_all [State.absorb]

end Routers

/-! ## A packet for one cluster enters a queue or the local port (R78) -/

/-- A packet goes to its own cluster by the local port. -/
@[simp] theorem mortarOut_self (d : Nat) : mortarOut d d = 4 := by simp [mortarOut]

/-- A head packet for one cluster leaves its input for its output, if the bubble rule admits it there. -/
theorem State.hopIn_one {s : State} {cl key x o : Nat} {p : Packet} {rest : List Packet}
    (hhead : find (s.cluster cl).router.inp key [] = p :: rest) (hdst : p.dst = [x]) (hout : mortarOut cl x = o) (ho : o ≤ 4)
    (hadmits : o = 4 ∨ (s.cluster cl).router.admits (key / 3) o (key % 3) = true) :
    s.hopIn cl key =
      let t := (s.modRouter cl fun r => { r with inp := put r.inp key rest }).stopGo cl key
      if o = 4 then t.atLocal cl p
      else t.modRouter cl fun r => { r with out := put r.out (o * 3 + key % 3) (find r.out (o * 3 + key % 3) [] ++ [p]) } := by
  have hp : { p with dst := [x] } = p := by rw [← hdst]
  have hchoice : ∀ go : Nat → Bool, go o = true → (∀ o', o' ≠ o → go o' = false) → [4, 0, 1, 2, 3].find? go = some o := by
    intro go hgo hother
    interval_cases o <;> simp [List.find?, hgo, hother]
  simp only [State.hopIn, hhead, hdst]
  rw [hchoice _ (by rcases hadmits with h | h <;> simp [hout, h]) (fun o' ho' => by simp [hout, Ne.symm ho'])]
  simp [hout, hp]

section Hops
variable {s : State}

theorem goes_mortarHop_in (hd : clusterOk s.turn.unit = true) (hk : s.turn.sub < 15) :
    Goes s .mortarHop (s.hopIn s.turn.unit s.turn.sub) := by
  show execMortarHop s = _
  have hk' : ¬19 ≤ s.turn.sub := by omega
  simp [execMortarHop, hd, hk, hk']

theorem goes_mortarHop_out {o : Nat} (hd : clusterOk s.turn.unit = true) (ho : o < 4) (hk : s.turn.sub = 15 + o) :
    Goes s .mortarHop (s.hopOut s.turn.unit o) := by
  show execMortarHop s = _
  have hk' : ¬19 ≤ s.turn.sub := by omega
  have hk'' : s.turn.sub - 15 = o := by omega
  have hk3 : ¬s.turn.sub < 15 := by omega
  simp [execMortarHop, hd, hk', hk'', hk3]

variable {p : Packet} {rest : List Packet} {x : Nat}

/-- A packet that has come to its cluster arrives there. -/
theorem mortarHop_arrives (hd : clusterOk s.turn.unit = true) (hk : s.turn.sub < 15)
    (hhead : find (s.cluster s.turn.unit).router.inp s.turn.sub [] = p :: rest) (hdst : p.dst = [x]) (hx : x = s.turn.unit)
    (hown : s.absorb p.body = none) :
    ∃ t, Goes s .mortarHop t ∧ Unmoved s t ∧ find (t.cluster s.turn.unit).router.inp s.turn.sub [] = rest
      ∧ (t.cluster s.turn.unit).arrived = (s.cluster s.turn.unit).arrived ++ [p] := by
  subst hx
  have hp : { p with dst := [s.turn.unit] } = p := by rw [← hdst]
  have hgo := goes_mortarHop_in hd hk
  rw [State.hopIn_one hhead hdst (mortarOut_self _) le_rfl (.inl rfl), if_pos rfl, State.atLocal,
    State.absorb_stopGo_modRouter s hown, hp] at hgo
  refine ⟨_, hgo, ?_, by simp, ?_⟩
  · exact (s.unmoved_modRouter _ _).trans (State.unmoved_stopGo _ _ _)
  · simp only [State.cluster_modCluster_same, State.arrived_stopGo]
    rw [s.cluster_modRouter_keeps Cluster.arrived fun _ => rfl]

/-- A packet for another cluster enters the outgoing queue of its ring. -/
theorem mortarHop_turns (hd : clusterOk s.turn.unit = true) (hk : s.turn.sub < 15)
    (hhead : find (s.cluster s.turn.unit).router.inp s.turn.sub [] = p :: rest) (hdst : p.dst = [x]) {o : Nat}
    (hout : o = mortarOut s.turn.unit x) (ho : o < 4)
    (hadmits : (s.cluster s.turn.unit).router.admits (s.turn.sub / 3) o (s.turn.sub % 3) = true) :
    ∃ t, Goes s .mortarHop t ∧ Unmoved s t ∧ find (t.cluster s.turn.unit).router.inp s.turn.sub [] = rest
      ∧ find (t.cluster s.turn.unit).router.out (o * 3 + s.turn.sub % 3) []
        = find (s.cluster s.turn.unit).router.out (o * 3 + s.turn.sub % 3) [] ++ [p] := by
  have hgo := goes_mortarHop_in hd hk
  rw [State.hopIn_one hhead hdst hout.symm ho.le (.inr hadmits)] at hgo
  simp only [if_neg (Nat.ne_of_lt ho)] at hgo
  refine ⟨_, hgo, ?_, by simp, by simp⟩
  exact ((s.unmoved_modRouter _ _).trans (State.unmoved_stopGo _ _ _)).trans (State.unmoved_modRouter _ _ _)

/-! ## An output link sends (R78, R81) -/

/-- What a packet that passes an output changes: the routes held there, and of the packet at most that it claims none. -/
theorem Router.pass_spec (r : Router) (o : Nat) (p : Packet) :
    (r.pass o p).1.out = r.out ∧ (r.pass o p).1.inp = r.inp
      ∧ (r.pass o p).2 = { p with unheld := (r.pass o p).2.unheld }
      ∧ ((∀ id, p.body ≠ .openRoute id) → (r.pass o p).2 = p) := by
  unfold Router.pass
  dsimp only
  split
  case h_1 id hbody =>
    split_ifs
    · exact ⟨rfl, rfl, rfl, fun _ => rfl⟩
    · exact ⟨rfl, rfl, rfl, fun h => absurd hbody (h id)⟩
    · exact ⟨rfl, rfl, rfl, fun _ => rfl⟩
  case h_2 => exact ⟨rfl, rfl, rfl, fun _ => rfl⟩
  case h_3 => exact ⟨rfl, rfl, rfl, fun _ => rfl⟩

/-- A link of a cluster leads to another one. -/
theorem mortarNext_ne {d : Nat} (hd : clusterOk d = true) (o : Nat) : mortarNext d o ≠ d := by
  obtain ⟨hlow, hx⟩ : d < 2048 ∧ d % 64 < 48 := by simpa [clusterOk] using hd
  unfold mortarNext clusterX clusterY
  dsimp only
  split <;> omega

theorem mortarHop_sends {o c : Nat} (hd : clusterOk s.turn.unit = true) (ho : o < 4) (hk : s.turn.sub = 15 + o)
    (hclass : s.linkClass s.turn.unit o = some c) (hnext : (s.cluster s.turn.unit).router.nextOut o c = some p) :
    ∃ t q, Goes s .mortarHop t ∧ Unmoved s t
      ∧ find (t.cluster (mortarNext s.turn.unit o)).router.inp (mortarOpp o * 3 + c) []
        = find (s.cluster (mortarNext s.turn.unit o)).router.inp (mortarOpp o * 3 + c) [] ++ [q]
      ∧ q = { p with unheld := q.unheld } ∧ ((∀ id, p.body ≠ .openRoute id) → q = p)
      ∧ find (t.cluster s.turn.unit).router.out (o * 3 + c) []
        = (find (s.cluster s.turn.unit).router.out (o * 3 + c) []).filter (· != p) := by
  have hgo := goes_mortarHop_out hd ho hk
  have hne := mortarNext_ne hd o
  simp only [State.hopOut, hclass, hnext] at hgo
  generalize hr : ({ (s.cluster s.turn.unit).router with
    out := put (s.cluster s.turn.unit).router.out (o * 3 + c)
      ((find (s.cluster s.turn.unit).router.out (o * 3 + c) []).filter (· != p))
    last := put (s.cluster s.turn.unit).router.last o c } : Router) = r at hgo
  obtain ⟨hout, -, hq, hsame⟩ := r.pass_spec o p
  refine ⟨_, (r.pass o p).2, hgo, ?_, ?_, hq, hsame, ?_⟩
  · exact ((s.unmoved_modRouter _ _).trans (State.unmoved_modRouter _ _ _)).trans (State.unmoved_stopGo _ _ _)
  · simp [State.modRouter, State.cluster_modCluster, hne]
  · simp [State.modRouter, State.cluster_modCluster, hne.symm, hout, congrArg Router.out hr.symm]

end Hops

end Sys2Proof.Machine
end

section
/-!
SUPPORT. The Xanol router and its links (12 R264-R271): a router's inputs, what leaves by a port, replays and training, ageing.
-/

namespace Sys2Proof.Machine

/-! ## Ports and inputs after a change -/

section Ports
variable (s : State)

/-- What a change of a port does not touch of any port stays as it was. -/
theorem State.port_modPort_keeps {β : Type} (g : Port → β) {f : Port → Port} (hf : ∀ h, g (f h) = g h) (n m : Nat) :
    g ((s.modPort n f).port m) = g (s.port m) := by
  rw [State.port_modPort]
  split_ifs with h
  · rw [h]; exact hf _
  · rfl

theorem State.unmoved_modPort (n : Nat) (f : Port → Port) : Unmoved s (s.modPort n f) := ⟨rfl, rfl, rfl⟩

theorem State.unmoved_setInput (i : Nat) (ps : List PodPacket) : Unmoved s (s.setInput i ps) := by
  unfold State.setInput; split_ifs <;> exact ⟨rfl, rfl, rfl⟩

@[simp] theorem State.inputOf_setInput (i : Nat) (ps : List PodPacket) : (s.setInput i ps).inputOf i = ps := by
  by_cases h : i < 12 <;> simp [State.inputOf, State.setInput, h, Port.stopGo]

/-- Setting an input touches only its packets and the STOP that it raises. -/
theorem State.port_setInput_keeps {β : Type} (g : Port → β)
    (hg : ∀ (h : Port) (ps : List PodPacket) (cs : List Nat), g { h with inp := ps, raised := cs } = g h) (i m : Nat)
    (ps : List PodPacket) : g ((s.setInput i ps).port m) = g (s.port m) := by
  unfold State.setInput
  split_ifs
  · exact s.port_modPort_keeps g (fun h => hg h ps _) i m
  · rfl

/-- A change of a port that keeps its packets keeps every input. -/
theorem State.inputOf_modPort {f : Port → Port} (hf : ∀ h, (f h).inp = h.inp) (n i : Nat) :
    (s.modPort n f).inputOf i = s.inputOf i := by
  unfold State.inputOf
  split_ifs
  · exact s.port_modPort_keeps Port.inp hf n i
  · rfl

@[simp] theorem State.drop_setInput (i m : Nat) (ps : List PodPacket) : ((s.setInput i ps).port m).drop = (s.port m).drop :=
  s.port_setInput_keeps Port.drop (fun _ _ _ => rfl) i m ps

@[simp] theorem State.sent_setInput (i m : Nat) (ps : List PodPacket) : ((s.setInput i ps).port m).sent = (s.port m).sent :=
  s.port_setInput_keeps Port.sent (fun _ _ _ => rfl) i m ps

@[simp] theorem State.procs_count (p kind n : Nat) : (s.count p kind n).procs = s.procs := by
  unfold State.count; split <;> rfl

@[simp] theorem State.inject_count (p kind n : Nat) : (s.count p kind n).inject = s.inject := by
  unfold State.count; split <;> rfl

@[simp] theorem State.port_count (p kind n m : Nat) : (s.count p kind n).port m = s.port m := by
  unfold State.count; split <;> rfl

@[simp] theorem State.inputOf_count (p kind n i : Nat) : (s.count p kind n).inputOf i = s.inputOf i := by
  simp [State.inputOf]

theorem State.unmoved_count (p kind n : Nat) : Unmoved s (s.count p kind n) := by simp [Unmoved]

end Ports

/-! ## Links (R266), ageing (R269), flits that wait too long (R284) -/

section Links
variable {s : State}

/-- The eighth replay in a row starts training. -/
theorem goes_linkReplay (hd : s.turn.unit < 12) (hup : (s.port s.turn.unit).state = .up) :
    Goes s .linkReplay (s.modPort s.turn.unit fun h =>
      if 7 ≤ h.row then { h with replay := min 65535 (h.replay + 1), state := .training, row := 0 }
      else { h with replay := min 65535 (h.replay + 1), row := h.row + 1 }) := by
  show execLinkReplay s = _
  simp [execLinkReplay, Nat.not_le.mpr hd, hup]

theorem goes_linkTrainingDone (hd : s.turn.unit < 12) (htrain : (s.port s.turn.unit).state = .training) :
    Goes s .linkTrainingDone (s.modPort s.turn.unit fun h =>
      if s.turn.ok then { h with state := .up, stopAt := s.turn.val + 4, stop := [], row := 0 } else { h with state := .down }) := by
  show execLinkTrainingDone s = _
  simp [execLinkTrainingDone, Nat.not_le.mpr hd, htrain]

theorem goes_ingressFlitExpiry (hd : s.turn.unit < 12) :
    Goes s .ingressFlitExpiry (s.modPort s.turn.unit fun h => Port.stopGo
      { h with drop := min 65535 (h.drop + (h.flits.filter fun x => decide (x.2.2.2.2.2 + 1000000 ≤ s.time)).length)
               flits := h.flits.filter fun x => decide (s.time < x.2.2.2.2.2 + 1000000) }) := by
  show execIngressFlitExpiry s = _
  simp only [execIngressFlitExpiry, Nat.not_le.mpr hd, if_false, ← decide_not, Nat.not_le]

theorem goes_packetAgeing (hd : s.turn.unit < 13) :
    Goes s .packetAgeing (s.setInput s.turn.unit ((s.inputOf s.turn.unit).map fun p =>
      if p.since + 128 ≤ s.cyc then { p with age := min 255 (p.age + 1), since := p.since + 128 } else p)) := by
  show execPacketAgeing s = _
  rw [execPacketAgeing, if_neg (Nat.not_le.mpr hd)]

/-! ## A port forwards (R267-R270) -/

/-- The state in which a port has heard what the far end tells. -/
def State.heard (s : State) : State := s.modPort s.turn.unit fun h => h.hear s.farFree

theorem goes_xanolForward_dead (hd : s.turn.unit < 12) {i : Nat} {p : PodPacket}
    (hbest : bestOf (s.port s.turn.unit).last (s.heard.wanting s.turn.unit true) = some (i, p)) :
    Goes s .xanolForward ((s.heard.setInput i (removePkt p (s.heard.inputOf i))).countDrop s.turn.unit) := by
  show execXanolForward s = _
  rw [State.heard] at hbest
  simp only [execXanolForward, Nat.not_le.mpr hd, if_false, hbest]
  rfl

theorem goes_xanolForward_sends (hd : s.turn.unit < 12)
    (hnone : bestOf (s.port s.turn.unit).last (s.heard.wanting s.turn.unit true) = none)
    (hup : (s.port s.turn.unit).state = .up) {i : Nat} {p : PodPacket}
    (hbest : bestOf (s.port s.turn.unit).last (s.heard.wanting s.turn.unit false) = some (i, p)) (hwhole : p.stomped = false) :
    Goes s .xanolForward (((s.heard.setInput i (removePkt p (s.heard.inputOf i))).modPort s.turn.unit fun h =>
      { h with sent := h.sent ++ [{ p with stomped := decide (s.turn.val % 2 = 1) }], last := i, row := 0 }).count p.part 16 1) := by
  show execXanolForward s = _
  rw [State.heard] at hnone hbest
  simp [execXanolForward, Nat.not_le.mpr hd, hnone, hup, hbest, hwhole, State.heard]

theorem State.unmoved_heard (s : State) : Unmoved s s.heard := s.unmoved_modPort _ _

@[simp] theorem State.inputOf_heard (s : State) (i : Nat) : s.heard.inputOf i = s.inputOf i :=
  s.inputOf_modPort (f := fun h => h.hear s.farFree) (fun _ => rfl) _ i

@[simp] theorem State.drop_heard (s : State) (m : Nat) : (s.heard.port m).drop = (s.port m).drop :=
  s.port_modPort_keeps Port.drop (f := fun h => h.hear s.farFree) (fun _ => rfl) _ m

@[simp] theorem State.sent_heard (s : State) (m : Nat) : (s.heard.port m).sent = (s.port m).sent :=
  s.port_modPort_keeps Port.sent (f := fun h => h.hear s.farFree) (fun _ => rfl) _ m

/-- A packet whose links are down is dropped and counted. -/
theorem xanolForward_drops (hd : s.turn.unit < 12) {i : Nat} {p : PodPacket}
    (hbest : bestOf (s.port s.turn.unit).last (s.heard.wanting s.turn.unit true) = some (i, p)) :
    ∃ t, Goes s .xanolForward t ∧ Unmoved s t ∧ (t.port s.turn.unit).drop = min 65535 ((s.port s.turn.unit).drop + 1)
      ∧ t.inputOf i = removePkt p (s.inputOf i) := by
  refine ⟨_, goes_xanolForward_dead hd hbest, ?_, ?_, ?_⟩
  · exact (s.unmoved_heard.trans (State.unmoved_setInput _ _ _)).trans (State.unmoved_modPort _ _ _)
  · simp [State.countDrop]
  · simp [State.countDrop, State.inputOf_modPort]

/-- A packet leaves by its port, stomped where its header's CRC fails. -/
theorem xanolForward_sends (hd : s.turn.unit < 12)
    (hnone : bestOf (s.port s.turn.unit).last (s.heard.wanting s.turn.unit true) = none)
    (hup : (s.port s.turn.unit).state = .up) {i : Nat} {p : PodPacket}
    (hbest : bestOf (s.port s.turn.unit).last (s.heard.wanting s.turn.unit false) = some (i, p)) (hwhole : p.stomped = false) :
    ∃ t, Goes s .xanolForward t ∧ Unmoved s t ∧ t.inputOf i = removePkt p (s.inputOf i) ∧ (t.port s.turn.unit).last = i
      ∧ (t.port s.turn.unit).sent = (s.port s.turn.unit).sent ++ [{ p with stomped := decide (s.turn.val % 2 = 1) }] := by
  refine ⟨_, goes_xanolForward_sends hd hnone hup hbest hwhole, ?_, ?_, by simp, by simp⟩
  · exact ((s.unmoved_heard.trans (State.unmoved_setInput _ _ _)).trans (State.unmoved_modPort _ _ _)).trans
      (State.unmoved_count _ _ _ _)
  · simp [State.inputOf_modPort]

end Links

end Sys2Proof.Machine
end

section
/-!
SUPPORT. What comes in from other devices (12 R272-R277; 18 R381): packets that arrive, are held or take effect, count markers,
acknowledgements, fences and replies that wait too long.
-/

namespace Sys2Proof.Machine

/-! ## Arrival (R270, R273, R276, R381) -/

section Arrival
variable {s : State} {p : PodPacket} {rest : List PodPacket}

theorem goes_remotePacketArrival (hd : s.turn.unit < 13) : Goes s .remotePacketArrival (s.arriveFar s.turn.unit) := by
  show execRemotePacketArrival s = _
  rw [execRemotePacketArrival, if_neg (Nat.not_le.mpr hd)]

/-- A stomped packet is dropped and counted. -/
theorem remotePacketArrival_drops (hd : s.turn.unit < 13)
    (hfirst : takeFirst (fun (p : PodPacket) => p.stomped) (s.inputOf s.turn.unit) = some (p, rest)) :
    Goes s .remotePacketArrival ((s.setInput s.turn.unit rest).countStomp s.turn.unit) := by
  have hgo := goes_remotePacketArrival hd
  simpa only [State.arriveFar, State.dropStomped, hfirst] using hgo

theorem takeFirst_eq_none {α : Type} {test : α → Bool} {xs : List α} (h : ∀ x ∈ xs, test x = false) : takeFirst test xs = none := by
  induction xs with
  | nil => rfl
  | cons x xs ih => simp_all [takeFirst]

/-- The first packet for this device, where none is stomped, is held or takes effect. -/
theorem State.arriveFar_first {i : Nat} (hwhole : ∀ q ∈ s.inputOf i, q.stomped = false)
    (hfirst : takeFirst (fun (p : PodPacket) => p.dst == s.devidx && !p.ownRow) (s.inputOf i) = some (p, rest)) :
    s.arriveFar i = if (s.setInput i rest).stampMet p then ((s.setInput i rest).admitFar (dieOfInput i p.path) p).getD s
      else (s.setInput i rest).holdStamped (dieOfInput i p.path) p := by
  simp only [State.arriveFar, State.dropStomped, takeFirst_eq_none hwhole, hfirst]

/-- The state in which a store that arrives has been counted. -/
def State.countedIn (s : State) (io : Nat) (p : PodPacket) : State := if p.counted then s.countRecv io p else s

theorem State.admitFar_takes {io : Nat} {u : State} (htake : (s.countedIn io p).takeFar io p = some u) :
    s.admitFar io p = some u := by
  unfold State.countedIn at htake
  unfold State.admitFar
  split_ifs at htake ⊢ <;> simp [htake]

theorem State.admitFar_waits {io : Nat} (htake : (s.countedIn io p).takeFar io p = none) (hcounted : p.counted = true) :
    s.admitFar io p = some { s.countedIn io p with
      farWait := put (s.countedIn io p).farWait io (find (s.countedIn io p).farWait io [] ++ [p]) } := by
  simp only [State.countedIn, hcounted, if_true] at htake ⊢
  simp [State.admitFar, hcounted, htake]

/-- A packet that is not counted is held where there is room. -/
theorem State.holdStamped_room {io : Nat} (hcounted : p.counted = false) (hroom : (find s.stamped io []).length < 256) :
    s.holdStamped io p = { s with stamped := put s.stamped io (find s.stamped io [] ++ [p]) } := by
  simp [State.holdStamped, hcounted, Nat.not_le.mpr hroom]

section First
variable (hd : s.turn.unit < 13) (hwhole : ∀ q ∈ s.inputOf s.turn.unit, q.stomped = false)
  (hfirst : takeFirst (fun (p : PodPacket) => p.dst == s.devidx && !p.ownRow) (s.inputOf s.turn.unit) = some (p, rest))
include hd hwhole hfirst

/-- A packet whose stamp is met takes effect. -/
theorem remotePacketArrival_takes {u : State} (hmet : (s.setInput s.turn.unit rest).stampMet p = true)
    (htake : ((s.setInput s.turn.unit rest).countedIn (dieOfInput s.turn.unit p.path) p).takeFar
      (dieOfInput s.turn.unit p.path) p = some u) :
    Goes s .remotePacketArrival u := by
  have hgo := goes_remotePacketArrival hd
  rwa [State.arriveFar_first hwhole hfirst, if_pos hmet, State.admitFar_takes htake] at hgo

/-- A store that finds no room in the staging of a checkpoint is counted and stands aside. -/
theorem remotePacketArrival_waits (hmet : (s.setInput s.turn.unit rest).stampMet p = true)
    (htake : ((s.setInput s.turn.unit rest).countedIn (dieOfInput s.turn.unit p.path) p).takeFar
      (dieOfInput s.turn.unit p.path) p = none) (hcounted : p.counted = true) :
    let io := dieOfInput s.turn.unit p.path
    let r := (s.setInput s.turn.unit rest).countedIn io p
    Goes s .remotePacketArrival { r with farWait := put r.farWait io (find r.farWait io [] ++ [p]) } := by
  have hgo := goes_remotePacketArrival hd
  rwa [State.arriveFar_first hwhole hfirst, if_pos hmet, State.admitFar_waits htake hcounted] at hgo

/-- A packet that is not counted is held until its stamp is met. -/
theorem remotePacketArrival_holds (hmet : (s.setInput s.turn.unit rest).stampMet p = false) (hcounted : p.counted = false)
    (hroom : (find (s.setInput s.turn.unit rest).stamped (dieOfInput s.turn.unit p.path) []).length < 256) :
    let io := dieOfInput s.turn.unit p.path
    let t := s.setInput s.turn.unit rest
    Goes s .remotePacketArrival { t with stamped := put t.stamped io (find t.stamped io [] ++ [p]) } := by
  have hgo := goes_remotePacketArrival hd
  rwa [State.arriveFar_first hwhole hfirst, if_neg (Bool.eq_false_iff.mp hmet), State.holdStamped_room hcounted hroom] at hgo

end First

/-! ## Ordered release (R276, R381) -/

/-- With no store waiting for room, the oldest packet whose stamp is met takes effect. -/
theorem orderedPacketRelease_stamped (hd : s.turn.unit < 2) {u : State} (hwait : find s.farWait s.turn.unit [] = [])
    (hfirst : takeFirst s.stampMet (find s.stamped s.turn.unit []) = some (p, rest))
    (htake : ({ s with stamped := put s.stamped s.turn.unit rest } : State).takeFar s.turn.unit p = some u) :
    Goes s .orderedPacketRelease u := by
  show execOrderedPacketRelease s = _
  simp [execOrderedPacketRelease, Nat.not_le.mpr hd, hwait, State.firstTaken, hfirst, htake]

/-- A store that waited for room takes effect before what is held. -/
theorem orderedPacketRelease_waiting (hd : s.turn.unit < 2) {u : State} (hwait : find s.farWait s.turn.unit [] = p :: rest)
    (hmet : ({ s with farWait := put s.farWait s.turn.unit [] } : State).stampMet p = true)
    (htake : ({ s with farWait := put s.farWait s.turn.unit [] } : State).takeFar s.turn.unit p = some u) :
    Goes s .orderedPacketRelease { u with farWait := put u.farWait s.turn.unit rest } := by
  show execOrderedPacketRelease s = _
  simp [execOrderedPacketRelease, Nat.not_le.mpr hd, hwait, State.firstTaken, hmet, htake]

/-! ## Count markers (R274) -/

theorem goes_countMarkerArrival (hd : s.turn.unit < 13)
    (hfirst : takeFirst (fun (p : PodPacket) => p.dst == s.devidx && p.body.isMarker && !p.stomped) (s.inputOf s.turn.unit)
      = some (p, rest)) :
    Goes s .countMarkerArrival (let t := s.setInput s.turn.unit rest
      if t.markMet p then t.ackMarker p true else { t with marks := t.marks ++ [{ pkt := p, since := t.time }] }) := by
  show execCountMarkerArrival s = _
  simp only [execCountMarkerArrival, Nat.not_le.mpr hd, if_false, hfirst]
  split_ifs <;> rfl

theorem State.setInput_keeps_marks (s : State) (i : Nat) (ps : List PodPacket) :
    (s.setInput i ps).marks = s.marks ∧ (s.setInput i ps).time = s.time := by
  unfold State.setInput; split_ifs <;> exact ⟨rfl, rfl⟩

theorem countMarkerArrival_acks (hd : s.turn.unit < 13)
    (hfirst : takeFirst (fun (p : PodPacket) => p.dst == s.devidx && p.body.isMarker && !p.stomped) (s.inputOf s.turn.unit)
      = some (p, rest)) (hmet : (s.setInput s.turn.unit rest).markMet p = true) :
    Goes s .countMarkerArrival ((s.setInput s.turn.unit rest).ackMarker p true) := by
  simpa only [hmet, if_true] using goes_countMarkerArrival hd hfirst

theorem countMarkerArrival_waits (hd : s.turn.unit < 13)
    (hfirst : takeFirst (fun (p : PodPacket) => p.dst == s.devidx && p.body.isMarker && !p.stomped) (s.inputOf s.turn.unit)
      = some (p, rest)) (hmet : (s.setInput s.turn.unit rest).markMet p = false) :
    Goes s .countMarkerArrival { s.setInput s.turn.unit rest with marks := s.marks ++ [{ pkt := p, since := s.time }] } := by
  have hgo := goes_countMarkerArrival hd hfirst
  obtain ⟨hmarks, htime⟩ := s.setInput_keeps_marks s.turn.unit rest
  simpa only [hmet, Bool.false_eq_true, if_false, hmarks, htime] using hgo

theorem goes_markerWaitExpiry {w : MarkWait} {rest : List MarkWait}
    (hfirst : takeFirst (fun (w : MarkWait) => decide (w.since + 1000 * s.pftmo ≤ s.time) && !s.countMet w.pkt) s.marks
      = some (w, rest)) :
    Goes s .markerWaitExpiry (({ s with marks := rest } : State).ackMarker w.pkt false) := by
  show execMarkerWaitExpiry s = _
  simp only [execMarkerWaitExpiry, hfirst]

/-- An acknowledgement reaches the fence of its context. -/
theorem countMarkerAck_heard (hd : s.turn.unit < 13) {b : Bool}
    (hfirst : takeFirst (fun (p : PodPacket) => p.dst == s.devidx && p.body.isAck && !p.stomped) (s.inputOf s.turn.unit)
      = some (p, rest)) (hbody : p.body = .ack b) :
    ∃ t, Goes s .countMarkerAck t ∧ t.mem = s.mem
      ∧ ∀ f, (s.ctx p.core p.ctx).podFence = some f → (t.ctx p.core p.ctx).podFence = some (f.heard p b) := by
  have hgo : Goes s .countMarkerAck ((s.setInput s.turn.unit rest).modCtx p.core p.ctx fun c =>
      { c with podFence := c.podFence.map fun f => f.heard p b }) := by
    show execCountMarkerAck s = _
    simp only [execCountMarkerAck, Nat.not_le.mpr hd, if_false, hfirst, hbody]
  obtain ⟨hmem, hcores, -⟩ := s.unmoved_setInput s.turn.unit rest
  refine ⟨_, hgo, hmem, fun f hf => ?_⟩
  rw [State.ctx_modCtx_same, State.ctx_congr hcores, hf]
  rfl

/-! ## The target's acknowledgement (R275) -/

/-- Discarding held packets, with no GSTV among them, only takes them off the lists. -/
theorem State.dropHeld_of_no_landing {test : PodPacket → Bool}
    (h : ∀ e ∈ s.stamped, ∀ r ∈ e.2, test r = true → ∀ g, r.body ≠ .landing g) :
    s.dropHeld test = { s with stamped := s.stamped.map fun e => (e.1, e.2.filter fun q => !test q) } := by
  unfold State.dropHeld
  dsimp only
  rw [List.filterMap_eq_nil_iff.mpr fun q hq => ?_]
  · rfl
  · obtain ⟨hmem, htest⟩ := List.mem_filter.mp hq
    obtain ⟨l, hl, hql⟩ := List.mem_flatten.mp hmem
    obtain ⟨e, he, rfl⟩ := List.mem_map.mp hl
    have hbody := h e he q hql htest
    split
    · exact absurd ‹_› (hbody _)
    · rfl

/-- What an acknowledgement leaves alone once the mismatched packets are gone. -/
def State.besideCounts (s : State) : Memory × Map Core × Map Proc × List PodPacket × Map (List PodPacket) :=
  (s.mem, s.cores, s.procs, s.inject, s.stamped)

theorem State.besideCounts_injectPkt {t u : State} (h : u.besideCounts = t.besideCounts) (p : PodPacket) :
    (u.injectPkt p).besideCounts = (t.mem, t.cores, t.procs, t.inject ++ [{ p with src := u.devidx, since := u.cyc }], t.stamped) := by
  simp only [State.besideCounts, Prod.mk.injEq] at h
  obtain ⟨hmem, hcores, hprocs, hinject, hstamped⟩ := h
  simp only [State.besideCounts, State.injectPkt, hmem, hcores, hprocs, hinject, hstamped]

/-- The counts at an I/O die of an interval that is over go. -/
def State.resetCount (p : PodPacket) (s : State) (io : Nat) : State := match s.recvAt io p.src p.core p.ctx with
  | some r => if r.interval ≤ p.interval then s.setRecv io p none else s
  | none => s

theorem State.besideCounts_resetCount (p : PodPacket) (s : State) (io : Nat) :
    (s.resetCount p io).besideCounts = s.besideCounts := by
  unfold State.resetCount
  split
  · split_ifs <;> rfl
  · rfl

/-- An acknowledgement is sent on the marker's path; what a mismatch discards apart, only counts, intervals and the marks of the
race rule change. -/
theorem State.ackMarker_sends (s : State) (p : PodPacket) (ok : Bool) :
    ∃ q : PodPacket, q.dst = p.src ∧ q.core = p.core ∧ q.ctx = p.ctx ∧ q.path = p.path ∧ q.cls = 1 ∧ q.body = .ack ok
      ∧ let t := s.dropHeld fun q => !ok && q.src == p.src && q.core == p.core && q.ctx == p.ctx && decide (q.interval ≤ p.interval)
        (s.ackMarker p ok).besideCounts = (t.mem, t.cores, t.procs, t.inject ++ [q], t.stamped) := by
  unfold State.ackMarker
  dsimp only
  generalize s.dropHeld _ = t
  refine ⟨_, ?_, ?_, ?_, ?_, ?_, ?_, State.besideCounts_injectPkt ?beside _⟩
  case beside =>
    have hreset := fun v : State => foldl_keeps State.besideCounts (State.besideCounts_resetCount p) [0, 1] v
    split_ifs
    · exact hreset _
    · exact hreset _
    · rfl
  all_goals rfl

theorem exists_mem_of_mem_find {α : Type} {m : Map (List α)} {k : Nat} {x : α} (h : x ∈ find m k []) : ∃ e ∈ m, x ∈ e.2 := by
  induction m with
  | nil => simp [find, look] at h
  | cons e m ih =>
    by_cases hk : k = e.1
    · exact ⟨e, List.mem_cons_self, by simpa [find, look, hk] using h⟩
    · obtain ⟨e', he', hx⟩ := ih (by simpa [find, look, hk] using h)
      exact ⟨e', List.mem_cons_of_mem _ he', hx⟩

/-- An acknowledgement goes back to the fencing context's device; a mismatch discards what is held of the interval and of those before it. -/
theorem State.ackMarker_spec (s : State) (p : PodPacket) (ok : Bool)
    (hplain : ok = false → ∀ e ∈ s.stamped, ∀ r ∈ e.2, ∀ g, r.body ≠ .landing g) :
    ∃ q : PodPacket, q.dst = p.src ∧ q.core = p.core ∧ q.ctx = p.ctx ∧ q.path = p.path ∧ q.cls = 1 ∧ q.body = .ack ok
      ∧ (s.ackMarker p ok).inject = s.inject ++ [q] ∧ Unmoved s (s.ackMarker p ok)
      ∧ (ok = false → ∀ io, ∀ r ∈ find (s.ackMarker p ok).stamped io [],
        ¬(r.src = p.src ∧ r.core = p.core ∧ r.ctx = p.ctx ∧ r.interval ≤ p.interval)) := by
  obtain ⟨q, hdst, hcore, hctx, hpath, hcls, hbody, hbeside⟩ := s.ackMarker_sends p ok
  rw [State.dropHeld_of_no_landing fun e he r hr htest => hplain (by cases ok <;> simp_all) e he r hr] at hbeside
  simp only [State.besideCounts, Prod.mk.injEq] at hbeside
  obtain ⟨hmem, hcores, hprocs, hinject, hstamped⟩ := hbeside
  refine ⟨q, hdst, hcore, hctx, hpath, hcls, hbody, hinject, ⟨hmem, hcores, hprocs⟩, fun hok io r hr => ?_⟩
  subst hok
  rw [hstamped] at hr
  obtain ⟨e, he, hre⟩ := exists_mem_of_mem_find hr
  obtain ⟨e', -, rfl⟩ := List.mem_map.mp he
  rintro ⟨hsrc, hcore', hctx', hle⟩
  simpa [hsrc, hcore', hctx', hle] using (List.mem_filter.mp hre).2

end Arrival

end Sys2Proof.Machine
end

section
/-!
SUPPORT. Accesses of other devices that take effect here (12 R273, R277), fences and replies that wait too long (12 R274, R277),
drain markers (13 R319; 14 R346), and the statement O55 put together.
-/

namespace Sys2Proof.Machine

/-! ## What a read leaves alone (04 R63, R66; 11 R240) -/

section Reads
variable (s : State)

@[simp] theorem State.inject_wakeCluster (cl : Nat) : (s.wakeCluster cl).inject = s.inject := by
  unfold State.wakeCluster; dsimp only; split_ifs <;> rfl

@[simp] theorem State.inject_evict (h : Home) (w : Way) : (s.evict h w).inject = s.inject := by
  unfold State.evict; dsimp only; split_ifs <;> simp

@[simp] theorem State.inject_modSet (h : Home) (f : SliceSet → SliceSet) : (s.modSet h f).inject = s.inject := rfl

@[simp] theorem State.inject_lineAccess (h : Home) (line part cache : Nat) (write : Bool) :
    (s.lineAccess h line part cache write).inject = s.inject := by
  unfold State.lineAccess
  dsimp only
  repeat' split
  all_goals simp

/-- A read that joins no window changes neither memory nor what is injected. -/
theorem State.readLine_keeps (line part cluster cache : Nat) :
    (s.readLine line part cluster cache false).mem = s.mem
      ∧ (s.readLine line part cluster cache false).inject = s.inject := by
  simp only [State.readLine, Bool.false_eq_true, if_false]
  split_ifs <;> simp

theorem State.observeRead_keeps (agent a n : Nat) :
    (s.observeRead agent a n).mem = s.mem ∧ (s.observeRead agent a n).inject = s.inject := by
  refine ⟨foldl_keeps State.mem ?_ _ s, foldl_keeps State.inject ?_ _ s⟩ <;> (intro s x; split <;> rfl)

/-- A read gives the bytes of memory, and changes neither them nor what is injected. -/
theorem State.read_spec (agent part cluster cache a n : Nat) :
    let r := s.read agent part cluster cache false a n
    r.1 = readBytes s.mem a n ∧ r.2.mem = s.mem ∧ r.2.inject = s.inject := by
  unfold State.read
  dsimp only
  generalize ht : (linesOf a n).foldl _ s = t
  have hmem : t.mem = s.mem := ht ▸ foldl_keeps State.mem (fun s l => (s.readLine_keeps l part cluster cache).1) _ s
  have hinject : t.inject = s.inject := ht ▸ foldl_keeps State.inject (fun s l => (s.readLine_keeps l part cluster cache).2) _ s
  obtain ⟨omem, oinject⟩ := t.observeRead_keeps agent a n
  exact ⟨by rw [hmem], omem.trans hmem, oinject.trans hinject⟩

end Reads

/-! ## Accesses from another device (R273, R277) -/

section Far
variable {u v : State} {io va a : Nat} {p : PodPacket}

/-- A store without a scope that nothing keeps waiting is written as its context's. -/
theorem State.takeFar_store {bs : List Byte} (hbody : p.body = .store va bs 0) (htr : u.translateFar io p 1 va = .ok (a, v))
    (hfirst : v.farBusy io a = false) (hlast : v.farBusy io (a + bs.length - 1) = false) :
    u.takeFar io p = some (v.write (v.farWriter io p) a bs) := by
  simp [State.takeFar, hbody, State.applyFar, State.farAccess, htr, State.farScope, hfirst, hlast]

theorem State.inject_injectPkt (s : State) (p : PodPacket) :
    (s.injectPkt p).inject = s.inject ++ [{ p with src := s.devidx, since := s.cyc }] := rfl

/-- The reply to a packet: in the response class, on its path. -/
def PodPacket.answered (p : PodPacket) (req : Nat) (r : Reply) : PodPacket :=
  { dst := p.src, core := p.core, ctx := p.ctx, name := p.name, part := p.part, path := p.path, prio := p.prio, cls := 1,
    body := .reply req r }

theorem State.answer_eq (s : State) {req : Nat} (hreq : p.req = some req) (r : Reply) :
    s.answer p r = s.injectPkt (p.answered req r) := by
  simp only [State.answer, hreq]
  rfl

/-- A load without a scope is answered with the bytes and what their writers had performed. -/
theorem State.takeFar_load {n req : Nat} (hbody : p.body = .load va n 0 req) (htr : u.translateFar io p 0 va = .ok (a, v)) :
    ∃ w q, u.takeFar io p = some w ∧ w.mem = v.mem ∧ w.inject = v.inject ++ [q] ∧ q.dst = p.src ∧ q.path = p.path
      ∧ q.body = .reply req { value := BitVec.ofNat 64 (natOfBytes (readBytes v.mem a n))
                              know := joinKnow (v.wordKnow a) (v.wordKnow (a + n - 1)) } := by
  have hread := v.read_spec p.agent p.part (ioCluster io) 0 a n
  have hreq : p.req = some req := by simp only [PodPacket.req, hbody]
  simp only [State.takeFar, hbody, State.applyFar, State.farAccess, htr, State.farScope, if_true, State.answer_eq _ hreq]
  generalize v.read p.agent p.part (ioCluster io) 0 false a n = r at hread ⊢
  obtain ⟨hbytes, hmem, hinject⟩ := hread
  refine ⟨_, { p.answered req _ with src := r.2.devidx, since := r.2.cyc }, rfl, hmem, ?_, rfl, rfl, rfl⟩
  rw [State.inject_injectPkt, hinject, hbytes]
  rfl

end Far

/-! ## Fences and replies that wait too long (R274, R277) -/

/-- What a fence has heard stays heard. -/
theorem PodFence.ack_keeps (f : PodFence) (dev path : Nat) (ok : Bool) :
    (f.ack dev path ok).paths = f.paths ∧ ∀ x ∈ f.got, x ∈ (f.ack dev path ok).got := by
  unfold PodFence.ack
  split_ifs
  · exact ⟨rfl, fun _ h => h⟩
  · exact ⟨rfl, fun _ h => List.mem_append_left _ h⟩

theorem PodFence.mem_of_mem_ack {f : PodFence} {dev path : Nat} {ok : Bool} {x : Nat × Nat × Bool}
    (h : x ∈ (f.ack dev path ok).got) : x ∈ f.got ∨ x = (dev, path, ok) := by
  unfold PodFence.ack at h
  split_ifs at h
  · exact .inl h
  · simpa using h

/-- A path of a fence that is acknowledged as a mismatch stands among what it has heard, so or as before. -/
theorem PodFence.mem_ack {f : PodFence} {dev path : Nat} (hpath : (dev, path) ∈ f.paths) :
    (∃ ok, (dev, path, ok) ∈ f.got) ∨ (dev, path, false) ∈ (f.ack dev path false).got := by
  have hknown : f.paths.any (fun q => q.1 == dev && q.2 == path) = true := List.any_eq_true.mpr ⟨_, hpath, by simp⟩
  unfold PodFence.ack
  simp only [hknown, Bool.not_true, Bool.or_false]
  split_ifs with hheard
  · obtain ⟨⟨d, q, ok⟩, hg, heq⟩ := List.any_eq_true.mp hheard
    obtain ⟨rfl, rfl⟩ : d = dev ∧ q = path := by simpa using heq
    exact .inl ⟨ok, hg⟩
  · exact .inr (by simp)

/-- Acknowledges paths as mismatches. -/
def PodFence.giveUp (f : PodFence) (qs : List (Nat × Nat)) : PodFence := qs.foldl (fun f q => f.ack q.1 q.2 false) f

/-- Each of the paths given up was heard before, or is a mismatch now. -/
theorem PodFence.giveUp_spec (f : PodFence) (qs : List (Nat × Nat)) (hqs : ∀ q ∈ qs, q ∈ f.paths) :
    (f.giveUp qs).paths = f.paths ∧ (∀ x ∈ f.got, x ∈ (f.giveUp qs).got)
      ∧ ∀ q ∈ qs, (∃ ok, (q.1, q.2, ok) ∈ f.got) ∨ (q.1, q.2, false) ∈ (f.giveUp qs).got := by
  induction qs generalizing f with
  | nil => simp [PodFence.giveUp]
  | cons q qs ih =>
    obtain ⟨apaths, agot⟩ := f.ack_keeps q.1 q.2 false
    obtain ⟨hpaths, hgot, hall⟩ := ih (f.ack q.1 q.2 false) fun r hr => apaths ▸ hqs r (List.mem_cons_of_mem q hr)
    refine ⟨hpaths.trans apaths, fun x hx => hgot x (agot x hx), fun r hr => ?_⟩
    rcases List.mem_cons.mp hr with rfl | hr
    · exact (PodFence.mem_ack (hqs r List.mem_cons_self)).imp_right (hgot _)
    · rcases hall r hr with ⟨ok, hok⟩ | hmis
      · rcases PodFence.mem_of_mem_ack hok with hbefore | hnew
        · exact .inl ⟨ok, hbefore⟩
        · obtain rfl : ok = false := congrArg (fun x => x.2.2) hnew
          exact .inr (hgot _ hok)
      · exact .inr hmis

section Timeouts
variable {s : State}

/-- The paths of a fence that have no acknowledgement in time count as mismatches. -/
theorem fenceAckTimeout_givesUp (hc : coreOk s.turn.core = true) (hk : s.turn.ctx < 4) {f : PodFence}
    (hf : s.actor.podFence = some f) (hover : f.since + 4000 * s.pftmo ≤ s.time) :
    ∃ g, Goes s .fenceAckTimeout (s.withActor { s.actor with podFence := some g }) ∧ g.paths = f.paths
      ∧ (∀ x ∈ f.got, x ∈ g.got) ∧ ∀ q ∈ f.paths, (∃ ok, (q.1, q.2, ok) ∈ f.got) ∨ (q.1, q.2, false) ∈ g.got := by
  refine ⟨f.giveUp f.paths, ?_, f.giveUp_spec f.paths fun _ h => h⟩
  show execFenceAckTimeout s = _
  have hf' : (s.ctx s.turn.core s.turn.ctx).podFence = some f := hf
  simp [execFenceAckTimeout, hc, Nat.not_le.mpr hk, State.modActor, State.modCtx, State.withActor, State.actor, hf',
    Nat.not_lt.mpr hover, PodFence.giveUp]

/-- A fault of the A half of a context with no E word queued and no request out stops it at its next word. -/
theorem State.ctx_raiseA_at_next {n k : Nat} (code : FaultCode) (x extra : Word) (heq : (s.ctx n k).eq = [])
    (hpend : (s.ctx n k).pend = none) :
    (s.raiseA n k code x extra).ctx n k
      = ({ s.ctx n k with hints := [], pc := (s.ctx n k).nextA } : Ctx).stopped code 1 (s.ctx n k).nextA (s.ctx n k).nextA x := by
  simp [State.raiseA, State.settleFault, hpend, heq, Ctx.stopped]

/-- A remote load or atomic that has no reply in time raises DATA_POISON. -/
theorem remoteReplyTimeout_stops (hc : coreOk s.turn.core = true) (hk : s.turn.ctx < 4) {p : Pend}
    (hp : s.actor.pend = some p) (hremote : p.remote = true) (hreply : p.reply = none) (hover : p.since + 4000 * s.pftmo ≤ s.time)
    (hissues : s.actor.issues = true) (heq : s.actor.eq = []) :
    ∃ t, Goes s .remoteReplyTimeout t ∧ Stopped t s.turn.core s.turn.ctx .dataPoison
      ∧ (t.ctx s.turn.core s.turn.ctx).faultx = BitVec.ofNat 64 p.va ∧ t.mem = s.mem := by
  have hgo : Goes s .remoteReplyTimeout
      ((s.modActor Ctx.dropPend).raiseA s.turn.core s.turn.ctx .dataPoison (wordOf p.va) 0#64) := by
    show execRemoteReplyTimeout s = _
    simp [execRemoteReplyTimeout, hc, Nat.not_le.mpr hk, hp, hremote, hreply, Nat.not_lt.mpr hover, hissues]
  have hdropped : (s.modActor Ctx.dropPend).ctx s.turn.core s.turn.ctx = s.actor.dropPend := State.ctx_modCtx_same ..
  have hfacts : s.actor.dropPend.eq = [] ∧ s.actor.dropPend.pend = none := by simp [Ctx.dropPend, hp, heq]
  have hctx := State.ctx_raiseA_at_next (s := s.modActor Ctx.dropPend) .dataPoison (wordOf p.va) 0#64
    (hdropped ▸ hfacts.1) (hdropped ▸ hfacts.2)
  exact ⟨_, hgo, .of_ctx hctx, by rw [hctx]; rfl, by simp [State.modActor, State.modCtx]⟩

end Timeouts

/-! ## Drain markers (13 R319; 14 R346) -/

section Drains
variable {s : State}

/-- Sending one packet for each of some things. -/
theorem State.foldl_injectPkt {α : Type} (f : α → PodPacket) (xs : List α) (s : State) :
    xs.foldl (fun s x => s.injectPkt (f x)) s
      = { s with inject := s.inject ++ xs.map fun x => { f x with src := s.devidx, since := s.cyc } } := by
  induction xs generalizing s with
  | nil => simp
  | cons x xs ih =>
    rw [List.foldl_cons, ih]
    simp [State.injectPkt]

theorem State.drained_last {x : Drain} (hout : x.out = some []) :
    s.drained x = { s with draining := s.draining.filter (·.slot != x.slot)
                           gens := put s.gens x.slot (find s.gens x.slot 0#8 + 1#8) } := by
  simp [State.drained, hout]

theorem State.drained_more {x : Drain} (hout : x.out ≠ some []) :
    s.drained x = { s with draining := s.draining.filter (·.slot != x.slot) ++ [x] } := by
  simp [State.drained, hout]

theorem State.unmoved_drained (s : State) (x : Drain) : Unmoved s (s.drained x) := by
  unfold State.drained; dsimp only; split_ifs <;> exact ⟨rfl, rfl, rfl⟩

theorem State.inject_drained (s : State) (x : Drain) : (s.drained x).inject = s.inject := by
  unfold State.drained; dsimp only; split_ifs <;> rfl

theorem mem_rangeFrom_four {path : Nat} : path ∈ rangeFrom 0 4 ↔ path < 4 := by
  simp [rangeFrom]; omega

/-- The markers of a drain, one for each path to each device. -/
def drainPaths (devs : List Nat) : List (Nat × Nat) := (devs.map fun v => (rangeFrom 0 4).map fun p => (v, p)).flatten

theorem State.sendDrain_eq (s : State) (x : Drain) (devs : List Nat) :
    s.sendDrain x devs = (State.drained { s with inject := s.inject ++ (drainPaths (devs.filter (· != s.devidx))).map fun e =>
        { dst := e.1, path := e.2, body := .drain x.slot, src := s.devidx, since := s.cyc } }
      { x with out := some (drainPaths (devs.filter (· != s.devidx))) }) := by
  simp only [State.sendDrain, State.foldl_injectPkt]
  rfl

theorem drainPaths_eq_nil {devs : List Nat} : drainPaths devs = [] ↔ devs = [] := by
  cases devs <;> simp [drainPaths, rangeFrom]

theorem mem_drainPaths {devs : List Nat} {v path : Nat} : (v, path) ∈ drainPaths devs ↔ v ∈ devs ∧ path < 4 := by
  simp [drainPaths, mem_rangeFrom_four]

/-- The markers of a freed slot go out, along every path to every other device; with none to send, the slot is free. -/
theorem drainMarker_sends (hout : s.landingsOut = false) (h0 : s.turn.sub = 0) {x : Drain}
    (hx : s.draining.find? (fun y => y.slot == s.turn.val && y.out.isNone) = some x) {devs : List Nat}
    (hdevs : (s.turn.words.map BitVec.toNat).filter (· != s.devidx) = devs) :
    ∃ t, Goes s .drainMarker t ∧ Unmoved s t
      ∧ (devs = [] → t.draining = s.draining.filter (·.slot != x.slot) ∧ t.inject = s.inject
        ∧ t.gens = put s.gens x.slot (find s.gens x.slot 0#8 + 1#8))
      ∧ (devs ≠ [] → t.gens = s.gens)
      ∧ ∀ v ∈ devs, ∀ path, path < 4 → ∃ q ∈ t.inject, q.dst = v ∧ q.path = path ∧ q.cls = 0 ∧ q.body = .drain x.slot := by
  have hgo : Goes s .drainMarker (s.sendDrain x (s.turn.words.map BitVec.toNat)) := by
    show execDrainMarker s = _
    simp [execDrainMarker, hout, h0, hx]
  rw [State.sendDrain_eq, hdevs] at hgo
  refine ⟨_, hgo, .trans ⟨rfl, rfl, rfl⟩ (State.unmoved_drained _ _), fun hnone => ?_, fun hsome => ?_, fun v hv path hpath => ?_⟩
  · have hpaths := drainPaths_eq_nil.mpr hnone
    rw [State.drained_last (by rw [hpaths])]
    exact ⟨rfl, by simp [hpaths], rfl⟩
  · rw [State.drained_more (by simpa using mt drainPaths_eq_nil.mp hsome)]
  · rw [State.inject_drained]
    exact ⟨_, List.mem_append_right _ (List.mem_map_of_mem (mem_drainPaths.mpr ⟨hv, hpath⟩)), rfl, rfl, rfl, rfl⟩

/-- The cores of this device have passed the marker of a freed channel index. -/
theorem drainMarker_frees (hout : s.landingsOut = false) (h1 : s.turn.sub = 1) (hdraining : (s.chan s.turn.val).draining = true) :
    Goes s .drainMarker { s with chans := drop s.chans s.turn.val } := by
  show execDrainMarker s = _
  simp [execDrainMarker, hout, h1, hdraining]

theorem State.setInput_keeps_drains (s : State) (i : Nat) (ps : List PodPacket) :
    (s.setInput i ps).draining = s.draining ∧ (s.setInput i ps).gens = s.gens := by
  unfold State.setInput; split_ifs <;> exact ⟨rfl, rfl⟩

section Arrived
variable (hout : s.landingsOut = false) (h2 : 2 ≤ s.turn.sub) (hd : s.turn.unit < 13) {p : PodPacket} {rest : List PodPacket}
  {slot : Nat}
  (hfirst : takeFirst (fun (p : PodPacket) => p.dst == s.devidx && p.body.drains.isSome && !p.stomped) (s.inputOf s.turn.unit)
    = some (p, rest)) (hbody : p.body = .drain slot)
include hout h2 hd hfirst hbody

/-- A marker of this device's own that has come back is out no more. -/
theorem goes_drainMarker_back (hcls : p.cls = 1) {x : Drain} (hx : s.draining.find? (fun y => y.slot == slot) = some x) :
    Goes s .drainMarker ((s.setInput s.turn.unit rest).drained { x with out := x.out.map fun l => l.erase (p.src, p.path) }) := by
  show execDrainMarker s = _
  obtain ⟨n, hn⟩ := Nat.exists_eq_add_of_le' h2
  obtain ⟨hdraining, -⟩ := s.setInput_keeps_drains s.turn.unit rest
  have hdrains : p.body.drains = some slot := by rw [hbody]; rfl
  simp [execDrainMarker, hout, hn, Nat.not_le.mpr hd, hfirst, hdrains, hcls, hdraining, hx]

/-- With the last marker back the slot is given out again, with its next generation. -/
theorem drainMarker_last (hcls : p.cls = 1) {x : Drain} (hx : s.draining.find? (fun y => y.slot == slot) = some x)
    (hone : x.out = some [(p.src, p.path)]) :
    Goes s .drainMarker { s.setInput s.turn.unit rest with
      draining := s.draining.filter (·.slot != slot), gens := put s.gens slot (find s.gens slot 0#8 + 1#8) } := by
  have hslot : x.slot = slot := by simpa using List.find?_some hx
  have hgo := goes_drainMarker_back hout h2 hd hfirst hbody hcls hx
  obtain ⟨hdraining, hgens⟩ := s.setInput_keeps_drains s.turn.unit rest
  rw [State.drained_last (by simp [hone])] at hgo
  simpa only [hslot, hdraining, hgens] using hgo

/-- While markers of the slot are out, the drain goes on. -/
theorem drainMarker_more (hcls : p.cls = 1) {x : Drain} (hx : s.draining.find? (fun y => y.slot == slot) = some x)
    {l : List (Nat × Nat)} (hl : x.out = some l) (hmore : l.erase (p.src, p.path) ≠ []) :
    Goes s .drainMarker { s.setInput s.turn.unit rest with
      draining := s.draining.filter (·.slot != slot) ++ [{ x with out := some (l.erase (p.src, p.path)) }] } := by
  have hslot : x.slot = slot := by simpa using List.find?_some hx
  have hgo := goes_drainMarker_back hout h2 hd hfirst hbody hcls hx
  obtain ⟨hdraining, -⟩ := s.setInput_keeps_drains s.turn.unit rest
  rw [State.drained_more (by simpa [hl] using hmore)] at hgo
  simpa only [hslot, hdraining, hl, Option.map_some] using hgo

/-- A marker of another device goes back to it, on its path. -/
theorem drainMarker_returns (hcls : p.cls ≠ 1) :
    ∃ t q, Goes s .drainMarker t ∧ Unmoved s t ∧ t.inject = (s.setInput s.turn.unit rest).inject ++ [q]
      ∧ q.dst = p.src ∧ q.path = p.path ∧ q.cls = 1 ∧ q.body = .drain slot := by
  have hgo : Goes s .drainMarker
      ((s.setInput s.turn.unit rest).injectPkt { dst := p.src, path := p.path, cls := 1, body := .drain slot }) := by
    show execDrainMarker s = _
    obtain ⟨n, hn⟩ := Nat.exists_eq_add_of_le' h2
    have hdrains : p.body.drains = some slot := by rw [hbody]; rfl
    simp [execDrainMarker, hout, hn, Nat.not_le.mpr hd, hfirst, hdrains, hcls]
  exact ⟨_, _, hgo, (s.unmoved_setInput _ _).trans ⟨rfl, rfl, rfl⟩, State.inject_injectPkt _ _, rfl, rfl, rfl, rfl⟩

end Arrived

end Drains

/-- Settles O55: each row's clause, taken from the lemmas about that row. -/
theorem packetsTravel : Obligations.PacketsTravel := by
  unfold Obligations.PacketsTravel
  intro s d k kept
  refine ⟨fun hd hk p rest x hhead hdst => ⟨mortarHop_arrives hd hk hhead hdst, fun o hout => mortarHop_turns hd hk hhead hdst hout⟩,
    fun hd o c p ho hk hclass hnext => mortarHop_sends hd ho hk hclass hnext,
    fun hd => ⟨goes_linkReplay hd, goes_linkTrainingDone hd, goes_ingressFlitExpiry hd,
      fun i p => xanolForward_drops hd, fun hnone hup i p => xanolForward_sends hd hnone hup⟩,
    fun hd => ⟨goes_packetAgeing hd, fun p rest => remotePacketArrival_drops hd, fun p rest u hwhole hfirst =>
        ⟨remotePacketArrival_takes hd hwhole hfirst, remotePacketArrival_waits hd hwhole hfirst,
          remotePacketArrival_holds hd hwhole hfirst⟩,
      fun p rest hfirst => ⟨countMarkerArrival_acks hd hfirst, countMarkerArrival_waits hd hfirst⟩,
      fun p rest b => countMarkerAck_heard hd⟩,
    s.ackMarker_spec, fun u v io p va a => ⟨fun bs => State.takeFar_store, fun n req => State.takeFar_load⟩,
    fun hd p rest u => ⟨orderedPacketRelease_stamped hd, orderedPacketRelease_waiting hd⟩,
    fun w rest => goes_markerWaitExpiry,
    fun hc hk => ⟨fun f => fenceAckTimeout_givesUp hc hk, fun p => remoteReplyTimeout_stops hc hk⟩,
    fun hout => ⟨fun h0 x hx => drainMarker_sends hout h0 hx rfl, drainMarker_frees hout,
      fun h2 hd p rest slot hfirst hbody => ⟨fun hcls x hx =>
        ⟨drainMarker_last hout h2 hd hfirst hbody hcls hx, fun l => drainMarker_more hout h2 hd hfirst hbody hcls hx⟩,
        drainMarker_returns hout h2 hd hfirst hbody⟩⟩⟩

end Sys2Proof.Machine
end

section
/-!
SUPPORT. What reset leaves (01 R17, log 6), and the offset of an element of a layout (05 R101); the statements O14 and O22 put together
from them.
-/

namespace Sys2Proof.Machine

/-! ## What reset leaves -/

section Reset

@[simp] theorem State.core_reset (n : Nat) : State.reset.core n = {} := rfl

@[simp] theorem State.ctx_reset (n k : Nat) : State.reset.ctx n k = {} := rfl

@[simp] theorem State.part_reset (p : Nat) : State.reset.part p = {} := rfl

theorem Partition.valid_default : ({} : Partition).valid = false := by
  rw [Partition.valid, fieldOf, BitVec.toNat_zero]
  rfl

end Reset

/-- Settles O14: no core, context or partition is listed, so that each reads as its default. -/
theorem resetLeaves : Obligations.ResetLeaves := by
  unfold Obligations.ResetLeaves
  refine ⟨rfl, rfl, rfl, rfl, rfl, fun n => ?_, fun p => ?_, fun n k => ?_⟩
  · rw [State.core_reset]
    exact ⟨rfl, rfl, rfl, rfl, rfl, rfl, rfl, fun _ => rfl, fun _ => rfl⟩
  · rw [State.part_reset]
    exact Partition.valid_default
  · rw [State.ctx_reset]
    exact ⟨rfl, rfl, rfl, rfl, rfl, rfl, rfl, rfl, rfl⟩

/-! ## FAULTX of a coordinate: the dimension above it, modulo 2^60 (05 R101) -/

theorem extract_wordOf_at (i w : Nat) (hi : i < 4) (hw : w < 2 ^ 60) :
    (wordOf (at_ i 4 60 + at_ w 60 0)).extractLsb' 60 4 = BitVec.ofNat 4 i
      ∧ (wordOf (at_ i 4 60 + at_ w 60 0)).extractLsb' 0 60 = BitVec.ofNat 60 w := by
  have hsum : at_ i 4 60 + at_ w 60 0 = i * 2 ^ 60 + w := by
    rw [at_, at_, Nat.mod_eq_of_lt (by omega : i < 2 ^ 4), Nat.mod_eq_of_lt hw, pow_zero, mul_one]
  have hword : (wordOf (at_ i 4 60 + at_ w 60 0)).toNat = i * 2 ^ 60 + w := by
    rw [toNat_wordOf, hsum]
    exact Nat.mod_eq_of_lt (by omega)
  constructor <;> apply BitVec.eq_of_toNat_eq <;> rw [BitVec.extractLsb'_toNat, hword, BitVec.toNat_ofNat]
  · rw [Nat.shiftRight_eq_div_pow, Nat.mul_comm, Nat.mul_add_div (by positivity), Nat.div_eq_of_lt hw, Nat.add_zero]
  · rw [Nat.shiftRight_zero, Nat.mul_comm, Nat.mul_add_mod]

theorem ofNat_wrapTo (n : Nat) (x : Int) : BitVec.ofNat n (wrapTo n x) = BitVec.ofInt n x := by
  apply BitVec.eq_of_toNat_eq
  have hpos : (0 : Int) < ((2 ^ n : Nat) : Int) := by positivity
  have hlt := Int.emod_lt_of_pos x hpos
  rw [BitVec.toNat_ofNat, BitVec.toNat_ofInt, wrapTo]
  exact Nat.mod_eq_of_lt (by omega)

theorem wrapTo_lt (n : Nat) (x : Int) : wrapTo n x < 2 ^ n := by
  have hpos : (0 : Int) < ((2 ^ n : Nat) : Int) := by positivity
  have hnonneg := Int.emod_nonneg x hpos.ne'
  have hlt := Int.emod_lt_of_pos x hpos
  simp only [wrapTo]
  omega

/-! ## The offset of an element (05 R101) -/

section Offsets
variable {e : BitVec 512} {s : State}

theorem elemOffsetFrom_in {i : Nat} {c : Int} (h : 0 ≤ c ∧ c < ((layDim e i : Nat) : Int)) (cs : List Int) (off : Int) (cl : Bool) :
    elemOffsetFrom e i (c :: cs) off cl s = elemOffsetFrom e (i + 1) cs (off + c * layStride e i) cl s := by
  simp only [elemOffsetFrom]
  rw [if_pos h]

/-- Within the dimensions every coordinate adds its multiple of the stride. -/
theorem elemOffsetFrom_sum (ds : List Int) (i : Nat) (off : Int) 
    (h : ∀ k, k < ds.length → 0 ≤ ds.getD k 0 ∧ ds.getD k 0 < ((layDim e (i + k) : Nat) : Int)) :
    elemOffsetFrom e i ds off false s
      = .ok (.elem (off + ((List.range ds.length).map fun k => ds.getD k 0 * layStride e (i + k)).sum) false, s) := by
  induction ds generalizing i off with
  | nil => simp [elemOffsetFrom]
  | cons c cs ih =>
    have hc : 0 ≤ c ∧ c < ((layDim e i : Nat) : Int) := h 0 (by simp)
    have hcs : ∀ k, k < cs.length → 0 ≤ cs.getD k 0 ∧ cs.getD k 0 < ((layDim e (i + 1 + k) : Nat) : Int) := fun k hk => by
      have := h (k + 1) (by simpa using hk)
      rwa [List.getD_cons_succ, show i + (k + 1) = i + 1 + k by omega] at this
    rw [elemOffsetFrom_in hc, ih _ _ hcs]
    simp only [List.length_cons, List.range_succ_eq_map, List.map_cons, List.map_map, List.sum_cons, List.getD_cons_zero,
      Nat.add_zero, Function.comp_def, List.getD_cons_succ, Nat.succ_eq_add_one, add_assoc, Nat.add_comm 1]

variable {i : Nat} {c : Int} (out : ¬(0 ≤ c ∧ c < ((layDim e i : Nat) : Int))) (cs : List Int) (off : Int) (cl : Bool)
include out

theorem elemOffsetFrom_fault (h : layOor e = 0) :
    elemOffsetFrom e i (c :: cs) off cl s = .error (.fault .layout (wordOf (at_ i 4 60 + at_ (wrapTo 60 c) 60 0)) 0#64) := by
  simp only [elemOffsetFrom]
  rw [if_neg out, if_pos h]
  rfl

theorem elemOffsetFrom_zero (h : layOor e = 1 ∨ (layOor e = 2 ∧ layDim e i = 0)) :
    elemOffsetFrom e i (c :: cs) off cl s = .ok (.zero, s) := by
  have h0 : layOor e ≠ 0 := by omega
  have h1 : layOor e = 1 ∨ ((layDim e i : Nat) : Int) = 0 := by omega
  simp only [elemOffsetFrom]
  rw [if_neg out, if_neg h0, if_pos h1]
  rfl

/-- Under CLAMP the nearest element of a dimension that is not empty. -/
theorem elemOffsetFrom_clamp (h : layOor e = 2) (hd : layDim e i ≠ 0) :
    elemOffsetFrom e i (c :: cs) off cl s
      = elemOffsetFrom e (i + 1) cs (off + (if c < 0 then 0 else ((layDim e i : Nat) : Int) - 1) * layStride e i) true s := by
  have h0 : layOor e ≠ 0 := by omega
  have h1 : ¬(layOor e = 1 ∨ ((layDim e i : Nat) : Int) = 0) := by omega
  have hclamp : clampInt c 0 (((layDim e i : Nat) : Int) - 1) = if c < 0 then 0 else ((layDim e i : Nat) : Int) - 1 := by
    unfold clampInt
    split_ifs <;> omega
  simp only [elemOffsetFrom]
  rw [if_neg out, if_neg h0, if_neg h1, hclamp]

end Offsets

/-- Settles O22: the sum by induction on the coordinates, and each policy from the branch it takes. -/
theorem elementAddresses : Obligations.ElementAddresses := by
  unfold Obligations.ElementAddresses
  intro s e c cs i off cl
  refine ⟨fun ds hlen hin => ?_, fun hout => ⟨fun h hi => ?_, fun h => ?_, fun h hd => ?_, fun h hd => ?_⟩⟩
  · have hsum := elemOffsetFrom_sum (s := s) ds 0 0 (by simpa using hin)
    simpa only [elemOffset, List.take_of_length_le hlen, Nat.zero_add, zero_add] using hsum
  · obtain ⟨hdim, hcoord⟩ := extract_wordOf_at i (wrapTo 60 c) hi (wrapTo_lt 60 c)
    exact ⟨_, elemOffsetFrom_fault hout cs off cl h, hdim, hcoord.trans (ofNat_wrapTo 60 c)⟩
  · exact elemOffsetFrom_zero hout cs off cl (.inl h)
  · exact elemOffsetFrom_zero hout cs off cl (.inr ⟨h, hd⟩)
  · exact elemOffsetFrom_clamp hout cs off cl h hd

end Sys2Proof.Machine
end

section
/-!
SUPPORT. Accesses by a context to elements of local layouts: loads, stores, and boxes through the queues (05 R102-R106); the
statements O23, O24 and O27 put together from them.
-/

namespace Sys2Proof.Machine

/-! ## Checks that hold -/

theorem guardFault_holds {ok : Bool} (h : ok = true) (code : FaultCode) (x : Word) (s : State) :
    guardFault ok code x s = .ok ((), s) := by
  subst h; rfl

theorem require_holds {ok : Bool} (h : ok = true) (s : State) : require ok s = .ok ((), s) := by
  subst h; rfl

/-- An operation made only under a condition, and what follows it in either case. -/
theorem M.bind_ok_if {β : Type} {p : Prop} [Decidable p] {m : M Unit} {k : Unit → M β} {s t : State}
    (h : (if p then m else pure ()) s = .ok ((), t)) : (if p then m >>= k else k ()) s = k () t := by
  split_ifs at h ⊢
  · exact M.bind_ok h
  · cases h; rfl

/-! ## Bodies that retire -/

/-- A body whose last state is `u` but for the acting context, which is `c`. -/
theorem aHalf_retires {i : Instr} {body : Hints → M Disp} {s u t : State} {c : Ctx} (h : ReadyA s)
    (hb : body {} s = .ok (.retire, t)) (k : SetTo u t c) (ha : c.act = u.actor.act) (hp : c.pc = u.actor.pc) :
    aHalf i body s = .next (u.ends4 c) := by
  rw [aHalf_done h hb, k.finish ha hp]

/-! ## What every access by a layout does first -/

section Checks
variable {s : State} {i : Instr} {c : BitVec 5} {L : BitVec 8} {t : BitVec 4} {e : BitVec 512} {o : ElemOff}

/-- A layout that names no remote device names none that a module cannot have. -/
theorem devOk_of_local (h : laySpace e ≠ 1) : devOk e = true := by simp [devOk, h]

theorem ElementAt.typed (h : ElementAt s i c L t e o) : (layType e == t.toNat) = true := by simp [h.type]

theorem ElementAt.accessible (h : ElementAt s i c L t e o) : (!layRed e && devOk e) = true := by
  rw [h.plain, devOk_of_local h.here]; rfl

theorem remoteScope_local (h : laySpace e ≠ 1) (sync : Bool) (g : Hints) : remoteScope e sync g s = .ok ((), s) :=
  require_holds (by simp [h]) s

theorem poolOrder_drained (h : s.actor.eq = []) (e : BitVec 512) : poolOrder e s = .ok ((), s) := by
  unfold poolOrder
  rw [M.bind_ok (me_run s), h]
  simp

end Checks

/-! ## The value of a load (05 R102) -/

section Values
variable {s : State} {d : BitVec 5}

theorem ofInt_signedOf (n raw : Nat) (hn : 0 < n) :
    wordOfInt (signedOf n raw) = (BitVec.ofNat n raw).signExtend 64 := by
  have h : signedOf n raw = (BitVec.ofNat n raw).toInt := by
    rw [BitVec.toInt_eq_toNat_cond, BitVec.toNat_ofNat, signedOf]
    obtain ⟨m, rfl⟩ := Nat.exists_eq_add_of_lt hn
    have : 2 ^ (0 + m + 1) = 2 * 2 ^ (0 + m + 1 - 1) := by rw [Nat.add_sub_cancel, pow_succ, Nat.mul_comm]
    split_ifs <;> omega
  rw [h]
  rfl

/-- Into a register or q2 goes the value extended by its type. -/
theorem giveLoaded_register (h : d ≠ 31#5) (ty : Nat) (bs : List Byte) :
    giveLoaded d ty (natOfBytes bs) s = writeA d (loadedValue ty bs) s := by
  unfold giveLoaded loadedValue
  rw [if_neg h]
  by_cases h8 : ty = 8
  · subst h8; simp [typeBits, ofInt_signedOf]
  by_cases h10 : ty = 10
  · subst h10; simp [typeBits, ofInt_signedOf]
  by_cases h12 : ty = 12
  · subst h12; simp [typeBits, ofInt_signedOf]
  simp [h8, h10, h12, wordOf]

end Values

/-! ## LD and LDRO (05 R102-R104) -/

section Loads
variable {s u : State} {i : Instr} {d c : BitVec 5} {L : BitVec 8} {t : BitVec 4} {acq ro : Bool} {e : BitVec 512} {o : ElemOff}
  {ls : List Loc} {bs : List Byte}

/-- A load finds room for its value. -/
def HasRoom (s : State) (d : BitVec 5) : Prop := (d = 31#5 → s.actor.q0.length < 16) ∧ (d = 30#5 → s.actor.q2.length < 8)

theorem loadRoom_found (h : HasRoom s d) : loadRoom d s = .ok ((), s) := by
  obtain ⟨h0, h2⟩ := h
  unfold loadRoom
  rw [M.bind_ok (me_run s), if_neg (by rintro ⟨hd, hfull⟩; exact absurd (h0 hd) (by omega)),
    if_neg (by rintro ⟨hd, hfull⟩; exact absurd (h2 hd) (by omega))]
  rfl

/-- A load of an element of a local layout passes its checks. -/
theorem loadBody_element (h : ReadyA s) (hel : ElementAt s i c L t e o) (room : HasRoom s d)
    (hro : (ro || (layRop e && !acq)) = true → laySpace e = 0 ∨ laySpace e = 4 ∨ laySpace e = 5) :
    loadBody i d c L t acq ro {} s = loadAt d L.toNat t.toNat e acq (ro || (layRop e && !acq)) {} o s := by
  obtain ⟨cs, hcoords, hoff⟩ := hel.coords
  have hcached : (!(ro || (layRop e && !acq)) || laySpace e == 0 || laySpace e == 4 || laySpace e == 5) = true := by
    cases hr : ro || (layRop e && !acq)
    · rfl
    · rcases hro hr with h0 | h4 | h5 <;> simp [*]
  unfold loadBody
  rw [M.bind_ok (me_run s), h.free]
  dsimp only [Option.isSome_none, Bool.false_eq_true, if_false]
  refine (M.bind_ok hel.entry).trans ((M.bind_ok hcoords).trans ?_)
  refine (M.bind_ok (guardFault_holds hel.typed _ _ s)).trans ((M.bind_ok (guardFault_holds hel.accessible _ _ s)).trans ?_)
  refine (M.bind_ok (guardFault_holds hcached _ _ s)).trans ((M.bind_ok (remoteScope_local hel.here acq {})).trans ?_)
  refine (M.bind_ok (poolOrder_drained h.drained e)).trans ((M.bind_ok hoff).trans ?_)
  exact M.bind_ok (loadRoom_found room)

theorem not_devreg_of_hbm {a : Nat} (h : inHbm a = true) : inDevreg a = false := by
  simp only [inHbm, decide_eq_true_eq] at h
  simp only [inDevreg, Bool.and_eq_false_iff, decide_eq_false_iff_not]
  omega

/-- A context with entries put behind those of q0. -/
def Ctx.addQ0 (c : Ctx) (es : List QEntry) : Ctx := { c with q0 := c.q0 ++ es }

/-- The data of a load from HBM is on its way where it goes to q0 (01 R19). -/
def Ctx.awaitLast (x : Ctx) : Ctx := { x with q0 := x.q0.dropLast ++ (x.q0.getLast?.map fun q => { q with awaits := true }).toList }

theorem loadAt_hbm {a : Nat} {rest : List Loc} {v w : State} (here : laySpace e ≠ 1)
    (h : LoadAt s L t acq ro e o (.phys a :: rest) bs u) (hgive : giveLoaded d t.toNat (natOfBytes bs) u = .ok ((), v))
    (hmark : (if d = 31#5 then modMe Ctx.awaitLast else pure ()) v = .ok ((), w)) :
    loadAt d L.toNat t.toNat e acq ro {} o s = .ok (.retire, w) := by
  obtain ⟨v, w, hplaces, hscope, hload⟩ := h.found
  have hhbm := h.memory a rest rfl
  unfold loadAt
  refine (M.bind_ok (gets_run id s)).trans ?_
  rw [if_neg here]
  refine (M.bind_ok hplaces).trans ((M.bind_ok_if hscope).trans ?_)
  dsimp only
  rw [not_devreg_of_hbm hhbm, hhbm]
  exact (M.bind_ok hload).trans ((M.bind_ok hgive).trans (M.bind_ok_if hmark))

theorem loadAt_near {v : State} (here : laySpace e ≠ 1) (hnear : ∀ a rest, ls ≠ .phys a :: rest)
    (h : LoadAt s L t acq ro e o ls bs u) (hgive : giveLoaded d t.toNat (natOfBytes bs) u = .ok ((), v)) :
    loadAt d L.toNat t.toNat e acq ro {} o s = .ok (.retire, v) := by
  obtain ⟨v, w, hplaces, hscope, hload⟩ := h.found
  unfold loadAt
  refine (M.bind_ok (gets_run id s)).trans ?_
  rw [if_neg here]
  refine (M.bind_ok hplaces).trans ((M.bind_ok_if hscope).trans ?_)
  dsimp only
  split
  · exact absurd rfl (hnear _ _)
  · exact (M.bind_ok hload).trans (M.bind_ok hgive)

/-- The first byte of an element lies in physical memory, or it does not. -/
theorem phys_or_near (ls : List Loc) : (∃ a rest, ls = .phys a :: rest) ∨ ∀ a rest, ls ≠ .phys a :: rest := by
  by_cases h : ∃ a rest, ls = .phys a :: rest
  · exact .inl h
  · exact .inr fun a rest hls => h ⟨a, rest, hls⟩

theorem loadAt_register {v : State} (here : laySpace e ≠ 1) (h : LoadAt s L t acq ro e o ls bs u) (hd : d ≠ 31#5)
    (hgive : giveLoaded d t.toNat (natOfBytes bs) u = .ok ((), v)) :
    loadAt d L.toNat t.toNat e acq ro {} o s = .ok (.retire, v) := by
  rcases phys_or_near ls with ⟨a, rest, rfl⟩ | hnear
  · exact loadAt_hbm here h hgive (by rw [if_neg hd]; rfl)
  · exact loadAt_near here hnear h hgive

/-- A load into q0 is the entry of the data behind those there. -/
theorem giveLoaded_queue (ty raw : Nat) (s : State) : giveLoaded 31#5 ty raw s
    = .ok ((), s.modActor fun c => c.addQ0 [{ data := BitVec.ofNat 512 raw, tag := tagOf ty }]) := rfl

/-- An instruction whose body comes to the access of a load whenever there is room is a load. -/
theorem loads_of_body {body : Hints → M Disp} (hi : exec i s = aHalf i body s) (h : ReadyA s) (here : laySpace e ≠ 1)
    (hl : LoadAt s L t acq ro e o ls bs u)
    (hbody : HasRoom s d → body {} s = loadAt d L.toNat t.toNat e acq ro {} o s) : Loads s u i d t ls bs := by
  refine ⟨fun c' hdest hroom => ?_, ?_⟩
  · have hd : d ≠ 31#5 := by rintro rfl; simp [Ctx.dest] at hdest
    obtain ⟨v, hwrite, k⟩ := writeA_dest (SetTo.refl u) hdest
    have hload := loadAt_register here hl hd ((giveLoaded_register hd _ _).trans hwrite)
    rw [hi, aHalf_retires h ((hbody ⟨fun h31 => absurd h31 hd, hroom⟩).trans hload) k (Ctx.dest_act hdest).1
      (Ctx.dest_act hdest).2]
  · rintro rfl hroom
    have hroom : HasRoom s 31#5 := ⟨fun _ => hroom, by simp⟩
    have k := (SetTo.refl u).modActor fun c => c.addQ0 [{ data := BitVec.ofNat 512 (natOfBytes bs), tag := tagOf t.toNat }]
    have hgive := giveLoaded_queue t.toNat (natOfBytes bs) u
    rw [hi]
    dsimp only
    split
    · have hload := (hbody hroom).trans (loadAt_hbm here hl hgive (modMe_run _ _))
      rw [aHalf_retires h hload (k.modActor Ctx.awaitLast) rfl rfl]
      simp [Ctx.awaitLast, Ctx.addQ0]
    · next hnear =>
      have hload := (hbody hroom).trans (loadAt_near here hnear hl hgive)
      exact aHalf_retires h hload k rfl rfl

end Loads

/-- Settles O23: both loads pass the checks of `loadBody` and come to the access that `LoadAt` describes. -/
theorem loadsGiveTheElement : Obligations.LoadsGiveTheElement := by
  unfold Obligations.LoadsGiveTheElement
  intro s d c L t e o ls bs u h
  refine ⟨fun q hel hl => ?_, fun hel hl => ?_⟩
  · exact loads_of_body rfl h hel.here hl fun room => loadBody_element h hel room hl.cached
  · exact loads_of_body rfl h hel.here hl fun room => loadBody_element h hel room hl.cached



/-! ## ST (05 R102, R103) -/

section Stores
variable {s s1 s2 s3 u : State} {d c : BitVec 5} {L : BitVec 8} {t : BitVec 4} {r : BitVec 1} {e : BitVec 512} {o : ElemOff}
  {v : Nat} {ls : List Loc}

/-- A release at a scope within the device waits for nothing: every store is performed at once (log 4). -/
theorem release_within_device {scope : Nat} (h : scope < 6) (s : State) : release scope s = .ok (none, s) := by
  unfold release
  refine (M.bind_ok (gets_run id s)).trans ?_
  rw [if_neg (by omega), if_neg (by omega)]
  rfl

theorem storeFence_local (h : laySpace e ≠ 1) (ty : Nat) (o : ElemOff) (s : State) : storeFence e ty o s = .ok (none, s) := by
  unfold storeFence
  rw [if_pos h]
  rfl

/-- A store to an element in HBM or a pool puts its bytes at the element's places. -/
theorem storeAt_local (here : laySpace e ≠ 1) (hplaces : elemWritePlaces (s1.client 0) L.toNat e o s1 = .ok (ls, s2))
    (hscope : (if r = 1#1 then scopeM ls (wrapTo 52 (o.addr e)) 5 else pure ()) s2 = .ok ((), s3))
    (hmem : ∀ a rest, ls = .phys a :: rest → inHbm a = true)
    (hstore : storeLocs (s1.client 0) t.toNat ls (bytesOfNat (typeBytes t.toNat) v) s3 = .ok ((), u)) :
    storeAt L.toNat t.toNat e (r == 1#1) {} o v s1 = .ok ((), u) := by
  have hscope' : (if (r == 1#1) = true then scopeM ls (wrapTo 52 (o.addr e)) 5 else pure ()) s2 = .ok ((), s3) := by
    simpa using hscope
  unfold storeAt
  refine (M.bind_ok (gets_run id s1)).trans ?_
  dsimp only
  rw [if_neg here]
  refine (M.bind_ok hplaces).trans ((M.bind_ok_if hscope').trans ?_)
  split
  · next a rest =>
    have hhbm := hmem a rest rfl
    rw [not_devreg_of_hbm hhbm, hhbm]
    exact hstore
  · exact hstore

/-- An ST to a local element passes its checks, takes its data, and stores it. -/
theorem st_leaves (h : ReadyA s) (hel : ElementAt s (.st d c L t r) c L t e o) (hdata : storeData d t.toNat s = .ok (v, s1))
    (hstore : storeAt L.toNat t.toNat e (r == 1#1) {} o v s1 = .ok ((), u)) : LeavesIn s u (.st d c L t r) u.actor := by
  obtain ⟨cs, hcoords, hoff⟩ := hel.coords
  show execSt d c L t r s = _
  refine aHalf_retires h ?_ (SetTo.refl u) rfl rfl
  refine (M.bind_ok hel.entry).trans ((M.bind_ok hcoords).trans ?_)
  refine (M.bind_ok (guardFault_holds hel.typed _ _ s)).trans ((M.bind_ok (guardFault_holds hel.accessible _ _ s)).trans ?_)
  refine (M.bind_ok (remoteScope_local hel.here _ {})).trans ((M.bind_ok hoff).trans ?_)
  have hput : (storeFence e t.toNat o >>= fun f => match f with
      | some w => pure w
      | none => storeData d t.toNat >>= fun v => storeAt L.toNat t.toNat e (r == 1#1) {} o v >>= fun _ => pure Disp.retire) s
        = .ok (.retire, u) :=
    (M.bind_ok (storeFence_local hel.here _ o s)).trans ((M.bind_ok hdata).trans (M.bind_ok hstore))
  split_ifs
  · exact (M.bind_ok (release_within_device (by decide) s)).trans hput
  · exact (M.bind_ok (pure_run _ s)).trans hput

/-! ## The data of a store (02 R32, R35) -/

theorem tagValid_tagOf (ty : Nat) : tagValid (tagOf ty) = true := by
  have h : ∀ n, n < 16 → tagValid (BitVec.ofNat 5 (16 + n)) = true := by decide
  exact h _ (Nat.mod_lt _ (by decide))

theorem storeData_register {x : Word} {c' : Ctx} (hdata : storeData d t.toNat s = .ok (v, s1)) (hd : d ≠ 31#5)
    (hsource : s.actor.source d = some (x, c')) : v = x.toNat % 2 ^ typeBits t.toNat := by
  obtain ⟨u, hread, -⟩ := readA_source (SetTo.refl s) hsource
  unfold storeData at hdata
  rw [if_neg hd, M.bind_ok hread] at hdata
  cases hdata
  rfl

theorem popQ1_tagged {x : QEntry} {q : List QEntry} {ty : Nat} (hq : s.actor.q1 = x :: q) (htag : x.tag = tagOf ty) :
    popQ1 ty s = .ok (x.data, s.modActor fun c => { c with q1 := q }) := by
  unfold popQ1
  rw [M.bind_ok (me_run s), hq]
  dsimp only
  rw [M.bind_ok (guardFault_holds (by simp [htag]) _ _ s), M.bind_ok (modMe_run _ s), htag, tagValid_tagOf]
  rfl

theorem storeData_queue {x : QEntry} {q : List QEntry} (hdata : storeData 31#5 t.toNat s = .ok (v, s1))
    (hq : s.actor.q1 = x :: q) (htag : x.tag = tagOf t.toNat) :
    v = x.data.toNat % 2 ^ typeBits t.toNat ∧ s1.actor.q1 = q := by
  unfold storeData at hdata
  rw [if_pos rfl, M.bind_ok (popQ1_tagged hq htag)] at hdata
  cases hdata
  simp

end Stores

/-- Settles O24: the store passes its checks, takes its data, and stores it where `elemWritePlaces` says. -/
theorem storesPutTheElement : Obligations.StoresPutTheElement := by
  unfold Obligations.StoresPutTheElement
  intro s d c L t r e o v s1 s2 s3 u ls h hel hdata hplaces hscope hmem hstore
  refine ⟨st_leaves h hel hdata (storeAt_local hel.here hplaces hscope hmem hstore), fun x c' hsource hd => ?_,
    fun x q hq hd htag => ?_⟩
  · exact storeData_register hdata hd hsource
  · subst hd
    exact storeData_queue hdata hq htag

/-! ## Strips -/

section Strips

theorem laneCount_pos (ty : Nat) : 0 < laneCount ty := by
  rcases Nat.lt_or_ge ty 14 with hlow | hhigh
  · have hall : ∀ n, n < 14 → 0 < laneCount n := by decide
    exact hall ty hlow
  · obtain ⟨n, rfl⟩ := Nat.exists_eq_add_of_le' hhigh
    have hbits : typeBits (n + 14) = 64 := by simp [typeBits]
    rw [laneCount, typeBytes, hbits]
    split <;> decide

theorem length_chunks {α : Type} {n : Nat} (hn : 0 < n) (fuel : Nat) (xs : List α) (h : xs.length < fuel) :
    (chunks n fuel xs).length = (xs.length + n - 1) / n := by
  induction fuel generalizing xs with
  | zero => omega
  | succ f ih =>
    cases xs with
    | nil => simp [chunks, Nat.div_eq_of_lt (by omega : n - 1 < n)]
    | cons x xs =>
      have hrest : ((x :: xs).drop n).length < f := by
        rw [List.length_drop]
        rw [List.length_cons] at h ⊢
        omega
      rw [chunks, List.isEmpty_cons, if_neg (by simp), List.length_cons, ih _ hrest, List.length_drop]
      rcases Nat.le_total n (x :: xs).length with hle | hle
      · rw [← Nat.add_div_right _ hn]
        congr 1
        omega
      · rw [Nat.sub_eq_zero_of_le hle, Nat.div_eq_of_lt (by omega)]
        have h1 : 0 < (x :: xs).length := by simp
        exact (Nat.div_eq_of_lt_le (by omega) (by omega)).symm

/-- What a sequence that comes to an end has come through. -/
theorem M.of_bind_ok {α β : Type} {m : M α} {f : α → M β} {s t : State} {y : β} (h : (m >>= f) s = .ok (y, t)) :
    ∃ x u, m s = .ok (x, u) ∧ f x u = .ok (y, t) := by
  cases hm : m s with
  | error e => rw [M.bind_error hm] at h; cases h
  | ok r => exact ⟨r.1, r.2, rfl, by rwa [M.bind_ok hm] at h⟩

theorem M.length_mapM {α β : Type} {f : α → M β} {xs : List α} {ys : List β} {s t : State}
    (h : xs.mapM f s = .ok (ys, t)) : ys.length = xs.length := by
  induction xs generalizing ys s with
  | nil => cases h; rfl
  | cons x xs ih =>
    rw [List.mapM_cons] at h
    obtain ⟨y, u, -, h⟩ := M.of_bind_ok h
    obtain ⟨zs, u', hzs, h⟩ := M.of_bind_ok h
    cases h
    rw [List.length_cons, List.length_cons, ih hzs]

theorem rangeFrom_eq_range' (a n : Nat) : rangeFrom a n = List.range' a n := by
  induction n generalizing a with
  | zero => rfl
  | succ n ih => rw [rangeFrom, ih, List.range'_succ]

theorem length_rangeFrom (a n : Nat) : (rangeFrom a n).length = n := by rw [rangeFrom_eq_range', List.length_range']

end Strips

/-! ## LDQ and STQ (05 R105, R106) -/

section Boxes
variable {s u : State} {c : BitVec 5} {b : Box} {codes : List Nat}

theorem hostOrder_clear (h : laySpace b.entry = 4 ∨ laySpace b.entry = 5 → s.hostReqs = []) :
    hostOrder b.entry s = .ok ((), s) := by
  unfold hostOrder
  refine (M.bind_ok (gets_run id s)).trans ?_
  rw [if_neg]
  · rfl
  · rintro ⟨hspace, hreqs⟩
    simp [h hspace] at hreqs

/-- The entries of q0 that the codes of a box's elements make. -/
def Box.queued (b : Box) (codes : List Nat) : List QEntry := (stripsOf (layType b.entry) codes).map fun x =>
  { data := x, tag := tagOf (layType b.entry), awaits := laySpace b.entry != 2 && laySpace b.entry != 3 }

/-- The strips of as many codes as a box has elements are the strips of the box. -/
theorem length_stripsOf (h : codes.length = b.count) : (stripsOf (layType b.entry) codes).length = b.strips := by
  rw [stripsOf, List.length_map, length_chunks (laneCount_pos _) _ _ (by omega), h, Box.strips]

theorem ldq_leaves (h : ReadyA s) (hbox : readBox c s = .ok (b, s)) (hqueue : queueBox b s = .ok ((), s))
    (hrange : boxInRange b s = .ok ((), s)) (here : laySpace b.entry ≠ 1)
    (hhost : laySpace b.entry = 4 ∨ laySpace b.entry = 5 → s.hostReqs = []) (hroom : s.actor.q0.length + b.strips ≤ 16)
    (hread : (rangeFrom 0 b.count).mapM (boxElem (s.client 0) b) s = .ok (codes, u)) :
    LeavesIn s u (.ldq c) (u.actor.addQ0 (b.queued codes)) := by
  show execLdq c s = _
  refine aHalf_retires h ?_ ((SetTo.refl u).modActor fun m => m.addQ0 (b.queued codes)) rfl rfl
  refine (M.bind_ok hbox).trans ((M.bind_ok hqueue).trans ((M.bind_ok hrange).trans ?_))
  refine (M.bind_ok (poolOrder_drained h.drained _)).trans ((M.bind_ok (me_run s)).trans ?_)
  rw [h.free, if_neg (by simp), if_neg (by omega)]
  refine (M.bind_ok (gets_run id s)).trans ((M.bind_ok (hostOrder_clear hhost)).trans ?_)
  rw [if_neg (by tauto)]
  exact M.bind_ok hread

theorem stq_leaves (h : ReadyA s) (hbox : readBox c s = .ok (b, s)) (hqueue : queueBox b s = .ok ((), s))
    (hrange : boxInRange b s = .ok ((), s)) (here : laySpace b.entry ≠ 1)
    (hhost : laySpace b.entry = 4 ∨ laySpace b.entry = 5 → s.hostReqs = []) (hentries : b.strips ≤ s.actor.q1.length)
    (hstore : ((rangeFrom 0 b.strips).forM fun j =>
      popQ1 (layType b.entry) >>= fun x => stqStrip (s.client 0) b x j) s = .ok ((), u)) : LeavesIn s u (.stq c) u.actor := by
  show execStq c s = _
  refine aHalf_retires h ?_ (SetTo.refl u) rfl rfl
  refine (M.bind_ok hbox).trans ((M.bind_ok hqueue).trans ((M.bind_ok hrange).trans ((M.bind_ok (me_run s)).trans ?_)))
  rw [if_neg (by omega)]
  refine (M.bind_ok (gets_run id s)).trans ((M.bind_ok (hostOrder_clear hhost)).trans ?_)
  rw [if_neg (by tauto)]
  exact M.bind_ok hstore

end Boxes

/-- Settles O27: a transfer that finds its room or its entries comes to the walk over its elements or strips. -/
theorem boxesMoveThroughTheQueues : Obligations.BoxesMoveThroughTheQueues := by
  unfold Obligations.BoxesMoveThroughTheQueues
  intro s c b u h hbox hqueue hrange here hhost
  refine ⟨fun codes hroom hread => ⟨ldq_leaves h hbox hqueue hrange here hhost hroom hread, ?_⟩,
    fun hentries hstore => stq_leaves h hbox hqueue hrange here hhost hentries hstore⟩
  rw [List.length_map, length_stripsOf]
  rw [M.length_mapM hread, length_rangeFrom]

end Sys2Proof.Machine
end

section
/-!
SUPPORT. Ranges of registers, fields of layout entries, and the instructions of the layout table (05 R100, R107, R108); the statement
O28 put together from them.
-/

namespace Sys2Proof.Machine

/-! ## Reads of registers (02 R33) -/

section Registers
variable {s : State} {b : BitVec 5}

theorem myProc_run (s : State) : myProc s = .ok (s.self, s) := rfl

/-- Register `b + k` of a range within a0-a29. -/
theorem regAt_run {k : Nat} (h : b.toNat + k < 30) :
    regAt b k s = .ok (regOf s.actor (BitVec.ofNat 5 (b.toNat + k)), s) := by
  have htoNat : (BitVec.ofNat 5 (b.toNat + k)).toNat = b.toNat + k := by
    rw [BitVec.toNat_ofNat]; exact Nat.mod_eq_of_lt (by omega)
  unfold regAt
  rw [M.bind_ok (me_run s)]
  by_cases h0 : b.toNat + k = 0
  · rw [if_pos h0, h0]; rfl
  · have hne : BitVec.ofNat 5 (b.toNat + k) ≠ 0#5 := fun h5 => h0 (by rw [← htoNat, h5]; rfl)
    rw [if_neg h0, dif_pos h]
    simp [regOf, hne, htoNat]

theorem regsAt_run (n k : Nat) (h : b.toNat + k + n ≤ 30) :
    regsAt b k n s = .ok ((List.range n).map fun j => regOf s.actor (BitVec.ofNat 5 (b.toNat + (k + j))), s) := by
  induction n generalizing k with
  | zero => rfl
  | succ n ih =>
    rw [regsAt, M.bind_ok (regAt_run (by omega)), M.bind_ok (ih (k + 1) (by omega)), List.range_succ_eq_map]
    simp [Function.comp_def, Nat.add_assoc, Nat.add_comm 1]

/-- What a range of registers holds depends on the acting context alone. -/
theorem regAt_congr {t : State} (h : t.actor = s.actor) {k : Nat} {x : Word} (hs : regAt b k s = .ok (x, s)) :
    regAt b k t = .ok (x, t) := by
  unfold regAt at hs ⊢
  rw [M.bind_ok (me_run _)] at hs ⊢
  rw [h]
  split_ifs at hs ⊢ <;> cases hs <;> rfl

end Registers

/-! ## Boxes in states that agree on what a box is read from (05 R105) -/

section ReadBox
variable {s t : State} {b : BitVec 5} {x : Box}

theorem regAt_keeps {k : Nat} {w : Word} (h : regAt b k s = .ok (w, t)) : t = s := by
  unfold regAt at h
  rw [M.bind_ok (me_run s)] at h
  split_ifs at h <;> cases h <;> rfl

theorem require_keeps {ok : Bool} {y : Unit} (h : require ok s = .ok (y, t)) : ok = true ∧ t = s := by
  cases ok <;> cases h
  exact ⟨rfl, rfl⟩

/-- A box is read from the acting context's registers and its process's layouts. -/
theorem readBox_congr (hactor : t.actor = s.actor) (hself : t.self = s.self) (h : readBox b s = .ok (x, s)) :
    readBox b t = .ok (x, t) := by
  unfold readBox at h ⊢
  obtain ⟨w0, s0, h0, h⟩ := M.of_bind_ok h
  obtain rfl := regAt_keeps h0
  obtain ⟨w1, s1, h1, h⟩ := M.of_bind_ok h
  obtain rfl := regAt_keeps h1
  obtain ⟨w2, s2, h2, h⟩ := M.of_bind_ok h
  obtain rfl := regAt_keeps h2
  obtain ⟨_, s3, h3, h⟩ := M.of_bind_ok h
  obtain ⟨hlid, rfl⟩ := require_keeps h3
  rw [M.bind_ok (myProc_run _)] at h
  obtain ⟨_, s4, h4, h⟩ := M.of_bind_ok h
  obtain ⟨hbeyond, rfl⟩ := require_keeps h4
  rw [M.bind_ok (regAt_congr hactor h0), M.bind_ok (regAt_congr hactor h1), M.bind_ok (regAt_congr hactor h2),
    M.bind_ok (require_holds hlid t), M.bind_ok (myProc_run t), hself, M.bind_ok (require_holds hbeyond t)]
  cases h
  rfl

end ReadBox


/-! ## Fields of an entry -/

section Fields
variable {n : Nat}

theorem testBit_fieldOf (w : BitVec n) (hi lo j : Nat) :
    (fieldOf w hi lo).testBit j = (decide (j < hi + 1 - lo) && w.getLsbD (lo + j)) := by
  rw [fieldOf, bitsOf, Nat.testBit_mod_two_pow, Nat.testBit_div_two_pow, BitVec.testBit_toNat, Nat.add_comm j]

theorem testBit_at (v k lo j : Nat) : (at_ v k lo).testBit j = (decide (lo ≤ j) && (decide (j - lo < k) && v.testBit (j - lo))) := by
  rw [at_, Nat.testBit_mul_two_pow, Nat.testBit_mod_two_pow]

/-- The bits of an entry with a field replaced. -/
theorem getLsbD_setField (e : BitVec n) {hi lo j : Nat} (hj : j < n) (v : Nat) : (setField e hi lo v).getLsbD j
    = if lo ≤ j ∧ j < hi + 1 then v.testBit (j - lo) else e.getLsbD j := by
  have hones : (2 ^ (hi + 1 - lo) - 1).testBit (j - lo) = decide (j - lo < hi + 1 - lo) := Nat.testBit_two_pow_sub_one ..
  simp only [setField, BitVec.getLsbD_or, BitVec.getLsbD_and, BitVec.getLsbD_not, BitVec.getLsbD_ofNat, testBit_at, hones, hj,
    decide_true, Bool.true_and, Bool.and_self]
  by_cases h : lo ≤ j ∧ j < hi + 1
  · rw [if_pos h]
    have hw : j - lo < hi + 1 - lo := by omega
    simp [h.1, hw]
  · rw [if_neg h]
    rcases Nat.lt_or_ge j lo with hlt | hge
    · simp [Nat.not_le.mpr hlt]
    · have hw : ¬(j - lo < hi + 1 - lo) := by omega
      simp [hw]

theorem fieldOf_setField_same (e : BitVec n) {hi lo : Nat} (hn : hi < n) (v : Nat) :
    fieldOf (setField e hi lo v) hi lo = v % 2 ^ (hi + 1 - lo) := by
  apply Nat.eq_of_testBit_eq
  intro j
  rw [testBit_fieldOf, Nat.testBit_mod_two_pow]
  by_cases h : j < hi + 1 - lo
  · rw [getLsbD_setField e (by omega), if_pos (by omega), Nat.add_sub_cancel_left]
  · simp [h]

theorem fieldOf_setField_other (e : BitVec n) {hi lo hi' lo' : Nat} (hn : hi' < n) (h : hi' < lo ∨ hi < lo') (v : Nat) :
    fieldOf (setField e hi lo v) hi' lo' = fieldOf e hi' lo' := by
  apply Nat.eq_of_testBit_eq
  intro j
  rw [testBit_fieldOf, testBit_fieldOf]
  by_cases hj : j < hi' + 1 - lo'
  · rw [getLsbD_setField e (by omega), if_neg (by omega)]
  · simp [hj]

theorem fieldOf_lt (e : BitVec n) (hi lo : Nat) : fieldOf e hi lo < 2 ^ (hi + 1 - lo) := Nat.mod_lt _ (by positivity)

/-- A field of 64 bits as a word. -/
theorem wordOf_fieldOf (e : BitVec n) (lo : Nat) : wordOf (fieldOf e (lo + 63) lo) = e.extractLsb' lo 64 := by
  apply BitVec.eq_of_toNat_eq
  rw [toNat_wordOf, BitVec.extractLsb'_toNat, fieldOf, bitsOf, Nat.shiftRight_eq_div_pow, show lo + 63 + 1 - lo = 64 by omega,
    Nat.mod_mod]

end Fields

theorem rangeFrom_zero (n : Nat) : rangeFrom 0 n = List.range n := by rw [rangeFrom_eq_range', List.range_eq_range']

/-! ## Words laid out as bytes (07 R142) -/

theorem natOfBytes_append (xs ys : List Byte) : natOfBytes (xs ++ ys) = natOfBytes xs + 256 ^ xs.length * natOfBytes ys := by
  induction xs with
  | nil => simp [natOfBytes]
  | cons x xs ih =>
    rw [List.cons_append, natOfBytes, ih, natOfBytes, List.length_cons, pow_succ]
    ring

theorem length_bytesOfNat (n x : Nat) : (bytesOfNat n x).length = n := by
  induction n generalizing x with
  | zero => rfl
  | succ n ih => rw [bytesOfNat, List.length_cons, ih]

theorem natOfBytes_bytesOfNat (n x : Nat) : natOfBytes (bytesOfNat n x) = x % 256 ^ n := by
  induction n generalizing x with
  | zero => rw [bytesOfNat, pow_zero, Nat.mod_one]; rfl
  | succ n ih =>
    rw [bytesOfNat, natOfBytes, ih, BitVec.toNat_ofNat, (Nat.pow_succ' : 256 ^ (n + 1) = 256 * 256 ^ n), Nat.mod_mul]
    exact congrArg (· + _) (Nat.mod_mod x 256)

/-- The number that some words make, lowest first. -/
theorem natOfBytes_words (n : Nat) (f : Nat → Word) :
    natOfBytes ((((List.range n).map f).map fun x => bytesOfNat 8 x.toNat).flatten)
      = ((List.range n).map fun k => (f k).toNat * 2 ^ (64 * k)).sum := by
  induction n generalizing f with
  | zero => rfl
  | succ n ih =>
    have hhead : natOfBytes (bytesOfNat 8 (f 0).toNat) = (f 0).toNat := by
      rw [natOfBytes_bytesOfNat]
      exact Nat.mod_eq_of_lt (f 0).isLt
    have htail := ih fun k => f (k + 1)
    simp only [List.range_succ_eq_map, List.map_cons, List.map_map, List.flatten_cons, List.sum_cons, Function.comp_def,
      Nat.succ_eq_add_one, Nat.mul_zero, pow_zero, Nat.mul_one] at htail ⊢
    rw [natOfBytes_append, length_bytesOfNat, hhead, htail, ← List.sum_map_mul_left]
    have hterm : ∀ k, 256 ^ 8 * ((f (k + 1)).toNat * 2 ^ (64 * k)) = (f (k + 1)).toNat * 2 ^ (64 * (k + 1)) := fun k => by
      rw [Nat.mul_left_comm, show 64 * (k + 1) = 64 + 64 * k by omega, pow_add, show (256 : Nat) ^ 8 = 2 ^ 64 by norm_num]
    simp only [hterm]


/-! ## LAYSET (05 R100, R107) -/

theorem SetTo.modProc {s t : State} {c : Ctx} (h : SetTo s t c) (n : Nat) (f : Proc → Proc) :
    SetTo (s.modProc n f) (t.modProc n f) c := by
  rcases h with ⟨rfl, rfl⟩ | rfl
  · exact .inl ⟨rfl, rfl⟩
  · exact .inr rfl

theorem SetTo.activity {s t : State} {c : Ctx} (h : SetTo s t c) (ha : c.act = s.actor.act) : t.activity = s.activity := by
  rw [State.activity, State.activity, h.actor, ha]

theorem SetTo.self {s t : State} {c : Ctx} (h : SetTo s t c) (ha : c.act = s.actor.act) : t.self = s.self := by
  rw [State.self, State.self, h.activity ha]
  rcases h with ⟨rfl, -⟩ | rfl <;> rfl

section Entries
variable {s : State} {i b : BitVec 5} {w : Word} {c : Ctx}

/-- The entry that the eight registers from field `b` hold, the lowest word first. -/
def entryAt (c : Ctx) (b : BitVec 5) : BitVec 512 :=
  BitVec.ofNat 512 (((List.range 8).map fun k => (regOf c (BitVec.ofNat 5 (b.toNat + k))).toNat * 2 ^ (64 * k)).sum)

theorem fieldOf_low_byte (w : Word) : fieldOf w 7 0 = w.toNat % 256 := by simp [fieldOf, bitsOf]

/-- The registers of a range, put together as LAYSET does. -/
theorem natOfBytes_entryAt (c : Ctx) (b : BitVec 5) :
    BitVec.ofNat 512 (natOfBytes ((((List.range 8).map fun j => regOf c (BitVec.ofNat 5 (b.toNat + (0 + j)))).map
      fun x => bytesOfNat 8 x.toNat).flatten)) = entryAt c b := by
  simp only [Nat.zero_add]
  rw [natOfBytes_words, entryAt]

theorem layset_leaves (h : ReadyA s) (hs : s.actor.source i = some (w, c)) (hb : b.toNat + 8 ≤ 30)
    (hok : layMalformed (decide (w.toNat % 256 < 16)) (entryAt c b) = false) :
    LeavesIn s (s.modProc s.activity.slot fun p => { p with layouts := put p.layouts (w.toNat % 256) (entryAt c b) })
      (.layset i b) c := by
  obtain ⟨t, hread, ht⟩ := readA_source (SetTo.refl s) hs
  obtain ⟨hact, hpc⟩ := Ctx.source_act hs
  have hregs := regsAt_run (s := t) (b := b) 8 0 hb
  rw [ht.actor] at hregs
  show execLayset i b s = _
  refine aHalf_retires h ?_ (ht.modProc _ _) hact hpc
  refine (M.bind_ok hread).trans ((M.bind_ok hregs).trans ?_)
  rw [natOfBytes_entryAt, fieldOf_low_byte, M.bind_ok (require_holds (by rw [hok]; rfl) t), ← ht.activity hact]
  rfl

theorem layset_stops (h : ReadyA s) (hs : s.actor.source i = some (w, c)) (hb : b.toNat + 8 ≤ 30)
    (hbad : layMalformed (decide (w.toNat % 256 < 16)) (entryAt c b) = true) :
    ∃ u, exec (.layset i b) s = .next u ∧ Stopped u s.turn.core s.turn.ctx .illegal := by
  obtain ⟨t, hread, ht⟩ := readA_source (SetTo.refl s) hs
  have hregs := regsAt_run (s := t) (b := b) 8 0 hb
  rw [ht.actor] at hregs
  have hstop : ∃ u, execLayset i b s = .next u ∧ u.turn = s.turn ∧ u.mem = s.mem
      ∧ u.actor = s.actor.stopped .illegal 1 s.actor.pc s.actor.pc 0#64 := by
    refine aHalf_stops (e := 0#64) h ((M.bind_ok hread).trans ((M.bind_ok hregs).trans ?_))
    rw [natOfBytes_entryAt, fieldOf_low_byte, hbad]
    rfl
  obtain ⟨u, hexec, hturn, -, hactor⟩ := hstop
  exact ⟨u, hexec, Stopped.of_actor hturn hactor⟩

end Entries

/-! ## LAYGET (05 R107) -/

section Layget
variable {s : State} {i b : BitVec 5} {w : Word} {c : Ctx}

/-- A context with a word put into a register; a0 takes none. -/
def Ctx.setReg (c : Ctx) (k : Nat) (x : Word) : Ctx := if h : k ≠ 0 ∧ k < 32 then { c with a := c.a.set k x h.2 } else c

theorem Ctx.setReg_eq (c : Ctx) {k : Nat} (x : Word) (h0 : k ≠ 0) (h : k < 32) : c.setReg k x = { c with a := c.a.set k x h } :=
  dif_pos ⟨h0, h⟩

theorem Ctx.setReg_zero (c : Ctx) (x : Word) : c.setReg 0 x = c := dif_neg (by simp)

theorem Ctx.setReg_keeps (c : Ctx) (k : Nat) (x : Word) : ∃ a, c.setReg k x = { c with a := a } := by
  unfold Ctx.setReg
  split_ifs
  · exact ⟨_, rfl⟩
  · exact ⟨c.a, rfl⟩

theorem Ctx.getElem_setReg (c : Ctx) (k : Nat) (x : Word) {m : Nat} (hm : m < 32) :
    (c.setReg k x).a[m]? = if m = k ∧ m ≠ 0 then some x else c.a[m]? := by
  unfold Ctx.setReg
  split_ifs with h hmk hmk
  · simp [hmk.1]
  · exact Vector.getElem?_set_ne h.2 (by omega)
  · omega
  · rfl

/-- A context with words put into its registers from one on. -/
def Ctx.putRegs (c : Ctx) : Nat → List Word → Ctx
  | _, [] => c
  | k, x :: xs => (c.setReg k x).putRegs (k + 1) xs

theorem Ctx.putRegs_keeps (c : Ctx) (k : Nat) (xs : List Word) : ∃ a, c.putRegs k xs = { c with a := a } := by
  induction xs generalizing c k with
  | nil => exact ⟨c.a, rfl⟩
  | cons x xs ih =>
    obtain ⟨a, ha⟩ := ih (c.setReg k x) (k + 1)
    obtain ⟨a', ha'⟩ := c.setReg_keeps k x
    exact ⟨a, by rw [Ctx.putRegs, ha, ha']⟩

theorem Ctx.getElem_putRegs (c : Ctx) (k : Nat) (xs : List Word) {m : Nat} (hm : m < 32) : (c.putRegs k xs).a[m]?
    = if k ≤ m ∧ m < k + xs.length ∧ m ≠ 0 then xs[m - k]? else c.a[m]? := by
  induction xs generalizing c k with
  | nil =>
    have hnone : ¬(k ≤ m ∧ m < k + ([] : List Word).length ∧ m ≠ 0) := by rw [List.length_nil]; omega
    rw [if_neg hnone]
    rfl
  | cons x xs ih =>
    rw [Ctx.putRegs, ih, Ctx.getElem_setReg c k x hm, List.length_cons]
    by_cases hk : m = k
    · subst hk
      by_cases h0 : m = 0 <;> simp [h0]
    · have hiff : (k ≤ m ∧ m < k + (xs.length + 1) ∧ m ≠ 0) ↔ (k + 1 ≤ m ∧ m < k + 1 + xs.length ∧ m ≠ 0) := by omega
      simp only [hiff, hk, false_and, if_false]
      split_ifs with hlater
      · rw [show m - k = m - (k + 1) + 1 by omega, List.getElem?_cons_succ]
      · rfl

theorem writeRegs_run {t : State} (ht : SetTo s t c) (j : Nat) (xs : List Word) (h : b.toNat + j + xs.length ≤ 30) :
    ∃ u, writeRegs b j xs t = .ok ((), u) ∧ SetTo s u (c.putRegs (b.toNat + j) xs) := by
  induction xs generalizing t c j with
  | nil => exact ⟨t, rfl, ht⟩
  | cons x xs ih =>
    rw [List.length_cons] at h
    unfold writeRegs
    rw [Ctx.putRegs]
    by_cases h0 : b.toNat + j = 0
    · rw [if_pos h0, h0, Ctx.setReg_zero]
      exact h0 ▸ ih ht (j + 1) (by omega)
    · have hset := ht.modActor fun c => { c with a := c.a.set (b.toNat + j) x (by omega) }
      rw [if_neg h0, dif_pos (by omega), M.bind_ok (modMe_run _ t), Ctx.setReg_eq c x h0 (by omega)]
      exact ih hset (j + 1) (by omega)

/-- LAYGET writes the words of the entry its id names. -/
theorem layget_leaves (h : ReadyA s) (hs : s.actor.source i = some (w, c)) (hb : b.toNat + 8 ≤ 30) :
    Leaves s (.layget b i) (c.putRegs b.toNat
      ((List.range 8).map fun k => (s.self.layout (w.toNat % 256)).extractLsb' (64 * k) 64)) := by
  obtain ⟨t, hread, ht⟩ := readA_source (SetTo.refl s) hs
  obtain ⟨hact, hpc⟩ := Ctx.source_act hs
  obtain ⟨u, hwrite, hu⟩ := writeRegs_run (b := b) ht 0
    ((List.range 8).map fun k => (s.self.layout (w.toNat % 256)).extractLsb' (64 * k) 64) (by simpa using hb)
  obtain ⟨a, ha⟩ := c.putRegs_keeps b.toNat
    ((List.range 8).map fun k => (s.self.layout (w.toNat % 256)).extractLsb' (64 * k) 64)
  show execLayget b i s = _
  refine aHalf_retires h ?_ hu (by rw [ha]; exact hact) (by rw [ha]; exact hpc)
  refine (M.bind_ok hread).trans ((M.bind_ok (myProc_run t)).trans ?_)
  rw [ht.self hact, fieldOf_low_byte, rangeFrom_zero]
  simp only [wordOf_fieldOf]
  exact M.bind_ok hwrite

/-- What the registers hold after LAYGET. -/
theorem regOf_putRegs (c : Ctx) {k : Nat} {xs : List Word} {x : Word} (hk : xs[k]? = some x) (hb : b.toNat + xs.length ≤ 30)
    (h0 : b.toNat + k ≠ 0) : regOf (c.putRegs b.toNat xs) (BitVec.ofNat 5 (b.toNat + k)) = x := by
  have hlen : k < xs.length := (List.getElem?_eq_some_iff.mp hk).1
  have htoNat : (BitVec.ofNat 5 (b.toNat + k)).toNat = b.toNat + k := by
    rw [BitVec.toNat_ofNat]; exact Nat.mod_eq_of_lt (by omega)
  have hne : BitVec.ofNat 5 (b.toNat + k) ≠ 0#5 := fun h5 => h0 (by rw [← htoNat, h5]; rfl)
  have hget := c.getElem_putRegs b.toNat xs (m := b.toNat + k) (by omega)
  rw [if_pos ⟨by omega, by omega, h0⟩, Nat.add_sub_cancel_left, hk] at hget
  rw [regOf, if_neg hne]
  simp only [htoNat]
  exact (Vector.getElem?_eq_some_iff.mp hget).2

end Layget


/-! ## LAYSUB (05 R107) -/

section SubLayouts
variable {e : BitVec 512} {x : Box}

/-- An entry with the dimensions of a range replaced. -/
def setDims (f : Nat → Nat) (e : BitVec 512) (ks : List Nat) : BitVec 512 :=
  ks.foldl (fun e k => setField e (287 + 32 * k) (256 + 32 * k) (f k)) e

/-- Fields outside the dimensions stay. -/
theorem fieldOf_setDims_other (f : Nat → Nat) (e : BitVec 512) {ks : List Nat} {hi lo : Nat} (hn : hi < 512)
    (h : ∀ k ∈ ks, hi < 256 + 32 * k ∨ 287 + 32 * k < lo) : fieldOf (setDims f e ks) hi lo = fieldOf e hi lo := by
  induction ks generalizing e with
  | nil => rfl
  | cons k ks ih =>
    rw [setDims, List.foldl_cons]
    exact (ih _ fun j hj => h j (List.mem_cons_of_mem k hj)).trans (fieldOf_setField_other e hn (h k List.mem_cons_self) _)

theorem layDim_setDims (f : Nat → Nat) (e : BitVec 512) {ks : List Nat} (hks : ks.Nodup) {k : Nat} (hk : k ∈ ks) (h4 : k < 4) :
    layDim (setDims f e ks) k = f k % 2 ^ 32 := by
  induction ks generalizing e with
  | nil => simp at hk
  | cons j ks ih =>
    obtain ⟨hj, hrest⟩ := List.nodup_cons.mp hks
    rcases List.mem_cons.mp hk with rfl | hlater
    · rw [setDims, List.foldl_cons, layDim]
      refine (fieldOf_setDims_other f _ (by omega) fun l hl => ?_).trans ?_
      · have : l ≠ k := fun h => hj (h ▸ hl)
        omega
      · rw [fieldOf_setField_same e (by omega), show 287 + 32 * k + 1 - (256 + 32 * k) = 32 by omega]
    · exact ih _ hrest hlater

theorem layRank_le (e : BitVec 512) : layRank e ≤ 4 := by
  have := fieldOf_lt e 35 34
  unfold layRank
  omega

theorem layRank_setField (e : BitVec 512) {hi lo : Nat} (h : 35 < lo) (v : Nat) : layRank (setField e hi lo v) = layRank e :=
  congrArg (· + 1) (fieldOf_setField_other e (by omega) (.inl h) v)

/-- The offset of a box's first element. -/
def Box.offset (x : Box) : Int :=
  ((List.range (layRank x.entry)).map fun k => (x.start.getD k 0 : Int) * layStride x.entry k).sum

/-- The layout of a box of whole bytes in a memory space: VBASE moves to the box's start, the dimensions are the extents. -/
theorem subLayout_eq (hsix : isSix (layType x.entry) = false) (hblock : isBlock (layType x.entry) = false)
    (h2 : laySpace x.entry ≠ 2) (h3 : laySpace x.entry ≠ 3) : subLayout x
    = setDims (fun k => x.ext.getD k 0) (setField (setField x.entry 179 128
        (wrapTo 52 ((layVbase x.entry : Int) + elemSize x.entry * x.offset))) 243 192 (laySbase x.entry))
      (List.range (layRank x.entry)) := by
  have hpool : ¬(laySpace x.entry = 2 ∨ laySpace x.entry = 3) := by tauto
  simp only [subLayout, hsix, hblock, hpool, rangeFrom_zero, ← List.sum_eq_foldl, Box.offset, setDims, Bool.not_false,
    Bool.false_eq_true, if_true, if_false, mul_comm (elemSize x.entry : Int), layRank_setField _ (by decide : 35 < 192),
    layRank_setField _ (by decide : 35 < 128)]

section Read
variable (hsix : isSix (layType x.entry) = false) (hblock : isBlock (layType x.entry) = false)
  (h2 : laySpace x.entry ≠ 2) (h3 : laySpace x.entry ≠ 3)
include hsix hblock h2 h3

theorem fieldOf_subLayout_low {hi lo : Nat} (hhi : hi < 128) : fieldOf (subLayout x) hi lo = fieldOf x.entry hi lo := by
  rw [subLayout_eq hsix hblock h2 h3, fieldOf_setDims_other _ _ (by omega) (fun k _ => by omega),
    fieldOf_setField_other _ (by omega) (by omega), fieldOf_setField_other _ (by omega) (by omega)]

theorem layVbase_subLayout :
    (layVbase (subLayout x) : Int) = ((layVbase x.entry : Int) + elemSize x.entry * x.offset) % 2 ^ 52 := by
  have hwrap := wrapTo_lt 52 ((layVbase x.entry : Int) + elemSize x.entry * x.offset)
  rw [layVbase, subLayout_eq hsix hblock h2 h3, fieldOf_setDims_other _ _ (by omega) (fun k _ => by omega),
    fieldOf_setField_other _ (by omega) (by omega), fieldOf_setField_same _ (by omega), Nat.mod_eq_of_lt hwrap, wrapTo]
  exact Int.toNat_of_nonneg (Int.emod_nonneg _ (by norm_num))

theorem layDim_subLayout {k : Nat} (hk : k < layRank x.entry) : layDim (subLayout x) k = x.ext.getD k 0 % 2 ^ 32 := by
  have := layRank_le x.entry
  rw [subLayout_eq hsix hblock h2 h3]
  exact layDim_setDims _ _ List.nodup_range (List.mem_range.mpr hk) (by omega)

theorem layStride_subLayout {k : Nat} (hk : k < layRank x.entry) : layStride (subLayout x) k = layStride x.entry k := by
  have := layRank_le x.entry
  have hfield : fieldOf (subLayout x) (415 + 32 * k) (384 + 32 * k) = fieldOf x.entry (415 + 32 * k) (384 + 32 * k) := by
    rw [subLayout_eq hsix hblock h2 h3, fieldOf_setDims_other _ _ (by omega) (fun j hj => ?_),
      fieldOf_setField_other _ (by omega) (by omega), fieldOf_setField_other _ (by omega) (by omega)]
    have := List.mem_range.mp hj
    omega
  rw [layStride, layStride, hfield]

end Read

end SubLayouts

section Laysub
variable {s : State} {i b : BitVec 5} {w : Word} {c : Ctx} {x : Box}

theorem box_within (h : ∀ k, k < layRank x.entry → x.start.getD k 0 + x.ext.getD k 0 ≤ layDim x.entry k) :
    ((rangeFrom 0 (layRank x.entry)).any fun k => decide (layDim x.entry k < x.start.getD k 0 + x.ext.getD k 0)) = false := by
  rw [rangeFrom_zero, List.any_eq_false]
  intro k hk
  have := h k (List.mem_range.mp hk)
  simpa using this

theorem laysub_leaves (h : ReadyA s) (hs : s.actor.source i = some (w, c)) (hbox : readBox b (s.withActor c) = .ok (x, s.withActor c))
    (hl : 16 ≤ w.toNat % 256) (hlid : 16 ≤ x.lid) (hsix : isSix (layType x.entry) = false)
    (hin : ∀ k, k < layRank x.entry → x.start.getD k 0 + x.ext.getD k 0 ≤ layDim x.entry k) :
    LeavesIn s (s.modProc s.activity.slot fun p => { p with layouts := put p.layouts (w.toNat % 256) (subLayout x) })
      (.laysub i b) c := by
  obtain ⟨t, hread, ht⟩ := readA_source (SetTo.refl s) hs
  obtain ⟨hact, hpc⟩ := Ctx.source_act hs
  have hself : (s.withActor c).self = s.self := SetTo.self (.inr rfl) hact
  have hbox' : readBox b t = .ok (x, t) :=
    readBox_congr (by rw [ht.actor, State.actor_withActor]) (by rw [ht.self hact, hself]) hbox
  have hbound : (!decide (x.lid < 16) || (find t.self.regions x.lid (0, 0)).2 != 0) = true := by
    simp [Nat.not_lt.mpr hlid]
  have hscale : unboundScale x.lid x.entry = x.entry := if_neg fun hx => by omega
  show execLaysub i b s = _
  refine aHalf_retires h ?_ (ht.modProc _ _) hact hpc
  refine (M.bind_ok hread).trans ((M.bind_ok hbox').trans ?_)
  rw [fieldOf_low_byte, M.bind_ok (require_holds (by simpa using hl) t), M.bind_ok (myProc_run t),
    M.bind_ok (guardFault_holds hbound _ _ t), box_within hin, hsix, hscale,
    Bool.false_and, Bool.not_false, Bool.and_true, M.bind_ok (guardFault_holds rfl _ _ t), ← ht.activity hact]
  rfl

end Laysub

/-! ## PREF (05 R104, R108) -/

section Pref
variable {s : State} {b : BitVec 5} {x : Box} {r : BitVec 1}

/-- PREF asks for the elements of a box one by one, in the spaces that it caches. -/
def State.prefetched (s : State) (x : Box) (ro : Bool) : State :=
  if laySpace x.entry = 0 || (ro && (laySpace x.entry = 4 || laySpace x.entry = 5)) then
    (rangeFrom 0 x.count).foldl (fun t k => prefElem (s.client 0) x ro k t) s
  else s

theorem pref_leaves (h : ReadyA s) (hbox : readBox b s = .ok (x, s)) :
    LeavesIn s (s.prefetched x (r == 1#1)) (.pref b r) (s.prefetched x (r == 1#1)).actor := by
  show execPref b r s = _
  exact aHalf_retires h ((M.bind_ok hbox).trans ((M.bind_ok (gets_run id s)).trans (M.bind_ok (mods_run _ s))))
    (SetTo.refl _) rfl rfl

theorem prefetched_elsewhere (h0 : laySpace x.entry ≠ 0)
    (h : r = 0#1 ∨ (laySpace x.entry ≠ 4 ∧ laySpace x.entry ≠ 5)) : s.prefetched x (r == 1#1) = s := by
  refine if_neg ?_
  rcases h with rfl | ⟨h4, h5⟩ <;> simp [*]

end Pref

/-- Settles O28: the entry that LAYSET checks is the one its registers hold; LAYSUB's fields are read off `subLayout`. -/
theorem layoutsAndSubLayouts : Obligations.LayoutsAndSubLayouts := by
  unfold Obligations.LayoutsAndSubLayouts
  refine ⟨fun s i b w c h hs hb => ⟨layset_leaves h hs hb, layset_stops h hs hb, _, layget_leaves h hs hb, ?_, ?_, ?_⟩,
    fun s i b w c x r h hs hbox => ⟨fun hl hlid hsix hblock h2 h3 hin => ?_, fun hbox' => ⟨⟨_, pref_leaves h hbox'⟩, ?_⟩⟩⟩
  · intro k hk h0
    exact regOf_putRegs c (by simp [hk]) (by simpa using hb) h0
  · intro k hk
    by_cases h32 : k < 32
    · rw [Ctx.getElem_putRegs c b.toNat _ h32, List.length_map, List.length_range, if_neg (by omega)]
    · simp [h32]
  · obtain ⟨a, ha⟩ := c.putRegs_keeps b.toNat
      ((List.range 8).map fun k => (s.self.layout (w.toNat % 256)).extractLsb' (64 * k) 64)
    rw [ha]
    exact ⟨rfl, rfl⟩
  · exact ⟨subLayout x, laysub_leaves h hs hbox hl hlid hsix hin,
      fun k hk => ⟨layDim_subLayout hsix hblock h2 h3 hk, layStride_subLayout hsix hblock h2 h3 hk⟩,
      layVbase_subLayout hsix hblock h2 h3, fieldOf_subLayout_low hsix hblock h2 h3 (by omega),
      fieldOf_subLayout_low hsix hblock h2 h3 (by omega)⟩
  · intro h0 hr
    have hpref := pref_leaves (r := r) h hbox'
    rwa [prefetched_elsewhere h0 hr] at hpref

end Sys2Proof.Machine
end

section
/-!
SUPPORT. A context whose E half has hints of a group issued: the state that refutes O47.
-/

namespace Sys2Proof.Machine

/-- A running context that has issued a hint of the group at the head of its E queue (02 R29), though that queue is empty. -/
def hintIssued : State := State.reset.withActor { status := .running, hinted := 1 }

theorem readyE_hintIssued : ReadyE hintIssued where
  half := rfl
  ready := ⟨rfl, rfl, rfl, rfl, rfl, rfl⟩
  outside := rfl
  fresh := rfl
  unused := by decide
  alone := fun k _ hk => by
    have hother : hintIssued.ctx 0 k = {} := State.ctx_setCtx_other State.reset 0 0 0 k _ (.inr hk)
    exact congrArg Ctx.readyE hother

/-- The retirement of an E instruction starts the count of issued hints anew. -/
theorem zld_hintIssued : ∃ t, exec (.zld 0#5 0#5) hintIssued = .next t ∧ t.actor.hinted = 0 := ⟨_, rfl, rfl⟩

/-- Refutes O47: by its clause on ZLD nothing of the context changes but the view register and what `State.vends` names, and the
count of issued hints is not among that. Retirement clears the count (02 R29); `hintIssued` meets `ReadyE`, which asks nothing of
it, and holds 1. That the count is 0 while the E queue is empty is the premise that the statement lacks. -/
theorem not_viewRegisters : ¬Obligations.ViewRegisters := by
  unfold Obligations.ViewRegisters
  intro h
  obtain ⟨-, hzld, -⟩ := h hintIssued 0#5 0#5 0#5 readyE_hintIssued
  obtain ⟨t, ht, hcleared⟩ := zld_hintIssued
  rw [VLeaves, ht, Host.Outcome.next.injEq] at hzld
  rw [hzld] at hcleared
  exact absurd hcleared (by decide)

end Sys2Proof.Machine
end

section
/-!
SUPPORT. What the vector driver leaves as it is (05 R97; 09 R190-R192), and the statement O48 put together from it.
-/

namespace Sys2Proof.Machine

/-! ## The frame of the vector driver -/

/-- What a context keeps while beats run: its registers, views and predicates, FLAGS and RMODE, the outbox, the program counter. -/
structure Ctx.SameFront (c d : Ctx) : Prop where
  a : d.a = c.a
  z : d.z = c.z
  p : d.p = c.p
  flags : d.flags = c.flags
  rmode : d.rmode = c.rmode
  outbox : d.outbox = c.outbox
  pc : d.pc = c.pc

theorem Ctx.SameFront.refl (c : Ctx) : c.SameFront c := ⟨rfl, rfl, rfl, rfl, rfl, rfl, rfl⟩

theorem Ctx.SameFront.trans {c d e : Ctx} (h : c.SameFront d) (g : d.SameFront e) : c.SameFront e :=
  ⟨g.a.trans h.a, g.z.trans h.z, g.p.trans h.p, g.flags.trans h.flags, g.rmode.trans h.rmode, g.outbox.trans h.outbox,
    g.pc.trans h.pc⟩

/-- What stays as it is while beats run: the state outside the cores, the front of every context, and the pools of other cores. -/
structure Framed (s u : State) : Prop where
  mem : u.mem = s.mem
  procs : u.procs = s.procs
  parts : u.parts = s.parts
  clusters : u.clusters = s.clusters
  turn : u.turn = s.turn
  freeCount : u.freeCount = s.freeCount
  ctxs : ∀ n k, (s.ctx n k).SameFront (u.ctx n k)
  pools : ∀ n, n ≠ s.turn.core → (u.core n).pool = (s.core n).pool ∧ (u.core n).tags = (s.core n).tags

namespace Framed
variable {s t u : State}

theorem refl (s : State) : Framed s s := ⟨rfl, rfl, rfl, rfl, rfl, rfl, fun _ _ => .refl _, fun _ _ => ⟨rfl, rfl⟩⟩

theorem trans (h : Framed s t) (g : Framed t u) : Framed s u where
  mem := g.mem.trans h.mem
  procs := g.procs.trans h.procs
  parts := g.parts.trans h.parts
  clusters := g.clusters.trans h.clusters
  turn := g.turn.trans h.turn
  freeCount := g.freeCount.trans h.freeCount
  ctxs := fun n k => (h.ctxs n k).trans (g.ctxs n k)
  pools := fun n hn =>
    have hother : n ≠ t.turn.core := by rwa [h.turn]
    ⟨(g.pools n hother).1.trans (h.pools n hn).1, (g.pools n hother).2.trans (h.pools n hn).2⟩

/-- Steps that each keep the frame, whatever state of the same turn they start in. -/
theorem foldl {α : Type} {f : State → α → State} (as : List α) (h : ∀ t a, t.turn = s.turn → Framed t (f t a)) :
    Framed s (as.foldl f s) := by
  induction as generalizing s with
  | nil => exact refl s
  | cons a as ih =>
    have hstep := h s a rfl
    exact hstep.trans (ih fun t b ht => h t b (ht.trans hstep.turn))

end Framed

/-! ## Changes that keep the frame -/

section Changes
variable (s : State)

theorem framed_setCtx {n k : Nat} {c : Ctx} (h : (s.ctx n k).SameFront c) : Framed s (s.setCtx n k c) where
  mem := rfl
  procs := rfl
  parts := rfl
  clusters := rfl
  turn := rfl
  freeCount := rfl
  ctxs := fun m j => by
    by_cases hhere : m = n ∧ j = k
    · obtain ⟨rfl, rfl⟩ := hhere
      rwa [State.ctx_setCtx_same]
    · rw [State.ctx_setCtx_other _ _ _ _ _ _ (by tauto)]
      exact .refl _
  pools := fun m _ => by
    by_cases hm : m = n
    · subst hm
      simp [State.setCtx, State.modCore]
    · rw [State.setCtx, State.modCore, State.core_setCore_other _ _ _ _ hm]
      exact ⟨rfl, rfl⟩

theorem framed_modActor {f : Ctx → Ctx} (h : ∀ c : Ctx, c.SameFront (f c)) : Framed s (s.modActor f) :=
  framed_setCtx s (h _)

/-- A change of the acting core outside its contexts. -/
theorem framed_modCore {n : Nat} (hn : n = s.turn.core) {f : Core → Core} (hf : ∀ c, (f c).ctxs = c.ctxs) :
    Framed s (s.modCore n f) where
  mem := rfl
  procs := rfl
  parts := rfl
  clusters := rfl
  turn := rfl
  freeCount := rfl
  ctxs := fun m j => by
    rw [State.ctx_modCore s n hf]
    exact .refl _
  pools := fun m hm => by
    rw [State.modCore, State.core_setCore_other _ _ _ _ (by rwa [hn])]
    exact ⟨rfl, rfl⟩

theorem framed_learn (i : Nat) (k : Know) : Framed s (s.learn i k) :=
  ⟨rfl, rfl, rfl, rfl, rfl, rfl, fun _ _ => .refl _, fun _ _ => ⟨rfl, rfl⟩⟩

/-- The reply of a watch stands at its request, or in a packet. -/
theorem framed_reply (n k : Nat) (far : Option (Nat × Nat)) (part : Nat) (r : Reply) : Framed s (s.reply n k far part r) := by
  cases far with
  | none =>
    refine framed_setCtx s ?_
    dsimp only
    split
    · exact ⟨rfl, rfl, rfl, rfl, rfl, rfl, rfl⟩
    · exact .refl _
  | some d => exact ⟨rfl, rfl, rfl, rfl, rfl, rfl, fun _ _ => .refl _, fun _ _ => ⟨rfl, rfl⟩⟩

theorem framed_endPadWatches {n : Nat} (hn : n = s.turn.core) (lo len : Nat) : Framed s (s.endPadWatches n lo len) := by
  unfold State.endPadWatches
  dsimp only
  split_ifs
  · exact .refl s
  · refine Framed.trans ?_ (.foldl _ fun t w _ => framed_reply t _ _ _ _ _)
    exact framed_modCore s hn fun _ => rfl

/-! ## Writes to the pool of the acting core (05 R90; 15 R371) -/

theorem framed_poolRaw {n : Nat} (hn : n = s.turn.core) (off : Nat) (bs : List Byte) : Framed s (s.poolRaw n off bs) :=
  framed_modCore s hn fun _ => rfl

theorem framed_logChunk {n : Nat} (hn : n = s.turn.core) (k chunk : Nat) : Framed s (s.logChunk n k chunk) := by
  unfold State.logChunk
  dsimp only
  split_ifs
  · exact .refl s
  · exact framed_setCtx s ⟨rfl, rfl, rfl, rfl, rfl, rfl, rfl⟩
  · refine Framed.trans ?_ (framed_poolRaw _ ?_ _ _)
    · exact framed_setCtx s ⟨rfl, rfl, rfl, rfl, rfl, rfl, rfl⟩
    · exact hn

theorem framed_logUndo (off n : Nat) : Framed s (s.logUndo off n) :=
  .foldl _ fun t c ht => framed_logChunk t (by rw [ht]) _ c

theorem framed_scatter (gs : List Nat) (bs : List (Nat × Byte)) (ty : Nat) : Framed s (s.scatter gs bs ty) := by
  unfold State.scatter
  dsimp only
  have hlog : Framed s (bs.foldl (fun s b => s.logUndo b.1 1) s) := .foldl bs fun t b _ => framed_logUndo t b.1 1
  have hcore : s.turn.core = (bs.foldl (fun s b => s.logUndo b.1 1) s).turn.core := by rw [hlog.turn]
  refine hlog.trans (Framed.trans ?_ (.foldl _ fun t g ht => framed_endPadWatches t ?_ _ _))
  · exact framed_modCore _ hcore fun _ => rfl
  · rw [ht]
    exact hcore

end Changes

/-! ## Bodies that keep the frame -/

/-- A body that keeps the frame whenever it comes to an end. -/
def KeepsFrame {α : Type} (m : M α) : Prop := ∀ s x u, m s = .ok (x, u) → Framed s u

namespace KeepsFrame
variable {α β : Type}

theorem pure (x : α) : KeepsFrame (pure x : M α) := fun s _ _ h => by cases h; exact .refl s

theorem bind {m : M α} {f : α → M β} (hm : KeepsFrame m) (hf : ∀ x, KeepsFrame (f x)) : KeepsFrame (m >>= f) := fun s y u h => by
  obtain ⟨x, t, hx, hy⟩ := M.of_bind_ok h
  exact (hm s x t hx).trans (hf x t y u hy)

theorem gets (f : State → α) : KeepsFrame (gets f) := fun s _ _ h => by cases h; exact .refl s

theorem mods {f : State → State} (h : ∀ s, Framed s (f s)) : KeepsFrame (mods f) := fun s _ _ hs => by cases hs; exact h s

theorem modMe {f : Ctx → Ctx} (h : ∀ c : Ctx, c.SameFront (f c)) : KeepsFrame (modMe f) := mods fun s => framed_modActor s h

theorem failWith (code : FaultCode) (x : Word) : KeepsFrame (failWith code x : M α) := fun _ _ _ h => by cases h

theorem ite {p : Prop} [Decidable p] {m n : M α} (hm : KeepsFrame m) (hn : KeepsFrame n) : KeepsFrame (if p then m else n) := by
  split_ifs
  · exact hm
  · exact hn

theorem forM {xs : List α} {f : α → M Unit} (h : ∀ x, KeepsFrame (f x)) : KeepsFrame (xs.forM f) := by
  induction xs with
  | nil => exact pure ()
  | cons x xs ih => exact bind (h x) fun _ => ih

theorem guardFault (ok : Bool) (code : FaultCode) (x : Word) : KeepsFrame (guardFault ok code x) :=
  ite (pure ()) (failWith code x)

theorem orRaise (f : Option (FaultCode × Word)) : KeepsFrame (orRaise f) := by
  cases f
  · exact pure ()
  · exact failWith _ _

end KeepsFrame

/-! ## The steps of a beat (05 R97; 09 R190, R191) -/

theorem keepsFrame_checkSources (ps : List Phase) (gov : Word) : KeepsFrame (checkSources ps gov) :=
  .bind (.gets _) fun _ => .bind (.forM fun _ => .orRaise _) fun _ => .bind (.orRaise _) fun _ =>
    .bind (.forM fun _ => .orRaise _) fun _ => .bind (.orRaise _) fun _ => .bind (.forM fun _ => .guardFault _ _ _) fun _ => .pure _

theorem keepsFrame_beginBeats (p : Plan) (h : Hints) : KeepsFrame (beginBeats p h) := by
  refine .bind (.gets _) fun c => .ite (.pure _) (.bind (keepsFrame_checkSources _ _) fun late => .bind (.gets _) fun s => ?_)
  have hlast : KeepsFrame (modMe fun x => { x with eprog := { x.eprog with gov := c.governor h, late := late } }) :=
    .modMe fun _ => ⟨rfl, rfl, rfl, rfl, rfl, rfl, rfl⟩
  dsimp only
  split
  · exact .bind (.orRaise _) fun _ => hlast
  · exact hlast

theorem keepsFrame_takeScalars (srcs : List Opnd) : KeepsFrame (takeScalars srcs) :=
  .modMe fun _ => ⟨rfl, rfl, rfl, rfl, rfl, rfl, rfl⟩

theorem keepsFrame_takeQ0 (o : Opnd) : KeepsFrame (takeQ0 o) := .modMe fun c => by
  dsimp only
  split
  · exact .refl c
  · exact ⟨rfl, rfl, rfl, rfl, rfl, rfl, rfl⟩

theorem keepsFrame_takeStrip (o : Opnd) : KeepsFrame (takeStrip o) := by
  refine .bind (.gets _) fun s => ?_
  dsimp only
  split
  · exact .bind (.mods fun t => framed_learn t _ _) fun _ => .modMe fun _ => ⟨rfl, rfl, rfl, rfl, rfl, rfl, rfl⟩
  · exact .pure ()

theorem keepsFrame_takeBeat (srcs : List Opnd) (lo hi : Nat) : KeepsFrame (takeBeat srcs lo hi) := by
  have hrest : KeepsFrame ((popsOf srcs lo hi).forM takeQ0 >>= fun _ =>
      (srcs.filter fun o => decide (o.kind = .stream)).forM fun o =>
        (List.replicate (o.entries hi - o.entries lo) o).forM takeStrip) :=
    .bind (.forM keepsFrame_takeQ0) fun _ => .forM fun _ => .forM keepsFrame_takeStrip
  exact .ite (.bind (keepsFrame_takeScalars srcs) fun _ => hrest) hrest

theorem keepsFrame_readBeat (srcs : List Opnd) (gov : Word) (lanes lo hi : Nat) : KeepsFrame (readBeat srcs gov lanes lo hi) :=
  .bind (.forM fun _ => .forM fun _ => .mods fun t => framed_learn t _ _) fun _ => .bind (.gets _) fun _ => .pure _

theorem keepsFrame_writeElems (o : Opnd) (lo : Nat) (vals : List (Option Nat)) : KeepsFrame (writeElems o lo vals) := by
  unfold writeElems
  split
  · exact .mods fun t => framed_scatter t _ _ _
  · exact .modMe fun _ => ⟨rfl, rfl, rfl, rfl, rfl, rfl, rfl⟩
  · exact .modMe fun _ => ⟨rfl, rfl, rfl, rfl, rfl, rfl, rfl⟩
  · exact .pure ()

theorem keepsFrame_addFlags (f : BitVec 6) : KeepsFrame (addFlags f) := .modMe fun _ => ⟨rfl, rfl, rfl, rfl, rfl, rfl, rfl⟩

theorem keepsFrame_eachBeat (p : Plan) (h : Hints) (f : Nat → List Nat → Nat × BitVec 6) (b : Nat) :
    KeepsFrame (eachBeat p h f b) := by
  refine .bind (keepsFrame_takeBeat _ _ _) fun _ => .bind (.gets _) fun c => .bind (keepsFrame_readBeat _ _ _ _ _) fun codes =>
    .bind (keepsFrame_addFlags _) fun _ => ?_
  split
  · exact keepsFrame_writeElems _ _ _
  · exact .pure ()

/-- Beats keep what their bodies keep. -/
theorem keepsFrame_runBeats (beats : Nat) (ready : State → Nat → Ready) {body : Nat → M Unit} (hbody : ∀ b, KeepsFrame (body b))
    (fuel : Nat) : KeepsFrame (runBeats beats ready body fuel) := by
  induction fuel with
  | zero => exact .pure _
  | succ fuel ih =>
    refine .bind (.gets _) fun s => .ite (.pure _) ?_
    split
    · exact .pure _
    · exact .pure _
    · exact .bind (hbody _) fun _ => .bind (.modMe fun _ => ⟨rfl, rfl, rfl, rfl, rfl, rfl, rfl⟩) fun _ => ih

/-- The vector driver keeps the frame, whatever views it reads and writes. -/
theorem keepsFrame_runEach (p : Plan) (h : Hints) (f : Nat → List Nat → Nat × BitVec 6) : KeepsFrame (runEach p h f) :=
  .bind (keepsFrame_beginBeats p h) fun _ => keepsFrame_runBeats _ _ (keepsFrame_eachBeat p h f) _

/-- Settles O48: the frame of `runEach`, read at the acting context, whose turn it stays. -/
theorem vectorFrame : Obligations.VectorFrame := by
  unfold Obligations.VectorFrame
  intro s u p h f d hrun
  have hframe := keepsFrame_runEach p h f s d u hrun
  have hactor : s.actor.SameFront u.actor := by
    rw [State.actor, State.actor, hframe.turn]
    exact hframe.ctxs _ _
  exact ⟨hframe.mem, hframe.procs, hframe.parts, hframe.clusters, hframe.turn, hframe.freeCount, hactor.a, hactor.z, hactor.p,
    hactor.flags, hactor.rmode, hactor.outbox, hactor.pc, hframe.pools, fun gov lanes k x => by simp [laneValue, laneOn]⟩

end Sys2Proof.Machine
end

section
/-!
SUPPORT. Tags (06 R116-R118): what their bits are after an issue and an end, and the instructions that read them; the statement O37
put together from them.
-/

namespace Sys2Proof.Machine

/-! ## Changes of the acting core and of what is known, beside the acting context -/

section Beside
variable {s t : State} {c : Ctx}

/-- A core with other contexts. -/
def Core.withCtxs (k : Core) (x : Map Ctx) : Core := { k with ctxs := x }

theorem State.setCore_setCore (s : State) (n : Nat) (x y : Core) : (s.setCore n x).setCore n y = s.setCore n y := by
  simp [State.setCore]

theorem State.core_withActor (s : State) (c : Ctx) :
    (s.withActor c).core s.turn.core = (s.core s.turn.core).withCtxs (put (s.core s.turn.core).ctxs s.turn.ctx c) :=
  State.core_setCore_same s _ _

/-- A change of the acting core that its contexts have no part in. -/
theorem SetTo.modCore (h : SetTo s t c) {f : Core → Core} (hf : ∀ k x, f (k.withCtxs x) = (f k).withCtxs x) :
    SetTo (s.modCore s.turn.core f) (t.modCore s.turn.core f) c := by
  have hctxs : ∀ k, (f k).ctxs = k.ctxs := by
    intro k
    have h := congrArg Core.ctxs (hf k k.ctxs)
    exact h
  have hcore : (s.modCore s.turn.core f).core s.turn.core = f (s.core s.turn.core) := State.core_setCore_same s _ _
  rcases h with ⟨rfl, rfl⟩ | rfl
  · refine .inl ⟨rfl, ?_⟩
    show t.actor = ((t.modCore t.turn.core f).core t.turn.core).ctx t.turn.ctx
    rw [hcore, Core.ctx, hctxs]
    rfl
  · right
    show (s.withActor c).setCore s.turn.core (f ((s.withActor c).core s.turn.core))
      = (s.modCore s.turn.core f).setCore s.turn.core (((s.modCore s.turn.core f).core s.turn.core).withCtxs
        (put ((s.modCore s.turn.core f).core s.turn.core).ctxs s.turn.ctx c))
    rw [State.core_withActor, hf, hcore, hctxs]
    exact (State.setCore_setCore s _ _ _).trans (State.setCore_setCore s _ _ _).symm

theorem SetTo.learn (h : SetTo s t c) (i : Nat) (k : Know) : SetTo (s.learn i k) (t.learn i k) c := by
  rcases h with ⟨rfl, rfl⟩ | rfl
  · exact .inl ⟨rfl, rfl⟩
  · exact .inr rfl

theorem SetTo.agent (h : SetTo s t c) : t.agent = s.agent := by rcases h with ⟨rfl, -⟩ | rfl <;> rfl

theorem SetTo.mem (h : SetTo s t c) : t.mem = s.mem := by rcases h with ⟨rfl, -⟩ | rfl <;> rfl

/-- Of the acting core nothing but a context has changed. -/
theorem SetTo.core (h : SetTo s t c) : ∃ x, t.core t.turn.core = (s.core s.turn.core).withCtxs x := by
  rcases h with ⟨rfl, -⟩ | rfl
  · exact ⟨_, rfl⟩
  · exact ⟨_, s.core_withActor c⟩

end Beside

/-! ## Waiting -/

section Waiting
variable {s t : State} {c : Ctx} {i : Instr} {body : Hints → M Disp} {why : Stall}

/-- A stall of the A half on no queue is noted in the context. -/
theorem State.stall_noted (s : State) (why : Stall) :
    s.stall s.turn.core s.turn.ctx .A why none = s.withActor { s.actor with stallA := why, waitA := none } := by
  unfold State.stall
  dsimp only
  rw [if_neg (by simp [Ctx.deadlocked])]
  split
  · next hq => cases hq
  · rfl

/-- A body that popped operands, put them back and holds. -/
theorem waits_of_hold (h : ReadyA s) (k : SetTo s t c) (hc : ∃ q, c = { s.actor with q3 := q })
    (hi : exec i s = aHalf i body s) (hb : body {} s = holdBack s.actor.q3 (.hold why) t) : Waits s i why := by
  obtain ⟨q, rfl⟩ := hc
  have hk := k.modActor fun x => { x with q3 := s.actor.q3 }
  rw [show ({ ({ s.actor with q3 := q } : Ctx) with q3 := s.actor.q3 } : Ctx) = s.actor from rfl] at hk
  refine ⟨_, hi.trans (aHalf_done h (hb.trans rfl)), ?_⟩
  rw [State.finishA, State.stall_noted, State.actor_withActor, hk.actor]
  exact ⟨rfl, rfl, rfl, rfl, hk.mem⟩

end Waiting

/-! ## What the tag instructions give (06 R117, R118) -/

section Tags
variable {s t u : State} {c c' : Ctx} {d a : BitVec 5} {v w m : Word}

/-- The state after a look at the tags of a mask: a completed one among them is an acquire (06 R117). -/
def State.seenTags (s : State) (m : Word) : State :=
  if (s.core s.turn.core).tagDone &&& m ≠ 0#64 then s.learn s.agent (s.core s.turn.core).tagKnow else s

theorem giveTags_gives (k : SetTo s t c) (hd : c.dest d w = some c') :
    ∃ u, giveTags d w m t = .ok (.retire, u)
      ∧ SetTo (s.seenTags m) u { c' with statusReg := (s.core s.turn.core).tagErr &&& m } := by
  obtain ⟨x, hx⟩ := k.core
  have hsee : ∃ t', (if (t.core t.turn.core).tagDone &&& m ≠ 0#64 then seeTags else pure ()) t = .ok ((), t')
      ∧ SetTo (s.seenTags m) t' c := by
    rw [hx]
    unfold Core.withCtxs State.seenTags
    dsimp only
    split_ifs
    · refine ⟨_, rfl, ?_⟩
      show SetTo _ (t.learn t.agent (t.core t.turn.core).tagKnow) c
      rw [hx, k.agent]
      exact k.learn _ _
    · exact ⟨t, rfl, k⟩
  obtain ⟨t', hsee, k'⟩ := hsee
  obtain ⟨u, hwrite, ku⟩ := writeA_dest k' hd
  refine ⟨_, ?_, ku.modActor fun x => { x with statusReg := (s.core s.turn.core).tagErr &&& m }⟩
  refine (M.bind_ok (gets_run _ t)).trans ((M.bind_ok_if hsee).trans ((M.bind_ok hwrite).trans ?_))
  rw [hx]
  rfl

theorem giveTags_leaves {i : Instr} {body : Hints → M Disp} (h : ReadyA s) (hs : s.actor.source a = some (v, c)) (k : SetTo s t c)
    (hi : exec i s = aHalf i body s) (hb : body {} s = giveTags d w m t) (hd : c.dest d w = some c') :
    LeavesIn s (s.seenTags m) i { c' with statusReg := (s.core s.turn.core).tagErr &&& m } := by
  obtain ⟨u, hgive, ku⟩ := giveTags_gives (m := m) k hd
  have hseen : (s.seenTags m).actor = s.actor := by unfold State.seenTags; split <;> rfl
  obtain ⟨hact, hpc⟩ := Ctx.source_act hs
  obtain ⟨hact', hpc'⟩ := Ctx.dest_act hd
  rw [LeavesIn, hi]
  exact aHalf_retires h (hb.trans hgive) ku (by rw [hseen]; exact hact'.trans hact) (by rw [hseen]; exact hpc'.trans hpc)

/-- A wait on tags that no entry of the outbox names reads its mask and the tags. -/
theorem waitTags_run (hs : s.actor.source a = some (v, c)) (hout : tagInOutbox (v &&& s.self.tagm) s.actor.outbox = false)
    (over' : Word → Word → Bool) : ∃ t, SetTo s t c ∧
      let m := v &&& s.self.tagm
      let done := (s.core s.turn.core).tagDone
      waitTags d a over' s = (if over' done m then giveTags d (done &&& m) m else holdBack s.actor.q3 (.hold .tagWait)) t := by
  obtain ⟨t, hread, k⟩ := readA_source (SetTo.refl s) hs
  obtain ⟨q, rfl⟩ := Ctx.source_keeps hs
  obtain ⟨x, hx⟩ := k.core
  have hseal : sealIf (tagInOutbox (v &&& s.self.tagm)) t = .ok (none, t) := by
    unfold sealIf
    rw [M.bind_ok (me_run t), k.actor, if_neg (by simp [hout])]
    rfl
  refine ⟨t, k, ?_⟩
  refine (M.bind_ok (me_run s)).trans ((M.bind_ok hread).trans ((M.bind_ok (myProc_run t)).trans ?_))
  rw [k.self rfl]
  refine (M.bind_ok hseal).trans ((M.bind_ok (gets_run _ t)).trans ?_)
  rw [hx]
  rfl

theorem waitany_gives (h : ReadyA s) (hs : s.actor.source a = some (v, c)) (hm : m = v &&& s.self.tagm)
    (hout : tagInOutbox m s.actor.outbox = false) (hover : (s.core s.turn.core).tagDone &&& m ≠ 0#64 ∨ m = 0#64)
    (hd : c.dest d ((s.core s.turn.core).tagDone &&& m) = some c') :
    LeavesIn s (s.seenTags m) (.waitany d a) { c' with statusReg := (s.core s.turn.core).tagErr &&& m } := by
  subst hm
  obtain ⟨t, k, hrun⟩ := waitTags_run (d := d) hs hout fun t m => t &&& m ≠ 0#64 || m == 0#64
  dsimp only at hrun
  rw [if_pos (by simpa using hover)] at hrun
  exact giveTags_leaves (body := fun _ => waitTags d a _) h hs k rfl hrun hd

theorem waitany_waits (h : ReadyA s) (hs : s.actor.source a = some (v, c)) (hm : m = v &&& s.self.tagm)
    (hout : tagInOutbox m s.actor.outbox = false) (hnone : (s.core s.turn.core).tagDone &&& m = 0#64) (hmask : m ≠ 0#64) :
    Waits s (.waitany d a) .tagWait := by
  subst hm
  obtain ⟨t, k, hrun⟩ := waitTags_run (d := d) hs hout fun t m => t &&& m ≠ 0#64 || m == 0#64
  dsimp only at hrun
  rw [if_neg (by simp [hnone, hmask])] at hrun
  exact waits_of_hold (body := fun _ => waitTags d a _) h k (Ctx.source_keeps hs) rfl hrun

theorem waitall_gives (h : ReadyA s) (hs : s.actor.source a = some (v, c)) (hm : m = v &&& s.self.tagm)
    (hout : tagInOutbox m s.actor.outbox = false) (hall : (s.core s.turn.core).tagDone &&& m = m) (hd : c.dest d m = some c') :
    LeavesIn s (s.seenTags m) (.waitall d a) { c' with statusReg := (s.core s.turn.core).tagErr &&& m } := by
  subst hm
  obtain ⟨t, k, hrun⟩ := waitTags_run (d := d) hs hout fun t m => t &&& m == m
  dsimp only at hrun
  rw [if_pos (by simpa using hall), hall] at hrun
  exact giveTags_leaves (body := fun _ => waitTags d a _) h hs k rfl hrun hd

theorem waitall_waits (h : ReadyA s) (hs : s.actor.source a = some (v, c)) (hm : m = v &&& s.self.tagm)
    (hout : tagInOutbox m s.actor.outbox = false) (hsome : (s.core s.turn.core).tagDone &&& m ≠ m) :
    Waits s (.waitall d a) .tagWait := by
  subst hm
  obtain ⟨t, k, hrun⟩ := waitTags_run (d := d) hs hout fun t m => t &&& m == m
  dsimp only at hrun
  rw [if_neg (by simpa using hsome)] at hrun
  exact waits_of_hold (body := fun _ => waitTags d a _) h k (Ctx.source_keeps hs) rfl hrun

theorem ffr_gives (h : ReadyA s) (hs : s.actor.source a = some (v, c)) (hm : m = v &&& s.self.tagm)
    (hd : c.dest d (BitVec.ofNat 64 (lowestBit ((s.core s.turn.core).tagDone &&& m))) = some c') :
    LeavesIn s (s.seenTags m) (.ffr d a) { c' with statusReg := (s.core s.turn.core).tagErr &&& m } := by
  subst hm
  obtain ⟨t, hread, k⟩ := readA_source (SetTo.refl s) hs
  obtain ⟨x, hx⟩ := k.core
  refine giveTags_leaves (body := fun _ => _) h hs k rfl ?_ hd
  refine (M.bind_ok hread).trans ((M.bind_ok (myProc_run t)).trans ((M.bind_ok (gets_run _ t)).trans ?_))
  rw [k.self (Ctx.source_act hs).1, hx]
  rfl

theorem tagclr_leaves (h : ReadyA s) (hs : s.actor.source a = some (v, c)) :
    LeavesIn s (s.modCore s.turn.core fun k => { k with tagErr := k.tagErr &&& ~~~(v &&& s.self.tagm) }) (.tagclr a) c := by
  obtain ⟨t, hread, k⟩ := readA_source (SetTo.refl s) hs
  obtain ⟨hact, hpc⟩ := Ctx.source_act hs
  have hset := k.modCore (f := fun k => { k with tagErr := k.tagErr &&& ~~~(v &&& s.self.tagm) }) fun _ _ => rfl
  have hactor : (s.modCore s.turn.core fun k => { k with tagErr := k.tagErr &&& ~~~(v &&& s.self.tagm) }).actor = s.actor :=
    ((SetTo.refl s).modCore (f := fun k => { k with tagErr := k.tagErr &&& ~~~(v &&& s.self.tagm) }) fun _ _ => rfl).actor
  refine aHalf_retires (body := fun _ => _) h ?_ hset (by rw [hactor]; exact hact) (by rw [hactor]; exact hpc)
  refine (M.bind_ok hread).trans ((M.bind_ok (myProc_run t)).trans ?_)
  rw [k.self hact, ← k.turn]
  rfl

end Tags

/-! ## The bits of a tag (06 R116) -/

theorem getLsbD_setBit (w : Word) {k j : Nat} (v : Bool) (hj : j < 64) :
    (setBit w k v).getLsbD j = if j = k then v else w.getLsbD j := by
  have hone : (1#64 <<< k).getLsbD j = decide (j = k) := by
    rw [BitVec.getLsbD_shiftLeft, BitVec.getLsbD_one]
    simp only [hj, decide_true, Bool.true_and, ← decide_not, ← Bool.decide_and, decide_eq_decide]
    omega
  unfold setBit
  cases v
  · rw [if_neg (by simp), BitVec.getLsbD_and, BitVec.getLsbD_not, hone]
    by_cases hk : j = k <;> simp [hk, hj]
  · rw [if_pos rfl, BitVec.getLsbD_or, hone]
    by_cases hk : j = k <;> simp [hk]

theorem lowestBit_zero : lowestBit 0#64 = 64 := by decide

theorem lowestBit_lowest {w : Word} (h : w ≠ 0#64) :
    lowestBit w < 64 ∧ w.getLsbD (lowestBit w) = true ∧ ∀ j, j < lowestBit w → w.getLsbD j = false := by
  have hbit : ∃ j, j < 64 ∧ w.getLsbD j = true := by
    by_contra hno
    push Not at hno
    exact h (BitVec.eq_of_getLsbD_eq fun j hj => by simpa using hno j hj)
  obtain ⟨j0, hj0, hset⟩ := hbit
  unfold lowestBit
  rw [rangeFrom_zero]
  cases hfind : (List.range 64).find? fun k => w.getLsbD k with
  | none =>
    rw [List.find?_eq_none] at hfind
    exact absurd hset (by simpa using hfind j0 (List.mem_range.mpr hj0))
  | some k =>
    rw [List.find?_range_eq_some] at hfind
    obtain ⟨hk, hmem, hbefore⟩ := hfind
    exact ⟨List.mem_range.mp hmem, hk, fun j hj => by simpa using hbefore j hj⟩

section Counts
variable (k : Core) {t j : Nat} (err : Bool)

theorem Core.tagIssue_eq : k.tagIssue t = { k with
    tagDone := if k.tagCount t = 0 then setBit k.tagDone t false else k.tagDone
    tagErr := if k.tagCount t = 0 then setBit k.tagErr t false else k.tagErr
    tagCnt := put k.tagCnt t (k.tagCount t + 1) } := by
  unfold Core.tagIssue
  by_cases h : k.tagCount t = 0
  · simp only [if_pos h]; rfl
  · simp only [if_neg h]

theorem Core.tagEnd_eq : k.tagEnd t err = { k with
    tagDone := if k.tagCount t ≤ 1 then setBit k.tagDone t true else k.tagDone
    tagErr := if err then setBit k.tagErr t true else k.tagErr
    tagCnt := put k.tagCnt t (k.tagCount t - 1) } := by
  have h : k.tagCount t ≤ 1 ↔ k.tagCount t - 1 = 0 := by omega
  unfold Core.tagEnd
  simp only [h]
  by_cases hlast : k.tagCount t - 1 = 0 <;> cases err <;> simp only [hlast, if_true, if_false] <;> rfl

theorem Core.tagCount_tagIssue : (k.tagIssue t).tagCount t = k.tagCount t + 1 := by
  rw [k.tagIssue_eq]
  exact find_put_same _ _ _ _

theorem Core.tagCount_tagEnd_same : (k.tagEnd t err).tagCount t = k.tagCount t - 1 := by
  rw [k.tagEnd_eq]
  exact find_put_same _ _ _ _

theorem Core.tagCount_tagEnd_other (h : j ≠ t) : (k.tagEnd t err).tagCount j = k.tagCount j := by
  rw [k.tagEnd_eq]
  exact find_put_other _ _ _ _ _ h

theorem Core.tagDone_tagIssue : (k.tagIssue t).tagDone = if k.tagCount t = 0 then setBit k.tagDone t false else k.tagDone := by
  rw [k.tagIssue_eq]

theorem Core.tagErr_tagIssue : (k.tagIssue t).tagErr = if k.tagCount t = 0 then setBit k.tagErr t false else k.tagErr := by
  rw [k.tagIssue_eq]

theorem Core.tagDone_tagEnd : (k.tagEnd t err).tagDone = if k.tagCount t ≤ 1 then setBit k.tagDone t true else k.tagDone := by
  rw [k.tagEnd_eq]

theorem Core.tagErr_tagEnd : (k.tagEnd t err).tagErr = if err then setBit k.tagErr t true else k.tagErr := by
  rw [k.tagEnd_eq]

end Counts

/-- Settles O37: the waits read the tags of their mask (`waitTags_run`), and the bits of a tag follow `setBit`. -/
theorem tagsCountAndAreAwaited : Obligations.TagsCountAndAreAwaited := by
  unfold Obligations.TagsCountAndAreAwaited
  refine ⟨fun s d a v c h hs => ⟨fun hout => ⟨fun hover c' hd => waitany_gives h hs rfl hout hover hd,
      fun hall c' hd => waitall_gives h hs rfl hout hall hd, fun hnone hmask => waitany_waits h hs rfl hout hnone hmask,
      fun hsome => waitall_waits h hs rfl hout hsome⟩,
    ⟨_, fun hnone => by rw [hnone]; exact lowestBit_zero, lowestBit_lowest, fun c' hd => ffr_gives h hs rfl hd⟩,
    tagclr_leaves h hs⟩, fun k t j err ht hj => ⟨k.tagCount_tagIssue, k.tagCount_tagEnd_same err, fun hzero => ?_,
      fun hlast => ?_, fun hmore => ?_, ?_, fun hother => ⟨?_, ?_, ?_, k.tagCount_tagEnd_other err hother⟩⟩⟩
  · rw [k.tagDone_tagIssue, k.tagErr_tagIssue, if_pos hzero, if_pos hzero, getLsbD_setBit _ _ ht, getLsbD_setBit _ _ ht]
    simp
  · rw [k.tagDone_tagEnd, if_pos hlast, getLsbD_setBit _ _ ht, if_pos rfl]
  · rw [k.tagDone_tagEnd, if_neg (by omega)]
  · rw [k.tagErr_tagEnd]
    cases err
    · simp
    · simp [getLsbD_setBit _ _ ht]
  · rw [k.tagDone_tagIssue]
    split_ifs
    · rw [getLsbD_setBit _ _ hj, if_neg hother]
    · rfl
  · rw [k.tagDone_tagEnd]
    split_ifs
    · rw [getLsbD_setBit _ _ hj, if_neg hother]
    · rfl
  · rw [k.tagErr_tagEnd]
    split_ifs
    · rw [getLsbD_setBit _ _ hj, if_neg hother]
    · rfl

end Sys2Proof.Machine
end

section
/-!
SUPPORT. A barrier in a pool that is not canonical: the state that refutes O38.
-/

namespace Sys2Proof.Machine

/-- A complete barrier of generation 15 (06 R137), whose lowest byte the pool of core 1 lists twice; a1 holds the generation. No run
reaches such a pool: writes keep a pool's addresses rising. -/
def doubledBarrier : State :=
  ((State.reset.modProc 0 fun p => { p with core := 1, state := .resident, regions := [(0, (0x7000, 0x400))] }).modCore 1 fun c =>
    { c with pool := [(0x7000, 15#8), (0x7000, 15#8)] }).withActor { status := .running, a := (Vector.replicate 32 0#64).set 1 15#64 }

/-- The state after the controller's test of the barrier. -/
def doubledTested : State := doubledBarrier.setUnroll.barWrite 1 0x7000 0 15#128 [] none

theorem readyA_doubledBarrier : ReadyA doubledBarrier := ⟨rfl, rfl, rfl, rfl, rfl, rfl⟩

/-- The write of generation 0 takes the first entry of the byte away and uncovers the second: BARWAIT still sees generation 15, and
waits. -/
theorem barwait_doubledBarrier : ∃ t, exec (.barwait 0#5 1#5) doubledBarrier = .next t ∧ t.actor.pend.isSome = true :=
  ⟨_, rfl, rfl⟩

/-- Refutes O38: by its clause on BARWAIT the controller's test of a complete barrier ends the wait. The clause does not ask that the
pool is canonical (`Memory.wf`), without which a write does not read back: `doubledBarrier` is such a state. -/
theorem not_barriersArriveAndWait : ¬Obligations.BarriersArriveAndWait := by
  unfold Obligations.BarriersArriveAndWait
  intro h
  obtain ⟨-, -, -, -, -, hcomplete, -⟩ := h.1 doubledBarrier 0#5 1#5 0#5 0#64 15#64 _ _ 1 0x7000 readyA_doubledBarrier rfl rfl rfl
    rfl rfl
  have hwait := hcomplete (by decide) (by decide) (by decide) doubledTested (.inr ⟨by decide, _, rfl, by decide⟩)
  obtain ⟨t, ht, hpend⟩ := barwait_doubledBarrier
  rw [LeavesIn, ht, Host.Outcome.next.injEq] at hwait
  rw [hwait] at hpend
  exact absurd hpend (by decide)

end Sys2Proof.Machine
end

section
/-!
SUPPORT. The issue of the COPY group (06 R113-R116, R124-R135): the checks that hold, the command a context makes, its place in the
outbox; the statement O39 put together from them.
-/

namespace Sys2Proof.Machine

/-! ## Checks and operands -/

section Checks
variable {s : State}

/-- Without HMOD's ORD there is nothing to refuse (08 R187). -/
theorem ordRule_plain (i : Instr) (remote : Bool) (s : State) : ordRule i {} remote s = .ok ((), s) := rfl

theorem copyTag_allowed {n : Nat} (h : s.self.tagm.getLsbD n = true) : copyTag n s = .ok ((), s) :=
  (M.bind_ok (myProc_run s)).trans (guardFault_holds h _ _ s)

theorem plainBox_of_sizeRules {b : Box} (h : sizeRules b s = .ok ((), s)) (hred : layRed b.entry = false) :
    plainBox b s = .ok ((), s) :=
  (M.bind_ok h).trans (guardFault_holds (by rw [hred]; rfl) _ _ s)

theorem readA_register {r : BitVec 5} (h30 : r ≠ 30#5) (h31 : r ≠ 31#5) : readA r s = .ok (regOf s.actor r, s) := by
  unfold readA
  by_cases h0 : r = 0#5
  · subst h0; rfl
  · rw [if_neg h0, if_neg h30, if_neg h31, M.bind_ok (me_run s)]
    simp [regOf, h0]

theorem forM_boxInRange {boxes : List Box} (h : ∀ b ∈ boxes, boxInRange b s = .ok ((), s)) :
    boxes.forM boxInRange s = .ok ((), s) := by
  induction boxes with
  | nil => rfl
  | cons b bs ih =>
    exact (M.bind_ok (h b List.mem_cons_self)).trans (ih fun x hx => h x (List.mem_cons_of_mem _ hx))

end Checks

/-! ## The issue (R113-R116) -/

section Issue
variable {s s' u : State} {c0 : Ctx} {t : BitVec 6} {boxes : List Box} {also : M Unit} {i : Instr} {body : Hints → M Disp}

/-- The command that a context makes without hints. -/
def State.newCmd (s : State) (op : CopyOp) (tag : Nat) : CopyCmd :=
  { op := op, tag := tag, rnd := s.actor.rmode.toNat, core := s.turn.core, ctx := s.turn.ctx, name := s.activity.name
    act := s.activity.id, handler := s.activity.handler, agent := engineAgent s.fresh s.agent, super := s.activity.super }

theorem newCopy_run (op : CopyOp) (tag : Nat) (s : State) : newCopy op tag {} s = .ok (s.newCmd op tag, s) := rfl

theorem Core.tagIssue_withCtxs (n : Nat) (k : Core) (x : Map Ctx) : (k.withCtxs x).tagIssue n = (k.tagIssue n).withCtxs x := by
  rw [Core.tagIssue_eq, Core.tagIssue_eq]
  rfl

/-- A state with another number to give out next. -/
def State.withFresh (s : State) (n : Nat) : State := { s with fresh := n }

theorem SetTo.withFresh {s t : State} {c : Ctx} (h : SetTo s t c) (n : Nat) : SetTo (s.withFresh n) (t.withFresh n) c := by
  rcases h with ⟨rfl, rfl⟩ | rfl
  · exact .inl ⟨rfl, rfl⟩
  · exact .inr rfl

theorem SetTo.fresh_eq {s t : State} {c : Ctx} (h : SetTo s t c) : t.fresh = s.fresh := by
  rcases h with ⟨rfl, -⟩ | rfl <;> rfl

theorem readyOut_room {e : OutEntry} (h : RoomFor s.actor e.size) : readyOut e s = .ok (none, s) := by
  obtain ⟨hopen, hlen, hbytes⟩ := h
  unfold readyOut
  rw [M.bind_ok (me_run s), if_pos (by simp [hopen, hlen, hbytes])]
  rfl

/-- The state of an issue beside the acting context: a number is given out, the tag counts the command. -/
def State.issued (s : State) (tag : Nat) : State :=
  (s.withFresh (s.fresh + 1)).modCore s.turn.core fun k => k.tagIssue tag

theorem SetTo.issued {s t : State} {c : Ctx} (h : SetTo s t c) (tag : Nat) : SetTo (s.issued tag) (t.issued tag) c := by
  have hnext := (h.withFresh (s.fresh + 1)).modCore (f := fun k => k.tagIssue tag) (Core.tagIssue_withCtxs tag)
  unfold State.issued
  rw [h.fresh_eq, h.turn]
  exact hnext

theorem State.actor_issued (s : State) (tag : Nat) : (s.issued tag).actor = s.actor := ((SetTo.refl s).issued tag).actor

/-- A command that passes its checks stands in the outbox, after what the instruction does besides. -/
theorem issueCopy_run {c : CopyCmd} (hm : MayIssue s t boxes) (q3 : List Word) (hc : c.tag = t.toNat)
    (halso : also s = .ok ((), u)) (k : SetTo s' u c0) (hopen : c0.sealed = false) :
    ∃ w, issueCopy c {} boxes q3 also s = .ok (.retire, w)
      ∧ SetTo (s'.issued c.tag) w { c0 with outbox := c0.outbox ++ [.copy { c with bar := none }] } := by
  obtain ⟨-, hcount, hroom, hboxes⟩ := hm
  have hput : putOut (.copy { c with bar := none }) (u.issued c.tag)
      = .ok ((), (u.issued c.tag).modActor fun x => { x with outbox := x.outbox ++ [.copy { c with bar := none }] }) := by
    unfold putOut
    rw [M.bind_ok (me_run _), (k.issued c.tag).actor, hopen]
    rfl
  refine ⟨_, ?_, (k.issued c.tag).modActor fun x => { x with outbox := x.outbox ++ [.copy { c with bar := none }] }⟩
  unfold issueCopy
  refine (M.bind_ok (forM_boxInRange hboxes)).trans ((M.bind_ok (pure_run none s)).trans ((M.bind_ok (gets_run _ s)).trans ?_))
  rw [if_neg (by rw [hc]; omega)]
  unfold sendEntry
  refine (M.bind_ok (readyOut_room hroom)).trans ?_
  have hafter : (also >>= fun _ => mods (fun s => s.takeFresh.2) >>= fun _ => modMyCore fun k => k.tagIssue c.tag) s
      = .ok ((), u.issued c.tag) := M.bind_ok halso
  exact (M.bind_ok hafter).trans (M.bind_ok hput)

/-- An instruction that comes to the issue of a command made from `newCmd`. -/
theorem issuesCopy_of_body {c : CopyCmd} {P : CopyCmd → Prop} (h : ReadyA s) (hm : MayIssue s t boxes)
    (hi : exec i s = aHalf i body s) (hb : body {} s = issueCopy c {} boxes s.actor.q3 also s) (halso : also s = .ok ((), u))
    (k : SetTo s' u c0) (hturn : s'.turn = s.turn) (hopen : c0.sealed = s.actor.sealed) (hact : c0.act = s'.actor.act)
    (hpc : c0.pc = s'.actor.pc) (hP : P { c with bar := none })
    (hc : c.tag = t.toNat ∧ c.core = s.turn.core ∧ c.ctx = s.turn.ctx ∧ c.name = s.activity.name ∧ c.super = s.activity.super
      ∧ c.rnd = s.actor.rmode.toNat ∧ c.sat = false ∧ c.begun = false) : IssuesCopy s s' i t c0 P := by
  obtain ⟨htag, hcore, hctx, hname, hsuper, hrnd, hsat, hbegun⟩ := hc
  obtain ⟨w, hrun, kw⟩ := issueCopy_run hm s.actor.q3 htag halso k (hopen.trans hm.2.2.1.1)
  rw [show s'.issued c.tag = s'.issued t.toNat by rw [htag]] at kw
  refine ⟨_, hP, htag, hcore, hctx, hname, hsuper, rfl, hrnd, hsat, hbegun, ?_⟩
  rw [← hturn, LeavesIn, hi]
  exact aHalf_retires h (hb.trans hrun) kw (hact.trans (congrArg Ctx.act (s'.actor_issued t.toNat).symm))
    (hpc.trans (congrArg Ctx.pc (s'.actor_issued t.toNat).symm))

/-- The same where the instruction does nothing besides. -/
theorem issuesCopy_plain {c : CopyCmd} {P : CopyCmd → Prop} (h : ReadyA s) (hm : MayIssue s t boxes)
    (hi : exec i s = aHalf i body s) (hb : body {} s = issueCopy c {} boxes s.actor.q3 (pure ()) s) (hP : P { c with bar := none })
    (hc : c.tag = t.toNat ∧ c.core = s.turn.core ∧ c.ctx = s.turn.ctx ∧ c.name = s.activity.name ∧ c.super = s.activity.super
      ∧ c.rnd = s.actor.rmode.toNat ∧ c.sat = false ∧ c.begun = false) : IssuesCopy s s i t s.actor P :=
  issuesCopy_of_body h hm hi hb (pure_run () s) (SetTo.refl s) rfl rfl rfl rfl hP hc

end Issue

/-! ## The instructions -/

section Commands
variable {s : State} {d a x : BitVec 5} {t : BitVec 6} {p q r : Box}

theorem cpy_issues (h : ReadyA s) (hd : BoxIs s d p) (ha : BoxIs s a q) (hm : MayIssue s t [p, q]) (hcount : p.count = q.count)
    (hp : sizeRules p s = .ok ((), s)) (hq : sizeRules q s = .ok ((), s)) :
    IssuesCopy s s (.cpy d a t) t s.actor (fun c => c.op = .cpy ∧ c.dst = p ∧ c.src = q ∧ c.count = p.count) := by
  refine issuesCopy_plain (c := { s.newCmd .cpy t.toNat with dst := p, src := q, count := p.count }) h hm
    (rfl : execCpy d a t s = aHalf _ _ s) ?_
    ⟨rfl, rfl, rfl, rfl⟩ ⟨rfl, rfl, rfl, rfl, rfl, rfl, rfl, rfl⟩
  refine (M.bind_ok (me_run s)).trans ((M.bind_ok hd).trans ((M.bind_ok ha).trans ((M.bind_ok (copyTag_allowed hm.1)).trans ?_)))
  refine (M.bind_ok (ordRule_plain _ _ s)).trans ((M.bind_ok (require_holds (by simpa using hcount) s)).trans ?_)
  exact (M.bind_ok hp).trans ((M.bind_ok hq).trans (M.bind_ok (newCopy_run _ _ s)))

theorem cpyred_issues (h : ReadyA s) (hd : BoxIs s d p) (ha : BoxIs s a q) (hm : MayIssue s t [p, q]) (hcount : p.count = q.count)
    (hp : sizeRules p s = .ok ((), s)) (hq : sizeRules q s = .ok ((), s)) (hdest : redDest p.entry = true)
    (hty : isF (layType q.entry) = true) (hred : layRed q.entry = false) :
    IssuesCopy s s (.cpyred d a t) t s.actor (fun c => c.op = .cpyred ∧ c.dst = p ∧ c.src = q ∧ c.count = p.count) := by
  refine issuesCopy_plain (c := { s.newCmd .cpyred t.toNat with dst := p, src := q, count := p.count }) h hm
    (rfl : execCpyred d a t s = aHalf _ _ s)
    ?_ ⟨rfl, rfl, rfl, rfl⟩ ⟨rfl, rfl, rfl, rfl, rfl, rfl, rfl, rfl⟩
  refine (M.bind_ok (me_run s)).trans ((M.bind_ok hd).trans ((M.bind_ok ha).trans ((M.bind_ok (copyTag_allowed hm.1)).trans ?_)))
  refine (M.bind_ok (ordRule_plain _ _ s)).trans ((M.bind_ok (require_holds (by simp [hcount, hdest, hty]) s)).trans ?_)
  exact (M.bind_ok hp).trans ((M.bind_ok (plainBox_of_sizeRules hq hred)).trans (M.bind_ok (newCopy_run _ _ s)))

theorem gath_issues (h : ReadyA s) (hd : BoxIs s d p) (ha : BoxIs s a q) (hx : BoxIs s x r) (hm : MayIssue s t [p, q, r])
    (hrows : rowRules q p r s = .ok ((), s)) : IssuesCopy s s (.gath d a x t) t s.actor
      (fun c => c.op = .gath ∧ c.dst = p ∧ c.src = q ∧ c.idx = r ∧ c.count = p.count) := by
  refine issuesCopy_plain (c := { s.newCmd .gath t.toNat with dst := p, src := q, idx := r, count := p.count })
    h hm
    (rfl : execGath d a x t s = aHalf _ _ s) ?_ ⟨rfl, rfl, rfl, rfl, rfl⟩ ⟨rfl, rfl, rfl, rfl, rfl, rfl, rfl, rfl⟩
  refine (M.bind_ok (me_run s)).trans ((M.bind_ok hd).trans ((M.bind_ok ha).trans ((M.bind_ok hx).trans ?_)))
  refine (M.bind_ok (copyTag_allowed hm.1)).trans ((M.bind_ok (ordRule_plain _ _ s)).trans ?_)
  exact (M.bind_ok hrows).trans (M.bind_ok (newCopy_run _ _ s))

theorem scat_issues (h : ReadyA s) (hd : BoxIs s d p) (ha : BoxIs s a q) (hx : BoxIs s x r) (hm : MayIssue s t [p, q, r])
    (hrows : rowRules p q r s = .ok ((), s)) : IssuesCopy s s (.scat d a x t) t s.actor
      (fun c => c.op = .scat ∧ c.dst = p ∧ c.src = q ∧ c.idx = r ∧ c.count = q.count) := by
  refine issuesCopy_plain (c := { s.newCmd .scat t.toNat with dst := p, src := q, idx := r, count := q.count })
    h hm
    (rfl : execScat d a x t s = aHalf _ _ s) ?_ ⟨rfl, rfl, rfl, rfl, rfl⟩ ⟨rfl, rfl, rfl, rfl, rfl, rfl, rfl, rfl⟩
  refine (M.bind_ok (me_run s)).trans ((M.bind_ok hd).trans ((M.bind_ok ha).trans ((M.bind_ok hx).trans ?_)))
  refine (M.bind_ok (copyTag_allowed hm.1)).trans ((M.bind_ok (ordRule_plain _ _ s)).trans ?_)
  exact (M.bind_ok hrows).trans (M.bind_ok (newCopy_run _ _ s))

end Commands

/-! ## HALO (R129) -/

section Halo
variable {s : State} {a o k : BitVec 5} {t : BitVec 6} {q : Box}

/-- A HALO may send: its box is plain and small enough, its registers are named, its landing offset is in range. -/
structure MayHalo (s : State) (a o k : BitVec 5) (t : BitVec 6) (q : Box) : Prop where
  box : BoxIs s a q
  issue : MayIssue s t [q]
  plain : plainBox q s = .ok ((), s)
  small : q.strips * 64 ≤ 8192
  offReg : o ≠ 30#5 ∧ o ≠ 31#5
  maskReg : k ≠ 30#5 ∧ k ≠ 31#5
  granule : (regOf s.actor o).toNat % 64 = 0
  region : (regOf s.actor o).toNat < 8192

/-- The names that a mask chooses among the neighbours N, S, E and W. -/
def Proc.haloNames (p : Proc) (mask : Word) : List Nat :=
  (rangeFrom 0 4).map fun j => if mask.getLsbD j then ((p.nbr.toList).getD j 0#32).toNat else 0

theorem Proc.getD_haloNames (p : Proc) (mask : Word) (j : Fin 4) :
    (p.haloNames mask).getD j.val 0 = if mask.getLsbD j.val then (p.nbr[j]).toNat else 0 := by
  simp [Proc.haloNames, rangeFrom_zero]

/-- The command of a HALO. -/
def State.haloCmd (s : State) (o k : BitVec 5) (tag : Nat) (q : Box) : CopyCmd :=
  { s.newCmd .halo tag with src := q, off := (regOf s.actor o).toNat, names := s.self.haloNames (regOf s.actor k), count := q.count }

/-- A HALO passes its checks and comes to its two ends. -/
theorem halo_checked (hh : MayHalo s a o k t q) (hmask : (regOf s.actor k).toNat < 16) :
    ∃ body, exec (.halo o a k t) s = aHalf (.halo o a k t) body s ∧ body {} s =
      (if regOf s.actor k = 0#64 then
        boxInRange q >>= fun _ => namedBar {} >>= fun bar => myCore >>= fun core =>
          if 32 ≤ core.tagCount t.toNat then waitFor .scoreboard
          else modMyCore (fun k => k.tagIssue t.toNat) >>= fun _ =>
            mods (fun u => u.endCopy { s.haloCmd o k t.toNat q with bar := bar } .done) >>= fun _ => pure .retire
      else issueCopy (s.haloCmd o k t.toNat q) {} [q] s.actor.q3 (pure ())) s := by
  refine ⟨_, (rfl : execHalo o a k t s = aHalf _ _ s), ?_⟩
  refine (M.bind_ok (me_run s)).trans ((M.bind_ok (readA_register hh.offReg.1 hh.offReg.2)).trans ?_)
  refine (M.bind_ok (readA_register hh.maskReg.1 hh.maskReg.2)).trans ((M.bind_ok hh.box).trans ?_)
  refine (M.bind_ok (copyTag_allowed hh.issue.1)).trans ((M.bind_ok (require_holds (by simpa using hmask) s)).trans ?_)
  refine (M.bind_ok (require_holds (by simp [hh.granule, hh.region]) s)).trans ((M.bind_ok hh.plain).trans ?_)
  refine (M.bind_ok (require_holds (by simpa using hh.small) s)).trans ((M.bind_ok (myProc_run s)).trans ?_)
  exact M.bind_ok (newCopy_run _ _ s)

theorem halo_issues (h : ReadyA s) (hh : MayHalo s a o k t q) (hpos : 0 < (regOf s.actor k).toNat)
    (hmask : (regOf s.actor k).toNat < 16) : IssuesCopy s s (.halo o a k t) t s.actor
      (fun c => c.op = .halo ∧ c.src = q ∧ c.off = (regOf s.actor o).toNat
        ∧ (∀ j : Fin 4, c.names.getD j.val 0 = if (regOf s.actor k).getLsbD j.val then (s.self.nbr[j]).toNat else 0)) := by
  obtain ⟨body, hi, hb⟩ := halo_checked hh hmask
  have hne : regOf s.actor k ≠ 0#64 := by
    intro h0
    rw [h0] at hpos
    simp at hpos
  rw [if_neg hne] at hb
  exact issuesCopy_plain h hh.issue hi hb ⟨rfl, rfl, rfl, s.self.getD_haloNames _⟩ ⟨rfl, rfl, rfl, rfl, rfl, rfl, rfl, rfl⟩

/-- A HALO that sends to no neighbour ends at once. -/
theorem halo_ends (h : ReadyA s) (hh : MayHalo s a o k t q) (hzero : (regOf s.actor k).toNat = 0) :
    let u := (s.modCore s.turn.core fun k => k.tagIssue t.toNat).endCopy (s.haloCmd o k t.toNat q) .done
    LeavesIn s u (.halo o a k t) u.actor := by
  obtain ⟨body, hi, hb⟩ := halo_checked hh (by omega)
  rw [if_pos (BitVec.eq_of_toNat_eq hzero)] at hb
  obtain ⟨-, hcount, -, hboxes⟩ := hh.issue
  rw [LeavesIn, hi]
  refine aHalf_retires h (hb.trans ?_) (SetTo.refl _) rfl rfl
  refine (M.bind_ok (hboxes q List.mem_cons_self)).trans ((M.bind_ok (pure_run none s)).trans ((M.bind_ok (gets_run _ s)).trans ?_))
  rw [if_neg (by omega)]
  rfl

end Halo

/-! ## STRM and FILLW (R131, R133), CPYCAN (R135) -/

section Windows
variable {s : State} {v b w : BitVec 5} {t : BitVec 6} {q : Box}

/-- A view that no stream feeds has no stream to end (R132). -/
theorem State.endStream_idle {core ctx view : Nat} (h : ((s.ctx core ctx).streams.any fun t => t.1 = view) = false) :
    s.endStream core ctx view = s := by
  unfold State.endStream
  rw [if_neg (by rw [h]; simp)]

/-- What STRM does to its context: the stream of its view ends, the view is armed and fed from a ring (R131, R132). -/
def armStream (v : BitVec 5) (z : BitVec 256) (q : Box) : M Unit := do
  mods fun s => s.endStream s.turn.core s.turn.ctx v.toNat
  setZ v (streamView z (layType q.entry) q.count)
  modMe fun c => { c with streams := c.streams ++ [(v.toNat, zOffset z, q.strips, 0, 0, false)] }

theorem strm_issues (h : ReadyA s) (hbox : BoxIs s b q) (hm : MayIssue s t [q]) (hplain : plainBox q s = .ok ((), s)) {z : BitVec 256}
    (hz : z = s.actor.z[v.toNat]'v.isLt) (hspace : zSpace z = 0) (hoff : zOffset z % 64 = 0)
    (hfits : zOffset z + 512 ≤ rsBytes (s.core s.turn.core).partw)
    (hidle : (s.actor.streams.any fun t => t.1 = v.toNat) = false) :
    IssuesCopy s s (.strm v b t) t
      { s.actor with
        z := s.actor.z.set v.toNat (streamView z (layType q.entry) q.count) v.isLt
        streams := s.actor.streams ++ [(v.toNat, zOffset z, q.strips, 0, 0, false)] }
      (fun c => c.op = .strm ∧ c.src = q ∧ c.view = v.toNat ∧ c.base = zOffset z ∧ c.count = q.count) := by
  subst hz
  have hview := ((SetTo.refl s).modActor fun c => { c with
    z := c.z.set v.toNat (streamView (s.actor.z[v.toNat]'v.isLt) (layType q.entry) q.count) v.isLt }).modActor fun c => { c with
      streams := c.streams ++ [(v.toNat, zOffset (s.actor.z[v.toNat]'v.isLt), q.strips, 0, 0, false)] }
  refine issuesCopy_of_body (also := armStream v (s.actor.z[v.toNat]'v.isLt) q) (c := { s.newCmd .strm t.toNat with
      src := q, view := v.toNat, base := zOffset (s.actor.z[v.toNat]'v.isLt), count := q.count }) h hm
    (rfl : execStrm v b t s = aHalf _ _ s) ?_ ?_ hview rfl rfl rfl rfl
    ⟨rfl, rfl, rfl, rfl, rfl⟩ ⟨rfl, rfl, rfl, rfl, rfl, rfl, rfl, rfl⟩
  · refine (M.bind_ok (me_run s)).trans ((M.bind_ok hbox).trans ((M.bind_ok (copyTag_allowed hm.1)).trans ?_))
    refine (M.bind_ok (ordRule_plain _ _ s)).trans ((M.bind_ok hplain).trans ((M.bind_ok (gets_run _ s)).trans ?_))
    exact (M.bind_ok (require_holds (by simp [hspace, hoff, hfits]) s)).trans (M.bind_ok (newCopy_run _ _ s))
  · refine (M.bind_ok (mods_run _ s)).trans ?_
    rw [State.endStream_idle hidle]
    exact (M.bind_ok (modMe_run _ s)).trans (modMe_run _ _)

/-- The state in which FILLW has loaded window `w` for the acting process. -/
def State.loadWindow (s : State) (w : Nat) (hw : w < 8) (x : Word) : State :=
  s.modCore s.turn.core fun k => { k with fwin := k.fwin.set w x hw, fwOwner := put k.fwOwner w s.activity.name }

/-- Where the range that FILLW fills begins: in the pool, or at an offset of another space. -/
def Opnd.fillBase (o : Opnd) (z : BitVec 256) : Nat := match o.kind with
  | .pool x => x + zOffset z
  | _ => zOffset z

theorem State.setTo_loadWindow (s : State) {w : Nat} (hw : w < 8) (x : Word) :
    SetTo (s.loadWindow w hw x) (s.loadWindow w hw x) s.actor := (SetTo.refl s).modCore fun _ _ => rfl

theorem fillw_issues (h : ReadyA s) (hbox : BoxIs s b q) (hm : MayIssue s t [q]) (hplain : plainBox q s = .ok ((), s)) {z : BitVec 256}
    {o : Opnd} (hz : z = s.actor.z[v.toNat]'v.isLt) (hfill : fillable z = true) (hview : viewOpnd v.toNat true s = .ok (o, s))
    (hcount : q.count = zDim z 0) (hw : w.toNat < 8) (hidle : fwActive ((s.core s.turn.core).fwin[w.toNat]) = false) :
    IssuesCopy s (s.loadWindow w.toNat hw (fillWord z s.turn.ctx)) (.fillw v b w t) t s.actor
      (fun c => c.op = .fillw ∧ c.src = q ∧ c.win = w.toNat ∧ c.ty = zType z ∧ c.count = q.count) := by
  subst hz
  have hload := s.setTo_loadWindow hw (fillWord (s.actor.z[v.toNat]'v.isLt) s.turn.ctx)
  have hrange := hm.2.2.2 q List.mem_cons_self
  refine issuesCopy_of_body (u := s.loadWindow w.toNat hw _) (also := modMyCore fun k => { k with
      fwin := k.fwin.set w.toNat (fillWord (s.actor.z[v.toNat]'v.isLt) s.turn.ctx) hw
      fwOwner := put k.fwOwner w.toNat s.activity.name }) (c := { s.newCmd .fillw t.toNat with
      src := q, ty := zType (s.actor.z[v.toNat]'v.isLt), win := w.toNat, base := o.fillBase (s.actor.z[v.toNat]'v.isLt), count := q.count }) h hm
    (rfl : execFillw v b w t s = aHalf _ _ s) ?_ (mods_run _ s) hload rfl rfl (congrArg Ctx.act hload.actor.symm)
    (congrArg Ctx.pc hload.actor.symm) ⟨rfl, rfl, rfl, rfl, rfl⟩ ⟨rfl, rfl, rfl, rfl, rfl, rfl, rfl, rfl⟩
  refine (M.bind_ok (me_run s)).trans ((M.bind_ok hbox).trans ((M.bind_ok (copyTag_allowed hm.1)).trans ?_))
  refine (M.bind_ok (ordRule_plain _ _ s)).trans ((M.bind_ok (require_holds hfill s)).trans ((M.bind_ok hview).trans ?_))
  refine (M.bind_ok (require_holds (by simpa using hcount) s)).trans ((M.bind_ok hplain).trans ((M.bind_ok hrange).trans ?_))
  refine (M.bind_ok (gets_run id s)).trans ((M.bind_ok (gets_run _ s)).trans ?_)
  rw [dif_pos hw, if_neg (by rw [hidle]; simp)]
  exact M.bind_ok (newCopy_run _ _ s)

theorem cpycan_leaves (h : ReadyA s) (htag : s.self.tagm.getLsbD t.toNat = true) :
    let w := s.takeCopies s.turn.core fun c => c.tag == t.toNat
    let u := w.1.foldl (fun s c => s.endCopy c .cancelled) w.2
    LeavesIn s u (.cpycan t) { u.actor with statusReg := BitVec.ofNat 64 w.1.length } := by
  intro w u
  show execCpycan t s = _
  refine aHalf_retires (t := u.modActor fun c => { c with statusReg := BitVec.ofNat 64 w.1.length }) h ?_
    ((SetTo.refl u).modActor fun c => { c with statusReg := BitVec.ofNat 64 w.1.length }) rfl rfl
  exact (M.bind_ok (copyTag_allowed htag)).trans ((M.bind_ok (gets_run id s)).trans ((M.bind_ok (mods_run _ s)).trans rfl))

end Windows

/-! ## The word of a fill window (R133) -/

theorem toNat_fillWord {z : BitVec 256} {ctx : Nat} (h : zOffset z + fillBytes z < 2 ^ 16) : (fillWord z ctx).toNat
    = 2 ^ 63 + zRegion z % 2 ^ 4 * 2 ^ 58 + zSpace z % 2 ^ 3 * 2 ^ 55 + ctx % 2 ^ 2 * 2 ^ 53 + zOffset z * 2 ^ 32
      + (zOffset z + fillBytes z) * 2 ^ 16 + zOffset z := by
  have hoff : zOffset z % 2 ^ 16 = zOffset z := Nat.mod_eq_of_lt (by omega)
  rw [fillWord, wordOf, BitVec.toNat_ofNat]
  simp only [at_, hoff, Nat.mod_eq_of_lt h]
  omega

theorem fillWord_fields {z : BitVec 256} {ctx : Nat} (h : zOffset z + fillBytes z < 2 ^ 16) :
    let f := fillWord z ctx
    fwActive f = true ∧ fwFailed f = false ∧ fwStart f = zOffset z ∧ fwMark f = zOffset z ∧ fwEnd f = zOffset z + fillBytes z := by
  simp only [fwActive, fwFailed, fwStart, fwMark, fwEnd, fieldOf, bitsOf, decide_eq_true_eq, decide_eq_false_iff_not,
    toNat_fillWord h]
  have hoff : zOffset z < 2 ^ 16 := by omega
  have hregion := Nat.mod_lt (zRegion z) (show 0 < 2 ^ 4 by decide)
  have hspace := Nat.mod_lt (zSpace z) (show 0 < 2 ^ 3 by decide)
  have hctx := Nat.mod_lt ctx (show 0 < 2 ^ 2 by decide)
  generalize zRegion z % 2 ^ 4 = r at *
  generalize zSpace z % 2 ^ 3 = sp at *
  generalize ctx % 2 ^ 2 = k at *
  generalize zOffset z = o at *
  generalize o + fillBytes z = e at *
  have h63 : (2 ^ 63 + r * 2 ^ 58 + sp * 2 ^ 55 + k * 2 ^ 53 + o * 2 ^ 32 + e * 2 ^ 16 + o) / 2 ^ 63 = 1 := by omega
  have h62 : (2 ^ 63 + r * 2 ^ 58 + sp * 2 ^ 55 + k * 2 ^ 53 + o * 2 ^ 32 + e * 2 ^ 16 + o) / 2 ^ 62 = 2 := by omega
  have h32 : (2 ^ 63 + r * 2 ^ 58 + sp * 2 ^ 55 + k * 2 ^ 53 + o * 2 ^ 32 + e * 2 ^ 16 + o) / 2 ^ 32
      = 2 ^ 31 + r * 2 ^ 26 + sp * 2 ^ 23 + k * 2 ^ 21 + o := by omega
  have h16 : (2 ^ 63 + r * 2 ^ 58 + sp * 2 ^ 55 + k * 2 ^ 53 + o * 2 ^ 32 + e * 2 ^ 16 + o) / 2 ^ 16
      = 2 ^ 47 + r * 2 ^ 42 + sp * 2 ^ 39 + k * 2 ^ 37 + o * 2 ^ 16 + e := by omega
  rw [h63, h62, h32, h16]
  omega

/-- Settles O39: each instruction passes its checks and comes to `issueCopy`, whose effect `issuesCopy_of_body` says. -/
theorem copiesStreamsAndFills : Obligations.CopiesStreamsAndFills := by
  unfold Obligations.CopiesStreamsAndFills
  refine ⟨fun s d a x t p q r h hd ha hx => ⟨fun hm hcount hp hq => ⟨cpy_issues h hd ha hm hcount hp hq,
      fun hdest hty hred => cpyred_issues h hd ha hm hcount hp hq hdest hty hred⟩,
    fun hm => ⟨gath_issues h hd ha hx hm, scat_issues h hd ha hx hm⟩,
    fun o k hm hplain hsmall ho ho' hk hk' hgranule hregion => ?_, cpycan_leaves h⟩,
    fun s v b w t q h hbox hm hplain => ⟨fun hspace hoff hfits hidle => ?_, fun o hfill hview hcount hw hidle =>
      ⟨fillw_issues h hbox hm hplain rfl hfill hview hcount hw hidle, fillWord_fields⟩⟩⟩
  · have hh : MayHalo s a o k t q := ⟨ha, hm, hplain, hsmall, ⟨ho, ho'⟩, ⟨hk, hk'⟩, hgranule, hregion⟩
    exact ⟨halo_issues h hh, fun hzero => ⟨s.haloCmd o k t.toNat q, rfl, rfl, halo_ends h hh hzero⟩⟩
  · exact strm_issues h hbox hm hplain rfl hspace hoff hfits hidle

end Sys2Proof.Machine
end

section
/-!
SUPPORT. The work of the copy engines (06 R112-R141; 22 R402): entries that leave an outbox, the grants and transfers of the hod, the
end of a command, the system copy engines, the copies of a cut; the statement O56 put together from them.
-/

namespace Sys2Proof.Machine

/-! ## Entries that leave an outbox (R112, 13 R296) -/

section Leaving
variable {s : State} {e : OutEntry} {es : List OutEntry}

/-- The state in which an entry has been taken off the outbox of the acting context. -/
def State.popOut (s : State) (es : List OutEntry) : State := s.modActor fun c => { c with outbox := es }

theorem outboxEntryLeave_leaves {s1 : State} (hseal : s.actor.sealed = true) (hout : s.actor.outbox = e :: es)
    (hcan : canLeave e s = .ok (none, s1)) : Goes s .outboxEntryLeave ((s1.popOut es).leave e) := by
  have hfirst : leaveFirst s = .ok (none, (s1.popOut es).leave e) := by
    unfold leaveFirst
    rw [M.bind_ok (me_run s), hout]
    exact M.bind_ok hcan
  show execOutboxEntryLeave s = _
  unfold execOutboxEntryLeave
  rw [hseal, hfirst]
  rfl

theorem canLeave_copy {c : CopyCmd} (hsys : c.sys = none) (hroom : cmdCount (find (s.cluster (c.core / 8)).hod c.queue []) < 32) :
    canLeave (.copy c) s = .ok (none, s) := by
  have hqueue : s.hodQueue c = find (s.cluster (c.core / 8)).hod c.queue [] := by rw [State.hodQueue, hsys]
  refine (M.bind_ok (gets_run id s)).trans ?_
  dsimp only [id]
  rw [if_neg (by rw [hqueue]; omega)]
  rfl

theorem pushHod_cluster {c : CopyCmd} (hsys : c.sys = none) (s : State) : s.pushHod c = s.modCluster (c.core / 8) fun k =>
    { k with hod := put k.hod c.queue (find k.hod c.queue [] ++ [.cmd c]) } := by rw [State.pushHod, hsys]

theorem canLeave_job {j : MJob} (hroom : jobCount (find (s.cluster (j.core / 8)).mat (j.core % 8) []) < 8) :
    canLeave (.job j) s = .ok (none, s) := by
  refine (M.bind_ok (gets_run id s)).trans ?_
  dsimp only [id]
  rw [if_neg (by omega)]
  rfl

/-- The message of a SEND that carries no ends (13 R307). -/
def State.sentMsg (s : State) (reg : Nat) (ws : List Word) : Msg :=
  let h := (s.self.endAt reg).handle
  { kind := .data, chid := hChid h, home := hHome h, seq := hSeq h, name := s.self.name, core := s.turn.core, reg := reg, words := ws
    part := s.self.part, know := s.knows s.agent }

theorem popOut_setTo (s : State) (es : List OutEntry) : SetTo s (s.popOut es) { s.actor with outbox := es } :=
  (SetTo.refl s).modActor _

theorem leave_send {reg n : Nat} {ws : List Word} (hloc : (s.self.endAt reg).loc = some n) : s.leave (.send reg ws [])
    = (s.modEnd s.activity.slot reg fun r => { r with handle := hSetSeq r.handle ((hSeq r.handle + 1) % 2 ^ 32) }).sendPkt
        (s.turn.core / 8) (n / 8) s.self.part (.msg n (s.sentMsg reg ws)) := by
  unfold State.leave
  dsimp only
  rw [hloc]
  rfl

theorem outboxEntryLeave_send {reg n : Nat} {ws : List Word} (hseal : s.actor.sealed = true)
    (hout : s.actor.outbox = .send reg ws [] :: es) (hloc : (s.self.endAt reg).loc = some n) :
    Goes s .outboxEntryLeave (((s.popOut es).modEnd s.activity.slot reg fun r =>
      { r with handle := hSetSeq r.handle ((hSeq r.handle + 1) % 2 ^ 32) }).sendPkt (s.turn.core / 8) (n / 8) s.self.part
        (.msg n (s.sentMsg reg ws))) := by
  have k := popOut_setTo s es
  have hmsg : (s.popOut es).sentMsg reg ws = s.sentMsg reg ws := by
    unfold State.sentMsg
    rw [k.self rfl, k.agent]
    rfl
  have hgo := outboxEntryLeave_leaves hseal hout (pure_run none s)
  rw [leave_send (by rw [k.self rfl]; exact hloc), hmsg, k.self rfl, k.activity rfl] at hgo
  exact hgo

end Leaving

/-! ## The hod (R115, R116) -/

section Hod
variable {s t : State} {c x : CopyCmd} {d q : Nat} {defs : Map Nat}

/-- The weight with which a queue asks for the hod's next transfer. -/
def State.hodWeight (s : State) (cl q : Nat) : Option Nat := match s.hodHead cl q with
  | some c => if s.copyReady c then some (s.weightOf c.name) else none
  | none => none

/-- Without fences in its queues, a transfer of the hod is a grant and an act on the head of the queue granted. -/
theorem execHodLineTransfer_eq (hd : clusterOk s.turn.unit = true) (hfence : ∀ q ∈ (s.cluster s.turn.unit).hod, hodFences q.2 = []) :
    execHodLineTransfer s = match grantQueue 16 (s.hodWeight s.turn.unit) (s.cluster s.turn.unit).hodLast (s.cluster s.turn.unit).hodDef with
      | (none, defs) => .next (s.modCluster s.turn.unit fun k => { k with hodDef := defs })
      | (some q, defs) => match s.hodHead s.turn.unit q with
        | none => .next s
        | some c => .next ((s.modCluster s.turn.unit fun k => { k with hodLast := q, hodDef := defs }).runCopy c) := by
  have hnone : ((s.cluster s.turn.unit).hod.map fun q => hodFences q.2).flatten = [] := by
    simp only [List.flatten_eq_nil_iff, List.mem_map]
    rintro _ ⟨q, hq, rfl⟩
    exact hfence q hq
  unfold execHodLineTransfer
  dsimp only
  rw [hnone, hd]
  rfl

theorem hodLineTransfer_idle (hd : clusterOk s.turn.unit = true) (hfence : ∀ q ∈ (s.cluster s.turn.unit).hod, hodFences q.2 = [])
    (hgrant : grantQueue 16 (s.hodWeight s.turn.unit) (s.cluster s.turn.unit).hodLast (s.cluster s.turn.unit).hodDef = (none, defs)) :
    Goes s .hodLineTransfer (s.modCluster s.turn.unit fun k => { k with hodDef := defs }) := by
  show execHodLineTransfer s = _
  rw [execHodLineTransfer_eq hd hfence, hgrant]

theorem hodLineTransfer_runs (hd : clusterOk s.turn.unit = true) (hfence : ∀ q ∈ (s.cluster s.turn.unit).hod, hodFences q.2 = [])
    (hgrant : grantQueue 16 (s.hodWeight s.turn.unit) (s.cluster s.turn.unit).hodLast (s.cluster s.turn.unit).hodDef = (some q, defs))
    (hhead : s.hodHead s.turn.unit q = some c) :
    Goes s .hodLineTransfer ((s.modCluster s.turn.unit fun k => { k with hodLast := q, hodDef := defs }).runCopy c) := by
  show execHodLineTransfer s = _
  rw [execHodLineTransfer_eq hd hfence, hgrant]
  dsimp only
  rw [hhead]

/-- The event stream tells of a command's start (23 R409). -/
def State.noteBegun (s : State) (c : CopyCmd) : State := if c.begun then s else s.copyRecord c 0 0#64

theorem runCopy_stopped (h : c.stopped = true) : s.runCopy c = s.closeCopy c .cancelled := by
  unfold State.runCopy
  rw [if_pos h]

theorem runCopy_moves (h : c.stopped = false) (hrun : transfer c s = .ok (x, t)) :
    s.runCopy c = ((t.replaceCopy c (some x)).noteBegun c).count (s.partOf c.name) 9 (x.lines - c.lines) := by
  unfold State.runCopy
  rw [if_neg (by simp [h]), hrun]
  rfl

theorem runCopy_fails {code : FaultCode} {y w : Word} (h : c.stopped = false) (hrun : transfer c s = .error (.fault code y w)) :
    s.runCopy c = ((s.noteBegun c).lostBy (s.partOf c.name) (c.core / 8) (code, y, w)).closeCopy c (.failed code y) := by
  unfold State.runCopy
  rw [if_neg (by simp [h]), hrun]
  rfl

theorem copyOver_of (hover : c.over = true) (hrun : c.stopped = false)
    (hleft : laySpace c.dst.entry ≠ 1 ∨ s.packetsOut c.core c.ctx = false) : s.copyOver c = true := by
  unfold State.copyOver
  rw [hover, hrun]
  rcases hleft with hspace | hout
  · simp [hspace]
  · simp [hout]

theorem hodCommandComplete_completes (hd : clusterOk s.turn.unit = true) (hsub : s.turn.sub < 16)
    (hhead : s.hodHead s.turn.unit s.turn.sub = some c) (hover : s.copyOver c = true) : Goes s .hodCommandComplete (s.completeCopy c) := by
  show execHodCommandComplete s = _
  unfold execHodCommandComplete
  dsimp only
  rw [hd, hhead, if_neg (by simp [hsub])]
  dsimp only
  rw [if_pos hover]

theorem completeCopy_done (hfit : c.overrun = false) (hstale : c.staleHit = false) : s.completeCopy c = s.closeCopy c .done := by
  simp [State.completeCopy, hfit, hstale]

theorem completeCopy_overrun (hfit : c.overrun = true) (hstale : c.staleHit = false) :
    s.completeCopy c = s.closeCopy c (.failed .layout (engineX .layout 0#64 5 ((c.off : Nat) : Int))) := by
  simp [State.completeCopy, hfit, hstale]

theorem completeCopy_stale (hfit : c.overrun = false) (hstale : c.staleHit = true) : s.completeCopy c
    = (s.modCore c.core fun k => { k with tagErr := setBit k.tagErr c.tag true }).closeCopy c .done := by
  simp [State.completeCopy, hfit, hstale]

end Hod

/-! ## A transfer of one element (R115, R121) -/

section Transfer
variable {t u v w : State} {c c' : CopyCmd} {o p : ElemOff} {x : Item} {ls : List Loc}

theorem asEngine_ok {α : Type} {m : M α} {y : α} (kind : Nat) (va : Int) (h : m t = .ok (y, u)) : asEngine kind va m t = .ok (y, u) := by
  unfold asEngine
  rw [h]

/-- What every step of a fold keeps, the fold keeps. -/
theorem M.foldlM_rel {α β : Type} {R : β → β → Prop} (hrefl : ∀ b, R b b) (htrans : ∀ a b c, R a b → R b c → R a c)
    {f : β → α → M β} (hf : ∀ b a s b' s', f b a s = .ok (b', s') → R b b') (xs : List α) {b b' : β} {s s' : State}
    (h : xs.foldlM f b s = .ok (b', s')) : R b b' := by
  induction xs generalizing b s with
  | nil => cases h; exact hrefl _
  | cons x xs ih =>
    rw [List.foldlM_cons] at h
    obtain ⟨b1, s1, h1, h2⟩ := M.of_bind_ok h
    exact htrans _ _ _ (hf _ _ _ _ _ h1) (ih h2)

/-- Two commands differ in nothing but their runs. -/
def CopyCmd.SameButRun (c c' : CopyCmd) : Prop := c' = { c with run := c'.run }

/-- Noting what a write covered changes nothing of the command but its run (11 R249). -/
theorem noteRun_keeps (h : noteRun c ls v = .ok (c', w)) : c.SameButRun c' := by
  refine M.foldlM_rel (R := CopyCmd.SameButRun) (fun _ => rfl) (fun a b c hab hbc => ?_) (fun c r s c1 s1 h1 => ?_) (runsOf ls) h
  · unfold CopyCmd.SameButRun at *
    rw [hbc, hab]
  · obtain ⟨l, n⟩ := r
    cases l <;> (cases h1; rfl)

theorem mapM_single {α β : Type} {f : α → M β} {a : α} {b : β} (h : f a t = .ok (b, u)) : [a].mapM f t = .ok ([b], u) := by
  rw [List.mapM_cons]
  exact M.bind_ok h

/-- Elements of one type are copied as they are. -/
theorem convItems_same {e : BitVec 512} {ty : Nat} (hty : layType e = ty) (hred : layRed e = false) (hblock : isBlock ty = false)
    (first : Nat) : convItems c e ty first [x] t = .ok (([x.code], [], 0#6), t) := by
  have hconv : convItem c.rnd c.sat e ty x t = .ok ((x.code, 0#6), t) := by
    unfold convItem
    rw [if_pos ⟨by simp [hred], hty⟩]
    rfl
  unfold convItems
  rw [if_neg (by simp [hblock])]
  refine (M.bind_ok (mapM_single hconv)).trans ?_
  show Except.ok (([x.code], [], 0#6 ||| 0#6), t) = _
  rw [BitVec.or_self]

/-- What a copy between two local layouts of one plain type asks of its command. -/
structure PlainCopy (c : CopyCmd) : Prop where
  op : c.op = .cpy
  begun : c.begun = true
  hold : c.hold = []
  last : c.pos + 1 = c.count
  same : layType c.src.entry = layType c.dst.entry
  six : isSix (layType c.dst.entry) = false
  block : isBlock (layType c.dst.entry) = false
  srcRed : layRed c.src.entry = false
  dstRed : layRed c.dst.entry = false
  srcHere : laySpace c.src.entry ≠ 1
  dstHere : laySpace c.dst.entry ≠ 1

theorem groupSize_one (h : PlainCopy c) (hdst : c.dstOff c.pos t = .ok (p, t)) : groupSize c 1 t = .ok (1, t) := by
  unfold groupSize
  rw [if_neg (by simp [h.six, h.block])]
  exact (M.bind_ok hdst).trans rfl

theorem putItems_one (h : PlainCopy c) {cl : Client} (hdst : c.dstOff c.pos u = .ok (p, u))
    (hwrite : writeGroup cl c.dst [(p, x.code)] u = .ok (ls, v)) (hrun : noteRun c ls v = .ok (c', w)) :
    putItems cl c c.pos [x] u = .ok (some c', w) := by
  have hflags : ({ c with flags := c.flags ||| 0#6 } : CopyCmd) = c := by rw [BitVec.or_zero]
  unfold putItems
  refine (M.bind_ok (mapM_single hdst)).trans ?_
  refine (M.bind_ok (asEngine_ok 4 0 (convItems_same h.same h.srcRed h.block c.pos))).trans ?_
  dsimp only
  rw [if_neg (by simp [h.op]), if_neg (by simp [h.dstRed]), if_neg h.dstHere]
  refine (M.bind_ok hwrite).trans ?_
  rw [if_neg (by simp [h.block]), hflags]
  exact M.bind_ok hrun

theorem transfer_last (h : PlainCopy c) (hsrc : c.srcOff c.pos t = .ok (o, t)) (hdst : c.dstOff c.pos t = .ok (p, t))
    (hread : readItem (t.hodClient c) c.src o t = .ok (x, u)) (hdst' : c.dstOff c.pos u = .ok (p, u))
    (hwrite : writeGroup (t.hodClient c) c.dst [(p, x.code)] u = .ok (ls, v)) (hrun : noteRun c ls v = .ok (c', w)) :
    transfer c t = .ok ({ c with pos := c.pos + 1, lines := c.lines + 1, run := c'.run }, w) := by
  have hone : c.count - c.pos = 1 := by have := h.last; omega
  have hitems : readItems (t.hodClient c) c c.src [o] t = .ok ((c, some [x]), u) := by
    unfold readItems
    rw [if_pos h.srcHere]
    exact M.bind_ok (mapM_single hread)
  unfold transfer
  refine (M.bind_ok (gets_run id t)).trans ((M.bind_ok (guardFault_holds (by simp [h.begun]) _ _ t)).trans ?_)
  rw [if_pos h.begun, if_neg (by have := h.last; omega), h.op]
  dsimp only
  unfold moveElems
  rw [hone, if_neg (by simp [h.op])]
  refine (M.bind_ok (groupSize_one h hdst)).trans ((M.bind_ok (mapM_single hsrc)).trans ((M.bind_ok hitems).trans ?_))
  dsimp only
  rw [h.block, h.hold]
  refine (M.bind_ok (putItems_one h hdst' hwrite hrun)).trans ?_
  dsimp only
  have hkeep : c' = { c with run := c'.run } := noteRun_keeps hrun
  generalize c'.run = r at hkeep ⊢
  subst hkeep
  rw [if_neg (by simp [h.op])]
  simp [h.op]

end Transfer

/-! ## The end of a command (R116) -/

section Ends
variable {s : State} {c : CopyCmd} {e : Ending}

theorem ringRecord_off {p : Nat} (hoff : fieldOf (s.obs p).eRing 4 0 = 0) (know : Know) (ws : List Word) :
    s.ringRecord p true know ws = s := by
  unfold State.ringRecord
  exact if_pos hoff

/-- The flags of a command go to its process, where that lives (07 R162). -/
def State.flagged (s : State) (c : CopyCmd) : State := match s.named c.name with
  | some _ => s.orPflags (slotOf c.name) c.flags
  | none => s

@[simp] theorem State.observe_flagged (s : State) (c : CopyCmd) : (s.flagged c).observe = s.observe := by
  unfold State.flagged
  split <;> rfl

@[simp] theorem State.cores_flagged (s : State) (c : CopyCmd) : (s.flagged c).cores = s.cores := by
  unfold State.flagged
  split <;> rfl

@[simp] theorem State.mem_flagged (s : State) (c : CopyCmd) : (s.flagged c).mem = s.mem := by
  unfold State.flagged
  split <;> rfl

theorem State.partOf_flagged (s : State) (c : CopyCmd) : (s.flagged c).partOf c.name = s.partOf c.name := by
  unfold State.flagged
  split
  · simp [State.partOf, State.orPflags]
  · rfl

/-- The state in which a command without a barrier, a window or a stream has ended, before the event stream learns of it. -/
def State.tagEnded (s : State) (c : CopyCmd) (err : Bool) : State :=
  ((s.dismiss c.agent).flagged c).modCore c.core fun k =>
    { k.tagEnd c.tag err with tagKnow := joinKnow k.tagKnow (s.knows c.agent) }

theorem endCopy_cpy (hbar : c.bar = none) (hop : c.op = .cpy) (he : e = .done ∨ e = .cancelled) :
    s.endCopy c e = (s.tagEnded c (e != .done)).copyRecord c (if e = .done then 1 else 3) (wordOf c.lines) (s.knows c.agent) := by
  rcases he with rfl | rfl <;> (unfold State.endCopy State.settleCopy; rw [hop, hbar]; rfl)

theorem copyRecord_off {kind : Nat} {detail : Word} {know : Know} (hoff : fieldOf (s.obs (s.partOf c.name)).eRing 4 0 = 0) :
    s.copyRecord c kind detail know = s := ringRecord_off hoff know _

theorem endCopy_unrecorded (hbar : c.bar = none) (hop : c.op = .cpy) (he : e = .done ∨ e = .cancelled)
    (hoff : fieldOf (s.obs (s.partOf c.name)).eRing 4 0 = 0) : s.endCopy c e = s.tagEnded c (e != .done) := by
  have hpart : (s.tagEnded c (e != .done)).partOf c.name = s.partOf c.name := (s.dismiss c.agent).partOf_flagged c
  have hobs : (s.tagEnded c (e != .done)).obs = s.obs := by
    unfold State.obs State.tagEnded
    simp [State.dismiss]
  rw [endCopy_cpy hbar hop he]
  exact copyRecord_off (by rw [hpart, hobs]; exact hoff)

theorem core_tagEnded (s : State) (c : CopyCmd) (err : Bool) : (s.tagEnded c err).core c.core
    = { (s.core c.core).tagEnd c.tag err with tagKnow := joinKnow (s.core c.core).tagKnow (s.knows c.agent) } := by
  have hcore : ((s.dismiss c.agent).flagged c).core c.core = s.core c.core := by
    unfold State.core
    rw [State.cores_flagged]
    rfl
  unfold State.tagEnded State.modCore
  rw [State.core_setCore_same, hcore]

theorem endCopy_tag (hbar : c.bar = none) (hop : c.op = .cpy) (hoff : fieldOf (s.obs (s.partOf c.name)).eRing 4 0 = 0)
    (he : e = .done ∨ e = .cancelled) : let t := s.endCopy c e
    (t.core c.core).tagDone = ((s.core c.core).tagEnd c.tag (e != .done)).tagDone
      ∧ (t.core c.core).tagErr = ((s.core c.core).tagEnd c.tag (e != .done)).tagErr
      ∧ (t.core c.core).tagCnt = ((s.core c.core).tagEnd c.tag (e != .done)).tagCnt ∧ t.mem = s.mem := by
  dsimp only
  rw [endCopy_unrecorded hbar hop he hoff, core_tagEnded]
  exact ⟨rfl, rfl, rfl, (s.dismiss c.agent).mem_flagged c⟩

end Ends

/-! ## The system copy engines (R141) -/

section System
variable {s : State} {c : CopyCmd}

/-- A system copy engine without fences at its queue acts on the head of the queue. -/
theorem execSystemCopyTransfer_eq (hd : s.turn.unit < 128) (hfence : hodFences (find s.engines s.turn.unit {}).queue = [])
    (hhead : headCmd [] (find s.engines s.turn.unit {}).queue = some c) : execSystemCopyTransfer s
      = if (find s.engines s.turn.unit {}).frozen then .next ((s.replaceCopy c none).endCopy c (.failed .violation 0#64))
        else if s.copyOver c then .next (s.completeCopy c)
        else if s.copyReady c then .next (s.runCopy c)
        else .next s := by
  unfold execSystemCopyTransfer
  rw [if_neg (by simp [hd]), hfence]
  simp only [State.passFences, List.foldl_nil]
  rw [hhead]
  rfl

theorem systemCopyTransfer_frozen (hd : s.turn.unit < 128) (hfence : hodFences (find s.engines s.turn.unit {}).queue = [])
    (hhead : headCmd [] (find s.engines s.turn.unit {}).queue = some c) (hfrozen : (find s.engines s.turn.unit {}).frozen = true) :
    Goes s .systemCopyTransfer ((s.replaceCopy c none).endCopy c (.failed .violation 0#64)) := by
  show execSystemCopyTransfer s = _
  rw [execSystemCopyTransfer_eq hd hfence hhead, if_pos hfrozen]

theorem systemCopyTransfer_completes (hd : s.turn.unit < 128) (hfence : hodFences (find s.engines s.turn.unit {}).queue = [])
    (hhead : headCmd [] (find s.engines s.turn.unit {}).queue = some c) (hfrozen : (find s.engines s.turn.unit {}).frozen = false)
    (hover : s.copyOver c = true) : Goes s .systemCopyTransfer (s.completeCopy c) := by
  show execSystemCopyTransfer s = _
  rw [execSystemCopyTransfer_eq hd hfence hhead, if_neg (by simp [hfrozen]), if_pos hover]

theorem systemCopyTransfer_runs (hd : s.turn.unit < 128) (hfence : hodFences (find s.engines s.turn.unit {}).queue = [])
    (hhead : headCmd [] (find s.engines s.turn.unit {}).queue = some c) (hfrozen : (find s.engines s.turn.unit {}).frozen = false)
    (hmore : c.over = false) (hready : s.copyReady c = true) : Goes s .systemCopyTransfer (s.runCopy c) := by
  show execSystemCopyTransfer s = _
  rw [execSystemCopyTransfer_eq hd hfence hhead, if_neg (by simp [hfrozen]), if_neg (by simp [State.copyOver, hmore]), if_pos hready]

end System

/-! ## The copies of a cut (22 R402) -/

section Cuts
variable {s : State} {c : Ckpt} {g : Nat} {gs : List Nat}

@[simp] theorem State.ckpts_count (s : State) (p kind n : Nat) : (s.count p kind n).ckpts = s.ckpts := by
  unfold State.count
  split <;> rfl

theorem checkpointGranuleCopy_copies (hp : s.turn.unit < 8) (hu : s.turn.sub < 128) (hc : look s.ckpts s.turn.unit = some c)
    (hactive : c.active = true) (htodo : c.todo = g :: gs) (hok : s.turn.ok = true)
    (hfrozen : (find s.engines s.turn.sub {}).frozen = false) :
    Goes s .checkpointGranuleCopy (s.copyGranule s.turn.unit g) := by
  show execCheckpointGranuleCopy s = _
  unfold execCheckpointGranuleCopy
  dsimp only
  rw [if_neg (by simp [hp, hu]), hc]
  dsimp only
  rw [htodo]
  dsimp only
  rw [if_neg (by simp [hactive]), if_neg (by simp [hok, hfrozen])]

theorem checkpointGranuleCopy_fails (hp : s.turn.unit < 8) (hu : s.turn.sub < 128) (hc : look s.ckpts s.turn.unit = some c)
    (hactive : c.active = true) (htodo : c.todo = g :: gs) (hok : s.turn.ok = false) :
    Goes s .checkpointGranuleCopy { s with ckpts := put s.ckpts s.turn.unit c.fail } := by
  show execCheckpointGranuleCopy s = _
  unfold execCheckpointGranuleCopy
  dsimp only
  rw [if_neg (by simp [hp, hu]), hc]
  dsimp only
  rw [htodo]
  dsimp only
  rw [if_neg (by simp [hactive]), if_pos (by simp [hok])]

theorem copyGranule_spec {p : Nat} (hc : look s.ckpts p = some c) (htodo : c.todo = g :: gs) :
    (s.copyGranule p g).cores = s.cores
      ∧ (s.copyGranule p g).mem = writeBytes s.mem (c.dest + (g - (s.part p).mbase)) (readBytes s.mem (c.sourceOf g) 65536)
      ∧ look (s.copyGranule p g).ckpts p = some { c with todo := gs, staged := c.staged.filter fun e => e.1 != g
                                                         copied := c.copied + 1, doneSet := c.doneSet ++ [g] } := by
  unfold State.copyGranule
  rw [hc]
  dsimp only
  refine ⟨by rw [State.cores_count], by rw [State.mem_count], ?_⟩
  rw [State.ckpts_count, look_put_same, Ckpt.copyDone, htodo, List.erase_cons_head]

theorem cutComplete_eq (hp : s.turn.unit < 8) (hc : look s.ckpts s.turn.unit = some c) (hactive : c.active = true)
    (htodo : c.todo = []) : execCutComplete s = if s.turn.ok then .next { s with
        mem := writeBytes s.mem (c.dest + (s.part s.turn.unit).msize)
          (cutBitmap c (s.part s.turn.unit).mbase (((s.part s.turn.unit).msize / 65536 + 7) / 8))
        ckpts := put s.ckpts s.turn.unit { c with active := false } }
      else .next { s with ckpts := put s.ckpts s.turn.unit c.fail } := by
  unfold execCutComplete
  dsimp only
  rw [if_neg (by omega), hc]
  dsimp only
  rw [if_neg (by simp [hactive, htodo])]
  cases s.turn.ok <;> rfl

end Cuts

/-- Settles O56: each row is an act on the head of its queue, which the lemmas of its engine describe. -/
theorem copyEnginesWork : Obligations.CopyEnginesWork := by
  unfold Obligations.CopyEnginesWork
  intro s
  refine ⟨fun e es hseal hout => ⟨fun s1 hcan => outboxEntryLeave_leaves hseal hout hcan, ?_, ?_, ?_⟩, ?_, ?_, ?_, ?_, ?_, ?_, ?_⟩
  · rintro c rfl hsys hroom
    have hgo := outboxEntryLeave_leaves hseal hout (canLeave_copy hsys hroom)
    rwa [State.leave, pushHod_cluster hsys] at hgo
  · rintro j rfl hroom
    exact outboxEntryLeave_leaves hseal hout (canLeave_job hroom)
  · rintro reg ws n rfl hloc
    exact ⟨s.sentMsg reg ws, rfl, rfl, rfl, rfl, rfl, rfl, outboxEntryLeave_send hseal hout hloc⟩
  · intro hd hfence q defs c
    refine ⟨fun hgrant => hodLineTransfer_idle hd hfence hgrant, fun hgrant hhead => ?_⟩
    have hrun := hodLineTransfer_runs hd hfence hgrant hhead
    refine ⟨fun hstop => ?_, fun hgo => ⟨fun x t htransfer => ?_, fun code x w htransfer => ?_⟩⟩
    · rwa [runCopy_stopped hstop] at hrun
    · rwa [runCopy_moves hgo htransfer] at hrun
    · rwa [runCopy_fails hgo htransfer] at hrun
  · intro c c' t u v w o p x ls hop hbegun hhold hlast hsame hsix hblock hsrcRed hdstRed hsrcHere hdstHere
    exact transfer_last ⟨hop, hbegun, hhold, hlast, hsame, hsix, hblock, hsrcRed, hdstRed, hsrcHere, hdstHere⟩
  · intro hd hsub c hhead hover hrun hleft
    have hgo := hodCommandComplete_completes hd hsub hhead (copyOver_of hover hrun hleft)
    refine ⟨fun hfit hstale => ?_, fun hfit hstale => ⟨engineX .layout 0#64 5 ((c.off : Nat) : Int), ?_⟩, fun hfit hstale => ?_⟩
    · rwa [completeCopy_done hfit hstale] at hgo
    · rwa [completeCopy_overrun hfit hstale] at hgo
    · rwa [completeCopy_stale hfit hstale] at hgo
  · exact fun c e hbar hop hoff he => endCopy_tag hbar hop hoff he
  · intro hd hfence c hhead
    exact ⟨systemCopyTransfer_frozen hd hfence hhead, fun hfrozen => ⟨systemCopyTransfer_completes hd hfence hhead hfrozen,
      systemCopyTransfer_runs hd hfence hhead hfrozen⟩⟩
  · intro hd c hc hactive
    refine ⟨fun hu g gs htodo => ⟨fun hok hfrozen => ⟨_, checkpointGranuleCopy_copies hd hu hc hactive htodo hok hfrozen,
      copyGranule_spec hc htodo⟩, checkpointGranuleCopy_fails hd hu hc hactive htodo⟩, fun htodo hok => ?_, fun htodo hok => ?_⟩
    · exact (cutComplete_eq hd hc hactive htodo).trans (if_pos hok)
    · exact (cutComplete_eq hd hc hactive htodo).trans (if_neg (by simp [hok]))
  · intro hroom
    show execCkptStageCopy s = _
    unfold execCkptStageCopy
    rw [if_neg (by simp [hroom])]

end Sys2Proof.Machine
end

section
/-!
SUPPORT. Packets that have reached a cluster (13 R298): the row that a packet's body names takes it; writes of
whole granules into a pool (05 R90).
-/

namespace Sys2Proof.Machine

/-! ## The packet that a row takes -/

/-- An earlier packet of a packet's channel stands. -/
def PBody.behind (b : PBody) (seen : List Nat) : Bool :=
  match b.homeChid with
  | some c => seen.contains c
  | none => false

theorem takeInTurn_cons (want waits : PBody → Bool) (seen : List Nat) (q : Packet) (ps : List Packet) :
    takeInTurn want waits seen (q :: ps) = if want q.body && !q.body.behind seen && !waits q.body then some (q, ps)
      else (takeInTurn want waits (if waits q.body then seen else q.body.homeChid.toList ++ seen) ps).map fun r => (r.1, q :: r.2) := rfl

/-- A packet that one test takes is also the one taken by a narrower test which takes it. -/
theorem takeInTurn_narrow {want want' waits : PBody → Bool} (sub : ∀ b, want' b = true → want b = true) {p : Packet}
    (hp : want' p.body = true) : ∀ (ps : List Packet) (seen : List Nat) {rest : List Packet},
      takeInTurn want waits seen ps = some (p, rest) → takeInTurn want' waits seen ps = some (p, rest) := by
  intro ps
  induction ps with
  | nil => intro seen rest h; exact nomatch h
  | cons q ps ih =>
    intro seen rest h
    rw [takeInTurn_cons, Bool.and_assoc] at h ⊢
    by_cases hq : (want q.body && (!q.body.behind seen && !waits q.body)) = true
    · rw [if_pos hq, Option.some.injEq, Prod.mk.injEq] at h
      obtain ⟨rfl, rfl⟩ := h
      rw [if_pos (Bool.and_eq_true _ _ ▸ ⟨hp, (Bool.and_eq_true _ _ ▸ hq).2⟩)]
    · have hq' : ¬(want' q.body && (!q.body.behind seen && !waits q.body)) = true := by
        rw [Bool.and_eq_true] at hq ⊢
        exact fun h' => hq ⟨sub _ h'.1, h'.2⟩
      rw [if_neg hq] at h
      rw [if_neg hq']
      obtain ⟨x, hx, he⟩ := Option.map_eq_some_iff.mp h
      obtain ⟨rfl, rfl⟩ := Prod.mk.inj he
      rw [ih _ hx]
      rfl

section Reached
variable {s t : State} {i : Instr} {b : PBody}

theorem Reached.cluster (h : Reached s i b t) : clusterOk s.turn.unit = true := h.1

/-- What the row's own test takes is the packet, and leaves the state without it. -/
theorem Reached.taken (h : Reached s i b t) {want : PBody → Bool} {o : Option (Packet × State)}
    (ho : s.takeArrived s.turn.unit want = o) (sub : ∀ c, want c = true → c.row = some i) (hb : want b = true) :
    ∃ p, p.body = b ∧ o = some (p, t) := by
  obtain ⟨-, hidle, -, p, rest, htake, rfl, rfl⟩ := h
  refine ⟨p, rfl, ?_⟩
  rw [← ho, State.takeArrived, if_neg (not_not_intro hidle),
    takeInTurn_narrow (fun c hc => beq_iff_eq.mpr (sub c hc)) hb _ _ htake]

/-- A row that takes a packet by its own test does with it what it does with the one reached. -/
theorem Reached.runs (h : Reached s i b t) {want : PBody → Bool} {f : Packet → State → Out} {z r : Out}
    (sub : ∀ c, want c = true → c.row = some i) (hb : want b = true) (hf : ∀ p, p.body = b → f p t = r) :
    (if !clusterOk s.turn.unit then z else match s.takeArrived s.turn.unit want with
      | some (p, t) => f p t
      | none => .next s) = r := by
  rw [h.cluster]
  generalize ho : s.takeArrived s.turn.unit want = o
  obtain ⟨p, hp, rfl⟩ := h.taken ho sub hb
  exact hf p hp

/-- The state without the packet differs in its cluster alone. -/
theorem Reached.rest (h : Reached s i b t) : ∃ rest, t = s.modCluster s.turn.unit fun c => { c with arrived := rest } := by
  obtain ⟨-, -, -, -, rest, -, -, ht⟩ := h
  exact ⟨rest, ht⟩

theorem Reached.proc (h : Reached s i b t) (k : Nat) : t.proc k = s.proc k := by
  obtain ⟨rest, rfl⟩ := h.rest
  rfl

theorem Reached.core (h : Reached s i b t) (n : Nat) : t.core n = s.core n := by
  obtain ⟨rest, rfl⟩ := h.rest
  rfl

theorem Reached.procs (h : Reached s i b t) : t.procs = s.procs := by
  obtain ⟨rest, rfl⟩ := h.rest
  rfl

theorem Reached.cores (h : Reached s i b t) : t.cores = s.cores := by
  obtain ⟨rest, rfl⟩ := h.rest
  rfl

theorem Reached.cyc (h : Reached s i b t) : t.cyc = s.cyc := by
  obtain ⟨rest, rfl⟩ := h.rest
  rfl

end Reached

/-! ## Writes of whole granules -/

theorem readBytes_add (m : Memory) (a n k : Nat) : readBytes m a (n + k) = readBytes m a n ++ readBytes m (a + n) k := by
  induction n generalizing a with
  | zero => rw [Nat.zero_add, Nat.add_zero]; rfl
  | succ n ih => rw [Nat.succ_add, readBytes, ih, readBytes, List.cons_append, Nat.add_right_comm, Nat.add_assoc]

theorem readBytes_congr {m m' : Memory} {a n : Nat} (h : ∀ c, a ≤ c → c < a + n → readByte m c = readByte m' c) :
    readBytes m a n = readBytes m' a n := by
  induction n generalizing a with
  | zero => rfl
  | succ n ih => rw [readBytes, readBytes, h a (le_refl a) (by omega), ih fun c hc hn => h c (by omega) (by omega)]

section Pools
variable (s : State)

/-- What a change of one core has no part in stays as it was in every core. -/
theorem State.core_modCore_keeps {β : Type} (g : Core → β) (n m : Nat) {f : Core → Core} (hf : ∀ c, g (f c) = g c) :
    g ((s.modCore n f).core m) = g (s.core m) := by
  by_cases h : m = n
  · subst h; rw [State.modCore, State.core_setCore_same, hf]
  · rw [State.modCore, State.core_setCore_other _ _ _ _ h]

theorem State.pool_reply (n k m p : Nat) (far : Option (Nat × Nat)) (r : Reply) :
    ((s.reply n k far p r).core m).pool = (s.core m).pool := by
  rcases far with - | ⟨dev, req⟩
  · exact s.core_modCore_keeps Core.pool n m fun _ => rfl
  · rfl

theorem State.pool_endPadWatches (n lo k m : Nat) : ((s.endPadWatches n lo k).core m).pool = (s.core m).pool := by
  unfold State.endPadWatches
  dsimp only
  split_ifs
  · rfl
  · rw [foldl_keeps (fun u : State => (u.core m).pool) fun u w => u.pool_reply ..]
    exact s.core_modCore_keeps Core.pool n m fun _ => rfl

/-- The state is another but for the cores and for what waits to leave the device. -/
def State.InPools (s u : State) : Prop := ∃ cs is, u = { s with cores := cs, inject := is }

theorem State.InPools.refl : s.InPools s := ⟨_, _, rfl⟩

variable {s} in
theorem State.InPools.trans {t u : State} : s.InPools t → t.InPools u → s.InPools u := by
  rintro ⟨cs, is, rfl⟩ ⟨cs', is', rfl⟩
  exact ⟨cs', is', rfl⟩

theorem State.inPools_foldl {α : Type} {f : State → α → State} (h : ∀ (u : State) (a : α), u.InPools (f u a)) (as : List α) :
    s.InPools (as.foldl f s) := by
  induction as generalizing s with
  | nil => exact .refl s
  | cons a as ih => exact (h s a).trans (ih (f s a))

theorem State.inPools_reply (n k p : Nat) (far : Option (Nat × Nat)) (r : Reply) : s.InPools (s.reply n k far p r) := by
  rcases far with - | ⟨dev, req⟩ <;> exact ⟨_, _, rfl⟩

theorem State.inPools_endPadWatches (n lo k : Nat) : s.InPools (s.endPadWatches n lo k) := by
  unfold State.endPadWatches
  dsimp only
  split_ifs
  · exact .refl s
  · exact State.InPools.trans ⟨_, _, rfl⟩ (State.inPools_foldl _ (fun u w => u.inPools_reply ..) _)

theorem State.inPools_poolWrite (n off : Nat) (bs : List Byte) (ty : Nat) (know : Know) : s.InPools (s.poolWrite n off bs ty know) :=
  State.InPools.trans ⟨_, _, rfl⟩ (State.inPools_endPadWatches ..)

theorem granulesOf_whole {off : Nat} (h : off % 64 = 0) : granulesOf off 64 = [off / 64] := by
  have : (off + 64 - 1) / 64 - off / 64 + 1 = 1 := by omega
  rw [granulesOf, if_neg (by decide), this]
  rfl

/-- A pool after the write of a whole granule: what stood in the granule, zeroed or not, is overwritten. -/
theorem State.pool_poolWrite_whole {n off : Nat} {bs : List Byte} (ty : Nat) (know : Know) (hoff : off % 64 = 0)
    (hbs : bs.length = 64) (hwf : (s.core n).pool.wf = true) : ∃ m : Memory, m.wf = true
      ∧ ((s.poolWrite n off bs ty know).core n).pool = writeBytes m off bs
      ∧ ∀ a, a < off ∨ off + 64 ≤ a → readByte m a = readByte (s.core n).pool a := by
  have hbase : off / 64 * 64 = off := by omega
  unfold State.poolWrite
  dsimp only
  rw [State.pool_endPadWatches, State.modCore, State.core_setCore_same, hbs, granulesOf_whole hoff]
  by_cases hfresh : s.tagged n (off / 64 * 64) = true ∧ tagValid ((s.core n).tag (off / 64)) = false
  · refine ⟨writeBytes (s.core n).pool (off / 64 * 64) (List.replicate 64 0#8), wf_writeBytes _ _ hwf, ?_, fun a ha => ?_⟩
    · simp [hfresh.1, hfresh.2]
    · exact readByte_writeBytes_other _ a _ hwf (by rw [List.length_replicate, hbase]; exact ha)
  · refine ⟨(s.core n).pool, hwf, ?_, fun a _ => rfl⟩
    by_cases htag : s.tagged n (off / 64 * 64) = true
    · have hval : tagValid ((s.core n).tag (off / 64)) = true := by
        rcases h : tagValid ((s.core n).tag (off / 64))
        · exact (hfresh ⟨htag, h⟩).elim
        · rfl
      simp [htag, hval]
    · simp [htag]

end Pools

end Sys2Proof.Machine
end

section
/-!
SUPPORT. Stores that land in registers (14 R347-R352, 06 R130): what an applied store leaves in its target.
-/

namespace Sys2Proof.Machine

/-! ## Stores that land in registers -/

/-- The granules of a store written one after the other, from granule `i` of a base. -/
def State.landGranules (s : State) (n base i : Nat) (data : List (BitVec 512)) (ty : Nat) (know : Know) : State :=
  (data.zip (rangeFrom i data.length)).foldl (fun s e => s.poolWrite n (base + 64 * e.2) (granuleBytes e.1) ty know) s

theorem State.landGranules_cons (s : State) (n base i : Nat) (w : BitVec 512) (ws : List (BitVec 512)) (ty : Nat) (know : Know) :
    s.landGranules n base i (w :: ws) ty know
      = (s.poolWrite n (base + 64 * i) (granuleBytes w) ty know).landGranules n base (i + 1) ws ty know := rfl

theorem State.inPools_landGranules (s : State) (n base i : Nat) (data : List (BitVec 512)) (ty : Nat) (know : Know) :
    s.InPools (s.landGranules n base i data ty know) :=
  State.inPools_foldl s (fun u _ => u.inPools_poolWrite ..) _

/-- Whole granules written in order are all read back; nothing below the first changes. -/
theorem State.pool_landGranules {n base : Nat} (hbase : base % 64 = 0) (ty : Nat) (know : Know) (data : List (BitVec 512)) :
    ∀ (s : State) (i : Nat), (s.core n).pool.wf = true →
      readBytes ((s.landGranules n base i data ty know).core n).pool (base + 64 * i) (64 * data.length) = (data.map granuleBytes).flatten
        ∧ ∀ a, a < base + 64 * i → readByte ((s.landGranules n base i data ty know).core n).pool a = readByte (s.core n).pool a := by
  induction data with
  | nil => intro s i _; exact ⟨rfl, fun _ _ => rfl⟩
  | cons w ws ih =>
    intro s i hwf
    have hlen : (granuleBytes w).length = 64 := length_bytesOfNat 64 _
    obtain ⟨m, hm, hpool, hother⟩ := s.pool_poolWrite_whole ty know (n := n) (off := base + 64 * i) (by omega) hlen hwf
    obtain ⟨hread, hbelow⟩ := ih (s.poolWrite n (base + 64 * i) (granuleBytes w) ty know) (i + 1) (hpool ▸ wf_writeBytes _ _ hm)
    have hnext : base + 64 * i + 64 = base + 64 * (i + 1) := by omega
    rw [State.landGranules_cons, List.length_cons, Nat.mul_succ, Nat.add_comm (64 * ws.length) 64, readBytes_add, hnext, hread]
    refine ⟨?_, fun a ha => ?_⟩
    · rw [List.map_cons, List.flatten_cons, readBytes_congr fun a _ ha => hbelow a (by omega), hpool]
      exact congrArg (· ++ _) (hlen ▸ readBytes_writeBytes (base + 64 * i) (granuleBytes w) hm)
    · rw [hbelow a (by omega), hpool, readByte_writeBytes_other _ a _ hm (.inl ha), hother a (.inl ha)]

theorem getLsbD_holdMask (g n : Nat) {j : Nat} (hj : j < 128) :
    (holdMask g n).getLsbD j = (decide (g ≤ j) && decide (j < g + n)) := by
  rw [holdMask, BitVec.getLsbD_ofNat, testBit_at, Nat.testBit_two_pow_sub_one]
  by_cases hg : g ≤ j
  · have hsub : j - g < n ↔ j < g + n := by omega
    simp [hj, hg, hsub]
  · simp [hg]

/-- The granules of a range whose hold was armed in a clock. -/
def armedNow (armed : Map Nat) (cyc g n : Nat) : BitVec 128 :=
  (rangeFrom g n).foldl (fun m k => if look armed k = some cyc then m ||| holdMask k 1 else m) 0#128

theorem getLsbD_armedNow (armed : Map Nat) (cyc g n : Nat) {j : Nat} (hj : j < 128) :
    (armedNow armed cyc g n).getLsbD j = (decide (g ≤ j) && decide (j < g + n) && decide (look armed j = some cyc)) := by
  have hfold : ∀ (ks : List Nat) (m : BitVec 128),
      (ks.foldl (fun m k => if look armed k = some cyc then m ||| holdMask k 1 else m) m).getLsbD j
        = (m.getLsbD j || (decide (j ∈ ks) && decide (look armed j = some cyc))) := by
    intro ks
    induction ks with
    | nil => intro m; simp
    | cons k ks ih =>
      intro m
      rw [List.foldl_cons, ih]
      by_cases hk : look armed k = some cyc
      · have hone : (holdMask k 1).getLsbD j = decide (j = k) := by
          rw [getLsbD_holdMask k 1 hj, ← Bool.decide_and]
          exact decide_eq_decide.mpr (by omega)
        rw [if_pos hk, BitVec.getLsbD_or, hone]
        by_cases hjk : j = k
        · subst hjk; simp [hk]
        · simp [hjk]
      · rw [if_neg hk]
        by_cases hjk : j = k
        · subst hjk; simp [hk]
        · simp [hjk]
  rw [armedNow, hfold, BitVec.getLsbD_zero, Bool.false_or, rangeFrom_eq_range', decide_eq_decide.mpr List.mem_range'_1, Bool.decide_and]

section Applied
variable (s : State) (k : Nat) (g : Landing)

/-- The target after a store that is applied: the holds of its granules go, but for those armed in this clock. -/
theorem State.proc_applyLanding : (s.applyLanding k g).proc k
    = { s.proc k with
        holds := (s.proc k).holds &&& ~~~(holdMask (g.off / 64) g.data.length
          &&& ~~~armedNow (s.proc k).armed s.cyc (g.off / 64) g.data.length)
        landKnow := joinKnow (s.proc k).landKnow g.know
        hcnt := if g.halo then hcntInc (s.proc k).hcnt g.side else (s.proc k).hcnt } := by
  have hland := s.inPools_landGranules (s.proc k).core ((s.proc k).land.1 + g.off) 0 g.data g.ty g.know
  unfold State.applyLanding
  dsimp only
  rw [State.proc_modProc_same]
  split
  · split <;> rfl
  · obtain ⟨cs, is, hu⟩ := hland
    rw [show (g.data.zip (rangeFrom 0 g.data.length)).foldl _ s = _ from hu]
    rfl

/-- The pool of the target's core after a store that is applied there. -/
theorem State.pool_applyLanding (h : (s.proc k).state ≠ .swapped) (n : Nat) : ((s.applyLanding k g).core n).pool
    = ((s.landGranules (s.proc k).core ((s.proc k).land.1 + g.off) 0 g.data g.ty g.know).core n).pool := by
  unfold State.applyLanding
  dsimp only
  rw [if_neg h]
  rfl

theorem State.holds_applyLanding {j : Nat} (hj : j < 128) : ((s.applyLanding k g).proc k).holds.getLsbD j
    = ((s.proc k).holds.getLsbD j && !(decide (g.off / 64 ≤ j) && decide (j < g.off / 64 + g.data.length)
      && decide (look (s.proc k).armed j ≠ some s.cyc))) := by
  rw [State.proc_applyLanding]
  simp only [BitVec.getLsbD_and, BitVec.getLsbD_not, hj, decide_true, Bool.true_and, getLsbD_holdMask _ _ hj,
    getLsbD_armedNow _ _ _ _ hj, decide_not]
  cases decide (g.off / 64 ≤ j) && decide (j < g.off / 64 + g.data.length) <;> simp

/-- In a pool in canonical form, what was stored is read back. -/
theorem State.read_applyLanding (h : (s.proc k).state ≠ .swapped) (hwf : (s.core (s.proc k).core).pool.wf = true)
    (hoff : ((s.proc k).land.1 + g.off) % 64 = 0) :
    readBytes ((s.applyLanding k g).core (s.proc k).core).pool ((s.proc k).land.1 + g.off) (64 * g.data.length)
      = (g.data.map granuleBytes).flatten := by
  rw [State.pool_applyLanding s k g h]
  exact (State.pool_landGranules hoff g.ty g.know g.data s 0 hwf).1

end Applied

/-! ### The row -/

section Lands
variable {s t : State} {i : Instr} {g : Landing}

/-- What the row does with the store of a packet, once its turn has come. -/
def State.landed (s t : State) (g : Landing) : State :=
  ((t.deliverLanding g).map fun u => if g.halo then u else u.setGstv g.agent g.target (g.seq + 1)).getD s

theorem Reached.lands (h : Reached s i (.store g) t) (hturn : g.halo = true ∨ g.seq = s.gstvExpected g.agent g.target) :
    Goes s i (s.landed t g) := by
  have hrow : PBody.row (.store g) = some i := h.2.2.1
  have hlandAt : s.landAt s.turn.unit g.halo = s.landed t g := by
    unfold State.landAt
    generalize ho : s.takeArrived s.turn.unit _ = o
    obtain ⟨p, hp, rfl⟩ := h.taken ho (fun c hc => by
        split at hc
        · rw [Bool.and_eq_true, beq_iff_eq] at hc
          rw [← hrow, PBody.row, PBody.row, hc.1]
        · exact nomatch hc) (by
        rcases hturn with hhalo | hseq
        · simp [hhalo]
        · simp [hseq])
    dsimp only
    rw [hp]
    dsimp only
    rw [State.landed]
    rcases hhalo : g.halo with - | -
    · obtain hseq := hturn.resolve_left (by simp [hhalo])
      simp [hseq]
    · simp
  cases hhalo : g.halo with
  | true =>
    rw [PBody.row, hhalo, if_pos rfl, Option.some.injEq] at hrow
    subst hrow
    show execHaloPushArrival s = _
    rw [execHaloPushArrival, h.cluster, ← hlandAt, hhalo]
    rfl
  | false =>
    rw [PBody.row, hhalo, if_neg Bool.false_ne_true, Option.some.injEq] at hrow
    subst hrow
    show execLandingStoreArrival s = _
    rw [execLandingStoreArrival, h.cluster, ← hlandAt, hhalo]
    rfl

variable {P : Proc} (hP : t.proc (slotOf g.target) = P)
include hP

theorem deliverLanding_stale (hdata : g.data ≠ []) (hthere : ¬(g.target ≠ 0 ∧ P.name = g.target ∧ P.state ≠ .exited)) :
    t.deliverLanding g = some (t.dropStale g false) := by
  unfold State.deliverLanding
  dsimp only
  rw [if_neg (by simpa using hdata), hP, if_pos (by tauto)]

/-- A store for a process that is there, by its partition, its region and its state. -/
theorem deliverLanding_there (hdata : g.data ≠ []) (hthere : g.target ≠ 0 ∧ P.name = g.target ∧ P.state ≠ .exited) :
    t.deliverLanding g = if P.part ≠ g.part then some (t.dropBreach g)
      else if P.land.2 < g.off + 64 * g.data.length then some (if g.halo then t.haloDone g true else t.dropStale g true)
      else if P.state = .moving then
        if 64 ≤ P.queued.length then none
        else some (t.modProc (slotOf g.target) fun p => { p with queued := p.queued ++ [g] })
      else some ((t.applyLanding (slotOf g.target) g).haloDone g false) := by
  unfold State.deliverLanding
  dsimp only
  rw [if_neg (by simpa using hdata), hP, if_neg (by tauto)]
  cases P.state <;> rfl

end Lands

end Sys2Proof.Machine
end

section
/-!
SUPPORT. Stores that land in registers: their rows.
-/

namespace Sys2Proof.Machine
variable {s t : State} {i : Instr} {g : Landing}

theorem storeLands (h : Reached s i (.store g) t) (hturn : g.halo = true ∨ g.seq = s.gstvExpected g.agent g.target) :
    let k := slotOf g.target
    let P := s.proc k
    let n := g.data.length
    let there := g.target ≠ 0 ∧ P.name = g.target ∧ P.state ≠ .exited
    let done := fun (u : State) => if g.halo then u else u.setGstv g.agent g.target (g.seq + 1)
    (g.data = [] → Goes s i (done t))
    ∧ (g.data ≠ [] → ¬there → Goes s i (done (t.dropStale g false)))
    ∧ (g.data ≠ [] → there → P.part ≠ g.part → Goes s i (done (t.dropBreach g)))
    ∧ (g.data ≠ [] → there → P.part = g.part → P.land.2 < g.off + 64 * n →
      Goes s i (done (if g.halo then t.haloDone g true else t.dropStale g true)))
    ∧ (g.data ≠ [] → there → P.part = g.part → g.off + 64 * n ≤ P.land.2 →
      (P.state ≠ .moving → let u := t.applyLanding k g
        Goes s i (done (u.haloDone g false)) ∧ (∀ j, j < 128 → (u.proc k).holds.getLsbD j = (P.holds.getLsbD j
            && !(decide (g.off / 64 ≤ j) && decide (j < g.off / 64 + n) && decide (look P.armed j ≠ some s.cyc))))
          ∧ (u.proc k).hcnt = (if g.halo then hcntInc P.hcnt g.side else P.hcnt)
          ∧ (P.state ≠ .swapped → (s.core P.core).pool.wf = true → (P.land.1 + g.off) % 64 = 0 →
            readBytes (u.core P.core).pool (P.land.1 + g.off) (64 * n) = (g.data.map granuleBytes).flatten))
      ∧ (P.state = .moving → P.queued.length < 64 → Goes s i (done (t.modProc k fun p => { p with queued := P.queued ++ [g] })))
      ∧ (P.state = .moving → 64 ≤ P.queued.length → Goes s i s)) := by
  intro k P n there done
  have hgoes : ∀ u, t.deliverLanding g = some u → Goes s i (done u) := fun u hu => by
    have := h.lands hturn
    rwa [State.landed, hu] at this
  have hP : t.proc k = P := h.proc k
  refine ⟨fun hdata => hgoes _ ?_, fun hdata hthere => hgoes _ (deliverLanding_stale hP hdata hthere),
    fun hdata hthere hpart => hgoes _ ?_, fun hdata hthere hpart hland => hgoes _ ?_, fun hdata hthere hpart hland => ?_⟩
  · rw [State.deliverLanding, hdata]; rfl
  · exact (deliverLanding_there hP hdata hthere).trans (if_pos hpart)
  · exact (deliverLanding_there hP hdata hthere).trans ((if_neg (not_not_intro hpart)).trans (if_pos hland))
  have hdeliver := (deliverLanding_there hP hdata hthere).trans ((if_neg (not_not_intro hpart)).trans (if_neg (Nat.not_lt.mpr hland)))
  refine ⟨fun hstate => ⟨hgoes _ (hdeliver.trans (if_neg hstate)), fun j hj => ?_, ?_, fun hswapped hwf hoff => ?_⟩,
    fun hstate hroom => hgoes _ (hdeliver.trans ((if_pos hstate).trans ((if_neg (Nat.not_le.mpr hroom)).trans ?_))),
    fun hstate hfull => ?_⟩
  · rw [State.holds_applyLanding t k g hj, hP, h.cyc]
  · rw [State.proc_applyLanding, hP]
  · rw [← hP]
    exact State.read_applyLanding t k g (hP ▸ hswapped) (hP ▸ h.core P.core ▸ hwf) (hP ▸ hoff)
  · rw [State.modProc, State.modProc, hP]
  · have := h.lands hturn
    rwa [State.landed, hdeliver.trans ((if_pos hstate).trans (if_pos hfull))] at this

end Sys2Proof.Machine
end

section
/-!
SUPPORT. What traffic of channels leaves alone (13 R308-R326): packets that leave, ends and events that move, inboxes that change.
-/

namespace Sys2Proof.Machine

/-! ## Packets that leave -/

/-- Packets have left for clusters and for other devices; nothing else has changed. -/
def PacketsLeft (s u : State) : Prop := ∃ cls fr inj, u = { s with clusters := cls, fresh := fr, inject := inj }

section Sends
variable {s t u : State}

theorem PacketsLeft.refl (s : State) : PacketsLeft s s := ⟨_, _, _, rfl⟩

theorem PacketsLeft.trans (h : PacketsLeft s t) (g : PacketsLeft t u) : PacketsLeft s u := by
  obtain ⟨cls, fr, inj, rfl⟩ := h
  obtain ⟨cls', fr', inj', rfl⟩ := g
  exact ⟨cls', fr', inj', rfl⟩

variable (s)

theorem State.left_sendPkt (src dst part : Nat) (body : PBody) : PacketsLeft s (s.sendPkt src dst part body) := ⟨_, _, _, rfl⟩

theorem State.left_injectPkt (p : PodPacket) : PacketsLeft s (s.injectPkt p) := ⟨_, _, _, rfl⟩

theorem State.left_sendTo (core dev cl part : Nat) (body : PBody) : PacketsLeft s (s.sendTo core dev cl part body) := by
  unfold State.sendTo
  split
  · exact s.left_sendPkt ..
  · exact s.left_injectPkt ..

theorem State.left_toHome (core chid home part : Nat) (body : PBody) : PacketsLeft s (s.toHome core chid home part body) :=
  s.left_sendTo ..

theorem State.left_sendEvent (core part name : Nat) (e : Evt) : PacketsLeft s (s.sendEvent core part name e) := by
  unfold State.sendEvent
  split_ifs
  · exact .refl s
  · exact s.left_injectPkt _
  · split
    · exact s.left_sendPkt ..
    · exact .refl s

variable {s}

theorem PacketsLeft.proc (h : PacketsLeft s u) (k : Nat) : u.proc k = s.proc k := by obtain ⟨_, _, _, rfl⟩ := h; rfl

theorem PacketsLeft.core (h : PacketsLeft s u) (n : Nat) : u.core n = s.core n := by obtain ⟨_, _, _, rfl⟩ := h; rfl

theorem PacketsLeft.chans (h : PacketsLeft s u) : u.chans = s.chans := by obtain ⟨_, _, _, rfl⟩ := h; rfl

end Sends

/-! ### What has been sent from a cluster -/

section Leaving
variable {s u : State} {cl : Nat} {bs : List (Nat × PBody)}

theorem PClass.idx_inj {a b : PClass} (h : a.idx = b.idx) : a = b :=
  match a, b, h with
  | .request, .request, _ | .response, .response, _ | .stream, .stream, _ => rfl

theorem State.leaving_sendPkt (s : State) (cl dst part : Nat) (body : PBody) (c : PClass) : ∃ p : Packet, p.dst = [dst] ∧ p.body = body
    ∧ (s.sendPkt cl dst part body).leaving cl c = s.leaving cl c ++ if body.cls == c then [p] else [] := by
  refine ⟨{ src := cl, dst := [dst], cls := body.cls, part := part, age := s.fresh, body := body }, rfl, rfl, ?_⟩
  unfold State.sendPkt State.leaving
  dsimp only
  rw [State.cluster_modCluster_same, find_put]
  by_cases hc : body.cls = c
  · subst hc
    rw [if_pos rfl, if_pos (beq_self_eq_true _)]
    rfl
  · rw [if_neg fun h => hc (PClass.idx_inj (Nat.add_left_cancel h)).symm, if_neg fun h => hc (beq_iff_eq.mp h), List.append_nil]
    rfl

theorem SentSince.none (h : ∀ c, u.leaving cl c = s.leaving cl c) : SentSince s u cl [] :=
  fun c => ⟨[], by rw [h c, List.append_nil], rfl⟩

theorem SentSince.sendPkt (h : SentSince s u cl bs) (dst part : Nat) (body : PBody) :
    SentSince s (u.sendPkt cl dst part body) cl (bs ++ [(dst, body)]) := by
  intro c
  obtain ⟨ps, hps, hmap⟩ := h c
  obtain ⟨p, hdst, hbody, hleaving⟩ := u.leaving_sendPkt cl dst part body c
  refine ⟨ps ++ if body.cls == c then [p] else [], by rw [hleaving, hps, List.append_assoc], ?_⟩
  rw [List.map_append, hmap, List.filter_append, List.map_append]
  by_cases hc : body.cls == c <;> simp [hc, hdst, hbody]

/-- A packet for a cluster of this device. -/
theorem SentSince.sendTo (h : SentSince s u cl bs) {core dev : Nat} (hdev : dev = u.devidx) (hcl : core / 8 = cl) (dst part : Nat)
    (body : PBody) : SentSince s (u.sendTo core dev dst part body) cl (bs ++ [(dst, body)]) := by
  rw [State.sendTo, if_pos hdev, hcl]
  exact h.sendPkt dst part body

/-- A first packet for a cluster of this device, and a second one. -/
theorem SentSince.sendTo_first (h : SentSince s u cl []) {core dev : Nat} (hdev : dev = u.devidx) (hcl : core / 8 = cl)
    (dst part : Nat) (body : PBody) : SentSince s (u.sendTo core dev dst part body) cl [(dst, body)] := h.sendTo hdev hcl dst part body

theorem SentSince.sendTo_second {b : Nat × PBody} (h : SentSince s u cl [b]) {core dev : Nat} (hdev : dev = u.devidx) (hcl : core / 8 = cl)
    (dst part : Nat) (body : PBody) : SentSince s (u.sendTo core dev dst part body) cl [b, (dst, body)] := h.sendTo hdev hcl dst part body

theorem SentSince.toHome (h : SentSince s u cl []) {core chid : Nat} (hdev : chDev chid = u.devidx) (hcl : core / 8 = cl)
    (home part : Nat) (body : PBody) : SentSince s (u.toHome core chid home part body) cl [(home / 4, body)] :=
  h.sendTo_first hdev hcl (home / 4) part body

theorem SentSince.of_clusters {v : State} (h : SentSince s u cl bs) (hv : v.clusters = u.clusters) : SentSince s v cl bs := by
  intro c
  rw [State.leaving, State.cluster, hv]
  exact h c

theorem Reached.sent {t : State} {i : Instr} {b : PBody} (h : Reached s i b t) (cl : Nat) : SentSince s t cl [] := by
  obtain ⟨rest, rfl⟩ := h.rest
  refine .none fun c => ?_
  rw [State.leaving, State.leaving, State.cluster_modCluster]
  split_ifs with hcl
  · rw [hcl]
  · rfl

end Leaving

/-! ## Ends, events and inboxes -/

/-- Packets have left, and registers of ends have changed. -/
def EndsMoved (s u : State) : Prop :=
  ∃ ps, PacketsLeft { s with procs := ps } u ∧ ∀ k, ∃ es, find ps k {} = { s.proc k with ends := es }

/-- Packets have left; registers of ends, events, start messages, LOAD, inboxes and what they know have changed. -/
def Settled (s u : State) : Prop :=
  ∃ cs ps ims, PacketsLeft { s with cores := cs, procs := ps, images := ims } u
    ∧ (∀ n, ∃ is ek, find cs n {} = { s.core n with inboxes := is, endKnow := ek })
    ∧ ∀ k, ∃ es evs sts ld, find ps k {} = { s.proc k with ends := es, events := evs, starts := sts, load := ld }

section Moves
variable {s t u : State}

theorem PacketsLeft.moved (h : PacketsLeft s u) : EndsMoved s u := ⟨s.procs, h, fun _ => ⟨_, rfl⟩⟩

theorem EndsMoved.trans (h : EndsMoved s t) (g : EndsMoved t u) : EndsMoved s u := by
  obtain ⟨ps, ⟨cls, fr, inj, rfl⟩, hps⟩ := h
  obtain ⟨ps', ⟨cls', fr', inj', rfl⟩, hps'⟩ := g
  refine ⟨ps', ⟨_, _, _, rfl⟩, fun k => ?_⟩
  obtain ⟨es, hes⟩ := hps k
  obtain ⟨es', hes'⟩ := hps' k
  exact ⟨es', hes'.trans (congrArg (fun p : Proc => { p with ends := es' }) hes)⟩

theorem EndsMoved.foldl {α : Type} {f : State → α → State} (h : ∀ (u : State) (a : α), EndsMoved u (f u a)) (as : List α) (s : State) :
    EndsMoved s (as.foldl f s) := by
  induction as generalizing s with
  | nil => exact (PacketsLeft.refl s).moved
  | cons a as ih => exact (h s a).trans (ih (f s a))

theorem EndsMoved.core (h : EndsMoved s u) (n : Nat) : u.core n = s.core n := by obtain ⟨ps, hsent, -⟩ := h; exact hsent.core n

theorem EndsMoved.proc (h : EndsMoved s u) (k : Nat) : ∃ es, u.proc k = { s.proc k with ends := es } := by
  obtain ⟨ps, hsent, hps⟩ := h
  obtain ⟨es, hes⟩ := hps k
  exact ⟨es, (hsent.proc k).trans hes⟩

theorem EndsMoved.cyc (h : EndsMoved s u) : u.cyc = s.cyc := by obtain ⟨ps, ⟨_, _, _, rfl⟩, -⟩ := h; rfl

theorem EndsMoved.settled (h : EndsMoved s u) : Settled s u := by
  obtain ⟨ps, hsent, hps⟩ := h
  refine ⟨s.cores, ps, s.images, hsent, fun n => ⟨_, _, rfl⟩, fun k => ?_⟩
  obtain ⟨es, hes⟩ := hps k
  exact ⟨es, _, _, _, hes⟩

theorem PacketsLeft.settled (h : PacketsLeft s u) : Settled s u := h.moved.settled

theorem Settled.refl (s : State) : Settled s s := (PacketsLeft.refl s).settled

theorem Settled.trans (h : Settled s t) (g : Settled t u) : Settled s u := by
  obtain ⟨cs, ps, ims, ⟨cls, fr, inj, rfl⟩, hcs, hps⟩ := h
  obtain ⟨cs', ps', ims', ⟨cls', fr', inj', rfl⟩, hcs', hps'⟩ := g
  refine ⟨cs', ps', ims', ⟨_, _, _, rfl⟩, fun n => ?_, fun k => ?_⟩
  · obtain ⟨is, ek, h⟩ := hcs n
    obtain ⟨is', ek', h'⟩ := hcs' n
    exact ⟨is', ek', h'.trans (congrArg (fun c : Core => { c with inboxes := is', endKnow := ek' }) h)⟩
  · obtain ⟨es, evs, sts, ld, h⟩ := hps k
    obtain ⟨es', evs', sts', ld', h'⟩ := hps' k
    exact ⟨es', evs', sts', ld', h'.trans (congrArg (fun p : Proc => { p with ends := es', events := evs', starts := sts', load := ld' }) h)⟩

theorem Settled.foldl {α : Type} {f : State → α → State} (h : ∀ (u : State) (a : α), Settled u (f u a)) (as : List α) (s : State) :
    Settled s (as.foldl f s) := by
  induction as generalizing s with
  | nil => exact .refl s
  | cons a as ih => exact (h s a).trans (ih (f s a))

theorem Settled.chans (h : Settled s u) : u.chans = s.chans := by obtain ⟨_, _, _, hsent, -⟩ := h; exact hsent.chans

theorem Settled.chan (h : Settled s u) (k : Nat) : u.chan k = s.chan k := by rw [State.chan, h.chans]; rfl

theorem Settled.ctx (h : Settled s u) (n k : Nat) : u.ctx n k = s.ctx n k := by
  obtain ⟨cs, ps, ims, hsent, hcs, -⟩ := h
  obtain ⟨is, ek, hn⟩ := hcs n
  rw [State.ctx, hsent.core n]
  show (find cs n {}).ctx k = _
  rw [hn]
  rfl

theorem Settled.proc (h : Settled s u) (k : Nat) :
    ∃ es evs sts ld, u.proc k = { s.proc k with ends := es, events := evs, starts := sts, load := ld } := by
  obtain ⟨cs, ps, ims, hsent, -, hps⟩ := h
  obtain ⟨es, evs, sts, ld, hk⟩ := hps k
  exact ⟨es, evs, sts, ld, (hsent.proc k).trans hk⟩

variable (s)

theorem State.moved_modEnd (slot k : Nat) (f : EndReg → EndReg) : EndsMoved s (s.modEnd slot k f) := by
  refine ⟨_, .refl _, fun j => ?_⟩
  rw [find_put]
  split_ifs with hj
  · subst hj; exact ⟨_, rfl⟩
  · exact ⟨_, rfl⟩

theorem State.moved_clearEnds (slot : Nat) (ks : List Nat) (st : EndState) : EndsMoved s (s.clearEnds slot ks st) :=
  EndsMoved.foldl (fun u k => u.moved_modEnd slot k _) ks s

theorem State.moved_accepted (core part : Nat) (m : Msg) : EndsMoved s (s.accepted core part m) := by
  unfold State.accepted
  dsimp only
  split_ifs
  · exact (PacketsLeft.refl s).moved
  · split
    · exact s.moved_clearEnds ..
    · exact (PacketsLeft.refl s).moved
  · exact (s.left_injectPkt _).moved

theorem State.moved_discard (core slot : Nat) (m : Msg) : EndsMoved s (s.discard core slot m) := by
  unfold State.discard
  dsimp only
  split_ifs
  · exact (PacketsLeft.refl s).moved
  · refine (s.moved_accepted core m.part m).trans (EndsMoved.foldl (fun u e => ?_) _ _)
    split_ifs <;> exact (u.left_toHome ..).moved
  · refine (s.moved_clearEnds slot m.lands .empty).trans (EndsMoved.foldl (fun u e => ?_) _ _)
    split_ifs <;> exact (u.left_toHome ..).moved

theorem State.settled_modProc (slot : Nat) {f : Proc → Proc}
    (hf : ∀ p, ∃ es evs sts ld, f p = { p with ends := es, events := evs, starts := sts, load := ld }) : Settled s (s.modProc slot f) := by
  refine ⟨s.cores, _, s.images, PacketsLeft.refl _, fun n => ⟨_, _, rfl⟩, fun k => ?_⟩
  rw [find_put]
  split_ifs with hk
  · subst hk; exact hf _
  · exact ⟨_, _, _, _, rfl⟩

theorem State.settled_modCore (n : Nat) {f : Core → Core} (hf : ∀ c, ∃ is ek, f c = { c with inboxes := is, endKnow := ek }) :
    Settled s (s.modCore n f) := by
  refine ⟨_, s.procs, s.images, PacketsLeft.refl _, fun m => ?_, fun k => ⟨_, _, _, _, rfl⟩⟩
  rw [find_put]
  split_ifs with hm
  · subst hm; exact hf _
  · exact ⟨_, _, rfl⟩

theorem State.settled_modInbox (n chid : Nat) (f : Inbox → Inbox) : Settled s (s.modInbox n chid f) :=
  s.settled_modCore n fun _ => ⟨_, _, rfl⟩

theorem State.settled_advance (n chid : Nat) : Settled s (s.advance n chid) := by
  have hfuel : ∀ (k : Nat) (u : State), Settled u (u.advanceFuel n chid k) := by
    intro k
    induction k with
    | zero => exact Settled.refl
    | succ k ih =>
      intro u
      unfold State.advanceFuel
      dsimp only
      split
      · exact .refl u
      · split_ifs
        · exact .refl u
        · exact ((u.settled_modInbox n chid _).trans (State.moved_modEnd _ _ _ _).settled).trans (ih _)
        · exact (u.moved_modEnd _ _ _).settled.trans (State.settled_modProc _ _ fun _ => ⟨_, _, _, _, rfl⟩)
        · exact .refl u
  exact hfuel _ s

theorem State.settled_addLoad (chid name add sub : Nat) : Settled s (s.addLoad chid name add sub) := by
  unfold State.addLoad
  split_ifs
  · exact (s.left_injectPkt _).settled
  · split
    · exact s.settled_modProc _ fun _ => ⟨_, _, _, _, rfl⟩
    · exact .refl s

theorem State.settled_loadMove (chid : Nat) (c : Chan) (recv : Bool) (name : Nat) (joins : Bool) :
    Settled s (s.loadMove chid c recv name joins) := by
  unfold State.loadMove
  split_ifs
  · exact s.settled_addLoad ..
  · exact s.settled_addLoad ..
  · exact .refl s

theorem State.settled_tellRate (chid : Nat) : Settled s (s.tellRate chid) := by
  unfold State.tellRate
  dsimp only
  split
  · exact .refl s
  next c _ =>
    by_cases hdev : devOf c.rname = s.devidx
    · rw [if_pos hdev]; exact s.settled_modInbox ..
    · rw [if_neg hdev]; exact (s.left_injectPkt _).settled

theorem State.settled_landEnd (slot k : Nat) (h : BitVec 128) (back : Bool) : Settled s (s.landEnd slot k h back) := by
  have hadd : ∀ u : State, Settled u (u.addInbox slot k h) := by
    intro u
    unfold State.addInbox
    dsimp only
    split
    · exact ⟨u.cores, u.procs, _, .refl _, fun n => ⟨_, _, rfl⟩, fun j => ⟨_, _, _, _, rfl⟩⟩
    · exact u.settled_modCore _ fun _ => ⟨_, _, rfl⟩
  unfold State.landEnd
  dsimp only
  refine Settled.trans ?_ (State.left_toHome ..).settled
  split_ifs
  · exact ((s.moved_modEnd _ _ _).settled.trans (hadd _)).trans (State.settled_modCore _ _ fun _ => ⟨_, _, rfl⟩)
  · exact (s.moved_modEnd _ _ _).settled

/-! ### Records of homes -/

variable (k : Nat)

@[simp] theorem State.chan_sendTo (core dev cl part : Nat) (body : PBody) : (s.sendTo core dev cl part body).chan k = s.chan k :=
  (s.left_sendTo core dev cl part body).settled.chan k

@[simp] theorem State.chan_sendEvent (core part name : Nat) (e : Evt) : (s.sendEvent core part name e).chan k = s.chan k :=
  (s.left_sendEvent core part name e).settled.chan k

@[simp] theorem State.chan_tellRate (chid : Nat) : (s.tellRate chid).chan k = s.chan k := (s.settled_tellRate chid).chan k

@[simp] theorem State.chan_loadMove (chid : Nat) (c : Chan) (recv : Bool) (name : Nat) (joins : Bool) :
    (s.loadMove chid c recv name joins).chan k = s.chan k := (s.settled_loadMove chid c recv name joins).chan k

theorem State.chan_ite (p : Prop) [Decidable p] (t u : State) : (if p then t else u).chan k = if p then t.chan k else u.chan k :=
  apply_ite (State.chan · k) p t u

end Moves

/-! ## The inbox of a channel -/

/-- The inbox of a channel after a change of it. -/
theorem State.inbox_modInbox (s : State) (n : Nat) {chid : Nat} {f : Inbox → Inbox} (hf : ∀ i, (f i).chid = i.chid) :
    ((s.modInbox n chid f).core n).inbox chid = ((s.core n).inbox chid).map f := by
  rw [State.modInbox, State.modCore, State.core_setCore_same]
  unfold Core.inbox
  dsimp only
  induction (s.core n).inboxes with
  | nil => rfl
  | cons i is ih =>
    rw [List.map_cons]
    by_cases hi : i.chid = chid
    · rw [if_pos hi, List.find?_cons_of_pos (by simp [hf, hi]), List.find?_cons_of_pos (by simp [hi])]
      rfl
    · rw [if_neg hi, List.find?_cons_of_neg (by simp [hi]), List.find?_cons_of_neg (by simp [hi]), ih]

theorem State.proc_modEnd_same (s : State) (slot k : Nat) (f : EndReg → EndReg) :
    (s.modEnd slot k f).proc slot = { s.proc slot with ends := put (s.proc slot).ends k (f ((s.proc slot).endAt k)) } :=
  State.proc_modProc_same ..

theorem State.endAt_modEnd_same (s : State) (slot k : Nat) (f : EndReg → EndReg) :
    ((s.modEnd slot k f).proc slot).endAt k = f ((s.proc slot).endAt k) := by
  rw [State.proc_modEnd_same, Proc.endAt, find_put_same]

end Sys2Proof.Machine
end

section
/-!
SUPPORT. Messages at a core and at a home (13 R308-R310, R313-R315; 15 R357): the rows that take them.
-/

namespace Sys2Proof.Machine

/-! ## Messages at a core -/

section Arrivals
variable {s t : State} {n : Nat} {m : Msg}

/-- A message as an inbox holds it. -/
def Msg.inRegs (m : Msg) (lands : List Nat) (cyc : Nat) : Msg :=
  { m with lands := lands, arrived := cyc, taken := m.taken || !m.ends.isEmpty }

theorem State.inbox_hold (s : State) {i : Inbox} (lands : List Nat) (hi : (s.core n).inbox m.chid = some i) :
    ((s.hold n i m lands).core n).inbox m.chid = some { i with
      held := insertSeq (if i.control.isSome then i.next else hSeq ((s.proc i.slot).endAt i.reg).handle) (m.inRegs lands s.cyc) i.held } := by
  have hmoved := (s.moved_clearEnds i.slot lands .reserved).trans (State.moved_accepted _ n m.part m)
  unfold State.hold
  dsimp only
  refine (State.inbox_modInbox _ n ?_).trans ?_
  · exact fun _ => rfl
  rw [hmoved.core n, hi, hmoved.cyc]
  rfl

theorem Reached.arrives (h : Reached s .messageArrival (.msg n m) t) (hsub : s.turn.sub = 0) (hagain : m.again = false) :
    Goes s .messageArrival (t.atInbox n m.chid fun u => u.arriveData n m) := by
  have hkind : m.kind ≠ .spawn := by
    intro hk
    have hrow : PBody.row (.msg n m) = some .messageArrival := h.2.2.1
    rw [PBody.row, if_pos hk] at hrow
    exact nomatch hrow
  show execMessageArrival s = _
  unfold execMessageArrival
  rw [if_neg (by rw [hsub]; decide)]
  refine h.runs (fun c hc => ?_) ?_ fun p hp => ?_
  · unfold State.isData at hc
    split at hc
    · rw [Bool.and_eq_true, decide_eq_true_eq] at hc
      rw [PBody.row, if_neg hc.1]
    · exact nomatch hc
  · rw [State.isData, State.againFits, hagain, decide_eq_true hkind]
    rfl
  · rw [hp]

/-- A message refused at a core: its sequence is settled there, it goes back with the detail, and a refusal for want of room is counted. -/
def State.refuseData (s : State) (n : Nat) (m : Msg) (why name : Nat) : State :=
  ((s.modInbox n m.chid fun i =>
    { i with settled := i.settled ++ [m.seq], refused := i.refused + (if why = 4 then 0 else 1) }).advance n m.chid).refuse n m why name

/-- A message for an inbox of its core: taken, or refused with the first detail that applies. -/
theorem State.arriveData_inbox (hagain : m.again = false) {i : Inbox} (hi : (t.core n).inbox m.chid = some i) (hcontrol : i.control = none) :
    (t.atInbox n m.chid fun u => u.arriveData n m)
      = if i.cap ≤ i.held.length + t.parkedFor i then t.refuseData n m 0 (t.proc i.slot).name
        else if (t.core n).poolRoom ≤ (t.core n).pooled then t.refuseData n m 1 (t.proc i.slot).name
        else ((t.proc i.slot).freeEnds m.ends.length).elim (t.refuseData n m 4 (t.proc i.slot).name) (t.hold n i m) := by
  unfold State.atInbox
  rw [if_pos (by rw [hi]; rfl)]
  show t.arriveData n m = _
  unfold State.arriveData
  rw [hi]
  dsimp only
  rw [hcontrol, hagain, if_neg (by decide), if_neg (by decide)]
  cases (t.proc i.slot).freeEnds m.ends.length <;> rfl

/-- A message for a channel that has no inbox at the core goes to its home. -/
theorem State.arriveData_gone (hi : (t.core n).inbox m.chid = none) (him : t.inboxImage n m.chid = none) :
    (t.atInbox n m.chid fun u => u.arriveData n m) = t.toHome n m.chid m.home m.part (.toHome m) := by
  unfold State.atInbox
  rw [if_neg (by rw [hi]; decide), him]
  show t.arriveData n m = _
  unfold State.arriveData
  rw [hi]

theorem Reached.parkedFor {i : Instr} {b : PBody} (h : Reached s i b t) (x : Inbox) : t.parkedFor x = s.parkedFor x := by
  obtain ⟨rest, rfl⟩ := h.rest
  rfl

theorem Reached.inboxImage {i : Instr} {b : PBody} (h : Reached s i b t) (n chid : Nat) : t.inboxImage n chid = s.inboxImage n chid := by
  obtain ⟨rest, rfl⟩ := h.rest
  rfl

theorem messageGoesHome (h : Reached s .messageArrival (.msg n m) t) (hsub : s.turn.sub = 0) (hagain : m.again = false)
    (hi : (s.core n).inbox m.chid = none) (him : s.inboxImage n m.chid = none) :
    Goes s .messageArrival (t.toHome n m.chid m.home m.part (.toHome m)) := by
  rw [← State.arriveData_gone (h.core n ▸ hi) (h.inboxImage n m.chid ▸ him)]
  exact h.arrives hsub hagain

theorem messageArrives (h : Reached s .messageArrival (.msg n m) t) (hsub : s.turn.sub = 0) (hagain : m.again = false) {i : Inbox}
    (hi : (s.core n).inbox m.chid = some i) (hcontrol : i.control = none) :
    let P := s.proc i.slot
    let full := i.cap ≤ i.held.length + s.parkedFor i
    let room := (s.core n).pooled < (s.core n).poolRoom
    (∀ lands, ¬full → room → P.freeEnds m.ends.length = some lands → ∃ u, Goes s .messageArrival u
      ∧ let m' := { m with lands := lands, arrived := s.cyc, taken := m.taken || !m.ends.isEmpty }
        (u.core n).inbox m.chid = some { i with held := insertSeq (hSeq (P.endAt i.reg).handle) m' i.held })
    ∧ (∀ why, (full ∧ why = 0) ∨ (¬full ∧ ¬room ∧ why = 1) ∨ (¬full ∧ room ∧ P.freeEnds m.ends.length = none ∧ why = 4) →
      Goes s .messageArrival (t.refuseData n m why P.name)) := by
  intro P full room
  have hgoes := h.arrives hsub hagain
  have hi' : (t.core n).inbox m.chid = some i := h.core n ▸ hi
  rw [State.arriveData_inbox hagain hi' hcontrol, h.parkedFor, h.core, h.proc] at hgoes
  constructor
  · intro lands hfull hroom hfree
    rw [if_neg hfull, if_neg (Nat.not_le.mpr hroom), hfree] at hgoes
    refine ⟨_, hgoes, ?_⟩
    rw [Option.elim_some, State.inbox_hold t lands hi', hcontrol, h.cyc, h.proc]
    rfl
  · rintro why (⟨hfull, rfl⟩ | ⟨hfull, hroom, rfl⟩ | ⟨hfull, hroom, hfree, rfl⟩)
    · rwa [if_pos hfull] at hgoes
    · rwa [if_neg hfull, if_pos (Nat.not_lt.mp hroom)] at hgoes
    · rwa [if_neg hfull, if_neg (Nat.not_le.mpr hroom), hfree] at hgoes

/-! ### Fault messages -/

theorem mem_insertSeq (base : Nat) (m : Msg) (ms : List Msg) : m ∈ insertSeq base m ms := by
  induction ms with
  | nil => exact List.mem_singleton_self m
  | cons x xs ih =>
    rw [insertSeq]
    split_ifs
    · exact List.mem_cons_self
    · exact List.mem_cons_of_mem x ih

theorem State.faultMsgs_hold (s : State) (n : Nat) (i : Inbox) {m : Msg} (hends : m.ends = []) :
    (s.hold n i m []).faultMsgs = s.faultMsgs := by
  have haccepted : ∀ u : State, u.accepted n m.part m = u := by
    intro u
    unfold State.accepted
    rw [hends]
    exact if_pos (by simp)
  unfold State.hold
  dsimp only
  rw [haccepted]
  rfl

theorem faultMessageArrives {d : Nat} (hd : s.turn.unit = d) (hsub : s.turn.sub = 1) (hdie : d < 4) (hpart : s.turn.val < 8) {f : FaultMsg}
    {rest : List FaultMsg} {i : Inbox}
    (htake : takeFirst (fun (m : FaultMsg) => m.part == s.turn.val && m.die == d) s.faultMsgs = some (f, rest)) :
    let P := s.proc (find (s.part s.turn.val).supers d 0)
    let chid := hChid (P.endAt 0).handle
    P.state ≠ .exited → (s.core P.core).inbox chid = some i → i.held.length < i.cap → (s.core P.core).pooled < (s.core P.core).poolRoom →
    ∃ u j m, Goes s .messageArrival u ∧ u.faultMsgs = rest ∧ (u.core P.core).inbox chid = some j ∧ m ∈ j.held ∧ m.words = f.words := by
  intro P chid hstate hi hheld hroom
  let m : Msg := { kind := .data, chid := chid, home := hHome (P.endAt 0).handle,
                   seq := (hSeq (P.endAt 0).handle + i.held.length) % 2 ^ 32, name := f.name, words := f.words, part := s.turn.val }
  have hdeliver : s.deliverFault s.turn.val d = ({ s with faultMsgs := rest } : State).hold P.core i m [] := by
    unfold State.deliverFault
    rw [htake]
    dsimp only
    rw [show (s.core P.core).inbox (hChid (P.endAt 0).handle) = some i from hi]
    exact if_neg (by simp [P, hstate, Nat.not_le.mpr hheld, Nat.not_le.mpr hroom] )
  refine ⟨({ s with faultMsgs := rest } : State).hold P.core i m [], _, m.inRegs [] s.cyc, ?_, State.faultMsgs_hold (m := m) _ _ _ rfl,
    State.inbox_hold (m := m) { s with faultMsgs := rest } [] hi, mem_insertSeq _ _ _, rfl⟩
  show execMessageArrival s = _
  rw [execMessageArrival, if_pos hsub, hd, if_neg (by simp [hdie, hpart]), hdeliver]

end Arrivals

end Sys2Proof.Machine
end

section
/-!
SUPPORT. What reaches the home of a channel (13 R298, R308, R313-R319): the rows that take it.
-/

namespace Sys2Proof.Machine

section Homes
variable {s t : State}

theorem State.chan_of_record {chid : Nat} {c : Chan} (h : s.record chid = some c) : s.chan (chIdx chid) = c := by
  unfold State.record at h
  split_ifs at h
  split at h
  next x hx =>
    split_ifs at h
    rw [State.chan, find, hx]
    exact Option.some.inj h
  next => exact nomatch h

section Rest
variable {i : Instr} {b : PBody} (h : Reached s i b t)
include h

theorem Reached.record (chid : Nat) : t.record chid = s.record chid := by
  obtain ⟨rest, rfl⟩ := h.rest
  rfl

theorem Reached.chan (k : Nat) : t.chan k = s.chan k := by
  obtain ⟨rest, rfl⟩ := h.rest
  rfl

theorem Reached.parkedAt (chid : Nat) : t.parkedAt chid = s.parkedAt chid := by
  obtain ⟨rest, rfl⟩ := h.rest
  rfl

theorem Reached.devidx : t.devidx = s.devidx := by
  obtain ⟨rest, rfl⟩ := h.rest
  rfl

end Rest

/-! ## Messages -/

section Forward
variable {m : Msg}

theorem Reached.atHome (h : Reached s .homeForward (.toHome m) t) : Goes s .homeForward (t.atHome (.toHome m)) := by
  refine h.runs (fun c hc => ?_) ?_ fun p hp => ?_
  · split at hc
    exacts [rfl, rfl, rfl, rfl, nomatch hc]
  · rfl
  · rw [hp]

theorem messageWithoutHome (h : Reached s .homeForward (.toHome m) t) (hrecord : s.record m.chid = none) :
    Goes s .homeForward (t.refuse m.core m 2 0) := by
  have hgoes := h.atHome
  have hrecord' := (h.record m.chid).trans hrecord
  unfold State.atHome at hgoes
  dsimp only at hgoes
  rw [hrecord', Option.isSome_none, Bool.false_and, if_neg Bool.false_ne_true, State.arriveHome, hrecord'] at hgoes
  exact hgoes

/-- The home tells the core of a sender of this device where the receive end is. -/
def State.tellSender (s : State) (c : Chan) (m : Msg) : State :=
  s.sendTo c.at s.devidx (m.core / 8) m.part (.location m.core m.chid (c.seenFrom s.devidx) (decide (c.rst = .closed)))

theorem State.arriveHome_eq {c : Chan} (hrecord : s.record m.chid = some c) (hdev : devOf m.name = s.devidx) (hagain : m.again = false) :
    s.arriveHome m = match c.rst with
      | .here => (s.tellSender c m).sendTo c.at (devOf c.rname) (c.rloc / 8) m.part (.msg c.rloc m)
      | .inTransit =>
        if c.cap ≤ s.parkedAt m.chid then
          ((s.tellSender c m).modChan (chIdx m.chid) fun c => { c with parked := insertParked c.dseq (.settled m.seq) c.parked }).refuse
            c.at m 3 c.rname
        else (s.tellSender c m).modChan (chIdx m.chid) fun c => { c with parked := insertParked c.dseq (.msg m) c.parked }
      | .closed => (s.tellSender c m).refuse c.at m 2 c.rname := by
  have hparked : (s.tellSender c m).parkedAt m.chid = s.parkedAt m.chid := by
    obtain ⟨_, _, _, he⟩ := s.left_sendTo c.at s.devidx (m.core / 8) m.part
      (.location m.core m.chid (c.seenFrom s.devidx) (decide (c.rst = .closed)))
    rw [State.tellSender, he]
    rfl
  unfold State.arriveHome
  rw [hrecord]
  dsimp only
  rw [hdev, hagain, ← hparked]
  unfold State.tellSender
  cases c.rst
  · rfl
  · simp only [Bool.not_false, and_true]
  · rfl

theorem State.devidx_sendTo (s : State) (core dev cl part : Nat) (body : PBody) : (s.sendTo core dev cl part body).devidx = s.devidx := by
  obtain ⟨_, _, _, he⟩ := s.left_sendTo core dev cl part body
  rw [he]

theorem homeForwards (h : Reached s .homeForward (.toHome m) t) {c : Chan} (hrecord : s.record m.chid = some c) (hrole : c.role ≠ 1)
    (hdev : devOf m.name = s.devidx) (hagain : m.again = false) :
    let at' := c.at / 8
    let loc := (m.core / 8, PBody.location m.core m.chid (c.seenFrom s.devidx) (decide (c.rst = .closed)))
    (c.rst = .here → devOf c.rname = s.devidx → ∃ u, Goes s .homeForward u ∧ SentSince s u at' [loc, (c.rloc / 8, .msg c.rloc m)])
    ∧ (c.rst = .closed → ∃ u, Goes s .homeForward u ∧ SentSince s u at' [loc, (m.core / 8, .refused m 2 c.rname)])
    ∧ (c.rst = .inTransit → s.parkedAt m.chid < c.cap → ∃ u, Goes s .homeForward u ∧ SentSince s u at' [loc]
      ∧ (u.chan (chIdx m.chid)).parked = insertParked c.dseq (.msg m) c.parked)
    ∧ (c.rst = .inTransit → c.cap ≤ s.parkedAt m.chid → ∃ u, Goes s .homeForward u
      ∧ SentSince s u at' [loc, (m.core / 8, .refused m 3 c.rname)]) := by
  intro at' loc
  have hrecord' : t.record m.chid = some c := (h.record m.chid).trans hrecord
  have hchan : t.chan (chIdx m.chid) = c := State.chan_of_record hrecord'
  have hdev' : devOf m.name = t.devidx := hdev.trans h.devidx.symm
  have hgoes : Goes s .homeForward (t.arriveHome m) := by
    have hgoes := h.atHome
    unfold State.atHome at hgoes
    dsimp only at hgoes
    rwa [hchan, decide_eq_false hrole, Bool.and_false, if_neg Bool.false_ne_true] at hgoes
  rw [State.arriveHome_eq hrecord' hdev' hagain, h.parkedAt] at hgoes
  have hloc : SentSince s (t.tellSender c m) at' [loc] := by
    have hsent := (h.sent at').sendTo_first (core := c.at) rfl rfl (m.core / 8) m.part
      (.location m.core m.chid (c.seenFrom t.devidx) (decide (c.rst = .closed)))
    rw [h.devidx] at hsent
    rw [State.tellSender, h.devidx]
    exact hsent
  have htold : (t.tellSender c m).devidx = s.devidx := (State.devidx_sendTo ..).trans h.devidx
  have htoldChan : (t.tellSender c m).chan (chIdx m.chid) = c :=
    (State.chan_sendTo ..).trans hchan
  generalize t.tellSender c m = v at hgoes hloc htold htoldChan
  refine ⟨fun hrst hrdev => ?_, fun hrst => ?_, fun hrst hroom => ?_, fun hrst hfull => ?_⟩
  all_goals simp only [hrst] at hgoes
  · exact ⟨_, hgoes, hloc.sendTo_second (hrdev.trans htold.symm) rfl _ _ _⟩
  · exact ⟨_, hgoes, hloc.sendTo_second (hdev.trans htold.symm) rfl _ _ _⟩
  · rw [if_neg (Nat.not_le.mpr hroom)] at hgoes
    refine ⟨_, hgoes, hloc.of_clusters rfl, ?_⟩
    rw [State.chan_modChan_same, htoldChan]
  · rw [if_pos hfull] at hgoes
    refine ⟨_, hgoes, SentSince.sendTo_second ?_ ?_ rfl _ _ _⟩
    · exact hloc.of_clusters rfl
    · exact hdev.trans htold.symm

end Forward

/-! ## Locations -/

theorem locationUpdates {n chid : Nat} {loc : Option Nat} {closed : Bool}
    (h : Reached s .locationUpdate (.location n chid loc closed) t) {e : Nat × Proc} {k : Nat}
    (hfind : s.procs.find? (fun e => e.2.state != .exited && e.2.core == n && (e.2.holds? chid false).isSome) = some e)
    (hholds : e.2.holds? chid false = some k) :
    ∃ u, Goes s .locationUpdate u
      ∧ (u.proc e.1).endAt k = { (s.proc e.1).endAt k with loc := loc, pcl := ((s.proc e.1).endAt k).pcl || closed } := by
  refine ⟨t.modEnd e.1 k fun r => { r with loc := loc, pcl := r.pcl || closed }, ?_, ?_⟩
  · refine h.runs (fun c hc => ?_) ?_ fun p hp => ?_
    · split at hc
      exacts [rfl, nomatch hc]
    · rfl
    · rw [hp]
      dsimp only
      rw [h.procs, hfind]
      dsimp only
      rw [hholds]
      rfl
  · rw [State.endAt_modEnd_same, h.proc]

end Homes

end Sys2Proof.Machine
end

section
/-!
SUPPORT. Ends that land, close and drain at the home of a channel (13 R312-R319): the rows that take them.
-/

namespace Sys2Proof.Machine

section Ends
variable {s t : State}

/-! ## Ends that land -/

section Lands
variable {h : BitVec 128} {name n reg : Nat} {back : Bool}

theorem Reached.landsAtHome (hr : Reached s .endLandingRegistration (.landing h name n reg back) t) :
    Goes s .endLandingRegistration (t.homeLand h name n reg back) := by
  refine hr.runs (fun c hc => ?_) ?_ fun p hp => ?_
  · split at hc
    exacts [rfl, nomatch hc]
  · rfl
  · rw [hp]

variable {c : Chan} (hrecord : s.record (hChid h) = some c)
include hrecord

/-- A receive end that lands, and is not behind the moves that the home knows of, is at its new holder. -/
theorem chan_homeLand_recv (hrecv : hRecv h = true) (hopen : c.rst ≠ .closed) (hmoves : (hMoves h + 2 ^ 16 - c.mvr) % 2 ^ 16 < 2 ^ 15) :
    let c' := (s.homeLand h name n reg back).chan (chIdx (hChid h))
    c'.rst = .here ∧ c'.rname = name ∧ c'.rloc = n ∧ c'.rreg = reg := by
  intro c'
  unfold c' State.homeLand
  dsimp only
  rw [hrecord]
  dsimp only
  rw [if_pos hrecv, if_neg (by rintro (hge | hclosed); exacts [Nat.not_le.mpr hmoves hge, hopen hclosed])]
  simp only [State.chan_tellRate, State.chan_sendTo, State.chan_sendEvent, State.chan_ite, ite_self, State.chan_modChan_same, and_self]

/-- A send end that lands, and is not behind the moves that the home knows of, is at its new holder. -/
theorem chan_homeLand_send (hsend : hRecv h = false) (hopen : c.sst ≠ .closed) (hmoves : (hMoves h + 2 ^ 16 - c.mvs) % 2 ^ 16 < 2 ^ 15) :
    let c' := (s.homeLand h name n reg back).chan (chIdx (hChid h))
    c'.sst = .here ∧ c'.sname = name ∧ c'.sloc = n ∧ c'.sreg = reg := by
  intro c'
  unfold c' State.homeLand
  dsimp only
  rw [hrecord]
  dsimp only
  rw [if_neg (by rw [hsend]; exact Bool.false_ne_true),
    if_neg (by rintro (hge | hclosed); exacts [Nat.not_le.mpr hmoves hge, hopen hclosed])]
  cases c.owe <;> simp only [State.chan_tellRate, State.chan_sendTo, State.chan_sendEvent, State.chan_ite, ite_self,
    State.chan_modChan_same, and_self]

omit hrecord in
theorem endLands (hr : Reached s .endLandingRegistration (.landing h name n reg back) t) {c : Chan} (hrecord : s.record (hChid h) = some c) :
    ∃ u, Goes s .endLandingRegistration u ∧ let c' := u.chan (chIdx (hChid h))
      (hRecv h = true → c.rst ≠ .closed → (hMoves h + 2 ^ 16 - c.mvr) % 2 ^ 16 < 2 ^ 15 →
        c'.rst = .here ∧ c'.rname = name ∧ c'.rloc = n ∧ c'.rreg = reg)
      ∧ (hRecv h = false → c.sst ≠ .closed → (hMoves h + 2 ^ 16 - c.mvs) % 2 ^ 16 < 2 ^ 15 →
        c'.sst = .here ∧ c'.sname = name ∧ c'.sloc = n ∧ c'.sreg = reg) :=
  have hrecord' : t.record (hChid h) = some c := (hr.record _).trans hrecord
  ⟨_, hr.landsAtHome, chan_homeLand_recv hrecord', chan_homeLand_send hrecord'⟩

end Lands

/-! ## What is parked drains -/

theorem parkedDrains {d : Nat} (hd : s.turn.unit = d) (hsub : s.turn.sub = 0) (hrole : (s.chan d).role ≠ 1) (hrst : (s.chan d).rst = .here)
    (hoffered : (s.chan d).offered = false) (hdev : devOf (s.chan d).rname = s.devidx) {x : Parked} {xs : List Parked} {v : State}
    (hparked : (s.chan d).parked = x :: xs) (htake : s.takeParked (s.chan d).rloc (s.devidx * 2 ^ 24 + d) x = some v) :
    Goes s .parkedDrain ((v.modChan d fun c => { c with parked := xs }).drainParked d xs.length) := by
  show execParkedDrain s = _
  rw [execParkedDrain, if_neg (by rw [hsub]; decide), hd, if_neg hrole, hparked, List.length_cons]
  unfold State.drainParked
  dsimp only
  rw [hparked]
  dsimp only
  rw [if_neg (by rw [hrst, hoffered]; simp), if_pos hdev, htake]
  cases xs <;> rfl

/-- Whether a core takes what a home offers rests on its inbox and the receiver's registers. -/
theorem State.takeOffer_isSome {u : State} (hcores : u.cores = s.cores) (hprocs : u.procs = s.procs) (n chid : Nat) (x : Parked) (more : Nat) :
    (u.takeOffer n chid x more).isSome = (s.takeOffer n chid x more).isSome := by
  have htake : (u.takeParked n chid x).isSome = (s.takeParked n chid x).isSome := by
    unfold State.takeParked State.parkedFits State.core State.proc
    rw [hcores, hprocs]
    cases (find s.cores n {}).inbox chid with
    | none => rfl
    | some i => cases x <;> simp
  have hinbox : (u.core n).inbox chid = (s.core n).inbox chid := by rw [State.core, hcores]; rfl
  unfold State.takeOffer
  dsimp only
  rw [hinbox]
  rcases hu : u.takeParked n chid x with - | a <;> rcases hs : s.takeParked n chid x with - | b <;> rw [hu, hs] at htake
  · dsimp only; split_ifs <;> rfl
  · exact nomatch htake
  · exact nomatch htake
  · rfl

theorem offerTaken {n chid : Nat} {x : Parked} {more : Nat} (hsub : s.turn.sub = 1) (h : Reached s .parkedDrain (.parked n chid x more) t)
    {v : State} (htake : t.takeOffer n chid x more = some v) : Goes s .parkedDrain v := by
  have hfits : (s.takeOffer n chid x more).isSome = true := by
    rw [← State.takeOffer_isSome h.cores h.procs, htake]
    rfl
  show execParkedDrain s = _
  rw [execParkedDrain, if_pos hsub, h.cluster]
  unfold State.takeFarParked
  dsimp only
  generalize ho : s.takeArrived s.turn.unit _ = o
  obtain ⟨p, hp, rfl⟩ := h.taken ho (fun c hc => by split at hc; exacts [rfl, nomatch hc]) hfits
  dsimp only
  rw [hp]
  dsimp only
  rw [htake]
  rfl

/-! ## Closes -/

/-- A record whose two ends are closed drains, and holds nothing parked any more. -/
theorem State.chan_freeRecord (s : State) (k : Nat) : (s.freeRecord k).chan k
    = if (s.chan k).sst = .closed ∧ (s.chan k).rst = .closed then { s.chan k with draining := true, parked := [] } else s.chan k :=
  State.chan_modChan_same ..

section Closes
variable {chid name : Nat} {c : Chan}

theorem chan_homeCloseSend {seq : Nat} (hrecord : s.record chid = some c) : let c' := (s.homeCloseSend chid seq name).chan (chIdx chid)
    c'.sst = .closed ∧ c'.fseq = seq ∧ (c.rst = .closed → c'.draining = true) := by
  have hchan : s.chan (chIdx chid) = c := State.chan_of_record hrecord
  intro c'
  unfold c' State.homeCloseSend
  rw [hrecord]
  dsimp only
  rw [State.chan_freeRecord]
  cases hrst : c.rst <;> simp only [State.chan_sendTo, State.chan_modChan_same, State.chan_ite, State.chan_loadMove, ite_self, hchan, hrst,
    and_self, if_true, reduceCtorEq, and_false, if_false, false_implies, true_implies]

theorem Reached.closesSend {seq : Nat} (h : Reached s .closeMarker (.closeMark chid seq name) t) :
    Goes s .closeMarker (t.homeCloseSend chid seq name) := by
  refine h.runs (fun c hc => ?_) ?_ fun p hp => ?_
  · split at hc
    exacts [rfl, rfl, nomatch hc]
  · rfl
  · rw [hp]

theorem sendEndCloses {seq : Nat} (h : Reached s .closeMarker (.closeMark chid seq name) t) (hrecord : s.record chid = some c) :
    ∃ u, Goes s .closeMarker u ∧ (u.chan (chIdx chid)).sst = .closed ∧ (u.chan (chIdx chid)).fseq = seq
      ∧ (c.rst = .closed → (u.chan (chIdx chid)).draining = true) :=
  ⟨_, h.closesSend, chan_homeCloseSend ((h.record chid).trans hrecord)⟩

theorem closeMarkerArrives {n seq : Nat} (h : Reached s .closeMarker (.closeFwd n chid seq name) t)
    (hinbox : ((s.core n).inbox chid).isSome = true) :
    Goes s .closeMarker ((t.modInbox n chid fun i => { i with fseq := some seq, closer := name }).advance n chid) := by
  rw [← h.core] at hinbox
  obtain ⟨i, hi⟩ := Option.isSome_iff_exists.mp hinbox
  have hclose : ∀ part, t.closeAtCore n chid seq name part
      = (t.modInbox n chid fun i => { i with fseq := some seq, closer := name }).advance n chid := by
    intro part
    unfold State.closeAtCore
    dsimp only
    rw [hinbox, Bool.true_or, if_pos rfl, State.atInbox, if_pos hinbox, State.takeParked, hi]
    rfl
  refine h.runs (fun c hc => ?_) ?_ fun p hp => ?_
  · split at hc
    exacts [rfl, rfl, nomatch hc]
  · rfl
  · rw [hp]
    dsimp only
    rw [hclose]

/-- The messages among what is parked, counted as they are discarded. -/
theorem length_parkedMsgs (xs : List Parked) : (xs.filterMap fun x => match x with
    | .msg m => some m
    | _ => none).length = (xs.filter fun x => match x with
    | .msg _ => true
    | _ => false).length := by
  induction xs with
  | nil => rfl
  | cons x xs ih => cases x <;> simpa using ih

theorem chan_homeCloseRecv {disc : Nat} (hrecord : s.record chid = some c) :
    let n := disc + (c.parked.filter fun x => match x with
      | .msg _ => true
      | _ => false).length
    let c' := (s.homeCloseRecv chid disc name).chan (chIdx chid)
    c'.rst = .closed ∧ c'.disc = n ∧ c'.parked = [] ∧ (c.sst = .inTransit → c'.owe = some (n, name))
      ∧ (c.sst = .closed → c'.draining = true) := by
  have hchan : s.chan (chIdx chid) = c := State.chan_of_record hrecord
  intro n c'
  have hdiscard : ∀ ms : List Msg, (ms.foldl (fun s m => s.discard c.at 0 { m with lands := [] }) s).chan (chIdx chid) = c := fun ms =>
    (foldl_keeps (fun u : State => u.chan (chIdx chid)) (fun u m => (u.moved_discard ..).settled.chan _) ms s).trans hchan
  have hn := congrArg (disc + ·) (length_parkedMsgs c.parked)
  unfold c' State.homeCloseRecv
  rw [hrecord]
  dsimp only
  rw [State.chan_freeRecord]
  cases hsst : c.sst <;> simp only [State.chan_sendEvent, State.chan_modChan_same, State.chan_ite, State.chan_loadMove, ite_self,
    hdiscard, hsst, and_self, and_true, true_and, if_true, reduceCtorEq, if_false, false_implies, true_implies]
  · exact hn
  · exact ⟨hn, congrArg (fun d => some (d, name)) hn⟩
  · exact hn

theorem recvEndCloses {disc : Nat} (h : Reached s .receiveClose (.recvClose chid disc name) t) (hrecord : s.record chid = some c) :
    let n := disc + (c.parked.filter fun x => match x with
      | .msg _ => true
      | _ => false).length
    ∃ u, Goes s .receiveClose u ∧ let c' := u.chan (chIdx chid)
      c'.rst = .closed ∧ c'.disc = n ∧ c'.parked = [] ∧ (c.sst = .inTransit → c'.owe = some (n, name))
        ∧ (c.sst = .closed → c'.draining = true) := by
  refine ⟨t.homeCloseRecv chid disc name, ?_, chan_homeCloseRecv ((h.record chid).trans hrecord)⟩
  refine h.runs (fun c hc => ?_) ?_ fun p hp => ?_
  · split at hc
    exacts [rfl, nomatch hc]
  · rfl
  · rw [hp]

end Closes
end Ends

end Sys2Proof.Machine
end

section
/-!
SUPPORT. Spawns, events and rate loops (13 R322, R325; 14 R340-R342): the rows that take them.
-/

namespace Sys2Proof.Machine

section Spawns
variable {s t : State} {n : Nat} {m : Msg}

/-! ## Spawns -/

theorem Reached.spawns (h : Reached s .spawnArrival (.msg n m) t) (hrun : (s.core n).stopped = false) :
    Goes s .spawnArrival (t.spawn n m) := by
  have hkind : m.kind = .spawn := by
    by_contra hk
    have hrow : PBody.row (.msg n m) = some .spawnArrival := h.2.2.1
    rw [PBody.row, if_neg hk] at hrow
    exact nomatch hrow
  refine h.runs (fun c hc => ?_) ?_ fun p hp => ?_
  · split at hc
    · rw [Bool.and_eq_true, decide_eq_true_eq] at hc
      rw [PBody.row, if_pos hc.1]
    · exact nomatch hc
  · dsimp only
    rw [hkind, hrun]
    rfl
  · rw [hp]

theorem Reached.residents {i : Instr} {b : PBody} (h : Reached s i b t) (n : Nat) : t.residents n = s.residents n := by
  obtain ⟨rest, rfl⟩ := h.rest
  rfl

theorem Reached.freeSlot {i : Instr} {b : PBody} (h : Reached s i b t) : t.freeSlot = s.freeSlot := by
  obtain ⟨rest, rfl⟩ := h.rest
  rfl

theorem State.spawn_noSlot (hfull : 4 ≤ (s.residents n).length ∨ s.freeSlot = none) : s.spawn n m = s.refuse n m 5 0 := by
  unfold State.spawn
  dsimp only
  by_cases hres : 4 ≤ (s.residents n).length
  · rw [if_pos hres]
  · rw [if_neg hres, hfull.resolve_left hres]

/-- A child in its slot, with its start message. -/
def State.bear (v : State) (n k : Nat) (m : Msg) (net : Nat) (x : Tmpl) (tab : Tables) (w : Word) (r : Room) : State :=
  (((v.makeProc k n m.part net m.tmpl false x tab w r).clearEnds k (rangeFrom 0 m.ends.length) .reserved).accepted n m.part m).modProc k fun p =>
    { p with starts := p.starts ++ [{ m with
        lands := rangeFrom 0 m.ends.length
        arrived := (((v.makeProc k n m.part net m.tmpl false x tab w r).clearEnds k (rangeFrom 0 m.ends.length) .reserved).accepted
          n m.part m).cyc
        taken := !m.ends.isEmpty }] }

/-- A spawn for a free slot, once the image has been read. -/
theorem State.spawn_slot {k : Nat} {x : Tmpl} {tab : Tables} {v : State} (hres : (s.residents n).length < 4) (hslot : s.freeSlot = some k)
    (hread : let net := find s.nets (s.proc (slotOf m.name)).net {}
      readOne m.part net.die net.image m.tmpl s = .ok (some (x, tab), v)) :
    s.spawn n m = if (tab.handlers.getD m.handler 0#64).getLsbD 56 then
        (v.canHold n m.part x.needs).elim (s.refuse n m 6 0) fun e => v.bear n k m (s.proc (slotOf m.name)).net x tab e.1 e.2
      else s.refuse n m 7 0 := by
  dsimp only at hread
  unfold State.spawn
  dsimp only
  rw [if_neg (Nat.not_le.mpr hres), hslot]
  dsimp only
  rw [hread]
  dsimp only
  cases (tab.handlers.getD m.handler 0#64).getLsbD 56 with
  | false => rfl
  | true =>
    rw [Bool.not_true, if_neg Bool.false_ne_true, if_pos rfl]
    cases v.canHold n m.part x.needs <;> rfl

theorem State.core_clearTags_keeps {β : Type} (g : Core → β) (hg : ∀ (c : Core) ts, g { c with tags := ts } = g c) (s : State)
    (n off len k : Nat) : g ((s.clearTags n off len).core k) = g (s.core k) :=
  s.core_modCore_keeps g n k fun c => hg c _

/-- A process that is made is resident on its core under its slot's name, with no start message; the core has its PARTW. -/
theorem State.made (v : State) (k n part net tmpl : Nat) (super : Bool) (x : Tmpl) (tab : Tables) (w : Word) (r : Room) :
    let u := v.makeProc k n part net tmpl super x tab w r
    (u.core n).partw = w ∧ (u.proc k).state = .resident ∧ (u.proc k).core = n ∧ (u.proc k).part = part ∧ (u.proc k).name = v.nameOf k
      ∧ (u.proc k).starts = [] := by
  intro u
  constructor
  · unfold u State.makeProc
    dsimp only
    rw [State.core_clearTags_keeps Core.partw fun _ _ => rfl, State.core_clearTags_keeps Core.partw fun _ _ => rfl]
    exact congrArg Core.partw (State.core_setCore_same _ n _)
  · have hproc : u.proc k = find (put v.procs k _) k {} := rfl
    rw [hproc, find_put_same]
    exact ⟨rfl, rfl, rfl, rfl, rfl⟩

theorem State.born (v : State) (n k : Nat) (m : Msg) (net : Nat) (x : Tmpl) (tab : Tables) (w : Word) (r : Room) :
    let u := v.bear n k m net x tab w r
    (u.core n).partw = w ∧ (u.proc k).state = .resident ∧ (u.proc k).core = n ∧ (u.proc k).part = m.part ∧ (u.proc k).name = v.nameOf k
      ∧ (u.proc k).starts.map Msg.words = [m.words] := by
  intro u
  obtain ⟨hpartw, hstate, hcore, hpart, hname, hstarts⟩ := v.made k n m.part net m.tmpl false x tab w r
  have hmoved := ((v.makeProc k n m.part net m.tmpl false x tab w r).moved_clearEnds k (rangeFrom 0 m.ends.length) .reserved).trans
    (State.moved_accepted _ n m.part m)
  unfold u State.bear
  generalize v.makeProc k n m.part net m.tmpl false x tab w r = made at *
  obtain ⟨es, hes⟩ := hmoved.proc k
  rw [State.proc_modProc_same, hes]
  refine ⟨?_, hstate, hcore, hpart, hname, ?_⟩
  · exact (congrArg Core.partw (hmoved.core n)).trans hpartw
  · dsimp only
    rw [hstarts]
    rfl

theorem spawnArrives (h : Reached s .spawnArrival (.msg n m) t) (hrun : (s.core n).stopped = false) :
    let net := find t.nets (t.proc (slotOf m.name)).net {}
    (4 ≤ (s.residents n).length ∨ s.freeSlot = none → Goes s .spawnArrival (t.refuse n m 5 0))
    ∧ ((s.residents n).length < 4 → ∀ k, s.freeSlot = some k → ∀ x tab v,
      readOne m.part net.die net.image m.tmpl t = .ok (some (x, tab), v) →
      ((tab.handlers.getD m.handler 0#64).getLsbD 56 = false → Goes s .spawnArrival (t.refuse n m 7 0))
      ∧ ((tab.handlers.getD m.handler 0#64).getLsbD 56 = true →
        (v.canHold n m.part x.needs = none → Goes s .spawnArrival (t.refuse n m 6 0))
        ∧ (∀ w r, v.canHold n m.part x.needs = some (w, r) → ∃ u, Goes s .spawnArrival u ∧ (u.core n).partw = w
          ∧ let P := u.proc k
            P.state = .resident ∧ P.core = n ∧ P.part = m.part ∧ P.name = v.nameOf k ∧ P.starts.map Msg.words = [m.words]))) := by
  intro net
  have hgoes := h.spawns hrun
  rw [← h.residents, ← h.freeSlot]
  constructor
  · intro hfull
    rwa [State.spawn_noSlot hfull] at hgoes
  · intro hres k hslot x tab v hread
    rw [State.spawn_slot hres hslot hread] at hgoes
    refine ⟨fun hhandler => ?_, fun hhandler => ⟨fun hroom => ?_, fun w r hroom => ?_⟩⟩ <;> rw [hhandler] at hgoes
    · rwa [if_neg Bool.false_ne_true] at hgoes
    · rwa [if_pos rfl, hroom] at hgoes
    · rw [if_pos rfl, hroom] at hgoes
      exact ⟨_, hgoes, State.born ..⟩

end Spawns

/-! ## Events -/

section Events
variable {s t : State}

theorem Reached.named {i : Instr} {b : PBody} (h : Reached s i b t) (name : Nat) : t.named name = s.named name := by
  obtain ⟨rest, rfl⟩ := h.rest
  rfl

theorem State.proc_of_named {name : Nat} {P : Proc} (h : s.named name = some P) : s.proc (slotOf name) = P := by
  unfold State.named at h
  dsimp only at h
  split_ifs at h
  exact Option.some.inj h

section Deliver
variable {name : Nat} {e : Evt}

theorem Reached.delivers (h : Reached s .eventDelivery (.event name e) t) {u : State} (hfits : (s.deliverEvent name e).isSome = true)
    (hdeliver : t.deliverEvent name e = some u) : Goes s .eventDelivery u := by
  refine h.runs (fun c hc => ?_) hfits fun p hp => ?_
  · split at hc
    exacts [rfl, rfl, nomatch hc]
  · rw [hp]
    dsimp only
    rw [hdeliver]
    rfl

theorem eventArrives (h : Reached s .eventDelivery (.event name e) t) :
    (s.named name = none → Goes s .eventDelivery t)
    ∧ ∀ P, s.named name = some P → P.events.length < 16 → ∃ u, Goes s .eventDelivery u
      ∧ (u.proc (slotOf name)).events = P.events ++ [{ e with arrived := s.cyc }]
      ∧ (∀ chid recv k, e.closes = some (chid, recv) → P.holds? chid recv = some k → ((u.proc (slotOf name)).endAt k).pcl = true) := by
  constructor
  · intro hgone
    refine h.delivers ?_ ?_ <;> unfold State.deliverEvent
    · rw [hgone]; rfl
    · rw [h.named, hgone]
  · intro P hnamed hroom
    have hproc : t.proc (slotOf name) = P := (h.proc _).trans (State.proc_of_named hnamed)
    refine ⟨t.queueEvent (slotOf name) e, h.delivers ?_ ?_, ?_⟩
    · rw [State.deliverEvent, hnamed]
      dsimp only
      rw [if_neg (Nat.not_le.mpr hroom)]
      rfl
    · rw [State.deliverEvent, h.named, hnamed]
      exact if_neg (Nat.not_le.mpr hroom)
    · unfold State.queueEvent
      dsimp only
      rw [h.cyc]
      generalize hv : t.modProc (slotOf name) _ = v
      have hqueued : v.proc (slotOf name) = { P with events := P.events ++ [{ e with arrived := s.cyc }] } := by
        rw [← hv, State.proc_modProc_same, hproc]
      have hholds : ∀ chid recv, (v.proc (slotOf name)).holds? chid recv = P.holds? chid recv := fun chid recv => by
        rw [hqueued]; rfl
      split
      next chid recv hcloses =>
        rw [hholds]
        split
        next k hk =>
          rw [State.proc_modEnd_same, hqueued]
          refine ⟨rfl, fun chid' recv' k' hcloses' hk' => ?_⟩
          obtain ⟨rfl, rfl⟩ := Prod.mk.inj (Option.some.inj (hcloses.symm.trans hcloses'))
          obtain rfl := Option.some.inj (hk.symm.trans hk')
          exact congrArg EndReg.pcl (find_put_same ..)
        next hnone =>
          rw [hqueued]
          refine ⟨rfl, fun chid' recv' k' hcloses' hk' => ?_⟩
          obtain ⟨rfl, rfl⟩ := Prod.mk.inj (Option.some.inj (hcloses.symm.trans hcloses'))
          exact nomatch hnone.symm.trans hk'
      next hcloses =>
        rw [hqueued]
        exact ⟨rfl, fun chid recv k hcloses' => nomatch hcloses.symm.trans hcloses'⟩

end Deliver

theorem refusalArrives {m : Msg} {why name : Nat} (h : Reached s .eventDelivery (.refused m why name) t) (hwindow : m.window = none) {P : Proc}
    (hnamed : s.named m.name = some P) (hroom : P.events.length < 16) :
    Goes s .eventDelivery (((t.returnEnds m).queueEvent (slotOf m.name) (refusedEvt m why name)).count m.part 10 1) := by
  have hdeliver : ∀ v : State, v.named m.name = some P → v.deliverRefusal m why name
      = some (((v.returnEnds m).queueEvent (slotOf m.name) (refusedEvt m why name)).count m.part 10 1) := by
    intro v hv
    unfold State.deliverRefusal
    rw [hwindow]
    dsimp only
    rw [hv]
    exact if_neg (Nat.not_le.mpr hroom)
  refine h.runs (fun c hc => ?_) ?_ fun p hp => ?_
  · split at hc
    exacts [rfl, rfl, nomatch hc]
  · dsimp only
    rw [hdeliver s hnamed]
    rfl
  · rw [hp]
    dsimp only
    rw [hdeliver t ((h.named _).trans hnamed)]
    rfl

end Events

end Sys2Proof.Machine
end

section
/-!
SUPPORT. Rate loops (14 R340-R342): the rows of their periods, updates, deltas and acknowledgements.
-/

namespace Sys2Proof.Machine

section Rates
variable {s t : State}

theorem clampInt_eq {x lo hi : Int} (h : lo ≤ hi) : clampInt x lo hi = max lo (min hi x) := by
  unfold clampInt
  split_ifs <;> omega

/-! ## The period -/

theorem ratePeriodEnds {d : Nat} (hd : s.turn.unit = d) (hcore : coreOk d = true) {i : Inbox}
    (hfind : (s.core d).inboxes.find? (fun i => i.period != 0 && decide (i.since + 256 * i.period ≤ s.cyc)) = some i)
    (hi : (s.core d).inbox i.chid = some i) : ∃ u, Goes s .ratePeriodEnd u
      ∧ (u.core d).inbox i.chid = some { i with refused := 0, since := i.since + 256 * i.period }
      ∧ (chDev i.chid = s.devidx → SentSince s u (d / 8) [(i.home / 4, .rateReport i.chid
        (min 127 (if i.refused = 0 then i.held.length + s.parkedAt i.chid else i.cap + i.refused)))]) := by
  have hgoes : execRatePeriodEnd s = .next ((s.modInbox d i.chid fun i => { i with refused := 0, since := i.since + 256 * i.period }).toHome
      d i.chid i.home (s.proc i.slot).part (.rateReport i.chid (s.occupancy i))) := by
    unfold execRatePeriodEnd
    rw [hd]
    dsimp only
    rw [hcore, hfind]
    rfl
  refine ⟨_, hgoes, ?_, fun hdev => ?_⟩
  · rw [(State.left_toHome ..).core]
    refine (State.inbox_modInbox s d ?_).trans ?_
    · exact fun _ => rfl
    · rw [hi]; rfl
  · rw [State.occupancy, State.parkedFor, if_pos hdev]
    refine SentSince.toHome ?_ ?_ rfl _ _ _
    · exact SentSince.none fun _ => rfl
    · exact hdev

/-! ## The update -/

theorem rateStep_eq (e i : Int) (gp gi : Nat) : rateStep e i gp gi = ((e * 256) >>> gp) + ((i * 256) >>> gi) := by
  have hdiv : ∀ (x : Int) (k : Nat), x.fdiv ((2 ^ k : Nat) : Int) = x >>> k := fun x k => by
    rw [Int.shiftRight_eq_div_pow, Int.fdiv_eq_ediv_of_nonneg _ (Int.natCast_nonneg _)]
  rw [rateStep, hdiv, hdiv]

theorem rateUpdates {chid o : Nat} (h : Reached s .rateUpdate (.rateReport chid o) t) {c : Chan} (hrecord : s.record chid = some c)
    (hrate : c.rate = true) (hren : c.ren = true) (hsst : c.sst = .here) (hrst : c.rst = .here) :
    let e : Int := (o : Int) - c.sp
    let i : Int := if c.cd ≠ 0 ∧ e.sign = c.cd then c.i else max (-4096) (min 4096 (c.i + e))
    let u := ((e * 256) >>> c.gp) + ((i * 256) >>> c.gi)
    Goes s .rateUpdate (((t.modChan (chIdx chid) fun c => { c with i := i, cd := 0 }).sendDelta c c.sname chid (-u) true).sendDelta
      c c.rname chid u false) := by
  intro e i u
  have hhome : t.homeRate chid o = ((t.modChan (chIdx chid) fun c => { c with i := i, cd := 0 }).sendDelta c c.sname chid (-u) true).sendDelta
      c c.rname chid u false := by
    have hi : c.integral e = i := by rw [Chan.integral, clampInt_eq (by decide)]
    unfold State.homeRate
    rw [h.record, hrecord]
    dsimp only
    rw [if_neg (by simp [hrate, hren, hsst, hrst]), hi, rateStep_eq]
  refine h.runs (fun c hc => ?_) ?_ fun p hp => ?_
  · split at hc
    exacts [rfl, nomatch hc]
  · rfl
  · rw [hp]
    dsimp only
    rw [hhome]

/-! ## Deltas and their acknowledgements -/

theorem clampWeight_eq (w : Nat) (delta : Int) : BitVec.ofNat 16 (clampWeight w delta).1 = BitVec.ofInt 16 (max 256 (min 65280 (w + delta)))
    ∧ (clampWeight w delta).2 = if (w : Int) + delta < 256 then -1 else if 65280 < (w : Int) + delta then 1 else 0 := by
  unfold clampWeight
  dsimp only
  generalize (w : Int) + delta = x
  split_ifs with hlow hhigh
  · have : max 256 (min 65280 x) = 256 := by omega
    rw [this]; exact ⟨rfl, rfl⟩
  · have : max 256 (min 65280 x) = 65280 := by omega
    rw [this]; exact ⟨rfl, rfl⟩
  · have : max 256 (min 65280 x) = (x.toNat : Int) := by omega
    rw [this]; exact ⟨(BitVec.ofInt_natCast _ _).symm, rfl⟩

theorem rateDeltaArrives {name chid : Nat} {delta : Int} {producer : Bool} (h : Reached s .rateDelta (.rateDelta name chid delta producer) t)
    {P : Proc} {home : Nat} (hnamed : s.named name = some P) (hhome : P.homeOf chid = some home) (hdev : chDev chid = s.devidx) :
    let w : Int := (P.weight.toNat : Int) + delta
    ∃ u, Goes s .rateDelta u ∧ (u.proc (slotOf name)).weight = BitVec.ofInt 16 (max 256 (min 65280 w))
      ∧ SentSince s u (P.core / 8) [(home / 4, .rateAck chid producer (if w < 256 then -1 else if 65280 < w then 1 else 0))] := by
  intro w
  obtain ⟨hweight, hclamp⟩ := clampWeight_eq P.weight.toNat delta
  have htake : t.takeDelta name chid delta producer
      = (t.modProc (slotOf name) fun p => { p with weight := BitVec.ofNat 16 (clampWeight P.weight.toNat delta).1 }).toHome
        P.core chid home P.part (.rateAck chid producer (clampWeight P.weight.toNat delta).2) := by
    unfold State.takeDelta
    rw [h.named, hnamed]
    dsimp only
    rw [hhome]
  have hgoes : execRateDelta s = .next (t.takeDelta name chid delta producer) := by
    refine h.runs (fun c hc => ?_) ?_ fun p hp => ?_
    · split at hc
      exacts [rfl, nomatch hc]
    · rfl
    · rw [hp]
  refine ⟨_, hgoes, ?_, ?_⟩ <;> rw [htake]
  · rw [(State.left_toHome ..).proc, State.proc_modProc_same]
    exact hweight
  · rw [hclamp]
    refine SentSince.toHome ?_ ?_ rfl _ _ _
    · exact (h.sent _).of_clusters rfl
    · exact hdev.trans h.devidx.symm

theorem rateAckArrives {chid : Nat} {producer : Bool} {clamp : Int} (h : Reached s .rateAck (.rateAck chid producer clamp) t) {c : Chan}
    (hrecord : s.record chid = some c) (hclamp : clamp ≠ 0) :
    Goes s .rateAck (t.modChan (chIdx chid) fun c => { c with cd := if producer then -clamp else clamp }) := by
  have hack : t.homeAck chid producer clamp = t.modChan (chIdx chid) fun c => { c with cd := if producer then -clamp else clamp } := by
    unfold State.homeAck
    rw [h.record, hrecord]
    exact if_neg hclamp
  refine h.runs (fun c hc => ?_) ?_ fun p hp => ?_
  · split at hc
    exacts [rfl, nomatch hc]
  · rfl
  · rw [hp]
    dsimp only
    rw [hack]

end Rates

end Sys2Proof.Machine
end

section
/-!
SUPPORT. The start of an activation (13 R291-R293, 14 R337): the one chosen, and the context that it starts in.
-/

namespace Sys2Proof.Machine

/-! ## The one chosen -/

theorem Runnable.prio_of_before {a b : Runnable} (h : a.before b = true) : b.prio ≤ a.prio := by
  unfold Runnable.before at h
  split_ifs at h with hprio
  · exact le_of_lt (of_decide_eq_true h)
  all_goals exact le_of_eq (not_not.mp hprio).symm

theorem Runnable.prio_of_not_before {a b : Runnable} (h : ¬a.before b = true) : a.prio ≤ b.prio := by
  unfold Runnable.before at h
  split_ifs at h with hprio
  · exact Nat.not_lt.mp fun hlt => h (decide_eq_true hlt)
  all_goals exact le_of_eq (not_not.mp hprio)

/-- The one chosen is one of the runnable ones, and none has a higher priority. -/
theorem chooseRunnable_max {rs : List Runnable} {r : Runnable} (h : chooseRunnable rs = some r) : r ∈ rs ∧ ∀ x ∈ rs, x.prio ≤ r.prio := by
  induction rs generalizing r with
  | nil => exact nomatch h
  | cons x xs ih =>
    rw [chooseRunnable] at h
    rcases hxs : chooseRunnable xs with - | y <;> rw [hxs] at h
    · obtain rfl := Option.some.inj h
      have hnil : xs = [] := by
        cases xs with
        | nil => rfl
        | cons y ys =>
          rw [chooseRunnable] at hxs
          split at hxs
          · exact nomatch hxs
          · split_ifs at hxs
      rw [hnil]
      exact ⟨List.mem_singleton_self x, fun z hz => le_of_eq (congrArg _ (List.mem_singleton.mp hz))⟩
    · obtain ⟨hmem, hmax⟩ := ih hxs
      dsimp only at h
      by_cases hbefore : x.before y = true
      · rw [if_pos hbefore] at h
        obtain rfl := Option.some.inj h
        refine ⟨List.mem_cons_self, fun z hz => ?_⟩
        rcases List.mem_cons.mp hz with rfl | hz
        · exact le_refl _
        · exact (hmax z hz).trans (Runnable.prio_of_before hbefore)
      · rw [if_neg hbefore] at h
        obtain rfl := Option.some.inj h
        refine ⟨List.mem_cons_of_mem x hmem, fun z hz => ?_⟩
        rcases List.mem_cons.mp hz with rfl | hz
        · exact Runnable.prio_of_not_before hbefore
        · exact hmax z hz

/-! ## The start -/

section Starts
variable {s : State} {d k : Nat} {r : Runnable}

theorem State.settled_landMsg (s : State) (slot : Nat) (m : Msg) : Settled s (s.landMsg slot m) := by
  unfold State.landMsg
  split_ifs
  · exact .refl s
  · exact Settled.foldl (fun u e => u.settled_landEnd ..) _ s

theorem State.settled_takeReady (s : State) (d : Nat) (r : Runnable) : Settled s (s.takeReady d r).2.2.2 := by
  unfold State.takeReady
  dsimp only
  split
  · split
    next m hm =>
      dsimp only
      refine Settled.trans ?_ (State.settled_advance _ d m.chid)
      split_ifs
      · exact s.settled_modInbox ..
      · exact (s.settled_modInbox ..).trans (State.moved_modEnd ..).settled
    next => exact .refl s
  · split
    · exact s.settled_modProc _ fun _ => ⟨_, _, _, _, rfl⟩
    · exact .refl s
  · split
    · exact s.settled_modProc _ fun _ => ⟨_, _, _, _, rfl⟩
    · exact .refl s

/-- What a start does last: the context's row tags are cleared, the process's pass goes on, and the start is known and counted. -/
def State.dispatched (s : State) (d k slot part : Nat) (know : Know) : State :=
  ((((s.clearTags d (k * rsBytes (s.core d).partw) (rsBytes (s.core d).partw)).modProc slot fun p =>
    { p with pass := nextPass p.pass p.weight }).learn (agentOf s.devidx d k) know).count part 11 1)

theorem State.ctx_dispatched (s : State) (d k slot part : Nat) (know : Know) (n j : Nat) :
    (s.dispatched d k slot part know).ctx n j = s.ctx n j :=
  (State.ctx_congr (State.cores_count ..) n j).trans (s.core_clearTags_keeps (fun c => c.ctx j) (fun _ _ => rfl) d _ _ n)

theorem State.proc_dispatched (s : State) (d k slot part : Nat) (know : Know) : (s.dispatched d k slot part know).proc slot
    = { s.proc slot with pass := nextPass (s.proc slot).pass (s.proc slot).weight } := by
  have hprocs : (s.dispatched d k slot part know).procs = put s.procs slot
      { s.proc slot with pass := nextPass (s.proc slot).pass (s.proc slot).weight } := State.procs_count ..
  rw [State.proc, hprocs, find_put_same]

theorem State.takeReady_data {m : Msg} (hkind : r.kind = .data) (hnext : (s.core d).nextMsg ((s.proc r.slot).endAt r.reg) = some m) :
    (s.takeReady d r).1 = some m := by
  unfold State.takeReady
  dsimp only
  rw [hkind]
  dsimp only
  rw [hnext]

theorem State.takeReady_event {e : Evt} {es : List Evt} (hkind : r.kind = .event) (hevents : (s.proc r.slot).events = e :: es) :
    s.takeReady d r = (none, some e, joinKnow e.know (s.proc r.slot).evtKnow, s.modProc r.slot fun p => { p with events := es }) := by
  unfold State.takeReady
  dsimp only
  rw [hkind]
  dsimp only
  rw [hevents]

theorem startRegs_one (header : Word) (ws : List Word) : (startRegs header ws)[1] = header := by simp [startRegs]

/-- The words of a start stand in a2 to a9. -/
theorem startRegs_word (header : Word) (ws : List Word) (i : Fin 8) : (startRegs header ws)[i.val + 2] = ws.getD i.val 0#64 := by
  have hi := i.isLt
  have hrange : 2 ≤ i.val + 2 ∧ i.val + 2 ≤ 9 := by omega
  simp [startRegs, hrange]

/-- How a context starts, by the runnable activation and what has been taken from where it waited. -/
def StartsBy (r : Runnable) (m : Option Msg) (e : Option Evt) (p : Proc) (f : Ctx → Ctx) : Prop :=
  ∃ (a : Activation) (header : Word) (ws : List Word) (vecp vect : Nat), (f = fun c => c.start a p header ws vecp vect)
    ∧ (a.slot = r.slot ∧ a.kind = r.kind ∧ a.handler = r.handler ∧ a.arrival = r.reg)
    ∧ (∀ x, m = some x → header = headerOf x.name r.kind.code x.lands x.words.length r.handler r.reg ∧ ws = x.words)
    ∧ ∀ x, m = none → e = some x → ws = x.payload

/-- A start sets its context, lands the ends of its message, and is dispatched. -/
theorem State.startReady_eq {m : Option Msg} {e : Option Evt} {know : Know} {t : State} (htake : s.takeReady d r = (m, e, know, t)) :
    ∃ (f : Ctx → Ctx) (x : State) (part : Nat), s.startReady d k r = x.dispatched d k r.slot part know
      ∧ Settled (t.takeFresh.2.modCtx d k f) x ∧ (m = none → x = t.takeFresh.2.modCtx d k f) ∧ StartsBy r m e (t.proc r.slot) f := by
  unfold State.startReady
  rw [htake]
  rcases m with - | m
  · rcases e with - | e
    · exact ⟨_, _, _, rfl, .refl _, fun _ => rfl, _, _, _, _, _, rfl, ⟨rfl, rfl, rfl, rfl⟩, fun x hx => (nomatch hx), fun x _ hx => (nomatch hx)⟩
    · exact ⟨_, _, _, rfl, .refl _, fun _ => rfl, _, _, _, _, _, rfl, ⟨rfl, rfl, rfl, rfl⟩, fun x hx => (nomatch hx),
        fun x _ hx => congrArg Evt.payload (Option.some.inj hx)⟩
  · refine ⟨_, _, _, rfl, State.settled_landMsg _ _ m, fun hm => (nomatch hm), _, _, _, _, _, rfl, ⟨rfl, rfl, rfl, rfl⟩, fun x hx => ?_,
      fun x hm => (nomatch hm)⟩
    obtain rfl := Option.some.inj hx
    exact ⟨rfl, rfl⟩

theorem activationStarts (hd : s.turn.unit = d) (hcore : coreOk d = true) (hidle : (s.cluster (d / 8)).idle = .run)
    (hfree : s.freeCtxOf d = some k) (hchosen : chooseRunnable (s.readyOn d) = some r) :
    (r ∈ s.readyOn d ∧ ∀ x ∈ s.readyOn d, x.prio ≤ r.prio)
    ∧ ∃ u, Goes s .activationStart u ∧ let c := u.ctx d k
      let P := s.proc r.slot
      c.status = .running ∧ (∃ a, c.act = some a ∧ a.slot = r.slot ∧ a.kind = r.kind ∧ a.handler = r.handler ∧ a.arrival = r.reg)
        ∧ c.pc = BitVec.ofNat 52 (fieldOf (find P.handlers r.handler 0#64) 51 0)
        ∧ c.actbud = (if P.budget = 0#64 then BitVec.allOnes 64 else P.budget)
        ∧ (u.proc r.slot).pass = P.pass + BitVec.ofNat 32 (2 ^ 24 / (P.weight.toNat / 256))
        ∧ (∀ m, r.kind = .data → (s.core d).nextMsg (P.endAt r.reg) = some m →
          c.a[1] = headerOf m.name 0 m.lands m.words.length r.handler r.reg ∧ ∀ i : Fin 8, c.a[i.val + 2] = m.words.getD i.val 0#64)
        ∧ (∀ e es, r.kind = .event → P.events = e :: es → c.a[2] = wordOf e.code ∧ c.a[3] = wordOf e.reg ∧ c.a[4] = e.detail
          ∧ (u.proc r.slot).events = es) := by
  refine ⟨chooseRunnable_max hchosen, s.startReady d k r, ?_, ?_⟩
  · show execActivationStart s = _
    unfold execActivationStart
    rw [hd]
    dsimp only
    rw [hcore, hidle, hfree, hchosen]
    rfl
  rcases htake : s.takeReady d r with ⟨m, e, know, t⟩
  have htaken : Settled s t := by
    have hsettled := s.settled_takeReady d r
    rwa [htake] at hsettled
  obtain ⟨f, x, part, hstart, hlands, hnone, a, header, ws, vecp, vect, rfl, hact, hmsg, hevt⟩ := State.startReady_eq (k := k) htake
  have hctx : (s.startReady d k r).ctx d k = (t.ctx d k).start a (t.proc r.slot) header ws vecp vect := by
    rw [hstart, State.ctx_dispatched, hlands.ctx, State.ctx_modCtx_same]
    rfl
  obtain ⟨es, evs, sts, ld, hproc⟩ := htaken.proc r.slot
  obtain ⟨es', evs', sts', ld', hproc'⟩ := hlands.proc r.slot
  have hpass : ((s.startReady d k r).proc r.slot).pass = nextPass (s.proc r.slot).pass (s.proc r.slot).weight := by
    rw [hstart, State.proc_dispatched, hproc']
    show nextPass (t.proc r.slot).pass (t.proc r.slot).weight = _
    rw [hproc]
  intro c P
  have hc : c = (t.ctx d k).start a (t.proc r.slot) header ws vecp vect := hctx
  rw [hproc] at hc
  obtain ⟨hslot, hkind, hhandler, harrival⟩ := hact
  rw [hc]
  refine ⟨rfl, ⟨a, rfl, hslot, hkind, hhandler, harrival⟩, hhandler ▸ rfl, rfl, hpass, fun y hdata hnext => ?_, fun y ys hevent hevents => ?_⟩
  · have hm : m = some y := by
      have hfst := State.takeReady_data hdata hnext
      rwa [htake] at hfst
    obtain ⟨rfl, rfl⟩ := hmsg y hm
    rw [hdata]
    exact ⟨startRegs_one .., startRegs_word _ _⟩
  · obtain ⟨hm, he, -, ht⟩ : none = m ∧ some y = e ∧ _ ∧ (s.modProc r.slot fun p => { p with events := ys }) = t := by
      have hall := (State.takeReady_event hevent hevents).symm.trans htake
      simpa only [Prod.mk.injEq] using hall
    obtain rfl := hevt y hm.symm he.symm
    refine ⟨startRegs_word _ _ 0, startRegs_word _ _ 1, startRegs_word _ _ 2, ?_⟩
    rw [hstart, State.proc_dispatched, hnone hm.symm]
    show (t.proc r.slot).events = ys
    rw [← ht, State.proc_modProc_same]

end Starts

end Sys2Proof.Machine
end

section
/-!
SUPPORT. The statement O58, row by row.
-/

namespace Sys2Proof.Machine

/-- Settles O58: each row takes the packet that has reached its cluster for it, and does with it what the rows' lemmas say. -/
theorem channelRows : Obligations.ChannelRows := by
  intro s t d
  refine ⟨fun i g h => storeLands h, fun hsub n m h hagain => ⟨messageGoesHome h hsub hagain, fun i => messageArrives h hsub hagain⟩,
    fun hsub hdie hpart f rest i => faultMessageArrives rfl hsub hdie hpart,
    fun m h => ⟨messageWithoutHome h, fun c => homeForwards h⟩, fun n chid loc closed h e k => locationUpdates h,
    fun h name n reg back hr c => endLands hr, fun hsub hrole hrst hoffered hdev x xs v => parkedDrains rfl hsub hrole hrst hoffered hdev,
    fun hsub n chid x more v h => offerTaken hsub h, fun chid seq name h c => sendEndCloses h, fun n chid seq name => closeMarkerArrives,
    fun chid disc name h c => recvEndCloses h, fun n m => spawnArrives, fun name e => eventArrives,
    fun m why name h hwindow P => refusalArrives h hwindow, fun hcore i => ratePeriodEnds rfl hcore, fun chid o h c => rateUpdates h,
    fun name chid delta producer h P home => rateDeltaArrives h, fun chid producer clamp h c => rateAckArrives h,
    fun hcore hidle k r => activationStarts rfl hcore hidle⟩

end Sys2Proof.Machine
end

section
/-!
SUPPORT. Codes of the float types (07 R142-R158): a value of no more bits than its type's grid holds is rounded without change, so
that the code it was read from comes back; integers that wrap and saturate (07 R155); and the statement O42 put together from them.
-/

namespace Sys2Proof.Machine

/-! ## Exact values on a grid (07 R156, R159) -/

section Grids
variable {n m mode : Nat} {e g : Int} {neg : Bool}

/-- A grid no coarser than the value's own leaves the value as it is, in every rounding mode. -/
theorem roundGrid_of_le (h : g ≤ e) : roundGrid mode neg n e g = (n * 2 ^ (e - g).toNat, false) := if_pos h

theorem log2_mul_two_pow (hn : n ≠ 0) (k : Nat) : (n * 2 ^ k).log2 = n.log2 + k := by
  rw [Nat.log2_eq_iff (by positivity), Nat.pow_add, Nat.add_right_comm, Nat.pow_add 2 (n.log2 + 1)]
  exact ⟨Nat.mul_le_mul_right _ (Nat.log2_self_le hn), Nat.mul_lt_mul_of_pos_right Nat.lt_log2_self (by positivity)⟩

/-- The leading bit does not depend on the power of two in which a value is counted. -/
theorem topBit_refine (hn : n ≠ 0) (h : g ≤ e) : topBit (n * 2 ^ (e - g).toNat) g = topBit n e := by
  rw [topBit, log2_mul_two_pow hn, topBit]
  omega

theorem topBit_lt_of_lt (hn : n ≠ 0) (h : n < 2 ^ m) : topBit n e < m + e := by
  have hlog := (Nat.log2_lt hn).2 h
  rw [topBit]
  omega

theorem log2_two_pow_add (h : n < 2 ^ m) : (2 ^ m + n).log2 = m := by
  rw [Nat.log2_eq_iff (by positivity), Nat.pow_succ]
  omega

end Grids

/-! ## Values that the encoders keep -/

section Encoders
variable {ty mode n : Nat} {e : Int} {sat neg : Bool}

/-- A value of the subnormal grid, zero with it: the code counts the grid's steps. -/
theorem encodeIeee_subnormal (h : n < 2 ^ fracBits ty) :
    encodeIeee ty mode sat neg n (1 - biasOf ty - fracBits ty) = ((if neg then 2 ^ (fracBits ty + expBits ty) else 0) + n, 0#6) := by
  by_cases hn : n = 0
  · simp [encodeIeee, hn]
  have htop : topBit n (1 - biasOf ty - fracBits ty) < 1 - biasOf ty := by
    have := topBit_lt_of_lt (e := 1 - biasOf ty - fracBits ty) hn h
    omega
  have hgrid : topBit n (1 - biasOf ty - fracBits ty) - fracBits ty ≤ 1 - biasOf ty - fracBits ty := by omega
  simp only [encodeIeee, if_neg hn, roundGrid_of_le hgrid, topBit_refine hn hgrid, if_pos htop, roundGrid_of_le le_rfl]
  simp [flagIf]

/-- A value of as many bits as a normal number holds, its exponent in range: the code holds the exponent and the fraction. -/
theorem encodeIeee_normal (hlog : n.log2 = fracBits ty) (hn : n ≠ 0) (hlo : 1 - (biasOf ty : Int) ≤ e + fracBits ty)
    (hhi : e + fracBits ty ≤ biasOf ty) :
    encodeIeee ty mode sat neg n e = ((if neg then 2 ^ (fracBits ty + expBits ty) else 0)
      + (e + fracBits ty + biasOf ty).toNat * 2 ^ fracBits ty + (n - 2 ^ fracBits ty), 0#6) := by
  have htop : topBit n e = e + fracBits ty := by rw [topBit, hlog, add_comm]
  simp [encodeIeee, hn, htop, roundGrid_of_le, hlo.not_gt, hhi.not_gt, flagIf]

/-- E4M3's subnormal grid is that of multiples of 2^-9 (R146). -/
theorem encodeE4m3_subnormal (h : n < 8) : encodeE4m3 mode neg n (-9) = ((if neg then 128 else 0) + n, 0#6) := by
  by_cases hn : n = 0
  · simp [encodeE4m3, hn]
  have htop : topBit n (-9) < -6 := topBit_lt_of_lt (m := 3) hn h
  have hgrid : topBit n (-9) - 3 ≤ -9 := by omega
  simp only [encodeE4m3, if_neg hn, roundGrid_of_le hgrid, topBit_refine hn hgrid, if_pos htop, roundGrid_of_le le_rfl]
  simp [flagIf]

theorem encodeE4m3_normal (hlog : n.log2 = 3) (hn : n ≠ 0) (hlo : -9 ≤ e) (hhi : ltDyadic 448 0 n e = false) :
    encodeE4m3 mode neg n e = ((if neg then 128 else 0) + (e + 10).toNat * 8 + (n - 8), 0#6) := by
  have htop : topBit n e = e + 3 := by rw [topBit, hlog, add_comm]; rfl
  have hmin : ¬ e + 3 < -6 := by omega
  simp [encodeE4m3, hn, htop, roundGrid_of_le, hmin, hhi, flagIf, add_assoc]

/-- 15 × 2^4 and 14 × 2^5 are at most 448, E4M3's largest finite value (R146). -/
theorem not_448_lt (hn : n ≤ 15) (he : e ≤ 5) (hmax : e = 5 → n ≤ 14) : ltDyadic 448 0 n e = false := by
  simp only [ltDyadic, decide_eq_false_iff_not, not_lt]
  rcases le_total e 0 with hneg | hpos
  · have hpow : 1 ≤ 2 ^ (0 - e).toNat := Nat.one_le_two_pow
    rw [min_eq_right hneg, sub_self, Int.toNat_zero]
    omega
  · rw [min_eq_left hpos, sub_self, Int.toNat_zero]
    interval_cases e <;> simp <;> omega

end Encoders

/-! ## Codes (07 R143, R146, R147) -/

section Codes
variable {ty mode x : Nat} {sat : Bool}

/-- A code is its sign, its exponent and its fraction. -/
theorem sign_add_exponent_add_fraction {m eb : Nat} (h : x < 2 ^ (m + eb + 1)) :
    (if x / 2 ^ (m + eb) % 2 = 1 then 2 ^ (m + eb) else 0) + x / 2 ^ m % 2 ^ eb * 2 ^ m + x % 2 ^ m = x := by
  have hsign : x / 2 ^ (m + eb) < 2 := Nat.div_lt_of_lt_mul (by rwa [← Nat.pow_succ])
  have hcode := Nat.div_add_mod x (2 ^ (m + eb))
  have hlow : x % 2 ^ (m + eb) = x % 2 ^ m + 2 ^ m * (x / 2 ^ m % 2 ^ eb) := by rw [Nat.pow_add, Nat.mod_mul]
  have hbit : (if x / 2 ^ (m + eb) % 2 = 1 then 2 ^ (m + eb) else 0) = 2 ^ (m + eb) * (x / 2 ^ (m + eb)) := by
    generalize x / 2 ^ (m + eb) = sign at hsign ⊢
    interval_cases sign <;> simp
  rw [hbit, Nat.add_assoc, Nat.mul_comm _ (2 ^ m), Nat.add_comm (2 ^ m * _), ← hlow, hcode]

section Ieee
variable (hty : ty = 0 ∨ ty = 1 ∨ ty = 2 ∨ ty = 4)
include hty

theorem typeBits_ieee : typeBits ty = fracBits ty + expBits ty + 1 := by
  rcases hty with rfl | rfl | rfl | rfl <;> rfl

/-- The greatest exponent of a normal number, 2^eb - 2, is twice the bias (R143). -/
theorem two_mul_biasOf : 2 * biasOf ty = 2 ^ expBits ty - 2 := by
  rcases hty with rfl | rfl | rfl | rfl <;> rfl

theorem decodeVal_ieee : decodeVal ty x = decodeIeee ty x := by
  rcases hty with rfl | rfl | rfl | rfl <;> rfl

theorem not_e4m3_of_ieee : ¬ (ty = 3 ∨ ty = 7) := by omega

theorem isSix_ieee : isSix ty = false := by
  rcases hty with rfl | rfl | rfl | rfl <;> rfl

theorem encodeFloat_inf {neg : Bool} : encodeFloat ty mode sat (.inf neg)
    = ((if neg then 2 ^ (fracBits ty + expBits ty) else 0) + (2 ^ expBits ty - 1) * 2 ^ fracBits ty, 0#6) := by
  rw [Nat.sub_mul, one_mul, ← Nat.pow_add, Nat.add_comm (expBits ty)]
  simp [encodeFloat, isSix_ieee hty, not_e4m3_of_ieee hty]

theorem encodeFloat_fin {neg : Bool} {n : Nat} {e : Int} :
    encodeFloat ty mode sat (.fin neg n e) = encodeIeee ty mode sat neg n e := by
  simp [encodeFloat, isSix_ieee hty, not_e4m3_of_ieee hty]

/-- FP32, BF16, FP16 and E5M2: an infinity, a subnormal number and a normal number each give their code back. -/
theorem encodeFloat_decodeIeee (hx : x < 2 ^ typeBits ty) (hnan : (decodeIeee ty x).isNan = false) :
    encodeFloat ty mode sat (decodeIeee ty x) = (x, 0#6) := by
  rw [typeBits_ieee hty] at hx
  have hcode := sign_add_exponent_add_fraction hx
  have hbias := two_mul_biasOf hty
  have hfrac : x % 2 ^ fracBits ty < 2 ^ fracBits ty := Nat.mod_lt _ (by positivity)
  have hexp : x / 2 ^ fracBits ty % 2 ^ expBits ty < 2 ^ expBits ty := Nat.mod_lt _ (by positivity)
  simp only [decodeIeee] at hnan ⊢
  generalize x % 2 ^ fracBits ty = f at *
  generalize x / 2 ^ fracBits ty % 2 ^ expBits ty = e at *
  by_cases hspecial : e = 2 ^ expBits ty - 1
  · have hf : f = 0 := by
      by_contra hf
      simp [hspecial, hf, Val.isNan] at hnan
    rw [if_pos hspecial, if_pos hf, encodeFloat_inf hty]
    simpa [hspecial, hf] using hcode
  rw [if_neg hspecial]
  by_cases hzero : e = 0
  · rw [if_pos hzero, encodeFloat_fin hty, encodeIeee_subnormal hfrac]
    simpa [hzero] using hcode
  · rw [if_neg hzero, encodeFloat_fin hty,
      encodeIeee_normal (log2_two_pow_add hfrac) (by positivity) (by omega) (by omega)]
    have he : ((e : Int) - biasOf ty - fracBits ty + fracBits ty + biasOf ty).toNat = e := by omega
    simpa [he] using hcode

end Ieee

/-- E4M3, which has no infinity. -/
theorem encodeFloat_decodeE4m3 (hx : x < 2 ^ 8) (hnan : (decodeE4m3 x).isNan = false) :
    encodeFloat 3 mode sat (decodeE4m3 x) = (x, 0#6) := by
  have hcode := sign_add_exponent_add_fraction (m := 3) (eb := 4) hx
  have hfrac : x % 8 < 8 := Nat.mod_lt _ (by decide)
  have hexp : x / 8 % 16 < 16 := Nat.mod_lt _ (by decide)
  norm_num at hcode
  simp only [decodeE4m3] at hnan ⊢
  generalize x % 8 = f at *
  generalize x / 8 % 16 = e at *
  by_cases hspecial : e = 15 ∧ f = 7
  · simp [hspecial, Val.isNan] at hnan
  rw [if_neg hspecial]
  by_cases hzero : e = 0
  · rw [if_pos hzero]
    show encodeE4m3 mode _ f (-9) = _
    rw [encodeE4m3_subnormal hfrac]
    simpa [hzero] using hcode
  · rw [if_neg hzero]
    show encodeE4m3 mode _ (8 + f) (e - 10) = _
    have hlog : (8 + f).log2 = 3 := log2_two_pow_add (m := 3) hfrac
    rw [encodeE4m3_normal hlog (by omega) (by omega) (not_448_lt (by omega) (by omega) (by omega))]
    simpa using hcode

theorem encodeFloat_decodeVal (hty : ty ≤ 4) (hx : x < 2 ^ typeBits ty) (hnan : (decodeVal ty x).isNan = false) :
    encodeFloat ty mode sat (decodeVal ty x) = (x, 0#6) := by
  by_cases h3 : ty = 3
  · subst h3
    exact encodeFloat_decodeE4m3 hx hnan
  · have hieee : ty = 0 ∨ ty = 1 ∨ ty = 2 ∨ ty = 4 := by omega
    rw [decodeVal_ieee hieee] at hnan ⊢
    exact encodeFloat_decodeIeee hieee hx hnan

theorem decodeVal_canonNan (hty : ty ≤ 4) : decodeVal ty (canonNan ty) = .nan false := by
  interval_cases ty <;> rfl

end Codes

/-! ## Integers (07 R155) -/

section Integers
variable {signed : Bool} {w : Nat} {x : Int}

theorem intRange_le : (intRange signed w).1 ≤ (intRange signed w).2 := by
  have hhalf : (0 : Int) < 2 ^ (w - 1) := by positivity
  have hfull : (0 : Int) < 2 ^ w := by positivity
  cases signed
  case false => show (0 : Int) ≤ 2 ^ w - 1; omega
  case true => show -(2 ^ (w - 1) : Int) ≤ 2 ^ (w - 1) - 1; omega

theorem coe_wrapTo (w : Nat) (x : Int) : ((wrapTo w x : Nat) : Int) = x % 2 ^ w := by
  rw [wrapTo, Int.toNat_of_nonneg (Int.emod_nonneg _ (by positivity))]
  push_cast
  rfl

/-- Without the saturate bit an integer wraps. -/
theorem narrowInt_wraps : narrowInt signed false w x = (wrapTo w x, 0#6) := rfl

/-- With the saturate bit an integer is the nearest of the type's range, with SAT when it lies outside. -/
theorem narrowInt_saturates : narrowInt signed true w x =
    let y := max (intRange signed w).1 (min (intRange signed w).2 x)
    (wrapTo w y, flagIf (decide (y ≠ x)) fSat) := by
  rw [narrowInt, clampInt_eq intRange_le]
  rfl

end Integers

/-- Settles O42: a code's sign, exponent and fraction come back through `encodeFloat_decodeVal`; integers by `narrowInt`'s two cases. -/
theorem numberFormats : Obligations.NumberFormats := by
  refine ⟨fun ty mode x hty hx hnan _ => encodeFloat_decodeVal hty hx hnan, fun ty hty => ?_, fun signed w x _ => ?_⟩
  · rw [decodeVal_canonNan hty]
    exact ⟨rfl, rfl⟩
  · have hrange := intRange_le (signed := signed) (w := w)
    refine ⟨rfl, coe_wrapTo w x, fun ⟨hlo, hhi⟩ => ?_, fun hbelow => ?_, fun habove => ?_⟩ <;> rw [narrowInt_saturates]
    · simp [narrowInt_wraps, min_eq_right hhi, max_eq_right hlo, flagIf]
    · have hend : min (intRange signed w).2 x = x := min_eq_right (by omega)
      simp [hend, max_eq_left hbelow.le, hbelow.ne', flagIf]
    · simp [min_eq_left habove.le, max_eq_right hrange, habove.ne, flagIf]

end Sys2Proof.Machine
end

section
/-!
SUPPORT. Instructions of the A half that give a value to a register field: the issue of an instruction under its hints (02 R29, 08
R184-R188), and each shape of the arithmetic (08 R166-R176) as `Gives` or `GivesF` says it; the statements O6 and O7 put together
from them.
-/

namespace Sys2Proof.Machine

/-! ## An instruction under its hints -/

/-- The A half can issue an instruction that accepts the hints fetched before it, which come to `g`. -/
structure IssuesUnder (s : State) (i : Instr) (g : Hints) : Prop where
  issues : s.actor.issues = true
  clear : s.turn.upset = .none
  drained : s.actor.eq = []
  accepted : groupFault i s.actor.hints = none
  group : hintsOf s.actor.hints = g

theorem ReadyA.issuesUnder {s : State} (h : ReadyA s) (i : Instr) : IssuesUnder s i {} where
  issues := h.issues
  clear := h.clear
  drained := h.drained
  accepted := by rw [h.plain, groupFault_nil]
  group := by rw [h.plain, hintsOf_nil]

/-- A body that comes to an end under the hints of its instruction. -/
theorem aHalf_issued {s t : State} {i : Instr} {g : Hints} {body : Hints → M Disp} {x : Disp} (h : IssuesUnder s i g)
    (hb : body g s = .ok (x, t)) : aHalf i body s = .next (t.finishA x) := by
  obtain ⟨hissues, hclear, hdrained, haccepted, rfl⟩ := h
  simp [aHalf, hissues, hclear, Upset.error, haccepted, hdrained, hb]

/-! ## The shapes

The meaning of each instruction is `aHalf` of its shape by definition: the premise `hi` holds by unfolding it. -/

section Shapes
variable {s : State} {i : Instr} {g : Hints} {d a b : BitVec 5} {x y v : Word} {c : Ctx} {fl : BitVec 6}

/-- Setting no flag changes nothing. -/
theorem GivesF.gives (h : GivesF s i c d v 0#6) : Gives s i c d v := fun c' hd => by
  have hgives := h c' hd
  rwa [BitVec.or_zero] at hgives

theorem gives_alu3 {f : Hints → Word → Word → Word} (h : IssuesUnder s i g) (hs : s.actor.sources a b = some (x, y, c))
    (hi : exec i s = aHalf i (fun g => alu3 d a b (f g)) s) (hv : f g x y = v) : Gives s i c d v := fun c' hd => by
  obtain ⟨u, hrun, hend⟩ := alu3_ends (f g) hs (hv ▸ hd)
  rw [hi, aHalf_issued h hrun, hend]

theorem gives_alu2 {f : Hints → Word → Word} (h : IssuesUnder s i g) (hs : s.actor.source a = some (x, c))
    (hi : exec i s = aHalf i (fun g => alu2 d a (f g)) s) (hv : f g x = v) : Gives s i c d v := fun c' hd => by
  obtain ⟨u, hrun, hend⟩ := alu2_ends (f g) hs (hv ▸ hd)
  rw [hi, aHalf_issued h hrun, hend]

theorem givesF_alu3f {f : Hints → Word → Word → Word × BitVec 6} (h : IssuesUnder s i g)
    (hs : s.actor.sources a b = some (x, y, c)) (hi : exec i s = aHalf i (fun g => alu3f d a b (f g)) s)
    (hv : f g x y = (v, fl)) : GivesF s i c d v fl := fun c' hd => by
  obtain ⟨u, hrun, hend⟩ := alu3f_ends (f g) hs (by rwa [hv])
  rw [hi, aHalf_issued h hrun, hend, hv]

theorem givesF_alu2f {f : Hints → Word → Word × BitVec 6} (h : IssuesUnder s i g) (hs : s.actor.source a = some (x, c))
    (hi : exec i s = aHalf i (fun g => alu2f d a (f g)) s) (hv : f g x = (v, fl)) : GivesF s i c d v fl := fun c' hd => by
  obtain ⟨u, hrun, hend⟩ := alu2f_ends (f g) hs (by rwa [hv])
  rw [hi, aHalf_issued h hrun, hend, hv]

/-- A body that comes to the write of a value to a field, with the acting context left as `c` before. -/
theorem gives_writes {t : State} {body : Hints → M Disp} (h : IssuesUnder s i g) (k : SetTo s t c) (hact : c.act = s.actor.act)
    (hpc : c.pc = s.actor.pc) (hi : exec i s = aHalf i body s) (hb : body g s = (writeA d v >>= fun _ => pure .retire) t) :
    Gives s i c d v := fun c' hd => by
  obtain ⟨u, hwrite, ku⟩ := writeA_dest k hd
  obtain ⟨hact', hpc'⟩ := Ctx.dest_act hd
  rw [hi, aHalf_issued h ((hb.trans (M.bind_ok hwrite)).trans rfl)]
  exact congrArg _ (ku.finish (hact'.trans hact) (hpc'.trans hpc))

end Shapes

/-! ## Comparisons and exact sums -/

section Values
variable {α : Type} [LinearOrder α] (f : Word → α) (x y : Word)

/-- The lesser of two words, by the order of what they stand for. -/
theorem ite_lt_swap : (if decide (f y < f x) then y else x) = if f x ≤ f y then x else y := by
  simp [← not_lt, ite_not]

/-- The greater: of equal ones either. -/
theorem ite_lt_of_injective (hf : Function.Injective f) : (if decide (f x < f y) then y else x) = if f x ≤ f y then y else x := by
  rcases lt_trichotomy (f x) (f y) with h | h | h
  · simp [h, h.le]
  · simp [hf h]
  · simp [h.not_gt, h.not_ge]

theorem wordOfInt_add : wordOfInt (x.toInt + y.toInt) = x + y := by
  rw [wordOfInt, BitVec.ofInt_add, BitVec.ofInt_toInt, BitVec.ofInt_toInt]

theorem wordOfInt_sub : wordOfInt (x.toInt - y.toInt) = x - y := by
  apply BitVec.eq_of_toInt_eq
  simp [wordOfInt, BitVec.toInt_sub]

theorem wordOfInt_mul : wordOfInt (x.toInt * y.toInt) = x * y := by
  rw [wordOfInt, BitVec.ofInt_mul, BitVec.ofInt_toInt, BitVec.ofInt_toInt]

theorem toInt_injective : Function.Injective (BitVec.toInt : Word → Int) := fun _ _ => BitVec.eq_of_toInt_eq

theorem boolWord_decide (p : Prop) [Decidable p] : boolWord (decide p) = if p then 1#64 else 0#64 := by
  by_cases h : p <;> simp [boolWord, h]

theorem boolWord_bne : boolWord (x != y) = if x = y then 0#64 else 1#64 := by
  by_cases h : x = y <;> simp [boolWord, h]

/-- Without the saturate bit a result is taken modulo 2^64, and no flag is set. -/
theorem saturate64_wraps (z : Int) : saturate64 false z = (wordOfInt z, 0#6) := rfl

end Values

/-- Settles O6: each function has the shape `alu3`, or `alu3f` with no flag to set, and its value is the one that the manual names. -/
theorem aluWritesItsFunction : Obligations.AluWritesItsFunction := by
  unfold Obligations.AluWritesItsFunction
  intro s d a b x y c h hs
  have hi (i : Instr) := h.issuesUnder i
  refine ⟨?add, ?sub, ?mul, ?and, ?or, ?xor, ?andn, ?orn, ?sll, ?srl, ?sra, ?rol, ?ror, ?mulh, ?mulhn, ?min, ?max, ?minn, ?maxn,
    ?slt, ?sltn, ?seq, ?sne⟩
  case add => exact GivesF.gives (givesF_alu3f (hi _) hs (.refl (execAdd d a b s)) (by rw [saturate64_wraps, wordOfInt_add]))
  case sub => exact GivesF.gives (givesF_alu3f (hi _) hs (.refl (execSub d a b s)) (by rw [saturate64_wraps, wordOfInt_sub]))
  case mul => exact GivesF.gives (givesF_alu3f (hi _) hs (.refl (execMul d a b s)) (by rw [saturate64_wraps, wordOfInt_mul]))
  case and => exact gives_alu3 (hi _) hs (.refl (execAnd d a b s)) rfl
  case or => exact gives_alu3 (hi _) hs (.refl (execOr d a b s)) rfl
  case xor => exact gives_alu3 (hi _) hs (.refl (execXor d a b s)) rfl
  case andn => exact gives_alu3 (hi _) hs (.refl (execAndn d a b s)) rfl
  case orn => exact gives_alu3 (hi _) hs (.refl (execOrn d a b s)) rfl
  case sll => exact gives_alu3 (hi _) hs (.refl (execSll d a b s)) rfl
  case srl => exact gives_alu3 (hi _) hs (.refl (execSrl d a b s)) rfl
  case sra => exact gives_alu3 (hi _) hs (.refl (execSra d a b s)) rfl
  case rol => exact gives_alu3 (hi _) hs (.refl (execRol d a b s)) rfl
  case ror => exact gives_alu3 (hi _) hs (.refl (execRor d a b s)) rfl
  case mulh => exact gives_alu3 (hi _) hs (.refl (execMulh d a b s)) rfl
  case mulhn => exact gives_alu3 (hi _) hs (.refl (execMulhn d a b s)) rfl
  case min => exact gives_alu3 (hi _) hs (.refl (execMin d a b s)) (ite_lt_swap BitVec.toInt x y)
  case max => exact gives_alu3 (hi _) hs (.refl (execMax d a b s)) (ite_lt_of_injective BitVec.toInt x y toInt_injective)
  case minn => exact gives_alu3 (hi _) hs (.refl (execMinn d a b s)) (ite_lt_swap BitVec.toNat x y)
  case maxn => exact gives_alu3 (hi _) hs (.refl (execMaxn d a b s)) (ite_lt_of_injective BitVec.toNat x y BitVec.toNat_injective)
  case slt => exact gives_alu3 (hi _) hs (.refl (execSlt d a b s)) (boolWord_decide _)
  case sltn => exact gives_alu3 (hi _) hs (.refl (execSltn d a b s)) (boolWord_decide _)
  case seq => exact gives_alu3 (hi _) hs (.refl (execSeq d a b s)) (boolWord_decide _)
  case sne => exact gives_alu3 (hi _) hs (.refl (execSne d a b s)) (boolWord_bne x y)

/-! ## Division (08 R171) -/

/-- −2^63 by −1: the quotient 2^63 wraps to −2^63. -/
theorem ofInt_tdiv_overflow {x y : Word} (hx : x.toInt = -2 ^ 63) (hy : y.toInt = -1) : BitVec.ofInt 64 (x.toInt.tdiv y.toInt) = x := by
  apply BitVec.eq_of_toInt_eq
  rw [hx, hy]
  rfl

/-- Settles O7: each function has the shape `alu3f`, and its value and its flag depend on whether the divisor is 0. -/
theorem divisionAndItsCorners : Obligations.DivisionAndItsCorners := by
  unfold Obligations.DivisionAndItsCorners
  intro s d a b x y c h hs
  have hi (i : Instr) := h.issuesUnder i
  have hdiv (hy : y ≠ 0#64) : Gives s (.div d a b) c d (BitVec.ofInt 64 (x.toInt.tdiv y.toInt)) :=
    GivesF.gives (givesF_alu3f (hi _) hs (.refl (execDiv d a b s)) (if_neg hy))
  have hrem (hy : y ≠ 0#64) : Gives s (.rem d a b) c d (BitVec.ofInt 64 (x.toInt.tmod y.toInt)) :=
    GivesF.gives (givesF_alu3f (hi _) hs (.refl (execRem d a b s)) (if_neg hy))
  refine ⟨fun hy => ?zero, fun hy => ?nonzero, fun hx hy => ?overflow⟩
  case zero =>
    exact ⟨givesF_alu3f (hi _) hs (.refl (execDiv d a b s)) (if_pos hy), givesF_alu3f (hi _) hs (.refl (execDivn d a b s)) (if_pos hy),
      givesF_alu3f (hi _) hs (.refl (execRem d a b s)) (if_pos hy), givesF_alu3f (hi _) hs (.refl (execRemn d a b s)) (if_pos hy)⟩
  case nonzero =>
    exact ⟨hdiv hy, GivesF.gives (givesF_alu3f (hi _) hs (.refl (execDivn d a b s)) (if_neg hy)), hrem hy,
      GivesF.gives (givesF_alu3f (hi _) hs (.refl (execRemn d a b s)) (if_neg hy))⟩
  case overflow =>
    have hy0 : y ≠ 0#64 := by rintro rfl; cases hy
    have hquotient := hdiv hy0
    have hremainder := hrem hy0
    rw [ofInt_tdiv_overflow hx hy] at hquotient
    rw [hy, Int.tmod_neg, Int.tmod_one] at hremainder
    exact ⟨hquotient, hremainder⟩

end Sys2Proof.Machine
end

section
/-!
SUPPORT. Hash steps, counts of bits and the byte swap (08 R170, R172), and the statement O8 put together from them.
-/

namespace Sys2Proof.Machine

/-! ## CRC32C (08 R172) -/

theorem crcBits_eq_iterate (n : Nat) (c : BitVec 32) : crcBits n c = crcBit^[n] c := by
  induction n generalizing c with
  | zero => rfl
  | succ n ih => exact ih (crcBit c)

theorem crc32cOf_eq_foldl (x y : Word) : crc32cOf x y = (([0, 1, 2, 3, 4, 5, 6, 7].foldl
    (fun r k => crcBit^[8] (r ^^^ (y.extractLsb' (8 * k) 8).setWidth 32)) (x.setWidth 32)).setWidth 64) := by
  simp only [crc32cOf, crcBits_eq_iterate]
  rfl

/-! ## Counts of bits (08 R170) -/

section Counts
variable (x : Word)

/-- Bits that are all clear make the word 0. -/
theorem eq_zero_of_clear {x : Word} (h : ∀ j, x.getLsbD j = false) : x = 0#64 :=
  BitVec.eq_of_getLsbD_eq fun j _ => by rw [h, BitVec.getLsbD_zero]

theorem ne_zero_of_set {x : Word} {j : Nat} (h : x.getLsbD j = true) : x ≠ 0#64 := by
  rintro rfl
  simp at h

/-- Where the bits from `n` up are clear, the count is that of zeros above the highest bit set, 64 for 0. -/
theorem leadingZeros_spec {n : Nat} (hn : n ≤ 64) (habove : ∀ j, n ≤ j → x.getLsbD j = false) :
    (x = 0#64 → leadingZeros x n = 64)
      ∧ (x ≠ 0#64 → leadingZeros x n < 64 ∧ x.getLsbD (63 - leadingZeros x n) = true
        ∧ ∀ j, 63 - leadingZeros x n < j → x.getLsbD j = false) := by
  induction n with
  | zero => exact ⟨fun _ => rfl, fun h => absurd (eq_zero_of_clear fun j => habove j (Nat.zero_le j)) h⟩
  | succ n ih =>
    rw [leadingZeros]
    by_cases hbit : x.getLsbD n = true
    · rw [if_pos hbit, show 63 - (63 - n) = n by omega]
      exact ⟨fun h => absurd h (ne_zero_of_set hbit), fun _ => ⟨by omega, hbit, fun j hj => habove j hj⟩⟩
    · rw [if_neg hbit]
      refine ih (by omega) fun j hj => ?_
      rcases hj.eq_or_lt with rfl | hj
      · simpa using hbit
      · exact habove j hj

/-- Where the bits below `64 - n` are clear, the count is that of zeros below the lowest bit set, 64 for 0. -/
theorem trailingZeros_spec {n : Nat} (hn : n ≤ 64) (hbelow : ∀ j, j < 64 - n → x.getLsbD j = false) :
    (x = 0#64 → trailingZeros x n = 64)
      ∧ (x ≠ 0#64 → trailingZeros x n < 64 ∧ x.getLsbD (trailingZeros x n) = true
        ∧ ∀ j, j < trailingZeros x n → x.getLsbD j = false) := by
  induction n with
  | zero =>
    refine ⟨fun _ => rfl, fun h => absurd (BitVec.eq_of_getLsbD_eq fun j hj => ?_) h⟩
    rw [hbelow j hj, BitVec.getLsbD_zero]
  | succ n ih =>
    rw [trailingZeros]
    by_cases hbit : x.getLsbD (63 - n) = true
    · rw [if_pos hbit]
      exact ⟨fun h => absurd h (ne_zero_of_set hbit), fun _ => ⟨by omega, hbit, fun j hj => hbelow j (by omega)⟩⟩
    · rw [if_neg hbit]
      refine ih (by omega) fun j hj => ?_
      rcases (show j ≤ 63 - n by omega).eq_or_lt with rfl | hj
      · simpa using hbit
      · exact hbelow j (by omega)

theorem oneBits_eq_countP {w : Nat} (x : BitVec w) (n : Nat) : oneBits x n = (List.range n).countP fun j => x.getLsbD j := by
  induction n with
  | zero => rfl
  | succ n ih => simp [oneBits, List.range_succ, ih, Nat.add_comm, List.countP_cons]

end Counts

/-! ## The byte swap (08 R170) -/

/-- Byte `j` of the number that a list of bytes holds is the list's. -/
theorem natOfBytes_byte (bs : List Byte) (j : Nat) : natOfBytes bs / 2 ^ (8 * j) % 2 ^ 8 = (bs.getD j 0#8).toNat := by
  induction bs generalizing j with
  | nil => simp [natOfBytes]
  | cons b bs ih =>
    have hb := b.isLt
    rw [natOfBytes]
    cases j with
    | zero => simp; omega
    | succ j =>
      rw [show 8 * (j + 1) = 8 + 8 * j by omega, pow_add, ← Nat.div_div_eq_div_mul,
        show (b.toNat + 256 * natOfBytes bs) / 2 ^ 8 = natOfBytes bs by omega, ih]
      rfl

/-- A byte of a number lies in the number's low part. -/
theorem mod_two_pow_byte {m k : Nat} (h : k + 8 ≤ m) (x : Nat) : x % 2 ^ m / 2 ^ k % 2 ^ 8 = x / 2 ^ k % 2 ^ 8 := by
  obtain ⟨r, rfl⟩ := Nat.exists_eq_add_of_le (show k ≤ m by omega)
  rw [pow_add, Nat.mod_mul_right_div_self, Nat.mod_mod_of_dvd _ (pow_dvd_pow 2 (by omega))]

/-- Byte `j` of the low bytes of a number. -/
theorem bytesOfNat_getD {n j : Nat} (hj : j < n) (x : Nat) :
    ((bytesOfNat n x).getD j 0#8).toNat = x / 2 ^ (8 * j) % 2 ^ 8 := by
  rw [← natOfBytes_byte, natOfBytes_bytesOfNat, show (256 : Nat) = 2 ^ 8 by rfl, ← pow_mul, mod_two_pow_byte (by omega)]

theorem byteSwap_byte (x : Word) {j : Nat} (hj : j < 8) :
    (byteSwap x).extractLsb' (8 * j) 8 = x.extractLsb' (8 * (7 - j)) 8 := by
  have hrev : (bytesOfNat 8 x.toNat).reverse.getD j 0#8 = (bytesOfNat 8 x.toNat).getD (7 - j) 0#8 := by
    simp only [List.getD_eq_getElem?_getD]
    rw [List.getElem?_reverse (by rw [length_bytesOfNat]; exact hj), length_bytesOfNat]
  apply BitVec.eq_of_toNat_eq
  rw [toNat_extract_eq, toNat_extract_eq, byteSwap, toNat_wordOf, mod_two_pow_byte (by omega), natOfBytes_byte, hrev,
    bytesOfNat_getD (by omega)]

/-- Settles O8: the hash steps are those that the manual writes out; the counts and the swap by their own lemmas. -/
theorem hashStepsAndBitCounts : Obligations.HashStepsAndBitCounts := by
  refine ⟨fun s d a b x y c h hs => ?hashes, fun s d a x c h hs => ?counts⟩
  case hashes =>
    exact ⟨gives_alu3 (h.issuesUnder _) hs (.refl (execHmix d a b s)) rfl,
      gives_alu3 (h.issuesUnder _) hs (.refl (execCrc32c d a b s)) (crc32cOf_eq_foldl x y)⟩
  case counts =>
    have hhigh := leadingZeros_spec x le_rfl fun j hj => x.getLsbD_of_ge j hj
    have hlow := trailingZeros_spec x le_rfl fun j hj => by omega
    exact ⟨⟨_, hhigh.1, hhigh.2, gives_alu2 (h.issuesUnder _) hs (.refl (execClz d a s)) rfl⟩,
      ⟨_, hlow.1, hlow.2, gives_alu2 (h.issuesUnder _) hs (.refl (execCtz d a s)) rfl⟩,
      gives_alu2 (h.issuesUnder _) hs (.refl (execPopc d a s)) (by rw [oneBits_eq_countP, wordOf]),
      _, fun j hj => byteSwap_byte x hj, gives_alu2 (h.issuesUnder _) hs (.refl (execBswap d a s)) rfl⟩

end Sys2Proof.Machine
end

section
/-!
SUPPORT. Instructions of the A half under hints (02 R28, R29; 08 R173-R175, R185, R186): the group that HIMM and HMOD make, widened
immediates, saturated results; the statements O9 and O11 put together from them.
-/

namespace Sys2Proof.Machine

/-! ## The group of hint words (02 R29; 08 R185, R186) -/

section Groups
variable {s : State} {i : Instr} {g : Hints}

/-- HMOD with the saturate bit and nothing else. -/
def satHint : Instr := .hmod 0#3 1#1 0#3 0#1 0#1 0#1 0#5 0#2 0#3

theorem decode_satHint : decode (encode satHint) = .ok satHint := decode_encode rfl nofun rfl

theorem decode_himm (p : BitVec 22) : decode (encode (.himm p)) = .ok (.himm p) := decode_encode rfl nofun rfl

theorem hints_add_himm (g : Hints) (p : BitVec 22) :
    g.add (encode (.himm p)) = { g with himm := g.himm ++ [p], himmWord := encode (.himm p) } := by
  rw [Hints.add, decode_himm]

theorem hints_add_satHint (g : Hints) :
    g.add (encode satHint) = { g with hmodWord := encode satHint, hmod := { sat := true } } := by
  rw [Hints.add, decode_satHint]
  rfl

theorem hintsAllowed_himm (i : Instr) (ps : List (BitVec 22)) (w : BitVec 32) :
    hintsAllowed i { himm := ps, himmWord := w } = (ps.isEmpty || takesHimm i) := by
  simp [hintsAllowed]

theorem hintsAllowed_sat (i : Instr) (w : BitVec 32) : hintsAllowed i { hmodWord := w, hmod := { sat := true } } = takesSat i := by
  simp [hintsAllowed]

/-- A group of hint words that decode and that the instruction accepts. -/
theorem issuesUnder_group (hrun : s.actor.status = .running) (hcalm : s.actor.afault = none) (hclear : s.turn.upset = .none)
    (hdrained : s.actor.eq = []) (hdecode : ∀ e ∈ s.actor.hints, ∃ j, decode e.word = .ok j) (hg : hintsOf s.actor.hints = g)
    (hallowed : hintsAllowed i g = true) : IssuesUnder s i g where
  issues := by simp [Ctx.issues, hrun, hcalm]
  clear := hclear
  drained := hdrained
  accepted := by
    unfold groupFault
    split
    next e he =>
      obtain ⟨j, hj⟩ := hdecode e (List.mem_of_find?_eq_some he)
      have hbad := List.find?_some he
      simp [hj] at hbad
    next => rw [hg, if_pos hallowed]
  group := hg

end Groups

/-! ## Saturated results (08 R173) -/

/-- With the saturate bit a result is the nearest of the signed range, with SAT where it lies outside. -/
theorem saturate64_clamps (z : Int) : saturate64 true z = (BitVec.ofInt 64 (max (-2 ^ 63) (min z (2 ^ 63 - 1))),
    if max (-2 ^ 63) (min z (2 ^ 63 - 1)) = z then 0#6 else fSat) := by
  rw [saturate64, clampInt_eq (by norm_num), min_comm]
  simp [flagIf, wordOfInt]

/-! ## Widened immediates (02 R28) -/

section Immediates
variable {s : State} {g : Hints} {d a : BitVec 5} {i : BitVec 16} {n : Nat} {v : BitVec n} {x : Word} {c : Ctx}

theorem widen_none (h : g.himm = []) : widen g i = (i.toNat, 16) := by rw [widen, h]

theorem widen_himm {p : BitVec 22} (h : g.himm = [p]) : widen g i = ((p ++ i).toNat, 22 + 16) := by
  rw [widen, h, toNat_append_eq]

theorem widen_himm_himm {p q : BitVec 22} (h : g.himm = [p, q]) : widen g i = ((p ++ q ++ i).toNat, 22 + 22 + 16) := by
  rw [widen, h, toNat_append_eq, toNat_append_eq]
  simp only [Nat.add_mul, Nat.mul_assoc, ← pow_add]

section Widened
variable (hn : 0 < n) (hw : widen g i = (v.toNat, n))
include hn hw

theorem immS_widened : immS g i = v.signExtend 64 := by
  rw [immS, hw, ofInt_signedOf n _ hn, BitVec.ofNat_toNat, BitVec.setWidth_eq]

omit hn in
theorem immZ_widened : immZ g i = v.setWidth 64 := by rw [immZ, hw, wordOf, BitVec.ofNat_toNat]

/-- The immediate forms, under any hints that leave their immediate as `v`. -/
theorem immediateForms_widened (hsat : g.hmod.sat = false) (h : ∀ j, takesHimm j = true → IssuesUnder s j g)
    (hs : s.actor.source a = some (x, c)) :
    ImmediateForms s d a i x (v.signExtend 64) (v.setWidth 64) (v.signExtend 64 <<< 16) c := by
  have hS := immS_widened hn hw
  have hZ := immZ_widened hw
  refine ⟨?addi, ?muli, ?andi, ?ori, ?xori, ?slti, ?sltni, ?lui⟩
  case addi =>
    exact GivesF.gives (givesF_alu2f (h _ rfl) hs (.refl (execAddi d a i s)) (by rw [hsat, saturate64_wraps, wordOfInt_add, hS]))
  case muli =>
    exact GivesF.gives (givesF_alu2f (h _ rfl) hs (.refl (execMuli d a i s)) (by rw [hsat, saturate64_wraps, wordOfInt_mul, hS]))
  case andi => exact gives_alu2 (h _ rfl) hs (.refl (execAndi d a i s)) (by rw [hZ])
  case ori => exact gives_alu2 (h _ rfl) hs (.refl (execOri d a i s)) (by rw [hZ])
  case xori => exact gives_alu2 (h _ rfl) hs (.refl (execXori d a i s)) (by rw [hZ])
  case slti => exact gives_alu2 (h _ rfl) hs (.refl (execSlti d a i s)) (by rw [hS]; exact boolWord_decide _)
  case sltni => exact gives_alu2 (h _ rfl) hs (.refl (execSltni d a i s)) (by rw [hS]; exact boolWord_decide _)
  case lui => exact gives_writes (h _ rfl) (.refl s) rfl rfl (.refl (execLui d i s)) (by rw [immL, hS])

end Widened

end Immediates

/-- Settles O9: HMOD's saturate bit is the group under which each of them issues, and `saturate64` clamps. -/
theorem saturatingArithmetic : Obligations.SaturatingArithmetic := by
  unfold Obligations.SaturatingArithmetic
  intro s d a b i x y c w hrun hcalm hclear hdrained hhints hword clamp sat
  have h (j : Instr) (hj : takesSat j = true) : IssuesUnder s j { hmodWord := encode satHint, hmod := { sat := true } } := by
    refine issuesUnder_group hrun hcalm hclear hdrained ?_ ?_ (by rw [hintsAllowed_sat, hj])
    · rw [hhints]
      simpa using ⟨satHint, by rw [hword]; exact decode_satHint⟩
    · rw [hhints]
      exact (congrArg (Hints.add {}) hword).trans (hints_add_satHint {})
  have himm (g : Hints) (hg : g.himm = []) : (immS g i).toInt = i.toInt := by
    rw [immS_widened (by omega) (widen_none hg), BitVec.toInt_signExtend_of_le (by omega)]
  refine ⟨fun hs => ⟨?add, ?sub, ?mul⟩, fun hs => ⟨?addi, ?muli⟩⟩
  case add => exact givesF_alu3f (h _ rfl) hs (.refl (execAdd d a b s)) (saturate64_clamps _)
  case sub => exact givesF_alu3f (h _ rfl) hs (.refl (execSub d a b s)) (saturate64_clamps _)
  case mul => exact givesF_alu3f (h _ rfl) hs (.refl (execMul d a b s)) (saturate64_clamps _)
  case addi => exact givesF_alu2f (h _ rfl) hs (.refl (execAddi d a i s)) (by rw [himm _ rfl]; exact saturate64_clamps _)
  case muli => exact givesF_alu2f (h _ rfl) hs (.refl (execMuli d a i s)) (by rw [himm _ rfl]; exact saturate64_clamps _)

/-- Settles O11: the HIMMs fetched before an instruction are its group, and `widen` puts their payloads before its immediate. -/
theorem immediatesWiden : Obligations.ImmediatesWiden := by
  unfold Obligations.ImmediatesWiden
  intro s d a i n p q x c hrun hcalm hclear hdrained hs
  have h {ps : List (BitVec 22)} {w : BitVec 32} (hdecode : ∀ e ∈ s.actor.hints, ∃ j, decode e.word = .ok j)
      (hg : hintsOf s.actor.hints = { himm := ps, himmWord := w }) (j : Instr) (hj : (ps.isEmpty || takesHimm j) = true) :
      IssuesUnder s j { himm := ps, himmWord := w } :=
    issuesUnder_group hrun hcalm hclear hdrained hdecode hg (by rw [hintsAllowed_himm, hj])
  refine ⟨fun hhints => ?none, fun e hhints he => ?one, fun e f hhints he hf => ?two⟩
  case none =>
    have hnone (j : Instr) : IssuesUnder s j {} := h (by simp [hhints]) (by rw [hhints]; rfl) j rfl
    exact ⟨immediateForms_widened (by omega) (widen_none rfl) rfl (fun j _ => hnone j) hs,
      gives_alu2 (hnone _) hs (.refl (execSlli d a n s)) rfl, gives_alu2 (hnone _) hs (.refl (execSrli d a n s)) rfl,
      gives_alu2 (hnone _) hs (.refl (execSrai d a n s)) rfl, gives_alu2 (hnone _) hs (.refl (execRoli d a n s)) rfl⟩
  case one =>
    have hg : hintsOf s.actor.hints = { himm := [p], himmWord := encode (.himm p) } := by
      rw [hhints]
      exact (congrArg (Hints.add {}) he).trans (hints_add_himm {} p)
    have hdecode : ∀ e ∈ s.actor.hints, ∃ j, decode e.word = .ok j := by simp [hhints, he, decode_himm]
    exact immediateForms_widened (by omega) (widen_himm rfl) rfl (fun j hj => h hdecode hg j (by simp [hj])) hs
  case two =>
    have hg : hintsOf s.actor.hints = { himm := [p, q], himmWord := encode (.himm q) } := by
      rw [hhints]
      show (Hints.add {} e.word).add f.word = _
      rw [he, hf, hints_add_himm, hints_add_himm]
      rfl
    have hdecode : ∀ e ∈ s.actor.hints, ∃ j, decode e.word = .ok j := by simp [hhints, he, hf, decode_himm]
    exact immediateForms_widened (by omega) (widen_himm_himm rfl) rfl (fun j hj => h hdecode hg j (by simp [hj])) hs

end Sys2Proof.Machine
end

section
/-!
SUPPORT. Bit fields (08 R176): the bits of extracts and inserts, words of its major that are no instruction; the statement O10 put
together from them.
-/

namespace Sys2Proof.Machine

/-! ## The bits of a field (08 R176) -/

section Bits
variable (x old : Word) (pos width : Nat) {j : Nat}

/-- A field ends with the word: a bit beyond it is clear. -/
theorem fieldWidth_and_getLsbD :
    (decide (j < fieldWidth pos width) && x.getLsbD (pos + j)) = (decide (j < width) && x.getLsbD (pos + j)) := by
  by_cases hin : pos + j < 64
  · have hiff : j < fieldWidth pos width ↔ j < width := by rw [fieldWidth]; split_ifs <;> omega
    rw [decide_eq_decide.2 hiff]
  · rw [x.getLsbD_of_ge _ (by omega), Bool.and_false, Bool.and_false]

theorem getLsbD_extractU (hj : j < 64) : (extractU x pos width).getLsbD j = (decide (j < width) && x.getLsbD (pos + j)) := by
  rw [extractU, wordOf, BitVec.getLsbD_ofNat, Nat.testBit_mod_two_pow, Nat.testBit_div_two_pow, decide_eq_true hj, Bool.true_and,
    Nat.add_comm j]
  exact fieldWidth_and_getLsbD x pos width

/-- Above its width an extract repeats the field's highest bit. -/
theorem getLsbD_extractS (hpos : pos < 64) (hj : j < 64) :
    (extractS x pos width).getLsbD j = (decide (width ≠ 0) && x.getLsbD (min (pos + min j (width - 1)) 63)) := by
  have hwidth : fieldWidth pos width = min width (64 - pos) := if_neg (by omega)
  by_cases h0 : width = 0
  · subst h0
    simp [extractS, hwidth]
  have hpositive : 0 < fieldWidth pos width := by omega
  have hbit (k : Nat) (hk : k < fieldWidth pos width) :
      (BitVec.ofNat (fieldWidth pos width) (x.toNat / 2 ^ pos)).getLsbD k = x.getLsbD (pos + k) := by
    rw [BitVec.getLsbD_ofNat, decide_eq_true hk, Bool.true_and, Nat.testBit_div_two_pow, Nat.add_comm k]
    rfl
  rw [extractS, if_neg hpositive.ne', ofInt_signedOf _ _ hpositive, BitVec.getLsbD_signExtend, decide_eq_true hj, Bool.true_and,
    decide_eq_true h0, Bool.true_and]
  split_ifs with hlow
  · rw [hbit j hlow]
    congr 1
    omega
  · rw [BitVec.msb_eq_getLsbD_last, hbit _ (by omega)]
    congr 1
    omega

/-- A mask of `width` ones from bit `pos` on. -/
theorem getLsbD_fieldMask (hj : j < 64) : (wordOf ((2 ^ width - 1) * 2 ^ pos)).getLsbD j = decide (pos ≤ j ∧ j < pos + width) := by
  rw [wordOf, BitVec.getLsbD_ofNat, decide_eq_true hj, Bool.true_and, Nat.testBit_mul_two_pow, Nat.testBit_two_pow_sub_one,
    ← Bool.decide_and, decide_eq_decide]
  omega

/-- An insert puts the low bits of `x` in the field and keeps the others. -/
theorem getLsbD_insertBits (hj : j < 64) :
    (insertBits old x pos width).getLsbD j = if pos ≤ j ∧ j < pos + width then x.getLsbD (j - pos) else old.getLsbD j := by
  have hwidth : fieldWidth pos width = if 64 ≤ pos then 0 else min width (64 - pos) := rfl
  unfold insertBits
  dsimp only
  by_cases h0 : fieldWidth pos width = 0
  · rw [if_pos h0, if_neg (by split_ifs at hwidth <;> omega)]
  rw [if_neg h0, BitVec.getLsbD_or, BitVec.getLsbD_and, BitVec.getLsbD_and, BitVec.getLsbD_not, BitVec.getLsbD_shiftLeft,
    getLsbD_fieldMask _ _ hj, decide_eq_true hj]
  by_cases hfield : pos ≤ j ∧ j < pos + width
  · have hin : pos ≤ j ∧ j < pos + fieldWidth pos width := by split_ifs at hwidth <;> omega
    simp [hfield, hin, hfield.1.not_gt]
  · have hout : ¬(pos ≤ j ∧ j < pos + fieldWidth pos width) := by split_ifs at hwidth <;> omega
    simp [hfield, hout]

end Bits

/-! ## Inserts -/

section Inserts
variable {s : State} {i : Instr} {g : Hints} {d a b : BitVec 5} {pos width : Nat} {x y old : Word} {c c' c'' : Ctx}

theorem gives_insert (h : IssuesUnder s i g) (ha : s.actor.source a = some (x, c)) (hd : c.source d = some (old, c'))
    (hi : exec i s = aHalf i (fun _ => insertForm d a none pos width) s) : Gives s i c' d (insertBits old x pos width) := by
  obtain ⟨u1, hread, k1⟩ := readA_source (.refl s) ha
  obtain ⟨u2, hold, k2⟩ := readA_source k1 hd
  obtain ⟨hact, hpc⟩ := Ctx.source_act ha
  obtain ⟨hact', hpc'⟩ := Ctx.source_act hd
  exact gives_writes h k2 (hact'.trans hact) (hpc'.trans hpc) hi ((M.bind_ok hread).trans (M.bind_ok hold))

/-- The register form reads its position and its width after the first source, and `d` after both (02 R34). -/
theorem gives_insertv (h : IssuesUnder s i g) (ha : s.actor.source a = some (x, c)) (hb : c.source b = some (y, c'))
    (hd : c'.source d = some (old, c'')) (hi : exec i s = aHalf i (fun _ => insertForm d a (some b) 0 0) s) :
    Gives s i c'' d (insertBits old x (fieldOf y 7 0) (fieldOf y 15 8)) := by
  obtain ⟨u1, hread, k1⟩ := readA_source (.refl s) ha
  obtain ⟨u2, hwhere, k2⟩ := readA_source k1 hb
  obtain ⟨u3, hold, k3⟩ := readA_source k2 hd
  obtain ⟨hact, hpc⟩ := Ctx.source_act ha
  obtain ⟨hact', hpc'⟩ := Ctx.source_act hb
  obtain ⟨hact'', hpc''⟩ := Ctx.source_act hd
  exact gives_writes h k3 (hact''.trans (hact'.trans hact)) (hpc''.trans (hpc'.trans hpc)) hi
    ((M.bind_ok hread).trans ((M.bind_ok hwhere).trans (M.bind_ok hold)))

end Inserts

/-! ## Words of scalar majors that are no instruction (02 R38, R40) -/

section Refused
variable {s : State} {w : BitVec 32}

/-- A word that does not decode, of a major of the A half that names no SUPER instruction and no hint, stops its context. -/
theorem refusedWord_stops (h : ReadyA s) (hdecode : ∀ i, decode w ≠ .ok i) (hlow : 1 ≤ (major w).toNat)
    (hhigh : (major w).toNat < 0x1E) :
    ∃ u, exec (wordInstr w) s = .next u ∧ Stopped u s.turn.core s.turn.ctx .illegal ∧ u.actor.faultx = w.setWidth 64 := by
  have hword : wordInstr w = .illegalWord w := by
    unfold wordInstr
    split
    next i hi => exact absurd hi (hdecode i)
    next => rfl
  have hne (m : BitVec 6) (hm : m.toNat = 0 ∨ 0x1E ≤ m.toNat) : (major w == m) = false := by
    rw [beq_eq_false_iff_ne]
    rintro rfl
    omega
  have hsuper : namesSuper w = false := by rw [namesSuper, hne 0#6 (by decide), hne 0x1E#6 (by decide)]; rfl
  have hroute : routesToE w = false := by rw [routesToE, decide_eq_false (by omega)]; rfl
  obtain ⟨u, hexec, hturn, -, hactor⟩ := illegalWord_stops_A h (by rw [isHintWord, hne 0x3F#6 (by decide)]; rfl) hroute
  rw [hsuper] at hactor
  exact ⟨u, hword ▸ hexec, Stopped.of_actor hturn hactor, by rw [hactor]; rfl⟩

/-- Major 0x02 lists no function from 5 on. -/
theorem decode_bitf_unlisted (hmajor : major w = 0x02#6) (hfn : 5 ≤ (fn4 w).toNat) (i : Instr) : decode w ≠ .ok i := by
  have hfields : decodeFields w = .error .unlistedFunction := by
    simp only [decodeFields, hmajor, decodeBitf]
    split
    case h_6 => rfl
    all_goals simp_all
  simp [decode, hfields]

end Refused

/-- Settles O10: each form gives `extractU`, `extractS` or `insertBits`, whose bits the lemmas above name. -/
theorem bitFieldsMoveTheirBits : Obligations.BitFieldsMoveTheirBits := by
  unfold Obligations.BitFieldsMoveTheirBits
  intro s d a b p l x c h ha
  have hi (i : Instr) := h.issuesUnder i
  have hfields (y : Word) : fieldOf y 7 0 = (y.extractLsb' 0 8).toNat ∧ fieldOf y 15 8 = (y.extractLsb' 8 8).toNat := by
    rw [toNat_extract_eq, toNat_extract_eq]
    exact ⟨by simp [fieldOf, bitsOf], rfl⟩
  refine ⟨?bfx, ?bfxs, fun old c' hd => ?bfi, fun y c' hb => ⟨?bfxv, fun old c'' hd => ?bfiv⟩, fun w hmajor hfn => ?illegal⟩
  case bfx =>
    exact ⟨_, fun j hj => getLsbD_extractU x p.toNat l.toNat hj, gives_alu2 (hi _) ha (.refl (execBfx d a p l s)) rfl⟩
  case bfxs =>
    refine ⟨_, fun j hj => ?_, gives_alu2 (hi _) ha (.refl (execBfxs d a p l s)) rfl⟩
    rw [getLsbD_extractS x p.toNat l.toNat p.isLt hj]
    simp [← BitVec.toNat_inj]
  case bfi =>
    exact ⟨_, fun j hj => getLsbD_insertBits x old p.toNat l.toNat hj, gives_insert (hi _) ha hd (.refl (execBfi d a p l s))⟩
  case bfxv =>
    have hs : s.actor.sources a b = some (x, y, c') := by rw [Ctx.sources, ha]; simp only [hb]
    obtain ⟨hpos, hwidth⟩ := hfields y
    refine ⟨_, fun j hj => ?_, gives_alu3 (hi _) hs (.refl (execBfxv d a b s)) rfl⟩
    rw [getLsbD_extractU x _ _ hj, hpos, hwidth]
  case bfiv =>
    obtain ⟨hpos, hwidth⟩ := hfields y
    refine ⟨_, fun j hj => ?_, gives_insertv (hi _) ha hb hd (.refl (execBfiv d a b s))⟩
    rw [getLsbD_insertBits x old _ _ hj, hpos, hwidth]
  case illegal =>
    have hmajor : major w = 0x02#6 := hmajor
    exact refusedWord_stops h (decode_bitf_unlisted hmajor hfn) (by rw [hmajor]; decide) (by rw [hmajor]; decide)

end Sys2Proof.Machine
end

section
/-!
SUPPORT. Branches and jumps (08 R177-R182): targets, transfers that retire, and those whose target is bad; the statements O12 and O13
put together from them.
-/

namespace Sys2Proof.Machine

/-! ## Targets (02 R24, 08 R182) -/

section Targets
variable {s t : State} {disp : Int}

/-- A target at a word of the address space is taken. -/
theorem branchTarget_reaches {a : BitVec 52} (h : (a.toNat : Int) = s.actor.pc.toNat + 4 * disp) (ha : a.toNat % 4 = 0) :
    branchTarget disp s = .ok (a.toNat, s) := by
  refine (M.bind_ok (me_run s)).trans ?_
  have hlt := a.isLt
  rw [← h, checkTarget, if_neg (by omega)]
  rfl

theorem branchTarget_faults {z : Int} (h : z = s.actor.pc.toNat + 4 * disp) (hbad : z < 0 ∨ 2 ^ 52 ≤ z ∨ z % 4 ≠ 0) :
    branchTarget disp s = .error (.fault .illegal (BitVec.ofInt 64 z) 0#64) := by
  refine (M.bind_ok (me_run s)).trans ?_
  rw [← h, checkTarget, if_pos (by omega)]
  rfl

theorem registerTarget_reaches {x : Word} (hx : x.toNat < 2 ^ 52) (h4 : x.toNat % 4 = 0) : registerTarget x s = .ok (x.toNat, s) := by
  rw [registerTarget, if_pos ⟨hx, h4⟩]
  rfl

theorem registerTarget_faults {x : Word} (hbad : ¬(x.toNat < 2 ^ 52 ∧ x.toNat % 4 = 0)) :
    registerTarget x s = .error (.fault .illegal x 0#64) := by
  rw [registerTarget, if_neg hbad]
  rfl

end Targets

/-! ## Transfers that retire -/

section Transfers
variable {s t : State} {i : Instr} {body : Hints → M Disp} {a b : BitVec 5} {x y : Word} {c : Ctx}

/-- A body that transfers retires with control at its target. -/
theorem aHalf_jumps {pc : Nat} (h : ReadyA s) (hb : body {} s = .ok (.jump pc, t)) (k : SetTo s t c) (hact : c.act = s.actor.act) :
    aHalf i body s = .next (s.ends c (BitVec.ofNat 52 pc)) := by
  rw [aHalf_done h hb, State.finishA, k.retire hact]

/-- A body that decides a transfer once its sources are read, with the acting context left as `c`. -/
theorem branches_of_body {p P : Prop} [Decidable p] {disp : Int} (h : ReadyA s) (k : SetTo s t c) (hact : c.act = s.actor.act)
    (hpc : c.pc = s.actor.pc) (hi : exec i s = aHalf i body s)
    (hb : body {} s = (if p then (do let a ← branchTarget disp; pure (.jump a)) else pure .retire : M Disp) t) (hp : p ↔ P) :
    Branches s i c disp P := by
  refine ⟨fun hP a ha h4 => ?taken, fun hP => ?next⟩
  case taken =>
    have htarget : branchTarget disp t = .ok (a.toNat, t) := branchTarget_reaches (by rw [k.actor, hpc, ha]) h4
    rw [if_pos (hp.2 hP), M.bind_ok htarget] at hb
    rw [hi, aHalf_jumps h hb k hact, BitVec.ofNat_toNat, BitVec.setWidth_eq]
  case next =>
    rw [if_neg (mt hp.1 hP)] at hb
    rw [hi, aHalf_retires h hb k hact hpc]

/-- A branch on two registers. -/
theorem branches_branch2 {m : BitVec 16} {cond : Word → Word → Bool} {P : Prop} (h : ReadyA s)
    (hs : s.actor.sources a b = some (x, y, c)) (hi : exec i s = aHalf i (fun _ => branch2 a b m cond) s) (hp : cond x y = true ↔ P) :
    Branches s i c m.toInt P := by
  obtain ⟨c1, h1, h2⟩ := Ctx.sources_cases hs
  obtain ⟨u1, hread1, k1⟩ := readA_source (.refl s) h1
  obtain ⟨u2, hread2, k2⟩ := readA_source k1 h2
  obtain ⟨hact, hpc⟩ := Ctx.source_act h1
  obtain ⟨hact', hpc'⟩ := Ctx.source_act h2
  exact branches_of_body h k2 (hact'.trans hact) (hpc'.trans hpc) hi ((M.bind_ok hread1).trans (M.bind_ok hread2)) hp

/-- BP decides at once, as no older E word can write its predicate. -/
theorem branches_bp {p : BitVec 3} {mode : BitVec 2} {m : BitVec 16} {P : Prop} (h : ReadyA s)
    (hp : predTest mode (s.actor.pred p) = true ↔ P) : Branches s (.bp p mode m) s.actor m.toInt P := by
  refine branches_of_body h (.refl s) rfl rfl (.refl (execBp p mode m s)) ?_ hp
  refine (M.bind_ok (me_run s)).trans ?_
  rw [h.drained]
  rfl

/-- DBNZ writes its count whether it transfers or not; a transfer finds its target before it writes. -/
theorem branches_dbnz {m : BitVec 16} {c' : Ctx} (h : ReadyA s) (hhigh : a.toNat ≤ 29)
    (hd : s.actor.dest a (regOf s.actor a - 1#64) = some c') : Branches s (.dbnz a m) c' m.toInt (regOf s.actor a ≠ 1#64) := by
  have hread : readA a s = .ok (regOf s.actor a, s) :=
    readA_register (fun h30 => by simp [h30] at hhigh) (fun h31 => by simp [h31] at hhigh)
  obtain ⟨u, hwrite, k⟩ := writeA_dest (.refl s) hd
  obtain ⟨hact, hpc⟩ := Ctx.dest_act hd
  have hzero : regOf s.actor a - 1#64 = 0#64 ↔ regOf s.actor a = 1#64 := by bv_omega
  refine ⟨fun hcount t ht h4 => ?taken, fun hcount => ?next⟩
  case taken =>
    have hjump : execDbnz a m s = .next (s.ends c' (BitVec.ofNat 52 t.toNat)) := by
      refine aHalf_jumps h ((M.bind_ok hread).trans ?_) k hact
      refine (congrFun (if_neg (mt hzero.1 hcount)) s).trans ?_
      exact (M.bind_ok (branchTarget_reaches ht h4)).trans ((M.bind_ok hwrite).trans rfl)
    rwa [BitVec.ofNat_toNat, BitVec.setWidth_eq] at hjump
  case next =>
    show execDbnz a m s = _
    refine aHalf_retires h ((M.bind_ok hread).trans ?_) k hact hpc
    exact (congrFun (if_pos (hzero.2 (not_not.1 hcount))) s).trans ((M.bind_ok hwrite).trans rfl)

end Transfers

/-! ## Branch words that are no instruction (02 R32, R40; 08 R181) -/

section Refused
variable {w : BitVec 32}

theorem decode_illFormed {j : Instr} (hfields : decodeFields w = .ok j) (hwf : j.wellFormed = false) (i : Instr) :
    decode w ≠ .ok i := by
  simp [decode, hfields, hwf]

/-- A field of 31 of a branch on two registers. -/
theorem decode_branch_refused (hlow : 0x0C ≤ (major w).toNat) (hhigh : (major w).toNat ≤ 0x11)
    (h31 : (f25 w).toNat = 31 ∨ (f20 w).toNat = 31) (i : Instr) : decode w ≠ .ok i := by
  have hmajors : ∀ m : BitVec 6, 0x0C ≤ m.toNat → m.toNat ≤ 0x11 →
      m = 0x0C#6 ∨ m = 0x0D#6 ∨ m = 0x0E#6 ∨ m = 0x0F#6 ∨ m = 0x10#6 ∨ m = 0x11#6 := by decide
  have hreg (r : BitVec 5) (hr : r.toNat = 31) : regOk r = false := by
    obtain rfl : r = 31#5 := BitVec.eq_of_toNat_eq hr
    rfl
  have hbad : (regOk (f25 w) && regOk (f20 w)) = false := by rcases h31 with h | h <;> simp [hreg _ h]
  rcases hmajors _ hlow hhigh with hm | hm | hm | hm | hm | hm
  · exact decode_illFormed (j := .beq (f25 w) (f20 w) (imm16 w)) (by simp only [decodeFields, hm]) hbad i
  · exact decode_illFormed (j := .bne (f25 w) (f20 w) (imm16 w)) (by simp only [decodeFields, hm]) hbad i
  · exact decode_illFormed (j := .blt (f25 w) (f20 w) (imm16 w)) (by simp only [decodeFields, hm]) hbad i
  · exact decode_illFormed (j := .bge (f25 w) (f20 w) (imm16 w)) (by simp only [decodeFields, hm]) hbad i
  · exact decode_illFormed (j := .bltn (f25 w) (f20 w) (imm16 w)) (by simp only [decodeFields, hm]) hbad i
  · exact decode_illFormed (j := .bgen (f25 w) (f20 w) (imm16 w)) (by simp only [decodeFields, hm]) hbad i

/-- DBNZ's `s` outside 1 to 29, or its `t` other than 0. -/
theorem decode_dbnz_refused (hmajor : major w = 0x16#6)
    (hbad : (f25 w).toNat = 0 ∨ 30 ≤ (f25 w).toNat ∨ (f20 w).toNat ≠ 0) (i : Instr) : decode w ≠ .ok i := by
  have hfields : decodeFields w = unusedZero (f20 w == 0#5) (.dbnz (f25 w) (imm16 w)) := by simp only [decodeFields, hmajor]
  by_cases ht : f20 w = 0#5
  · have hs : (decide (1 ≤ (f25 w).toNat) && decide ((f25 w).toNat ≤ 29)) = false := by
      rw [ht] at hbad
      simp at hbad ⊢
      omega
    exact decode_illFormed (j := .dbnz (f25 w) (imm16 w)) (by simp [hfields, unusedZero, ht]) hs i
  · simp [decode, hfields, unusedZero, ht]

end Refused

/-- Settles O12: each branch decides by its condition once its sources are read; its bad words decode to nothing. -/
theorem conditionalTransfers : Obligations.ConditionalTransfers := by
  unfold Obligations.ConditionalTransfers
  intro s a b m h
  refine ⟨fun x y c hs => ⟨?beq, ?bne, ?blt, ?bge, ?bltn, ?bgen⟩, fun p => ⟨?any, ?all, ?none, ?notAll⟩,
    fun _ hhigh c' hd => branches_dbnz h hhigh hd, ?illegal⟩
  case beq => exact branches_branch2 h hs (.refl (execBeq a b m s)) beq_iff_eq
  case bne => exact branches_branch2 h hs (.refl (execBne a b m s)) bne_iff_ne
  case blt => exact branches_branch2 h hs (.refl (execBlt a b m s)) decide_eq_true_iff
  case bge => exact branches_branch2 h hs (.refl (execBge a b m s)) (by simp [ltS, BitVec.slt])
  case bltn => exact branches_branch2 h hs (.refl (execBltn a b m s)) decide_eq_true_iff
  case bgen => exact branches_branch2 h hs (.refl (execBgen a b m s)) (by simp [ltU, BitVec.ult])
  case any => exact branches_bp h bne_iff_ne
  case all => exact branches_bp h beq_iff_eq
  case none => exact branches_bp h beq_iff_eq
  case notAll => exact branches_bp h bne_iff_ne
  case illegal =>
    intro w major x y hw
    rcases hw with ⟨hmajor, hmajor', h31⟩ | ⟨hmajor, hbad⟩
    · exact refusedWord_stops h (decode_branch_refused hmajor hmajor' h31) (Nat.le_trans (by decide) hmajor)
        (Nat.lt_of_le_of_lt hmajor' (by decide))
    · have hmajor : Sys2Proof.major w = 0x16#6 := BitVec.eq_of_toNat_eq hmajor
      exact refusedWord_stops h (decode_dbnz_refused hmajor hbad) (by rw [hmajor]; decide) (by rw [hmajor]; decide)

/-! ## Jumps (08 R178, R179, R182) -/

section Jumps
variable {s : State} {a d : BitVec 5} {x : Word} {c c' : Ctx}

/-- The link is written after the target is found. -/
theorem link_written {t : State} {r : BitVec 5} {pc : Nat} (k : SetTo s t c) (hpc : c.pc = s.actor.pc)
    (hd : c.dest r (BitVec.ofNat 64 (s.actor.pc.toNat + 4)) = some c') :
    ∃ u, (do let l ← linkValue; writeA r l; pure (.jump pc) : M Disp) t = .ok (.jump pc, u) ∧ SetTo s u c' := by
  have hlink : linkValue t = .ok (BitVec.ofNat 64 (s.actor.pc.toNat + 4), t) := by
    refine (M.bind_ok (me_run t)).trans ?_
    rw [k.actor, hpc]
    rfl
  obtain ⟨u, hwrite, ku⟩ := writeA_dest k hd
  exact ⟨u, (M.bind_ok hlink).trans ((M.bind_ok hwrite).trans rfl), ku⟩

section Taken
variable (h : ReadyA s)
include h

theorem b_jumps {m : BitVec 26} {t : BitVec 52} (ht : (t.toNat : Int) = s.actor.pc.toNat + 4 * m.toInt) (h4 : t.toNat % 4 = 0) :
    exec (.b m) s = .next (s.ends s.actor t) := by
  have hjump : execB m s = .next (s.ends s.actor (BitVec.ofNat 52 t.toNat)) :=
    aHalf_jumps h ((M.bind_ok (branchTarget_reaches ht h4)).trans rfl) (.refl s) rfl
  rwa [BitVec.ofNat_toNat, BitVec.setWidth_eq] at hjump

theorem bal_jumps {m : BitVec 26} {t : BitVec 52} (ht : (t.toNat : Int) = s.actor.pc.toNat + 4 * m.toInt) (h4 : t.toNat % 4 = 0)
    (hd : s.actor.dest 1#5 (BitVec.ofNat 64 (s.actor.pc.toNat + 4)) = some c) : exec (.bal m) s = .next (s.ends c t) := by
  obtain ⟨u, hlink, k⟩ := link_written (pc := t.toNat) (.refl s) rfl hd
  have hjump : execBal m s = .next (s.ends c (BitVec.ofNat 52 t.toNat)) :=
    aHalf_jumps h ((M.bind_ok (branchTarget_reaches ht h4)).trans hlink) k (Ctx.dest_act hd).1
  rwa [BitVec.ofNat_toNat, BitVec.setWidth_eq] at hjump

theorem jr_jumps (hs : s.actor.source a = some (x, c)) (hx : x.toNat < 2 ^ 52) (h4 : x.toNat % 4 = 0) :
    exec (.jr a) s = .next (s.ends c (x.setWidth 52)) := by
  obtain ⟨u, hread, k⟩ := readA_source (.refl s) hs
  have hjump : execJr a s = .next (s.ends c (BitVec.ofNat 52 x.toNat)) :=
    aHalf_jumps h ((M.bind_ok hread).trans ((M.bind_ok (registerTarget_reaches hx h4)).trans rfl)) k (Ctx.source_act hs).1
  rwa [BitVec.ofNat_toNat] at hjump

theorem jalr_jumps (hs : s.actor.source a = some (x, c)) (hx : x.toNat < 2 ^ 52) (h4 : x.toNat % 4 = 0)
    (hd : c.dest d (BitVec.ofNat 64 (s.actor.pc.toNat + 4)) = some c') : exec (.jalr d a) s = .next (s.ends c' (x.setWidth 52)) := by
  obtain ⟨u, hread, k⟩ := readA_source (.refl s) hs
  obtain ⟨hact, hpc⟩ := Ctx.source_act hs
  obtain ⟨v, hlink, kv⟩ := link_written (pc := x.toNat) k hpc hd
  have hjump : execJalr d a s = .next (s.ends c' (BitVec.ofNat 52 x.toNat)) :=
    aHalf_jumps h ((M.bind_ok hread).trans ((M.bind_ok (registerTarget_reaches hx h4)).trans hlink)) kv ((Ctx.dest_act hd).1.trans hact)
  rwa [BitVec.ofNat_toNat] at hjump

end Taken

/-- A transfer to a bad target stops its context at itself, with the target in FAULTX and nothing written. -/
theorem badTarget_stops {i : Instr} {body : Hints → M Disp} {z : Int} (h : ReadyA s) (hi : exec i s = aHalf i body s)
    (hb : body {} s = .error (.fault .illegal (BitVec.ofInt 64 z) 0#64)) :
    ∃ u, exec i s = .next u ∧ Stopped u s.turn.core s.turn.ctx .illegal ∧ u.actor.faulta = s.actor.pc
      ∧ u.actor.faultx = BitVec.ofInt 64 z ∧ u.actor.a = s.actor.a ∧ u.actor.q3 = s.actor.q3 ∧ u.mem = s.mem := by
  obtain ⟨u, hexec, hturn, hmem, hactor⟩ := aHalf_stops (i := i) h hb
  refine ⟨u, hi.trans hexec, Stopped.of_actor hturn hactor, ?_⟩
  rw [hactor]
  exact ⟨rfl, rfl, rfl, rfl, hmem⟩

end Jumps

/-- Settles O13: a target at a word is taken, after the link of a call is written; a bad one is found before. -/
theorem jumpsAndBadTargets : Obligations.JumpsAndBadTargets := by
  refine ⟨fun s h => ⟨fun m t ht h4 => ⟨b_jumps h ht h4, fun c hd => bal_jumps h ht h4 hd⟩,
    fun a d x c hs hx h4 => ⟨jr_jumps h hs hx h4, fun c' hd => jalr_jumps h hs hx h4 hd⟩⟩, fun s i t h hbad hi => ?bad⟩
  rcases hi with ⟨m, hi, ht⟩ | ⟨a, d, x, c, hi, hs, rfl⟩
  case inl =>
    have hfault := branchTarget_faults ht hbad
    rcases hi with rfl | rfl
    · exact badTarget_stops h (.refl (execB m s)) (M.bind_error hfault)
    · exact badTarget_stops h (.refl (execBal m s)) (M.bind_error hfault)
  case inr =>
    obtain ⟨u, hread, -⟩ := readA_source (.refl s) hs
    have hfault : registerTarget x u = .error (.fault .illegal (BitVec.ofInt 64 x.toNat) 0#64) := by
      rw [registerTarget_faults (by omega), BitVec.ofInt_natCast, BitVec.ofNat_toNat, BitVec.setWidth_eq]
    rcases hi with rfl | rfl
    · exact badTarget_stops h (.refl (execJr a s)) ((M.bind_ok hread).trans (M.bind_error hfault))
    · exact badTarget_stops h (.refl (execJalr d a s)) ((M.bind_ok hread).trans (M.bind_error hfault))

end Sys2Proof.Machine
end

section
/-!
SUPPORT. System registers (02 R42, R43; 05 R84-R86; 08 R168, R169): what MFS reads and what MTS writes, the valid values of PARTW; the
statements O17 and O18 put together from them.
-/

namespace Sys2Proof.Machine

/-! ## Access (02 R42; 07 R163) -/

section Access
variable {s : State} {x : BitVec 6}

/-- An access that the privilege allows. -/
theorem superOnly_allowed (hpriv : superOnly x.toNat = true → s.actor.super = true) :
    (superOnly x.toNat && !s.actor.super) = false := by
  cases hx : superOnly x.toNat
  · rfl
  · simp [hpriv hx]

/-- With no E word queued an access to FLAGS or RMODE waits for none. -/
theorem olderE_drained (h : s.actor.eq = []) : (if x = 6#6 ∨ x = 7#6 then olderE else pure () : M Unit) s = .ok ((), s) := by
  have hnone : olderE s = .ok ((), s) := by
    refine (M.bind_ok (me_run s)).trans ?_
    rw [h]
    rfl
  split_ifs
  · exact hnone
  · rfl

end Access

/-! ## MFS (08 R168; 06 R117) -/

/-- MFS writes the register's value, after what a read of TAGS learns. -/
theorem mfs_leaves {s t : State} {d : BitVec 5} {x : BitVec 6} {c : Ctx} (h : ReadyA s)
    (hpriv : superOnly x.toNat = true → s.actor.super = true)
    (hlearn : (if x = 9#6 then mods fun s => s.learn s.agent (s.core s.turn.core).tagKnow else pure () : M Unit) s = .ok ((), t))
    (hd : t.actor.dest d (s.sysReg x.toNat) = some c) : LeavesIn s t (.mfs d x) c := by
  obtain ⟨u, hwrite, k⟩ := writeA_dest (.refl t) hd
  obtain ⟨hact, hpc⟩ := Ctx.dest_act hd
  show execMfs d x s = _
  refine aHalf_retires h ((M.bind_ok (me_run s)).trans ?_) k hact hpc
  rw [superOnly_allowed hpriv, if_neg Bool.false_ne_true]
  refine (M.bind_ok_if (olderE_drained h.drained)).trans ((M.bind_ok (gets_run _ s)).trans ?_)
  exact (M.bind_ok_if hlearn).trans ((M.bind_ok hwrite).trans rfl)

/-- Settles O17: NOP does nothing; the others write what they read to their destination. -/
theorem systemReads : Obligations.SystemReads := by
  unfold Obligations.SystemReads
  intro s d h
  refine ⟨?nop, ?rdcyc, ?rdtime, fun x _ h9 hpriv c' hd => ?mfs, fun c' hd => ?tags, ?plain⟩
  case nop =>
    show execNop s = _
    exact aHalf_retires h (pure_run Disp.retire s) (.refl s) rfl rfl
  case rdcyc => exact gives_writes (h.issuesUnder _) (.refl s) rfl rfl (.refl (execRdcyc d s)) rfl
  case rdtime => exact gives_writes (h.issuesUnder _) (.refl s) rfl rfl (.refl (execRdtime d s)) rfl
  case mfs => exact mfs_leaves h hpriv (by rw [if_neg h9]; rfl) hd
  case tags => exact mfs_leaves h (fun h9 => absurd h9 (by decide)) rfl hd
  case plain =>
    simp only [plainRegisters, List.cons_append, List.nil_append, List.forall_mem_cons, List.not_mem_nil]
    simp [State.sysReg, wordOf]

/-! ## MTS (08 R168; 02 R43) -/

section Writes
variable {s u : State} {a : BitVec 5} {x : BitVec 6} {v : Word} {c c' : Ctx}

/-- A register is RW at the privilege of the context that acts. -/
def State.mayWriteSys (s : State) (x : Nat) : Bool := if s.actor.super then superWrites x else userWrites x

theorem State.mayWriteSys_user (h : userWrites x.toNat = true) : s.mayWriteSys x.toNat = true := by
  unfold State.mayWriteSys superWrites
  split
  · rw [h]; rfl
  · exact h

theorem State.mayWriteSys_super (hsuper : s.actor.super = true) : s.mayWriteSys x.toNat = superWrites x.toNat := if_pos hsuper

/-- No register that USER code writes is closed to it. -/
theorem not_superOnly_of_userWrites : ∀ x : BitVec 6, userWrites x.toNat = true → superOnly x.toNat = false := by decide

theorem superOnly_of_mayWriteSys (hw : s.mayWriteSys x.toNat = true) (hx : superOnly x.toNat = true) : s.actor.super = true := by
  unfold State.mayWriteSys at hw
  split at hw
  next hsuper => exact hsuper
  next => exact absurd hx (by rw [not_superOnly_of_userWrites x hw]; decide)

section Mts
variable (h : ReadyA s) (hs : s.actor.source a = some (v, c))
include h hs

/-- MTS reads its source, and then writes the register where it may. -/
theorem mts_body (hpriv : superOnly x.toNat = true → s.actor.super = true) : ∃ t, SetTo s t c ∧ ∃ body : Hints → M Disp,
    exec (.mts a x) s = aHalf (.mts a x) body s
      ∧ body {} s = ((if s.mayWriteSys x.toNat then writeSys x.toNat v else pure ()) >>= fun _ => pure .retire : M Disp) t := by
  obtain ⟨t, hread, k⟩ := readA_source (.refl s) hs
  refine ⟨t, k, _, .refl (execMts a x s), (M.bind_ok (me_run s)).trans ?_⟩
  rw [superOnly_allowed hpriv, if_neg Bool.false_ne_true]
  refine (M.bind_ok_if (olderE_drained h.drained)).trans ((M.bind_ok hread).trans ?_)
  show (if s.mayWriteSys x.toNat = true then _ else _ : M Disp) t = _
  split_ifs <;> rfl

/-- A register that is RO at the privilege is left as it is. -/
theorem mts_ignored (hpriv : superOnly x.toNat = true → s.actor.super = true) (hw : s.mayWriteSys x.toNat = false) :
    Leaves s (.mts a x) c := by
  obtain ⟨t, k, body, hi, hb⟩ := mts_body (x := x) h hs hpriv
  obtain ⟨hact, hpc⟩ := Ctx.source_act hs
  rw [hw, if_neg Bool.false_ne_true] at hb
  rw [Leaves, hi]
  exact aHalf_retires h (hb.trans rfl) k hact hpc

section Allowed
variable (hw : s.mayWriteSys x.toNat = true)
include hw

/-- A write that ends, with the acting context left as `c'` in what is else `u`. -/
theorem mts_writes (hrun : ∀ t, SetTo s t c → ∃ t', writeSys x.toNat v t = .ok ((), t') ∧ SetTo u t' c')
    (hact : c'.act = u.actor.act) (hpc : c'.pc = u.actor.pc) : LeavesIn s u (.mts a x) c' := by
  obtain ⟨t, k, body, hi, hb⟩ := mts_body h hs (superOnly_of_mayWriteSys hw)
  obtain ⟨t', hwrite, k'⟩ := hrun t k
  rw [if_pos hw, M.bind_ok hwrite] at hb
  rw [LeavesIn, hi]
  exact aHalf_retires h hb k' hact hpc

/-- A register of the context. -/
theorem mts_context {f : Ctx → Ctx} (hrun : ∀ t, writeSys x.toNat v t = .ok ((), t.modActor f)) (hact : (f c).act = c.act)
    (hpc : (f c).pc = c.pc) : Leaves s (.mts a x) (f c) := by
  obtain ⟨hact', hpc'⟩ := Ctx.source_act hs
  exact mts_writes h hs hw (fun t k => ⟨_, hrun t, k.modActor f⟩) (hact.trans hact') (hpc.trans hpc')

/-- A register of the process. -/
theorem mts_process {f : Proc → Proc} (hrun : ∀ t, writeSys x.toNat v t = .ok ((), t.modProc t.activity.slot f)) :
    LeavesIn s (s.modProc s.activity.slot f) (.mts a x) c := by
  obtain ⟨hact, hpc⟩ := Ctx.source_act hs
  refine mts_writes h hs hw (fun t k => ⟨_, hrun t, ?_⟩) hact hpc
  rw [k.activity hact]
  exact k.modProc _ f

/-- An invalid value raises ILLEGAL. -/
theorem mts_rejects (hrun : ∀ t, SetTo s t c → writeSys x.toNat v t = .error (.fault .illegal 0#64 0#64)) :
    exec (.mts a x) s = .next (s.raiseA s.turn.core s.turn.ctx .illegal 0#64 0#64) := by
  obtain ⟨t, k, body, hi, hb⟩ := mts_body h hs (superOnly_of_mayWriteSys hw)
  rw [if_pos hw, M.bind_error (hrun t k)] at hb
  rw [hi, aHalf_fault h hb]

end Allowed

end Mts

/-- Registers that are RW at no privilege, of those that USER code may read. -/
theorem readOnly_registers : ∀ x : BitVec 6, x ∈ [0#6, 1#6, 2#6, 3#6, 4#6, 5#6, 9#6, 13#6, 22#6, 29#6, 34#6, 38#6, 39#6, 42#6] →
    superOnly x.toNat = false ∧ superWrites x.toNat = false ∧ userWrites x.toNat = false := by decide

/-- Registers that only SUPER code writes, of those that USER code may read. -/
theorem superWritten_registers : ∀ x : BitVec 6, x ∈ [10#6, 11#6, 12#6, 37#6, 40#6] →
    superOnly x.toNat = false ∧ userWrites x.toNat = false := by decide

theorem require_fails {ok : Bool} (h : ok = false) (s : State) : require ok s = .error (.fault .illegal 0#64 0#64) := by
  subst h; rfl

end Writes

/-! ## PARTW (05 R84-R86) -/

section Partw
variable (v : Word)

theorem fieldOf_low (v : Word) (k : Nat) : fieldOf v k 0 = v.toNat % 2 ^ (k + 1) := by simp [fieldOf, bitsOf]

theorem toNat_partwFields : (partwFields v).toNat = v.toNat / 4096 % 16 * 4096 + v.toNat / 16 % 4 * 16 + v.toNat % 8 := by
  simp only [partwFields, toNat_wordOf, at_, fieldOf, bitsOf, Nat.reducePow, Nat.reduceSub, Nat.reduceAdd, Nat.mod_mod, Nat.div_one,
    Nat.mul_one]
  exact Nat.mod_eq_of_lt (by omega)

theorem fields_partwFields : fieldOf (partwFields v) 2 0 = v.toNat % 8 ∧ fieldOf (partwFields v) 5 4 = v.toNat / 16 % 4
    ∧ fieldOf (partwFields v) 15 12 = v.toNat / 4096 % 16 := by
  simp only [fieldOf, bitsOf, toNat_partwFields]
  omega

/-- The parts of the pool in units of 1 KiB: 38 are there for register strips, accumulator and inboxes. -/
theorem partwOk_partwFields : partwOk (partwFields v) = decide (4 * (v.toNat % 8 + 1)
    + (if v.toNat / 16 % 4 = 0 then 0 else 4 * 2 ^ (v.toNat / 16 % 4 - 1)) + v.toNat / 4096 % 16 ≤ 38) := by
  obtain ⟨hrs, hacc, hinbox⟩ := fields_partwFields v
  have hlt : v.toNat / 16 % 4 < 4 := Nat.mod_lt _ (by decide)
  simp only [partwOk, padBase, rsBytes, inboxBytes, accBytes, hrs, hacc, hinbox, decide_eq_decide]
  generalize v.toNat / 16 % 4 = acc at hlt
  interval_cases acc <;> simp <;> omega

/-- The conditions of R86 on a PARTW that the acting context writes. -/
def State.PartwValid (s : State) (v : Word) : Prop :=
  partwOk (partwFields v) = true
    ∧ (∀ e ∈ s.procs, e.1 ≠ s.activity.slot → e.2.core = s.turn.core → e.2.state ≠ .resident) ∧ s.self.fits (partwFields v) = true

/-- The model's test of a new PARTW is that of R86. -/
theorem partwTest_iff (s : State) : (partwOk (partwFields v)
      && !(s.procs.any fun e => e.1 != s.activity.slot && e.2.state == .resident && e.2.core == s.turn.core)
      && s.self.fits (partwFields v)) = true ↔ s.PartwValid v := by
  simp only [State.PartwValid, Bool.and_eq_true, Bool.not_eq_true', List.any_eq_false, bne_iff_ne, beq_iff_eq, and_assoc]
  refine and_congr_right fun _ => and_congr_left fun _ => forall₂_congr fun e _ => ?_
  tauto

variable {v} {s t : State} {c : Ctx}

theorem SetTo.partwValid (h : SetTo s t c) (hact : c.act = s.actor.act) : t.PartwValid v ↔ s.PartwValid v := by
  have hprocs : t.procs = s.procs := by rcases h with ⟨rfl, -⟩ | rfl <;> rfl
  rw [State.PartwValid, h.activity hact, h.self hact, h.turn, hprocs]
  rfl

theorem writePartw_valid (h : s.PartwValid v) :
    writePartw v s = .ok ((), s.modCore s.turn.core fun k => { k with partw := partwFields v }) :=
  (M.bind_ok (gets_run id s)).trans ((M.bind_ok (require_holds ((partwTest_iff v s).2 h) s)).trans rfl)

theorem writePartw_invalid (h : ¬s.PartwValid v) : writePartw v s = .error (.fault .illegal 0#64 0#64) :=
  (M.bind_ok (gets_run id s)).trans (M.bind_error (require_fails (Bool.eq_false_iff.2 (mt (partwTest_iff v s).1 h)) s))

/-! ## A fault leaves PARTW as it is -/

theorem State.partw_modCore (s : State) (m : Nat) {f : Core → Core} (hf : ∀ k, (f k).partw = k.partw) (n : Nat) :
    ((s.modCore m f).core n).partw = (s.core n).partw := by
  by_cases h : n = m
  · subst h; simp [State.modCore, hf]
  · rw [State.modCore, State.core_setCore_other _ _ _ _ h]

theorem State.partw_setCtx (s : State) (m k : Nat) (x : Ctx) (n : Nat) : ((s.setCtx m k x).core n).partw = (s.core n).partw :=
  State.partw_modCore s m (f := fun c => { c with ctxs := put c.ctxs k x }) (fun _ => rfl) n

theorem State.core_congr {s t : State} (h : s.cores = t.cores) (n : Nat) : s.core n = t.core n := by rw [State.core, h, State.core]

theorem State.partw_park (s : State) (m k : Nat) (code : FaultCode) (half : Nat) (fa fe : BitVec 52) (x extra : Word) (n : Nat) :
    ((s.park m k code half fa fe x extra).core n).partw = (s.core n).partw := by
  have htell : ∀ (t : State) ws, (t.tellHost ws).core n = t.core n := fun _ _ => rfl
  have hcount : ∀ (t : State) p kind j, (t.count p kind j).core n = t.core n :=
    fun t p kind j => State.core_congr (t.cores_count p kind j) n
  have hpost : ∀ (t : State) part core source unit ctx faultc name ws,
      ((t.post part core source unit ctx faultc name ws).core n).partw = (t.core n).partw := fun t _ core _ _ _ _ _ _ =>
    State.partw_modCore t core (f := fun c => { c with faultSeq := (t.core core).faultSeq + 1#16 }) (fun _ => rfl) n
  simp only [State.park]
  split_ifs <;> simp only [htell, hcount, hpost, State.partw_setCtx]

theorem State.partw_raiseA (s : State) (m k : Nat) (code : FaultCode) (x extra : Word) (n : Nat) :
    ((s.raiseA m k code x extra).core n).partw = (s.core n).partw := by
  have hlost : (s.noteLost code extra).core n = s.core n := State.core_congr (s.cores_noteLost code extra) n
  have hsettle : ∀ t : State, ((t.settleFault m k).core n).partw = (t.core n).partw := by
    intro t
    unfold State.settleFault
    dsimp only
    split
    · exact State.partw_park ..
    · rfl
  simp only [State.raiseA]
  split_ifs <;> simp only [hsettle, State.partw_setCtx, hlost]

end Partw

section Clauses
variable {s : State} {a : BitVec 5} {v : Word} {c : Ctx} (h : ReadyA s) (hs : s.actor.source a = some (v, c))
include h hs

/-- MTS of PARTW by SUPER code: a valid value stands in the core, an invalid one raises ILLEGAL. -/
theorem mts_partw (hsuper : s.actor.super = true) :
    (s.PartwValid v → LeavesIn s (s.modCore s.turn.core fun k => { k with partw := partwFields v }) (.mts a 11#6) c)
      ∧ (¬s.PartwValid v → ∃ u, exec (.mts a 11#6) s = .next u ∧ Stopped u s.turn.core s.turn.ctx .illegal
        ∧ (u.core s.turn.core).partw = (s.core s.turn.core).partw) := by
  obtain ⟨hact, hpc⟩ := Ctx.source_act hs
  have hw : s.mayWriteSys (11#6).toNat = true := State.mayWriteSys_super hsuper
  have hactor : (s.modCore s.turn.core fun k => { k with partw := partwFields v }).actor = s.actor :=
    State.ctx_modCore s s.turn.core (f := fun k => { k with partw := partwFields v }) (fun _ => rfl) _ _
  refine ⟨fun hv => ?valid, fun hv => ?invalid⟩
  case valid =>
    refine mts_writes h hs hw (fun t k => ⟨_, writePartw_valid ((k.partwValid hact).2 hv), ?_⟩) (by rw [hactor]; exact hact)
      (by rw [hactor]; exact hpc)
    rw [k.turn]
    exact k.modCore fun _ _ => rfl
  case invalid =>
    have hexec := mts_rejects h hs hw fun t k => writePartw_invalid (mt (k.partwValid hact).1 hv)
    refine ⟨_, hexec, Stopped.of_ctx (State.ctx_raiseA _ _ _ h.plain h.drained h.free), State.partw_raiseA ..⟩

/-- MTS of RMODE: a code above 4 raises ILLEGAL. -/
theorem mts_rmode : (v.toNat % 8 ≤ 4 → Leaves s (.mts a 6#6) { c with rmode := v.setWidth 3 })
    ∧ (4 < v.toNat % 8 → ∃ u, exec (.mts a 6#6) s = .next u ∧ Stopped u s.turn.core s.turn.ctx .illegal
      ∧ u.actor.rmode = s.actor.rmode) := by
  have hw : s.mayWriteSys (6#6).toNat = true := State.mayWriteSys_user rfl
  refine ⟨fun hv => ?valid, fun hv => ?invalid⟩
  case valid =>
    have hok : decide (fieldOf v 2 0 ≤ 4) = true := by simpa [fieldOf_low] using hv
    exact mts_context h hs hw (f := fun c => { c with rmode := v.setWidth 3 }) (fun t => M.bind_ok (require_holds hok t)) rfl rfl
  case invalid =>
    have hbad : decide (fieldOf v 2 0 ≤ 4) = false := by simpa [fieldOf_low] using hv
    have hexec := mts_rejects h hs hw fun t _ => M.bind_error (require_fails hbad t)
    have hstop := State.ctx_raiseA .illegal 0#64 0#64 h.plain h.drained h.free
    refine ⟨_, hexec, Stopped.of_ctx hstop, ?_⟩
    rw [State.actor, State.turn_raiseA, hstop]
    rfl

/-- MTS of WEIGHT by SUPER code, of a weight in range. -/
theorem mts_weight (hsuper : s.actor.super = true) (hlow : 256 ≤ v.toNat % 65536) (hhigh : v.toNat % 65536 ≤ 65280) :
    LeavesIn s (s.modProc s.activity.slot fun p => { p with weight := v.setWidth 16 }) (.mts a 12#6) c := by
  have hok : (decide (256 ≤ fieldOf v 15 0) && decide (fieldOf v 15 0 ≤ 65280)) = true := by simp [fieldOf_low, hlow, hhigh]
  exact mts_process h hs (State.mayWriteSys_super hsuper) fun t => M.bind_ok (require_holds hok t)

end Clauses

/-- Settles O18: a register of the context, the process or the core is written where the privilege allows it and the value is valid. -/
theorem systemWrites : Obligations.SystemWrites := by
  unfold Obligations.SystemWrites
  intro s a v c h hs slot
  have huser (x : BitVec 6) (hx : userWrites x.toNat = true) := State.mayWriteSys_user (s := s) hx
  refine ⟨(mts_rmode h hs).1, ?flags, ?waittmo, ?ringw, ?nbr, ?hcnt, fun hsuper => ?super, (mts_rmode h hs).2, fun x hx => ?readOnly,
    fun hsuper x hx => ?closed⟩
  case flags => exact mts_context (f := fun c => { c with flags := v.setWidth 6 }) h hs (huser _ rfl) (fun _ => rfl) rfl rfl
  case waittmo => exact mts_context (f := fun c => { c with waittmo := v.setWidth 32 }) h hs (huser _ rfl) (fun _ => rfl) rfl rfl
  case ringw => exact mts_process h hs (huser _ rfl) fun _ => rfl
  case nbr => exact mts_process h hs (huser _ rfl) fun _ => rfl
  case hcnt => exact mts_process h hs (huser _ rfl) fun _ => rfl
  case readOnly =>
    obtain ⟨hopen, hsuper, huser⟩ := readOnly_registers x hx
    refine mts_ignored h hs (fun hx => absurd hx (by rw [hopen]; decide)) ?_
    rw [State.mayWriteSys, hsuper, huser, ite_self]
  case closed =>
    obtain ⟨hopen, huser⟩ := superWritten_registers x hx
    exact mts_ignored h hs (fun hx => absurd hx (by rw [hopen]; decide)) (by rw [State.mayWriteSys, hsuper]; exact huser)
  case super =>
    have hw (x : BitVec 6) (hx : superWrites x.toNat = true) : s.mayWriteSys x.toNat = true := (State.mayWriteSys_super hsuper).trans hx
    refine ⟨?faulta, ?faultc, ?faultx, ?tvec, ?actbud, ?epce, ?tagm, mts_weight h hs hsuper, ?partw⟩
    case faulta => exact mts_context (f := fun c => { c with faulta := v.setWidth 52 }) h hs (hw _ rfl) (fun _ => rfl) rfl rfl
    case faultc => exact mts_context (f := fun c => { c with faultc := v.setWidth 10 }) h hs (hw _ rfl) (fun _ => rfl) rfl rfl
    case faultx => exact mts_context (f := fun c => { c with faultx := v }) h hs (hw _ rfl) (fun _ => rfl) rfl rfl
    case tvec => exact mts_context (f := fun c => { c with tvec := v.setWidth 52 }) h hs (hw _ rfl) (fun _ => rfl) rfl rfl
    case actbud => exact mts_context (f := fun c => { c with actbud := v }) h hs (hw _ rfl) (fun _ => rfl) rfl rfl
    case epce => exact mts_context (f := fun c => { c with epce := v.setWidth 52 }) h hs (hw _ rfl) (fun _ => rfl) rfl rfl
    case tagm => exact mts_process h hs (hw _ rfl) fun _ => rfl
    case partw =>
      have hvalid := mts_partw h hs hsuper
      rw [State.PartwValid, partwOk_partwFields, decide_eq_true_iff] at hvalid
      exact hvalid

end Sys2Proof.Machine
end

section
/-!
SUPPORT. The state that refutes O43, O44, O45 and O46, by the fault that `not_viewRegisters` found in O47: a statement that an
instruction of the E half leaves the context as named says of the count of issued hints (02 R29) that it stays, and retirement
clears it.
-/

namespace Sys2Proof.Machine

/-! ## The state -/

/-- A view of a queue of one U32 element (05 R92): space 5, type 13, rank 1, each extent 1. -/
def oneQueuedU32 : BitVec 256 := BitVec.ofNat 256 (5 + 13 * 2 ^ 4 + 2 ^ 64 + 2 ^ 80 + 2 ^ 96 + 2 ^ 112)

/-- `hintIssued` with a strip of one U32 code in q0 and every view register a view of one such element. -/
def hintIssuedStrip : State :=
  hintIssued.modActor fun c => { c with q0 := [stripOf 13 [7]], z := Vector.replicate 32 oneQueuedU32 }

theorem readyE_hintIssuedStrip : ReadyE hintIssuedStrip where
  half := rfl
  ready := ⟨rfl, rfl, rfl, rfl, rfl, rfl⟩
  outside := rfl
  fresh := rfl
  unused := by decide
  alone := fun k hlt hk =>
    have hother : hintIssuedStrip.ctx 0 k = hintIssued.ctx 0 k := State.ctx_setCtx_other hintIssued 0 0 0 k _ (.inr hk)
    (congrArg Ctx.readyE hother).trans (readyE_hintIssued.alone k hlt hk)

theorem queueView_hintIssuedStrip : QueueView hintIssuedStrip 0#5 13 1 := by
  unfold QueueView
  decide

/-! ## What `VLeaves` says of the count -/

@[simp] theorem State.actor_count (s : State) (p kind n : Nat) : (s.count p kind n).actor = s.actor := by
  rw [State.actor, State.turn_count, State.ctx_congr (State.cores_count ..), ← State.actor]

@[simp] theorem State.actor_issuedE (s : State) : s.issuedE.actor = s.actor :=
  State.ctx_modCore s _ (f := fun x => { x with lastE := s.turn.ctx, usedE := some s.cyc }) (fun _ => rfl) _ _

/-- What `State.vends` does to the acting context leaves out the count of issued hints. -/
theorem State.hinted_vends (t : State) (c : Ctx) : (t.vends c).actor.hinted = c.hinted := by
  simp [State.vends]

/-- An instruction that clears the count of issued hints does not leave a context in which hints have issued. -/
theorem not_vLeaves_of_cleared {s t : State} {i : Instr} {c : Ctx} (hclears : ∃ u, exec i s = .next u ∧ u.actor.hinted = 0)
    (hissued : c.hinted ≠ 0) : ¬VLeaves s t i c := by
  intro hleaves
  obtain ⟨u, hnext, hcleared⟩ := hclears
  rw [VLeaves, hnext, Host.Outcome.next.injEq] at hleaves
  exact hissued (by rw [← State.hinted_vends t c, ← hleaves, hcleared])

/-! ## The runs that clear the count -/

theorem viota_hintIssuedStrip : ∃ u, exec (.viota 30#5 13#4) hintIssuedStrip = .next u ∧ u.actor.hinted = 0 := ⟨_, rfl, rfl⟩

theorem vred_hintIssuedStrip : ∃ u, exec (.vred 31#5 0#5 13#4 0#2 0#2) hintIssuedStrip = .next u ∧ u.actor.hinted = 0 :=
  ⟨_, rfl, rfl⟩

theorem vcvt_hintIssuedStrip : ∃ u, exec (.vcvt 31#5 30#5 13#4) hintIssuedStrip = .next u ∧ u.actor.hinted = 0 := ⟨_, rfl, rfl⟩

theorem pand_hintIssuedStrip : ∃ u, exec (.pand 0#3 0#3 0#3) hintIssuedStrip = .next u ∧ u.actor.hinted = 0 := ⟨_, rfl, rfl⟩

/-! ## The statements -/

/-- Refutes O43: by its clause on VIOTA the count of issued hints stays as it is; VIOTA of a strip of U32 positions clears the 1
that `hintIssuedStrip` holds. The premise that the statement lacks, here and in O44 to O46, is that the count is 0 while the E
queue is empty. -/
theorem not_elementwiseAndImmediates : ¬Obligations.ElementwiseAndImmediates := by
  unfold Obligations.ElementwiseAndImmediates
  rintro ⟨helementwise, -⟩
  obtain ⟨-, -, -, -, -, -, hviota⟩ := helementwise hintIssuedStrip 13#4 0#5 0#5 0#5 readyE_hintIssuedStrip (by decide)
  exact not_vLeaves_of_cleared viota_hintIssuedStrip (by decide) (hviota (by decide))

/-- Refutes O44: by its clause on VRED the count of issued hints stays as it is; the sum of the one U32 element that heads q0 in
`hintIssuedStrip` clears it. -/
theorem not_reductionsAndPermutes : ¬Obligations.ReductionsAndPermutes := by
  unfold Obligations.ReductionsAndPermutes
  intro h
  obtain ⟨hreduce, -⟩ := h hintIssuedStrip 0#5 0#5 0#5 13#4 0#2 0#1 0#1 1 1 (stripOf 13 [7]) {} [] readyE_hintIssuedStrip
    (by decide) (by decide)
  obtain ⟨hvred, -⟩ := hreduce queueView_hintIssuedStrip ⟨rfl, rfl⟩ (by decide)
  exact not_vLeaves_of_cleared vred_hintIssuedStrip (by decide) (hvred rfl)

/-- Refutes O45: by its clause on VCVT the count of issued hints stays as it is; VCVT of the U32 entry that heads q0 in
`hintIssuedStrip` to U32 clears it. -/
theorem not_conversionsAndBlocks : ¬Obligations.ConversionsAndBlocks := by
  unfold Obligations.ConversionsAndBlocks
  intro h
  obtain ⟨hconvert, -⟩ := h hintIssuedStrip 0#5 0#5 0#5 13#4 (stripOf 13 [7]) {} [] readyE_hintIssuedStrip
  obtain ⟨hvcvt, -⟩ := hconvert 13 (by decide) (by decide) (by decide) ⟨rfl, rfl⟩ rfl (fun _ hsix => absurd hsix (by decide))
  exact not_vLeaves_of_cleared vcvt_hintIssuedStrip (by decide) (hvcvt (by decide))

/-- Refutes O46: by its clause on PAND the count of issued hints stays as it is; PAND of p0 and p0 into p0, which discards,
clears it. -/
theorem not_predicatesAndSelection : ¬Obligations.PredicatesAndSelection := by
  unfold Obligations.PredicatesAndSelection
  intro h
  obtain ⟨-, hpand, -⟩ := h hintIssuedStrip 13#4 0#3 0#3 0#3 0#3 {} {} [] readyE_hintIssuedStrip
  exact not_vLeaves_of_cleared pand_hintIssuedStrip (by decide) hpand

end Sys2Proof.Machine
end

section
/-!
SUPPORT. The MAT group (10 R216-R237): the checks that hold, the job a context makes, its place in the outbox; the records of jobs
and MCAN; the statement O40 put together from them.
-/

namespace Sys2Proof.Machine

/-! ## Checks (R216-R219, R234) -/

section Checks
variable {s : State} {a : BitVec 5} {x : Box}

/-- Without AREUSE the A box is read from its registers. -/
theorem boxA_fresh (h : BoxIs s a x) : boxA a {} s = .ok (some x, s) := M.bind_ok h

/-- Without AREUSE any K will do (R219). -/
theorem keptRule_fresh (k : Nat) (s : State) : keptRule false k s = .ok ((), s) := require_holds rfl s

end Checks

/-! ## The issue (R226, R227) -/

section Issue
variable {s : State} {t : BitVec 6} {boxes : List Box} {i : Instr} {body : Hints → M Disp}

/-- The job that a context makes. -/
def State.freshJob (s : State) (op : JobOp) (tag : Nat) : MJob :=
  { op := op, tag := tag, seq := (s.core s.turn.core).jobSeq.toNat, num := s.fresh, agent := engineAgent s.fresh s.agent
    rnd := s.actor.rmode.toNat, core := s.turn.core, ctx := s.turn.ctx, name := s.activity.name, act := s.activity.id
    handler := s.activity.handler }

theorem newJob_run (op : JobOp) (tag : Nat) (s : State) : newJob op tag s = .ok (s.freshJob op tag, s) := rfl

/-- What the core notes of a job that it issues: the tag counts it, its sequence is used, its record is pending. -/
def Core.noteJob (k : Core) (tag seq num : Nat) : Core :=
  let k := k.tagIssue tag
  { k with jobSeq := k.jobSeq + 1#10, jobs := put k.jobs seq none, jobNum := put k.jobNum seq num }

/-- The state of a job's issue beside the acting context. -/
def State.jobNoted (s : State) (tag : Nat) : State :=
  (s.withFresh (s.fresh + 1)).modCore s.turn.core fun k => k.noteJob tag (s.core s.turn.core).jobSeq.toNat s.fresh

theorem Core.noteJob_withCtxs (tag seq num : Nat) (k : Core) (x : Map Ctx) :
    (k.withCtxs x).noteJob tag seq num = (k.noteJob tag seq num).withCtxs x := by
  unfold Core.noteJob
  rw [Core.tagIssue_withCtxs]
  rfl

theorem State.setTo_jobNoted (s : State) (tag : Nat) : SetTo (s.jobNoted tag) (s.jobNoted tag) s.actor :=
  ((SetTo.refl s).withFresh (s.fresh + 1)).modCore (Core.noteJob_withCtxs _ _ _)

/-- A job's word in JOBID (R227): its sequence has 10 bits and its tag 6. -/
theorem jobWord_eq (q : BitVec 10) (t : BitVec 6) : jobWord q.toNat t.toNat = q.toNat * 64 + t.toNat := by
  simp only [jobWord, at_, Nat.mod_eq_of_lt q.isLt, Nat.mod_eq_of_lt t.isLt]
  omega

/-- A job takes its number, sequence, issuer and modes from its context; it has no gate and has not begun. -/
structure MJob.IssuedBy (j : MJob) (s : State) (t : BitVec 6) : Prop where
  tag : j.tag = t.toNat
  seq : j.seq = (s.core s.turn.core).jobSeq.toNat
  num : j.num = s.fresh
  core : j.core = s.turn.core
  ctx : j.ctx = s.turn.ctx
  name : j.name = s.activity.name
  rnd : j.rnd = s.actor.rmode.toNat
  gate : j.gate = none
  granted : j.granted = 0

theorem noteJob_run {j : MJob} (hj : j.IssuedBy s t) : noteJob j s = .ok ((), (s.jobNoted t.toNat).modActor fun c =>
    { c with jobid := BitVec.ofNat 16 ((s.core s.turn.core).jobSeq.toNat * 64 + t.toNat) }) := by
  unfold noteJob
  rw [hj.tag, hj.seq, hj.num, jobWord_eq]
  rfl

/-- A job that passes its checks is sent to the outbox. -/
theorem issueJob_sends {j : MJob} (hm : MayIssue s t boxes) (hj : j.IssuedBy s t) :
    issueJob j boxes {} s = sendEntry (.job j) s.actor.q3 (noteJob j) s := by
  obtain ⟨-, hcount, -, hboxes⟩ := hm
  have hgate : { j with gate := none } = j := by rw [← hj.gate]
  refine (M.bind_ok (me_run s)).trans ((M.bind_ok (forM_boxInRange hboxes)).trans ((M.bind_ok (pure_run none s)).trans ?_))
  refine (M.bind_ok (gets_run _ s)).trans ?_
  rw [if_neg (by rw [hj.tag]; omega), hgate]

/-- An outbox that has not sealed takes an entry at its end. -/
theorem putOut_open {e : OutEntry} (h : s.actor.sealed = false) :
    putOut e s = .ok ((), s.modActor fun c => { c with outbox := c.outbox ++ [e] }) := by
  unfold putOut
  rw [M.bind_ok (me_run s), h]
  rfl

/-- A job that passes its checks stands in the outbox, and its core has noted it. -/
theorem issueJob_run {j : MJob} (hm : MayIssue s t boxes) (hj : j.IssuedBy s t) :
    ∃ w, issueJob j boxes {} s = .ok (.retire, w)
      ∧ SetTo (s.jobNoted t.toNat) w { s.actor with
          jobid := BitVec.ofNat 16 ((s.core s.turn.core).jobSeq.toNat * 64 + t.toNat), outbox := s.actor.outbox ++ [.job j] } := by
  have knoted := (s.setTo_jobNoted t.toNat).modActor fun c =>
    { c with jobid := BitVec.ofNat 16 ((s.core s.turn.core).jobSeq.toNat * 64 + t.toNat) }
  refine ⟨_, ?_, knoted.modActor fun c => { c with outbox := c.outbox ++ [.job j] }⟩
  rw [issueJob_sends hm hj]
  refine (M.bind_ok (readyOut_room hm.2.2.1)).trans ((M.bind_ok (noteJob_run hj)).trans ?_)
  exact (M.bind_ok (putOut_open (by rw [knoted.actor]; exact hm.2.2.1.1))).trans (pure_run _ _)

/-- An instruction that comes to the issue of a job made from `freshJob`. -/
theorem issuesJob_of_body {j : MJob} {P : MJob → Prop} (h : ReadyA s) (hm : MayIssue s t boxes) (hi : exec i s = aHalf i body s)
    (hb : body {} s = issueJob j boxes {} s) (hP : P j) (hj : j.IssuedBy s t) : IssuesJob s i t P := by
  obtain ⟨w, hrun, kw⟩ := issueJob_run hm hj
  have hactor := (s.setTo_jobNoted t.toNat).actor
  have hleaves : LeavesIn s (s.jobNoted t.toNat) i { s.actor with
      jobid := BitVec.ofNat 16 ((s.core s.turn.core).jobSeq.toNat * 64 + t.toNat), outbox := s.actor.outbox ++ [.job j] } := by
    rw [LeavesIn, hi]
    exact aHalf_retires h (hb.trans hrun) kw (by rw [hactor]) (by rw [hactor])
  exact ⟨j, hP, hj.tag, hj.seq, hj.core, hj.ctx, hj.name, hj.rnd, hj.gate, hj.granted, hleaves⟩

end Issue

/-! ## The instructions -/

section Jobs
variable {s : State} {v a b : BitVec 5} {t : BitVec 6} {x y d : Box} {tile : Nat}

theorem mzero_issues (h : ReadyA s) (htile : tileOf v s = .ok (tile, s)) (hm : MayIssue s t []) :
    IssuesJob s (.mzero v t) t (fun j => j.op = .mzero ∧ j.tile = tile) := by
  refine issuesJob_of_body (j := { s.freshJob .mzero t.toNat with tile := tile }) h hm (rfl : execMzero v t s = aHalf _ _ s) ?_
    ⟨rfl, rfl⟩ ⟨rfl, rfl, rfl, rfl, rfl, rfl, rfl, rfl, rfl⟩
  exact (M.bind_ok htile).trans ((M.bind_ok (copyTag_allowed hm.1)).trans (M.bind_ok (newJob_run _ _ s)))

theorem mrd_issues (h : ReadyA s) (htile : tileOf v s = .ok (tile, s)) (ha : BoxIs s a x) (hm : MayIssue s t [x])
    (hcount : x.count = 1024) (hspace : laySpace x.entry ≤ 3) (hplain : plainBox x s = .ok ((), s)) :
    IssuesJob s (.mrd a v t) t (fun j => j.op = .mrd ∧ j.tile = tile ∧ j.dst = x) := by
  refine issuesJob_of_body (j := { s.freshJob .mrd t.toNat with tile := tile, dst := x }) h hm
    (rfl : execMrd a v t s = aHalf _ _ s) ?_ ⟨rfl, rfl, rfl⟩ ⟨rfl, rfl, rfl, rfl, rfl, rfl, rfl, rfl, rfl⟩
  refine (M.bind_ok htile).trans ((M.bind_ok ha).trans ((M.bind_ok (copyTag_allowed hm.1)).trans ?_))
  refine (M.bind_ok (require_holds (by simp [hcount]) s)).trans ((M.bind_ok (guardFault_holds (by simp [hspace]) _ _ s)).trans ?_)
  exact (M.bind_ok hplain).trans (M.bind_ok (newJob_run _ _ s))

theorem mma_issues (h : ReadyA s) (ha : BoxIs s a x) (hb : BoxIs s b y) (htile : tileOf v s = .ok (tile, s)) (hm : MayIssue s t [x, y])
    (hrules : operandRules [x, y] false s = .ok ((), s)) : IssuesJob s (.mma v a b t) t
      (fun j => j.op = .mma ∧ j.tile = tile ∧ j.a = some x ∧ j.b = some y ∧ j.k = y.k ∧ j.areuse = false) := by
  refine issuesJob_of_body (j := { s.freshJob .mma t.toNat with tile := tile, a := some x, b := some y, areuse := false, k := y.k }) h hm
    (rfl : execMma v a b t s = aHalf _ _ s) ?_ ⟨rfl, rfl, rfl, rfl, rfl, rfl⟩ ⟨rfl, rfl, rfl, rfl, rfl, rfl, rfl, rfl, rfl⟩
  refine (M.bind_ok htile).trans ((M.bind_ok (boxA_fresh ha)).trans ((M.bind_ok hb).trans ((M.bind_ok (copyTag_allowed hm.1)).trans ?_)))
  refine (M.bind_ok (guardFault_holds rfl _ _ s)).trans ((M.bind_ok hrules).trans ((M.bind_ok (keptRule_fresh _ s)).trans ?_))
  exact M.bind_ok (newJob_run _ _ s)

theorem mmas_issues (h : ReadyA s) (ha : BoxIs s a x) (hb : BoxIs s b y) (hd : BoxIs s v d) (hred : redBox d = true)
    (hm : MayIssue s t [d, x, y]) (hrules : operandRules [x, y] false s = .ok ((), s)) : IssuesJob s (.mmas v a b t) t
      (fun j => j.op = .mmas ∧ j.dst = d ∧ j.a = some x ∧ j.b = some y ∧ j.k = y.k) := by
  refine issuesJob_of_body (j := { s.freshJob .mmas t.toNat with dst := d, a := some x, b := some y, areuse := false, k := y.k }) h hm
    (rfl : execMmas v a b t s = aHalf _ _ s) ?_ ⟨rfl, rfl, rfl, rfl, rfl⟩ ⟨rfl, rfl, rfl, rfl, rfl, rfl, rfl, rfl, rfl⟩
  refine (M.bind_ok hd).trans ((M.bind_ok (require_holds hred s)).trans ((M.bind_ok (boxA_fresh ha)).trans ((M.bind_ok hb).trans ?_)))
  refine (M.bind_ok (copyTag_allowed hm.1)).trans ((M.bind_ok (guardFault_holds rfl _ _ s)).trans ((M.bind_ok hrules).trans ?_))
  exact (M.bind_ok (keptRule_fresh _ s)).trans (M.bind_ok (newJob_run _ _ s))

theorem mrot_issues (h : ReadyA s) (ha : BoxIs s a x) (hb : BoxIs s b y) (htile : tileOf v s = .ok (tile, s)) (ha0 : a ≠ 0#5)
    (hb0 : b ≠ 0#5) (hm : MayIssue s t [x, y]) (hrules : operandRules [x, y] true s = .ok ((), s))
    (hw : ringTarget s.self.ringw s = .ok (s.self.ringw.toNat, s)) (hn : ringTarget s.self.ringn s = .ok (s.self.ringn.toNat, s)) :
    IssuesJob s (.mrot v a b t) t (fun j => j.op = .mrot ∧ j.tile = tile ∧ j.a = some x ∧ j.b = some y
      ∧ j.ringw = s.self.ringw.toNat ∧ j.ringn = s.self.ringn.toNat) := by
  refine issuesJob_of_body (j := { s.freshJob .mrot t.toNat with
      tile := tile, a := some x, b := some y, areuse := false, ringw := s.self.ringw.toNat, ringn := s.self.ringn.toNat, k := y.k }) h hm
    (rfl : execMrot v a b t s = aHalf _ _ s) ?_ ⟨rfl, rfl, rfl, rfl, rfl, rfl⟩ ⟨rfl, rfl, rfl, rfl, rfl, rfl, rfl, rfl, rfl⟩
  refine (M.bind_ok htile).trans ((congrFun (if_neg ha0) s).trans ((M.bind_ok ha).trans ((M.bind_ok (pure_run _ s)).trans ?_)))
  refine (congrFun (if_neg hb0) s).trans ((M.bind_ok hb).trans ((M.bind_ok (pure_run _ s)).trans ?_))
  refine (M.bind_ok (copyTag_allowed hm.1)).trans ((M.bind_ok (guardFault_holds (by simp [rotPairing, ha0, hb0]) _ _ s)).trans ?_)
  refine (M.bind_ok hrules).trans ((M.bind_ok (keptRule_fresh _ s)).trans ((M.bind_ok (myProc_run s)).trans ?_))
  exact (M.bind_ok hw).trans ((M.bind_ok hn).trans (M.bind_ok (newJob_run _ _ s)))

end Jobs

/-! ## Records (R227, R236) -/

section Records
variable {s t : State} {a b : BitVec 5} {w : Word} {c c' : Ctx} {st : Nat}

theorem sealIf_none {need : List OutEntry → Bool} (h : need s.actor.outbox = false) : sealIf need s = .ok (none, s) := by
  unfold sealIf
  rw [M.bind_ok (me_run s), h]
  rfl

/-- The sequence that a job identifier names. -/
abbrev jobSeqOf (w : Word) : Nat := w.toNat / 64 % 1024

/-- MWAIT and MPOLL have read their identifier, which names no job of the outbox: `t` is the state, `c` the context. -/
structure RecordRead (s t : State) (a : BitVec 5) (w : Word) (c : Ctx) : Prop where
  set : SetTo s t c
  read : readA a s = .ok (w, t)
  placed : sealIf (jobInOutbox (jobSeqOf w)) t = .ok (none, t)
  status : (t.core t.turn.core).jobStatus (jobSeqOf w) = (s.core s.turn.core).jobStatus (jobSeqOf w)
  know : (t.core t.turn.core).tagKnow = (s.core s.turn.core).tagKnow

theorem recordRead_of (hs : s.actor.source a = some (w, c)) (hout : jobInOutbox (jobSeqOf w) s.actor.outbox = false) :
    ∃ t, RecordRead s t a w c := by
  obtain ⟨t, hread, k⟩ := readA_source (SetTo.refl s) hs
  obtain ⟨q, rfl⟩ := Ctx.source_keeps hs
  obtain ⟨x, hx⟩ := k.core
  exact ⟨t, k, hread, sealIf_none (by rw [k.actor]; exact hout), by rw [hx]; rfl, by rw [hx]; rfl⟩

/-- A look at a completed record is an acquire, as a look at TAGS is. -/
theorem RecordRead.seeTags (r : RecordRead s t a w c) : ∃ u, Machine.seeTags t = .ok ((), u)
    ∧ SetTo (s.learn s.agent (s.core s.turn.core).tagKnow) u c := by
  refine ⟨t.learn t.agent (t.core t.turn.core).tagKnow, rfl, ?_⟩
  rw [r.know, r.set.agent]
  exact r.set.learn _ _

/-- MWAIT's body, its identifier read. -/
theorem mwait_read (r : RecordRead s t a w c) : ∃ body, exec (.mwait a) s = aHalf (.mwait a) body s ∧ body {} s =
    (match (s.core s.turn.core).jobStatus (jobSeqOf w) with
      | none => holdBack s.actor.q3 (.hold .scoreboard)
      | some st => seeTags >>= fun _ => setStatus (wordOf st) >>= fun _ => pure .retire : M Disp) t := by
  refine ⟨_, (rfl : execMwait a s = aHalf _ _ s), ?_⟩
  refine (M.bind_ok (me_run s)).trans ((M.bind_ok r.read).trans ((M.bind_ok r.placed).trans ((M.bind_ok (gets_run _ t)).trans ?_)))
  rw [← r.status]
  rfl

/-- MPOLL's body, its identifier read. -/
theorem mpoll_read (r : RecordRead s t a w c) : ∃ body, exec (.mpoll b a) s = aHalf (.mpoll b a) body s ∧ body {} s =
    (match (s.core s.turn.core).jobStatus (jobSeqOf w) with
      | none => writeA b 0#64 >>= fun _ => setStatus 0#64 >>= fun _ => pure .retire
      | some st => seeTags >>= fun _ => writeA b 1#64 >>= fun _ => setStatus (wordOf st) >>= fun _ => pure .retire : M Disp) t := by
  refine ⟨_, (rfl : execMpoll b a s = aHalf _ _ s), ?_⟩
  refine (M.bind_ok (me_run s)).trans ((M.bind_ok r.read).trans ((M.bind_ok r.placed).trans ((M.bind_ok (gets_run _ t)).trans ?_)))
  rw [← r.status]
  rfl

theorem mwait_waits (h : ReadyA s) (hs : s.actor.source a = some (w, c)) (hout : jobInOutbox (jobSeqOf w) s.actor.outbox = false)
    (hst : (s.core s.turn.core).jobStatus (jobSeqOf w) = none) : Waits s (.mwait a) .scoreboard := by
  obtain ⟨t, r⟩ := recordRead_of hs hout
  obtain ⟨body, hi, hb⟩ := mwait_read r
  rw [hst] at hb
  exact waits_of_hold h r.set (Ctx.source_keeps hs) hi hb

theorem mwait_leaves (h : ReadyA s) (hs : s.actor.source a = some (w, c)) (hout : jobInOutbox (jobSeqOf w) s.actor.outbox = false)
    (hst : (s.core s.turn.core).jobStatus (jobSeqOf w) = some st) :
    LeavesIn s (s.learn s.agent (s.core s.turn.core).tagKnow) (.mwait a) { c with statusReg := BitVec.ofNat 64 st } := by
  obtain ⟨t, r⟩ := recordRead_of hs hout
  obtain ⟨body, hi, hb⟩ := mwait_read r
  obtain ⟨u, hsee, ku⟩ := r.seeTags
  obtain ⟨hact, hpc⟩ := Ctx.source_act hs
  rw [hst] at hb
  rw [LeavesIn, hi]
  exact aHalf_retires h (hb.trans (M.bind_ok hsee)) (ku.modActor fun c => { c with statusReg := BitVec.ofNat 64 st }) hact hpc

theorem mpoll_pending (h : ReadyA s) (hs : s.actor.source a = some (w, c)) (hout : jobInOutbox (jobSeqOf w) s.actor.outbox = false)
    (hst : (s.core s.turn.core).jobStatus (jobSeqOf w) = none) (hd : c.dest b 0#64 = some c') :
    Leaves s (.mpoll b a) { c' with statusReg := 0#64 } := by
  obtain ⟨t, r⟩ := recordRead_of hs hout
  obtain ⟨body, hi, hb⟩ := mpoll_read (b := b) r
  obtain ⟨u, hwrite, ku⟩ := writeA_dest r.set hd
  obtain ⟨hact, hpc⟩ := Ctx.source_act hs
  obtain ⟨hact', hpc'⟩ := Ctx.dest_act hd
  rw [hst] at hb
  rw [Leaves, hi]
  exact aHalf_retires h (hb.trans (M.bind_ok hwrite)) (ku.modActor fun c => { c with statusReg := 0#64 }) (hact'.trans hact)
    (hpc'.trans hpc)

theorem mpoll_leaves (h : ReadyA s) (hs : s.actor.source a = some (w, c)) (hout : jobInOutbox (jobSeqOf w) s.actor.outbox = false)
    (hst : (s.core s.turn.core).jobStatus (jobSeqOf w) = some st) (hd : c.dest b 1#64 = some c') :
    LeavesIn s (s.learn s.agent (s.core s.turn.core).tagKnow) (.mpoll b a) { c' with statusReg := BitVec.ofNat 64 st } := by
  obtain ⟨t, r⟩ := recordRead_of hs hout
  obtain ⟨body, hi, hb⟩ := mpoll_read (b := b) r
  obtain ⟨u, hsee, ku⟩ := r.seeTags
  obtain ⟨v, hwrite, kv⟩ := writeA_dest ku hd
  obtain ⟨hact, hpc⟩ := Ctx.source_act hs
  obtain ⟨hact', hpc'⟩ := Ctx.dest_act hd
  rw [hst] at hb
  rw [LeavesIn, hi]
  exact aHalf_retires h (hb.trans ((M.bind_ok hsee).trans (M.bind_ok hwrite)))
    (kv.modActor fun c => { c with statusReg := BitVec.ofNat 64 st }) (hact'.trans hact) (hpc'.trans hpc)

end Records

/-- The state in which the jobs with a tag that have not begun have ended as cancelled (R237). -/
def State.cancelJobs (s : State) (tag : Nat) : State :=
  ((s.takeJobs s.turn.core tag).1.foldl (fun s j => s.endJob j 3 none) (s.takeJobs s.turn.core tag).2).closeRoutes (s.turn.core / 8)
    (s.turn.core % 8)

theorem mcan_leaves {s : State} {t : BitVec 6} (h : ReadyA s) (htag : s.self.tagm.getLsbD t.toNat = true) :
    LeavesIn s (s.cancelJobs t.toNat) (.mcan t)
      { (s.cancelJobs t.toNat).actor with statusReg := BitVec.ofNat 64 (s.takeJobs s.turn.core t.toNat).1.length } := by
  show execMcan t s = _
  refine aHalf_retires h ?_ ((SetTo.refl (s.cancelJobs t.toNat)).modActor fun c =>
    { c with statusReg := BitVec.ofNat 64 (s.takeJobs s.turn.core t.toNat).1.length }) (by dsimp only) (by dsimp only)
  refine (M.bind_ok (copyTag_allowed htag)).trans ((M.bind_ok (gets_run id s)).trans ?_)
  refine (M.bind_ok (mods_run (fun _ => s.cancelJobs t.toNat) s)).trans ?_
  exact (M.bind_ok (modMe_run _ _)).trans (pure_run _ _)

/-- Settles O40: each instruction that places a job passes its checks and comes to `issueJob`, whose effect `issuesJob_of_body` says;
MWAIT and MPOLL read the record of their job (`recordRead_of`). -/
theorem matrixJobsAreIssued : Obligations.MatrixJobsAreIssued := by
  unfold Obligations.MatrixJobsAreIssued
  refine fun s v a b t x y d tile h => ⟨mzero_issues h, fun htile ha hm => mrd_issues h htile ha hm,
    fun ha hb => ⟨mma_issues h ha hb, mmas_issues h ha hb, mrot_issues h ha hb⟩,
    fun w c hs hout => ⟨fun hst => ⟨mwait_waits h hs hout hst, fun c' hd => mpoll_pending h hs hout hst hd⟩,
      fun st hst => ⟨mwait_leaves h hs hout hst, fun c' hd => mpoll_leaves h hs hout hst hd⟩⟩, mcan_leaves h⟩

end Sys2Proof.Machine
end

section
/-!
SUPPORT. The matrix engine at work (10 R215-R235): the grant and the end of a step, completion, poison, rotation slots, the
write-back port.
-/

namespace Sys2Proof.Machine

theorem State.passFences_nil (s : State) : s.passFences [] = s := rfl

/-! ## The grant (R215) -/

section Grant
variable {s t v : State} {cl q : Nat} {j : MJob} {x y : Operand} {pins : List (Nat × Nat)} {acc : List Nat} {defs : Map Nat}

/-- The weight with which a queue asks for the engine's next step. -/
def State.matWeight (s : State) (cl q : Nat) : Option Nat :=
  if s.stepReady cl q then (s.matHead cl q).map fun j => s.weightOf j.name else none

/-- Without fences in its queues, an engine with no step in progress grants one to the head of the queue that the arbiter chooses. -/
theorem execMatrixStepGrant_eq (hd : clusterOk s.turn.unit = true) (hidle : (s.cluster s.turn.unit).mstep = none)
    (hfence : ∀ e ∈ (s.cluster s.turn.unit).mat, matFences e.2 = []) : execMatrixStepGrant s
      = match grantQueue 8 (s.matWeight s.turn.unit) (s.cluster s.turn.unit).matLast (s.cluster s.turn.unit).matDef with
        | (none, defs) => .next (s.modCluster s.turn.unit fun k => { k with matDef := defs })
        | (some q, defs) => match s.matHead s.turn.unit q with
          | none => .next s
          | some j => .next ((s.modCluster s.turn.unit fun k => { k with matLast := q, matDef := defs }).grantStep s.turn.unit q j) := by
  have hnone : ((s.cluster s.turn.unit).mat.map fun q => matFences q.2).flatten = [] := by
    simp only [List.flatten_eq_nil_iff, List.mem_map]
    rintro _ ⟨e, he, rfl⟩
    exact hfence e he
  unfold execMatrixStepGrant
  dsimp only
  rw [hnone, hd, hidle]
  rfl

/-- The event stream tells of a job's start (23 R409). -/
def State.noteStart (s : State) (j : MJob) : State :=
  if j.granted = 0 then s.eventRecord (s.partOf j.name) 2 0 j.name j.core (wordOf (jobWord j.seq j.tag)) 0#64 else s

/-- What a grant does for a step: its operands are taken and its accumulator is found, the step is in progress, its job is further. -/
def grantBody (cl q : Nat) (j : MJob) : M Unit := do
  let x ← takeOperands cl q j
  let acc ← if j.granted = 0 then openAcc j else gets fun s => find (s.cluster cl).macc q []
  mods fun s => s.modCluster cl fun k =>
    { k with macc := put k.macc q acc, mstep := some { queue := q, a := x.1, b := x.2.1, pins := x.2.2 } }
  mods fun s => s.setHead cl q (some { j with granted := j.granted + 1, replayed := false })

theorem grantStep_eq (s : State) (cl q : Nat) (j : MJob) : s.grantStep cl q j = match grantBody cl q j (s.noteStart j) with
    | .ok (_, t) => t.count ((s.noteStart j).partOf j.name) 8 1
    | .error (.fault code x w) =>
      (((s.noteStart j).lostBy ((s.noteStart j).partOf j.name) cl (code, x, w)).freeSlots cl q j).closeJob cl q j 1 (some (code, x))
    | .error (.wait _ _) => s.noteStart j := rfl

/-- A step starts with the tile at its job's first step, then with what its queue holds (R224). -/
theorem grantBody_ok (htake : takeOperands cl q j s = .ok ((x, y, pins), t))
    (hacc : if j.granted = 0 then openAcc j t = .ok (acc, v) else acc = find (t.cluster cl).macc q [] ∧ v = t) :
    grantBody cl q j s = .ok ((), (v.modCluster cl fun k =>
        { k with macc := put k.macc q acc, mstep := some { queue := q, a := x, b := y, pins := pins } }).setHead cl q
      (some { j with granted := j.granted + 1, replayed := false })) := by
  rw [grantBody, M.bind_ok htake]
  dsimp only
  split_ifs at hacc ⊢
  · rw [M.bind_ok hacc]
    rfl
  · obtain ⟨rfl, rfl⟩ := hacc
    rfl

theorem grantStep_grants (htake : takeOperands cl q j (s.noteStart j) = .ok ((x, y, pins), t))
    (hacc : if j.granted = 0 then openAcc j t = .ok (acc, v) else acc = find (t.cluster cl).macc q [] ∧ v = t) :
    s.grantStep cl q j = ((v.modCluster cl fun k =>
        { k with macc := put k.macc q acc, mstep := some { queue := q, a := x, b := y, pins := pins } }).setHead cl q
      (some { j with granted := j.granted + 1, replayed := false })).count ((s.noteStart j).partOf j.name) 8 1 := by
  rw [grantStep_eq, grantBody_ok htake hacc]

theorem matrixStepGrant_idle (hd : clusterOk s.turn.unit = true) (hidle : (s.cluster s.turn.unit).mstep = none)
    (hfence : ∀ e ∈ (s.cluster s.turn.unit).mat, matFences e.2 = [])
    (hgrant : grantQueue 8 (s.matWeight s.turn.unit) (s.cluster s.turn.unit).matLast (s.cluster s.turn.unit).matDef = (none, defs)) :
    Goes s .matrixStepGrant (s.modCluster s.turn.unit fun k => { k with matDef := defs }) := by
  show execMatrixStepGrant s = _
  rw [execMatrixStepGrant_eq hd hidle hfence, hgrant]

theorem matrixStepGrant_grants (hd : clusterOk s.turn.unit = true) (hidle : (s.cluster s.turn.unit).mstep = none)
    (hfence : ∀ e ∈ (s.cluster s.turn.unit).mat, matFences e.2 = [])
    (hgrant : grantQueue 8 (s.matWeight s.turn.unit) (s.cluster s.turn.unit).matLast (s.cluster s.turn.unit).matDef = (some q, defs))
    (hhead : s.matHead s.turn.unit q = some j) : Goes s .matrixStepGrant
      ((s.modCluster s.turn.unit fun k => { k with matLast := q, matDef := defs }).grantStep s.turn.unit q j) := by
  show execMatrixStepGrant s = _
  rw [execMatrixStepGrant_eq hd hidle hfence, hgrant]
  dsimp only
  rw [hhead]

end Grant

/-! ## The end of a step (R218, R229-R231) -/

section Retire
variable {s u : State} {m : MStep} {j : MJob} {cl q : Nat} {isA : Bool} {o : Operand}

/-- The job after a step that raised flags; a rotation has operands to send. -/
def MJob.stepped (j : MJob) (m : MStep) (f : BitVec 6) : MJob :=
  let j := { j with done := j.done + 1, flags := j.flags ||| f }
  if j.op = .mrot then { j with sendA := if j.areuse then none else some m.a, sendB := some m.b } else j

/-- What a job's queue holds and has raised after a step. -/
def State.stepResult (s : State) (cl : Nat) (m : MStep) : List Nat × BitVec 6 :=
  stepAll m.a m.b ((matClass m.a.ty).getD 0) (find (s.cluster cl).macc m.queue [])

/-- The state after a step, but for its job. -/
def State.stepEnds (s : State) (cl : Nat) (m : MStep) : State := (s.dropPins m.pins).modCluster cl fun k =>
  { k with macc := put k.macc m.queue (s.stepResult cl m).1, keptA := put k.keptA m.queue m.a, mstep := none }

/-- A job sends the operands that it has to send. -/
def State.sendHeld (s : State) (cl q : Nat) (j : MJob) : State :=
  let s := match j.sendA with
    | some o => s.sendOperand cl q j true o
    | none => s
  match j.sendB with
  | some o => s.sendOperand cl q j false o
  | none => s

/-- A step is replayed, and what follows where its lines can be read again; where not, its job fails (R226, R231). -/
def State.replayThen (s : State) (cl : Nat) (m : MStep) (j : MJob) (after : State → Out) : Out :=
  match replayStep cl m j s with
  | .ok (_, t) => after t
  | .error (.fault code x w) =>
    let u := ((s.count (s.partOf j.name) 15 1).dropPins m.pins).modCluster cl fun k => { k with mstep := none }
    .next ((u.lostBy (u.partOf j.name) cl (code, x, w)).closeJob cl m.queue j 1 (some (code, x)))
  | .error (.wait _ _) => .next s

theorem replayThen_ok (h : replayStep cl m j s = .ok ((), u)) (after : State → Out) : s.replayThen cl m j after = after u := by
  rw [State.replayThen, h]

/-- The job fails with CHECKER (R231). -/
def State.mismatch (s : State) (cl q : Nat) (j : MJob) : State :=
  s.closeJob cl q j 1 (some (.checker, engineX .checker 0#64 4 0))

/-- The end of the step in progress, by the outcome of its residue check. -/
theorem execMatrixStepRetire_eq (hd : clusterOk s.turn.unit = true) (hm : (s.cluster s.turn.unit).mstep = some m)
    (hj : s.matHead s.turn.unit m.queue = some j) : execMatrixStepRetire s =
      let d := s.turn.unit
      let k := j.stepped m (s.stepResult d m).2
      match s.turn.upset with
      | .checkerTwice =>
        if j.replayed then .next (s.mismatch d m.queue j)
        else s.replayThen d m j fun t => .next (t.mismatch d m.queue { j with replayed := true })
      | .badData => .next (s.closeJob d m.queue j 1 (some (.dataPoison, engineX .dataPoison 0#64 4 0)))
      | .checkerOnce => if j.replayed then .next (s.mismatch d m.queue j) else s.replayThen d m j .next
      | _ => .next (((s.stepEnds d m).setHead d m.queue (some k)).sendHeld d m.queue k) := by
  unfold execMatrixStepRetire
  dsimp only
  rw [hd, hm]
  dsimp only
  rw [hj]
  rfl

/-! ### What a send leaves alone -/

/-- What routers and routes have no part in stays as it is while an operand leaves. -/
theorem cluster_sendOperand_keeps {β : Type} (g : Cluster → β) (hrouter : ∀ (c : Cluster) r, g { c with router := r } = g c)
    (hrouteA : ∀ (c : Cluster) r, g { c with routeA := r } = g c) (hrouteB : ∀ (c : Cluster) r, g { c with routeB := r } = g c)
    (s : State) (n : Nat) : g ((s.sendOperand cl q j isA o).cluster n) = g (s.cluster n) := by
  have hsend : ∀ (t : State) dst part body, g ((t.sendPkt cl dst part body).cluster n) = g (t.cluster n) := by
    intro t dst part body
    unfold State.sendPkt
    dsimp only
    rw [State.cluster_modCluster]
    split_ifs with hn
    · subst hn; exact hrouter _ _
    · rfl
  have hroute : ∀ (t : State) a b, g ((t.modCluster cl fun k => if isA then { k with routeA := put k.routeA q a }
      else { k with routeB := put k.routeB q b }).cluster n) = g (t.cluster n) := by
    intro t a b
    rw [State.cluster_modCluster]
    split_ifs with hn
    · subst hn; exact hrouteA _ _
    · subst hn; exact hrouteB _ _
    · rfl
  unfold State.sendOperand
  dsimp only
  rw [hroute, hsend, apply_ite fun t : State => g (t.cluster n), hsend, ite_self]

theorem cluster_sendHeld_keeps {β : Type} (g : Cluster → β) (hrouter : ∀ (c : Cluster) r, g { c with router := r } = g c)
    (hrouteA : ∀ (c : Cluster) r, g { c with routeA := r } = g c) (hrouteB : ∀ (c : Cluster) r, g { c with routeB := r } = g c)
    (s : State) (n : Nat) : g ((s.sendHeld cl q j).cluster n) = g (s.cluster n) := by
  unfold State.sendHeld
  cases j.sendA <;> cases j.sendB <;> simp only [cluster_sendOperand_keeps g hrouter hrouteA hrouteB]

theorem mat_sendHeld (s : State) (n : Nat) : ((s.sendHeld cl q j).cluster n).mat = (s.cluster n).mat :=
  cluster_sendHeld_keeps Cluster.mat (fun _ _ => rfl) (fun _ _ => rfl) (fun _ _ => rfl) s n

theorem macc_sendHeld (s : State) (n : Nat) : ((s.sendHeld cl q j).cluster n).macc = (s.cluster n).macc :=
  cluster_sendHeld_keeps Cluster.macc (fun _ _ => rfl) (fun _ _ => rfl) (fun _ _ => rfl) s n

theorem matHead_setHead (s : State) (cl q : Nat) (j : MJob) : (s.setHead cl q (some j)).matHead cl q = some j := by
  rw [State.matHead, State.setHead, State.cluster_modCluster_same]
  simp only [find_put_same]
  rfl

theorem macc_setHead (s : State) (cl q : Nat) (x : Option MJob) : ((s.setHead cl q x).cluster cl).macc = (s.cluster cl).macc := by
  rw [State.setHead, State.cluster_modCluster_same]

theorem macc_stepEnds (s : State) (cl : Nat) (m : MStep) :
    find ((s.stepEnds cl m).cluster cl).macc m.queue [] = (s.stepResult cl m).1 := by
  rw [State.stepEnds, State.cluster_modCluster_same]
  exact find_put_same _ _ _ _

/-! ### The row -/

section Row
variable (hd : clusterOk s.turn.unit = true) (hm : (s.cluster s.turn.unit).mstep = some m)
  (hj : s.matHead s.turn.unit m.queue = some j)
include hd hm hj

theorem matrixStepRetire_retires (hup : s.turn.upset = .none) : Goes s .matrixStepRetire
    (((s.stepEnds s.turn.unit m).setHead s.turn.unit m.queue (some (j.stepped m (s.stepResult s.turn.unit m).2))).sendHeld s.turn.unit
      m.queue (j.stepped m (s.stepResult s.turn.unit m).2)) := by
  show execMatrixStepRetire s = _
  rw [execMatrixStepRetire_eq hd hm hj, hup]

theorem matrixStepRetire_sends_nothing (hup : s.turn.upset = .none) (hop : j.op ≠ .mrot) (hA : j.sendA = none) (hB : j.sendB = none) :
    Goes s .matrixStepRetire ((s.stepEnds s.turn.unit m).setHead s.turn.unit m.queue
      (some { j with done := j.done + 1, flags := j.flags ||| (s.stepResult s.turn.unit m).2 })) := by
  have h := matrixStepRetire_retires hd hm hj hup
  rw [MJob.stepped, if_neg hop, State.sendHeld] at h
  simpa only [hA, hB] using h

theorem matrixStepRetire_rotates (hup : s.turn.upset = .none) (hop : j.op = .mrot) (hA : j.areuse = false) :
    ∃ u k, Goes s .matrixStepRetire u ∧ u.matHead s.turn.unit m.queue = some k ∧ k.done = j.done + 1 ∧ k.sendA = some m.a
      ∧ k.sendB = some m.b ∧ find (u.cluster s.turn.unit).macc m.queue [] = (s.stepResult s.turn.unit m).1 := by
  refine ⟨_, j.stepped m (s.stepResult s.turn.unit m).2, matrixStepRetire_retires hd hm hj hup, ?_, ?_, ?_, ?_, ?_⟩
  · rw [State.matHead, mat_sendHeld]
    exact matHead_setHead _ _ _ _
  · simp [MJob.stepped, hop]
  · simp [MJob.stepped, hop, hA]
  · simp [MJob.stepped, hop]
  · rw [macc_sendHeld, macc_setHead, macc_stepEnds]

theorem matrixStepRetire_mismatch_again (hup : s.turn.upset = .checkerTwice) (hagain : j.replayed = true) :
    Goes s .matrixStepRetire (s.mismatch s.turn.unit m.queue j) := by
  show execMatrixStepRetire s = _
  rw [execMatrixStepRetire_eq hd hm hj, hup]
  exact if_pos hagain

theorem matrixStepRetire_mismatch_twice (hup : s.turn.upset = .checkerTwice) (hfirst : j.replayed = false)
    (hreplay : replayStep s.turn.unit m j s = .ok ((), u)) :
    Goes s .matrixStepRetire (u.mismatch s.turn.unit m.queue { j with replayed := true }) := by
  show execMatrixStepRetire s = _
  rw [execMatrixStepRetire_eq hd hm hj, hup]
  exact (if_neg (by simp [hfirst])).trans (replayThen_ok hreplay _)

theorem matrixStepRetire_replays (hup : s.turn.upset = .checkerOnce) (hfirst : j.replayed = false)
    (hreplay : replayStep s.turn.unit m j s = .ok ((), u)) : Goes s .matrixStepRetire u := by
  show execMatrixStepRetire s = _
  rw [execMatrixStepRetire_eq hd hm hj, hup]
  exact (if_neg (by simp [hfirst])).trans (replayThen_ok hreplay _)

end Row

end Retire

/-! ## The arithmetic of a step (R220, R221) -/

/-- Element `i` of a step's output is that element of the accumulator through the step. -/
theorem getD_stepAll (x y : Operand) (cls : Nat) {acc : List Nat} {i : Nat} (h : i < acc.length) :
    (stepAll x y cls acc).1.getD i 0 = (stepElem x y cls (i / 32) (i % 32) (acc.getD i 0)).1 := by
  simp [stepAll, rangeFrom_zero, h]

/-! ## Completion and poison (R224, R225, R228) -/

section Ends
variable {s t : State} {j : MJob} (hd : clusterOk s.turn.unit = true) (hq : s.turn.sub < 8)
  (hj : s.matHead s.turn.unit s.turn.sub = some j)
include hd hq hj

/-- A job whose steps have all retired and whose sends are accepted merges its accumulator or writes it to its tile. -/
theorem execMatrixJobComplete_eq (hsteps : j.steps ≠ 0) (hdone : j.done = j.steps) (hA : j.sendA = none) (hB : j.sendB = none) :
    execMatrixJobComplete s =
      let d := s.turn.unit
      let acc := find (s.cluster d).macc s.turn.sub []
      if j.op = .mmas then
        match mergeAll (s.jobClient j) j.dst acc s with
        | .ok (_, t) => .next (t.closeJob d s.turn.sub j 0 none)
        | .error (.fault code x w) =>
          .next ((s.lostBy (s.partOf j.name) d (code, x, w)).closeJob d s.turn.sub j 1 (some (code, x)))
        | .error (.wait _ _) => .next s
      else .next ((s.writeTile j acc).closeJob d s.turn.sub j 0 none) := by
  unfold execMatrixJobComplete
  dsimp only
  rw [if_neg (by simp [hd, hq]), hj]
  dsimp only
  exact if_neg (by simp [hsteps, hdone, hA, hB])

theorem matrixJobComplete_writes (hsteps : j.steps ≠ 0) (hdone : j.done = j.steps) (hA : j.sendA = none) (hB : j.sendB = none)
    (hop : j.op ≠ .mmas) : Goes s .matrixJobComplete
      ((s.writeTile j (find (s.cluster s.turn.unit).macc s.turn.sub [])).closeJob s.turn.unit s.turn.sub j 0 none) := by
  show execMatrixJobComplete s = _
  rw [execMatrixJobComplete_eq hd hq hj hsteps hdone hA hB]
  exact if_neg hop

theorem matrixJobComplete_merges (hsteps : j.steps ≠ 0) (hdone : j.done = j.steps) (hA : j.sendA = none) (hB : j.sendB = none)
    (hop : j.op = .mmas) (hmerge : mergeAll (s.jobClient j) j.dst (find (s.cluster s.turn.unit).macc s.turn.sub []) s = .ok ((), t)) :
    Goes s .matrixJobComplete (t.closeJob s.turn.unit s.turn.sub j 0 none) := by
  show execMatrixJobComplete s = _
  rw [execMatrixJobComplete_eq hd hq hj hsteps hdone hA hB]
  dsimp only
  rw [if_pos hop, hmerge]

theorem matrixJobPoison_poisons (hfirst : j.granted = 0) (hgate : s.gateOf j = .poisoned) : Goes s .matrixJobPoison
    (((s.modCluster s.turn.unit fun k => { k with mat := put k.mat s.turn.sub ((find (s.cluster s.turn.unit).mat s.turn.sub []).filter
        fun e => match e with
          | .job _ => false
          | .fence _ => true) }).poisonJobs (jobsOf (find (s.cluster s.turn.unit).mat s.turn.sub []))).closeRoutes s.turn.unit s.turn.sub) := by
  show execMatrixJobPoison s = _
  unfold execMatrixJobPoison
  dsimp only
  rw [if_neg (by simp [hd, hq]), hj]
  dsimp only
  exact if_neg (by simp [hfirst, hgate])

end Ends

/-! ## The write-back port (R235) -/

section WriteBack
variable {s t : State} {j : MJob} {f : BitVec 6} (hd : clusterOk s.turn.unit = true) (hq : s.turn.sub < 8)
  (hj : s.matHead s.turn.unit s.turn.sub = some j) (hfence : matFences (find (s.cluster s.turn.unit).mat s.turn.sub []) = [])
  (hpre : (s.cluster s.turn.unit).preempt = none)
include hd hq hj hfence hpre

/-- Without fences in its queue, the port of a cluster that is not pre-empted acts on the head of the queue. -/
theorem execWritebackPortOp_eq : execWritebackPortOp s =
    let d := s.turn.unit
    let q := s.turn.sub
    match j.op with
    | .mzero => .next ((s.writeTile j (List.replicate 1024 0)).closeJob d q j 0 none)
    | .mrd =>
      if j.sent then .next (if s.packetsOut j.core j.ctx then s else s.closeJob d q j 0 none)
      else (match readOut j s with
        | .ok ((true, f), t) =>
          let k := { j with flags := f, sent := true }
          .next (if laySpace j.dst.entry = 1 then t.setHead d q (some k) else t.closeJob d q k 0 none)
        | .ok ((false, _), t) => .next t
        | .error (.fault code x w) => .next ((s.lostBy (s.partOf j.name) d (code, x, w)).closeJob d q j 1 (some (code, x)))
        | .error (.wait _ _) => .next s)
    | _ => .next s := by
  unfold execWritebackPortOp
  dsimp only
  rw [if_neg (by simp [hd, hq]), hfence, State.passFences_nil, hj]
  dsimp only
  exact if_neg (by simp [hpre])

theorem writebackPortOp_zeroes (hop : j.op = .mzero) : Goes s .writebackPortOp
    ((s.writeTile j (List.replicate 1024 0)).closeJob s.turn.unit s.turn.sub j 0 none) := by
  show execWritebackPortOp s = _
  rw [execWritebackPortOp_eq hd hq hj hfence hpre, hop]

theorem writebackPortOp_reads (hop : j.op = .mrd) (hsent : j.sent = false) (hread : readOut j s = .ok ((true, f), t)) :
    Goes s .writebackPortOp (if laySpace j.dst.entry = 1 then t.setHead s.turn.unit s.turn.sub (some { j with flags := f, sent := true })
      else t.closeJob s.turn.unit s.turn.sub { j with flags := f, sent := true } 0 none) := by
  show execWritebackPortOp s = _
  rw [execWritebackPortOp_eq hd hq hj hfence hpre, hop, hread]
  exact if_neg (by simp [hsent])

theorem writebackPortOp_ends (hop : j.op = .mrd) (hsent : j.sent = true) (hout : s.packetsOut j.core j.ctx = false) :
    Goes s .writebackPortOp (s.closeJob s.turn.unit s.turn.sub j 0 none) := by
  show execWritebackPortOp s = _
  rw [execWritebackPortOp_eq hd hq hj hfence hpre, hop]
  dsimp only
  rw [if_pos hsent, hout]
  rfl

end WriteBack

/-! ## Rotation slots (R229) -/

section Slots
variable {s : State} {o : Operand} {n : Nat} {rest : List Packet} (hd : clusterOk s.turn.unit = true) (hq : s.turn.sub < 8)
  (hhere : s.coreSwapped (8 * s.turn.unit + s.turn.sub) = false)
include hd hq hhere

theorem rotationSlotAccept_a (hval : s.turn.val = 0) (hfree : look (s.cluster s.turn.unit).slotA s.turn.sub = none)
    (htake : takeOperand (8 * s.turn.unit + s.turn.sub) true (s.cluster s.turn.unit).arrived = some (o, n, rest)) :
    Goes s .rotationSlotAccept ((s.modCluster s.turn.unit fun k =>
      { k with arrived := rest, slotA := put k.slotA s.turn.sub o }).sendTaken n true) := by
  show execRotationSlotAccept s = _
  unfold execRotationSlotAccept
  dsimp only
  rw [if_neg (by simp [hd, hq]), decide_eq_true hval, if_neg (by simp [hfree, hhere]), htake]
  rfl

theorem rotationSlotAccept_b (hval : s.turn.val ≠ 0) (hfree : look (s.cluster s.turn.unit).slotB s.turn.sub = none)
    (htake : takeOperand (8 * s.turn.unit + s.turn.sub) false (s.cluster s.turn.unit).arrived = some (o, n, rest)) :
    Goes s .rotationSlotAccept ((s.modCluster s.turn.unit fun k =>
      { k with arrived := rest, slotB := put k.slotB s.turn.sub o }).sendTaken n false) := by
  show execRotationSlotAccept s = _
  unfold execRotationSlotAccept
  dsimp only
  rw [if_neg (by simp [hd, hq]), decide_eq_false hval, if_neg (by simp [hfree, hhere]), htake]
  rfl

end Slots

end Sys2Proof.Machine
end

section
/-!
SUPPORT. The Lintel fabric (12 R280-R286): the end and the start of a graph, its units and ports, ingress flits; the statement O57
put together from them.
-/

namespace Sys2Proof.Machine

/-! ## The end of a graph (R286) -/

section Ends
variable {s : State} {l : LStart} {g : Graph} {p : Proc} {d k : Nat}

/-- Giving a graph's flags changes processes alone. -/
theorem graphFlags_procs (s : State) (l : LStart) (f : BitVec 6) : ∃ procs, s.graphFlags l f = { s with procs := procs } := by
  unfold State.graphFlags
  split
  · exact ⟨_, rfl⟩
  · exact ⟨_, rfl⟩

theorem named_proc {name : Nat} (h : s.named name = some p) : s.proc (slotOf name) = p := by
  unfold State.named at h
  dsimp only at h
  split_ifs at h
  exact Option.some.inj h

/-- A process that a graph's start names has the graph's flags. -/
theorem pflags_graphFlags (h : s.named l.name = some p) (f : BitVec 6) :
    ((s.graphFlags l f).proc (slotOf l.name)).pflags = p.pflags ||| f := by
  unfold State.graphFlags
  rw [h]
  dsimp only
  rw [State.orPflags, State.proc_modProc_same, named_proc h]

/-- The state after a graph has ended. -/
def State.graphEnds (s : State) (d k : Nat) (g : Graph) : State :=
  ((s.graphFlags g.start g.flags).countGraph d g.start false).dropGraph d k

theorem lintelGraphEnd_ends (hd : s.turn.unit < 12) (hg : s.graph s.turn.unit s.turn.sub = some g) (hover : g.over = true) :
    Goes s .lintelGraphEnd (s.graphEnds s.turn.unit s.turn.sub g) := by
  show execLintelGraphEnd s = _
  unfold execLintelGraphEnd
  rw [if_neg (by omega), hg]
  dsimp only
  rw [if_neg (by simp [hover])]
  rfl

/-- The end of a graph takes it from its array and counts it in its notify register; memory and cores stay as they are. -/
theorem graphEnds_changes (s : State) (d k : Nat) (g : Graph) :
    let t := s.graphEnds d k g
    let n := find (s.lintel d).notify g.start.notify (0, 0)
    t.mem = s.mem ∧ t.cores = s.cores ∧ (t.lintel d).graphs = (s.lintel d).graphs.eraseIdx k
      ∧ find (t.lintel d).notify g.start.notify (0, 0) = (n.1 % 2 ^ 16, (n.2 + 1) % 2 ^ 48) := by
  obtain ⟨procs, hprocs⟩ := graphFlags_procs s g.start g.flags
  unfold State.graphEnds State.dropGraph State.countGraph
  rw [hprocs]
  dsimp only
  rw [State.lintel_modLintel_same, State.lintel_modLintel_same]
  exact ⟨rfl, rfl, rfl, find_put_same _ _ _ _⟩

theorem pflags_graphEnds (h : s.named g.start.name = some p) :
    ((s.graphEnds d k g).proc (slotOf g.start.name)).pflags = p.pflags ||| g.flags := pflags_graphFlags h g.flags

end Ends

/-! ## The start of a graph (R285) -/

section Starts
variable {s t : State} {l : LStart} {es : List LinEntry} {im : List Byte} {code : FaultCode} {x w : Word}

theorem State.modLintel_modLintel (s : State) (d : Nat) (f g : Array12 → Array12) :
    (s.modLintel d f).modLintel d g = s.modLintel d fun a => g (f a) := by
  simp [State.modLintel, State.lintel]

/-- A change of an array matters where it is applied. -/
theorem State.modLintel_congr {d : Nat} {f g : Array12 → Array12} (h : f (s.lintel d) = g (s.lintel d)) :
    s.modLintel d f = s.modLintel d g := by
  rw [State.modLintel, State.modLintel, h]

/-- The start entry at the head of a queue has left it. -/
def State.dropEntry (s : State) (d : Nat) : State := s.modLintel d fun a => { a with queue := dropStart a.queue }

theorem dropEntry_start {d : Nat} (h : (s.lintel d).queue = .start l :: es) :
    s.dropEntry d = s.modLintel d fun a => { a with queue := es } := State.modLintel_congr (by rw [h]; rfl)

/-- Without fences in its queue, an array opens the graph at the head of the queue. -/
theorem execLintelGraphStart_eq (hd : s.turn.unit < 12) (hfence : linFences (s.lintel s.turn.unit).queue = [])
    (hq : (s.lintel s.turn.unit).queue = .start l :: es) : execLintelGraphStart s = match openGraph l s with
      | .error (.fault code x w) => .next (((s.dropEntry s.turn.unit).lostBy ((s.dropEntry s.turn.unit).partOf l.name) (l.core / 8)
          (code, x, w)).failGraph s.turn.unit l 0#6 code x)
      | .error (.wait _ _) => .next s
      | .ok (im, t) =>
        if (t.lintel s.turn.unit).graphs.any fun g => (unitsOf g.image).any fun u => (unitsOf im).contains u then .next s
        else .next ((t.dropEntry s.turn.unit).modLintel s.turn.unit fun a =>
          { a with graphs := a.graphs ++ [{ start := l, image := im, part := t.partOf l.name }] }) := by
  unfold execLintelGraphStart
  dsimp only
  rw [if_neg (by omega), hfence, State.passFences_nil, hq]
  rfl

theorem lintelGraphStart_starts (hd : s.turn.unit < 12) (hfence : linFences (s.lintel s.turn.unit).queue = [])
    (hq : (s.lintel s.turn.unit).queue = .start l :: es) (hopen : openGraph l s = .ok (im, t))
    (hkept : (t.lintel s.turn.unit).queue = .start l :: es)
    (hfree : ((t.lintel s.turn.unit).graphs.any fun g => (unitsOf g.image).any fun u => (unitsOf im).contains u) = false) :
    Goes s .lintelGraphStart (t.modLintel s.turn.unit fun a =>
      { a with queue := es, graphs := a.graphs ++ [{ start := l, image := im, part := t.partOf l.name }] }) := by
  show execLintelGraphStart s = _
  rw [execLintelGraphStart_eq hd hfence hq, hopen]
  dsimp only
  rw [if_neg (by rw [hfree]; exact Bool.false_ne_true), dropEntry_start hkept, State.modLintel_modLintel]

theorem lintelGraphStart_fails (hd : s.turn.unit < 12) (hfence : linFences (s.lintel s.turn.unit).queue = [])
    (hq : (s.lintel s.turn.unit).queue = .start l :: es) (hopen : openGraph l s = .error (.fault code x w)) :
    Goes s .lintelGraphStart (((s.modLintel s.turn.unit fun a => { a with queue := es }).lostBy (s.partOf l.name) (l.core / 8)
      (code, x, w)).failGraph s.turn.unit l 0#6 code x) := by
  show execLintelGraphStart s = _
  rw [execLintelGraphStart_eq hd hfence hq, hopen, dropEntry_start hq]
  rfl

end Starts

/-! ## Units and ports (R280, R281) -/

section Units
variable {s t : State} {g g' : Graph}

theorem stepGraph_ok {array k : Nat} {m : M Graph} (h : m s = .ok (g', t)) : s.stepGraph array k g m = t.setGraph array k g' := by
  rw [State.stepGraph, h]

/-- The packet in which a flit of a graph leaves for a link (R269). -/
def State.flitPacket (s : State) (array : Nat) (g : Graph) (f : Flit) : PodPacket :=
  { dst := s.devidx, core := g.start.core, ctx := g.start.ctx, part := g.part, prio := imgByte g.image 38, cls := 2
    port := some (portOf array (imgByte g.image 37)), body := .flit g.start.key f.seq f.data f.scale false }

theorem egress_flit {array k : Nat} {f : Flit} {rest : List (Option Flit)} (h : g.at 30 = some f :: rest) :
    s.egress array k g = (s.setGraph array k (g.setAt 30 rest)).injectPkt (s.flitPacket array g f) := by
  unfold State.egress
  rw [h]
  rfl

variable (hd : s.turn.unit < 12) (hg : s.graph s.turn.unit s.turn.sub = some g)
include hd hg

theorem lintelUnitFlit_unit (hval : s.turn.val < 24) (hact : unitAct g s.turn.val = .go g') :
    Goes s .lintelUnitFlit (s.setGraph s.turn.unit s.turn.sub g') := by
  show execLintelUnitFlit s = _
  unfold execLintelUnitFlit
  dsimp only
  rw [if_neg (by simp; omega), hg]
  dsimp only
  rw [if_pos hval, hact]

theorem lintelUnitFlit_reads (hlo : 24 ≤ s.turn.val) (hhi : s.turn.val < 27)
    (hread : portRead g.start g (s.turn.val - 24) s = .ok (g', t)) :
    Goes s .lintelUnitFlit (t.setGraph s.turn.unit s.turn.sub g') := by
  show execLintelUnitFlit s = _
  unfold execLintelUnitFlit
  dsimp only
  rw [if_neg (by simp; omega), hg]
  dsimp only
  rw [if_neg (by omega), if_pos hhi, stepGraph_ok hread]

theorem lintelUnitFlit_writes (hval : s.turn.val = 31) (hwrite : portWrite g.start g s = .ok (g', t)) :
    Goes s .lintelUnitFlit (t.setGraph s.turn.unit s.turn.sub g') := by
  show execLintelUnitFlit s = _
  unfold execLintelUnitFlit
  dsimp only
  rw [if_neg (by simp; omega), hg]
  dsimp only
  rw [if_neg (by omega), if_neg (by omega), if_neg (by omega), if_pos hval, stepGraph_ok hwrite]

theorem lintelUnitFlit_egress {f : Flit} {rest : List (Option Flit)} (hval : s.turn.val = 30) (hat : g.at 30 = some f :: rest) :
    Goes s .lintelUnitFlit ((s.setGraph s.turn.unit s.turn.sub (g.setAt 30 rest)).injectPkt (s.flitPacket s.turn.unit g f)) := by
  show execLintelUnitFlit s = _
  unfold execLintelUnitFlit
  dsimp only
  rw [if_neg (by simp; omega), hg]
  dsimp only
  rw [if_neg (by omega), if_neg (by omega), if_pos hval, egress_flit hat]

end Units

/-! ## Ingress (R284) -/

section Ingress
variable {s u : State} {x : Waiting}

theorem lintelIngressFlit_takes {rest : List PodPacket} (hd : s.turn.unit < 12) (hin : headFlit (s.port s.turn.unit).inp = some (x, rest))
    (hroom : (s.port s.turn.unit).flits.length < 256) : Goes s .lintelIngressFlit
      (((s.modPort s.turn.unit fun h => { h with
        inp := rest, flits := h.flits ++ [(x.1, x.2.1, x.2.2.1, x.2.2.2.1, x.2.2.2.2.1, s.time)] }).deliverFlits s.turn.unit).modPort
          s.turn.unit Port.stopGo) := by
  show execLintelIngressFlit s = _
  unfold execLintelIngressFlit
  dsimp only
  rw [if_neg (by omega), hin]
  dsimp only
  rw [if_neg (by omega)]

/-- The first number of a range and of a kind at which a search finds something. -/
theorem findSome?_filter_rangeFrom {β : Type} {p : Nat → Bool} {f : Nat → Option β} {y : β} {a lo n : Nat} (hlo : lo ≤ a) (hhi : a < lo + n)
    (hp : p a = true) (hbefore : ∀ b, b < a → p b = true → f b = none) (hf : f a = some y) :
    ((rangeFrom lo n).filter p).findSome? f = some y := by
  induction n generalizing lo with
  | zero => omega
  | succ n ih =>
    rw [rangeFrom]
    by_cases hlast : lo = a
    · subst hlast
      rw [List.filter_cons_of_pos hp, List.findSome?_cons_of_isSome (by simp [hf]), hf]
    · have hrest := ih (lo := lo + 1) (by omega) (by omega)
      by_cases hkind : p lo = true
      · rw [List.filter_cons_of_pos hkind, List.findSome?_cons_of_isNone (by simp [hbefore lo (by omega) hkind]), hrest]
      · rw [List.filter_cons_of_neg hkind, hrest]

/-- A flit goes to the first array of its die with a graph that takes it. -/
theorem deliverFlit_first {d a k : Nat} {g : Graph} (hbefore : ∀ b, b < a → b % 2 = d % 2 → (u.lintel b).takes b d x.1 = none)
    (ha : a < 12) (hdie : a % 2 = d % 2) (htakes : (u.lintel a).takes a d x.1 = some k) (hg : u.graph a k = some g)
    (hlast : x.2.2.2.2.1 = false) : u.deliverFlit d x
      = some (u.setGraph a k (g.emit 28 (some { seq := x.2.1, data := x.2.2.1, scale := x.2.2.2.1 }))) := by
  refine findSome?_filter_rangeFrom (Nat.zero_le a) (by omega) (by simpa using hdie) (fun b hb hdie' => ?_) ?_
  · rw [hbefore b hb (by simpa using hdie')]
  · rw [htakes]
    dsimp only
    rw [hg, hlast]
    rfl

end Ingress

/-- Settles O57: each row is said once under its conditions (`execMatrixStepGrant_eq`, `execMatrixStepRetire_eq`, …), and each clause
is a case of it. -/
theorem matrixAndLintelWork : Obligations.MatrixAndLintelWork := by
  unfold Obligations.MatrixAndLintelWork
  refine fun s => ⟨fun hd hidle hfence q defs j => ⟨matrixStepGrant_idle hd hidle hfence, fun hgrant hhead => ?grant⟩,
    fun hd m j hm hj => ⟨matrixStepRetire_sends_nothing hd hm hj, matrixStepRetire_rotates hd hm hj,
      fun hup hagain => ⟨_, matrixStepRetire_mismatch_again hd hm hj hup hagain⟩,
      fun hup hfirst u hreplay => ⟨_, matrixStepRetire_mismatch_twice hd hm hj hup hfirst hreplay⟩,
      fun hup hfirst u hreplay => matrixStepRetire_replays hd hm hj hup hfirst hreplay⟩,
    fun x y cls acc i => getD_stepAll x y cls, fun hd hq j hj => ⟨fun hsteps hdone hA hB =>
        ⟨matrixJobComplete_writes hd hq hj hsteps hdone hA hB, fun hop t => matrixJobComplete_merges hd hq hj hsteps hdone hA hB hop⟩,
      matrixJobPoison_poisons hd hq hj, fun hfence hpre => ⟨writebackPortOp_zeroes hd hq hj hfence hpre,
        fun hop hsent f t hread => ?readOut, writebackPortOp_ends hd hq hj hfence hpre⟩⟩,
    fun hd hq hhere => ⟨fun hval hfree o n rest => rotationSlotAccept_a hd hq hhere hval hfree,
      fun hval hfree o n rest => rotationSlotAccept_b hd hq hhere hval hfree⟩,
    fun hd => ⟨fun g hg hover => ?graphEnd, fun hfence l es hq => ⟨fun im t hopen hkept =>
        lintelGraphStart_starts hd hfence hq hopen hkept, fun code x w => lintelGraphStart_fails hd hfence hq⟩,
      fun g hg => ⟨fun g' => lintelUnitFlit_unit hd hg, fun g' t => lintelUnitFlit_reads hd hg, fun g' t => lintelUnitFlit_writes hd hg,
        fun f rest hval hat => ⟨_, _, lintelUnitFlit_egress hd hg hval hat, rfl, rfl, rfl, rfl, rfl, rfl, rfl⟩⟩,
      fun x rest => lintelIngressFlit_takes hd, fun u x a k g => deliverFlit_first⟩⟩
  case grant =>
    intro u u' x y pins t acc v htake hacc
    have hgrants := matrixStepGrant_grants hd hidle hfence hgrant hhead
    rwa [grantStep_grants htake hacc] at hgrants
  case readOut =>
    have hreads := writebackPortOp_reads hd hq hj hfence hpre hop hsent hread
    refine ⟨fun hspace => ?_, fun hspace => ?_⟩
    · rwa [if_neg hspace] at hreads
    · rwa [if_pos hspace] at hreads
  case graphEnd =>
    obtain ⟨hmem, hcores, hgraphs, hnotify⟩ := graphEnds_changes s s.turn.unit s.turn.sub g
    exact ⟨_, lintelGraphEnd_ends hd hg hover, hmem, hcores, hgraphs, hnotify, fun p hp => pflags_graphEnds hp⟩

end Sys2Proof.Machine
end

section
/-!
SUPPORT. The atomics' arithmetic (11 R258-R260): the operations on words of the width of the type, AFADD's rounded sum; the
statement O29 put together from them.
-/

namespace Sys2Proof.Machine

section Arithmetic
variable {n ty : Nat} (x y z : BitVec n)

/-- Two's complement of a word, as the atomics read it, is the word's own. -/
theorem signedOf_toNat (hn : 0 < n) : signedOf n x.toNat = x.toInt := by
  have hhalf : 2 ^ n = 2 * 2 ^ (n - 1) := by rw [← pow_succ', Nat.sub_add_cancel hn]
  rw [signedOf, Nat.mod_eq_of_lt x.isLt, BitVec.toInt_eq_toNat_cond]
  split_ifs <;> omega

/-- The integer operations and ACAS on words of the width of the type (R258, R259). -/
theorem atomicNew_words (hty : typeBits ty = n) (hn : 0 < n) :
    atomicNew 0 ty x.toNat y.toNat z.toNat = (some (x + y).toNat, 0)
      ∧ atomicNew 1 ty x.toNat y.toNat z.toNat = (some (x &&& y).toNat, 0)
      ∧ atomicNew 2 ty x.toNat y.toNat z.toNat = (some (x ||| y).toNat, 0)
      ∧ atomicNew 3 ty x.toNat y.toNat z.toNat = (some (x ^^^ y).toNat, 0)
      ∧ atomicNew 4 ty x.toNat y.toNat z.toNat = (some (if y.toInt < x.toInt then y else x).toNat, 0)
      ∧ atomicNew 5 ty x.toNat y.toNat z.toNat = (some (if x.toInt < y.toInt then y else x).toNat, 0)
      ∧ atomicNew 6 ty x.toNat y.toNat z.toNat = (some (if y.toNat < x.toNat then y else x).toNat, 0)
      ∧ atomicNew 7 ty x.toNat y.toNat z.toNat = (some (if x.toNat < y.toNat then y else x).toNat, 0)
      ∧ atomicNew 8 ty x.toNat y.toNat z.toNat = (some y.toNat, 0)
      ∧ atomicNew 9 ty x.toNat y.toNat z.toNat = if x = y then (some z.toNat, 1) else (none, 0) := by
  have hmin : min x.toNat y.toNat = (if y.toNat < x.toNat then y else x).toNat := by split_ifs <;> omega
  have hmax : max x.toNat y.toNat = (if x.toNat < y.toNat then y else x).toNat := by split_ifs <;> omega
  simp [atomicNew, hty, signedOf_toNat _ hn, hmin, hmax, apply_ite BitVec.toNat, ← BitVec.toNat_inj]

end Arithmetic

/-- The sum of a NaN and any value is a NaN. -/
theorem addVal_nan {a b : Val} (h : ∃ s, a = .nan s ∨ b = .nan s) (mode : Nat) : ∃ s, addVal mode a b = .nan s := by
  obtain ⟨s, rfl | rfl⟩ := h
  · cases b <;> exact ⟨_, rfl⟩
  · cases a <;> exact ⟨_, rfl⟩

/-- AFADD writes the rounded sum, and +0 for a sum of zero (R260). -/
theorem atomicNew_afadd (ty x y z : Nat) : atomicNew 10 ty x y z =
    (some (if (addVal 0 (decodeVal ty x) (decodeVal ty y)).isZero then 0
      else (encodeFloat ty 0 false (addVal 0 (decodeVal ty x) (decodeVal ty y))).1), 0) := rfl

theorem encodeFloat_nan {ty : Nat} (h : ty ≤ 2) (mode : Nat) (sat s : Bool) : (encodeFloat ty mode sat (.nan s)).1 = canonNan ty := by
  have hsix : isSix ty = false := by simp [isSix]; omega
  simp [encodeFloat, hsix]

/-- Settles O29, from the operations on words of any width and the rounded sum. -/
theorem atomicArithmetic : Obligations.AtomicArithmetic := by
  unfold Obligations.AtomicArithmetic
  refine ⟨fun x y z ty hty => atomicNew_words x y z (by rcases hty with rfl | rfl <;> rfl) (by decide),
    fun x y z ty hty => atomicNew_words x y z (by rcases hty with rfl | rfl <;> rfl) (by decide), fun x y z => ?_,
    fun ty x y z hty => ⟨fun hnan => ?_, fun hzero => ?_, fun hzero => ?_⟩, fun x old hop => ?_, fun op ty hop hty => ?_⟩
  · obtain ⟨-, -, -, -, -, -, -, -, hswap, hcas⟩ := atomicNew_words (ty := 0) x y z rfl (by decide)
    exact ⟨hswap, hcas⟩
  · obtain ⟨s, hsum⟩ := addVal_nan hnan 0
    rw [atomicNew_afadd, hsum, encodeFloat_nan hty]
    rfl
  · rw [atomicNew_afadd, if_pos hzero]
  · rw [atomicNew_afadd, if_neg (by simp [hzero])]
  · simp [AtomicOp.writes, hop]
  · unfold atomicType
    split_ifs with hadd
    · simp [hadd]
    · simp [hadd]
      omega

end Sys2Proof.Machine
end

section
/-!
SUPPORT. The fences (11 R253-R256, 12 R274, 22 R401): what a release waits for, the markers of a POD fence, the cut, QFENCE's entry,
ROSYNC; the statement O31 put together from them.
-/

namespace Sys2Proof.Machine

/-! ## A release (11 R245, 12 R274) -/

section Release
variable {s : State} {k : BitVec 3}

/-- With nothing counted and no fence out, a release at POD scope is over. -/
theorem podRelease_idle (hfence : s.actor.podFence = none) (hsent : s.actor.sent = []) : podRelease s = .ok (none, s) := by
  unfold podRelease
  rw [M.bind_ok (me_run s), hfence, hsent]
  rfl

/-- With counts, it sends their markers and holds. -/
theorem podRelease_sends (hfence : s.actor.podFence = none) (hsent : s.actor.sent ≠ []) : podRelease s
    = .ok (some (.hold .fence), s.sendMarkers s.turn.core s.turn.ctx s.activity.part (s.prioOf s.self)) := by
  unfold podRelease
  rw [M.bind_ok (me_run s), hfence]
  dsimp only
  rw [if_neg (by simpa using hsent)]
  rfl

/-- A release at POD scope, and one at SYSTEM scope with no store to the host out, is the POD's part of it. -/
theorem release_pod (hscope : 6 ≤ k.toNat) (hhost : k = 7#3 → s.hostStoresOut s.turn.core s.turn.ctx = false) :
    release k.toNat s = podRelease s := by
  have hfree : ¬(k.toNat = 7 ∧ s.hostStoresOut s.turn.core s.turn.ctx = true) := fun ⟨hk, hout⟩ => by
    simp [hhost (BitVec.eq_of_toNat_eq hk)] at hout
  unfold release
  rw [M.bind_ok (gets_run id s)]
  simp only [id, if_neg hfree, if_pos hscope]

/-- A release that has nothing to wait for is over. -/
theorem release_over (h : k.toNat < 6 ∨ ((k = 7#3 → s.hostStoresOut s.turn.core s.turn.ctx = false) ∧ s.actor.podFence = none
    ∧ s.actor.sent = [])) : release k.toNat s = .ok (none, s) := by
  by_cases hscope : k.toNat < 6
  · exact release_within_device hscope s
  · obtain ⟨hhost, hfence, hsent⟩ := h.resolve_left hscope
    rw [release_pod (Nat.le_of_not_lt hscope) hhost, podRelease_idle hfence hsent]

/-- Four markers go to every target with counts, the context has a fence out, and nothing else has changed (12 R274). -/
theorem State.sendMarkers_sends (s : State) (part prio : Nat) :
    ∃ (ps : List PodPacket) (f : PodFence),
      SetTo { s with inject := s.inject ++ ps } (s.sendMarkers s.turn.core s.turn.ctx part prio) { s.actor with podFence := some f }
        ∧ ps.length = 4 * s.actor.sent.length := by
  simp only [State.sendMarkers, State.foldl_injectPkt]
  exact ⟨_, _, .inr rfl, by simp [rangeFrom, Function.comp_def, Nat.mul_comm, State.actor]⟩

end Release

/-! ## The instructions -/

section Fences
variable {s : State} {f : BitVec 2} {k : BitVec 3}

/-- A fence of acquire kind retires at once on this in-order core (11 R253). -/
theorem fence_acquire_leaves (h : ReadyA s) : Leaves s (.fence 1#2 k) s.actor :=
  aHalf_retires (body := fun _ => pure .retire) h rfl (SetTo.refl s) rfl rfl

/-- The body of a full fence and of a release is the release at its scope. -/
theorem exec_fence_release (hf : f = 0#2 ∨ f = 2#2) : exec (.fence f k) s = aHalf (.fence f k) (fun _ => do
    match ← release k.toNat with
    | some d => pure d
    | none => pure .retire) s := by
  rcases hf with rfl | rfl <;> rfl

theorem fence_release_leaves (h : ReadyA s) (hf : f = 0#2 ∨ f = 2#2) (hover : release k.toNat s = .ok (none, s)) :
    Leaves s (.fence f k) s.actor := by
  exact (exec_fence_release hf).trans (aHalf_retires h ((M.bind_ok hover).trans rfl) (SetTo.refl s) rfl rfl)

/-- A POD fence with counts sends their markers and stays at its word. -/
theorem fence_pod_sends (h : ReadyA s) (hf : f = 0#2 ∨ f = 2#2) (hfence : s.actor.podFence = none) (hsent : s.actor.sent ≠ []) :
    ∃ u, exec (.fence f 6#3) s = .next u ∧ u.actor.podFence ≠ none ∧ u.actor.pc = s.actor.pc
      ∧ u.inject.length = s.inject.length + 4 * s.actor.sent.length ∧ u.mem = s.mem := by
  obtain ⟨ps, g, hset, hlen⟩ := s.sendMarkers_sends s.activity.part (s.prioOf s.self)
  have hrel : release (6#3).toNat s = _ := (release_pod (by decide) (absurd · (by decide))).trans (podRelease_sends hfence hsent)
  refine ⟨_, (exec_fence_release hf).trans (aHalf_done h (M.bind_ok hrel)), ?_⟩
  rw [State.finishA, State.stall_noted, State.actor_withActor, hset.actor]
  refine ⟨by simp, rfl, ?_, hset.mem⟩
  obtain ⟨hinject, -⟩ | hinject := hset
  · rw [State.withActor, State.setCtx_inject, hinject, List.length_append, hlen]
  · rw [State.withActor, State.setCtx_inject, hinject, State.withActor, State.setCtx_inject, List.length_append, hlen]

/-- fence.ckpt in SUPER code takes a cut of its partition where none is copying (22 R401). -/
theorem fence_ckpt_leaves (h : ReadyA s) (hsuper : s.actor.super = true) (hcut : s.cutting s.activity.part = false) :
    LeavesIn s (s.takeCut s.activity.part) (.fence 3#2 5#3) (s.takeCut s.activity.part).actor := by
  refine aHalf_retires (body := fun _ => _) h ?_ (SetTo.refl _) rfl rfl
  refine (M.bind_ok (me_run s)).trans ((M.bind_ok (x := ()) (t := s) ?_).trans ((M.bind_ok (gets_run id s)).trans ?_))
  · rw [hsuper]; rfl
  · simp only [id, hcut]
    rfl

/-- QFENCE places its entry at the end of an outbox with room (11 R255). -/
theorem qfence_leaves {r : BitVec 5} {m : Word} {c : Ctx} (h : ReadyA s) (hs : s.actor.source r = some (m, c)) (hm : m.toNat < 16)
    (hroom : RoomFor s.actor 32) : Leaves s (.qfence r) { c with outbox := c.outbox ++ [.qfence m.toNat] } := by
  obtain ⟨t, hread, hset⟩ := readA_source (SetTo.refl s) hs
  obtain ⟨q, rfl⟩ := Ctx.source_keeps hs
  have hroom' : RoomFor t.actor (OutEntry.qfence m.toNat).size := by rw [hset.actor]; exact hroom
  refine aHalf_retires (body := fun _ => _) h ?_ (hset.modActor fun c => { c with outbox := c.outbox ++ [.qfence m.toNat] }) rfl rfl
  refine (M.bind_ok (me_run s)).trans ((M.bind_ok hread).trans ((M.bind_ok (require_holds (by simpa using hm) t)).trans ?_))
  exact (M.bind_ok (readyOut_room hroom')).trans ((M.bind_ok (pure_run () t)).trans ((M.bind_ok (putOut_open hroom'.1)).trans rfl))

/-- ROSYNC empties the read-only cache of its cluster (11 R256). -/
theorem rosync_leaves (h : ReadyA s) : LeavesIn s (s.modCluster (s.turn.core / 8) fun c => { c with ro := [] }) .rosync s.actor :=
  (rfl : execRosync s = aHalf _ _ s).trans (aHalf_retires h (M.bind_ok (mods_run _ s)) (.inl ⟨rfl, rfl⟩) rfl rfl)

end Fences

/-- Settles O31: each fence by the release that it waits for. -/
theorem fencesOrder : Obligations.FencesOrder := by
  unfold Obligations.FencesOrder
  refine fun s h => ⟨fun k _ => fence_acquire_leaves h, fun f k _ hf => ⟨fun hover => fence_release_leaves h hf (release_over hover), ?_⟩,
    fun hsuper hcut => fence_ckpt_leaves h hsuper hcut, fun r m c hs hm hseal hlen hbytes => qfence_leaves h hs hm ⟨hseal, hlen, hbytes⟩,
    rosync_leaves h⟩
  rintro rfl hfence hsent
  exact fence_pod_sends h hf hfence hsent

end Sys2Proof.Machine
end

section
/-!
SUPPORT. The atomics and WAITA (11 R257-R261, R426): what they pass through at a slice leaves memory and watches alone, WAITA at a home
slice and at a controller, the instructions; the statement O30 put together from them.
-/

namespace Sys2Proof.Machine

/-! ## What atomics pass through leaves memory and the watches of slices alone -/

section Watches
variable (s : State)

@[simp] theorem State.mem_observeRead (agent a n : Nat) : (s.observeRead agent a n).mem = s.mem := (s.observeRead_keeps agent a n).1

@[simp] theorem State.mem_closeWindow (h : Home) (line : Nat) : (s.closeWindow h line).mem = s.mem := by
  unfold State.closeWindow; split <;> rfl

@[simp] theorem State.mem_applyDieMsg (m : DieMsg) : (s.applyDieMsg m).mem = s.mem := by simp [State.applyDieMsg]

@[simp] theorem State.mem_crossDie (src dst : Nat) : (s.crossDie src dst).mem = s.mem := by
  unfold State.crossDie
  split_ifs
  · rfl
  · exact foldl_keeps State.mem State.mem_applyDieMsg _ _

/-- The watches of a slice, in a device's clusters (11 R261). -/
def watchesIn (m : Map Cluster) (h : Home) : List Watch := (find (find m h.cluster {}).slices h.slice {}).watches

theorem State.watches_sliceAt (h : Home) : (s.sliceAt h).watches = watchesIn s.clusters h := rfl

theorem State.sliceAt_modSlice (h g : Home) (f : Slice → Slice) : (s.modSlice g f).sliceAt h
    = if h.cluster = g.cluster ∧ h.slice = g.slice then f (s.sliceAt h) else s.sliceAt h := by
  by_cases hc : h.cluster = g.cluster
  · by_cases hs : h.slice = g.slice <;> simp [State.sliceAt, State.modSlice, State.cluster, State.modCluster, hc, hs, find_put]
  · simp [State.sliceAt, State.modSlice, State.cluster, State.modCluster, hc, find_put]

/-- A change of a slice that keeps its watches keeps the watches of every slice. -/
theorem State.watches_modSlice (h g : Home) {f : Slice → Slice} (hf : ∀ l, (f l).watches = l.watches) :
    watchesIn (s.modSlice g f).clusters h = watchesIn s.clusters h := by
  rw [← State.watches_sliceAt, State.sliceAt_modSlice, ← State.watches_sliceAt]
  split_ifs
  · exact hf _
  · rfl

@[simp] theorem State.watches_modSet (h g : Home) (f : SliceSet → SliceSet) :
    watchesIn (s.modSet g f).clusters h = watchesIn s.clusters h :=
  s.watches_modSlice h g fun _ => rfl

/-- A change of a cluster that keeps its slices keeps their watches. -/
theorem State.watches_modCluster (h : Home) (n : Nat) {f : Cluster → Cluster} (hf : ∀ c, (f c).slices = c.slices) :
    watchesIn (s.modCluster n f).clusters h = watchesIn s.clusters h := by
  simp only [watchesIn, State.modCluster, State.cluster, find_put]
  split_ifs with hn
  · subst hn; rw [hf]
  · rfl

@[simp] theorem State.clusters_count (p kind n : Nat) : (s.count p kind n).clusters = s.clusters := by
  unfold State.count; split <;> rfl

@[simp] theorem State.clusters_evict (h : Home) (w : Way) : (s.evict h w).clusters = s.clusters := by
  unfold State.evict; dsimp only; split_ifs <;> simp

@[simp] theorem State.watches_wakeCluster (h : Home) (cl : Nat) : watchesIn (s.wakeCluster cl).clusters h = watchesIn s.clusters h := by
  unfold State.wakeCluster
  dsimp only
  split_ifs
  · rfl
  · exact s.watches_modCluster h cl fun _ => rfl

@[simp] theorem State.watches_lineAccess (h g : Home) (line part cache : Nat) (write : Bool) :
    watchesIn (s.lineAccess g line part cache write).clusters h = watchesIn s.clusters h := by
  unfold State.lineAccess
  dsimp only
  repeat' split
  all_goals simp

@[simp] theorem State.watches_closeWindow (h g : Home) (line : Nat) :
    watchesIn (s.closeWindow g line).clusters h = watchesIn s.clusters h := by
  unfold State.closeWindow
  split
  · rfl
  · simp [State.takeFresh, State.watches_modCluster, State.watches_modSlice]

@[simp] theorem State.watches_applyDieMsg (h : Home) (m : DieMsg) :
    watchesIn (s.applyDieMsg m).clusters h = watchesIn s.clusters h := by
  simp [State.applyDieMsg]

@[simp] theorem State.watches_crossDie (h : Home) (src dst : Nat) :
    watchesIn (s.crossDie src dst).clusters h = watchesIn s.clusters h := by
  unfold State.crossDie
  split_ifs
  · rfl
  · exact foldl_keeps (fun t : State => watchesIn t.clusters h) (fun t m => t.watches_applyDieMsg h m) _ _

@[simp] theorem State.clusters_observeRead (agent a n : Nat) : (s.observeRead agent a n).clusters = s.clusters := by
  refine foldl_keeps State.clusters (fun t x => ?_) _ s
  split <;> rfl

end Watches

/-! ## WAITA at a home slice and at a controller (11 R261, R426) -/

section Waita
variable {s : State} {i : Issuer} {a n o : Nat} {x : AtomicOp}

/-- The state at which the home slice watches a word of a WAITA, or replies. -/
def State.reachHome (s : State) (i : Issuer) (a : Nat) (x : AtomicOp) : State :=
  ((s.observeRead i.agent a (typeBytes x.ty)).crossDie i.die (homeOf a).die).lineAccess (homeOf a) (a / 128 * 128) i.part 0 false

/-- The state at which a controller watches a word of a WAITA, or replies. -/
def State.reachPad (s : State) (i : Issuer) (n o : Nat) (x : AtomicOp) : State :=
  (s.learn i.agent (s.poolKnown n o (typeBytes x.ty))).crossDie i.die (dieOf (n / 8))

@[simp] theorem State.mem_reachHome : (s.reachHome i a x).mem = s.mem := by simp [State.reachHome]
@[simp] theorem State.mem_reachPad : (s.reachPad i n o x).mem = s.mem := by simp [State.reachPad, State.learn]

theorem State.core_reachPad : (s.reachPad i n o x).core n = s.core n := by simp [State.reachPad, State.core, State.learn]

@[simp] theorem State.watches_reachHome (h : Home) : watchesIn (s.reachHome i a x).clusters h = watchesIn s.clusters h := by
  simp [State.reachHome]

/-- The watch that a WAITA of an issuer leaves. -/
def watchOf (s : State) (i : Issuer) (a : Nat) (x : AtomicOp) (far : Option (Nat × Nat)) : Watch :=
  { core := i.core, ctx := i.ctx, addr := a, width := typeBytes x.ty, since := s.cyc, tmo := x.tmo, far := far }

/-- WAITA at the home slice, by the value there and the room in the slice's table. -/
theorem atomicAt_waita (hop : x.op = 11) : s.atomicAt i a x
    = (match waitaOut (readNat s.mem a (typeBytes x.ty)) x.v (32 - (s.sliceAt (homeOf a)).watches.length) with
      | .watch => (.watch, (s.reachHome i a x).modSlice (homeOf a) fun l =>
          { l with watches := l.watches ++ [watchOf (s.reachHome i a x) i a x i.far] })
      | r => (r, s.reachHome i a x)) := by
  have hroom : ((s.reachHome i a x).sliceAt (homeOf a)).watches = (s.sliceAt (homeOf a)).watches := by
    simp only [State.watches_sliceAt, State.watches_reachHome]
  unfold State.atomicAt
  dsimp only
  rw [if_pos hop, ← hroom]
  rfl

/-- WAITA at a controller, by the value in the pool and the room in the core's table. -/
theorem atomicPad_waita (hop : x.op = 11) : s.atomicPad i n o x
    = (match waitaOut (natOfBytes (s.poolBytes n o (typeBytes x.ty))) x.v (16 - (s.core n).watches.length) with
      | .watch => (.watch, (s.reachPad i n o x).modCore n fun c =>
          { c with watches := c.watches ++ [watchOf (s.reachPad i n o x) i o x none] })
      | r => (r, s.reachPad i n o x)) := by
  unfold State.atomicPad
  dsimp only
  rw [if_pos hop, ← State.core_reachPad (s := s) (i := i) (o := o) (x := x)]
  rfl

theorem waitaOut_differs {old v room : Nat} (h : old ≠ v) : waitaOut old v room = .reply old 0 := if_pos h

theorem waitaOut_watches {v room : Nat} (h : room ≠ 0) : waitaOut v v room = .watch := by simp [waitaOut, h]

theorem waitaOut_full {v : Nat} : waitaOut v v 0 = .reply v 1 := by simp [waitaOut]

/-- WAITA changes no byte of memory. -/
theorem mem_atomicAt_waita (hop : x.op = 11) : (s.atomicAt i a x).2.mem = s.mem := by
  rw [atomicAt_waita hop]
  split <;> simp

theorem mem_atomicPad_waita (hop : x.op = 11) : (s.atomicPad i n o x).2.mem = s.mem := by
  rw [atomicPad_waita hop]
  split <;> simp

/-- An equal value at the home, with room: its watch stands behind those there. -/
theorem atomicAt_watches (hop : x.op = 11) (hv : readNat s.mem a (typeBytes x.ty) = x.v)
    (hroom : (s.sliceAt (homeOf a)).watches.length < 32) : (s.atomicAt i a x).1 = .watch
      ∧ ((s.atomicAt i a x).2.sliceAt (homeOf a)).watches
        = (s.sliceAt (homeOf a)).watches ++ [watchOf (s.reachHome i a x) i a x i.far] := by
  rw [atomicAt_waita hop, hv, waitaOut_watches (by omega)]
  refine ⟨rfl, ?_⟩
  dsimp only
  rw [State.sliceAt_modSlice, if_pos ⟨rfl, rfl⟩]
  simp only [State.watches_sliceAt, State.watches_reachHome]

/-- The same at a controller. -/
theorem atomicPad_watches (hop : x.op = 11) (hv : natOfBytes (s.poolBytes n o (typeBytes x.ty)) = x.v)
    (hroom : (s.core n).watches.length < 16) : (s.atomicPad i n o x).1 = .watch
      ∧ ((s.atomicPad i n o x).2.core n).watches = (s.core n).watches ++ [watchOf (s.reachPad i n o x) i o x none] := by
  rw [atomicPad_waita hop, hv, waitaOut_watches (by omega)]
  refine ⟨rfl, ?_⟩
  dsimp only
  rw [State.modCore, State.core_setCore_same, State.core_reachPad]

end Waita

/-! ## The instructions -/

section Performed
variable {s s1 s2 s3 u : State} {op : Nat} {d c : BitVec 5} {L : BitVec 8} {r q : BitVec 1} {e : BitVec 512} {off : Int}
  {v cmp : Word} {n o a old st : Nat} {rest : List Loc} {i : Instr}

/-- The instruction's fields as its body takes them. -/
def atomFields (op : Nat) (d c : BitVec 5) (L : BitVec 8) (r q : BitVec 1) : AtomInstr :=
  ⟨op, d, c, L, op != 11 && r == 1#1, q == 1#1⟩

theorem exec_atom (hop : op ≤ 11) (s : State) : exec (atomInstr op d c L r q) s
    = aHalf (atomInstr op d c L r q) (atomBody (atomInstr op d c L r q) (atomFields op d c L r q)) s := by
  interval_cases op <;> rfl

/-- The value that an atomic returns (R257). -/
theorem atomicValue_eq (ty old : Nat) :
    atomicValue ty old = if ty = 12 then (BitVec.ofNat 32 old).signExtend 64 else BitVec.ofNat 64 old := by
  unfold atomicValue
  split_ifs
  · exact ofInt_signedOf 32 old (by decide)
  · rfl

/-- One of two operations, by a condition, and what follows it in either case. -/
theorem M.bind_ok_ite {α β : Type} {p : Prop} [Decidable p] {m m' : M α} {k : α → M β} {s t : State} {x : α}
    (h : (if p then m else m') s = .ok (x, t)) : (if p then m >>= k else m' >>= k) s = k x t := by
  split_ifs at h ⊢ <;> exact M.bind_ok h

theorem AtomAt.here (hat : AtomAt s i op d c L e off v cmp s1) : laySpace e ≠ 1 := by
  rcases hat.space with hs | hs <;> rw [hs] <;> decide

/-- An instruction of the ATOM major on a local word comes to its access, with its operands read. -/
theorem atomBody_reaches (h : ReadyA s) (hat : AtomAt s i op d c L e off v cmp s1) (b : Bool) (b' : Bool) :
    atomBody i ⟨op, d, c, L, b, b'⟩ {} s = atomAccess ⟨op, d, c, L, b, b'⟩ e off {} (if d = 30#5 then [v] else [])
      (atomOpOf s1 op (layType e) v cmp).v (atomOpOf s1 op (layType e) v cmp).cmp s1 := by
  obtain ⟨cs, hcoords, hoff⟩ := hat.coords
  have hspace : (!layRed e && (laySpace e == 0 || laySpace e == 1 || laySpace e == 2) && devOk e) = true := by
    rw [hat.plain, devOk_of_local hat.here]
    rcases hat.space with hs | hs <;> rw [hs] <;> rfl
  have hright : layRight e 3 = true := hat.right
  have hsecond : (if op = 9 then regAt d 1 else pure 0#64) s1 = .ok (cmp, s1) := by
    obtain ⟨hcas, hplain⟩ := hat.second
    split_ifs with hop
    · exact hcas hop
    · rw [hplain hop]; rfl
  unfold atomBody
  refine (M.bind_ok (me_run s)).trans ?_
  rw [h.free]
  refine (M.bind_ok hat.entry).trans ((M.bind_ok hcoords).trans ((M.bind_ok (require_holds hat.type s)).trans ?_))
  refine (M.bind_ok (guardFault_holds hspace _ _ s)).trans ((M.bind_ok (remoteScope_local hat.here _ {})).trans ?_)
  refine (M.bind_ok hoff).trans ((M.bind_ok (guardFault_holds hright _ _ s)).trans ?_)
  refine (M.bind_ok (guardFault_holds (by simpa [ElemOff.addr] using hat.aligned) _ _ s)).trans ?_
  have hrel : (if b = true then release (if laySpace e = 1 then max 6 (scopeOf {}) else scopeOf {}) else pure none) s = .ok (none, s) := by
    rw [if_neg hat.here]
    split_ifs
    · exact release_within_device (by decide) s
    · rfl
  dsimp only [atomOpOf]
  refine (M.bind_ok_ite hrel).trans ?_
  refine (M.bind_ok hat.first).trans ?_
  exact M.bind_ok_ite hsecond

/-- An atomic that was performed gives its old value, and ACAS and WAITA their status. -/
theorem finishAtomic_gives {f : AtomInstr} {ty : Nat} {raw : List Word} {c' : Ctx}
    (hd : u.actor.dest f.d (if ty = 12 then (BitVec.ofNat 32 old).signExtend 64 else BitVec.ofNat 64 old) = some c') :
    ∃ t, finishAtomic f ty raw (.reply old st) u = .ok (.retire, t)
      ∧ SetTo u t (if f.op = 9 ∨ f.op = 11 then { c' with statusReg := BitVec.ofNat 64 st } else c') := by
  obtain ⟨t, hwrite, hset⟩ := writeA_dest (SetTo.refl u) (atomicValue_eq ty old ▸ hd)
  by_cases hstatus : f.op = 9 ∨ f.op = 11
  · refine ⟨_, ?_, by rw [if_pos hstatus]; exact hset.modActor fun c => { c with statusReg := BitVec.ofNat 64 st }⟩
    have hs : atomStatus f.op = true := by simpa [atomStatus] using hstatus
    unfold finishAtomic giveAtomic
    rw [hs]
    exact M.bind_ok (M.bind_ok hwrite)
  · refine ⟨_, ?_, by rw [if_neg hstatus]; exact hset⟩
    have hs : atomStatus f.op = false := by simpa [atomStatus] using hstatus
    unfold finishAtomic giveAtomic
    rw [hs]
    exact M.bind_ok (M.bind_ok hwrite)

/-- An instruction of the ATOM major whose access comes to the reply of the place that performs it. -/
theorem atomGives_of_access (h : ReadyA s) (hop : op ≤ 11) (hat : AtomAt s (atomInstr op d c L r q) op d c L e off v cmp s1)
    (hacc : ∀ raw, atomAccess (atomFields op d c L r q) e off {} raw (atomOpOf s1 op (layType e) v cmp).v
      (atomOpOf s1 op (layType e) v cmp).cmp s1 = finishAtomic (atomFields op d c L r q) (layType e) raw (.reply old st) u) :
    AtomGives s u (atomInstr op d c L r q) op d (layType e) old st := by
  intro c' hd
  obtain ⟨t, hrun, hset⟩ := finishAtomic_gives (f := atomFields op d c L r q) (st := st)
    (raw := if d = 30#5 then [v] else []) hd
  obtain ⟨hact, hpc⟩ := Ctx.dest_act hd
  refine (exec_atom hop s).trans (aHalf_retires h ((atomBody_reaches h hat _ _).trans ((hacc _).trans hrun)) hset ?_ ?_)
  · split_ifs <;> exact hact
  · split_ifs <;> exact hpc

/-- The state in which a controller performs an atomic: one that writes has been logged, or has made the activation unrollable
(15 R370, R371). -/
def State.beforePad (s2 s1 : State) (n o w : Nat) (x : AtomicOp) : State :=
  if x.writes (natOfBytes (s1.poolBytes n o w)) = false then s2
  else if n = s1.turn.core then s2.logUndo o w else s2.setUnroll

/-- The controller's act and the end of the instruction. -/
theorem pad_then {f : AtomInstr} {ty : Nat} {raw : List Word} {x : AtomicOp} (hpad : s.atomicPad s.issuer n o x = (.reply old st, u)) :
    (gets id >>= fun t : State => mods (fun _ => (t.atomicPad t.issuer n o x).2) >>= fun _ =>
      finishAtomic f ty raw (t.atomicPad t.issuer n o x).1) s = finishAtomic f ty raw (.reply old st) u := by
  refine (M.bind_ok (gets_run id s)).trans ?_
  rw [id, hpad]
  exact M.bind_ok (mods_run _ s)

/-- The access to a word of a pool that is not held, and whose die the acting one may send to. -/
theorem atomAccess_pool {f : AtomInstr} {raw : List Word} {x : AtomicOp} (hhere : laySpace e ≠ 1)
    (hx : x = { op := f.op, ty := layType e, v := x.v, cmp := x.cmp, tmo := s1.actor.waittmo.toNat })
    (hplaces : placesOf (s1.client 0) f.L.toNat e 3 false (elemAddrs e off) s1 = .ok (.pool n o :: rest, s2))
    (htag : s1.readTagFault n o (typeBytes (layType e)) (layType e) = none)
    (hfill : n = s1.turn.core → s1.fillHold n s1.self o (typeBytes (layType e)) = .free)
    (hcross : s1.crossBusy s1.issuer.die (dieOf (n / 8)) = false)
    (hpad : (s2.beforePad s1 n o (typeBytes (layType e)) x).atomicPad (s2.beforePad s1 n o (typeBytes (layType e)) x).issuer n o x
      = (.reply old st, u)) :
    atomAccess f e off {} raw x.v x.cmp s1 = finishAtomic f (layType e) raw (.reply old st) u := by
  have hfree : (if n = (s1.client 0).core then s1.fillHold n s1.self o (typeBytes (layType e)) else .free) = .free := by
    split_ifs with hn
    · exact hfill hn
    · rfl
  unfold atomAccess
  refine (M.bind_ok (gets_run id s1)).trans ((M.bind_ok (me_run s1)).trans ?_)
  dsimp only
  rw [if_neg hhere]
  refine (M.bind_ok hplaces).trans ?_
  dsimp only [id]
  rw [htag, hfree, ← hx]
  dsimp only
  rw [if_neg (by simp [hcross])]
  by_cases hw : x.writes (natOfBytes (s1.poolBytes n o (typeBytes (layType e)))) = false
  · rw [State.beforePad, if_pos hw] at hpad
    rw [if_pos (by rw [hw]; rfl)]
    exact pad_then hpad
  · have hbefore : (if n = (s1.client 0).core then mods fun s => s.logUndo o (typeBytes (layType e)) else mods State.setUnroll) s2
        = .ok ((), s2.beforePad s1 n o (typeBytes (layType e)) x) := by
      rw [State.beforePad, if_neg hw]
      by_cases hn : n = s1.turn.core
      · rw [if_pos (show n = (s1.client 0).core from hn), if_pos hn]; rfl
      · rw [if_neg (show ¬n = (s1.client 0).core from hn), if_neg hn]; rfl
    rw [if_neg (by rw [eq_true_of_ne_false hw]; decide)]
    exact (M.bind_ok_ite hbefore).trans (pad_then hpad)

/-- The access to a word of HBM, after the scope check. -/
theorem atomAccess_hbm {f : AtomInstr} {raw : List Word} {x : AtomicOp} (hhere : laySpace e ≠ 1)
    (hx : x = { op := f.op, ty := layType e, v := x.v, cmp := x.cmp, tmo := s1.actor.waittmo.toNat })
    (hplaces : placesOf (s1.client 0) f.L.toNat e 3 false (elemAddrs e off) s1 = .ok (.phys a :: rest, s2))
    (hscope : scopeM (.phys a :: rest) (wrapTo 52 ((elemAddrs e off).headD 0)) 5 s2 = .ok ((), s3)) (hstage : s3.stageFull a = false)
    (hcross : s3.crossFull s3.issuer.die a = false) (hhome : s3.atomicAt s3.issuer a x = (.reply old st, u)) :
    atomAccess f e off {} raw x.v x.cmp s1 = finishAtomic f (layType e) raw (.reply old st)
      (if x.writes (readNat s3.mem a (typeBytes (layType e))) then u.setUnroll else u) := by
  unfold atomAccess
  refine (M.bind_ok (gets_run id s1)).trans ((M.bind_ok (me_run s1)).trans ?_)
  dsimp only
  rw [if_neg hhere]
  refine (M.bind_ok hplaces).trans ?_
  dsimp only [id]
  have hscope' : scopeM (.phys a :: rest) (wrapTo 52 ((elemAddrs e off).headD 0))
      (if laySpace e = 1 && !f.rel && !f.acq then 6 else 5) s2 = .ok ((), s3) := by
    rwa [if_neg (by simp [hhere])]
  refine (M.bind_ok hscope').trans ((M.bind_ok (gets_run id s3)).trans ?_)
  dsimp only [id]
  rw [if_neg (by simp [hstage, hcross]), ← hx, hhome]
  exact M.bind_ok (mods_run _ s3)

/-- An atomic's reply at a controller is the value in the pool before it. -/
theorem atomicPad_old {i : Issuer} {x : AtomicOp} (h : s.atomicPad i n o x = (.reply old st, u)) :
    old = natOfBytes (s.poolBytes n o (typeBytes x.ty)) := by
  by_cases hop : x.op = 11
  · rw [atomicPad_waita hop, waitaOut] at h
    split_ifs at h <;> cases h <;> rfl
  · unfold State.atomicPad at h
    dsimp only at h
    rw [if_neg hop] at h
    split at h <;> cases h <;> rfl

/-- At a home slice it is the value in memory. -/
theorem atomicAt_old {i : Issuer} {x : AtomicOp} (h : s.atomicAt i a x = (.reply old st, u)) :
    old = readNat s.mem a (typeBytes x.ty) := by
  by_cases hop : x.op = 11
  · rw [atomicAt_waita hop, waitaOut] at h
    split_ifs at h <;> cases h <;> rfl
  · unfold State.atomicAt at h
    dsimp only at h
    rw [if_neg hop] at h
    split at h <;> cases h <;> rfl

/-- The read of a register leaves the turn as it is. -/
theorem readA_turn {x : Word} (h : readA d s = .ok (x, s1)) : s1.turn = s.turn := by
  unfold readA at h
  split_ifs at h
  · cases h; rfl
  · rw [M.bind_ok (me_run s)] at h
    cases hq : s.actor.q3 with
    | nil => rw [hq] at h; cases h
    | cons x q => rw [hq] at h; cases h; rfl
  · cases h
  · cases h; rfl

end Performed

/-- Settles O30: the access of each is its place's act, which WAITA's cases describe. -/
theorem atomicsAndWaita : Obligations.AtomicsAndWaita := by
  unfold Obligations.AtomicsAndWaita
  refine ⟨?pool, ?hbm, ?waita⟩
  case pool =>
    intro s op d c L r q e off v cmp s1 s2 u n o old st rest hop h hat hplaces w x htag hfill hcross t hpad
    rw [← readA_turn hat.first] at hfill
    have ht : t = s2.beforePad s1 n o w x := by rw [State.beforePad, readA_turn hat.first]
    refine ⟨atomGives_of_access h hop hat fun raw => ?_, atomicPad_old hpad⟩
    rw [ht] at hpad
    exact atomAccess_pool (x := x) hat.here rfl hplaces htag hfill hcross hpad
  case hbm =>
    intro s op d c L r q e off v cmp s1 s2 s3 u a old st rest hop h hat hplaces hscope hstage hcross hhome x w
    exact ⟨atomGives_of_access h hop hat fun raw => atomAccess_hbm (x := x) hat.here rfl hplaces hscope hstage hcross hhome,
      atomicAt_old hhome⟩
  case waita =>
    intro s i a n o x hop w h here pad
    refine ⟨mem_atomicAt_waita hop, mem_atomicPad_waita hop, fun hv => ?_, fun hv hroom => ?_, fun hv hfull => ?_,
      fun hv => ?_, fun hv hroom => ?_, fun hv hfull => ?_⟩
    · exact (congrArg Prod.fst (atomicAt_waita hop)).trans (by rw [waitaOut_differs hv])
    · exact ⟨(atomicAt_watches hop hv hroom).1, _, rfl, rfl, rfl, rfl, rfl, (atomicAt_watches hop hv hroom).2⟩
    · refine (congrArg Prod.fst (atomicAt_waita hop)).trans ?_
      rw [hv, Nat.sub_eq_zero_of_le hfull, waitaOut_full]
    · exact (congrArg Prod.fst (atomicPad_waita hop)).trans (by rw [waitaOut_differs hv])
    · exact ⟨(atomicPad_watches hop hv hroom).1, _, rfl, rfl, rfl, rfl, (atomicPad_watches hop hv hroom).2⟩
    · refine (congrArg Prod.fst (atomicPad_waita hop)).trans ?_
      rw [hv, Nat.sub_eq_zero_of_le hfull, waitaOut_full]

end Sys2Proof.Machine
end

section
/-!
SUPPORT. Canonical memory (O60; log 5): bodies that keep it, and that what is put together of such parts keeps it.
-/

namespace Sys2Proof.Machine

/-! ## What keeps memory canonical -/

section Basics
variable {s : State}

@[simp] theorem State.mem_ite (p : Prop) [Decidable p] (s t : State) : (if p then s else t).mem = if p then s.mem else t.mem :=
  apply_ite State.mem p s t

@[simp] theorem Memory.wf_ite (p : Prop) [Decidable p] (m m' : Memory) :
    Memory.wf (if p then m else m') = if p then m.wf else m'.wf := apply_ite Memory.wf p m m'

/-- Steps over a list that each leave memory as it is. -/
@[simp] theorem State.mem_foldl {α : Type} {f : State → α → State} (h : ∀ s x, (f s x).mem = s.mem) (xs : List α) (s : State) :
    (xs.foldl f s).mem = s.mem := foldl_keeps State.mem h xs s

/-- Steps over a list that each keep memory canonical. -/
theorem State.wf_foldl {α : Type} {f : State → α → State} (h : ∀ s x, s.mem.wf = true → (f s x).mem.wf = true) (xs : List α)
    (hs : s.mem.wf = true) : (xs.foldl f s).mem.wf = true := by
  induction xs generalizing s with
  | nil => exact hs
  | cons x xs ih => exact ih (h s x hs)

/-- What every step of a fold that can fail keeps holds of its result. -/
theorem foldlM_ok_keeps {α β ε : Type} {P : β → Prop} {f : β → α → Except ε β} (hf : ∀ b x c, P b → f b x = .ok c → P c)
    {xs : List α} {b c : β} (hb : P b) (h : xs.foldlM f b = .ok c) : P c := by
  induction xs generalizing b with
  | nil => cases h; exact hb
  | cons x xs ih =>
    rw [List.foldlM_cons] at h
    cases hx : f b x with
    | ok y => rw [hx] at h; exact ih (hf _ _ _ hb hx) h
    | error e => rw [hx] at h; cases h

/-- A body after which memory is canonical, where it was so before. -/
def Keeps {α : Type} (m : M α) : Prop := ∀ s, s.mem.wf = true → ∀ r, m s = .ok r → r.2.mem.wf = true

@[simp] theorem Keeps.ok {α : Type} {m : M α} {s t : State} {x : α} (hm : Keeps m) (hs : s.mem.wf = true) (h : m s = .ok (x, t)) :
    t.mem.wf = true := hm s hs (x, t) h

@[simp] theorem Keeps.pure {α : Type} (x : α) : Keeps (Pure.pure x : M α) := fun s hs r h => by cases h; exact hs

theorem Keeps.bind {α β : Type} {m : M α} {f : α → M β} (hm : Keeps m) (hf : ∀ x, Keeps (f x)) : Keeps (m >>= f) := fun s hs r h => by
  cases hx : m s with
  | ok y => exact hf y.1 y.2 (hm s hs y hx) r ((M.bind_ok hx).symm.trans h)
  | error e => rw [M.bind_error hx] at h; cases h

theorem Keeps.mods {f : State → State} (hf : ∀ s, s.mem.wf = true → (f s).mem.wf = true) : Keeps (Machine.mods f) :=
  fun s hs r h => by cases h; exact hf s hs

@[simp] theorem Keeps.gets {α : Type} (f : State → α) : Keeps (Machine.gets f) := fun s hs r h => by cases h; exact hs

/-- What a body reads of the state is of a canonical state. -/
theorem Keeps.gets_bind {α β : Type} {g : State → α} {f : α → M β} (hf : ∀ s, s.mem.wf = true → Keeps (f (g s))) :
    Keeps (Machine.gets g >>= f) := fun s hs r h => hf s hs s hs r ((M.bind_ok (gets_run g s)).symm.trans h)

theorem Keeps.runs {α : Type} {f : State → α × State} (hf : ∀ s, s.mem.wf = true → (f s).2.mem.wf = true) :
    Keeps (fun s => .ok (f s)) := fun s hs r h => by cases h; exact hf s hs

/-- The state that an optional step ends in, or the one that stands for its absence. -/
theorem State.mem_getD {o : Option State} {s : State} {m : Memory} (ho : ∀ t, o = some t → t.mem = m) (hs : s.mem = m) :
    (o.getD s).mem = m := by
  cases o with
  | none => exact hs
  | some t => exact ho t rfl

theorem Keeps.orFail {α : Type} {f : State → Except TFail (α × State)}
    (hf : ∀ s, s.mem.wf = true → ∀ r, f s = .ok r → r.2.mem.wf = true) : Keeps (Machine.orFail f) := fun s hs r h => by
  unfold Machine.orFail at h
  cases hr : f s with
  | ok r' => rw [hr] at h; cases h; exact hf s hs r hr
  | error e => rw [hr] at h; cases h

@[simp] theorem Keeps.fails {α : Type} {e : State → Stop} : Keeps (fun s => .error (e s) : M α) := fun s hs r h => by cases h

theorem Keeps.forM {α : Type} {f : α → M Unit} (hf : ∀ x, Keeps (f x)) (xs : List α) : Keeps (xs.forM f) := by
  induction xs with
  | nil => exact .pure ()
  | cons x xs ih => exact .bind (hf x) fun _ => ih

theorem Keeps.mapM {α β : Type} {f : α → M β} (hf : ∀ x, Keeps (f x)) (xs : List α) : Keeps (xs.mapM f) := by
  induction xs with
  | nil => exact .pure []
  | cons x xs ih =>
    rw [List.mapM_cons]
    exact .bind (hf x) fun _ => .bind ih fun _ => .pure _

theorem Keeps.foldlM {α β : Type} {f : β → α → M β} (hf : ∀ y x, Keeps (f y x)) (xs : List α) (y : β) : Keeps (xs.foldlM f y) := by
  induction xs generalizing y with
  | nil => exact .pure y
  | cons x xs ih => exact .bind (hf y x) fun y => ih y

theorem Keeps.ite {α : Type} {p : Prop} [Decidable p] {m m' : M α} (h : Keeps m) (h' : Keeps m') : Keeps (if p then m else m') := by
  split <;> assumption

@[simp] theorem Keeps.failWith {α : Type} (code : FaultCode) (x : Word) : Keeps (Machine.failWith code x : M α) := .fails
@[simp] theorem Keeps.illegal {α : Type} : Keeps (Machine.illegal : M α) := .fails
@[simp] theorem Keeps.waitFor {α : Type} (why : Stall) : Keeps (Machine.waitFor why : M α) := .fails
@[simp] theorem Keeps.waitQueue {α : Type} (why : Stall) (q : QWait) : Keeps (Machine.waitQueue why q : M α) := .fails

@[simp] theorem Keeps.me : Keeps Machine.me := .gets _
@[simp] theorem Keeps.myCore : Keeps Machine.myCore := .gets _
@[simp] theorem Keeps.myProc : Keeps Machine.myProc := .gets _
@[simp] theorem Keeps.modMe (f : Ctx → Ctx) : Keeps (Machine.modMe f) := .mods fun _ hs => hs
@[simp] theorem Keeps.modMyCore (f : Core → Core) : Keeps (Machine.modMyCore f) := .mods fun _ hs => hs
@[simp] theorem Keeps.modMyProc (f : Proc → Proc) : Keeps (Machine.modMyProc f) := .mods fun _ hs => hs
@[simp] theorem Keeps.setStatus (v : Word) : Keeps (Machine.setStatus v) := .modMe _
@[simp] theorem Keeps.require (ok : Bool) : Keeps (Machine.require ok) := .ite (.pure ()) .illegal
@[simp] theorem Keeps.guardFault (ok : Bool) (code : FaultCode) (x : Word) : Keeps (Machine.guardFault ok code x) :=
  .ite (.pure ()) (.failWith code x)

/-! The model's combinators keep memory canonical where the bodies they are given do. -/

@[simp] theorem Keeps.probe {α : Type} (m : M α) : Keeps (Machine.probe m) := fun s hs r h => by
  unfold Machine.probe at h
  split at h <;> cases h
  exact hs

@[simp] theorem Keeps.catchM {α : Type} {m : M α} (hm : Keeps m) : Keeps (Machine.catchM m) := fun s hs r h => by
  unfold Machine.catchM at h
  split at h <;> cases h
  · exact hm.ok hs (by assumption)
  · exact hs

@[simp] theorem Keeps.asEngine {α : Type} {m : M α} (kind : Nat) (va : Int) (hm : Keeps m) : Keeps (Machine.asEngine kind va m) :=
  fun s hs r h => by
    unfold Machine.asEngine at h
    split at h
    · cases h
    · exact hm s hs r h

@[simp] theorem Keeps.unlessPending {m : M Disp} (hm : Keeps m) : Keeps (Machine.unlessPending m) :=
  .bind .me fun _ => .ite (.waitFor _) hm

@[simp] theorem Keeps.runBeats {beats : Nat} {ready : State → Nat → Ready} {m : Nat → M Unit} (hm : ∀ b, Keeps (m b)) (fuel : Nat) :
    Keeps (Machine.runBeats beats ready m fuel) := by
  induction fuel with
  | zero => exact .pure _
  | succ fuel ih =>
    unfold Machine.runBeats
    refine .gets_bind fun s _ => ?_
    dsimp only
    repeat' split
    · exact .pure _
    · exact .pure _
    · exact .pure _
    · exact .bind (hm _) fun _ => .bind (.modMe _) fun _ => ih

/-- A body put together of parts that keep memory canonical. -/
theorem Keeps.body {α : Type} {m : M α} (h : Keeps m := by
    repeat' with_reducible (first
      | dsimp only
      | refine Keeps.gets_bind fun _ _ => ?_
      | refine Keeps.bind ?_ fun _ => ?_
      | refine Keeps.forM (fun _ => ?_) _
      | refine Keeps.mapM (fun _ => ?_) _
      | refine Keeps.foldlM (fun _ _ => ?_) _ _
      | refine Keeps.mods fun _ _ => ?_
      | refine Keeps.runs fun _ _ => ?_
      | refine Keeps.orFail fun _ _ => ?_
      | refine Keeps.catchM ?_
      | refine Keeps.asEngine _ _ ?_
      | refine Keeps.unlessPending ?_
      | refine Keeps.runBeats (fun _ => ?_) _
      | split)
    all_goals simp (maxDischargeDepth := 9) [*]) : Keeps m := h

end Basics

end Sys2Proof.Machine
end

section
/-!
SUPPORT. Canonical memory (O60): the rules of each part of the machine, up to the memory and translation.
A function that leaves the memory as it is has a lemma `mem_…`, one that may write it a lemma `wf_…`, a body a lemma `keeps_…`.
Equations that hold by computation are proved `by rfl` and not by the term `rfl`: `simp` applies them then as rewriting steps, which
`State.mem_foldl` needs where it discharges the equation of a step.
-/

-- `Keeps.body` runs a default tactic, which waits for all that stands before it: proofs of this section go one after another.
set_option Elab.async false

namespace Sys2Proof.Machine

/-! ## Ops: contexts, cores, faults and their messages -/

@[simp] theorem State.mem_takeFresh (s : State) : s.takeFresh.2.mem = s.mem := by rfl

@[simp] theorem State.mem_post (s : State) (part core source unit ctx faultc name : Nat) (ws : List Word) :
    (s.post part core source unit ctx faultc name ws).mem = s.mem := by
  rfl

@[simp] theorem State.mem_tellHost (s : State) (ws : List Word) : (s.tellHost ws).mem = s.mem := by rfl

@[simp] theorem State.mem_stall (s : State) (n k : Nat) (half : Half) (why : Stall) (q : Option QWait) :
    (s.stall n k half why q).mem = s.mem := by
  unfold State.stall
  dsimp only
  repeat' split
  all_goals simp

@[simp] theorem State.mem_sendPkt (s : State) (src dst part : Nat) (body : PBody) : (s.sendPkt src dst part body).mem = s.mem := by rfl
@[simp] theorem State.mem_injectPkt (s : State) (p : PodPacket) : (s.injectPkt p).mem = s.mem := by rfl

@[simp] theorem State.mem_sendTo (s : State) (core dev cluster part : Nat) (body : PBody) :
    (s.sendTo core dev cluster part body).mem = s.mem := by
  simp [State.sendTo]

@[simp] theorem State.mem_toHome (s : State) (core chid home part : Nat) (body : PBody) : (s.toHome core chid home part body).mem = s.mem := by
  simp [State.toHome]

@[simp] theorem State.mem_dropWatches (s : State) (n k : Nat) : (s.dropWatches n k).mem = s.mem := by
  unfold State.dropWatches
  dsimp only
  split <;> simp

@[simp] theorem State.mem_learn (s : State) (i : Nat) (k : Know) : (s.learn i k).mem = s.mem := by rfl
@[simp] theorem State.mem_enlist (s : State) (agent : Nat) : (s.enlist agent).mem = s.mem := by rfl
@[simp] theorem State.mem_dismiss (s : State) (agent : Nat) : (s.dismiss agent).mem = s.mem := by rfl

/-! ## Flags: flags and integer results -/

@[simp] theorem keeps_setFlags (f : BitVec 6) : Keeps (setFlags f) := by unfold setFlags; exact .body
@[simp] theorem State.mem_orPflags (s : State) (slot : Nat) (f : BitVec 6) : (s.orPflags slot f).mem = s.mem := by rfl

/-! ## PoolBytes: the bytes of a pool -/

@[simp] theorem State.mem_reply (s : State) (core ctx : Nat) (far : Option (Nat × Nat)) (part : Nat) (r : Reply) :
    (s.reply core ctx far part r).mem = s.mem := by
  unfold State.reply
  split <;> simp

@[simp] theorem State.mem_endPadWatches (s : State) (core lo n : Nat) : (s.endPadWatches core lo n).mem = s.mem := by
  simp [State.endPadWatches]

/-! ## Rollback: tags, job records and rollback -/

@[simp] theorem State.mem_withdrawOne (s : State) (n : Nat) (x : OutEntry) : (s.withdrawOne n x).mem = s.mem := by
  unfold State.withdrawOne
  split <;> simp

@[simp] theorem State.mem_dropOutbox (s : State) (n k : Nat) : (s.dropOutbox n k).mem = s.mem := by simp [State.dropOutbox]
@[simp] theorem State.mem_restoreUndo (s : State) (n k : Nat) : (s.restoreUndo n k).mem = s.mem := by simp [State.restoreUndo]
@[simp] theorem State.mem_freeCtx (s : State) (n k : Nat) : (s.freeCtx n k).mem = s.mem := by rfl

@[simp] theorem State.mem_redeliverData (s : State) (a : Activation) (m : Msg) : (s.redeliverData a m).mem = s.mem := by
  unfold State.redeliverData
  dsimp only
  split <;> simp

@[simp] theorem State.mem_redeliver (s : State) (a : Activation) (know : Know) : (s.redeliver a know).mem = s.mem := by
  unfold State.redeliver
  dsimp only
  repeat' split
  all_goals simp

@[simp] theorem State.mem_rollback (s : State) (n k : Nat) : (s.rollback n k).mem = s.mem := by
  unfold State.rollback
  dsimp only
  split <;> simp

@[simp] theorem State.mem_rerun (s : State) (n k : Nat) : (s.rerun n k).mem = s.mem := by unfold State.rerun; split <;> simp
@[simp] theorem State.mem_noteError (s : State) (n : Nat) : (s.noteError n).mem = s.mem := by rfl

@[simp] theorem State.mem_hardwareError (s : State) (n k kind : Nat) : (s.hardwareError n k kind).mem = s.mem := by
  simp [State.hardwareError]

/-! ## Half: how an instruction meets its half -/

@[simp] theorem State.mem_retireA (s : State) (pc : Nat) : (s.retireA pc).mem = s.mem := by simp [State.retireA]
@[simp] theorem State.mem_finishA (s : State) (d : Disp) : (s.finishA d).mem = s.mem := by unfold State.finishA; split <;> simp
@[simp] theorem State.mem_noteReplay (s : State) : s.noteReplay.mem = s.mem := by simp [State.noteReplay]
@[simp] theorem State.mem_retireE (s : State) : s.retireE.mem = s.mem := by simp [State.retireE]
@[simp] theorem State.mem_finishE (s : State) (d : Disp) : (s.finishE d).mem = s.mem := by unfold State.finishE; split <;> simp

theorem wf_runE {i : Instr} {body : Hints → M Disp} {s : State} (hb : ∀ g, Keeps (body g)) (h : s.mem.wf = true) :
    (runE i body s).mem.wf = true := by
  unfold runE
  dsimp only
  repeat' split
  any_goals simp [h]
  exact (hb _).ok h (by assumption)

@[simp] theorem State.mem_routineE (s : State) (n k : Nat) (i : Instr) : (s.routineE n k i).mem = s.mem := by simp [State.routineE]

/-! ## Operands: operands of the A half -/

@[simp] theorem keeps_readA (r : BitVec 5) : Keeps (readA r) := by unfold readA; exact .body
@[simp] theorem keeps_pushQ2 (v : Word) : Keeps (pushQ2 v) := by unfold pushQ2; exact .body
@[simp] theorem keeps_writeA (r : BitVec 5) (v : Word) : Keeps (writeA r v) := by unfold writeA; exact .body
@[simp] theorem keeps_regAt (b : BitVec 5) (k : Nat) : Keeps (regAt b k) := by unfold regAt; exact .body

@[simp] theorem keeps_regsAt (b : BitVec 5) (j k : Nat) : Keeps (regsAt b j k) := by
  induction k generalizing j with
  | zero => exact .pure []
  | succ k ih => unfold regsAt; exact .body

@[simp] theorem keeps_writeRegs (b : BitVec 5) (j : Nat) (xs : List Word) : Keeps (writeRegs b j xs) := by
  induction xs generalizing j with
  | nil => exact .pure ()
  | cons x xs ih => unfold writeRegs; exact .body

@[simp] theorem keeps_checkTarget (t : Int) : Keeps (checkTarget t) := by unfold checkTarget; exact .body
@[simp] theorem keeps_branchTarget (disp : Int) : Keeps (branchTarget disp) := by unfold branchTarget; exact .body
@[simp] theorem keeps_registerTarget (t : Word) : Keeps (registerTarget t) := by unfold registerTarget; exact .body
@[simp] theorem keeps_readBox (b : BitVec 5) : Keeps (readBox b) := by unfold readBox; exact .body

/-! ## Scalar: the shapes of scalar instructions -/

@[simp] theorem keeps_alu3 (d s t : BitVec 5) (f : Word → Word → Word) : Keeps (alu3 d s t f) := by unfold alu3; exact .body
@[simp] theorem keeps_alu2 (d s : BitVec 5) (f : Word → Word) : Keeps (alu2 d s f) := by unfold alu2; exact .body
@[simp] theorem keeps_alu3f (d s t : BitVec 5) (f : Word → Word → Word × BitVec 6) : Keeps (alu3f d s t f) := by unfold alu3f; exact .body
@[simp] theorem keeps_alu2f (d s : BitVec 5) (f : Word → Word × BitVec 6) : Keeps (alu2f d s f) := by unfold alu2f; exact .body

@[simp] theorem keeps_insertForm (d s : BitVec 5) (t : Option (BitVec 5)) (pos width : Nat) : Keeps (insertForm d s t pos width) := by
  unfold insertForm
  exact .body

/-! ## Branch: branch targets -/

@[simp] theorem keeps_branch2 (s t : BitVec 5) (disp : BitVec 16) (cond : Word → Word → Bool) : Keeps (branch2 s t disp cond) := by
  unfold branch2
  exact .body

@[simp] theorem keeps_linkValue  : Keeps (linkValue ) := by unfold linkValue; exact .body

/-! ## System: system registers -/

@[simp] theorem keeps_olderE  : Keeps (olderE ) := by unfold olderE; exact .body
@[simp] theorem keeps_setNbr (k : Fin 4) (v : Word) : Keeps (setNbr k v) := by unfold setNbr; exact .body
@[simp] theorem keeps_writePartw (v : Word) : Keeps (writePartw v) := by unfold writePartw; exact .body
@[simp] theorem keeps_writeSys (x : Nat) (v : Word) : Keeps (writeSys x v) := by unfold writeSys; exact .body
@[simp] theorem keeps_needRoutine (i : Instr) : Keeps (needRoutine i) := by unfold needRoutine; exact .body

/-! ## Slice: slices and windows -/

@[simp] theorem State.mem_wakeDevice (s : State) : s.wakeDevice.mem = s.mem := by simp [State.wakeDevice]

@[simp] theorem State.mem_closeOver (s : State) (h : Home) (line : Nat) : (s.closeOver h line).mem = s.mem := by
  unfold State.closeOver
  split <;> simp

@[simp] theorem State.mem_joinWindow (s : State) (h : Home) (line part cluster : Nat) : (s.joinWindow h line part cluster).mem = s.mem := by
  unfold State.joinWindow
  dsimp only
  repeat' split
  all_goals simp

@[simp] theorem State.mem_tick (s : State) (die : Nat) : (s.tick die).mem = s.mem := by rfl

@[simp] theorem State.mem_invalidateCopies (s : State) (line home : Nat) (updates : Option Nat) :
    (s.invalidateCopies line home updates).mem = s.mem := by
  simp [State.invalidateCopies]

@[simp] theorem State.mem_readLine (s : State) (line part cluster cache : Nat) (combines : Bool) :
    (s.readLine line part cluster cache combines).mem = s.mem := by
  simp [State.readLine]

@[simp] theorem State.mem_writeLine (s : State) (line part srcDie cache : Nat) (isStore : Bool) :
    (s.writeLine line part srcDie cache isStore).mem = s.mem := by
  simp [State.writeLine]

@[simp] theorem State.mem_pinLine (s : State) (h : Home) (line : Nat) : (s.pinLine h line).1.mem = s.mem := by
  unfold State.pinLine
  dsimp only
  repeat' split
  all_goals simp

@[simp] theorem State.mem_unpinLine (s : State) (h : Home) (line : Nat) : (s.unpinLine h line).mem = s.mem := by
  unfold State.unpinLine
  dsimp only
  split <;> simp

/-! ## Phys: physical memory -/

@[simp] theorem State.mem_endWatches (s : State) (line : Nat) : (s.endWatches line).mem = s.mem := by simp [State.endWatches]

@[simp] theorem State.wf_markDirty (s : State) (a : Nat) (h : s.mem.wf = true) : (s.markDirty a).mem.wf = true := by
  unfold State.markDirty; split <;> simp [h, wf_writeByte]

@[simp] theorem State.wf_copyGranule (s : State) (p g : Nat) (h : s.mem.wf = true) : (s.copyGranule p g).mem.wf = true := by
  unfold State.copyGranule; split <;> simp [h, wf_writeBytes]

@[simp] theorem State.wf_drainStaging (s : State) (p : Nat) (h : s.mem.wf = true) : (s.drainStaging p).mem.wf = true := by
  unfold State.drainStaging
  repeat' split
  · exact h
  · exact State.wf_foldl (fun s g hs => s.wf_copyGranule p g hs) _ h
  · exact h

@[simp] theorem State.wf_stage (s : State) (a : Nat) (h : s.mem.wf = true) : (s.stage a).mem.wf = true := by
  unfold State.stage
  dsimp only
  repeat' split
  all_goals simp (maxDischargeDepth := 9) [h, wf_writeBytes]

@[simp] theorem State.mem_markWord (s : State) (w : Writer) (count word : Nat) : (s.markWord w count word).mem = s.mem := by
  unfold State.markWord
  split <;> simp

@[simp] theorem State.mem_stamp (s : State) (w : Writer) : (s.stamp w).2.mem = s.mem := by unfold State.stamp; split <;> simp
@[simp] theorem State.mem_coverLine (s : State) (line : Nat) : (s.coverLine line).mem = s.mem := by rfl

@[simp] theorem State.mem_crossLines (s : State) (w : Writer) (ls : List Nat) : (s.crossLines w ls).mem = s.mem := by
  simp [State.crossLines]

@[simp] theorem State.wf_write (s : State) (w : Writer) (a : Nat) (bs : List Byte) (h : s.mem.wf = true) :
    (s.write w a bs).mem.wf = true := by
  unfold State.write
  have hs : (s.stamp w).2.mem.wf = true := by simpa using h
  dsimp only
  split
  · simpa using hs
  · have hstaged : ((dirtyGranules a bs.length).foldl (fun s g => (s.stage g).markDirty g) (s.stamp w).2).mem.wf = true :=
      State.wf_foldl (fun s g hs => by simp [hs]) _ hs
    simp [wf_writeKept, hstaged]

@[simp] theorem State.mem_settleFar (s : State) (agent : Nat) : (s.settleFar agent).mem = s.mem := by rfl

@[simp] theorem State.mem_read (s : State) (agent part cluster cache : Nat) (combines : Bool) (a n : Nat) :
    (s.read agent part cluster cache combines a n).2.mem = s.mem := by
  simp [State.read]

@[simp] theorem State.wf_outWrite (s : State) (w : Writer) (a : Nat) (bs : List Byte) (h : s.mem.wf = true) :
    (s.outWrite w a bs).mem.wf = true := by
  simp [State.outWrite, wf_writeBytes, h]

@[simp] theorem State.mem_outRead (s : State) (agent a n : Nat) : (s.outRead agent a n).2.mem = s.mem := by simp [State.outRead]

@[simp] theorem State.wf_outsideWrite (s : State) (a : Nat) (bs : List Byte) (h : s.mem.wf = true) :
    (s.outsideWrite a bs).mem.wf = true := by
  unfold State.outsideWrite; split <;> simp [h, wf_writeBytes]

theorem State.mem_scopeCheck {s t : State} {a va scope dev core ctx : Nat} (h : s.scopeCheck a va scope dev core ctx = .ok t) :
    t.mem = s.mem := by
  unfold State.scopeCheck at h
  dsimp only at h
  repeat' split at h
  all_goals cases h <;> rfl

/-! ## Translate: translation -/

@[simp] theorem State.mem_takeFree (s : State) : s.takeFree.2.mem = s.mem := by rfl

@[simp] theorem State.mem_chooseVictim (s : State) (full : Bool) : (s.chooseVictim full).2.mem = s.mem := by
  unfold State.chooseVictim
  split <;> simp

@[simp] theorem State.mem_installLeaf (s : State) (cluster : Nat) (core : Option Nat) (t : TlbEntry) :
    (s.installLeaf cluster core t).mem = s.mem := by
  unfold State.installLeaf
  split <;> simp

@[simp] theorem State.mem_installUpper (s : State) (cluster : Nat) (us : List (Nat × Nat × Nat × Nat)) :
    (s.installUpper cluster us).mem = s.mem := by
  simp [State.installUpper]

@[simp] theorem State.wf_setPte (s : State) (part cluster a bits : Nat) (h : s.mem.wf = true) :
    (s.setPte part cluster a bits).mem.wf = true := by
  simp [State.setPte, h]

@[simp] theorem State.wf_setDirt (s : State) (part cluster : Nat) (d : Nat × Nat) (h : s.mem.wf = true) :
    (s.setDirt part cluster d).mem.wf = true := State.wf_foldl (fun s k hs => by simp [hs]) _ h

@[simp] theorem State.wf_finishWalk (s : State) (cluster : Nat) (core : Option Nat) (part : Nat) (isWrite : Bool) (w : Walked)
    (h : s.mem.wf = true) : (s.finishWalk cluster core part isWrite w).mem.wf = true := by
  have hpath : (w.path.foldl (fun s a => s.setPte part cluster a pteA) (s.walkLoads part (s.unpoisoned w.reads))).mem.wf = true :=
    State.wf_foldl (fun s a hs => by simp [hs]) _ (by simpa using h)
  simp [State.finishWalk, hpath]

@[simp] theorem State.wf_useHit (s : State) (x : Access) (t : TlbEntry) (h : s.mem.wf = true) : (s.useHit x t).mem.wf = true := by
  unfold State.useHit
  split <;> simp (maxDischargeDepth := 9) [h]

@[simp] theorem State.mem_forget (s : State) (x : Access) : (s.forget x).mem = s.mem := by unfold State.forget; split <;> simp

theorem State.wf_translateWalk {s : State} {x : Access} {r : Nat × State} (h : s.mem.wf = true) (hr : s.translateWalk x = .ok r) :
    r.2.mem.wf = true := by
  unfold State.translateWalk at hr
  repeat' split at hr
  all_goals cases hr
  exact s.wf_finishWalk _ _ _ _ _ h

theorem State.wf_translate {s : State} {x : Access} {r : Nat × State} (h : s.mem.wf = true) (hr : s.translate x = .ok r) :
    r.2.mem.wf = true := by
  unfold State.translate at hr
  repeat' split at hr
  · cases hr
  · exact State.wf_translateWalk (by simpa using h) hr
  · cases hr
  · cases hr; exact s.wf_useHit _ _ h
  · exact State.wf_translateWalk h hr

@[simp] theorem State.mem_lostBy (s : State) (part cluster : Nat) (f : TFail) : (s.lostBy part cluster f).mem = s.mem := by
  simp [State.lostBy]

theorem State.wf_translateFor {s : State} {x : Access} {space : Nat} {r : Nat × State} (h : s.mem.wf = true)
    (hr : s.translateFor x space = .ok r) : r.2.mem.wf = true := by
  unfold State.translateFor at hr
  repeat' split at hr
  all_goals cases hr
  exact State.wf_translate h (by assumption)

/-! ## Pool: the core pool -/

@[simp] theorem State.mem_poolWrite (s : State) (core off : Nat) (bs : List Byte) (ty : Nat) (know : Know) :
    (s.poolWrite core off bs ty know).mem = s.mem := by
  simp [State.poolWrite]

@[simp] theorem State.mem_poolRaw (s : State) (core off : Nat) (bs : List Byte) : (s.poolRaw core off bs).mem = s.mem := by rfl
@[simp] theorem State.mem_setTag (s : State) (core g : Nat) (t : BitVec 5) : (s.setTag core g t).mem = s.mem := by rfl
@[simp] theorem State.mem_logChunk (s : State) (n k chunk : Nat) : (s.logChunk n k chunk).mem = s.mem := by simp [State.logChunk]
@[simp] theorem State.mem_logUndo (s : State) (off n : Nat) : (s.logUndo off n).mem = s.mem := by simp [State.logUndo]
@[simp] theorem State.mem_setUnroll (s : State) : s.setUnroll.mem = s.mem := by rfl

/-! ## Access: accesses through layouts -/

@[simp] theorem keeps_elemOffsetFrom (e : BitVec 512) (i : Nat) (cs : List Int) (off : Int) (cl : Bool) :
    Keeps (elemOffsetFrom e i cs off cl) := by
  induction cs generalizing i off cl with
  | nil => exact .pure _
  | cons c cs ih => unfold elemOffsetFrom; exact .body

@[simp] theorem keeps_elemOffset (e : BitVec 512) (cs : List Int) : Keeps (elemOffset e cs) := by unfold elemOffset; exact .body

@[simp] theorem keeps_translateM (c : Client) (space kind : Nat) (a : Int) : Keeps (translateM c space kind a) := by
  refine .ite (.failWith _ _) (.orFail fun s hs r hr => ?_)
  cases ht : s.translateFor (c.access kind a.toNat) space with
  | ok q => rw [ht] at hr; cases hr; exact State.wf_translateFor hs ht
  | error e => rw [ht] at hr; cases hr

@[simp] theorem keeps_checkRight (e : BitVec 512) (kind : Nat) (a : Int) : Keeps (checkRight e kind a) := by unfold checkRight; exact .body

@[simp] theorem keeps_poolPlace (c : Client) (lid : Nat) (e : BitVec 512) (a : Int) : Keeps (poolPlace c lid e a) := by
  unfold poolPlace
  exact .body

@[simp] theorem keeps_placesFrom (c : Client) (lid : Nat) (e : BitVec 512) (kind : Nat) (ro : Bool) (page : Option (Int × Nat))
    (as : List Int) : Keeps (placesFrom c lid e kind ro page as) := by
  induction as generalizing page with
  | nil => exact .pure []
  | cons a as ih => unfold placesFrom; exact .body

@[simp] theorem keeps_placesOf (c : Client) (lid : Nat) (e : BitVec 512) (kind : Nat) (ro : Bool) (as : List Int) :
    Keeps (placesOf c lid e kind ro as) := by
  unfold placesOf
  exact .body

@[simp] theorem keeps_countOut (c : Client) : Keeps (countOut c) := by unfold countOut; exact .body

@[simp] theorem State.mem_roLine (s : State) (agent part cluster cache line : Nat) :
    (s.roLine agent part cluster cache line).2.mem = s.mem := by
  unfold State.roLine
  dsimp only
  repeat' split
  all_goals simp

@[simp] theorem State.mem_roRead (s : State) (agent part cluster cache a n : Nat) :
    (s.roRead agent part cluster cache a n).2.mem = s.mem :=
  foldl_keeps (fun r : List Byte × State => r.2.mem) (fun r line => by simp) _ _

@[simp] theorem keeps_loadRun (c : Client) (ty : Nat) (r : Loc × Nat) : Keeps (loadRun c ty r) := by unfold loadRun; exact .body
@[simp] theorem keeps_loadLocs (c : Client) (ty : Nat) (ls : List Loc) : Keeps (loadLocs c ty ls) := by unfold loadLocs; exact .body

@[simp] theorem keeps_storeRun (c : Client) (ty : Nat) (l : Loc) (bs : List Byte) : Keeps (storeRun c ty l bs) := by
  unfold storeRun
  exact .body

@[simp] theorem keeps_storeRuns (c : Client) (ty : Nat) (rs : List (Loc × Nat)) (bs : List Byte) : Keeps (storeRuns c ty rs bs) := by
  induction rs generalizing bs with
  | nil => exact .pure ()
  | cons r rs ih => unfold storeRuns; exact .body

@[simp] theorem keeps_storeLocs (c : Client) (ty : Nat) (ls : List Loc) (bs : List Byte) : Keeps (storeLocs c ty ls bs) := by
  unfold storeLocs
  exact .body

@[simp] theorem keeps_elemReadPlaces (c : Client) (lid : Nat) (e : BitVec 512) (ro : Bool) (o : ElemOff) :
    Keeps (elemReadPlaces c lid e ro o) := by
  unfold elemReadPlaces
  exact .body

@[simp] theorem keeps_elemWritePlaces (c : Client) (lid : Nat) (e : BitVec 512) (o : ElemOff) : Keeps (elemWritePlaces c lid e o) := by
  unfold elemWritePlaces
  exact .body

@[simp] theorem keeps_readElem (c : Client) (lid : Nat) (e : BitVec 512) (ro : Bool) (o : ElemOff) : Keeps (readElem c lid e ro o) := by
  unfold readElem
  exact .body

@[simp] theorem keeps_writeParts (c : Client) (lid : Nat) (e : BitVec 512) (p : ElemOff × Nat) : Keeps (writeParts c lid e p) := by
  unfold writeParts
  exact .body

@[simp] theorem keeps_storeParts (c : Client) (ty : Nat) (ps : List (Loc × Nat × Nat)) : Keeps (storeParts c ty ps) := by
  unfold storeParts
  exact .body

@[simp] theorem keeps_scalePlaces (c : Client) (lid : Nat) (e : BitVec 512) (o : ElemOff) : Keeps (scalePlaces c lid e o) := by
  unfold scalePlaces
  exact .body

@[simp] theorem keeps_readScale (c : Client) (lid : Nat) (e : BitVec 512) (o : ElemOff) : Keeps (readScale c lid e o) := by
  unfold readScale
  exact .body

@[simp] theorem keeps_writeScale (c : Client) (lid : Nat) (e : BitVec 512) (o : ElemOff) (x : Nat) : Keeps (writeScale c lid e o x) := by
  unfold writeScale
  exact .body

/-! ## DevReg: device registers -/

@[simp] theorem State.mem_modObs (s : State) (p : Nat) (f : Observe → Observe) : (s.modObs p f).mem = s.mem := by rfl

@[simp] theorem State.mem_startInval (s : State) (d : Nat) (va v : Word) : (s.startInval d va v).mem = s.mem := by
  unfold State.startInval
  dsimp only
  repeat' split
  all_goals simp

@[simp] theorem State.mem_writeTinvc (s : State) (d : Nat) (v : Word) : (s.writeTinvc d v).mem = s.mem := by simp [State.writeTinvc]

@[simp] theorem State.mem_startHeld' (s : State) (d : Nat) (hs : List (Word × Word)) : (s.startHeld d hs).mem = s.mem := by
  induction hs generalizing s with
  | nil => rfl
  | cons x xs ih => unfold State.startHeld; simp [ih]

@[simp] theorem State.mem_finishInval (s : State) (d : Nat) : (s.finishInval d).mem = s.mem := by simp [State.finishInval]

@[simp] theorem State.mem_devWrite (s : State) (v : Word) (x : DevReg) : (s.devWrite v x).mem = s.mem := by
  unfold State.devWrite
  split <;> simp

@[simp] theorem keeps_devViolation {α : Type} (kind va level : Nat) : Keeps (devViolation kind va level : M α) := .failWith _ _
@[simp] theorem keeps_devLoad (c : Client) (va off n : Nat) : Keeps (devLoad c va off n) := by unfold devLoad; exact .body
@[simp] theorem keeps_devStore (c : Client) (va off n x : Nat) : Keeps (devStore c va off n x) := by unfold devStore; exact .body

@[simp] theorem State.wf_ringRecord (s : State) (p : Nat) (isEvent : Bool) (know : Know) (ws : List Word) (h : s.mem.wf = true) :
    (s.ringRecord p isEvent know ws).mem.wf = true := by
  simp [State.ringRecord, h]

@[simp] theorem State.wf_eventRecord (s : State) (p source kind name core : Nat) (w2 w3 : Word) (know : optParam Know [])
    (h : s.mem.wf = true) : (s.eventRecord p source kind name core w2 w3 know).mem.wf = true := by
  simp [State.eventRecord, h]

@[simp] theorem State.mem_rowWrite (s : State) (r : DevReg) (v : Word) : (s.rowWrite r v).mem = s.mem := by simp [State.rowWrite]

/-! ## Remote: remote accesses at their source -/

@[simp] theorem State.mem_sendMarkers (s : State) (n k part prio : Nat) : (s.sendMarkers n k part prio).mem = s.mem := by
  simp [State.sendMarkers]

@[simp] theorem State.mem_countMismatch (s : State) (n k : Nat) (x : Word) : (s.countMismatch n k x).mem = s.mem := by
  unfold State.countMismatch
  dsimp only
  split <;> simp

@[simp] theorem keeps_podRelease  : Keeps (podRelease ) := by unfold podRelease; exact .body
@[simp] theorem keeps_release (scope : Nat) : Keeps (release scope) := by unfold release; exact .body

@[simp] theorem keeps_sendStore (dev spread : Nat) (stamp : Option (List Nat)) (scope va : Nat) (bs : List Byte) :
    Keeps (sendStore dev spread stamp scope va bs) := by
  unfold sendStore
  exact .body

@[simp] theorem keeps_remoteFence (dev spread va : Nat) (bs : List Byte) : Keeps (remoteFence dev spread va bs) := by
  unfold remoteFence
  exact .body

@[simp] theorem keeps_remoteStore (dev spread : Nat) (ord : Bool) (scope va : Nat) (bs : List Byte) :
    Keeps (remoteStore dev spread ord scope va bs) := by
  unfold remoteStore
  exact .body

@[simp] theorem State.mem_sendGather (s : State) (p : PodPacket) (spread id scope : Nat) (g : Gather) :
    (s.sendGather p spread id scope g).mem = s.mem := by
  simp [State.sendGather]

@[simp] theorem keeps_sendRequest {p : Pend} {why : Stall} {send : Nat → State → State}
    (hsend : ∀ id s, (send id s).mem = s.mem) : Keeps (sendRequest p why send) :=
  .bind (.mods fun s hs => by simp [hsend, hs]) fun _ => .pure _

/-! ## LoadStore: loads and stores -/

@[simp] theorem keeps_useLayout (lid : Nat) : Keeps (useLayout lid) := by unfold useLayout; exact .body
@[simp] theorem keeps_coordsAt (i : Instr) (c : BitVec 5) (rank : Nat) : Keeps (coordsAt i c rank) := by unfold coordsAt; exact .body
@[simp] theorem keeps_poolOrder (e : BitVec 512) : Keeps (poolOrder e) := by unfold poolOrder; exact .body

@[simp] theorem keeps_scopeM (ls : List Loc) (va scope : Nat) : Keeps (scopeM ls va scope) := by
  unfold scopeM
  split
  · split
    · intro s hs r hr
      refine foldlM_ok_keeps (P := fun u : Unit × State => u.2.mem.wf = true) (fun u line v hu hv => ?_) hs hr
      split at hv <;> cases hv
      next hc => rw [State.mem_scopeCheck hc]; exact hu
    · exact .pure ()
  · exact .pure ()

@[simp] theorem keeps_remoteScope (e : BitVec 512) (sync : Bool) (h : Hints) : Keeps (remoteScope e sync h) := by
  unfold remoteScope
  exact .body

@[simp] theorem keeps_remoteAddr (e : BitVec 512) (a : Int) : Keeps (remoteAddr e a) := by unfold remoteAddr; exact .body
@[simp] theorem keeps_giveLoaded (d : BitVec 5) (ty raw : Nat) : Keeps (giveLoaded d ty raw) := by unfold giveLoaded; exact .body
@[simp] theorem State.mem_reserve (s : State) (n ty id : Nat) : (s.reserve n ty id).mem = s.mem := by rfl
@[simp] theorem keeps_loadRoom (d : BitVec 5) : Keeps (loadRoom d) := by unfold loadRoom; exact .body

@[simp] theorem keeps_loadAt (d : BitVec 5) (lid ty : Nat) (e : BitVec 512) (acq ro : Bool) (h : Hints) (o : ElemOff) :
    Keeps (loadAt d lid ty e acq ro h o) := by
  unfold loadAt
  exact .body

@[simp] theorem keeps_loadBody (i : Instr) (d c : BitVec 5) (L : BitVec 8) (t : BitVec 4) (acq ro : Bool) (h : Hints) :
    Keeps (loadBody i d c L t acq ro h) := by
  unfold loadBody
  exact .body

@[simp] theorem keeps_popQ1 (ty : Nat) : Keeps (popQ1 ty) := by unfold popQ1; exact .body
@[simp] theorem keeps_storeData (d : BitVec 5) (ty : Nat) : Keeps (storeData d ty) := by unfold storeData; exact .body
@[simp] theorem keeps_devWriteAll (c : Client) (va off n x : Nat) : Keeps (devWriteAll c va off n x) := by unfold devWriteAll; exact .body
@[simp] theorem keeps_storeFence (e : BitVec 512) (ty : Nat) (o : ElemOff) : Keeps (storeFence e ty o) := by unfold storeFence; exact .body

@[simp] theorem keeps_storeAt (lid ty : Nat) (e : BitVec 512) (rel : Bool) (h : Hints) (o : ElemOff) (v : Nat) :
    Keeps (storeAt lid ty e rel h o v) := by
  unfold storeAt
  exact .body

@[simp] theorem keeps_remoteParts (c : Client) (e : BitVec 512) (o : ElemOff) (code : Nat) : Keeps (remoteParts c e o code) := by
  unfold remoteParts
  exact .body

@[simp] theorem State.mem_sendParts (s : State) (dev spread core ctx name part prio : Nat) (stamp : Option (List Nat))
    (engine : Bool) (ps : List BytePart) : (s.sendParts dev spread core ctx name part prio stamp engine ps).mem = s.mem := by
  simp [State.sendParts]

@[simp] theorem keeps_boxInRange (b : Box) : Keeps (boxInRange b) := by unfold boxInRange; exact .body
@[simp] theorem keeps_queueBox (b : Box) : Keeps (queueBox b) := by unfold queueBox; exact .body
@[simp] theorem keeps_devElem (c : Client) (va : Nat) (ls : List Loc) : Keeps (devElem c va ls) := by unfold devElem; exact .body

@[simp] theorem keeps_checkCode (k ty code : Nat) (nanBlock : Bool) : Keeps (checkCode k ty code nanBlock) := by
  unfold checkCode
  exact .body

@[simp] theorem keeps_boxElem (c : Client) (b : Box) (k : Nat) : Keeps (boxElem c b k) := by unfold boxElem; exact .body
@[simp] theorem keeps_remoteElem (c : Client) (e : BitVec 512) (o : ElemOff) : Keeps (remoteElem c e o) := by unfold remoteElem; exact .body
@[simp] theorem keeps_remoteScaleElem (e : BitVec 512) (o : ElemOff) : Keeps (remoteScaleElem e o) := by unfold remoteScaleElem; exact .body

@[simp] theorem keeps_remoteWants (c : Client) (b : Box) (first n : Nat) : Keeps (remoteWants c b first n) := by
  unfold remoteWants
  exact .body

@[simp] theorem keeps_remoteLdq (b : Box) : Keeps (remoteLdq b) := by unfold remoteLdq; exact .body
@[simp] theorem keeps_hostOrder (e : BitVec 512) : Keeps (hostOrder e) := by unfold hostOrder; exact .body

@[simp] theorem keeps_stqStrip (c : Client) (b : Box) (x : BitVec 512) (j : Nat) : Keeps (stqStrip c b x j) := by
  unfold stqStrip
  exact .body

@[simp] theorem keeps_remoteStqElem (b : Box) (x : BitVec 512) (j k : Nat) : Keeps (remoteStqElem b x j k) := by
  unfold remoteStqElem
  exact .body

@[simp] theorem keeps_stqFence (b : Box) : Keeps (stqFence b) := by
  unfold stqFence
  refine .bind .me fun m => .bind (.probe _) fun parts => ?_
  dsimp only
  split
  · exact keeps_podRelease
  · exact .pure _

@[simp] theorem wf_prefElem (c : Client) (b : Box) (ro : Bool) (k : Nat) (s : State) (h : s.mem.wf = true) :
    (prefElem c b ro k s).mem.wf = true := by
  unfold prefElem
  extract_lets go
  have hgo : Keeps go := by simp only [go]; exact .body
  split
  · exact hgo.ok h (by assumption)
  · simp [h]
  · exact h

/-! ## Atomics: atomics and replies -/

@[simp] theorem State.wf_atomicAt (s : State) (i : Issuer) (a : Nat) (x : AtomicOp) (h : s.mem.wf = true) :
    (s.atomicAt i a x).2.mem.wf = true := by
  unfold State.atomicAt
  dsimp only
  repeat' split
  all_goals simp (maxDischargeDepth := 9) [h]

@[simp] theorem State.mem_atomicPad (s : State) (i : Issuer) (core off : Nat) (x : AtomicOp) : (s.atomicPad i core off x).2.mem = s.mem := by
  unfold State.atomicPad
  dsimp only
  repeat' split
  all_goals simp

@[simp] theorem keeps_giveAtomic (d : BitVec 5) (op : Nat) (v : Word) (status : Nat) : Keeps (giveAtomic d op v status) := by
  unfold giveAtomic
  exact .body

@[simp] theorem keeps_finishAtomic (x : AtomInstr) (ty : Nat) (raw : List Word) (o : AtomicOut) : Keeps (finishAtomic x ty raw o) := by
  unfold finishAtomic
  exact .body

@[simp] theorem keeps_atomAccess (x : AtomInstr) (e : BitVec 512) (off : Int) (h : Hints) (raw : List Word) (v cmp : Nat) :
    Keeps (atomAccess x e off h raw v cmp) := by
  unfold atomAccess
  exact .body

@[simp] theorem keeps_atomBody (i : Instr) (x : AtomInstr) (h : Hints) : Keeps (atomBody i x h) := by unfold atomBody; exact .body
@[simp] theorem keeps_fillFor (id : Nat) (xs : List (BitVec 512)) : Keeps (fillFor id xs) := by unfold fillFor; exact .body
@[simp] theorem keeps_giveStrips (p : Pend) (codes : List Nat) : Keeps (giveStrips p codes) := by unfold giveStrips; exact .body
@[simp] theorem keeps_giveReply (p : Pend) (r : Reply) : Keeps (giveReply p r) := by unfold giveReply; exact .body

@[simp] theorem State.wf_takeReply (s : State) (p : Pend) (r : Reply) (h : s.mem.wf = true) : (s.takeReply p r).mem.wf = true := by
  unfold State.takeReply
  dsimp only
  repeat' split
  any_goals simp [h]
  exact (keeps_giveReply p r).ok (s := s.modActor fun c => { c with pend := none }) h (by assumption)

@[simp] theorem State.mem_rowReply (s : State) (r : AtomicOut × State) : (s.rowReply r).mem = r.2.mem := by
  unfold State.rowReply; split <;> simp

theorem State.mem_expireWatch {s : State} {word : Watch → Nat} {after : Watch → Know} {ws : List Watch} {r : List Watch × State}
    (h : s.expireWatch word after ws = some r) : r.2.mem = s.mem := by
  unfold State.expireWatch at h
  split at h <;> cases h
  simp

end Sys2Proof.Machine
end

section
/-!
SUPPORT. Canonical memory (O60): the rules of channels, barriers, engines and vector units.
A function that leaves the memory as it is has a lemma `mem_…`, one that may write it a lemma `wf_…`, a body a lemma `keeps_…`.
Equations that hold by computation are proved `by rfl` and not by the term `rfl`: `simp` applies them then as rewriting steps, which
`State.mem_foldl` needs where it discharges the equation of a step.
-/

-- `Keeps.body` runs a default tactic, which waits for all that stands before it: proofs of this section go one after another.
set_option Elab.async false

namespace Sys2Proof.Machine

/-! ## Chan: channels -/

@[simp] theorem State.mem_sendEvent (s : State) (core part name : Nat) (e : Evt) : (s.sendEvent core part name e).mem = s.mem := by
  unfold State.sendEvent
  repeat' split
  all_goals simp

@[simp] theorem State.mem_modEnd (s : State) (slot k : Nat) (f : EndReg → EndReg) : (s.modEnd slot k f).mem = s.mem := by rfl

@[simp] theorem State.mem_clearEnds (s : State) (slot : Nat) (ks : List Nat) (st : EndState) : (s.clearEnds slot ks st).mem = s.mem := by
  simp [State.clearEnds]

@[simp] theorem State.mem_accepted (s : State) (core part : Nat) (m : Msg) : (s.accepted core part m).mem = s.mem := by
  unfold State.accepted
  repeat' split
  all_goals simp

@[simp] theorem State.mem_modInbox (s : State) (core chid : Nat) (f : Inbox → Inbox) : (s.modInbox core chid f).mem = s.mem := by rfl

@[simp] theorem State.mem_advanceFuel (s : State) (core chid fuel : Nat) : (s.advanceFuel core chid fuel).mem = s.mem := by
  induction fuel generalizing s with
  | zero => rfl
  | succ fuel ih =>
    unfold State.advanceFuel
    dsimp only
    repeat' split
    all_goals simp [ih]

@[simp] theorem State.mem_advance (s : State) (core chid : Nat) : (s.advance core chid).mem = s.mem := by simp [State.advance]

@[simp] theorem State.mem_refuse (s : State) (core : Nat) (m : Msg) (detail name : Nat) : (s.refuse core m detail name).mem = s.mem := by
  simp [State.refuse]

@[simp] theorem State.mem_hold (s : State) (core : Nat) (i : Inbox) (m : Msg) (lands : List Nat) : (s.hold core i m lands).mem = s.mem := by
  simp [State.hold]

@[simp] theorem State.mem_advanceControl (s : State) (core chid fuel : Nat) : (s.advanceControl core chid fuel).mem = s.mem := by
  induction fuel generalizing s with
  | zero => rfl
  | succ fuel ih => unfold State.advanceControl; repeat' split
                    all_goals simp [ih]

@[simp] theorem State.mem_arriveControl (s : State) (core : Nat) (i : Inbox) (m : Msg) : (s.arriveControl core i m).mem = s.mem := by
  simp [State.arriveControl]

@[simp] theorem State.mem_arriveData (s : State) (core : Nat) (m : Msg) : (s.arriveData core m).mem = s.mem := by
  unfold State.arriveData
  dsimp only
  repeat' split
  all_goals simp

@[simp] theorem State.mem_arriveHome (s : State) (m : Msg) : (s.arriveHome m).mem = s.mem := by
  unfold State.arriveHome
  repeat' split
  all_goals simp

@[simp] theorem State.mem_tellRate (s : State) (chid : Nat) : (s.tellRate chid).mem = s.mem := by unfold State.tellRate; split <;> simp

@[simp] theorem State.mem_addLoad (s : State) (chid name add sub : Nat) : (s.addLoad chid name add sub).mem = s.mem := by
  unfold State.addLoad
  repeat' split
  all_goals simp

@[simp] theorem State.mem_tookLoad (s : State) (name chid share : Nat) : (s.tookLoad name chid share).mem = s.mem := by
  unfold State.tookLoad
  split <;> simp

@[simp] theorem State.mem_loadMove (s : State) (chid : Nat) (c : Chan) (recv : Bool) (name : Nat) (joins : Bool) :
    (s.loadMove chid c recv name joins).mem = s.mem := by
  simp [State.loadMove]

@[simp] theorem State.mem_homeDepart (s : State) (chid : Nat) (recv : Bool) (moves name reg core : Nat) (landed : Bool)
    (dseq : Nat) (held : List Parked) : (s.homeDepart chid recv moves name reg core landed dseq held).mem = s.mem := by
  unfold State.homeDepart
  split <;> simp

@[simp] theorem State.mem_freeRecord (s : State) (k : Nat) : (s.freeRecord k).mem = s.mem := by rfl

@[simp] theorem State.mem_homeCloseSend (s : State) (chid fseq name : Nat) : (s.homeCloseSend chid fseq name).mem = s.mem := by
  unfold State.homeCloseSend
  repeat' split
  all_goals simp

@[simp] theorem State.mem_discard (s : State) (core slot : Nat) (m : Msg) : (s.discard core slot m).mem = s.mem := by simp [State.discard]

@[simp] theorem State.mem_homeCloseRecv (s : State) (chid disc name : Nat) : (s.homeCloseRecv chid disc name).mem = s.mem := by
  unfold State.homeCloseRecv
  repeat' split
  all_goals simp

@[simp] theorem State.mem_homeLand (s : State) (h : BitVec 128) (name core reg : Nat) (quiet : Bool) :
    (s.homeLand h name core reg quiet).mem = s.mem := by
  unfold State.homeLand
  dsimp only
  repeat' split
  all_goals simp

theorem State.mem_takeParked {s t : State} {core chid : Nat} {x : Parked} (h : s.takeParked core chid x = some t) :
    t.mem = s.mem := by
  unfold State.takeParked at h
  repeat' split at h
  · cases h
  · obtain ⟨lands, -, rfl⟩ := Option.map_eq_some_iff.mp h; simp
  all_goals cases h; simp

theorem State.mem_takeOffer {s t : State} {core chid rest : Nat} {x : Parked} (h : s.takeOffer core chid x rest = some t) :
    t.mem = s.mem := by
  unfold State.takeOffer at h
  dsimp only at h
  repeat' split at h
  · cases h; simp [State.mem_takeParked (by assumption)]
  · cases h; simp
  · cases h

@[simp] theorem State.mem_tookParked (s : State) (chid : Nat) (x : Parked) (ok : Bool) : (s.tookParked chid x ok).mem = s.mem := by rfl

@[simp] theorem State.mem_drainParked (s : State) (k fuel : Nat) : (s.drainParked k fuel).mem = s.mem := by
  induction fuel generalizing s with
  | zero => rfl
  | succ fuel ih =>
    unfold State.drainParked
    dsimp only
    repeat' split
    · rfl
    · rfl
    · simp [ih, State.mem_takeParked (by assumption)]
    · rfl
    · simp

@[simp] theorem State.mem_homeRateset (s : State) (chid : Nat) (w : Word) : (s.homeRateset chid w).2.mem = s.mem := by
  unfold State.homeRateset
  dsimp only
  repeat' split
  all_goals simp

@[simp] theorem State.mem_homeAsk (s : State) (q : HomeReq) : (s.homeAsk q).2.2.2.mem = s.mem := by
  cases q <;> (unfold State.homeAsk; dsimp only; repeat' split) <;> simp

/-! ## Barrier: barriers -/

@[simp] theorem State.mem_releaseBar (s : State) (key status : Nat) : (s.releaseBar key status).mem = s.mem := by rfl
@[simp] theorem State.mem_releaseOwner (s : State) (slot : Nat) : (s.releaseOwner slot).mem = s.mem := by rfl

@[simp] theorem State.mem_barWrite (s : State) (core off key : Nat) (b : Bar) (know : Know) (freed : Option Nat) :
    (s.barWrite core off key b know freed).mem = s.mem := by
  unfold State.barWrite
  split <;> simp

theorem State.mem_barApply {s t : State} {o : BarOp} (h : s.barApply o = some t) : t.mem = s.mem := by
  unfold State.barApply at h
  dsimp only at h
  repeat' split at h
  all_goals cases h <;> simp

@[simp] theorem State.mem_barSend (s : State) (o : BarOp) : (s.barSend o).mem = s.mem := by
  unfold State.barSend
  repeat' split
  · rfl
  · exact State.mem_barApply (by assumption)
  · rfl

theorem State.mem_barNext {s t : State} {seen os : List BarOp} (h : s.barNext seen os = some t) : t.mem = s.mem := by
  induction os generalizing seen with
  | nil => cases h
  | cons o os ih =>
    unfold State.barNext at h
    split at h
    next u hu =>
      obtain rfl := Option.some.inj h
      split at hu
      · cases hu
      · have hmem : u.mem = s.mem := State.mem_barApply hu
        exact hmem
    · exact ih h

@[simp] theorem keeps_findBar (ref : Word) : Keeps (findBar ref) := by unfold findBar; exact .body
@[simp] theorem keeps_noteBarWrite (core off : Nat) : Keeps (noteBarWrite core off) := by unfold noteBarWrite; exact .body
@[simp] theorem keeps_barTouch (ref : Word) (core off : Nat) : Keeps (barTouch ref core off) := by unfold barTouch; exact .body
@[simp] theorem keeps_barInit (ref : Word) (expected : Nat) : Keeps (barInit ref expected) := by unfold barInit; exact .body
@[simp] theorem keeps_barArrive (ref adds : Word) : Keeps (barArrive ref adds) := by unfold barArrive; exact .body
@[simp] theorem keeps_barSeen (ref : Word) (g : Nat) (p : Nat × Nat) : Keeps (barSeen ref g p) := by unfold barSeen; exact .body
@[simp] theorem keeps_barState (ref : Word) (g : Nat) : Keeps (barState ref g) := by unfold barState; exact .body
@[simp] theorem keeps_barAwait (ref : Word) (g : Nat) : Keeps (barAwait ref g) := by unfold barAwait; exact .body

/-! ## Command: the end of an engine command -/

@[simp] theorem State.wf_copyRecord (s : State) (c : CopyCmd) (kind : Nat) (detail : Word) (know : optParam Know []) (h : s.mem.wf = true) :
    (s.copyRecord c kind detail know).mem.wf = true := by
  simp [State.copyRecord, h]

@[simp] theorem State.mem_settleCopy (s : State) (c : CopyCmd) (good : Bool) : (s.settleCopy c good).mem = s.mem := by
  unfold State.settleCopy
  split <;> simp

@[simp] theorem State.mem_engineFault (s : State) (part core source unit ctx name : Nat) (code : FaultCode) (x w4 w5 : Word) :
    (s.engineFault part core source unit ctx name code x w4 w5).mem = s.mem := by
  rfl

@[simp] theorem State.wf_endCopy (s : State) (c : CopyCmd) (e : Ending) (h : s.mem.wf = true) : (s.endCopy c e).mem.wf = true := by
  unfold State.endCopy
  dsimp only
  repeat' split
  all_goals simp (maxDischargeDepth := 9) [h]

@[simp] theorem State.mem_takeCopies (s : State) (core : Nat) (take : CopyCmd → Bool) : (s.takeCopies core take).2.mem = s.mem := by
  simp -implicitDefEqProofs [State.takeCopies]

@[simp] theorem State.mem_stopCopies (s : State) (core : Nat) (stop : CopyCmd → Bool) : (s.stopCopies core stop).mem = s.mem := by rfl

theorem State.wf_foldl_endCopy {s : State} (cs : List CopyCmd) (o : Ending) (h : s.mem.wf = true) :
    (cs.foldl (fun s c => s.endCopy c o) s).mem.wf = true := State.wf_foldl (fun s c hs => by simp [hs]) cs h

@[simp] theorem State.wf_endStream (s : State) (core ctx view : Nat) (h : s.mem.wf = true) :
    (s.endStream core ctx view).mem.wf = true := by
  unfold State.endStream
  dsimp only
  split
  · simp [State.wf_foldl_endCopy, h]
  · exact h

@[simp] theorem State.wf_endStreams (s : State) (core ctx : Nat) (h : s.mem.wf = true) : (s.endStreams core ctx).mem.wf = true :=
  State.wf_foldl (fun s v hs => by simp [hs]) _ h

/-! ## Outbox: the outbox -/

@[simp] theorem State.mem_dropInbox (s : State) (core chid : Nat) : (s.dropInbox core chid).mem = s.mem := by rfl
@[simp] theorem State.mem_leaveKnow (s : State) (core chid : Nat) (know : Know) : (s.leaveKnow core chid know).mem = s.mem := by rfl
@[simp] theorem State.mem_carryEnd (s : State) (core slot k : Nat) : (s.carryEnd core slot k).2.mem = s.mem := by simp [State.carryEnd]

@[simp] theorem State.mem_carryEnds (s : State) (core slot : Nat) (ks : List Nat) : (s.carryEnds core slot ks).2.mem = s.mem :=
  foldl_keeps (fun r : List (BitVec 128 × Nat) × State => r.2.mem) (fun r k => by simp) _ _

@[simp] theorem State.mem_closeEnd (s : State) (core slot k : Nat) : (s.closeEnd core slot k).mem = s.mem := by simp [State.closeEnd]
@[simp] theorem State.mem_pushHod (s : State) (c : CopyCmd) : (s.pushHod c).mem = s.mem := by unfold State.pushHod; split <;> simp
@[simp] theorem keeps_canLeave (e : OutEntry) : Keeps (canLeave e) := by unfold canLeave; exact .body

@[simp] theorem State.mem_pushFence (s : State) (core mask : Nat) : (s.pushFence core mask).mem = s.mem := by
  simp -implicitDefEqProofs [State.pushFence]

@[simp] theorem State.mem_sendLanding (s : State) (g : Landing) (ord : Bool) : (s.sendLanding g ord).mem = s.mem := by
  unfold State.sendLanding
  dsimp only
  repeat' split
  all_goals simp

@[simp] theorem State.mem_leave (s : State) (e : OutEntry) : (s.leave e).mem = s.mem := by
  unfold State.leave
  dsimp only
  repeat' split
  all_goals simp

@[simp] theorem keeps_leaveFirst  : Keeps (leaveFirst ) := by unfold leaveFirst; exact .body

@[simp] theorem keeps_drainOutbox (fuel : Nat) : Keeps (drainOutbox fuel) := by
  induction fuel with
  | zero => exact .pure _
  | succ fuel ih => unfold drainOutbox; exact .body

@[simp] theorem keeps_sealNow  : Keeps (sealNow ) := by unfold sealNow; exact .body
@[simp] theorem keeps_readyOut (e : OutEntry) : Keeps (readyOut e) := by unfold readyOut; exact .body
@[simp] theorem keeps_putOut (e : OutEntry) : Keeps (putOut e) := by unfold putOut; exact .body

@[simp] theorem keeps_sendEntry {e : OutEntry} {q3 : List Word} {after : M Unit} (hafter : Keeps after) :
    Keeps (sendEntry e q3 after) := by
  unfold sendEntry; exact .body

@[simp] theorem State.mem_exitProc (s : State) (slot : Nat) : (s.exitProc slot).mem = s.mem := by simp [State.exitProc]
@[simp] theorem State.mem_exitIfIdle (s : State) (slot : Nat) : (s.exitIfIdle slot).mem = s.mem := by simp [State.exitIfIdle]

/-! ## Tags: tag instructions -/

@[simp] theorem keeps_holdBack (q3 : List Word) (d : Disp) : Keeps (holdBack q3 d) := by unfold holdBack; exact .body
@[simp] theorem keeps_sealIf (need : List OutEntry → Bool) : Keeps (sealIf need) := by unfold sealIf; exact .body
@[simp] theorem keeps_seeTags  : Keeps (seeTags ) := by unfold seeTags; exact .body
@[simp] theorem keeps_giveTags (d : BitVec 5) (v m : Word) : Keeps (giveTags d v m) := by unfold giveTags; exact .body
@[simp] theorem keeps_waitTags (d a : BitVec 5) (over' : Word → Word → Bool) : Keeps (waitTags d a over') := by unfold waitTags; exact .body

/-! ## View: views and beats -/

@[simp] theorem keeps_viewOpnd (num : Nat) (write : Bool) : Keeps (viewOpnd num write) := by unfold viewOpnd; exact .body
@[simp] theorem Opnd.keeps_typed (o : Opnd) (ty : Nat) : Keeps (Opnd.typed o ty) := by unfold Opnd.typed; exact .body

@[simp] theorem keeps_planOf (dst : Option Opnd) (srcs : List Opnd) (lanes : Nat) : Keeps (planOf dst srcs lanes) := by
  unfold planOf
  exact .body

@[simp] theorem keeps_orRaise (f : Option (FaultCode × Word)) : Keeps (orRaise f) := by unfold orRaise; exact .body
@[simp] theorem keeps_checkSources (ps : List Phase) (gov : Word) : Keeps (checkSources ps gov) := by unfold checkSources; exact .body
@[simp] theorem keeps_beginBeats (p : Plan) (h : Hints) : Keeps (beginBeats p h) := by unfold beginBeats; exact .body
@[simp] theorem keeps_takeStrip (o : Opnd) : Keeps (takeStrip o) := by unfold takeStrip; exact .body
@[simp] theorem keeps_takeQ0 (o : Opnd) : Keeps (takeQ0 o) := by unfold takeQ0; exact .body
@[simp] theorem keeps_takeScalars (srcs : List Opnd) : Keeps (takeScalars srcs) := by unfold takeScalars; exact .body
@[simp] theorem keeps_takeBeat (srcs : List Opnd) (lo hi : Nat) : Keeps (takeBeat srcs lo hi) := by unfold takeBeat; exact .body

@[simp] theorem keeps_readBeat (srcs : List Opnd) (gov : Word) (lanes lo hi : Nat) : Keeps (readBeat srcs gov lanes lo hi) := by
  unfold readBeat
  exact .body

@[simp] theorem State.mem_scatter (s : State) (gs : List Nat) (bs : List (Nat × Byte)) (ty : Nat) : (s.scatter gs bs ty).mem = s.mem := by
  simp [State.scatter]

@[simp] theorem keeps_writeElems (o : Opnd) (lo : Nat) (vals : List (Option Nat)) : Keeps (writeElems o lo vals) := by
  unfold writeElems
  exact .body

@[simp] theorem keeps_addFlags (f : BitVec 6) : Keeps (addFlags f) := by unfold addFlags; exact .body

@[simp] theorem keeps_eachBeat (p : Plan) (h : Hints) (f : Nat → List Nat → Nat × BitVec 6) (b : Nat) : Keeps (eachBeat p h f b) := by
  unfold eachBeat
  exact .body

@[simp] theorem keeps_runEach (p : Plan) (h : Hints) (f : Nat → List Nat → Nat × BitVec 6) : Keeps (runEach p h f) := by
  unfold runEach
  exact .body

@[simp] theorem keeps_runWhole (ps : List Phase) (dsts : List (Opnd × Nat)) (h : Hints) (out : Word → List Nat → Writes × BitVec 6) :
    Keeps (runWhole ps dsts h out) := by
  unfold runWhole
  exact .body

@[simp] theorem keeps_popQ2  : Keeps (popQ2 ) := by unfold popQ2; exact .body
@[simp] theorem keeps_pushQ3 (v : Word) : Keeps (pushQ3 v) := by unfold pushQ3; exact .body
@[simp] theorem keeps_setZ (d : BitVec 5) (v : BitVec 256) : Keeps (setZ d v) := by unfold setZ; exact .body
@[simp] theorem keeps_tagView (num : Nat) : Keeps (tagView num) := by unfold tagView; exact .body

/-! ## Copy: the issue of copies -/

@[simp] theorem keeps_copyBox (b : BitVec 5) : Keeps (copyBox b) := by unfold copyBox; exact .body
@[simp] theorem keeps_copyTag (tag : Nat) : Keeps (copyTag tag) := by unfold copyTag; exact .body
@[simp] theorem keeps_sizeRules (b : Box) : Keeps (sizeRules b) := by unfold sizeRules; exact .body
@[simp] theorem keeps_plainBox (b : Box) : Keeps (plainBox b) := by unfold plainBox; exact .body
@[simp] theorem keeps_ordRule (i : Instr) (h : Hints) (remote : Bool) : Keeps (ordRule i h remote) := by unfold ordRule; exact .body
@[simp] theorem keeps_namedBar (h : Hints) : Keeps (namedBar h) := by unfold namedBar; exact .body
@[simp] theorem keeps_newCopy (op : CopyOp) (tag : Nat) (h : Hints) : Keeps (newCopy op tag h) := by unfold newCopy; exact .body

@[simp] theorem keeps_issueCopy (c : CopyCmd) (h : Hints) (boxes : List Box) (q3 : List Word) {also : M Unit} (halso : Keeps also) :
    Keeps (issueCopy c h boxes q3 also) := by
  unfold issueCopy
  refine .bind (.forM (fun _ => by simp) _) fun _ => .bind (by simp) fun _ => .bind .myCore fun _ => .ite (.waitFor _) ?_
  exact keeps_sendEntry (.bind halso fun _ => .bind (.mods fun _ hs => by simp [hs]) fun _ => .modMyCore _)

@[simp] theorem keeps_rowRules (data other idx : Box) : Keeps (rowRules data other idx) := by unfold rowRules; exact .body

/-! ## Hod: the hod and the copy engines -/

@[simp] theorem State.mem_dropFence (s : State) (f : QFence) : (s.dropFence f).mem = s.mem := by rfl
@[simp] theorem State.mem_passFences (s : State) (fs : List QFence) : (s.passFences fs).mem = s.mem := by simp [State.passFences]
@[simp] theorem CopyCmd.keeps_srcOff (c : CopyCmd) (k : Nat) : Keeps (CopyCmd.srcOff c k) := by unfold CopyCmd.srcOff; exact .body
@[simp] theorem CopyCmd.keeps_dstOff (c : CopyCmd) (k : Nat) : Keeps (CopyCmd.dstOff c k) := by unfold CopyCmd.dstOff; exact .body
@[simp] theorem keeps_checkData (ls : List Loc) : Keeps (checkData ls) := by unfold checkData; exact .body
@[simp] theorem keeps_readItem (cl : Client) (b : Box) (o : ElemOff) : Keeps (readItem cl b o) := by unfold readItem; exact .body

@[simp] theorem keeps_convItem (rnd : Nat) (sat : Bool) (e : BitVec 512) (ty : Nat) (i : Item) : Keeps (convItem rnd sat e ty i) := by
  unfold convItem
  exact .body

@[simp] theorem keeps_convBlock (rnd : Nat) (e : BitVec 512) (ty : Nat) (is : List Item) : Keeps (convBlock rnd e ty is) := by
  unfold convBlock
  exact .body

@[simp] theorem keeps_convBlocks (rnd : Nat) (e : BitVec 512) (ty : Nat) (xs : List (List Item)) : Keeps (convBlocks rnd e ty xs) := by
  induction xs with
  | nil => exact .pure _
  | cons x xs ih => unfold convBlocks; exact .body

@[simp] theorem keeps_convItems (c : CopyCmd) (e : BitVec 512) (ty first : Nat) (is : List Item) : Keeps (convItems c e ty first is) := by
  unfold convItems
  exact .body

@[simp] theorem State.mem_setOvf (s : State) (line : Nat) (v : Bool) : (s.setOvf line v).mem = s.mem := by rfl

@[simp] theorem State.wf_mergeAt (s : State) (w : Writer) (a : Nat) (wexp : Int) (x : Nat) (h : s.mem.wf = true) :
    (s.mergeAt w a wexp x).mem.wf = true := by
  simp [State.mergeAt, h]

@[simp] theorem keeps_writeGroup (cl : Client) (b : Box) (ps : List (ElemOff × Nat)) : Keeps (writeGroup cl b ps) := by
  unfold writeGroup
  exact .body

@[simp] theorem keeps_writeScales (cl : Client) (b : Box) (os : List ElemOff) (xs : List Nat) : Keeps (writeScales cl b os xs) := by
  induction os generalizing xs with
  | nil => exact .pure ()
  | cons o os ih =>
    cases xs with
    | nil => exact .pure ()
    | cons x xs => unfold writeScales; exact .body

@[simp] theorem keeps_writeRed (cl : Client) (b : Box) (ps : List (ElemOff × Nat)) : Keeps (writeRed cl b ps) := by
  unfold writeRed
  exact .body

@[simp] theorem keeps_addItem (cl : Client) (b : Box) (p : ElemOff × Nat) : Keeps (addItem cl b p) := by unfold addItem; exact .body

@[simp] theorem State.mem_engineMismatch (s : State) (c : CopyCmd) (x : Word) : (s.engineMismatch c x).mem = s.mem := by
  simp [State.engineMismatch]

@[simp] theorem keeps_hodFence (c : CopyCmd) : Keeps (hodFence c) := by unfold hodFence; exact .body

@[simp] theorem keeps_sendGroup (cl : Client) (c : CopyCmd) (ps : List (ElemOff × Nat)) (os : List ElemOff) (xs : List Nat) :
    Keeps (sendGroup cl c ps os xs) := by
  unfold sendGroup
  exact .body

@[simp] theorem keeps_askRemote (cl : Client) (c : CopyCmd) (b : Box) (os : List ElemOff) : Keeps (askRemote cl c b os) := by
  unfold askRemote
  exact .body

@[simp] theorem keeps_remoteReply (c : CopyCmd) : Keeps (remoteReply c) := by unfold remoteReply; exact .body

@[simp] theorem keeps_readItems (cl : Client) (c : CopyCmd) (b : Box) (os : List ElemOff) : Keeps (readItems cl c b os) := by
  unfold readItems
  exact .body

@[simp] theorem keeps_sameLine (c : CopyCmd) (key : Int) (k fuel : Nat) : Keeps (sameLine c key k fuel) := by
  induction fuel generalizing k with
  | zero => exact .pure 0
  | succ fuel ih => unfold sameLine; exact .body

@[simp] theorem keeps_groupSize (c : CopyCmd) (rest : Nat) : Keeps (groupSize c rest) := by unfold groupSize; exact .body
@[simp] theorem keeps_noteRun (c : CopyCmd) (ls : List Loc) : Keeps (noteRun c ls) := by unfold noteRun; exact .body

@[simp] theorem keeps_putItems (cl : Client) (c : CopyCmd) (first : Nat) (is : List Item) : Keeps (putItems cl c first is) := by
  unfold putItems
  exact .body

@[simp] theorem keeps_moveElems (cl : Client) (c : CopyCmd) : Keeps (moveElems cl c) := by unfold moveElems; exact .body
@[simp] theorem keeps_skipRow (cl : Client) (c : CopyCmd) : Keeps (skipRow cl c) := by unfold skipRow; exact .body
@[simp] theorem keeps_readIndex (cl : Client) (c : CopyCmd) : Keeps (readIndex cl c) := by unfold readIndex; exact .body
@[simp] theorem keeps_packNext (cl : Client) (c : CopyCmd) (ty n : Nat) : Keeps (packNext cl c ty n) := by unfold packNext; exact .body

@[simp] theorem keeps_hodPool (cl : Client) (c : CopyCmd) (off ty : Nat) (bs : List Byte) : Keeps (hodPool cl c off ty bs) := by
  unfold hodPool
  exact .body

@[simp] theorem keeps_moveStrip (cl : Client) (c : CopyCmd) : Keeps (moveStrip cl c) := by unfold moveStrip; exact .body
@[simp] theorem keeps_moveFill (cl : Client) (c : CopyCmd) : Keeps (moveFill cl c) := by unfold moveFill; exact .body
@[simp] theorem keeps_moveHalo (cl : Client) (c : CopyCmd) : Keeps (moveHalo cl c) := by unfold moveHalo; exact .body
@[simp] theorem keeps_transfer (c : CopyCmd) : Keeps (transfer c) := by unfold transfer; exact .body

@[simp] theorem State.mem_replaceCopy (s : State) (old : CopyCmd) (new : Option CopyCmd) : (s.replaceCopy old new).mem = s.mem := by
  unfold State.replaceCopy
  split <;> simp

@[simp] theorem State.mem_freezeEngine (s : State) (c : CopyCmd) : (s.freezeEngine c).mem = s.mem := by
  unfold State.freezeEngine
  split <;> simp

@[simp] theorem State.wf_closeCopy (s : State) (c : CopyCmd) (e : Ending) (h : s.mem.wf = true) : (s.closeCopy c e).mem.wf = true := by
  unfold State.closeCopy
  split <;> simp (maxDischargeDepth := 9) [h]

@[simp] theorem State.wf_runCopy (s : State) (c : CopyCmd) (h : s.mem.wf = true) : (s.runCopy c).mem.wf = true := by
  unfold State.runCopy
  dsimp only
  split
  · simp [h]
  split
  next d t ht =>
    have hwf : t.mem.wf = true := (keeps_transfer c).ok h ht
    split <;> simp [hwf]
  · split <;> simp [h]
  · exact h

@[simp] theorem State.wf_completeCopy (s : State) (c : CopyCmd) (h : s.mem.wf = true) : (s.completeCopy c).mem.wf = true := by
  simp [State.completeCopy, h]

/-! ## Matrix: the issue of matrix jobs -/

@[simp] theorem keeps_operandSpace (b : Box) : Keeps (operandSpace b) := by unfold operandSpace; exact .body
@[simp] theorem keeps_operandStart (b : Box) : Keeps (operandStart b) := by unfold operandStart; exact .body
@[simp] theorem keeps_keptRule (areuse : Bool) (k : Nat) : Keeps (keptRule areuse k) := by unfold keptRule; exact .body
@[simp] theorem keeps_operandRules (bs : List Box) (one : Bool) : Keeps (operandRules bs one) := by unfold operandRules; exact .body
@[simp] theorem keeps_tileOf (v : BitVec 5) : Keeps (tileOf v) := by unfold tileOf; exact .body
@[simp] theorem keeps_newJob (op : JobOp) (tag : Nat) : Keeps (newJob op tag) := by unfold newJob; exact .body
@[simp] theorem keeps_jobGate (h : Hints) : Keeps (jobGate h) := by unfold jobGate; exact .body
@[simp] theorem keeps_noteJob (j : MJob) : Keeps (noteJob j) := by unfold noteJob; exact .body
@[simp] theorem keeps_issueJob (j : MJob) (boxes : List Box) (h : Hints) : Keeps (issueJob j boxes h) := by unfold issueJob; exact .body
@[simp] theorem keeps_requireWord (i : Instr) (ok : Bool) : Keeps (requireWord i ok) := by unfold requireWord; exact .body
@[simp] theorem keeps_boxA (a : BitVec 5) (h : Hints) : Keeps (boxA a h) := by unfold boxA; exact .body
@[simp] theorem keeps_ringTarget (r : BitVec 14) : Keeps (ringTarget r) := by unfold ringTarget; exact .body

@[simp] theorem State.wf_endJob (s : State) (j : MJob) (status : Nat) (fault : Option (FaultCode × Word)) (h : s.mem.wf = true) :
    (s.endJob j status fault).mem.wf = true := by
  unfold State.endJob
  dsimp only
  repeat' split
  all_goals simp (maxDischargeDepth := 9) [h]

@[simp] theorem State.mem_takeJobs (s : State) (core tag : Nat) : (s.takeJobs core tag).2.mem = s.mem := by
  simp -implicitDefEqProofs [State.takeJobs]

@[simp] theorem State.mem_closeRoutes (s : State) (cl q : Nat) : (s.closeRoutes cl q).mem = s.mem := by simp [State.closeRoutes]

/-! ## Jobs: the matrix engine -/

@[simp] theorem State.mem_setHead (s : State) (cl q : Nat) (j : Option MJob) : (s.setHead cl q j).mem = s.mem := by rfl

@[simp] theorem keeps_rowPlaces (cl : Client) (b : Box) (k0 step m : Nat) : Keeps (rowPlaces cl b k0 step m) := by
  unfold rowPlaces
  exact .body

@[simp] theorem State.mem_fetchLine (s : State) (cl : Client) (line : Nat) : (s.fetchLine cl line).2.mem = s.mem := by
  simp [State.fetchLine]

@[simp] theorem keeps_bytesAt (cl : Client) (ls : List Loc) : Keeps (bytesAt cl ls) := by
  refine .runs fun s hs => ?_
  rw [State.mem_foldl (fun s r => ?_)]
  · exact hs
  · split <;> simp

@[simp] theorem keeps_operandRows (cl : Client) (b : Box) (k0 : Nat) : Keeps (operandRows cl b k0) := by unfold operandRows; exact .body

@[simp] theorem keeps_operandOf (cl : Client) (b : Box) (rows : List RowPlaces) : Keeps (operandOf cl b rows) := by
  unfold operandOf
  exact .body

@[simp] theorem keeps_fetchOperands (cl : Client) (a b : Option Box) (step : Nat) : Keeps (fetchOperands cl a b step) := by
  unfold fetchOperands
  extract_lets rows
  have hrows (x : Option Box) : Keeps (rows x) := by cases x <;> simp [rows]
  refine .bind (hrows a) fun ra => .bind (hrows b) fun rb => .gets_bind fun s hs => .bind (.mods fun _ _ => ?_) fun _ => ?_
  · exact List.foldlRecOn (motive := fun r : List (Nat × Nat) × State => r.2.mem.wf = true) _ _ hs fun r hr line _ => by simp [hr]
  · refine .bind ?_ fun _ => .bind ?_ fun _ => .pure _
    · cases a with
      | none => exact .pure _
      | some b => exact .bind (keeps_operandOf _ _ _) fun _ => .pure _
    · cases b with
      | none => exact .pure _
      | some b => exact .bind (keeps_operandOf _ _ _) fun _ => .pure _

@[simp] theorem State.mem_sendOperand (s : State) (cl q : Nat) (j : MJob) (isA : Bool) (o : Operand) :
    (s.sendOperand cl q j isA o).mem = s.mem := by
  simp [State.sendOperand]

@[simp] theorem State.mem_dropPins (s : State) (pins : List (Nat × Nat)) : (s.dropPins pins).mem = s.mem := by simp [State.dropPins]

@[simp] theorem State.wf_closeJob (s : State) (cl q : Nat) (j : MJob) (status : Nat) (fault : Option (FaultCode × Word))
    (h : s.mem.wf = true) : (s.closeJob cl q j status fault).mem.wf = true := by
  unfold State.closeJob
  dsimp only
  split <;> simp (maxDischargeDepth := 9) [h]

@[simp] theorem keeps_takeOperands (cl q : Nat) (j : MJob) : Keeps (takeOperands cl q j) := by unfold takeOperands; exact .body
@[simp] theorem keeps_replayStep (cl : Nat) (m : MStep) (j : MJob) : Keeps (replayStep cl m j) := by unfold replayStep; exact .body

@[simp] theorem keeps_openAcc (j : MJob) : Keeps (openAcc j) := by
  unfold openAcc
  split
  · exact .pure _
  · exact .body

@[simp] theorem State.mem_freeSlots (s : State) (cl q : Nat) (j : MJob) : (s.freeSlots cl q j).mem = s.mem := by rfl

@[simp] theorem State.wf_grantStep (s : State) (cl q : Nat) (j : MJob) (h : s.mem.wf = true) : (s.grantStep cl q j).mem.wf = true := by
  unfold State.grantStep
  extract_lets go s'
  have hgo : Keeps go := by simp only [go]; exact .body
  have hs' : s'.mem.wf = true := by simp [s', h]
  split
  next t ht => simpa using hgo.ok hs' ht
  · simp [hs']
  · exact hs'

@[simp] theorem State.mem_writeTile (s : State) (j : MJob) (acc : List Nat) : (s.writeTile j acc).mem = s.mem := by simp [State.writeTile]
@[simp] theorem keeps_mergeAll (c : Client) (b : Box) (acc : List Nat) : Keeps (mergeAll c b acc) := by unfold mergeAll; exact .body

@[simp] theorem State.wf_poisonJobs (s : State) (js : List MJob) (h : s.mem.wf = true) : (s.poisonJobs js).mem.wf = true := by
  induction js generalizing s with
  | nil => exact h
  | cons j js ih => exact ih _ (by simp [h])

@[simp] theorem State.mem_sendTaken (s : State) (fromCore : Nat) (isA : Bool) : (s.sendTaken fromCore isA).mem = s.mem := by
  unfold State.sendTaken
  split <;> simp

@[simp] theorem keeps_readOut (j : MJob) : Keeps (readOut j) := by unfold readOut; exact .body

/-! ## Msg: the MSG group -/

@[simp] theorem keeps_heldEnd (k : Nat) : Keeps (heldEnd k) := by unfold heldEnd; exact .body
@[simp] theorem keeps_sendEnd (k : Nat) : Keeps (sendEnd k) := by unfold sendEnd; exact .body
@[simp] theorem keeps_endList (v : Word) : Keeps (endList v) := by unfold endList; exact .body
@[simp] theorem keeps_carriable (k : Nat) : Keeps (carriable k) := by unfold carriable; exact .body
@[simp] theorem keeps_markGone (ks : List Nat) : Keeps (markGone ks) := by unfold markGone; exact .body

@[simp] theorem State.mem_makeChan (s : State) (idx core slot sr rr cap : Nat) (strm rate mv rt : Bool) (home : Nat) :
    (s.makeChan idx core slot sr rr cap strm rate mv rt home).mem = s.mem := by
  rfl

@[simp] theorem keeps_askHome (q : HomeReq) (home : Nat) (dest : BitVec 5) (status : Bool) : Keeps (askHome q home dest status) := by
  unfold askHome; exact .body

@[simp] theorem State.mem_passOn (s : State) (a : Activation) (know : Know) : (s.passOn a know).mem = s.mem := by
  unfold State.passOn
  repeat' split
  all_goals simp

@[simp] theorem State.wf_endActivation (s : State) (n k : Nat) (exit : Bool) (h : s.mem.wf = true) :
    (s.endActivation n k exit).mem.wf = true := by
  unfold State.endActivation
  dsimp only
  split <;> simp (maxDischargeDepth := 9) [h]

/-! ## Groups: the GRP group -/

@[simp] theorem keeps_readOneBeat (o : Opnd) : Keeps (readOneBeat o) := by
  unfold readOneBeat; exact .body

@[simp] theorem keeps_holdRange (o n : BitVec 5) : Keeps (holdRange o n) := by unfold holdRange; exact .body

/-! ## Landing: stores that land in registers -/

theorem State.mem_takeArrived {s : State} {cl : Nat} {want : PBody → Bool} {r : Packet × State} (h : s.takeArrived cl want = some r) :
    r.2.mem = s.mem := by
  unfold State.takeArrived at h
  repeat' split at h
  all_goals cases h <;> simp

@[simp] theorem State.mem_applyLanding (s : State) (slot : Nat) (g : Landing) : (s.applyLanding slot g).mem = s.mem := by
  unfold State.applyLanding
  split <;> simp

@[simp] theorem State.mem_haloBack (s : State) (core tag : Nat) (stale passed : Bool) : (s.haloBack core tag stale passed).mem = s.mem := by
  unfold State.haloBack
  dsimp only
  split <;> simp

@[simp] theorem State.mem_answerPod (s : State) (dev : Nat) (body : PodBody) : (s.answerPod dev body).mem = s.mem := by rfl

@[simp] theorem State.mem_tellStale (s : State) (g : Landing) (beyond : Bool) : (s.tellStale g beyond).mem = s.mem := by
  simp [State.tellStale]

@[simp] theorem State.mem_dropStale (s : State) (g : Landing) (beyond : Bool) : (s.dropStale g beyond).mem = s.mem := by
  simp [State.dropStale]

@[simp] theorem State.mem_freezeSaved (s : State) (key k : Nat) (x : Word) : (s.freezeSaved key k x).mem = s.mem := by
  simp [State.freezeSaved]

@[simp] theorem State.mem_tellBreach (s : State) (g : Landing) : (s.tellBreach g).mem = s.mem := by unfold State.tellBreach; split <;> simp
@[simp] theorem State.mem_dropBreach (s : State) (g : Landing) : (s.dropBreach g).mem = s.mem := by simp [State.dropBreach]
@[simp] theorem State.mem_haloDone (s : State) (g : Landing) (passed : Bool) : (s.haloDone g passed).mem = s.mem := by simp [State.haloDone]

theorem State.mem_deliverLanding {s t : State} {g : Landing} (h : s.deliverLanding g = some t) : t.mem = s.mem := by
  unfold State.deliverLanding at h
  dsimp only at h
  repeat' split at h
  all_goals cases h <;> simp

@[simp] theorem State.mem_setGstv (s : State) (agent target n : Nat) : (s.setGstv agent target n).mem = s.mem := by rfl

theorem State.mem_gatherPush {s t : State} {g : Landing} (h : s.gatherPush g = some t) : t.mem = s.mem := by
  unfold State.gatherPush at h
  dsimp only at h
  split at h
  · exact State.mem_deliverLanding h
  split at h
  · obtain rfl := Option.some.inj h; rfl
  · exact (State.mem_deliverLanding h :)

theorem State.mem_orderedLanding {s t : State} {g : Landing} (h : s.orderedLanding g = some t) : t.mem = s.mem := by
  unfold State.orderedLanding at h
  repeat' split at h
  · exact State.mem_gatherPush h
  · cases h; rfl
  · obtain ⟨u, hu, rfl⟩ := Option.map_eq_some_iff.mp h
    simp [State.mem_deliverLanding hu]

theorem State.mem_firstGstv {s t : State} {gs rest : List Landing} (h : s.firstGstv gs = some (t, rest)) : t.mem = s.mem := by
  induction gs generalizing rest with
  | nil => cases h
  | cons g gs ih =>
    unfold State.firstGstv at h
    split at h
    next t ht =>
      cases h
      split at ht
      · simp [State.mem_deliverLanding ht]
      · cases ht
    · obtain ⟨r', hr', he⟩ := Option.map_eq_some_iff.mp h
      cases he
      exact ih hr'

@[simp] theorem State.mem_releaseGstv (s : State) (fuel : Nat) : (s.releaseGstv fuel).mem = s.mem := by
  induction fuel generalizing s with
  | zero => rfl
  | succ fuel ih =>
    unfold State.releaseGstv
    split
    · rfl
    next t rest hr =>
      have hmem : t.mem = s.mem := State.mem_firstGstv hr
      exact (ih _).trans hmem

@[simp] theorem State.mem_passGstv (s : State) (g : Landing) : (s.passGstv g).mem = s.mem := by
  unfold State.passGstv
  split
  · rfl
  · simpa using State.mem_getD (fun t ht => State.mem_orderedLanding ht) rfl

@[simp] theorem State.mem_applyQueued (s : State) (slot : Nat) : (s.applyQueued slot).mem = s.mem := by simp [State.applyQueued]

@[simp] theorem State.mem_landAt (s : State) (cl : Nat) (halo : Bool) : (s.landAt cl halo).mem = s.mem := by
  unfold State.landAt
  split
  next p t ht =>
    have hpt : t.mem = s.mem := State.mem_takeArrived ht
    repeat' split
    · exact State.mem_getD (fun u hu => (State.mem_deliverLanding hu).trans hpt) rfl
    · refine State.mem_getD (fun u hu => ?_) rfl
      obtain ⟨v, hv, rfl⟩ := Option.map_eq_some_iff.mp hu
      simp [State.mem_deliverLanding hv, hpt]
    · rfl
  · rfl

/-! ## Vector: vector instructions -/

@[simp] theorem keeps_roundOf (h : Hints) : Keeps (roundOf h) := by unfold roundOf; exact .body
@[simp] theorem keeps_rndRule (i : Instr) (h : Hints) (ty : Nat) : Keeps (rndRule i h ty) := by unfold rndRule; exact .body

@[simp] theorem keeps_operandsOf (d : BitVec 5) (srcs : List (BitVec 5)) (ty : Nat) : Keeps (operandsOf d srcs ty) := by
  unfold operandsOf
  exact .body

@[simp] theorem keeps_varithBy {run : Driver} (hrun : ∀ p h f, Keeps (run p h f)) (i : Instr) (d : BitVec 5) (srcs : List (BitVec 5))
    (t : BitVec 4) (f : LaneFn) (h : Hints) : Keeps (varithBy run i d srcs t f h) := by
  unfold varithBy; exact .body

@[simp] theorem keeps_varith (i : Instr) (d : BitVec 5) (srcs : List (BitVec 5)) (t : BitVec 4) (f : LaneFn) (h : Hints) :
    Keeps (varith i d srcs t f h) := by
  unfold varith
  exact .body

@[simp] theorem keeps_viImm (h : Hints) (imm : BitVec 16) (ty : Nat) : Keeps (viImm h imm ty) := by unfold viImm; exact .body

@[simp] theorem keeps_viForm (i : Instr) (d : BitVec 5) (srcs : List (BitVec 5)) (imm : BitVec 16) (okType : Nat → Bool)
    (f : Nat → LaneFn) (h : Hints) : Keeps (viForm i d srcs imm okType f h) := by
  unfold viForm
  exact .body

@[simp] theorem keeps_setPred (k : BitVec 3) (v : Word) : Keeps (setPred k v) := by unfold setPred; exact .body
@[simp] theorem keeps_predOp (d : BitVec 3) (h : Hints) (v : Word) : Keeps (predOp d h v) := by unfold predOp; exact .body
@[simp] theorem keeps_cvtQueue (t n : Nat) : Keeps (cvtQueue t n) := by unfold cvtQueue; exact .body

/-! ## Lintel: the Lintel fabric -/

@[simp] theorem keeps_walkOff (kind : Nat) (e : BitVec 512) (k : Nat) : Keeps (walkOff kind e k) := by unfold walkOff; exact .body
@[simp] theorem keeps_regionThere (cl : Client) (lid : Nat) : Keeps (regionThere cl lid) := by unfold regionThere; exact .body
@[simp] theorem keeps_readImage (cl : Client) (lid : Nat) (e : BitVec 512) : Keeps (readImage cl lid e) := by unfold readImage; exact .body

@[simp] theorem keeps_readFlit (cl : Client) (lid : Nat) (e : BitVec 512) (n seq : Nat) : Keeps (readFlit cl lid e n seq) := by
  unfold readFlit
  exact .body

@[simp] theorem keeps_writeFlit (cl : Client) (lid : Nat) (e : BitVec 512) (n : Nat) (x : Flit) : Keeps (writeFlit cl lid e n x) := by
  unfold writeFlit
  exact .body

@[simp] theorem State.mem_setGraph (s : State) (array k : Nat) (g : Graph) : (s.setGraph array k g).mem = s.mem := by rfl

@[simp] theorem State.mem_countGraph (s : State) (array : Nat) (l : LStart) (failed : Bool) : (s.countGraph array l failed).mem = s.mem := by
  rfl

@[simp] theorem State.mem_graphFlags (s : State) (l : LStart) (f : BitVec 6) : (s.graphFlags l f).mem = s.mem := by
  unfold State.graphFlags
  split <;> simp

@[simp] theorem State.mem_failGraph (s : State) (array : Nat) (l : LStart) (f : BitVec 6) (code : FaultCode) (x : Word) :
    (s.failGraph array l f code x).mem = s.mem := by
  simp [State.failGraph]

@[simp] theorem State.mem_dropGraph (s : State) (array k : Nat) : (s.dropGraph array k).mem = s.mem := by rfl

@[simp] theorem keeps_portsChecked (cl : Client) (l : LStart) (im : List Byte) : Keeps (portsChecked cl l im) := by
  unfold portsChecked
  exact .body

@[simp] theorem keeps_openGraph (l : LStart) : Keeps (openGraph l) := by unfold openGraph; exact .body
@[simp] theorem keeps_portRead (l : LStart) (g : Graph) (r : Nat) : Keeps (portRead l g r) := by unfold portRead; exact .body
@[simp] theorem keeps_portWrite (l : LStart) (g : Graph) : Keeps (portWrite l g) := by unfold portWrite; exact .body

@[simp] theorem State.mem_egress (s : State) (array k : Nat) (g : Graph) : (s.egress array k g).mem = s.mem := by
  unfold State.egress
  split <;> simp

@[simp] theorem State.wf_stepGraph {s : State} {array k : Nat} {g : Graph} {m : M Graph} (hm : Keeps m) (h : s.mem.wf = true) :
    (s.stepGraph array k g m).mem.wf = true := by
  unfold State.stepGraph
  split
  · simpa using hm.ok h (by assumption)
  · simp [h]
  · exact h

theorem State.mem_deliverFlit {s t : State} {p : Nat} {x : Waiting} (h : s.deliverFlit p x = some t) : t.mem = s.mem := by
  obtain ⟨a, -, ha⟩ := List.exists_of_findSome?_eq_some h
  repeat' split at ha
  all_goals cases ha <;> simp

@[simp] theorem State.mem_deliverFlits (s : State) (p : Nat) : (s.deliverFlits p).mem = s.mem := by
  unfold State.deliverFlits
  refine Eq.trans (State.modPort_mem _ _ _) (foldl_keeps (fun r : List Waiting × State => r.2.mem) (fun r x => ?_) _ _)
  split
  · exact State.mem_deliverFlit (by assumption)
  · rfl

end Sys2Proof.Machine
end

section
/-!
SUPPORT. Canonical memory (O60): the rules of placement, the pod, the host and the front end.
A function that leaves the memory as it is has a lemma `mem_…`, one that may write it a lemma `wf_…`, a body a lemma `keeps_…`.
Equations that hold by computation are proved `by rfl` and not by the term `rfl`: `simp` applies them then as rewriting steps, which
`State.mem_foldl` needs where it discharges the equation of a step.
-/

-- `Keeps.body` runs a default tactic, which waits for all that stands before it: proofs of this section go one after another.
set_option Elab.async false

namespace Sys2Proof.Machine

/-! ## Preempt: pre-emption -/

@[simp] theorem State.mem_tellMismatch (s : State) (n k : Nat) (x : Word) : (s.tellMismatch n k x).mem = s.mem := by
  unfold State.tellMismatch
  dsimp only
  split <;> simp

@[simp] theorem keeps_saveFence  : Keeps (saveFence ) := by unfold saveFence; exact .body
@[simp] theorem keeps_saveBody  : Keeps (saveBody ) := by unfold saveBody; exact .body
@[simp] theorem keeps_restBody  : Keeps (restBody ) := by unfold restBody; exact .body
@[simp] theorem State.mem_giveUp (s : State) (n k : Nat) : (s.giveUp n k).mem = s.mem := by simp [State.giveUp]
@[simp] theorem State.mem_takeInterrupt (s : State) (n k : Nat) : (s.takeInterrupt n k).mem = s.mem := by simp [State.takeInterrupt]
@[simp] theorem State.mem_parkInImage (s : State) (n k : Nat) : (s.parkInImage n k).mem = s.mem := by rfl
@[simp] theorem State.mem_autoReturn (s : State) : s.autoReturn.mem = s.mem := by simp [State.autoReturn]

@[simp] theorem State.wf_autoIssue (s : State) (h : s.mem.wf = true) : (s.autoIssue).mem.wf = true := by
  unfold State.autoIssue
  dsimp only
  repeat' split
  · simpa using keeps_restBody.ok h (by assumption)
  · exact h
  · simp [h]
  · simpa using keeps_saveBody.ok h (by assumption)
  · exact keeps_saveBody.ok h (by assumption)
  · simp [h]
  · simp [h]

theorem State.mem_foldl_giveUp (s : State) (n : Nat) (ks : List Nat) : (ks.foldl (fun s k => match (s.ctx n k).pend with
    | some p => if p.reply.isSome then s else s.giveUp n k
    | none => s) s).mem = s.mem := by
  refine State.mem_foldl (fun s k => ?_) _ _
  repeat' split
  all_goals simp

@[simp] theorem State.mem_swapOut (s : State) (n : Nat) : (s.swapOut n).mem = s.mem := by
  unfold State.swapOut
  extract_lets s₁ s₂ im
  have hs₁ : s₁.mem = s.mem := State.mem_foldl_giveUp _ _ _
  have hs₂ : s₂.mem = s.mem := (State.modCluster_mem _ _ _).trans hs₁
  clear_value s₂
  split
  · exact hs₂
  · simp -implicitDefEqProofs [hs₂]

@[simp] theorem State.mem_registerEnds (s : State) (slot : Nat) : (s.registerEnds slot).mem = s.mem := by simp [State.registerEnds]
@[simp] theorem State.mem_enterPlaced (s : State) (n k : Nat) : (s.enterPlaced n k).mem = s.mem := by simp [State.enterPlaced]

@[simp] theorem State.wf_swapIn (s : State) (key n : Nat) (h : s.mem.wf = true) : (s.swapIn key n).mem.wf = true := by
  unfold State.swapIn
  extract_lets im q p s₁ s₂ s₃ s₄ s₅ s₆
  have hs₅ : s₅.mem.wf = true := State.wf_foldl (fun s e hs => by simp [hs]) _ (by simp -implicitDefEqProofs [s₁, s₂, s₃, s₄, h])
  have hs₆ : s₆.mem.wf = true := State.wf_foldl (fun s e hs => by simp [hs]) _ hs₅
  simp [hs₆]

/-! ## Place: images and placement -/

@[simp] theorem keeps_readVirt (part die fuel va n : Nat) : Keeps (readVirt part die fuel va n) := by
  induction fuel generalizing va n with
  | zero => exact .pure _
  | succ fuel ih =>
    unfold readVirt
    refine .ite (.pure _) (.bind (.guardFault _ _ _) fun _ => ?_)
    exact .bind (.orFail fun s hs r hr => State.wf_translate hs hr) fun _ => .bind (.gets _) fun _ => .bind (ih _ _) fun _ => .pure _

@[simp] theorem State.mem_imageLost (s : State) (part die : Nat) (f : TFail) : (s.imageLost part die f).mem = s.mem := by
  simp [State.imageLost]

@[simp] theorem keeps_readImg (part die va n : Nat) : Keeps (readImg part die va n) := by unfold readImg; exact .body
@[simp] theorem keeps_readTables (part die : Nat) (t : Tmpl) : Keeps (readTables part die t) := by unfold readTables; exact .body
@[simp] theorem keeps_readTmpl (part die base k : Nat) : Keeps (readTmpl part die base k) := by unfold readTmpl; exact .body

@[simp] theorem keeps_readChanEnt (part die base ntmpl k : Nat) : Keeps (readChanEnt part die base ntmpl k) := by
  unfold readChanEnt
  exact .body

@[simp] theorem keeps_readNet (part die base : Nat) : Keeps (readNet part die base) := by unfold readNet; exact .body
@[simp] theorem State.mem_clearTags (s : State) (core off n : Nat) : (s.clearTags core off n).mem = s.mem := by rfl

@[simp] theorem State.mem_makeProc (s : State) (slot core part net tmpl : Nat) (super : Bool) (t : Tmpl) (tab : Tables)
    (w : Word) (r : Room) : (s.makeProc slot core part net tmpl super t tab w r).mem = s.mem := by
  rfl

@[simp] theorem State.mem_copyPool (s : State) (src so dst dof n : Nat) : (s.copyPool src so dst dof n).mem = s.mem := by rfl
@[simp] theorem State.mem_moveInboxes (s : State) (slot src dst : Nat) : (s.moveInboxes slot src dst).mem = s.mem := by rfl
@[simp] theorem State.mem_moveTag (s : State) (src dst tag : Nat) : (s.moveTag src dst tag).mem = s.mem := by rfl

@[simp] theorem State.mem_moveWork (s : State) (p : Proc) (dst : Nat) (w : Word) (r : Room) : (s.moveWork p dst w r).mem = s.mem := by
  simp [State.moveWork]

@[simp] theorem State.wf_moveProc (s : State) (slot dst : Nat) (w : Word) (r : Room) (h : s.mem.wf = true) :
    (s.moveProc slot dst w r).mem.wf = true := by
  simp [State.moveProc, h]

/-! ## Control: the supervisor's commands -/

@[simp] theorem State.wf_killCtx (s : State) (n k : Nat) (h : s.mem.wf = true) : (s.killCtx n k).mem.wf = true := by
  unfold State.killCtx
  dsimp only
  split <;> simp (maxDischargeDepth := 9) [h]

@[simp] theorem State.wf_thawQueues (s : State) (cl name : Nat) (h : s.mem.wf = true) : (s.thawQueues cl name).mem.wf = true := by
  refine State.wf_foldl (fun s f hs => State.wf_foldl (fun s e hs => ?_) _ (by simp [hs])) _ h
  split <;> simp [hs]

@[simp] theorem State.mem_resumeCtx (s : State) (n k : Nat) : (s.resumeCtx n k).mem = s.mem := by rfl

@[simp] theorem State.wf_control (s : State) (n part : Nat) (w0 w1 : Word) (h : s.mem.wf = true) :
    (s.control n part w0 w1).2.mem.wf = true := by
  unfold State.control
  dsimp only
  repeat' split
  all_goals simp (maxDischargeDepth := 9) [h]

@[simp] theorem State.mem_reportControl (s : State) (n part : Nat) (w0 : Word) (outcome : Nat) (was : Ctx) :
    (s.reportControl n part w0 outcome was).mem = s.mem := by
  rfl

@[simp] theorem State.mem_takeControl (s : State) (n : Nat) (i : Inbox) (m : Msg) : (s.takeControl n i m).mem = s.mem := by
  simp [State.takeControl]

@[simp] theorem State.mem_hang (s : State) (n k : Nat) : (s.hang n k).mem = s.mem := by simp [State.hang]

/-! ## Mortar: the Mortar network -/

@[simp] theorem State.mem_modRouter (s : State) (cl : Nat) (f : Router → Router) : (s.modRouter cl f).mem = s.mem := by rfl

@[simp] theorem State.mem_askFar (s : State) (dev core ctx req : Nat) (q : HomeReq) : (s.askFar dev core ctx req q).mem = s.mem := by
  simp [State.askFar]

theorem State.mem_absorb {s t : State} {b : PBody} (h : s.absorb b = some t) : t.mem = s.mem := by
  unfold State.absorb at h
  repeat' split at h
  all_goals cases h <;> simp

@[simp] theorem State.mem_atLocal (s : State) (cl : Nat) (p : Packet) : (s.atLocal cl p).mem = s.mem := by
  unfold State.atLocal
  split
  · exact State.mem_absorb (by assumption)
  · simp

@[simp] theorem State.mem_stopGo (s : State) (cl key : Nat) : (s.stopGo cl key).mem = s.mem := by simp [State.stopGo]

@[simp] theorem State.mem_hopIn (s : State) (cl key : Nat) : (s.hopIn cl key).mem = s.mem := by
  unfold State.hopIn
  dsimp only
  repeat' split
  all_goals simp

@[simp] theorem State.mem_hopOut (s : State) (cl o : Nat) : (s.hopOut cl o).mem = s.mem := by unfold State.hopOut; (repeat' split) <;> simp

/-! ## Pod: the pod at this device -/

@[simp] theorem State.mem_setInput (s : State) (i : Nat) (ps : List PodPacket) : (s.setInput i ps).mem = s.mem := by simp [State.setInput]
@[simp] theorem State.mem_arrivePacket (s : State) (port : Nat) (p : PodPacket) : (s.arrivePacket port p).mem = s.mem := by rfl
@[simp] theorem State.mem_countDrop (s : State) (port : Nat) : (s.countDrop port).mem = s.mem := by rfl
@[simp] theorem State.mem_countStomp (s : State) (i : Nat) : (s.countStomp i).mem = s.mem := by simp [State.countStomp]
@[simp] theorem State.mem_setRecv (s : State) (io : Nat) (p : PodPacket) (r : Option Recv) : (s.setRecv io p r).mem = s.mem := by rfl
@[simp] theorem State.mem_dropHeld (s : State) (test : PodPacket → Bool) : (s.dropHeld test).mem = s.mem := by simp [State.dropHeld]

@[simp] theorem State.mem_countRecv (s : State) (io : Nat) (p : PodPacket) : (s.countRecv io p).mem = s.mem := by
  unfold State.countRecv
  split <;> simp

@[simp] theorem State.mem_uncount (s : State) (io : Nat) (p : PodPacket) : (s.uncount io p).mem = s.mem := by
  unfold State.uncount
  split <;> simp

theorem State.wf_translateFar {s : State} {io : Nat} {p : PodPacket} {kind va : Nat} {r : Nat × State} (h : s.mem.wf = true)
    (hr : s.translateFar io p kind va = .ok r) : r.2.mem.wf = true := State.wf_translateFor h hr

theorem State.wf_translateAll {s : State} {io : Nat} {p : PodPacket} {kind : Nat} {vas : List Nat} {r : List Nat × State}
    (h : s.mem.wf = true) (hr : s.translateAll io p kind vas = .ok r) : r.2.mem.wf = true := by
  induction vas generalizing s r with
  | nil => cases hr; exact h
  | cons va vas ih =>
    unfold State.translateAll at hr
    repeat' split at hr
    · cases hr
    · cases hr
    next a t ht _ as u hu =>
      cases hr
      have hwf : t.mem.wf = true := State.wf_translateFar h ht
      exact ih (r := (as, u)) hwf hu

@[simp] theorem State.mem_tellFarFault (s : State) (io : Nat) (p : PodPacket) (f : TFail) : (s.tellFarFault io p f).mem = s.mem := by
  simp [State.tellFarFault]

@[simp] theorem State.wf_writeBits (s : State) (w : Writer) (a mask bits : Nat) (h : s.mem.wf = true) :
    (s.writeBits w a mask bits).mem.wf = true := by
  simp [State.writeBits, h]

theorem State.mem_farScope {s t : State} {p : PodPacket} {ls : List Nat} {va scope : Nat} (h : s.farScope p ls va scope = .ok t) :
    t.mem = s.mem := by
  unfold State.farScope at h
  split at h
  · cases h; rfl
  refine foldlM_ok_keeps (P := fun u => u.mem = s.mem) (fun u line v hu hv => ?_) rfl h
  split at hv <;> cases hv
  next hc => exact (State.mem_scopeCheck hc).trans hu

@[simp] theorem State.mem_farRead (s : State) (io : Nat) (p : PodPacket) (as : List Nat) : (s.farRead io p as).2.mem = s.mem := by
  simp [State.farRead]

@[simp] theorem State.mem_answer (s : State) (p : PodPacket) (r : Reply) : (s.answer p r).mem = s.mem := by
  unfold State.answer
  split <;> simp

/-- What comes of an access from another device is of canonical memory. -/
def FarOut.Canonical : FarOut → Prop
  | .done t _ => t.mem.wf = true
  | .failed t _ => t.mem.wf = true
  | .waits => True

theorem State.wf_farScope {s t : State} {p : PodPacket} {ls : List Nat} {va scope : Nat} (h : s.mem.wf = true)
    (ht : s.farScope p ls va scope = .ok t) : t.mem.wf = true := by
  rw [State.mem_farScope ht]; exact h

theorem State.wf_farAccess {s : State} (io : Nat) (p : PodPacket) (h : s.mem.wf = true) : (s.farAccess io p).Canonical := by
  unfold State.farAccess
  split
  · split
    · exact h
    next ht =>
    split
    · exact State.wf_translateFar h ht
    next hu =>
    split
    · trivial
    · exact State.wf_write _ _ _ _ (State.wf_farScope (State.wf_translateFar h ht) hu)
  · split
    · exact h
    next ht =>
    split
    · trivial
    · exact State.wf_foldl (fun s x hs => by simp [hs]) _ (State.wf_translateAll h ht)
  · split
    · exact h
    next ht =>
    split
    · exact State.wf_translateFar h ht
    next hu => simp [FarOut.Canonical, State.wf_farScope (State.wf_translateFar h ht) hu]
  · split
    · exact h
    next ht =>
    split
    · exact State.wf_translateAll h ht
    next hu => simp [FarOut.Canonical, State.wf_farScope (State.wf_translateAll h ht) hu]
  · split
    · exact h
    next ht =>
    split
    · exact State.wf_translateFar h ht
    next u hu =>
    split
    · trivial
    · have hat (i : Issuer) (a : Nat) (x : AtomicOp) : (u.atomicAt i a x).2.mem.wf = true :=
        State.wf_atomicAt u i a x (State.wf_farScope (State.wf_translateFar h ht) hu)
      dsimp only
      split
      next heq => exact (congrArg (fun r : AtomicOut × State => r.2.mem.wf = true) heq).mp (hat _ _ _)
      next heq => exact (congrArg (fun r : AtomicOut × State => r.2.mem.wf = true) heq).mp (hat _ _ _)
  · exact h

theorem State.wf_applyFar {s t : State} {io : Nat} {p : PodPacket} (h : s.mem.wf = true) (ht : s.applyFar io p = some t) :
    t.mem.wf = true := by
  have hfar : (s.farAccess io p).Canonical := State.wf_farAccess io p h
  unfold State.applyFar at ht
  split at ht
  · cases ht
  next u r hu =>
    have hwf : u.mem.wf = true := by rw [hu] at hfar; exact hfar
    cases ht
    split <;> simp [hwf]
  next u f hu =>
    have hwf : u.mem.wf = true := by rw [hu] at hfar; exact hfar
    cases ht
    split <;> simp [hwf]

@[simp] theorem State.mem_takeFarReply (s : State) (p : PodPacket) (req : Nat) (r : Reply) : (s.takeFarReply p req r).mem = s.mem := by
  unfold State.takeFarReply
  dsimp only
  repeat' split
  all_goals simp

@[simp] theorem State.mem_unwatch (s : State) (dev req : Nat) : (s.unwatch dev req).mem = s.mem := by rfl

@[simp] theorem State.mem_enterMortar (s : State) (io : Nat) (p : PodPacket) (b : PBody) : (s.enterMortar io p b).mem = s.mem := by
  unfold State.enterMortar
  repeat' split
  · exact State.mem_absorb (by assumption)
  · simp
  · rfl

theorem State.wf_takeFar {s t : State} {io : Nat} {p : PodPacket} (h : s.mem.wf = true) (ht : s.takeFar io p = some t) :
    t.mem.wf = true := by
  unfold State.takeFar at ht
  split at ht
  case h_3 =>
    obtain ⟨u, hu, rfl⟩ := Option.map_eq_some_iff.mp ht
    simpa [State.mem_orderedLanding hu] using h
  case h_8 => exact State.wf_applyFar h ht
  all_goals cases ht; simp [h]

theorem State.mem_dropStomped {s t : State} {i : Nat} (h : s.dropStomped i = some t) : t.mem = s.mem := by
  unfold State.dropStomped at h
  split at h <;> cases h
  simp

@[simp] theorem State.mem_setInterval (s : State) (p : PodPacket) (v : Option Interval) : (s.setInterval p v).mem = s.mem := by rfl

@[simp] theorem State.wf_holdStamped (s : State) (io : Nat) (p : PodPacket) (h : s.mem.wf = true) :
    (s.holdStamped io p).mem.wf = true := by
  have hfar : (if p.counted then s.farAccess io p else .done s none).Canonical := by
    split
    · exact State.wf_farAccess io p h
    · exact h
  unfold State.holdStamped
  split
  next u f hu =>
    have hwf : u.mem.wf = true := by rw [hu] at hfar; exact hfar
    simp [hwf]
  · dsimp only
    repeat' split
    all_goals simp [h]

theorem State.wf_admitFar {s t : State} {io : Nat} {p : PodPacket} (h : s.mem.wf = true) (ht : s.admitFar io p = some t) :
    t.mem.wf = true := by
  unfold State.admitFar at ht
  split at ht
  · cases ht
    have hcount : (s.countRecv io p).mem.wf = true := by simpa using h
    cases hu : (s.countRecv io p).takeFar io p with
    | none => exact hcount
    | some u => exact State.wf_takeFar hcount hu
  · exact State.wf_takeFar h ht

@[simp] theorem State.wf_arriveFar (s : State) (i : Nat) (h : s.mem.wf = true) : (s.arriveFar i).mem.wf = true := by
  unfold State.arriveFar
  split
  next t ht => rw [State.mem_dropStomped ht]; exact h
  split
  · exact h
  next p rest _ =>
    have hin : (s.setInput i rest).mem.wf = true := by simpa using h
    dsimp only
    split
    · cases hu : (s.setInput i rest).admitFar (dieOfInput i p.path) p with
      | none => exact h
      | some u => exact State.wf_admitFar hin hu
    · exact State.wf_holdStamped _ _ _ hin

theorem State.wf_firstTaken {s t : State} {io : Nat} {ps rest : List PodPacket} (h : s.mem.wf = true)
    (ht : s.firstTaken io ps = some (t, rest)) : t.mem.wf = true := by
  induction ps generalizing rest with
  | nil => cases ht
  | cons p ps ih =>
    unfold State.firstTaken at ht
    split at ht
    next u hu =>
      cases ht
      split at hu
      · exact State.wf_takeFar h hu
      · cases hu
    · obtain ⟨r, hr, he⟩ := Option.map_eq_some_iff.mp ht
      cases he
      exact ih hr

theorem State.mem_dropRecv (s : State) (p : PodPacket) (ios : List Nat) : (ios.foldl (fun s io => match s.recvAt io p.src p.core p.ctx with
    | some r => if r.interval ≤ p.interval then s.setRecv io p none else s
    | none => s) s).mem = s.mem := by
  refine State.mem_foldl (fun s io => ?_) _ _
  repeat' split
  all_goals simp

@[simp] theorem State.mem_ackMarker (s : State) (p : PodPacket) (ok : Bool) : (s.ackMarker p ok).mem = s.mem := by
  unfold State.ackMarker
  extract_lets s₁ v v' s₂ s₃
  have hs₂ : s₂.mem = s.mem := (State.mem_dropRecv _ _ _).trans (by simp [s₁])
  have hs₃ : s₃.mem = s.mem := by
    simp only [s₃]
    repeat' split
    · exact hs₂
    · simpa using hs₂
    · simp [s₁]
  simpa using hs₃

@[simp] theorem State.mem_drained (s : State) (d : Drain) : (s.drained d).mem = s.mem := by simp [State.drained]

@[simp] theorem State.mem_sendDrain (s : State) (d : Drain) (devs : List Nat) : (s.sendDrain d devs).mem = s.mem := by
  simp [State.sendDrain]

@[simp] theorem State.mem_sendTime (s : State) (up : List Nat) : (s.sendTime up).mem = s.mem := by simp [State.sendTime]

/-! ## Deliver: traffic that reached its cluster -/

@[simp] theorem State.mem_inImage {f : State → State} (hf : ∀ s, (f s).mem = s.mem) (s : State) (key : Nat) :
    (s.inImage key f).mem = s.mem := by
  simp [State.inImage, hf]

@[simp] theorem State.mem_atInbox {f : State → State} (hf : ∀ s, (f s).mem = s.mem) (s : State) (core chid : Nat) :
    (s.atInbox core chid f).mem = s.mem := by
  unfold State.atInbox
  repeat' split
  all_goals simp [hf]

@[simp] theorem State.mem_deliverFault (s : State) (part die : Nat) : (s.deliverFault part die).mem = s.mem := by
  unfold State.deliverFault
  dsimp only
  repeat' split
  all_goals simp

@[simp] theorem State.mem_parkLaunch (s : State) (k : Nat) (m : Msg) : (s.parkLaunch k m).mem = s.mem := by simp [State.parkLaunch]
@[simp] theorem State.mem_atHome (s : State) (x : PBody) : (s.atHome x).mem = s.mem := by unfold State.atHome; split <;> simp

@[simp] theorem State.mem_takeFarParked (s : State) (cl : Nat) : (s.takeFarParked cl).mem = s.mem := by
  unfold State.takeFarParked
  dsimp only
  split
  next p t ht =>
    have hpt : t.mem = s.mem := State.mem_takeArrived ht
    split
    · exact State.mem_getD (fun u hu => (State.mem_takeOffer hu).trans hpt) rfl
    · rfl
  · rfl

@[simp] theorem State.mem_closeAtCore (s : State) (core chid fseq name part : Nat) :
    (s.closeAtCore core chid fseq name part).mem = s.mem := by
  have htake (u : State) : ((u.takeParked core chid (.close fseq name)).getD u).mem = u.mem :=
    State.mem_getD (fun _ ht => State.mem_takeParked ht) rfl
  unfold State.closeAtCore
  split <;> simp [htake]

@[simp] theorem State.mem_addInbox (s : State) (slot k : Nat) (h : BitVec 128) : (s.addInbox slot k h).mem = s.mem := by
  unfold State.addInbox
  dsimp only
  split <;> simp

@[simp] theorem State.mem_landEnd (s : State) (slot k : Nat) (h : BitVec 128) (back : Bool) : (s.landEnd slot k h back).mem = s.mem := by
  simp [State.landEnd]

@[simp] theorem State.mem_returnEnds (s : State) (m : Msg) : (s.returnEnds m).mem = s.mem := by simp [State.returnEnds]

@[simp] theorem State.mem_queueEvent (s : State) (slot : Nat) (e : Evt) : (s.queueEvent slot e).mem = s.mem := by
  unfold State.queueEvent
  dsimp only
  repeat' split
  all_goals simp

@[simp] theorem State.mem_windowEvent (s : State) (w : Nat) (e : Evt) : (s.windowEvent w e).mem = s.mem := by rfl

theorem State.mem_deliverRefusal {s t : State} {m : Msg} {detail name : Nat} (h : s.deliverRefusal m detail name = some t) :
    t.mem = s.mem := by
  unfold State.deliverRefusal at h
  repeat' split at h
  all_goals cases h <;> simp

theorem State.mem_deliverEvent {s t : State} {name : Nat} {e : Evt} (h : s.deliverEvent name e = some t) : t.mem = s.mem := by
  unfold State.deliverEvent at h
  repeat' split at h
  all_goals cases h <;> simp

@[simp] theorem keeps_readOne (part die base tmpl : Nat) : Keeps (readOne part die base tmpl) := by unfold readOne; exact .body

@[simp] theorem State.wf_spawn (s : State) (core : Nat) (m : Msg) (h : s.mem.wf = true) : (s.spawn core m).mem.wf = true := by
  unfold State.spawn
  dsimp only
  split
  · simp [h]
  split
  · simp [h]
  split
  next t tab u hu =>
    have hwf : u.mem.wf = true := (keeps_readOne _ _ _ _).ok h hu
    repeat' split
    all_goals simp [h, hwf]
  all_goals simp [h]

@[simp] theorem State.mem_landMsg (s : State) (slot : Nat) (m : Msg) : (s.landMsg slot m).mem = s.mem := by simp [State.landMsg]

@[simp] theorem State.mem_takeReady (s : State) (core : Nat) (r : Runnable) : (s.takeReady core r).2.2.2.mem = s.mem := by
  unfold State.takeReady
  dsimp only
  repeat' split
  all_goals simp

@[simp] theorem State.mem_startReady (s : State) (core k : Nat) (r : Runnable) : (s.startReady core k r).mem = s.mem := by
  unfold State.startReady
  dsimp only
  split <;> simp

/-! ## Rate: rate coupling -/

@[simp] theorem State.mem_sendDelta (s : State) (c : Chan) (name chid : Nat) (delta : Int) (producer : Bool) :
    (s.sendDelta c name chid delta producer).mem = s.mem := by
  unfold State.sendDelta
  repeat' split
  all_goals simp

@[simp] theorem State.mem_homeRate (s : State) (chid o : Nat) : (s.homeRate chid o).mem = s.mem := by unfold State.homeRate; split <;> simp

@[simp] theorem State.mem_takeDelta (s : State) (name chid : Nat) (delta : Int) (producer : Bool) :
    (s.takeDelta name chid delta producer).mem = s.mem := by
  unfold State.takeDelta
  split <;> simp

@[simp] theorem State.mem_homeAck (s : State) (chid : Nat) (producer : Bool) (clamp : Int) : (s.homeAck chid producer clamp).mem = s.mem := by
  unfold State.homeAck
  split <;> simp

/-! ## Sched: the network scheduler -/

@[simp] theorem State.mem_tellDone (s : State) (die part launcher lreg : Nat) (window : Option Nat) (w : Word) :
    (s.tellDone die part launcher lreg window w).mem = s.mem := by
  unfold State.tellDone
  split <;> simp

@[simp] theorem State.wf_schedRecord (s : State) (part kind die ticket detail : Nat) (h : s.mem.wf = true) :
    (s.schedRecord part kind die ticket detail).mem.wf = true := by
  simp [State.schedRecord, h]

@[simp] theorem State.mem_skipLaunch (s : State) (k fuel : Nat) : (s.skipLaunch k fuel).mem = s.mem := by
  induction fuel generalizing s with
  | zero => rfl
  | succ fuel ih =>
    unfold State.skipLaunch
    repeat' split
    all_goals simp [ih]

theorem State.mem_nextLaunch {s : State} {k : Nat} {r : Msg × State} (h : s.nextLaunch k = some r) : r.2.mem = s.mem := by
  unfold State.nextLaunch at h
  dsimp only at h
  repeat' split at h
  all_goals cases h <;> simp

@[simp] theorem State.mem_reject (s : State) (die : Nat) (m : Msg) (reason : Nat) : (s.reject die m reason).mem = s.mem := by
  simp [State.reject]

@[simp] theorem State.wf_launch (s : State) (k : Nat) (m : Msg) (h : s.mem.wf = true) : (s.launch k m).mem.wf = true := by
  unfold State.launch
  dsimp only
  split
  · simp [h]
  split
  · simp [h]
  · simp [h]
  next n u hu =>
    have hwf : u.mem.wf = true := (keeps_readNet _ _ _).ok h hu
    split <;> simp [hwf]

@[simp] theorem State.mem_cancel (s : State) (k : Nat) (m : Msg) : (s.cancel k m).mem = s.mem := by unfold State.cancel; split <;> simp

theorem State.mem_placeAll {s t : State} {id part place : Nat} {super : Bool} {cl : Option Nat} {xs : List (Nat × Tmpl × Tables)}
    {m : Map Nat} (h : s.placeAll id part place super cl xs = some (m, t)) : t.mem = s.mem := by
  induction xs generalizing s cl m with
  | nil => unfold State.placeAll at h; cases h; rfl
  | cons x xs ih =>
    unfold State.placeAll at h
    dsimp only at h
    repeat' split at h
    all_goals cases h
    next hrest => simpa using ih hrest

@[simp] theorem State.mem_makeNetChan (s : State) (idx die : Nat) (slots : Map Nat) (c : ChanEnt) :
    (s.makeNetChan idx die slots c).mem = s.mem := by
  simp -implicitDefEqProofs [State.makeNetChan]

theorem State.mem_makeNetChans {s t : State} {die : Nat} {slots : Map Nat} {cs : List ChanEnt}
    (h : s.makeNetChans die slots cs = some t) : t.mem = s.mem := by
  induction cs generalizing s with
  | nil => cases h; rfl
  | cons c cs ih =>
    unfold State.makeNetChans at h
    split at h
    · cases h
    · simpa using ih h

@[simp] theorem State.mem_sendStart (s : State) (slot : Nat) (t : Tmpl) : (s.sendStart slot t).mem = s.mem := by rfl

theorem State.mem_instantiate {s : State} {id die part place : Nat} {super : Bool} {n : NetImage} {r : Map Nat × State}
    (h : s.instantiate id die part super place n = some r) : r.2.mem = s.mem := by
  unfold State.instantiate at h
  split at h
  · cases h
  next slots u hu =>
    split at h
    · cases h
    next v hv =>
      cases h
      rw [State.mem_foldl (fun s e => by simp), State.mem_makeNetChans hv, State.mem_placeAll hu]

theorem State.wf_dispatchNet {s t : State} {id : Nat} {n : Net} (h : s.mem.wf = true) (ht : s.dispatchNet id n = some t) :
    t.mem.wf = true := by
  unfold State.dispatchNet at ht
  split at ht
  · cases ht
  next im u hu =>
    have hwf : u.mem.wf = true := (keeps_readNet _ _ _).ok h hu
    obtain ⟨r, hr, rfl⟩ := Option.map_eq_some_iff.mp ht
    simp [State.mem_instantiate hr, hwf]

/-! ## MemEvents: fills -/

@[simp] theorem State.mem_installLine (s : State) (h : Home) (line part : Nat) : (s.installLine h line part).mem = s.mem := by
  unfold State.installLine
  dsimp only
  repeat' split
  all_goals simp

theorem State.mem_nextDieMsg {s : State} {die : Nat} {want : DieMsg → Bool} {r : DieMsg × State} (h : s.nextDieMsg die want = some r) :
    r.2.mem = s.mem := by
  unfold State.nextDieMsg at h
  split at h <;> cases h
  rfl

/-! ## Bar0: the host's side -/

@[simp] theorem State.mem_modWindow (s : State) (p w : Nat) (f : HostWindow → HostWindow) : (s.modWindow p w f).mem = s.mem := by rfl

@[simp] theorem State.mem_windowGo (s : State) (p w : Nat) : (s.windowGo p w).mem = s.mem := by
  unfold State.windowGo
  dsimp only
  split <;> simp

@[simp] theorem State.mem_writeWctrl (s : State) (p w : Nat) (v : Word) : (s.writeWctrl p w v).mem = s.mem := by simp [State.writeWctrl]
@[simp] theorem State.mem_freezeFunction (s : State) (p : Nat) : (s.freezeFunction p).mem = s.mem := by rfl

@[simp] theorem State.wf_passStore (s : State) (r : HostReq) (bs : List Byte) (h : s.mem.wf = true) : (s.passStore r bs).mem.wf = true := by
  simp [State.passStore, wf_writeAt, h]

@[simp] theorem State.mem_passLoad (s : State) (r : HostReq) : (s.passLoad r).mem = s.mem := by rfl
@[simp] theorem State.mem_awake (s : State) : s.awake.mem = s.mem := by rfl
@[simp] theorem State.mem_writeLattol (s : State) (p : Nat) (v : Word) : (s.writeLattol p v).mem = s.mem := by simp [State.writeLattol]

@[simp] theorem State.mem_writeWindow (s : State) (p w o : Nat) (v : Word) : (s.writeWindow p w o v).mem = s.mem := by
  simp [State.writeWindow]

@[simp] theorem State.mem_writePartBar (s : State) (p o : Nat) (v : Word) : (s.writePartBar p o v).mem = s.mem := by
  simp [State.writePartBar]

@[simp] theorem State.mem_writeMgmtBar (s : State) (o : Nat) (v : Word) : (s.writeMgmtBar o v).mem = s.mem := by simp [State.writeMgmtBar]
@[simp] theorem State.mem_resetEngine (s : State) (u : Nat) : (s.resetEngine u).mem = s.mem := by rfl

/-! ## Fences: checkpoint cuts -/

theorem wf_zeroBytes {m : Memory} (a n : Nat) (h : m.wf = true) : (zeroBytes m a n).wf = true :=
  List.foldlRecOn (motive := fun m : Memory => m.wf = true) _ _ h fun _ hm x _ => wf_writeByte x 0#8 hm

theorem wf_foldl_writeNat {α : Type} {m : Memory} (xs : List α) (a v : α → Nat) (n : Nat) (h : m.wf = true) :
    (xs.foldl (fun m e => writeNat m (a e) n (v e)) m).wf = true := by
  induction xs generalizing m with
  | nil => exact h
  | cons x xs ih => exact ih (wf_writeNat _ _ _ h)

@[simp] theorem State.wf_takeCut (s : State) (k : Nat) (h : s.mem.wf = true) : (s.takeCut k).mem.wf = true := by
  unfold State.takeCut
  split
  · exact h
  · extract_lets p gs m m'
    have hm : m.wf = true := wf_zeroBytes _ _ h
    have hm' : m'.wf = true := by
      simp only [m']
      split
      · exact wf_foldl_writeNat _ _ _ _ hm
      · exact hm
    exact State.wf_foldl (fun s d hs => by simp [hs]) _ hm'

/-! ## Keystone: the Keystone -/

@[simp] theorem State.wf_resetDevice (s : State) (h : s.mem.wf = true) : s.resetDevice.mem.wf = true := by simp [State.resetDevice, h]
@[simp] theorem State.mem_trainLinks (s : State) (mask dev : Nat) : (s.trainLinks mask dev).mem = s.mem := by simp [State.trainLinks]
@[simp] theorem State.mem_runStart (s : State) : s.runStart.mem = s.mem := by simp [State.runStart]
@[simp] theorem State.mem_mailDone (s : State) (result : Nat) (reply : List Byte) : (s.mailDone result reply).mem = s.mem := by rfl
@[simp] theorem State.mem_mailRefused (s : State) : s.mailRefused.mem = s.mem := by rfl
@[simp] theorem State.mem_mailUnserved (s : State) : s.mailUnserved.mem = s.mem := by unfold State.mailUnserved; split <;> simp
@[simp] theorem State.mem_mailPost (s : State) : s.mailPost.mem = s.mem := by unfold State.mailPost; dsimp only; split <;> simp

@[simp] theorem State.mem_makeWindows (s : State) (p die : Nat) : (s.makeWindows p die).mem = s.mem :=
  State.mem_foldl (fun s w => by split <;> simp) _ _

@[simp] theorem State.mem_giveEnd (s : State) (slot k idx home : Nat) (recv : Bool) (loc : Option Nat) :
    (s.giveEnd slot k idx home recv loc).mem = s.mem := by
  rfl

@[simp] theorem State.mem_faultEnd (s : State) (slot die idx : Nat) : (s.faultEnd slot die idx).mem = s.mem := by rfl
@[simp] theorem State.mem_launchEnd (s : State) (slot die idx : Nat) : (s.launchEnd slot die idx).mem = s.mem := by rfl

@[simp] theorem State.mem_controlEnd (s : State) (slot n reg idx : Nat) : (s.controlEnd slot n reg idx).mem = s.mem := by
  simp [State.controlEnd]

@[simp] theorem State.mem_withIndex {f : Nat → State → State} (hf : ∀ i s, (f i s).mem = s.mem) (s : State) : (s.withIndex f).mem = s.mem := by
  unfold State.withIndex
  split <;> simp [hf]

@[simp] theorem State.mem_superEnds (s : State) (slot die : Nat) : (s.superEnds slot die).mem = s.mem := by simp [State.superEnds]

@[simp] theorem State.wf_startSuper (s : State) (p image die : Nat) (h : s.mem.wf = true) : (s.startSuper p image die).mem.wf = true := by
  unfold State.startSuper
  split
  · simp [h]
  · exact h
  next im u hu =>
    have hwf : u.mem.wf = true := (keeps_readNet _ _ _).ok h hu
    split
    · exact hwf
    split
    · split
      · exact hwf
      · simp [hwf]
    · exact hwf

@[simp] theorem State.wf_setPart (s : State) (p : Nat) (q : Partition) (image : Nat) (mask : Word) (h : s.mem.wf = true) :
    (s.setPart p q image mask).mem.wf = true := by
  unfold State.setPart
  extract_lets s₁ s₂ s₃
  have hs₂ : s₂.mem.wf = true := State.wf_foldl (fun s d hs => by simp [hs]) _ h
  split
  · exact hs₂
  · exact State.wf_foldl (fun s d hs => by simp [hs]) _ (by simpa [s₃] using hs₂)

@[simp] theorem State.mem_answerSpdm (s : State) (req : List Byte) (flash : Bool) (n : Nat) : (s.answerSpdm req flash n).2.mem = s.mem := by
  unfold State.answerSpdm
  dsimp only
  repeat' split
  all_goals simp

@[simp] theorem State.mem_hostRead (s : State) (fn o : Nat) : (s.hostRead fn o).mem = s.mem := by simp [State.hostRead]

/-! ## Fetch: the front end -/

theorem State.wf_fetchWord {s : State} {n k va : Nat} {r : BitVec 32 × State} (h : s.mem.wf = true)
    (hr : s.fetchWord n k va = .ok r) : r.2.mem.wf = true := by
  unfold State.fetchWord at hr
  dsimp only at hr
  repeat' split at hr
  all_goals cases hr
  all_goals exact State.wf_translate h (by assumption)

@[simp] theorem State.mem_loseSlot (s : State) (n k : Nat) : (s.loseSlot n k).mem = s.mem := by simp [State.loseSlot]

@[simp] theorem State.mem_noteResult (s : State) (n k : Nat) (i : Instr) : (s.noteResult n k i).mem = s.mem := by
  unfold State.noteResult
  split <;> simp

@[simp] theorem State.mem_issueHint (s : State) (n k : Nat) (w : BitVec 32) : (s.issueHint n k w).mem = s.mem := by rfl

@[simp] theorem State.mem_afterTurn (s u : State) (t : Turn) (i : Instr) : (s.afterTurn u t i).mem = s.mem := by
  unfold State.afterTurn
  split <;> simp

/-! ## Auto: the next act -/

@[simp] theorem State.mem_hostWakes (s : State) (a : Act) : (s.hostWakes a).mem = s.mem := by simp [State.hostWakes]
@[simp] theorem State.mem_countClocks (s : State) (clocks : Nat) : (s.countClocks clocks).mem = s.mem := by simp [State.countClocks]

@[simp] theorem State.mem_passTime (s : State) (clocks ns : Nat) : (s.passTime clocks ns).mem = s.mem := by
  unfold State.passTime
  rw [State.mem_mailPost, State.mem_mailUnserved]
  dsimp only
  exact State.mem_countClocks _ _

@[simp] theorem State.mem_softError (s : State) (line : Nat) : (s.softError line).mem = s.mem := by simp [State.softError]

/-! ## Reduce: reductions -/

@[simp] theorem keeps_axisRule (o : Opnd) (axis : Nat) : Keeps (axisRule o axis) := by unfold axisRule; exact .body

@[simp] theorem keeps_reduceBody (i : Instr) (d : BitVec 5) (srcs : List (BitVec 5)) (t : BitVec 4) (axis : Nat) (f : Nat → List
    (Option Nat) → Nat × BitVec 6) (h : Hints) : Keeps (reduceBody i d srcs t axis f h) := by
  unfold reduceBody
  exact .body

/-! ## Sfu: special functions -/

@[simp] theorem State.mem_sfuServed (s : State) (core : Nat) : (s.sfuServed core).mem = s.mem := by rfl

@[simp] theorem keeps_sfuBeat (p : Plan) (h : Hints) (f : Nat → List Nat → Nat × BitVec 6) : Keeps (sfuBeat p h f) := by
  unfold sfuBeat
  exact .body

@[simp] theorem keeps_sfuBody (fn : Nat) (i : Instr) (d a : BitVec 5) (t : BitVec 4) (h : Hints) : Keeps (sfuBody fn i d a t h) := by
  unfold sfuBody
  exact .body

/-! ## Step: the act to come -/

@[simp] theorem State.mem_takeAct (s : State) : s.takeAct.2.mem = s.mem := by unfold State.takeAct; (repeat' split) <;> simp

end Sys2Proof.Machine
end

section
/-!
SUPPORT. Canonical memory (O60): every row of the table of instructions and events keeps it.
-/

-- `Keeps.body` runs a default tactic, which waits for all that stands before it: proofs of this section go one after another.
set_option Elab.async false

namespace Sys2Proof.Machine

/-! ## What comes of a row -/

/-- What comes of an action is of canonical memory. -/
def Out.Canonical : Out → Prop
  | .next t => t.mem.wf = true
  | _ => True

@[simp] theorem Out.canonical_next (t : State) : Out.Canonical (.next t) ↔ t.mem.wf = true := Iff.rfl
@[simp] theorem Out.canonical_fault (e : Fault) : Out.Canonical (.fault e) := trivial
@[simp] theorem Out.canonical_refused (r : Refusal) : Out.Canonical (.refused r) := trivial

theorem Out.canonical_nextWith {f : State → State} {o : Out} (hf : ∀ s, (f s).mem = s.mem) (h : o.Canonical) :
    (nextWith f o).Canonical := by
  cases o with
  | next s => exact (Out.canonical_next _).mpr ((hf s).symm ▸ h)
  | fault e => trivial
  | refused r => trivial

@[simp] theorem Out.canonical_ite {p : Prop} [Decidable p] {o o' : Out} (h : o.Canonical) (h' : o'.Canonical) :
    Out.Canonical (if p then o else o') := by split <;> assumption

section Halves
variable {i : Instr} {body : Hints → M Disp} {s : State}

theorem Out.canonical_aHalf (hb : ∀ g, Keeps (body g)) (h : s.mem.wf = true) : (aHalf i body s).Canonical := by
  unfold aHalf
  dsimp only
  repeat' split
  any_goals simp [h]
  next hd => exact (hb _).ok h hd

theorem Out.canonical_eHalf (hb : ∀ g, Keeps (body g)) (h : s.mem.wf = true) : (eHalf i body s).Canonical := by
  unfold eHalf
  dsimp only
  repeat' split
  all_goals simp [h, wf_runE hb]

end Halves

@[simp] theorem Out.canonical_fetchHint (w : BitVec 32) {s : State} (h : s.mem.wf = true) : (fetchHint w s).Canonical := by
  unfold fetchHint; split <;> simp [h]

@[simp] theorem Out.canonical_fetchStall (n : Nat) (w : BitVec 32) {s : State} (h : s.mem.wf = true) : (fetchStall n w s).Canonical := by
  unfold fetchStall; split <;> simp [h]

@[simp] theorem Out.canonical_controlRow (cmd : Nat) {s : State} (h : s.mem.wf = true) : (s.controlRow cmd).Canonical := by
  unfold State.controlRow
  dsimp only
  repeat' split
  all_goals simp [h]

/-! ## What rows do to the state they are given -/

theorem wf_foldl_prefElem (c : Client) (b : Box) (ro : Bool) (ks : List Nat) {s : State} (hs : s.mem.wf = true) :
    (ks.foldl (fun s k => prefElem c b ro k s) s).mem.wf = true := State.wf_foldl (fun s k hs => by simp [hs]) ks hs

theorem State.wf_expireWatch {s t : State} {word : Watch → Nat} {after : Watch → Know} {ws ws' : List Watch} (hs : s.mem.wf = true)
    (h : s.expireWatch word after ws = some (ws', t)) : t.mem.wf = true := by
  have hmem : t.mem = s.mem := State.mem_expireWatch h
  rw [hmem]; exact hs

theorem State.wf_foldl_endJob {s : State} (js : List MJob) (how : Nat) (f : Option (FaultCode × Word)) (hs : s.mem.wf = true) :
    (js.foldl (fun s j => s.endJob j how f) s).mem.wf = true := State.wf_foldl (fun s j hs => by simp [hs]) js hs

theorem State.wf_takeArrived {s t : State} {cl : Nat} {want : PBody → Bool} {p : Packet} (hs : s.mem.wf = true)
    (h : s.takeArrived cl want = some (p, t)) : t.mem.wf = true := by
  have hmem : t.mem = s.mem := State.mem_takeArrived h
  rw [hmem]; exact hs

theorem State.wf_nextLaunch {s t : State} {k : Nat} {m : Msg} (hs : s.mem.wf = true) (h : s.nextLaunch k = some (m, t)) :
    t.mem.wf = true := by
  have hmem : t.mem = s.mem := State.mem_nextLaunch h
  rw [hmem]; exact hs

theorem State.wf_nextDieMsg {s t : State} {die : Nat} {want : DieMsg → Bool} {m : DieMsg} (hs : s.mem.wf = true)
    (h : s.nextDieMsg die want = some (m, t)) : t.mem.wf = true := by
  have hmem : t.mem = s.mem := State.mem_nextDieMsg h
  rw [hmem]; exact hs

section Rows
variable {σ : State} (hs : σ.mem.wf = true)
include hs

/-! ## Rows of Branch -/

theorem execDbnz_canonical (s : BitVec 5) (d : BitVec 16) : (execDbnz s d σ).Canonical := Out.canonical_aHalf (fun _ => .body) hs

/-! ## Rows of System -/

theorem execMfs_canonical (d : BitVec 5) (x : BitVec 6) : (execMfs d x σ).Canonical := Out.canonical_aHalf (fun _ => .body) hs
theorem execTrap_canonical (c : BitVec 6) : (execTrap c σ).Canonical := Out.canonical_aHalf (fun _ => .body) hs
theorem execEret_canonical : (execEret σ).Canonical := Out.canonical_aHalf (fun _ => .body) hs
theorem execPark_canonical (x : BitVec 6) : (execPark x σ).Canonical := Out.canonical_aHalf (fun _ => .body) hs

theorem execIllegalWord_canonical (w : BitVec 32) : (execIllegalWord w σ).Canonical := by
  unfold execIllegalWord
  repeat' split
  · exact Out.canonical_fetchHint w hs
  · exact Out.canonical_eHalf (fun _ => .failWith _ _) hs
  · exact Out.canonical_aHalf (fun _ => .body) hs

theorem execHstall_canonical (n : BitVec 8) : (execHstall n σ).Canonical := by simp [execHstall, hs]
theorem execHimm_canonical (p : BitVec 22) : (execHimm p σ).Canonical := by simp [execHimm, hs]

theorem execHmod_canonical (r : BitVec 3) (t : BitVec 1) (p : BitVec 3) (z o u : BitVec 1) (b : BitVec 5) (c : BitVec 2) (e : BitVec 3) :
    (execHmod r t p z o u b c e σ).Canonical := by
  simp [execHmod, hs]

theorem execHbr_canonical (h : BitVec 2) : (execHbr h σ).Canonical := by simp [execHbr, hs]

/-! ## Rows of DevReg -/

theorem execTinvcGo_canonical : (execTinvcGo σ).Canonical := by simp [execTinvcGo, hs]
theorem execTinvcDone_canonical : (execTinvcDone σ).Canonical := by simp [execTinvcDone, hs]
theorem execScfgWrite_canonical : (execScfgWrite σ).Canonical := by simp [execScfgWrite, hs]
theorem execFillmaskWrite_canonical : (execFillmaskWrite σ).Canonical := by simp [execFillmaskWrite, hs]
theorem execPctlWrite_canonical : (execPctlWrite σ).Canonical := by simp [execPctlWrite, hs]
theorem execPortstatClr_canonical : (execPortstatClr σ).Canonical := by simp [execPortstatClr, hs]
theorem execPortstatRetrain_canonical : (execPortstatRetrain σ).Canonical := by simp [execPortstatRetrain, hs]
theorem execRingConfigWrite_canonical : (execRingConfigWrite σ).Canonical := by simp [execRingConfigWrite, hs]
theorem execPcntWrite_canonical : (execPcntWrite σ).Canonical := by simp [execPcntWrite, hs]

/-! ## Rows of LoadStore -/

theorem execSt_canonical (d c : BitVec 5) (L : BitVec 8) (t : BitVec 4) (r : BitVec 1) : (execSt d c L t r σ).Canonical :=
  Out.canonical_aHalf (fun _ => .body) hs

theorem execLdq_canonical (c : BitVec 5) : (execLdq c σ).Canonical := Out.canonical_aHalf (fun _ => .body) hs
theorem execStq_canonical (c : BitVec 5) : (execStq c σ).Canonical := Out.canonical_aHalf (fun _ => .body) hs
theorem execLaysub_canonical (i b : BitVec 5) : (execLaysub i b σ).Canonical := Out.canonical_aHalf (fun _ => .body) hs

theorem execPref_canonical (b : BitVec 5) (r : BitVec 1) : (execPref b r σ).Canonical := by
  refine Out.canonical_aHalf (fun g => .bind (by simp) fun x => .gets_bind fun s _ => .bind (.mods fun s hs => ?_) fun _ => .pure _) hs
  split
  · exact wf_foldl_prefElem _ _ _ _ hs
  · exact hs

/-! ## Rows of Atomics -/

theorem execLoadDataReturn_canonical : (execLoadDataReturn σ).Canonical := by unfold execLoadDataReturn; split <;> simp [hs]
theorem execAtomicReply_canonical : (execAtomicReply σ).Canonical := by unfold execAtomicReply; split <;> simp [hs]

theorem execAtomicAtHome_canonical : (execAtomicAtHome σ).Canonical := by
  unfold execAtomicAtHome
  dsimp only
  split
  · exact hs
  split
  · simp [hs]
  split
  next t ht => simp [State.mem_scopeCheck ht, hs]
  · simp [hs]

theorem execScratchpadAtomic_canonical : (execScratchpadAtomic σ).Canonical := by simp [execScratchpadAtomic, hs]

theorem execWaitaTimeout_canonical : (execWaitaTimeout σ).Canonical := by
  unfold execWaitaTimeout
  dsimp only
  split
  · trivial
  split
  · split
    next ht => simp [State.wf_expireWatch hs ht]
    · exact hs
  · split
    next ht => simp [State.wf_expireWatch hs ht]
    · exact hs

/-! ## Rows of Barrier -/

theorem execBarrierOperation_canonical : (execBarrierOperation σ).Canonical := by
  unfold execBarrierOperation
  split
  next ht => simp [State.mem_barNext ht, hs]
  · exact hs

/-! ## Rows of Outbox -/

theorem execOutboxEntryLeave_canonical : (execOutboxEntryLeave σ).Canonical := by
  unfold execOutboxEntryLeave
  split
  · exact hs
  split
  next ht => exact keeps_leaveFirst.ok hs ht
  · exact hs

/-! ## Rows of Tags -/

theorem execBarwait_canonical (f a : BitVec 5) : (execBarwait f a σ).Canonical := Out.canonical_aHalf (fun _ => .body) hs
theorem execBartest_canonical (f a d : BitVec 5) : (execBartest f a d σ).Canonical := Out.canonical_aHalf (fun _ => .body) hs

/-! ## Rows of Copy -/

theorem execCpy_canonical (d a : BitVec 5) (t : BitVec 6) : (execCpy d a t σ).Canonical := Out.canonical_aHalf (fun _ => .body) hs
theorem execCpyred_canonical (d a : BitVec 5) (t : BitVec 6) : (execCpyred d a t σ).Canonical := Out.canonical_aHalf (fun _ => .body) hs
theorem execGath_canonical (d a i : BitVec 5) (t : BitVec 6) : (execGath d a i t σ).Canonical := Out.canonical_aHalf (fun _ => .body) hs
theorem execScat_canonical (d a i : BitVec 5) (t : BitVec 6) : (execScat d a i t σ).Canonical := Out.canonical_aHalf (fun _ => .body) hs
theorem execHalo_canonical (o b k : BitVec 5) (t : BitVec 6) : (execHalo o b k t σ).Canonical := Out.canonical_aHalf (fun _ => .body) hs

theorem execStrm_canonical (v b : BitVec 5) (t : BitVec 6) : (execStrm v b t σ).Canonical := by
  refine Out.canonical_aHalf (fun g => ?_) hs
  iterate 8 refine .bind (by simp) fun _ => ?_
  exact keeps_issueCopy _ _ _ _ .body

theorem execFillw_canonical (v b w : BitVec 5) (t : BitVec 6) : (execFillw v b w t σ).Canonical := Out.canonical_aHalf (fun _ => .body) hs

theorem execCpycan_canonical (t : BitVec 6) : (execCpycan t σ).Canonical :=
  Out.canonical_aHalf (fun _ => .bind (by simp) fun _ => .gets_bind fun s hs =>
    .bind (.mods fun _ _ => State.wf_foldl_endCopy _ _ (by simpa using hs)) fun _ => .bind (.setStatus _) fun _ => .pure _) hs

/-! ## Rows of Hod -/

theorem execReductionMerge_canonical : (execReductionMerge σ).Canonical := by simp [execReductionMerge, hs]

theorem execHodLineTransfer_canonical : (execHodLineTransfer σ).Canonical := by
  unfold execHodLineTransfer
  dsimp only
  repeat' split
  all_goals simp [hs]

theorem execHodCommandComplete_canonical : (execHodCommandComplete σ).Canonical := by
  unfold execHodCommandComplete
  dsimp only
  repeat' split
  all_goals simp [hs]

theorem execSystemCopyTransfer_canonical : (execSystemCopyTransfer σ).Canonical := by
  unfold execSystemCopyTransfer
  dsimp only
  repeat' split
  all_goals simp [hs]

/-! ## Rows of Matrix -/

theorem execMma_canonical (v a b : BitVec 5) (t : BitVec 6) : (execMma v a b t σ).Canonical := Out.canonical_aHalf (fun _ => .body) hs
theorem execMmas_canonical (r a b : BitVec 5) (t : BitVec 6) : (execMmas r a b t σ).Canonical := Out.canonical_aHalf (fun _ => .body) hs
theorem execMrot_canonical (v a b : BitVec 5) (t : BitVec 6) : (execMrot v a b t σ).Canonical := Out.canonical_aHalf (fun _ => .body) hs
theorem execMrd_canonical (d v : BitVec 5) (t : BitVec 6) : (execMrd d v t σ).Canonical := Out.canonical_aHalf (fun _ => .body) hs
theorem execMwait_canonical (r : BitVec 5) : (execMwait r σ).Canonical := Out.canonical_aHalf (fun _ => .body) hs
theorem execMpoll_canonical (d r : BitVec 5) : (execMpoll d r σ).Canonical := Out.canonical_aHalf (fun _ => .body) hs

theorem execMcan_canonical (t : BitVec 6) : (execMcan t σ).Canonical :=
  Out.canonical_aHalf (fun _ => .bind (by simp) fun _ => .gets_bind fun s hs =>
    .bind (.mods fun _ _ => by simp [State.wf_foldl_endJob, hs]) fun _ => .bind (.setStatus _) fun _ => .pure _) hs

/-! ## Rows of Jobs -/

theorem execMatrixStepGrant_canonical : (execMatrixStepGrant σ).Canonical := by
  unfold execMatrixStepGrant
  dsimp only
  repeat' split
  all_goals simp [hs]

theorem execMatrixStepRetire_canonical : (execMatrixStepRetire σ).Canonical := by
  unfold execMatrixStepRetire
  dsimp only
  split
  · trivial
  split
  · exact hs
  split
  · exact hs
  split
  · split
    · simp [hs]
    split
    next ht => simp [(keeps_replayStep _ _ _).ok hs ht]
    · simp [hs]
    · exact hs
  · simp [hs]
  · split
    · simp [hs]
    split
    next ht => exact (keeps_replayStep _ _ _).ok hs ht
    · simp [hs]
    · exact hs
  · repeat' split
    all_goals simp [hs]

theorem execMatrixJobComplete_canonical : (execMatrixJobComplete σ).Canonical := by
  unfold execMatrixJobComplete
  dsimp only
  split
  · trivial
  split
  · exact hs
  split
  · exact hs
  split
  · split
    next ht => simp [(keeps_mergeAll _ _ _).ok hs ht]
    · simp [hs]
    · exact hs
  · simp [hs]

theorem execMatrixJobPoison_canonical : (execMatrixJobPoison σ).Canonical := by
  unfold execMatrixJobPoison
  dsimp only
  repeat' split
  all_goals simp [hs]

theorem execRotationSlotAccept_canonical : (execRotationSlotAccept σ).Canonical := by
  unfold execRotationSlotAccept
  dsimp only
  repeat' split
  all_goals simp [hs]

theorem execWritebackPortOp_canonical : (execWritebackPortOp σ).Canonical := by
  unfold execWritebackPortOp
  extract_lets cl q s
  have hpass : s.mem.wf = true := by simp [s, hs]
  clear_value s
  split
  · trivial
  split
  · exact hpass
  split
  · exact hpass
  generalize List.replicate 1024 0 = zeros
  split
  · simp [hpass]
  · split
    · split <;> simp [hpass]
    · dsimp only
      split
      next ht => split <;> simp [(keeps_readOut _).ok hpass ht]
      next ht => exact (keeps_readOut _).ok hpass ht
      · simp [hpass]
      · exact hpass
  · exact hpass

/-! ## Rows of Msg -/

theorem execChnew_canonical (d r : BitVec 5) : (execChnew d r σ).Canonical := Out.canonical_aHalf (fun _ => .body) hs
theorem execSende_canonical (f n l : BitVec 5) (e : BitVec 6) : (execSende f n l e σ).Canonical := Out.canonical_aHalf (fun _ => .body) hs
theorem execEinfo_canonical (d sel : BitVec 5) (e : BitVec 6) : (execEinfo d sel e σ).Canonical := Out.canonical_aHalf (fun _ => .body) hs
theorem execSpawn_canonical (b a l : BitVec 5) (n : BitVec 6) : (execSpawn b a l n σ).Canonical := Out.canonical_aHalf (fun _ => .body) hs

/-! ## Rows of Groups -/

theorem execGstv_canonical (n o v : BitVec 5) : (execGstv n o v σ).Canonical := Out.canonical_aHalf (fun _ => .body) hs

/-! ## Rows of Landing -/

theorem execLandingStoreArrival_canonical : (execLandingStoreArrival σ).Canonical := by simp [execLandingStoreArrival, hs]
theorem execHaloPushArrival_canonical : (execHaloPushArrival σ).Canonical := by simp [execHaloPushArrival, hs]

/-! ## Rows of Lintel -/

theorem execLgraph_canonical (f : BitVec 5) : (execLgraph f σ).Canonical := by
  refine Out.canonical_aHalf (fun _ => ?_) hs
  refine .bind (.guardFault _ _ _) fun _ => .bind (by simp) fun _ => .gets_bind fun _ _ => .bind (.require _) fun _ =>
    .bind (.guardFault _ _ _) fun _ => keeps_sendEntry (.mods fun _ hs => by simp [hs])

theorem execLwait_canonical (d a c : BitVec 5) : (execLwait d a c σ).Canonical := Out.canonical_aHalf (fun _ => .body) hs
theorem execLintelGraphEnd_canonical : (execLintelGraphEnd σ).Canonical := by unfold execLintelGraphEnd; (repeat' split) <;> simp [hs]

theorem execLintelGraphStart_canonical : (execLintelGraphStart σ).Canonical := by
  unfold execLintelGraphStart
  extract_lets k s q gone
  have hpass : s.mem.wf = true := by simp [s, hs]
  have hgone (u : State) : (gone u).mem = u.mem := rfl
  clear_value s
  split
  · trivial
  split
  · exact hpass
  split
  · exact hpass
  split
  · simp [hgone, hpass]
  · exact hpass
  next ht =>
    have hwf := (keeps_openGraph _).ok hpass ht
    split <;> simp [hgone, hwf, hpass]

theorem execLintelUnitFlit_canonical : (execLintelUnitFlit σ).Canonical := by
  unfold execLintelUnitFlit
  dsimp only
  repeat' split
  all_goals simp [hs]

theorem execLintelIngressFlit_canonical : (execLintelIngressFlit σ).Canonical := by
  unfold execLintelIngressFlit
  dsimp only
  repeat' split
  all_goals simp [hs]

theorem execIngressFlitExpiry_canonical : (execIngressFlitExpiry σ).Canonical := by simp [execIngressFlitExpiry, hs]

/-! ## Rows of Preempt -/

theorem execPreempt_canonical : (execPreempt σ).Canonical := by
  unfold execPreempt
  extract_lets cl s₁ s₂ mine s₃ ticket
  have hs₂ : s₂.mem = σ.mem := State.mem_foldl (fun s n => by simp) _ _
  have hs₃ : s₃.mem.wf = true := by simpa -implicitDefEqProofs [s₃, hs₂] using hs
  repeat' split
  · trivial
  · exact hs
  · simp [hs₃]
  · exact hs₃

theorem execCoreAcknowledge_canonical : (execCoreAcknowledge σ).Canonical := by
  unfold execCoreAcknowledge
  dsimp only
  repeat' split
  all_goals simp [hs]

theorem execPoolCopyDone_canonical : (execPoolCopyDone σ).Canonical := by unfold execPoolCopyDone; dsimp only; (repeat' split) <;> simp [hs]

/-! ## Rows of Control -/

theorem execResume_canonical : (execResume σ).Canonical := by simp [execResume, hs]
theorem execRestart_canonical : (execRestart σ).Canonical := by simp [execRestart, hs]
theorem execKill_canonical : (execKill σ).Canonical := by simp [execKill, hs]
theorem execExit_canonical : (execExit σ).Canonical := by simp [execExit, hs]
theorem execHang_canonical : (execHang σ).Canonical := by simp [execHang, hs]

/-! ## Rows of Mortar -/

theorem execMortarHop_canonical : (execMortarHop σ).Canonical := by simp [execMortarHop, hs]

/-! ## Rows of Pod -/

theorem execXanolForward_canonical : (execXanolForward σ).Canonical := by unfold execXanolForward; dsimp only; (repeat' split) <;> simp [hs]
theorem execLinkReplay_canonical : (execLinkReplay σ).Canonical := by simp [execLinkReplay, hs]
theorem execLinkTrainingDone_canonical : (execLinkTrainingDone σ).Canonical := by simp [execLinkTrainingDone, hs]
theorem execPacketAgeing_canonical : (execPacketAgeing σ).Canonical := by simp [execPacketAgeing, hs]
theorem execRemotePacketArrival_canonical : (execRemotePacketArrival σ).Canonical := by simp [execRemotePacketArrival, hs]

theorem execOrderedPacketRelease_canonical : (execOrderedPacketRelease σ).Canonical := by
  unfold execOrderedPacketRelease
  dsimp only
  split
  · trivial
  split
  next t rest ht =>
    have hwf : t.mem.wf = true := State.wf_firstTaken (by exact hs) ht
    exact hwf
  split
  · exact hs
  next p rest _ =>
    cases hu : ({ σ with stamped := put σ.stamped σ.turn.unit rest } : State).takeFar σ.turn.unit p with
    | none => exact hs
    | some u => exact State.wf_takeFar (by exact hs) hu

theorem execCountMarkerArrival_canonical : (execCountMarkerArrival σ).Canonical := by
  unfold execCountMarkerArrival
  repeat' split
  all_goals simp [hs]

theorem execMarkerWaitExpiry_canonical : (execMarkerWaitExpiry σ).Canonical := by unfold execMarkerWaitExpiry; split <;> simp [hs]
theorem execCountMarkerAck_canonical : (execCountMarkerAck σ).Canonical := by unfold execCountMarkerAck; (repeat' split) <;> simp [hs]
theorem execFenceAckTimeout_canonical : (execFenceAckTimeout σ).Canonical := by simp [execFenceAckTimeout, hs]

theorem execRemoteReplyTimeout_canonical : (execRemoteReplyTimeout σ).Canonical := by
  unfold execRemoteReplyTimeout
  repeat' split
  all_goals simp [hs]

theorem execDrainMarker_canonical : (execDrainMarker σ).Canonical := by unfold execDrainMarker; dsimp only; (repeat' split) <;> simp [hs]
theorem execTimeMessage_canonical : (execTimeMessage σ).Canonical := by unfold execTimeMessage; (repeat' split) <;> simp [hs]

/-! ## Rows of Deliver -/

theorem execMessageArrival_canonical : (execMessageArrival σ).Canonical := by
  unfold execMessageArrival
  split
  · split <;> simp [hs]
  split
  · trivial
  split
  next p t ht =>
    have hwf : t.mem.wf = true := State.wf_takeArrived hs ht
    split <;> simp [hwf, hs]
  · exact hs

theorem execHomeForward_canonical : (execHomeForward σ).Canonical := by
  unfold execHomeForward
  dsimp only
  split
  · trivial
  split
  next p t ht =>
    have hwf : t.mem.wf = true := State.wf_takeArrived hs ht
    simp [hwf]
  · exact hs

theorem execLocationUpdate_canonical : (execLocationUpdate σ).Canonical := by
  unfold execLocationUpdate
  dsimp only
  split
  · trivial
  split
  next p t ht =>
    have hwf : t.mem.wf = true := State.wf_takeArrived hs ht
    split
    · split <;> simp [hwf]
    · exact hs
  · exact hs

theorem execEndLandingRegistration_canonical : (execEndLandingRegistration σ).Canonical := by
  unfold execEndLandingRegistration
  dsimp only
  split
  · trivial
  split
  next p t ht =>
    have hwf : t.mem.wf = true := State.wf_takeArrived hs ht
    split <;> simp [hwf, hs]
  · exact hs

theorem execParkedDrain_canonical : (execParkedDrain σ).Canonical := by simp [execParkedDrain, hs]

theorem execCloseMarker_canonical : (execCloseMarker σ).Canonical := by
  unfold execCloseMarker
  dsimp only
  split
  · trivial
  split
  next p t ht =>
    have hwf : t.mem.wf = true := State.wf_takeArrived hs ht
    split <;> simp [hwf, hs]
  · exact hs

theorem execReceiveClose_canonical : (execReceiveClose σ).Canonical := by
  unfold execReceiveClose
  dsimp only
  split
  · trivial
  split
  next p t ht =>
    have hwf : t.mem.wf = true := State.wf_takeArrived hs ht
    split <;> simp [hwf, hs]
  · exact hs

theorem execEventDelivery_canonical : (execEventDelivery σ).Canonical := by
  unfold execEventDelivery
  dsimp only
  split
  · trivial
  split
  next p t ht =>
    have hwf : t.mem.wf = true := State.wf_takeArrived hs ht
    split
    next name e _ =>
      have hmem : ((t.deliverEvent name e).getD σ).mem = σ.mem :=
        State.mem_getD (fun u hu => (State.mem_deliverEvent hu).trans (State.mem_takeArrived ht)) rfl
      simp [hmem, hs]
    next m d n _ =>
      have hmem : ((t.deliverRefusal m d n).getD σ).mem = σ.mem :=
        State.mem_getD (fun u hu => (State.mem_deliverRefusal hu).trans (State.mem_takeArrived ht)) rfl
      simp [hmem, hs]
    · exact hs
  · exact hs

theorem execSpawnArrival_canonical : (execSpawnArrival σ).Canonical := by
  unfold execSpawnArrival
  dsimp only
  split
  · trivial
  split
  next p t ht =>
    have hwf : t.mem.wf = true := State.wf_takeArrived hs ht
    split <;> simp [hwf, hs]
  · exact hs

theorem execActivationStart_canonical : (execActivationStart σ).Canonical := by
  unfold execActivationStart
  dsimp only
  repeat' split
  all_goals simp [hs]

/-! ## Rows of Rate -/

theorem execRatePeriodEnd_canonical : (execRatePeriodEnd σ).Canonical := by
  unfold execRatePeriodEnd
  dsimp only
  repeat' split
  all_goals simp [hs]

theorem execRateUpdate_canonical : (execRateUpdate σ).Canonical := by
  unfold execRateUpdate
  dsimp only
  split
  · trivial
  split
  next p t ht =>
    have hwf : t.mem.wf = true := State.wf_takeArrived hs ht
    split <;> simp [hwf, hs]
  · exact hs

theorem execRateDelta_canonical : (execRateDelta σ).Canonical := by
  unfold execRateDelta
  dsimp only
  split
  · trivial
  split
  next p t ht =>
    have hwf : t.mem.wf = true := State.wf_takeArrived hs ht
    split <;> simp [hwf, hs]
  · exact hs

theorem execRateAck_canonical : (execRateAck σ).Canonical := by
  unfold execRateAck
  dsimp only
  split
  · trivial
  split
  next p t ht =>
    have hwf : t.mem.wf = true := State.wf_takeArrived hs ht
    split <;> simp [hwf, hs]
  · exact hs

/-! ## Rows of Sched -/

theorem execLaunch_canonical : (execLaunch σ).Canonical := by
  unfold execLaunch
  split
  next ht =>
    have hwf := State.wf_nextLaunch hs ht
    split <;> simp [hwf, hs]
  · exact hs

theorem execCancel_canonical : (execCancel σ).Canonical := by
  unfold execCancel
  split
  next ht =>
    have hwf := State.wf_nextLaunch hs ht
    split <;> simp [hwf, hs]
  · exact hs

theorem execNetworkDispatch_canonical : (execNetworkDispatch σ).Canonical := by
  unfold execNetworkDispatch
  split
  · trivial
  split
  · exact hs
  split
  next ht => exact State.wf_dispatchNet hs ht
  · dsimp only
    split <;> simp [hs]

theorem execImageResume_canonical : (execImageResume σ).Canonical := by unfold execImageResume; (repeat' split) <;> simp [hs]
theorem execProcessMove_canonical : (execProcessMove σ).Canonical := by unfold execProcessMove; dsimp only; (repeat' split) <;> simp [hs]
theorem execNetworkDone_canonical : (execNetworkDone σ).Canonical := by unfold execNetworkDone; split <;> simp [hs]

/-! ## Rows of MemEvents -/

theorem execCombiningWindowClose_canonical : (execCombiningWindowClose σ).Canonical := by
  unfold execCombiningWindowClose
  dsimp only
  repeat' split
  all_goals simp [hs]

theorem execSliceAccess_canonical : (execSliceAccess σ).Canonical := by unfold execSliceAccess; dsimp only; (repeat' split) <;> simp [hs]

theorem execSliceFillData_canonical : (execSliceFillData σ).Canonical := by
  unfold execSliceFillData
  dsimp only
  repeat' split
  all_goals simp [hs]

theorem execEvictionReport_canonical : (execEvictionReport σ).Canonical := by simp [execEvictionReport, hs]

theorem execRemoteInvalidation_canonical : (execRemoteInvalidation σ).Canonical := by
  unfold execRemoteInvalidation
  split
  · trivial
  split
  next ht => simp [State.wf_nextDieMsg hs ht]
  · exact hs

theorem execInterDieMessage_canonical : (execInterDieMessage σ).Canonical := by
  unfold execInterDieMessage
  split
  · trivial
  split
  next ht => simp [State.wf_nextDieMsg hs ht]
  · exact hs

theorem execPageWalk_canonical : (execPageWalk σ).Canonical := by
  unfold execPageWalk
  dsimp only
  split
  · trivial
  split
  next ht => exact State.wf_translate hs ht
  · simp [hs]

/-! ## Rows of Bar0 -/

theorem execHostWindowGo_canonical : (execHostWindowGo σ).Canonical := by unfold execHostWindowGo; split <;> simp [hs]

theorem execHostEventEntry_canonical : (execHostEventEntry σ).Canonical := by
  unfold execHostEventEntry
  dsimp only
  repeat' split
  · trivial
  · exact hs
  · exact hs
  · simp [wf_writeBytes, hs]

theorem execHostBar2Access_canonical : (execHostBar2Access σ).Canonical := by
  unfold execHostBar2Access
  dsimp only
  repeat' split
  all_goals simp [hs]

theorem execHostFunctionReset_canonical : (execHostFunctionReset σ).Canonical := by simp [execHostFunctionReset, hs]
theorem execHostCxlAccess_canonical : (execHostCxlAccess σ).Canonical := by unfold execHostCxlAccess; (repeat' split) <;> simp [hs]
theorem execIdleEntry_canonical : (execIdleEntry σ).Canonical := by unfold execIdleEntry; dsimp only; (repeat' split) <;> simp [hs]
theorem execIdleWake_canonical : (execIdleWake σ).Canonical := by simp [execIdleWake, hs]
theorem execIdleExitDone_canonical : (execIdleExitDone σ).Canonical := by unfold execIdleExitDone; split <;> simp [hs]
theorem execLattolWrite_canonical : (execLattolWrite σ).Canonical := by simp [execLattolWrite, hs]

theorem execRegisterWrite_canonical : (execRegisterWrite σ).Canonical := by
  unfold execRegisterWrite
  dsimp only
  repeat' split
  all_goals simp [hs]

/-! ## Rows of Fences -/

theorem execFence_canonical (k : BitVec 2) (s : BitVec 3) : (execFence k s σ).Canonical := Out.canonical_aHalf (fun _ => .body) hs

/-! ## Rows of Keystone -/

theorem execDeviceReset_canonical : (execDeviceReset σ).Canonical := by simp [execDeviceReset, hs]
theorem execDeviceStart_canonical : (execDeviceStart σ).Canonical := by simp [execDeviceStart, hs]
theorem execThermalTrip_canonical : (execThermalTrip σ).Canonical := by simp [execThermalTrip, hs]
theorem execPartSet_canonical : (execPartSet σ).Canonical := by unfold execPartSet; dsimp only; (repeat' split) <;> simp [hs]
theorem execDevSet_canonical : (execDevSet σ).Canonical := by unfold execDevSet; dsimp only; (repeat' split) <;> simp [hs]
theorem execSpdm_canonical : (execSpdm σ).Canonical := by simp [execSpdm, hs]
theorem execImageLoad_canonical : (execImageLoad σ).Canonical := by simp [execImageLoad, hs]
theorem execMctpI3cMessage_canonical : (execMctpI3cMessage σ).Canonical := by unfold execMctpI3cMessage; split <;> simp [hs]
theorem execCkptStart_canonical : (execCkptStart σ).Canonical := by unfold execCkptStart; split <;> simp [hs]
theorem execMailboxReset_canonical : (execMailboxReset σ).Canonical := by unfold execMailboxReset; dsimp only; (repeat' split) <;> simp [hs]

/-! ## Rows of Auto -/

theorem execDeviceIdleEntry_canonical : (execDeviceIdleEntry σ).Canonical := by unfold execDeviceIdleEntry; (repeat' split) <;> simp [hs]

/-! ## Rows of CkptRows -/

theorem execCheckpointGranuleCopy_canonical : (execCheckpointGranuleCopy σ).Canonical := by
  unfold execCheckpointGranuleCopy
  dsimp only
  repeat' split
  all_goals simp [hs]

theorem execCkptStageCopy_canonical : (execCkptStageCopy σ).Canonical := by simp [execCkptStageCopy, hs]

theorem execCutComplete_canonical : (execCutComplete σ).Canonical := by
  unfold execCutComplete
  dsimp only
  repeat' split
  · trivial
  · exact hs
  · exact hs
  · exact hs
  · exact wf_writeBytes _ _ hs

theorem execPcSample_canonical : (execPcSample σ).Canonical := by unfold execPcSample; dsimp only; (repeat' split) <;> simp [hs]

/-! ## Every row -/

/-- A row goes by the shape of its half where its body says all, another by its own lemma. -/
theorem exec_canonical (i : Instr) : Out.Canonical (exec i σ) := by
  unfold exec
  cases i
  case and | or | xor | andn | orn | sll | srl | sra | rol | ror | mulh | mulhn | min | max | minn | maxn | slt | sltn | seq | sne | hmix |
    crc32c | add | sub | mul | div | divn | rem | remn | clz | ctz | popc | bswap | bfx | bfxs | bfi | bfxv | bfiv | addi | muli | andi | ori |
    xori | slti | sltni | slli | srli | srai | roli | beq | bne | blt | bge | bltn | bgen | nop | ld | ldro | aadd | aand | aor | axor | amin |
    amax | aminn | amaxn | aswap | acas | afadd | waita | waitany | waitall =>
    exact Out.canonical_aHalf (fun _ => by simp) hs
  case vadd | vsub | vmul | vfma | vfms | vnfma | vdiv | vmin | vmax | vabs | vneg | vand | vor | vxor | vnot | vshl | vshr | vshra | vclamp |
    vmov | viota | vaddi | vmuli | vmaxi | vseti | vred | vdot | vexp2 | vexp | vlog2 | vln | vrcp | vrsqrt | vsqrt | vsin | vcos | vtanh |
    vsigm | vgelu | vsilu | verf =>
    exact Out.canonical_eHalf (fun _ => by simp) hs
  case lui | b | bal | jr | jalr | bp | mts | rdcyc | rdtime | layset | layget | ffr | tagclr | barinit | bararr | mzero | send | eclose |
    ebind | emask | hend | hseal | rateset | rateget | gname | ghold | gwait | ctxsave | ctxrest | qfence | rosync =>
    exact Out.canonical_aHalf (fun _ => .body) hs
  case zset | zinc | zld | zst | vtag | vtagrd | vbcast | vcmp | vsel | pand | por | pxor | pnot | pcnt | pset | vcvt | vbq | vbdq | vscan |
    vtopk | vperm =>
    exact Out.canonical_eHalf (fun _ => .body) hs
  case dbnz => exact execDbnz_canonical hs _ _
  case mfs => exact execMfs_canonical hs _ _
  case trap => exact execTrap_canonical hs _
  case eret => exact execEret_canonical hs
  case park => exact execPark_canonical hs _
  case illegalWord => exact execIllegalWord_canonical hs _
  case hstall => exact execHstall_canonical hs _
  case himm => exact execHimm_canonical hs _
  case hmod => exact execHmod_canonical hs _ _ _ _ _ _ _ _ _
  case hbr => exact execHbr_canonical hs _
  case tinvcGo => exact execTinvcGo_canonical hs
  case tinvcDone => exact execTinvcDone_canonical hs
  case scfgWrite => exact execScfgWrite_canonical hs
  case fillmaskWrite => exact execFillmaskWrite_canonical hs
  case pctlWrite => exact execPctlWrite_canonical hs
  case portstatClr => exact execPortstatClr_canonical hs
  case portstatRetrain => exact execPortstatRetrain_canonical hs
  case ringConfigWrite => exact execRingConfigWrite_canonical hs
  case pcntWrite => exact execPcntWrite_canonical hs
  case st => exact execSt_canonical hs _ _ _ _ _
  case ldq => exact execLdq_canonical hs _
  case stq => exact execStq_canonical hs _
  case laysub => exact execLaysub_canonical hs _ _
  case pref => exact execPref_canonical hs _ _
  case loadDataReturn => exact execLoadDataReturn_canonical hs
  case atomicReply => exact execAtomicReply_canonical hs
  case atomicAtHome => exact execAtomicAtHome_canonical hs
  case scratchpadAtomic => exact execScratchpadAtomic_canonical hs
  case waitaTimeout => exact execWaitaTimeout_canonical hs
  case barrierOperation => exact execBarrierOperation_canonical hs
  case outboxEntryLeave => exact execOutboxEntryLeave_canonical hs
  case barwait => exact execBarwait_canonical hs _ _
  case bartest => exact execBartest_canonical hs _ _ _
  case cpy => exact execCpy_canonical hs _ _ _
  case cpyred => exact execCpyred_canonical hs _ _ _
  case gath => exact execGath_canonical hs _ _ _ _
  case scat => exact execScat_canonical hs _ _ _ _
  case halo => exact execHalo_canonical hs _ _ _ _
  case strm => exact execStrm_canonical hs _ _ _
  case fillw => exact execFillw_canonical hs _ _ _ _
  case cpycan => exact execCpycan_canonical hs _
  case reductionMerge => exact execReductionMerge_canonical hs
  case hodLineTransfer => exact execHodLineTransfer_canonical hs
  case hodCommandComplete => exact execHodCommandComplete_canonical hs
  case systemCopyTransfer => exact execSystemCopyTransfer_canonical hs
  case mma => exact execMma_canonical hs _ _ _ _
  case mmas => exact execMmas_canonical hs _ _ _ _
  case mrot => exact execMrot_canonical hs _ _ _ _
  case mrd => exact execMrd_canonical hs _ _ _
  case mwait => exact execMwait_canonical hs _
  case mpoll => exact execMpoll_canonical hs _ _
  case mcan => exact execMcan_canonical hs _
  case matrixStepGrant => exact execMatrixStepGrant_canonical hs
  case matrixStepRetire => exact execMatrixStepRetire_canonical hs
  case matrixJobComplete => exact execMatrixJobComplete_canonical hs
  case matrixJobPoison => exact execMatrixJobPoison_canonical hs
  case rotationSlotAccept => exact execRotationSlotAccept_canonical hs
  case writebackPortOp => exact execWritebackPortOp_canonical hs
  case chnew => exact execChnew_canonical hs _ _
  case sende => exact execSende_canonical hs _ _ _ _
  case einfo => exact execEinfo_canonical hs _ _ _
  case spawn => exact execSpawn_canonical hs _ _ _ _
  case gstv => exact execGstv_canonical hs _ _ _
  case landingStoreArrival => exact execLandingStoreArrival_canonical hs
  case haloPushArrival => exact execHaloPushArrival_canonical hs
  case lgraph => exact execLgraph_canonical hs _
  case lwait => exact execLwait_canonical hs _ _ _
  case lintelGraphEnd => exact execLintelGraphEnd_canonical hs
  case lintelGraphStart => exact execLintelGraphStart_canonical hs
  case lintelUnitFlit => exact execLintelUnitFlit_canonical hs
  case lintelIngressFlit => exact execLintelIngressFlit_canonical hs
  case ingressFlitExpiry => exact execIngressFlitExpiry_canonical hs
  case preempt => exact execPreempt_canonical hs
  case coreAcknowledge => exact execCoreAcknowledge_canonical hs
  case poolCopyDone => exact execPoolCopyDone_canonical hs
  case resume => exact execResume_canonical hs
  case restart => exact execRestart_canonical hs
  case kill => exact execKill_canonical hs
  case exit => exact execExit_canonical hs
  case hang => exact execHang_canonical hs
  case mortarHop => exact execMortarHop_canonical hs
  case xanolForward => exact execXanolForward_canonical hs
  case linkReplay => exact execLinkReplay_canonical hs
  case linkTrainingDone => exact execLinkTrainingDone_canonical hs
  case packetAgeing => exact execPacketAgeing_canonical hs
  case remotePacketArrival => exact execRemotePacketArrival_canonical hs
  case orderedPacketRelease => exact execOrderedPacketRelease_canonical hs
  case countMarkerArrival => exact execCountMarkerArrival_canonical hs
  case markerWaitExpiry => exact execMarkerWaitExpiry_canonical hs
  case countMarkerAck => exact execCountMarkerAck_canonical hs
  case fenceAckTimeout => exact execFenceAckTimeout_canonical hs
  case remoteReplyTimeout => exact execRemoteReplyTimeout_canonical hs
  case drainMarker => exact execDrainMarker_canonical hs
  case timeMessage => exact execTimeMessage_canonical hs
  case messageArrival => exact execMessageArrival_canonical hs
  case homeForward => exact execHomeForward_canonical hs
  case locationUpdate => exact execLocationUpdate_canonical hs
  case endLandingRegistration => exact execEndLandingRegistration_canonical hs
  case parkedDrain => exact execParkedDrain_canonical hs
  case closeMarker => exact execCloseMarker_canonical hs
  case receiveClose => exact execReceiveClose_canonical hs
  case eventDelivery => exact execEventDelivery_canonical hs
  case spawnArrival => exact execSpawnArrival_canonical hs
  case activationStart => exact execActivationStart_canonical hs
  case ratePeriodEnd => exact execRatePeriodEnd_canonical hs
  case rateUpdate => exact execRateUpdate_canonical hs
  case rateDelta => exact execRateDelta_canonical hs
  case rateAck => exact execRateAck_canonical hs
  case launch => exact execLaunch_canonical hs
  case cancel => exact execCancel_canonical hs
  case networkDispatch => exact execNetworkDispatch_canonical hs
  case imageResume => exact execImageResume_canonical hs
  case processMove => exact execProcessMove_canonical hs
  case networkDone => exact execNetworkDone_canonical hs
  case combiningWindowClose => exact execCombiningWindowClose_canonical hs
  case sliceAccess => exact execSliceAccess_canonical hs
  case sliceFillData => exact execSliceFillData_canonical hs
  case evictionReport => exact execEvictionReport_canonical hs
  case remoteInvalidation => exact execRemoteInvalidation_canonical hs
  case interDieMessage => exact execInterDieMessage_canonical hs
  case pageWalk => exact execPageWalk_canonical hs
  case hostWindowGo => exact execHostWindowGo_canonical hs
  case hostEventEntry => exact execHostEventEntry_canonical hs
  case hostBar2Access => exact execHostBar2Access_canonical hs
  case hostFunctionReset => exact execHostFunctionReset_canonical hs
  case hostCxlAccess => exact execHostCxlAccess_canonical hs
  case idleEntry => exact execIdleEntry_canonical hs
  case idleWake => exact execIdleWake_canonical hs
  case idleExitDone => exact execIdleExitDone_canonical hs
  case lattolWrite => exact execLattolWrite_canonical hs
  case registerWrite => exact execRegisterWrite_canonical hs
  case fence => exact execFence_canonical hs _ _
  case deviceReset => exact execDeviceReset_canonical hs
  case deviceStart => exact execDeviceStart_canonical hs
  case thermalTrip => exact execThermalTrip_canonical hs
  case partSet => exact execPartSet_canonical hs
  case devSet => exact execDevSet_canonical hs
  case spdm => exact execSpdm_canonical hs
  case imageLoad => exact execImageLoad_canonical hs
  case mctpI3cMessage => exact execMctpI3cMessage_canonical hs
  case ckptStart => exact execCkptStart_canonical hs
  case mailboxReset => exact execMailboxReset_canonical hs
  case checkpointGranuleCopy => exact execCheckpointGranuleCopy_canonical hs
  case ckptStageCopy => exact execCkptStageCopy_canonical hs
  case cutComplete => exact execCutComplete_canonical hs
  case pcSample => exact execPcSample_canonical hs
  case deviceIdleEntry => exact execDeviceIdleEntry_canonical hs

end Rows
end Sys2Proof.Machine
end

section
/-!
SUPPORT. Canonical memory (O60): the acts of the machine and its step.
-/

namespace Sys2Proof.Machine

/-! ## The acts of the machine -/

/-- What a half fetches is of canonical memory. -/
def Fetched.Canonical : Fetched → Prop
  | .idle t => t.mem.wf = true
  | .run _ t => t.mem.wf = true

@[simp] theorem Fetched.canonical_idle (t : State) : Fetched.Canonical (.idle t) ↔ t.mem.wf = true := Iff.rfl
@[simp] theorem Fetched.canonical_run (i : Instr) (t : State) : Fetched.Canonical (.run i t) ↔ t.mem.wf = true := Iff.rfl

theorem State.fetchA_canonical {s : State} (n k : Nat) (hs : s.mem.wf = true) : (s.fetchA n k).Canonical := by
  unfold State.fetchA
  dsimp only
  split
  · simp [State.mem_fetchFault, hs]
  next w t ht =>
    have hwf : t.mem.wf = true := State.wf_fetchWord hs ht
    repeat' split
    all_goals simp [State.mem_fetchFault, hs, hwf]

theorem State.turnA_canonical {s : State} (n k : Nat) (hs : s.mem.wf = true) : (s.turnA n k).Canonical := by
  unfold State.turnA
  dsimp only
  repeat' split
  · exact hs
  · simp [hs]
  · exact s.wf_autoIssue hs
  · simp [hs]
  · exact State.fetchA_canonical n k hs

theorem State.turnE_canonical {s : State} (n k : Nat) (hs : s.mem.wf = true) : (s.turnE n k).Canonical := by
  unfold State.turnE
  dsimp only
  repeat' split
  all_goals simp [hs]

theorem State.fetched_canonical {s : State} (hs : s.mem.wf = true) : s.fetched.Canonical := by
  unfold State.fetched
  dsimp only
  repeat' split
  · exact hs
  · exact State.turnA_canonical _ _ hs
  · exact State.turnE_canonical _ _ hs

theorem issueAct_canonical (t : Turn) {s : State} (hs : s.mem.wf = true) : Out.Canonical (issueAct t s) := by
  have hfetched : ({ s with turn := t } : State).fetched.Canonical := State.fetched_canonical hs
  unfold issueAct
  split
  · trivial
  split
  · exact hs
  split
  next u hu => rw [hu] at hfetched; exact hfetched
  next i u hu =>
    rw [hu] at hfetched
    exact Out.canonical_nextWith (fun v => v.mem_afterTurn u t i) (exec_canonical hfetched i)

theorem doAct_canonical (a : Act) {s : State} (hs : s.mem.wf = true) : Out.Canonical (doAct a s) := by
  cases a with
  | issue t => exact issueAct_canonical t hs
  | event e t =>
    unfold doAct
    dsimp only
    repeat' split
    · trivial
    · exact hs
    · exact exec_canonical (σ := { s with turn := t }) hs e
    · simp [hs]
    · exact hs
  | pass clocks ns => simp [doAct, hs]
  | softError line => simp [doAct, hs]
  | arrive port p => unfold doAct; simp [hs]
  | hostRead fn off => simp [doAct, hs]
  | outside a bytes => simp [doAct, hs]

/-- Settles O60: whatever act is next, it keeps memory canonical, and taking it from the agenda does not touch memory. -/
theorem everyStepKeepsMemory : Obligations.EveryStepKeepsMemory := by
  unfold Obligations.EveryStepKeepsMemory
  intro s t hs ht
  have hdo := doAct_canonical s.takeAct.1 (s := s.takeAct.2) (by simpa using hs)
  rw [show doAct s.takeAct.1 s.takeAct.2 = .next t from ht] at hdo
  exact hdo

end Sys2Proof.Machine
end

section
/-!
SUPPORT. Entries that an instruction places in the outbox (13 R295-R297), waits of the A half on no queue, and the register ranges
that messages take; the statements O41 and O32 put together from them.
-/

namespace Sys2Proof.Machine

/-! ## The outbox -/

section Entries
variable {s s' u : State} {c : Ctx} {e : OutEntry} {i : Instr} {body : Hints → M Disp} {why : Stall}

/-- An entry for which there is room stands at the end of the outbox, after what the instruction does besides. -/
theorem sendEntry_places {q3 : List Word} {after : M Unit} (hroom : RoomFor s.actor e.size) (hafter : after s = .ok ((), u))
    (k : SetTo s' u c) (hopen : c.sealed = false) :
    ∃ w, sendEntry e q3 after s = .ok (.retire, w) ∧ SetTo s' w { c with outbox := c.outbox ++ [e] } := by
  refine ⟨_, ?_, k.modActor fun c => { c with outbox := c.outbox ++ [e] }⟩
  refine (M.bind_ok (readyOut_room hroom)).trans ((M.bind_ok hafter).trans ?_)
  exact (M.bind_ok (putOut_open (by rw [k.actor]; exact hopen))).trans (pure_run _ _)

/-- An instruction that comes to `sendEntry` with nothing changed but its own context. -/
theorem sendEntry_leaves {t : State} {c0 : Ctx} {after : M Unit} (h : ReadyA s) (hi : exec i s = aHalf i body s)
    (hb : body {} s = sendEntry e s.actor.q3 after t) (kt : SetTo s t c0) (hroom : RoomFor c0 e.size) (hafter : after t = .ok ((), u))
    (ku : SetTo s u c) (hopen : c.sealed = c0.sealed) (hact : c.act = s.actor.act) (hpc : c.pc = s.actor.pc) :
    Leaves s i { c with outbox := c.outbox ++ [e] } := by
  obtain ⟨w, hrun, kw⟩ := sendEntry_places (q3 := s.actor.q3) (by rw [kt.actor]; exact hroom) hafter ku (hopen.trans hroom.1)
  rw [Leaves, hi]
  exact aHalf_retires h (hb.trans hrun) kw hact hpc

/-- A body that waits on no queue drops what it has done. -/
theorem waits_of_stop (h : ReadyA s) (hi : exec i s = aHalf i body s) (hb : body {} s = .error (.wait why none)) : Waits s i why := by
  refine ⟨_, hi.trans (aHalf_wait h hb), ?_⟩
  rw [State.stall_noted, State.actor_withActor]
  exact ⟨rfl, rfl, rfl, rfl, rfl⟩

end Entries

/-- The registers of a range within a0-a29. -/
theorem regsAt_regsFrom {s : State} {b : BitVec 5} {n : Nat} (h : b.toNat + n ≤ 30) :
    regsAt b 0 n s = .ok (regsFrom s.actor b n, s) := by
  rw [regsAt_run n 0 h, regsFrom]
  simp only [Nat.zero_add]

theorem length_regsFrom (c : Ctx) (b : BitVec 5) (n : Nat) : (regsFrom c b n).length = n := by simp [regsFrom]

/-- Popping q3 changes no register. -/
theorem regsFrom_source {c c' : Ctx} {r : BitVec 5} {v : Word} (h : c.source r = some (v, c')) (b : BitVec 5) (n : Nat) :
    regsFrom c' b n = regsFrom c b n := by
  obtain ⟨q, rfl⟩ := Ctx.source_keeps h
  rfl

/-! ## LGRAPH and LWAIT (12 R285-R287) -/

section Graphs
variable {s : State} {f d a c : BitVec 5}

/-- The start entry that a context makes of three registers, with the layouts of its ids as they stand (R285). -/
def State.startEntry (s : State) (f : BitVec 5) : LStart :=
  let l : LStart := { w0 := regOf s.actor f, w1 := regOf s.actor (f + 1#5), w2 := regOf s.actor (f + 2#5), core := s.turn.core,
                      ctx := s.turn.ctx, name := s.activity.name, act := s.activity.id, handler := s.activity.handler,
                      agent := engineAgent s.fresh s.agent }
  { l with lays := (rangeFrom 0 5).map fun k => s.self.layout (l.lid k) }

theorem regsAt_three (h : f.toNat + 2 < 30) :
    regsAt f 0 3 s = .ok ([regOf s.actor f, regOf s.actor (f + 1#5), regOf s.actor (f + 2#5)], s) := by
  have hofNat : ∀ k, BitVec.ofNat 5 (f.toNat + k) = f + BitVec.ofNat 5 k := fun k =>
    BitVec.eq_of_toNat_eq (by simp)
  rw [regsAt_regsFrom (by omega), regsFrom]
  simp only [List.range_succ, List.range_zero, List.nil_append, List.map_cons, List.cons_append, List.map_nil, hofNat, BitVec.add_zero]

theorem lgraph_leaves (h : ReadyA s) (hf : f.toNat + 2 < 30) (hok : (s.startEntry f).ok = true)
    (hallot : s.allotted (s.startEntry f).array (s.startEntry f).notify s.activity.part = true) (hroom : RoomFor s.actor 32) :
    LeavesIn s { s with fresh := s.fresh + 1 } (.lgraph f) { s.actor with outbox := s.actor.outbox ++ [.lgraph (s.startEntry f)] } := by
  obtain ⟨w, hrun, kw⟩ := sendEntry_places (e := .lgraph (s.startEntry f)) (q3 := s.actor.q3) hroom
    (mods_run (fun s => s.takeFresh.2) s) ((SetTo.refl s).withFresh (s.fresh + 1)) hroom.1
  refine aHalf_retires (body := fun _ => _) h ?_ kw rfl rfl
  refine (M.bind_ok (guardFault_holds (by simpa using hf) _ _ s)).trans ((M.bind_ok (regsAt_three hf)).trans ?_)
  refine (M.bind_ok (gets_run id s)).trans ((M.bind_ok (require_holds hok s)).trans ?_)
  exact (M.bind_ok (guardFault_holds hallot _ _ s)).trans hrun

theorem startEntry_layouts (s : State) (f : BitVec 5) {k : Nat} (hk : k < 5) : (s.startEntry f).lays.getD k 0#512
    = s.self.layout ((s.startEntry f).w0.toNat / 2 ^ (8 * k) % 256) := by
  simp only [State.startEntry, rangeFrom_zero, List.getD_eq_getElem?_getD, List.getElem?_map, List.getElem?_range hk, Option.map_some,
    Option.getD_some, LStart.lid, fieldOf, bitsOf]
  rw [show 8 * k + 7 + 1 - 8 * k = 8 by omega]
  rfl

/-- The array and the register that the operand of LWAIT names, its other bits being 0 (R287). -/
structure NotifyNamed (w : Word) (k r : Nat) : Prop where
  array : fieldOf w 11 8 = k
  reg : fieldOf w 5 0 = r
  well : (fieldOf w 63 12 == 0 && fieldOf w 7 6 == 0 && decide (fieldOf w 11 8 < 12)) = true

theorem notifyNamed_of {w : Word} (hw : w.toNat < 2 ^ 12) (hmid : w.toNat / 64 % 4 = 0) (hk : w.toNat / 256 < 12) :
    NotifyNamed w (w.toNat / 256) (w.toNat % 64) := by
  have harray : fieldOf w 11 8 = w.toNat / 256 := by simp only [fieldOf, bitsOf]; omega
  have hmid' : fieldOf w 7 6 = 0 := by simpa [fieldOf, bitsOf] using hmid
  have htop : fieldOf w 63 12 = 0 := by simp only [fieldOf, bitsOf]; omega
  exact ⟨harray, by simp [fieldOf, bitsOf], by simp [hmid', htop, harray, hk]⟩

/-- The count that a wait on a notify register has still to see, modulo 2^48 (R287). -/
abbrev notifyLag (n : Nat × Nat) (t : Word) : Nat := (n.2 + 2 ^ 48 - fieldOf t 47 0) % 2 ^ 48

theorem notifyWord_eq (n : Nat × Nat) : notifyWord n = BitVec.ofNat 64 (n.1 % 2 ^ 16 * 2 ^ 48 + n.2 % 2 ^ 48) := by
  rw [notifyWord, wordOf, at_, at_, pow_zero, Nat.mul_one]

theorem notifyLag_eq (n : Nat × Nat) (t : Word) : notifyLag n t = (n.2 + 2 ^ 48 - t.toNat % 2 ^ 48) % 2 ^ 48 := by
  simp only [notifyLag, fieldOf, bitsOf, pow_zero, Nat.div_one]

/-- LWAIT's body, its operands read and its register allotted. -/
theorem lwait_read {w t : Word} {c1 : Ctx} {k r : Nat} (hs : s.actor.sources a c = some (w, t, c1)) (hn : NotifyNamed w k r)
    (hallot : s.allotted k r s.activity.part = true) :
    ∃ u body, SetTo s u c1 ∧ u.lintel k = s.lintel k ∧ exec (.lwait d a c) s = aHalf (.lwait d a c) body s ∧ body {} s =
      (if notifyLag (find (s.lintel k).notify r (0, 0)) t < 2 ^ 47 then
        mods (fun v => v.learn v.agent (find (v.lintel k).notifyKnow r [])) >>= fun _ =>
          writeA d (notifyWord (find (s.lintel k).notify r (0, 0))) >>= fun _ => pure .retire
       else waitFor .scoreboard : M Disp) u := by
  obtain ⟨c0, hs1, hs2⟩ := Ctx.sources_cases hs
  obtain ⟨u0, hread1, k0⟩ := readA_source (SetTo.refl s) hs1
  obtain ⟨u, hread2, ku⟩ := readA_source k0 hs2
  have hact : u.activity = s.activity := ku.activity ((Ctx.source_act hs2).1.trans (Ctx.source_act hs1).1)
  have hlintel : ∀ j, u.lintel j = s.lintel j := fun j => by rcases ku with ⟨rfl, -⟩ | rfl <;> rfl
  obtain ⟨rfl, rfl, hwell⟩ := hn
  refine ⟨u, _, ku, hlintel _, (rfl : execLwait d a c s = aHalf _ _ s), ?_⟩
  refine (M.bind_ok hread1).trans ((M.bind_ok hread2).trans ((M.bind_ok (require_holds hwell u)).trans ?_))
  refine (M.bind_ok (gets_run id u)).trans ((M.bind_ok (guardFault_holds ?_ _ _ u)).trans ?_)
  · rw [id, hact, State.allotted, hlintel]
    exact hallot
  · rw [← hlintel]
    rfl

theorem lwait_leaves {w t : Word} {c1 c' : Ctx} {k r : Nat} (h : ReadyA s) (hs : s.actor.sources a c = some (w, t, c1))
    (hn : NotifyNamed w k r) (hallot : s.allotted k r s.activity.part = true)
    (hover : notifyLag (find (s.lintel k).notify r (0, 0)) t < 2 ^ 47)
    (hd : c1.dest d (notifyWord (find (s.lintel k).notify r (0, 0))) = some c') :
    LeavesIn s (s.learn s.agent (find (s.lintel k).notifyKnow r [])) (.lwait d a c) c' := by
  obtain ⟨u, body, ku, hlintel, hi, hb⟩ := lwait_read (d := d) hs hn hallot
  obtain ⟨c0, hs1, hs2⟩ := Ctx.sources_cases hs
  obtain ⟨v, hwrite, kv⟩ := writeA_dest (ku.learn s.agent (find (s.lintel k).notifyKnow r [])) hd
  rw [if_pos hover, M.bind_ok (mods_run _ u), ku.agent, hlintel, M.bind_ok hwrite] at hb
  rw [LeavesIn, hi]
  exact aHalf_retires h hb kv ((Ctx.dest_act hd).1.trans ((Ctx.source_act hs2).1.trans (Ctx.source_act hs1).1))
    ((Ctx.dest_act hd).2.trans ((Ctx.source_act hs2).2.trans (Ctx.source_act hs1).2))

theorem lwait_waits {w t : Word} {c1 : Ctx} {k r : Nat} (h : ReadyA s) (hs : s.actor.sources a c = some (w, t, c1))
    (hn : NotifyNamed w k r) (hallot : s.allotted k r s.activity.part = true)
    (hlag : 2 ^ 47 ≤ notifyLag (find (s.lintel k).notify r (0, 0)) t) : Waits s (.lwait d a c) .scoreboard := by
  obtain ⟨u, body, -, -, hi, hb⟩ := lwait_read (d := d) hs hn hallot
  rw [if_neg (Nat.not_lt.mpr hlag)] at hb
  exact waits_of_stop h hi hb

end Graphs

/-- Settles O41: LGRAPH makes `State.startEntry`; LWAIT's body, once its operands are read, is a test of the count (`lwait_read`). -/
theorem graphsStartAndNotify : Obligations.GraphsStartAndNotify := by
  unfold Obligations.GraphsStartAndNotify
  refine fun s f d a c h => ⟨fun hf => ?_, fun w t c1 hs hw hmid hk hallot => ⟨fun hover c' hd => ?_, fun hlag => ?_⟩⟩
  · intro l hok hallot hroom
    exact ⟨s.startEntry f, rfl, rfl, rfl, rfl, rfl, rfl, fun k hk => startEntry_layouts s f hk, lgraph_leaves h hf hok hallot hroom⟩
  · exact lwait_leaves h hs (notifyNamed_of hw hmid hk) hallot (by rw [notifyLag_eq]; exact hover) (by rw [notifyWord_eq]; exact hd)
  · exact lwait_waits h hs (notifyNamed_of hw hmid hk) hallot (by rw [notifyLag_eq]; exact hlag)

/-! ## SEND, SENDE, ECLOSE, SPAWN (13 R307, R312, R317, R321) -/

section Messages
variable {s t : State} {c : Ctx} {f n l a b : BitVec 5} {e m : BitVec 6} {r x : EndReg} {k : Nat}

/-- An end that is held stands so also after operands have been popped. -/
theorem HoldsEnd.of_setTo (hr : HoldsEnd s k r) (ht : SetTo s t c) (hact : c.act = s.actor.act) (hgone : c.gone = s.actor.gone) :
    HoldsEnd t k r := by
  obtain ⟨hend, hheld, hout⟩ := hr
  exact ⟨by rw [ht.self hact]; exact hend, hheld, by rw [ht.actor, hgone]; exact hout⟩

theorem heldEnd_run (hr : HoldsEnd s k r) : heldEnd k s = .ok (r, s) := by
  obtain ⟨rfl, hheld, hout⟩ := hr
  refine (M.bind_ok (myProc_run s)).trans ((M.bind_ok (me_run s)).trans ((M.bind_ok (guardFault_holds ?_ _ _ s)).trans rfl))
  simp [hheld, hout]

theorem sendEnd_run (hr : HoldsEnd s k r) (hsend : hRecv r.handle = false) : sendEnd k s = .ok (r, s) :=
  (M.bind_ok (heldEnd_run hr)).trans ((M.bind_ok (guardFault_holds (by simp [hsend]) _ _ s)).trans rfl)

theorem carriable_run (hr : HoldsEnd s k r) (hmv : hMv r.handle = true) : carriable k s = .ok ((), s) :=
  (M.bind_ok (heldEnd_run hr)).trans (guardFault_holds hmv _ _ s)

/-- A list of one end: a word of no other bits than the register's number. -/
theorem endList_one {v : Word} (hv : v.toNat < 64) (s : State) : endList v s = .ok ([v.toNat], s) := by
  have hbit : ∀ j, 6 ≤ j → v.getLsbD j = false := fun j hj =>
    Nat.testBit_lt_two_pow (Nat.lt_of_lt_of_le hv (Nat.pow_le_pow_right (by omega) hj : 2 ^ 6 ≤ 2 ^ j))
  have hreg : fieldOf v 5 0 = v.toNat := by simp only [fieldOf, bitsOf]; omega
  have hfields : fieldOf v 13 8 = 0 ∧ fieldOf v 63 16 = 0 ∧ fieldOf v 7 6 = 0 := by
    simp only [fieldOf, bitsOf]; omega
  obtain ⟨hsecond, htop, hmid⟩ := hfields
  unfold endList
  rw [hsecond, htop, hmid, hreg, hbit 14 (by omega), hbit 15 (by omega)]
  rfl

theorem send_leaves (h : ReadyA s) (hn : f.toNat + n.toNat ≤ 30) (hr : HoldsEnd s e.toNat r) (hsend : hRecv r.handle = false)
    (hroom : RoomFor s.actor (16 + 8 * n.toNat)) :
    Leaves s (.send f n e) { s.actor with outbox := s.actor.outbox ++ [.send e.toNat (regsFrom s.actor f n.toNat) []] } := by
  refine sendEntry_leaves h (rfl : execSend f n e s = aHalf _ _ s) ?_ (SetTo.refl s)
    (by rw [OutEntry.size, length_regsFrom]; exact hroom) (pure_run () s) (SetTo.refl s) rfl rfl rfl
  exact (M.bind_ok (me_run s)).trans ((M.bind_ok (sendEnd_run hr hsend)).trans (M.bind_ok (regsAt_regsFrom hn)))

theorem sende_leaves {v : Word} (h : ReadyA s) (hn : f.toNat + n.toNat ≤ 30) (hr : HoldsEnd s e.toNat r)
    (hsend : hRecv r.handle = false) (hstream : s.streamMode r.handle = false) (hs : s.actor.source l = some (v, c))
    (hv : v.toNat < 64) (hne : v.toNat ≠ e.toNat) (hx : HoldsEnd s v.toNat x) (hmv : hMv x.handle = true)
    (hroom : RoomFor s.actor (16 + 8 * n.toNat + 16)) :
    Leaves s (.sende f n l e) { c with
      outbox := c.outbox ++ [.send e.toNat (regsFrom c f n.toNat) [v.toNat]], gone := c.gone ++ [v.toNat] } := by
  obtain ⟨t, hread, kt⟩ := readA_source (SetTo.refl s) hs
  obtain ⟨q, rfl⟩ := Ctx.source_keeps hs
  have hstream' : t.streamMode r.handle = false := by rw [← hstream]; rcases kt with ⟨rfl, -⟩ | rfl <;> rfl
  have hends : (carriable v.toNat >>= fun _ => guardFault (v.toNat != e.toNat && !t.streamMode r.handle) .endInvalid (wordOf v.toNat)) t
      = .ok ((), t) :=
    (M.bind_ok (carriable_run (hx.of_setTo kt rfl rfl) hmv)).trans (guardFault_holds (by simp [hne, hstream']) _ _ t)
  refine sendEntry_leaves (i := .sende f n l e) (c := { s.actor with q3 := q, gone := s.actor.gone ++ [v.toNat] }) h
    (rfl : execSende f n l e s = aHalf _ _ s) ?_ kt
    (by rw [OutEntry.size, length_regsFrom]; exact hroom) (modMe_run _ t) (kt.modActor fun c => { c with gone := c.gone ++ [v.toNat] }) rfl rfl rfl
  refine (M.bind_ok (me_run s)).trans ((M.bind_ok hread).trans ((M.bind_ok (endList_one hv t)).trans ?_))
  refine (M.bind_ok (sendEnd_run (hr.of_setTo kt rfl rfl) hsend)).trans ((M.bind_ok (gets_run id t)).trans ?_)
  refine (M.bind_ok ((M.bind_ok hends).trans (pure_run _ t))).trans ?_
  rw [M.bind_ok (regsAt_regsFrom hn), kt.actor]
  rfl

theorem eclose_leaves (h : ReadyA s) (hr : HoldsEnd s e.toNat r) (hroom : RoomFor s.actor 16) : Leaves s (.eclose e)
    { s.actor with outbox := s.actor.outbox ++ [.close e.toNat], gone := s.actor.gone ++ [e.toNat] } := by
  refine sendEntry_leaves (i := .eclose e) (c := { s.actor with gone := s.actor.gone ++ [e.toNat] }) h
    (rfl : execEclose e s = aHalf _ _ s) ?_ (SetTo.refl s) hroom (modMe_run _ s)
    ((SetTo.refl s).modActor fun c => { c with gone := c.gone ++ [e.toNat] }) rfl rfl rfl
  exact (M.bind_ok (me_run s)).trans (M.bind_ok (heldEnd_run hr))

theorem spawn_leaves (h : ReadyA s) (hb : b.toNat + 2 ≤ 30) (hm : a.toNat + m.toNat ≤ 30)
    (hw0 : (regOf s.actor b).toNat < 2 ^ 14) (hw1 : (regOf s.actor (b + 1#5)).toNat < 2 ^ 22)
    (hcore : coreOk (regOf s.actor b).toNat = true) (hpart : s.coreInPart (regOf s.actor b).toNat s.activity.part = true)
    (hroom : RoomFor s.actor (32 + 8 * m.toNat)) :
    Leaves s (.spawn b a 0#5 m) { s.actor with
      outbox := s.actor.outbox ++ [.spawn (regOf s.actor b).toNat ((regOf s.actor (b + 1#5)).toNat % 2 ^ 16)
        ((regOf s.actor (b + 1#5)).toNat / 2 ^ 16) (regsFrom s.actor a m.toNat) []]
      gone := s.actor.gone } := by
  have htmpl : fieldOf (regOf s.actor (b + 1#5)) 15 0 = (regOf s.actor (b + 1#5)).toNat % 2 ^ 16 := by simp [fieldOf, bitsOf]
  have hhandler : fieldOf (regOf s.actor (b + 1#5)) 21 16 = (regOf s.actor (b + 1#5)).toNat / 2 ^ 16 := by
    simp only [fieldOf, bitsOf]; omega
  have hreg0 : regAt b 0 s = .ok (regOf s.actor b, s) := by rw [regAt_run (by omega), Nat.add_zero, BitVec.ofNat_toNat, BitVec.setWidth_eq]
  have hreg1 : regAt b 1 s = .ok (regOf s.actor (b + 1#5), s) := by
    rw [regAt_run (by omega), show BitVec.ofNat 5 (b.toNat + 1) = b + 1#5 from BitVec.eq_of_toNat_eq (by simp)]
  rw [← htmpl, ← hhandler, show s.actor.gone = s.actor.gone ++ [] by simp]
  refine sendEntry_leaves (i := .spawn b a 0#5 m) (c := { s.actor with gone := s.actor.gone ++ [] }) h
    (rfl : execSpawn b a 0#5 m s = aHalf _ _ s) ?_ (SetTo.refl s)
    (by rw [OutEntry.size, length_regsFrom]; exact hroom) (modMe_run _ s)
    ((SetTo.refl s).modActor fun c => { c with gone := c.gone ++ [] }) rfl rfl rfl
  refine (M.bind_ok (me_run s)).trans ((M.bind_ok hreg0).trans ((M.bind_ok hreg1).trans ?_))
  refine (M.bind_ok (require_holds (by simpa using ⟨hw0, hw1⟩) s)).trans ((M.bind_ok (gets_run id s)).trans ?_)
  refine (M.bind_ok (guardFault_holds hcore _ _ s)).trans ((M.bind_ok (guardFault_holds hpart _ _ s)).trans ?_)
  exact (M.bind_ok (pure_run _ s)).trans ((M.bind_ok (pure_run _ s)).trans (M.bind_ok (regsAt_regsFrom hm)))

end Messages

/-- Settles O32: each instruction passes its checks and comes to `sendEntry`, whose effect `sendEntry_leaves` says. -/
theorem messagesWaitInTheOutbox : Obligations.MessagesWaitInTheOutbox := by
  unfold Obligations.MessagesWaitInTheOutbox
  refine fun s f n l a e m r h hn => ⟨send_leaves h hn, ?_, eclose_leaves h, fun b hb hm hw0 hw1 => spawn_leaves h hb hm hw0 hw1⟩
  rintro v c k x hr hsend hstream hs rfl hk hne hx hmv hroom
  exact sende_leaves h hn hr hsend hstream hs hk hne hx hmv hroom

end Sys2Proof.Machine
end

section
/-!
SUPPORT. Ends of channels and their homes (13 R303-R306; 14 R344, R345, R349): CHNEW, EINFO and EBIND, and the requests that a home of
this device answers; the statements O33 and O34 put together from them.
-/

namespace Sys2Proof.Machine

/-! ## Reads and requests -/

section Reads
variable {s s1 t : State} {r : BitVec 5} {v : Word} {c : Ctx}

/-- A read that comes to an end has found its source. -/
theorem source_of_readA (h : readA r s = .ok (v, s1)) : ∃ c, s.actor.source r = some (v, c) := by
  unfold readA at h
  rw [Ctx.source]
  split_ifs at h with h0 h30 h31
  · cases h
    subst h0
    exact ⟨_, rfl⟩
  · rw [if_pos h30]
    rw [M.bind_ok (me_run s)] at h
    cases hq : s.actor.q3 with
    | nil => rw [hq] at h; cases h
    | cons x q =>
      rw [hq] at h
      cases h
      exact ⟨_, rfl⟩
  · cases h
  · rw [if_neg h30, if_neg h31]
    rw [M.bind_ok (me_run s)] at h
    cases h
    exact ⟨_, by rw [regOf, if_neg h0]⟩

/-- A read changes nothing but q3 of its context. -/
theorem setTo_of_readA (h : readA r s = .ok (v, s1)) : ∃ q, SetTo s s1 { s.actor with q3 := q } := by
  obtain ⟨c, hs⟩ := source_of_readA h
  obtain ⟨q, rfl⟩ := Ctx.source_keeps hs
  obtain ⟨u, hu, ku⟩ := readA_source (SetTo.refl s) hs
  rw [h] at hu
  cases hu
  exact ⟨q, ku⟩

theorem SetTo.modEnd (h : SetTo s t c) (slot k : Nat) (f : EndReg → EndReg) : SetTo (s.modEnd slot k f) (t.modEnd slot k f) c :=
  h.modProc slot fun p => { p with ends := put p.ends k (f (p.endAt k)) }

theorem HoldsEnd.after_readA {k : Nat} {x : EndReg} (hx : HoldsEnd s k x) (h : readA r s = .ok (v, s1)) : HoldsEnd s1 k x := by
  obtain ⟨q, hset⟩ := setTo_of_readA h
  exact hx.of_setTo hset rfl rfl

theorem unlessPending_free {body : M Disp} (h : ReadyA s) : unlessPending body s = body s := by
  unfold unlessPending
  rw [M.bind_ok (me_run s), h.free]
  rfl

end Reads

/-! ## CHNEW, EINFO, EBIND (13 R303-R305) -/

section Ends
variable {s s1 : State} {d r h : BitVec 5} {v w : Word} {e : BitVec 6} {x : EndReg} {c c' : Ctx} {a b k : Nat}

theorem hRecv_mkHandle (chid seq moves home : Nat) (rt mv recv : Bool) : hRecv (mkHandle chid seq moves home rt mv recv) = recv := by
  rw [hRecv, mkHandle, BitVec.getLsbD_ofNat, Nat.testBit_zero]
  simp only [at_]
  cases rt <;> cases mv <;> cases recv <;> simp <;> omega

/-- The channel that CHNEW makes of a request, with its ends in registers `a` and `b` (log 16). -/
def State.newChan (s : State) (v : Word) (a b k : Nat) : State :=
  s.makeChan k s.turn.core s.activity.slot a b (v.toNat % 128) (v.getLsbD 9) (v.getLsbD 8) (!v.getLsbD 9) true (s.turn.core / 8 * 4 + k % 4)

theorem State.chan_newChan (s : State) (v : Word) (a b k : Nat) : ((s.newChan v a b k).chan k).cap = v.toNat % 128 := by
  show (find (put s.chans k _) k {}).cap = _
  rw [find_put_same]

theorem State.proc_newChan (s : State) (v : Word) (a b k : Nat) : ∃ ha hb : EndReg,
    (s.newChan v a b k).proc s.activity.slot = { s.proc s.activity.slot with ends := put (put (s.proc s.activity.slot).ends a ha) b hb }
      ∧ (ha.state = .held ∧ hRecv ha.handle = false) ∧ hb.state = .held ∧ hRecv hb.handle = true := by
  let handle := mkHandle (s.devidx * 2 ^ 24 + k) 0 0 (s.turn.core / 8 * 4 + k % 4) true (!v.getLsbD 9)
  refine ⟨{ state := .held, handle := handle false, loc := some s.turn.core }, { state := .held, handle := handle true }, ?_,
    ⟨rfl, hRecv_mkHandle ..⟩, rfl, hRecv_mkHandle ..⟩
  unfold State.newChan State.makeChan
  rw [State.proc, State.modCore_procs, ← State.proc, State.proc_modEnd_same, State.proc_modEnd_same]
  rfl

theorem chnew_full (hA : ReadyA s) (hread : readA r s = .ok (v, s1)) (hok : chnewOk v = true) (hnone : s1.self.chanRegs v = none)
    (hd : s1.actor.dest d 0#64 = some c') : LeavesIn s s1 (.chnew d r) { c' with statusReg := 0#64 } := by
  obtain ⟨u, hwrite, ku⟩ := writeA_dest (SetTo.refl s1) hd
  refine aHalf_retires (body := fun _ => _) hA ?_ (ku.modActor fun c => { c with statusReg := 0#64 }) (Ctx.dest_act hd).1 (Ctx.dest_act hd).2
  refine (M.bind_ok hread).trans ((M.bind_ok (require_holds hok s1)).trans ((M.bind_ok (gets_run id s1)).trans ?_))
  rw [id, hnone]
  exact (M.bind_ok hwrite).trans (M.bind_ok (modMe_run _ u))

theorem chnew_makes (hA : ReadyA s) (hread : readA r s = .ok (v, s1)) (hok : chnewOk v = true) (hregs : s1.self.chanRegs v = some (a, b))
    (hfree : s1.freeIndex = some k) (hd : (s1.newChan v a b k).actor.dest d (BitVec.ofNat 64 (a + b * 256)) = some c') :
    LeavesIn s (s1.newChan v a b k) (.chnew d r) { c' with statusReg := 1#64 } := by
  have hcap : fieldOf v 6 0 = v.toNat % 128 := by simp [fieldOf, bitsOf]
  obtain ⟨u, hwrite, ku⟩ := writeA_dest (SetTo.refl (s1.newChan v a b k)) hd
  refine aHalf_retires (body := fun _ => _) hA ?_ (ku.modActor fun c => { c with statusReg := 1#64 }) (Ctx.dest_act hd).1 (Ctx.dest_act hd).2
  refine (M.bind_ok hread).trans ((M.bind_ok (require_holds hok s1)).trans ((M.bind_ok (gets_run id s1)).trans ?_))
  rw [id, hregs]
  dsimp only
  rw [hfree]
  refine (M.bind_ok (mods_run _ s1)).trans ?_
  rw [hcap]
  exact (M.bind_ok hwrite).trans (M.bind_ok (modMe_run _ u))

/-- EINFO of a register that holds an end. -/
theorem einfo_held (hA : ReadyA s) (q : BitVec 5) (hx : s.self.endAt e.toNat = x) (hheld : x.state = .held)
    (hd : s.actor.dest d (match q.toNat with
      | 0 => wordOf (fieldOf x.handle 127 64)
      | 1 => wordOf (fieldOf x.handle 63 0)
      | _ => x.info) = some c') : Leaves s (.einfo d q e) { c' with statusReg := 1#64 } := by
  subst hx
  obtain ⟨u, hwrite, ku⟩ := writeA_dest (SetTo.refl s) hd
  refine aHalf_retires (body := fun _ => _) hA ?_ (ku.modActor fun c => { c with statusReg := 1#64 }) (Ctx.dest_act hd).1 (Ctx.dest_act hd).2
  refine (M.bind_ok (myProc_run s)).trans ?_
  rw [if_pos hheld]
  exact (M.bind_ok hwrite).trans (M.bind_ok (modMe_run _ u))

/-- EINFO of a register that holds none. -/
theorem einfo_empty (hA : ReadyA s) (q : BitVec 5) (hx : s.self.endAt e.toNat = x) (hheld : x.state ≠ .held)
    (hd : s.actor.dest d 0#64 = some c') : Leaves s (.einfo d q e) { c' with statusReg := 0#64 } := by
  subst hx
  obtain ⟨u, hwrite, ku⟩ := writeA_dest (SetTo.refl s) hd
  refine aHalf_retires (body := fun _ => _) hA ?_ (ku.modActor fun c => { c with statusReg := 0#64 }) (Ctx.dest_act hd).1 (Ctx.dest_act hd).2
  refine (M.bind_ok (myProc_run s)).trans ?_
  rw [if_neg hheld]
  exact (M.bind_ok hwrite).trans (M.bind_ok (modMe_run _ u))

theorem ebind_leaves (hA : ReadyA s) (hx : HoldsEnd s e.toNat x) (hrecv : hRecv x.handle = true) (hs : s.actor.source h = some (w, c))
    (hw : w.toNat < 64) (hvalid : w = 0#64 ∨ s.self.handlerOk w.toNat = true) :
    LeavesIn s (s.modEnd s.activity.slot e.toNat fun y => { y with bind := w.toNat }) (.ebind h e) c := by
  obtain ⟨t, hread, k⟩ := readA_source (SetTo.refl s) hs
  obtain ⟨q, rfl⟩ := Ctx.source_keeps hs
  have hok : (decide (w.toNat < 64) && (w == 0#64 || t.self.handlerOk w.toNat)) = true := by
    rw [k.self rfl]
    simpa [hw] using hvalid
  refine aHalf_retires (body := fun _ => _) hA ?_ (k.modEnd s.activity.slot e.toNat fun y => { y with bind := w.toNat }) rfl rfl
  refine (M.bind_ok hread).trans ((M.bind_ok (myProc_run t)).trans ((M.bind_ok (require_holds hok t)).trans ?_))
  refine (M.bind_ok (heldEnd_run (hx.of_setTo k rfl rfl))).trans ((M.bind_ok (guardFault_holds hrecv _ _ t)).trans ?_)
  rw [M.bind_ok (mods_run _ t), k.activity rfl]
  rfl

end Ends

/-- Settles O33: CHNEW makes `State.newChan` where it finds registers and an index; EINFO reads, EBIND writes one register. -/
theorem endsAreMadeAndBound : Obligations.EndsAreMadeAndBound := by
  unfold Obligations.EndsAreMadeAndBound
  refine fun s d r v s1 e x hA => ⟨fun hread hok => ⟨fun hnone c' hd => chnew_full hA hread hok hnone hd, ?_⟩, ?_,
    fun hx hheld q c' hd => einfo_empty hA q hx hheld hd, fun h w c hx hrecv hs hw hvalid => ebind_leaves hA hx hrecv hs hw hvalid⟩
  · intro a b k hregs hfree u
    have hset := setTo_of_readA hread
    have hu : u = s1.newChan v a b k := by
      obtain ⟨q, kq⟩ := hset
      show s1.makeChan k s.turn.core s.activity.slot a b _ _ _ _ true (s.turn.core / 8 * 4 + k % 4) = _
      rw [← kq.turn, ← kq.activity rfl]
      rfl
    have hslot : s.activity.slot = s1.activity.slot := by
      obtain ⟨q, kq⟩ := hset
      rw [kq.activity rfl]
    rw [hu, hslot]
    refine ⟨fun c' hd => chnew_makes hA hread hok hregs hfree hd, fun hne => ?_⟩
    obtain ⟨ha, hb, hproc, ⟨hheld, hsend⟩, hheld', hrecv⟩ := s1.proc_newChan v a b k
    rw [hproc, Proc.endAt, Proc.endAt, find_put_same, find_put_other _ _ _ _ _ hne, find_put_same]
    exact ⟨hsend, hrecv, hheld, hheld', s1.chan_newChan v a b k⟩
  · intro hx hheld
    refine ⟨fun c' hd => einfo_held hA 0#5 hx hheld ?_, fun c' hd => einfo_held hA 1#5 hx hheld ?_,
      fun c' hd => einfo_held hA 2#5 hx hheld hd⟩
    · exact (congrArg (s.actor.dest d) (wordOf_fieldOf x.handle 64)).trans hd
    · exact (congrArg (s.actor.dest d) (wordOf_fieldOf x.handle 0)).trans hd

/-! ## Requests at a home of this device (13 R306; 14 R344, R345, R349) -/

section Homes
variable {s t u v : State} {q : HomeReq} {home : Nat} {d r : BitVec 5} {e : BitVec 6} {x : EndReg} {w y : Word} {st : Nat} {c' : Ctx}

/-- The home of a channel of this device answers at once, where no registration of the core is on its way there (log 57). -/
theorem askHome_answers {status : Bool} (hdev : chDev q.chid = t.devidx) (hout : t.landingOut t.devidx t.turn.core q.chid = false)
    (hask : t.homeAsk q = (y, st, none, u)) (hd : u.actor.dest d y = some c') :
    ∃ v, askHome q home d status t = .ok (.retire, v)
      ∧ SetTo u v (if status then { c' with statusReg := wordOf st } else c') := by
  obtain ⟨v, hwrite, kv⟩ := writeA_dest (SetTo.refl u) hd
  have hstatus : ∃ v', (if status then setStatus (wordOf st) else pure ()) v = .ok ((), v')
      ∧ SetTo u v' (if status then { c' with statusReg := wordOf st } else c') := by
    cases status
    · exact ⟨v, rfl, kv⟩
    · exact ⟨_, rfl, kv.modActor fun c => { c with statusReg := wordOf st }⟩
  obtain ⟨v', hset, kv'⟩ := hstatus
  refine ⟨v', ?_, kv'⟩
  refine (M.bind_ok (gets_run id t)).trans ?_
  rw [if_pos (by exact hdev)]
  refine (M.bind_ok_if (s := t) (t := t) (by rw [id, hout]; rfl)).trans ?_
  rw [id, hask]
  exact (M.bind_ok (mods_run _ t)).trans ((M.bind_ok hwrite).trans ((M.bind_ok_if hset).trans (pure_run _ _)))

theorem landingOut_congr (hcl : t.clusters = s.clusters) (dev core chid : Nat) : t.landingOut dev core chid = s.landingOut dev core chid := by
  unfold State.landingOut
  rw [hcl]

/-- A read of an operand leaves what a home is asked about as it was. -/
theorem home_after_readA {k : Nat} (h : readA r s = .ok (w, t)) :
    t.devidx = s.devidx ∧ t.landingOut t.devidx t.turn.core k = s.landingOut s.devidx s.turn.core k := by
  obtain ⟨q, hset⟩ := setTo_of_readA h
  rcases hset with ⟨rfl, -⟩ | rfl <;> exact ⟨rfl, rfl⟩

theorem emask_leaves (h : ReadyA s) (hx : HoldsEnd s e.toNat x) (hdev : chDev (hChid x.handle) = s.devidx)
    (hout : s.landingOut s.devidx s.turn.core (hChid x.handle) = false) (hread : readA r s = .ok (w, t)) (hw : w.toNat < 8)
    (hhold : hRecv x.handle = true ∨ w.getLsbD 0 = false)
    (hv : v = t.modEnd s.activity.slot e.toNat fun y => { y with hold := w.getLsbD 0, enLanded := w.getLsbD 1, enMoved := w.getLsbD 2 })
    (hask : (v.homeAsk (.emask (hChid x.handle) (hRecv x.handle) (w.getLsbD 1) (w.getLsbD 2))).2.2.2 = u) :
    LeavesIn s u (.emask r e) u.actor := by
  obtain ⟨q, hset⟩ := setTo_of_readA hread
  obtain ⟨htdev, htout⟩ := home_after_readA (k := hChid x.handle) hread
  have hanswer : v.homeAsk (.emask (hChid x.handle) (hRecv x.handle) (w.getLsbD 1) (w.getLsbD 2)) = (0#64, 0, none, u) := by
    subst hask
    unfold State.homeAsk
    dsimp only
    split <;> rfl
  have hbefore : chDev (hChid x.handle) = v.devidx ∧ v.landingOut v.devidx v.turn.core (hChid x.handle) = false := by
    subst hv
    exact ⟨hdev.trans htdev.symm, htout.trans hout⟩
  obtain ⟨z, hrun, kz⟩ := askHome_answers (q := .emask (hChid x.handle) (hRecv x.handle) (w.getLsbD 1) (w.getLsbD 2)) (status := false)
    (home := hHome x.handle) (d := 0#5) hbefore.1 hbefore.2 hanswer (rfl : u.actor.dest 0#5 0#64 = some u.actor)
  refine aHalf_retires (body := fun _ => _) h ?_ kz rfl rfl
  refine (unlessPending_free h).trans ((M.bind_ok hread).trans ((M.bind_ok (heldEnd_run (hx.after_readA hread))).trans ?_))
  refine (M.bind_ok (require_holds (by simpa [hw] using hhold) t)).trans ((M.bind_ok (mods_run _ t)).trans ?_)
  rw [hset.activity rfl, ← hv]
  exact hrun

theorem rateset_leaves (h : ReadyA s) (hx : HoldsEnd s e.toNat x) (hdev : chDev (hChid x.handle) = s.devidx)
    (hout : s.landingOut s.devidx s.turn.core (hChid x.handle) = false) (hread : readA r s = .ok (w, t)) (hrt : hRt x.handle = true)
    (hfields : (fieldOf w 63 32 == 0 && fieldOf w 30 25 == 0 && fieldOf w 7 6 == 0) = true)
    (hask : t.homeAsk (.rateset (hChid x.handle) w) = (y, st, none, u)) :
    LeavesIn s u (.rateset r e) { u.actor with statusReg := BitVec.ofNat 64 st } := by
  obtain ⟨htdev, htout⟩ := home_after_readA (k := hChid x.handle) hread
  obtain ⟨z, hrun, kz⟩ := askHome_answers (q := .rateset (hChid x.handle) w) (status := true) (home := hHome x.handle) (d := 0#5)
    (hdev.trans htdev.symm) (htout.trans hout) hask (rfl : u.actor.dest 0#5 y = some u.actor)
  refine aHalf_retires (body := fun _ => _) h ?_ kz rfl rfl
  refine (unlessPending_free h).trans ((M.bind_ok hread).trans ((M.bind_ok (heldEnd_run (hx.after_readA hread))).trans ?_))
  exact (M.bind_ok (guardFault_holds hrt _ _ t)).trans ((M.bind_ok (require_holds hfields t)).trans hrun)

theorem rateget_leaves (h : ReadyA s) (hx : HoldsEnd s e.toNat x) (hdev : chDev (hChid x.handle) = s.devidx)
    (hout : s.landingOut s.devidx s.turn.core (hChid x.handle) = false)
    (hask : s.homeAsk (.rateget (hChid x.handle)) = (y, st, none, u)) (hd : u.actor.dest d y = some c') :
    LeavesIn s u (.rateget d e) { c' with statusReg := BitVec.ofNat 64 st } := by
  obtain ⟨z, hrun, kz⟩ := askHome_answers (q := .rateget (hChid x.handle)) (status := true) (home := hHome x.handle) hdev hout hask hd
  refine aHalf_retires (body := fun _ => _) h ?_ kz (Ctx.dest_act hd).1 (Ctx.dest_act hd).2
  exact (unlessPending_free h).trans ((M.bind_ok (heldEnd_run hx)).trans hrun)

/-- GNAME's answer: the name of the holder of the other end, and whether that end is held or on its way (R349). -/
theorem homeAsk_gname {c : Chan} {recv : Bool} {p : EndPlace} {n chid : Nat} (hrec : s.record chid = some c)
    (hp : (if recv then c.sst else c.rst) = p) (hn : n = if recv then c.sname else c.rname) (hplace : p = .here ∨ p = .inTransit) :
    s.homeAsk (.gname chid recv) = (wordOf n, if p = .here then 1 else 2, none, s) := by
  simp only [State.homeAsk, hrec, hp, ← hn]
  rcases hplace with rfl | rfl <;> rfl

theorem gname_leaves {p : EndPlace} (h : ReadyA s) (hx : HoldsEnd s e.toNat x) (hdev : chDev (hChid x.handle) = s.devidx)
    (hout : s.landingOut s.devidx s.turn.core (hChid x.handle) = false)
    (hask : s.homeAsk (.gname (hChid x.handle) (hRecv x.handle)) = (y, if p = .here then 1 else 2, none, s))
    (hd : s.actor.dest d y = some c') : Leaves s (.gname d e) { c' with statusReg := if p = .here then 1#64 else 2#64 } := by
  obtain ⟨z, hrun, kz⟩ := askHome_answers (q := .gname (hChid x.handle) (hRecv x.handle)) (status := true) (home := hHome x.handle)
    hdev hout hask hd
  have hst : wordOf (if p = .here then 1 else 2) = if p = .here then 1#64 else 2#64 := by split_ifs <;> rfl
  rw [if_pos rfl, hst] at kz
  refine aHalf_retires (body := fun _ => _) h ?_ kz (Ctx.dest_act hd).1 (Ctx.dest_act hd).2
  exact (unlessPending_free h).trans ((M.bind_ok (heldEnd_run hx)).trans hrun)

end Homes

/-- A field that is 0 as bits is 0 as a number. -/
theorem fieldOf_eq_zero {w : Word} {lo len : Nat} (hlen : 0 < len) (h : w.extractLsb' lo len = 0) : fieldOf w (lo + len - 1) lo = 0 := by
  have hnat := congrArg BitVec.toNat h
  rw [BitVec.extractLsb'_toNat, Nat.shiftRight_eq_div_pow] at hnat
  rw [fieldOf, bitsOf, show lo + len - 1 + 1 - lo = len by omega]
  simpa using hnat

/-- Settles O34: each request is put to `homeAsk`, and what it answers is written as `askHome_answers` says. -/
theorem homesAnswer : Obligations.HomesAnswer := by
  unfold Obligations.HomesAnswer
  refine fun s d r e x w s1 h hx hdev hout => ⟨fun hread => ⟨fun hw hhold => ?_, fun hrt htop hmid hlow v st u hask => ?_⟩,
    fun v st u c' hask hd => rateget_leaves h hx hdev hout hask hd, fun c n hrec hplace hn c' hd => ?_⟩
  · exact emask_leaves h hx hdev hout hread hw hhold rfl rfl
  · refine rateset_leaves h hx hdev hout hread hrt ?_ hask
    have htop' := fieldOf_eq_zero (by decide) htop
    have hmid' := fieldOf_eq_zero (by decide) hmid
    have hlow' := fieldOf_eq_zero (by decide) hlow
    simp only [htop', hmid', hlow']
    rfl
  · exact gname_leaves h hx hdev hout (homeAsk_gname hrec rfl hn hplace) hd

end Sys2Proof.Machine
end

section
/-!
SUPPORT. Vectored routines (15 R362-R368): what entry, return and PARK leave of the context; the statement O20 put together from them.
-/

namespace Sys2Proof.Machine

/-! ## Fields of EPCA (15 R361) -/

theorem extractLsb'_of_fieldOf (w : Word) (lo len : Nat) (hlen : 0 < len) :
    w.extractLsb' lo len = BitVec.ofNat len (fieldOf w (lo + len - 1) lo) := by
  apply BitVec.eq_of_toNat_eq
  rw [BitVec.extractLsb'_toNat, BitVec.toNat_ofNat, Nat.shiftRight_eq_div_pow, fieldOf, bitsOf,
    show lo + len - 1 + 1 - lo = len by omega, Nat.mod_mod]

/-- The number that EPCA's fields make fits a word. -/
theorem toNat_epcaWord (prv src res : Bool) (code pc : Nat) : (epcaWord prv src res code pc).toNat
    = (if prv then 2 ^ 63 else 0) + (if src then 2 ^ 62 else 0) + (if res then 2 ^ 61 else 0) + code % 2 ^ 6 * 2 ^ 52 + pc % 2 ^ 52 := by
  rw [epcaWord, toNat_wordOf, at_, at_, pow_zero, Nat.mul_one, Nat.mod_eq_of_lt]
  split_ifs <;> omega

theorem fieldOf_epcaWord_pc (prv src res : Bool) (code pc : Nat) : fieldOf (epcaWord prv src res code pc) 51 0 = pc % 2 ^ 52 := by
  rw [fieldOf, bitsOf, toNat_epcaWord]
  split_ifs <;> omega

theorem fieldOf_epcaWord_code (prv src res : Bool) (code pc : Nat) : fieldOf (epcaWord prv src res code pc) 57 52 = code % 2 ^ 6 := by
  rw [fieldOf, bitsOf, toNat_epcaWord]
  split_ifs <;> omega

/-- A bit of a word, as arithmetic. -/
theorem getLsbD_eq_decide (w : Word) (k : Nat) : w.getLsbD k = decide (w.toNat / 2 ^ k % 2 = 1) := Nat.testBit_eq_decide_div_mod_eq

theorem getLsbD_epcaWord (prv src res : Bool) (code pc : Nat) : (epcaWord prv src res code pc).getLsbD 63 = prv
    ∧ (epcaWord prv src res code pc).getLsbD 62 = src ∧ (epcaWord prv src res code pc).getLsbD 61 = res := by
  simp only [getLsbD_eq_decide, toNat_epcaWord]
  cases prv <;> cases src <;> cases res <;> and_intros <;> simp <;> omega

/-! ## TRAP (R363) -/

section Trap
variable {s : State} {x : BitVec 6}

/-- A context that has entered a vectored routine (R363). -/
def Ctx.enterAs (c : Ctx) (epca : Word) (epce vec : BitVec 52) : Ctx :=
  { c with
    epca := epca, epce := epce, super := true, routine := true, saved := false, hints := [], pc := vec, stallA := .none, waitA := none }

theorem Ctx.enterAs_sameWork (c : Ctx) (epca : Word) (epce vec : BitVec 52) : (c.enterAs epca epce vec).sameWork c :=
  ⟨rfl, rfl, rfl, rfl, rfl, rfl, rfl, rfl, rfl, rfl, rfl, rfl, rfl, rfl, rfl⟩

theorem Ctx.enterAs_status (c : Ctx) (epca : Word) (epce vec : BitVec 52) : (c.enterAs epca epce vec).status = c.status := rfl

theorem Ctx.enterAs_act (c : Ctx) (epca : Word) (epce vec : BitVec 52) : (c.enterAs epca epce vec).act = c.act := rfl

/-- The context after TRAP has entered its routine. -/
def Ctx.trapped (c : Ctx) (x : BitVec 6) : Ctx :=
  { c.enter (BitVec.ofNat 52 (c.tvec.setWidth 64).toNat) false false x.toNat (c.pc + 4#52) (c.pc + 4#52) with
    stallA := .none, waitA := none }

theorem Ctx.trapped_eq (c : Ctx) (x : BitVec 6) : c.trapped x = c.enterAs (epcaWord c.super false false x.toNat (c.pc + 4#52).toNat)
    (c.pc + 4#52) (BitVec.ofNat 52 (c.tvec.setWidth 64).toNat) := by
  unfold Ctx.trapped Ctx.enter Ctx.enterAs
  generalize epcaWord _ _ _ _ _ = e
  rfl

/-- A change of the acting context that keeps its activation keeps what acts. -/
theorem State.activity_withActor (s : State) {c : Ctx} (h : c.act = s.actor.act) : (s.withActor c).activity = s.activity := by
  rw [State.activity, State.actor_withActor, h]
  rfl

/-- What entry by TRAP records and what it leaves. -/
theorem Ctx.trapped_records (c : Ctx) (x : BitVec 6) : (c.trapped x).pc = c.tvec ∧ (c.trapped x).epca.extractLsb' 0 52 = c.pc + 4#52
    ∧ (c.trapped x).epca.extractLsb' 52 6 = x ∧ (c.trapped x).epca.getLsbD 63 = c.super ∧ (c.trapped x).epca.getLsbD 62 = false
    ∧ (c.trapped x).epca.getLsbD 61 = false := by
  have hepca : (c.trapped x).epca = epcaWord c.super false false x.toNat (c.pc + 4#52).toNat := by rw [c.trapped_eq, Ctx.enterAs]
  obtain ⟨hprv, hsrc, hres⟩ := getLsbD_epcaWord c.super false false x.toNat (c.pc + 4#52).toNat
  rw [hepca, c.trapped_eq]
  refine ⟨?_, ?_, ?_, hprv, hsrc, hres⟩
  · show BitVec.ofNat 52 (c.tvec.setWidth 64).toNat = c.tvec
    apply BitVec.eq_of_toNat_eq
    have hlt := c.tvec.isLt
    simp only [BitVec.toNat_ofNat, BitVec.toNat_setWidth]
    omega
  · rw [extractLsb'_of_fieldOf _ 0 52 (by decide), fieldOf_epcaWord_pc, Nat.mod_eq_of_lt (BitVec.isLt _), BitVec.ofNat_toNat,
      BitVec.setWidth_eq]
  · rw [extractLsb'_of_fieldOf _ 52 6 (by decide), fieldOf_epcaWord_code, Nat.mod_eq_of_lt x.isLt, BitVec.ofNat_toNat, BitVec.setWidth_eq]

theorem Ctx.sameWork_refl (c : Ctx) : c.sameWork c := ⟨rfl, rfl, rfl, rfl, rfl, rfl, rfl, rfl, rfl, rfl, rfl, rfl, rfl, rfl, rfl⟩

/-- A context stopped by a fault keeps what its program computes with. -/
theorem Ctx.stopped_sameWork (c : Ctx) (code : FaultCode) (half : Nat) (fa fe : BitVec 52) (x : Word) :
    (c.stopped code half fa fe x).sameWork c := c.sameWork_refl

/-- A vector is a target of a register (02 R24): one with bit 0 or 1 set is none. -/
theorem registerTarget_vector (v : BitVec 52) (s : State) : registerTarget (v.setWidth 64) s
    = if v.toNat % 4 = 0 then .ok ((v.setWidth 64).toNat, s) else .error (.fault .illegal (v.setWidth 64) 0#64) := by
  have hlt := v.isLt
  have htoNat : (v.setWidth 64).toNat = v.toNat := by
    rw [BitVec.toNat_setWidth]
    exact Nat.mod_eq_of_lt (by omega)
  unfold registerTarget
  rw [htoNat]
  by_cases h4 : v.toNat % 4 = 0
  · rw [if_pos h4, if_pos ⟨hlt, h4⟩]
    rfl
  · rw [if_neg h4, if_neg fun h => h4 h.2]
    rfl

/-- A body after which the context no longer runs its instruction. -/
theorem aHalf_left {i : Instr} {body : Hints → M Disp} {t : State} (h : ReadyA s) (hb : body {} s = .ok (.left, t)) :
    aHalf i body s = .next t := aHalf_done h hb

theorem trap_enters (h : ReadyA s) (hr : s.actor.routine = false) (hv : s.actor.tvec ≠ 0#52) (h4 : s.actor.tvec.toNat % 4 = 0) :
    exec (.trap x) s = .next ((s.withActor (s.actor.trapped x)).count s.activity.part 2 1) := by
  have htarget := registerTarget_vector s.actor.tvec s
  rw [if_pos h4] at htarget
  refine aHalf_left (i := .trap x) (body := fun _ => _) h ?_
  refine (M.bind_ok (me_run s)).trans ?_
  rw [if_neg (by rw [hr]; decide), if_neg hv]
  have henter : modMe (fun c => { c.enter (BitVec.ofNat 52 (s.actor.tvec.setWidth 64).toNat) false false x.toNat (s.actor.pc + 4#52)
      (s.actor.pc + 4#52) with stallA := .none, waitA := none }) s = .ok ((), s.withActor (s.actor.trapped x)) := rfl
  refine (M.bind_ok htarget).trans ((M.bind_ok henter).trans ((M.bind_ok (mods_run _ _)).trans ?_))
  rw [State.activity_withActor s (c := s.actor.trapped x) (by rw [Ctx.trapped_eq]; exact Ctx.enterAs_act ..)]
  rfl

theorem trap_badVector (h : ReadyA s) (hr : s.actor.routine = false) (h4 : s.actor.tvec.toNat % 4 ≠ 0) :
    ∃ u, exec (.trap x) s = .next u ∧ u.turn = s.turn ∧ u.mem = s.mem
      ∧ u.actor = s.actor.stopped .illegal 1 s.actor.pc s.actor.pc (s.actor.tvec.setWidth 64) := by
  have htarget := registerTarget_vector s.actor.tvec s
  rw [if_neg h4] at htarget
  refine aHalf_stops (i := .trap x) (body := fun _ => _) (e := 0#64) h ?_
  refine (M.bind_ok (me_run s)).trans ?_
  rw [if_neg (by rw [hr]; decide), if_neg (fun h0 => h4 (by rw [h0]; rfl))]
  exact M.bind_error htarget

/-- A body that parks its context itself. -/
theorem parks_of_body {i : Instr} {body : Hints → M Disp} {c : Ctx} {code : FaultCode} {fa fe : BitVec 52} {v : Word} (h : ReadyA s)
    (hb : body {} s = .ok (.left, (s.withActor c).park s.turn.core s.turn.ctx code 1 fa fe v 0#64)) :
    ∃ u, aHalf i body s = .next u ∧ u.turn = s.turn ∧ u.mem = s.mem ∧ u.actor = c.stopped code 1 fa fe v := by
  refine ⟨_, aHalf_left h hb, State.turn_park .., State.mem_park .., ?_⟩
  rw [State.actor, State.turn_park]
  show State.ctx _ s.turn.core s.turn.ctx = _
  rw [State.ctx_park, State.withActor, State.ctx_setCtx_same]

theorem trap_parks (h : ReadyA s) (hr : s.actor.routine = false) (hv : s.actor.tvec = 0#52) :
    ∃ u, exec (.trap x) s = .next u ∧ u.turn = s.turn ∧ u.mem = s.mem ∧ u.actor = ({ s.actor with
      hints := [], pc := s.actor.pc + 4#52 } : Ctx).stopped .trap 1 (s.actor.pc + 4#52) (s.actor.pc + 4#52) (x.setWidth 64) := by
  refine parks_of_body (i := .trap x) (body := fun _ => _) h ?_
  refine (M.bind_ok (me_run s)).trans ?_
  rw [if_neg (by rw [hr]; decide), if_pos hv]
  rfl

theorem trap_inRoutine (h : ReadyA s) (hr : s.actor.routine = true) : ∃ u, exec (.trap x) s = .next u ∧ u.turn = s.turn ∧ u.mem = s.mem
    ∧ u.actor = s.actor.stopped .illegal 1 s.actor.pc s.actor.pc 0#64 := by
  refine aHalf_stops (i := .trap x) (body := fun _ => _) (e := 0#64) h ?_
  refine (M.bind_ok (me_run s)).trans ?_
  rw [if_pos hr]
  rfl

end Trap

/-! ## ERET and PARK (R364, R367) -/

section Leave
variable {s : State}

/-- Return leaves a context with an empty E queue what it computes with. -/
theorem Ctx.leave_sameWork {c : Ctx} (h : c.eq = []) : c.leave.sameWork c :=
  ⟨rfl, rfl, rfl, rfl, rfl, rfl, rfl, rfl, rfl, rfl, rfl, rfl, rfl, rfl, by simp [Ctx.leave, h, wordsFrom]⟩

theorem Ctx.leave_returns (c : Ctx) : c.leave.pc = c.epca.extractLsb' 0 52 ∧ c.leave.super = c.epca.getLsbD 63 := by
  refine ⟨(extractLsb'_of_fieldOf c.epca 0 52 (by decide)).symm, ?_⟩
  rw [getLsbD_eq_decide]
  rfl

theorem needRoutine_run (i : Instr) (h : InRoutine s) : needRoutine i s = .ok ((), s) := by
  obtain ⟨-, hsuper, hroutine⟩ := h
  exact (M.bind_ok (me_run s)).trans ((M.bind_ok (guardFault_holds hsuper _ _ s)).trans (require_holds hroutine s))

theorem fieldOf_epca_pc (w : Word) : fieldOf w 51 0 = (w.extractLsb' 0 52).toNat := by
  simp [fieldOf, bitsOf]

theorem eret_returns (h : InRoutine s) (hpc : fieldOf s.actor.epca 51 0 % 4 = 0) (hpce : s.actor.epce.toNat % 4 = 0) :
    exec .eret s = .next ((s.withActor { s.actor.leave with stallA := .none, waitA := none }).count s.activity.part 2 1) := by
  refine aHalf_left (i := .eret) (body := fun _ => _) h.1 ?_
  refine (M.bind_ok (needRoutine_run .eret h)).trans ((M.bind_ok (me_run s)).trans ?_)
  refine (M.bind_ok (guardFault_holds (by simpa using hpc) _ _ s)).trans ((M.bind_ok (guardFault_holds (by simpa using hpce) _ _ s)).trans ?_)
  refine (M.bind_ok (modMe_run _ s)).trans ((M.bind_ok (mods_run _ _)).trans ?_)
  rw [State.activity_modActor s _ (by rfl)]
  rfl

theorem eret_bad (h : InRoutine s) (hbad : fieldOf s.actor.epca 51 0 % 4 ≠ 0 ∨ s.actor.epce.toNat % 4 ≠ 0) :
    ∃ u, exec .eret s = .next u ∧ Stopped u s.turn.core s.turn.ctx .illegal := by
  have hstops : ∃ x, (∃ u, exec .eret s = .next u ∧ u.turn = s.turn ∧ u.mem = s.mem
      ∧ u.actor = s.actor.stopped .illegal 1 s.actor.pc s.actor.pc x) := by
    by_cases hpc : fieldOf s.actor.epca 51 0 % 4 = 0
    · have hpce : s.actor.epce.toNat % 4 ≠ 0 := hbad.resolve_left (absurd hpc)
      refine ⟨s.actor.epce.setWidth 64, aHalf_stops (i := .eret) (body := fun _ => _) (e := 0#64) h.1 ?_⟩
      refine (M.bind_ok (needRoutine_run .eret h)).trans ((M.bind_ok (me_run s)).trans ?_)
      refine (M.bind_ok (guardFault_holds (by simpa using hpc) _ _ s)).trans (M.bind_error ?_)
      simp only [guardFault, hpce, decide_false]
      rfl
    · refine ⟨wordOf (fieldOf s.actor.epca 51 0), aHalf_stops (i := .eret) (body := fun _ => _) (e := 0#64) h.1 ?_⟩
      refine (M.bind_ok (needRoutine_run .eret h)).trans ((M.bind_ok (me_run s)).trans (M.bind_error ?_))
      simp only [guardFault, hpc, decide_false]
      rfl
  obtain ⟨x, u, hu, hturn, -, hactor⟩ := hstops
  exact ⟨u, hu, Stopped.of_actor hturn hactor⟩

theorem park_parks (h : InRoutine s) : ∃ u, exec (.park 0#6) s = .next u ∧ u.turn = s.turn ∧ u.mem = s.mem
    ∧ u.actor = s.actor.leave.stopped .trap 1 (s.actor.epca.extractLsb' 0 52) s.actor.epce
      ((s.actor.epca.extractLsb' 52 6).setWidth 64) := by
  have hfa : BitVec.ofNat 52 (fieldOf s.actor.epca 51 0) = s.actor.epca.extractLsb' 0 52 :=
    (extractLsb'_of_fieldOf s.actor.epca 0 52 (by decide)).symm
  have hx : wordOf (fieldOf s.actor.epca 57 52) = (s.actor.epca.extractLsb' 52 6).setWidth 64 := by
    apply BitVec.eq_of_toNat_eq
    simp [fieldOf, bitsOf, Nat.shiftRight_eq_div_pow, wordOf]
  rw [← hfa, ← hx]
  refine parks_of_body (i := .park 0#6) (body := fun _ => _) h.1 ?_
  exact (M.bind_ok (needRoutine_run (.park 0#6) h)).trans (M.bind_ok (me_run s))

/-- The state after PARK 1: the context goes with its core's image and is free (R367). -/
def State.parkedAway (s : State) : State :=
  let im := s.image s.turn.core
  let t : State := { s with images := put s.images s.turn.core { im with ctxs := put im.ctxs s.turn.ctx { s.actor with hints := [] } } }
  (t.count t.activity.part 2 1).freeCtx s.turn.core s.turn.ctx

theorem park_frees (h : InRoutine s) (hsaved : s.actor.saved = true) : exec (.park 1#6) s = .next s.parkedAway := by
  refine aHalf_left (i := .park 1#6) (body := fun _ => _) h.1 ?_
  refine (M.bind_ok (needRoutine_run (.park 1#6) h)).trans ((M.bind_ok (me_run s)).trans ?_)
  refine (M.bind_ok (gets_run _ s)).trans ((M.bind_ok (gets_run _ s)).trans ?_)
  exact (M.bind_ok (require_holds hsaved s)).trans (M.bind_ok (mods_run _ s))

theorem State.images_count (s : State) (p kind n : Nat) : (s.count p kind n).images = s.images := by
  unfold State.count; split <;> rfl

theorem State.turn_parkedAway (s : State) : s.parkedAway.turn = s.turn := State.turn_count ..

theorem State.mem_parkedAway (s : State) : s.parkedAway.mem = s.mem := State.mem_count ..

theorem State.actor_parkedAway (s : State) : s.parkedAway.actor.status = .free := by
  rw [State.actor, State.turn_parkedAway]
  show (State.ctx (State.modCtx _ _ _ _) _ _).status = _
  rw [State.ctx_modCtx_same]
  rfl

theorem State.image_parkedAway (s : State) :
    look (s.parkedAway.image s.turn.core).ctxs s.turn.ctx = some { s.actor with hints := [] } := by
  have himages : s.parkedAway.images = put s.images s.turn.core { s.image s.turn.core with
      ctxs := put (s.image s.turn.core).ctxs s.turn.ctx { s.actor with hints := [] } } := State.images_count ..
  rw [State.image, himages, find_put_same, look_put_same]

theorem park_unsaved (h : InRoutine s) (hsaved : s.actor.saved = false) :
    ∃ u, exec (.park 1#6) s = .next u ∧ Stopped u s.turn.core s.turn.ctx .illegal := by
  obtain ⟨u, hu, hturn, -, hactor⟩ := aHalf_stops (i := .park 1#6) (code := .illegal) (x := 0#64) (e := 0#64)
    (body := fun _ => do
      needRoutine (.park 1#6)
      let c ← me
      let n ← gets fun s => s.turn.core
      let k ← gets fun s => s.turn.ctx
      require c.saved
      mods fun s =>
        let im := s.image n
        let s := { s with images := put s.images n { im with ctxs := put im.ctxs k { c with hints := [] } } }
        (s.count s.activity.part 2 1).freeCtx n k
      pure .left) h.1 (by
    refine (M.bind_ok (needRoutine_run (.park 1#6) h)).trans ((M.bind_ok (me_run s)).trans ?_)
    refine (M.bind_ok (gets_run _ s)).trans ((M.bind_ok (gets_run _ s)).trans (M.bind_error ?_))
    rw [hsaved]
    rfl)
  exact ⟨u, hu, Stopped.of_actor hturn hactor⟩

end Leave

/-- Settles O20: TRAP by its four cases; ERET returns as `Ctx.leave` says or faults; PARK parks as `Ctx.leave` returns, or goes with the
image. -/
theorem routinesAreEnteredAndLeft : Obligations.RoutinesAreEnteredAndLeft := by
  unfold Obligations.RoutinesAreEnteredAndLeft
  refine ⟨fun s x h => ⟨fun hr hv h4 => ?_, fun hr h4 => ?_, fun hr hv => ?_, fun hr => ?_⟩,
    fun s h => ⟨fun hpc hpce => ?_, fun hbad => ?_, ?_, fun hsaved => ?_, park_unsaved h⟩⟩
  · obtain ⟨hpc, hnext, hcode, hprv, hsrc, hres⟩ := s.actor.trapped_records x
    refine ⟨_, trap_enters h hr hv h4, hpc, ?_⟩
    rw [s.actor.trapped_eq] at hnext hcode hprv hsrc hres ⊢
    exact ⟨rfl, rfl, rfl, hnext, hcode, hprv, hsrc, hres,
      (Ctx.enterAs_status ..).trans h.running, Ctx.enterAs_sameWork ..⟩
  · obtain ⟨u, hu, hturn, hmem, hactor⟩ := trap_badVector (x := x) h hr h4
    exact ⟨u, hu, Stopped.of_actor hturn hactor, by rw [hactor]; rfl, by rw [hactor]; rfl, hmem⟩
  · obtain ⟨u, hu, hturn, hmem, hactor⟩ := trap_parks (x := x) h hr hv
    exact ⟨u, hu, Stopped.of_actor hturn hactor, by rw [hactor]; rfl, by rw [hactor]; rfl, by rw [hactor]; rfl,
      by rw [hactor]; exact s.actor.sameWork_refl, hmem⟩
  · obtain ⟨u, hu, hturn, hmem, hactor⟩ := trap_inRoutine (x := x) h hr
    exact ⟨u, hu, Stopped.of_actor hturn hactor, by rw [hactor]; rfl, hmem⟩
  · obtain ⟨hret, hprv⟩ := s.actor.leave_returns
    rw [← fieldOf_epca_pc] at hpc
    exact ⟨_, eret_returns h hpc hpce, hret, hprv, rfl, h.1.running, Ctx.leave_sameWork h.1.drained⟩
  · rw [← fieldOf_epca_pc] at hbad
    exact eret_bad h hbad
  · obtain ⟨u, hu, hturn, hmem, hactor⟩ := park_parks h
    exact ⟨u, hu, Stopped.of_actor hturn hactor, by rw [hactor]; rfl, by rw [hactor]; rfl, by rw [hactor]; rfl,
      by rw [hactor]; exact Ctx.leave_sameWork h.1.drained, hmem⟩
  · exact ⟨_, park_frees h hsaved, s.actor_parkedAway, ⟨_, s.image_parkedAway, s.actor.sameWork_refl⟩, s.mem_parkedAway⟩

end Sys2Proof.Machine
end

section
/-!
SUPPORT. A hold that arms its granules (14 R352): the state that refutes O36.
-/

namespace Sys2Proof.Machine

/-- A context whose process has a landing region of one granule; a1 holds 1. -/
def landed64 : State :=
  (State.reset.modProc 0 fun p => { p with land := (0, 64) }).withActor { status := .running, a := (Vector.replicate 32 0#64).set 1 1#64 }

theorem readyA_landed64 : ReadyA landed64 := ⟨rfl, rfl, rfl, rfl, rfl, rfl⟩

theorem holdRange_landed64 : holdRange 0#5 1#5 landed64 = .ok ((0, 1), landed64) := rfl

/-- GHOLD notes the clock in which it arms a granule. -/
theorem ghold_landed64_arms : ∃ t, exec (.ghold 0#5 1#5) landed64 = .next t ∧ (t.proc 0).armed = [(0, 0)] := ⟨_, rfl, rfl⟩

/-- Refutes O36: by its clause on GHOLD nothing of the process changes but the hold bits. GHOLD also notes for each granule the clock in
which it was last armed (14 R352), which the named next state leaves out: `landed64` is such a state. -/
theorem not_registerStoresAndHolds : ¬Obligations.RegisterStoresAndHolds := by
  unfold Obligations.RegisterStoresAndHolds
  intro h
  obtain ⟨hgo, -⟩ := (h landed64 1#5 0#5 0#5 readyA_landed64).2 0 1 landed64 holdRange_landed64
  obtain ⟨t, ht, harmed⟩ := ghold_landed64_arms
  rw [LeavesIn, ht, Host.Outcome.next.injEq] at hgo
  rw [hgo] at harmed
  exact absurd harmed (by decide)

end Sys2Proof.Machine
end

section
/-!
SUPPORT. The end of an activation and the exit of a process (13 R296, R320, R323, R324; 07 R162): what they leave of the context and of
the process; the statement O35 put together from them.
-/

namespace Sys2Proof.Machine

/-! ## What ends leave alone -/

section Leaving
variable (s : State)

theorem Settled.turn {s u : State} (h : Settled s u) : u.turn = s.turn := by
  obtain ⟨_, _, _, ⟨_, _, _, rfl⟩, -⟩ := h
  rfl

theorem State.settled_dropInbox (core chid : Nat) : Settled s (s.dropInbox core chid) := s.settled_modCore core fun _ => ⟨_, _, rfl⟩

theorem State.settled_closeEnd (core slot k : Nat) : Settled s (s.closeEnd core slot k) := by
  unfold State.closeEnd
  dsimp only
  split_ifs
  · refine Settled.trans ?_ (State.left_toHome ..).settled
    refine Settled.trans ?_ (Settled.foldl (fun u m => (u.moved_discard core slot m).settled) _ _)
    exact (s.moved_modEnd slot k _).settled.trans (State.settled_dropInbox ..)
  · exact (s.moved_modEnd slot k _).settled.trans (State.left_toHome ..).settled

/-- A context after a change of every context that leaves the one without an activation as it is. -/
theorem State.ctx_mapCtxs {f : Ctx → Ctx} (hf : f {} = {}) (n k : Nat) : (s.mapCtxs f).ctx n k = f (s.ctx n k) := by
  have hfind : ∀ {α : Type} (m : Map α) (g : α → α) (x : α) (j : Nat), g x = x →
      find (m.map fun e => (e.1, g e.2)) j x = g (find m j x) := by
    intro α m g x j hx
    induction m with
    | nil => exact hx.symm
    | cons e m ih =>
      obtain ⟨i, y⟩ := e
      by_cases hij : j = i
      · simp [find, look, hij]
      · simpa [find, look, hij] using ih
  have hcore : (s.mapCtxs f).core n = { s.core n with ctxs := (s.core n).ctxs.map fun e => (e.1, f e.2) } :=
    hfind s.cores (fun c => { c with ctxs := c.ctxs.map fun e => (e.1, f e.2) }) {} n rfl
  rw [State.ctx, hcore]
  exact hfind (s.core n).ctxs f {} k hf

/-- What the exit of a barrier's owner makes of a context: a waiter is released, any other stays as it is (06 R427). -/
def Ctx.ownerGone (slot : Nat) (k : Ctx) : Ctx := match k.pend with
  | some p => if p.va / 2 ^ 18 = slot then k.release p.va 2 else k
  | none => k

theorem State.ctx_releaseOwner (slot n k : Nat) : (s.releaseOwner slot).ctx n k = (s.ctx n k).ownerGone slot :=
  s.ctx_mapCtxs (f := Ctx.ownerGone slot) rfl n k

theorem Ctx.ownerGone_of_free {c : Ctx} (h : c.pend = none) (slot : Nat) : c.ownerGone slot = c := by rw [Ctx.ownerGone, h]

end Leaving

/-! ## Exit (R320, R324) -/

section Exit
variable (s : State) (slot : Nat)

/-- The state in which the ends of an exiting process have closed and its waiters are released. -/
def State.shut : State :=
  let p := s.proc slot
  let held := (rangeFrom 0 64).filter fun k => (p.endAt k).state = .held
  let t := held.foldl (fun s k => s.closeEnd p.core slot k) s
  (p.starts.foldl (fun s m => s.discard p.core slot m) t).releaseOwner slot

/-- An exited process. -/
def Proc.over (p : Proc) : Proc :=
  { p with state := .exited, exiting := false, moving := false, events := [], starts := [], ends := [], queued := [] }

theorem State.exitProc_eq : ∃ cls, s.exitProc slot = { (s.shut slot).modProc slot Proc.over with
    clusters := cls, draining := (s.shut slot).draining ++ [{ slot := slot }] } := ⟨_, rfl⟩

theorem State.shut_settles : ∃ t, Settled s t ∧ s.shut slot = t.releaseOwner slot :=
  ⟨_, (Settled.foldl (fun u k => u.settled_closeEnd _ slot k) _ s).trans (Settled.foldl (fun u m => (u.moved_discard _ slot m).settled) _ _),
    rfl⟩

/-- A context that waits for no reply is as it was when a process exits. -/
theorem State.ctx_exitProc {n k : Nat} (h : (s.ctx n k).pend = none) : (s.exitProc slot).ctx n k = s.ctx n k := by
  obtain ⟨cls, hexit⟩ := s.exitProc_eq slot
  obtain ⟨t, hset, hshut⟩ := s.shut_settles slot
  have hctx : (s.exitProc slot).ctx n k = (s.shut slot).ctx n k := by rw [hexit]; rfl
  rw [hctx, hshut, State.ctx_releaseOwner, hset.ctx, Ctx.ownerGone_of_free h]

theorem State.turn_exitProc : (s.exitProc slot).turn = s.turn := by
  obtain ⟨cls, hexit⟩ := s.exitProc_eq slot
  obtain ⟨t, hset, hshut⟩ := s.shut_settles slot
  rw [hexit]
  show (s.shut slot).turn = _
  rw [hshut]
  exact hset.turn

/-- The process has exited, and its slot waits for its drain markers (14 R346). -/
theorem State.exitProc_exits : ((s.exitProc slot).proc slot).state = .exited ∧ (⟨slot, none⟩ : Drain) ∈ (s.exitProc slot).draining := by
  obtain ⟨cls, hexit⟩ := s.exitProc_eq slot
  have hprocs : (s.exitProc slot).procs = ((s.shut slot).modProc slot Proc.over).procs := by rw [hexit]
  refine ⟨?_, by rw [hexit]; exact List.mem_append_right _ (List.mem_singleton.mpr rfl)⟩
  rw [State.proc, hprocs, ← State.proc, State.proc_modProc_same]
  rfl

end Exit

/-! ## The end of an activation (R323) -/

section Ends
variable {s t u : State} {a : Activation} {n k : Nat}

theorem State.ctx_passOn (s : State) (a : Activation) (know : Know) (m j : Nat) : (s.passOn a know).ctx m j = s.ctx m j := by
  unfold State.passOn
  split
  · split
    · rfl
    · split
      · rfl
      · refine State.ctx_modCore s _ ?_ m j
        exact fun _ => rfl
  · rfl
  · rfl

/-- What an activation passes on touches only what its process's ends and events know. -/
theorem State.proc_passOn (s : State) (a : Activation) (know : Know) (j : Nat) :
    ∃ es ek, (s.passOn a know).proc j = { s.proc j with ends := es, evtKnow := ek } := by
  have hmod : ∀ {f : Proc → Proc}, (∀ p, ∃ es ek, f p = { p with ends := es, evtKnow := ek }) →
      ∃ es ek, (s.modProc a.slot f).proc j = { s.proc j with ends := es, evtKnow := ek } := by
    intro f hf
    by_cases hj : j = a.slot
    · subst hj
      rw [State.proc_modProc_same]
      exact hf _
    · rw [State.proc_modProc_other _ _ _ _ hj]
      exact ⟨_, _, rfl⟩
  unfold State.passOn
  split
  · split
    · exact ⟨_, _, rfl⟩
    · split
      · exact hmod fun _ => ⟨_, _, rfl⟩
      · exact ⟨_, _, rfl⟩
  · exact hmod fun _ => ⟨_, _, rfl⟩
  · exact ⟨_, _, rfl⟩

theorem State.turn_passOn (s : State) (a : Activation) (know : Know) : (s.passOn a know).turn = s.turn := by
  unfold State.passOn
  split
  · split
    · rfl
    · split <;> rfl
  · rfl
  · rfl

/-- The state in which an activation without streams has ended: its flags have gone to its process, and its context is free. -/
def State.activationOver (s : State) (a : Activation) (n k : Nat) : State :=
  let t := s.orPflags a.slot (s.ctx n k).flags
  (t.passOn a (t.knows (agentOf t.devidx n k))).freeCtx n k

theorem State.endStreams_none (h : (s.ctx n k).streams = []) : s.endStreams n k = s := by rw [State.endStreams, h]; rfl

theorem State.endActivation_stays (hact : (s.ctx n k).act = some a) (hstreams : (s.ctx n k).streams = []) :
    s.endActivation n k false = (s.activationOver a n k).exitIfIdle a.slot := by
  simp only [State.endActivation, hact, State.endStreams_none hstreams]
  rfl

theorem State.endActivation_exits (hact : (s.ctx n k).act = some a) (hstreams : (s.ctx n k).streams = []) :
    s.endActivation n k true
      = ((s.activationOver a n k).modProc a.slot fun p => { p with exiting := true }).exitIfIdle a.slot := by
  simp only [State.endActivation, hact, State.endStreams_none hstreams]
  rfl

theorem State.ctx_activationOver (s : State) (a : Activation) (n k : Nat) : (s.activationOver a n k).ctx n k = (s.ctx n k).freed := by
  rw [State.activationOver, State.freeCtx, State.ctx_modCtx_same, State.ctx_passOn]
  rfl

theorem State.ctx_activationOver_other (s : State) (a : Activation) (n : Nat) {k j : Nat} (h : j ≠ k) :
    (s.activationOver a n k).ctx n j = s.ctx n j := by
  rw [State.activationOver, State.freeCtx, State.ctx_modCtx_other _ _ _ _ _ _ (.inr h), State.ctx_passOn]
  rfl

theorem State.proc_activationOver (s : State) (a : Activation) (n k : Nat) : ∃ es ek, (s.activationOver a n k).proc a.slot
    = { s.proc a.slot with pflags := (s.proc a.slot).pflags ||| (s.ctx n k).flags, ends := es, evtKnow := ek } := by
  obtain ⟨es, ek, hp⟩ := (s.orPflags a.slot (s.ctx n k).flags).proc_passOn a
    ((s.orPflags a.slot (s.ctx n k).flags).knows (agentOf (s.orPflags a.slot (s.ctx n k).flags).devidx n k)) a.slot
  refine ⟨es, ek, hp.trans ?_⟩
  rw [State.orPflags, State.proc_modProc_same]

theorem State.turn_activationOver (s : State) (a : Activation) (n k : Nat) : (s.activationOver a n k).turn = s.turn :=
  State.turn_passOn ..

theorem State.mem_activationOver (s : State) (a : Activation) (n k : Nat) : (s.activationOver a n k).mem = s.mem := by
  simp [State.activationOver]

/-- A process that is not exiting does not exit. -/
theorem State.exitIfIdle_of_not_exiting {slot : Nat} (h : (s.proc slot).exiting = false) : s.exitIfIdle slot = s := by
  rw [State.exitIfIdle]
  simp [h]

/-- An exiting process of which no activation runs exits. -/
theorem State.exitIfIdle_of_exiting {slot : Nat} (hexit : (s.proc slot).exiting = true) (hstate : (s.proc slot).state ≠ .exited)
    (hruns : s.runs slot = []) : s.exitIfIdle slot = s.exitProc slot := by
  simp [State.exitIfIdle, hexit, hstate, hruns]

theorem State.runs_eq_nil {slot : Nat} (h : ∀ j, j < 4 → (s.ctx (s.proc slot).core j).act = none) : s.runs slot = [] := by
  refine List.filter_eq_nil_iff.mpr fun j hj => ?_
  have hj4 : j < 4 := by simpa [rangeFrom_zero] using hj
  rw [h j hj4]
  exact Bool.false_ne_true

end Ends

/-! ## HSEAL and HEND -/

section Seal
variable {s u : State} {a : Activation}

/-- An empty outbox seals at once (R296). -/
theorem sealNow_empty (h : s.actor.outbox = []) : sealNow s = .ok (none, s.modActor fun c => { c with sealed := true }) := by
  refine (M.bind_ok (modMe_run _ s)).trans ((M.bind_ok (me_run _)).trans ?_)
  rw [State.actor_modActor, h]
  rfl

theorem hseal_leaves (h : ReadyA s) (hseal : sealNow s = .ok (none, u)) : LeavesIn s u .hseal u.actor :=
  aHalf_retires (body := fun _ => _) h (M.bind_ok hseal) (SetTo.refl u) rfl rfl

theorem hseal_empty (h : ReadyA s) (hout : s.actor.outbox = []) : Leaves s .hseal { s.actor with sealed := true } :=
  aHalf_retires (body := fun _ => _) h (M.bind_ok (sealNow_empty hout)) ((SetTo.refl s).modActor fun c => { c with sealed := true }) rfl rfl

/-- The state in which HEND ends the activation: sealed, and counted as retired. -/
def State.hending (s : State) : State := (s.modActor fun c => { c with sealed := true }).count s.activity.part 2 1

theorem hend_ends (h : ReadyA s) (hout : s.actor.outbox = []) (x : BitVec 1) :
    exec (.hend x) s = .next (s.hending.endActivation s.turn.core s.turn.ctx (x == 1#1)) := by
  refine aHalf_left (i := .hend x) (body := fun _ => _) h ?_
  refine (M.bind_ok (sealNow_empty hout)).trans ((M.bind_ok (mods_run _ _)).trans ?_)
  rw [State.activity_modActor s _ (by rfl)]
  rfl

theorem State.ctx_hending (s : State) : s.hending.ctx s.turn.core s.turn.ctx = { s.actor with sealed := true } := by
  rw [State.hending, State.ctx_congr (State.cores_count ..)]
  exact State.ctx_modCtx_same ..

theorem State.ctx_hending_other (s : State) {k : Nat} (h : k ≠ s.turn.ctx) : s.hending.ctx s.turn.core k = s.ctx s.turn.core k := by
  rw [State.hending, State.ctx_congr (State.cores_count ..)]
  exact State.ctx_modCtx_other _ _ _ _ _ _ (.inr h)

theorem State.proc_hending (s : State) (k : Nat) : s.hending.proc k = s.proc k := by
  rw [State.hending, State.count]
  split <;> rfl

/-- HEND of an activation with an empty outbox and no streams, whose process is not exiting. -/
theorem hend_frees (h : ReadyA s) (hact : s.actor.act = some a) (hout : s.actor.outbox = []) (hstreams : s.actor.streams = [])
    (hexit : (s.proc a.slot).exiting = false) : ∃ u, exec (.hend 0#1) s = .next u ∧ u.actor.status = .free ∧ u.actor.act = none
      ∧ u.actor.outbox = [] ∧ (u.proc a.slot).pflags = (s.proc a.slot).pflags ||| s.actor.flags
      ∧ (u.proc a.slot).state = (s.proc a.slot).state ∧ u.mem = s.mem := by
  have hctx := s.ctx_hending
  obtain ⟨es, ek, hproc⟩ := s.hending.proc_activationOver a s.turn.core s.turn.ctx
  rw [s.proc_hending, hctx] at hproc
  have hends : s.hending.endActivation s.turn.core s.turn.ctx (0#1 == 1#1) = s.hending.activationOver a s.turn.core s.turn.ctx := by
    rw [show (0#1 == 1#1) = false from rfl, State.endActivation_stays (by rw [hctx]; exact hact) (by rw [hctx]; exact hstreams)]
    exact State.exitIfIdle_of_not_exiting (by rw [hproc]; exact hexit)
  have hactor : (s.hending.activationOver a s.turn.core s.turn.ctx).actor = s.actor.freed := by
    rw [State.actor, State.turn_activationOver, State.hending, State.turn_count]
    show (s.hending.activationOver a s.turn.core s.turn.ctx).ctx s.turn.core s.turn.ctx = _
    rw [State.ctx_activationOver, hctx]
    rfl
  refine ⟨_, hend_ends h hout 0#1, ?_⟩
  rw [hends, hactor, hproc]
  exact ⟨rfl, rfl, rfl, rfl, rfl, by rw [State.mem_activationOver, State.hending, State.mem_count]; rfl⟩

/-- HEND.exit of the last activation of a process that runs on its core. -/
theorem hend_exits (h : ReadyA s) (hact : s.actor.act = some a) (hout : s.actor.outbox = []) (hstreams : s.actor.streams = [])
    (hcore : (s.proc a.slot).core = s.turn.core) (halone : ∀ k, k < 4 → k ≠ s.turn.ctx → (s.ctx s.turn.core k).act = none)
    (hstate : (s.proc a.slot).state ≠ .exited) : ∃ u, exec (.hend 1#1) s = .next u ∧ u.actor.status = .free
      ∧ (u.proc a.slot).state = .exited ∧ (⟨a.slot, none⟩ : Drain) ∈ u.draining ∧ u.mem = s.mem := by
  have hctx := s.ctx_hending
  obtain ⟨es, ek, hproc⟩ := s.hending.proc_activationOver a s.turn.core s.turn.ctx
  rw [s.proc_hending, hctx] at hproc
  obtain ⟨w, hw⟩ : ∃ w, w = (s.hending.activationOver a s.turn.core s.turn.ctx).modProc a.slot fun p => { p with exiting := true } := ⟨_, rfl⟩
  have hwproc : w.proc a.slot = { (s.hending.activationOver a s.turn.core s.turn.ctx).proc a.slot with exiting := true } := by
    rw [hw, State.proc_modProc_same]
  rw [hproc] at hwproc
  have hwctx : w.ctx s.turn.core s.turn.ctx = s.actor.freed := by
    rw [hw]
    show (s.hending.activationOver a s.turn.core s.turn.ctx).ctx s.turn.core s.turn.ctx = _
    rw [State.ctx_activationOver, hctx]
    rfl
  have hruns : w.runs a.slot = [] := by
    refine State.runs_eq_nil fun j hj => ?_
    rw [hwproc]
    show (w.ctx (s.proc a.slot).core j).act = none
    rw [hcore]
    by_cases hjk : j = s.turn.ctx
    · rw [hjk, hwctx]
      rfl
    · rw [hw]
      show ((s.hending.activationOver a s.turn.core s.turn.ctx).ctx s.turn.core j).act = none
      rw [State.ctx_activationOver_other _ _ _ hjk, s.ctx_hending_other hjk]
      exact halone j hj hjk
  have hends : s.hending.endActivation s.turn.core s.turn.ctx (1#1 == 1#1) = w.exitProc a.slot := by
    rw [show (1#1 == 1#1) = true from rfl, State.endActivation_exits (by rw [hctx]; exact hact) (by rw [hctx]; exact hstreams), ← hw]
    exact State.exitIfIdle_of_exiting (by rw [hwproc]) (by rw [hwproc]; exact hstate) hruns
  have hturn : w.turn = s.turn := by
    rw [hw]
    show (s.hending.activationOver a s.turn.core s.turn.ctx).turn = _
    rw [State.turn_activationOver, State.hending, State.turn_count]
    rfl
  obtain ⟨hexited, hdrain⟩ := w.exitProc_exits a.slot
  refine ⟨_, hend_ends h hout 1#1, ?_⟩
  rw [hends]
  refine ⟨?_, hexited, hdrain, ?_⟩
  · rw [State.actor, State.turn_exitProc, hturn, State.ctx_exitProc _ _ (by rw [hwctx]; rfl), hwctx]
    rfl
  · rw [State.mem_exitProc, hw]
    show (s.hending.activationOver a s.turn.core s.turn.ctx).mem = _
    rw [State.mem_activationOver, State.hending, State.mem_count]
    rfl

end Seal

/-- Settles O35: HSEAL by what `sealNow` answers; HEND ends the activation (`State.endActivation_stays`), and with exit its process
(`State.endActivation_exits`). -/
theorem activationsEnd : Obligations.ActivationsEnd := by
  unfold Obligations.ActivationsEnd
  exact fun s a h hact _ => ⟨hseal_empty h, fun u => hseal_leaves h, fun hout hstreams hexit =>
    ⟨hend_frees h hact hout hstreams hexit, fun hcore halone hstate => hend_exits h hact hout hstreams hcore halone hstate⟩⟩

end Sys2Proof.Machine
end

section
/-!
SUPPORT. Samples, idle states and TIME (23 R406, R411; 22 R399, R400): which outcome each row has under its guards, what the wake
of a cluster leaves, how far TIME moves, and the messages by which the reference sends its time.
-/

namespace Sys2Proof.Machine

/-! ## Samples -/

/-- Without a context to sample, the period passes. -/
theorem pcSample_passes {s : State} (hcore : coreOk s.turn.unit = true) (hon : (s.core s.turn.unit).samplep ≠ 0#32)
    (hdue : (s.core s.turn.unit).sampleAt + (s.core s.turn.unit).samplep.toNat ≤ s.cyc)
    (hnext : (s.core s.turn.unit).sampleNext = none) :
    Goes s .pcSample (s.modCore s.turn.unit fun c => { c with sampleAt := c.sampleAt + c.samplep.toNat }) := by
  show execPcSample s = _
  have hnow : ¬s.cyc < (s.core s.turn.unit).sampleAt + (s.core s.turn.unit).samplep.toNat := by omega
  simp [execPcSample, hcore, hon, hnow, hnext]

/-- A sample writes TIME, the activation's name with the core, the context and the reason, and both addresses. -/
theorem pcSample_records {s : State} {j : Nat} {a : Activation} (hcore : coreOk s.turn.unit = true)
    (hon : (s.core s.turn.unit).samplep ≠ 0#32)
    (hdue : (s.core s.turn.unit).sampleAt + (s.core s.turn.unit).samplep.toNat ≤ s.cyc)
    (hnext : (s.core s.turn.unit).sampleNext = some j) (hact : (s.ctx s.turn.unit j).act = some a) :
    Goes s .pcSample (((s.modCore s.turn.unit fun c => { c with sampleAt := c.sampleAt + c.samplep.toNat }).modCore s.turn.unit
      fun c => { c with sampleLast := j }).ringRecord a.part false []
        [BitVec.ofNat 64 s.time,
          BitVec.ofNat 64 (a.name % 2 ^ 32 * 2 ^ 32 + s.turn.unit % 2 ^ 14 * 2 ^ 16 + j % 4 * 2 ^ 8
            + (s.core s.turn.unit).sampleReason j s.cyc % 32),
          (s.ctx s.turn.unit j).nextA.setWidth 64, (s.ctx s.turn.unit j).nextE.setWidth 64]) := by
  show execPcSample s = _
  have hnow : ¬s.cyc < (s.core s.turn.unit).sampleAt + (s.core s.turn.unit).samplep.toNat := by omega
  have hact' : ((s.core s.turn.unit).ctx j).act = some a := hact
  simp [execPcSample, hcore, hon, hnow, hnext, hact', at_, wordOf, State.ctx]

/-! ## A cluster's idle states -/

/-- Which idle state of two a tolerance allows. -/
theorem deepest_i1_i2 (us : Nat) :
    deepest us .i1 .i2 = if 50 ≤ us then some .i2 else if 2 ≤ us then some .i1 else none := rfl

theorem deepest_i3_i4 (us : Nat) :
    deepest us .i3 .i4 = if 30000 ≤ us then some .i4 else if 2000 ≤ us then some .i3 else none := rfl

theorem idleEntry_seenIdle {s : State} (hcl : clusterOk s.turn.unit = true) (hidle : s.clusterIdle s.turn.unit = true)
    (hsince : (s.cluster s.turn.unit).idleSince = none) :
    Goes s .idleEntry (s.modCluster s.turn.unit fun k => { k with idleSince := some s.time }) := by
  show execIdleEntry s = _
  simp [execIdleEntry, hcl, hidle, hsince]

theorem idleEntry_seenBusy {s : State} (hcl : clusterOk s.turn.unit = true) (hbusy : s.clusterIdle s.turn.unit = false)
    (hsince : (s.cluster s.turn.unit).idleSince ≠ none) :
    Goes s .idleEntry (s.modCluster s.turn.unit fun k => { k with idleSince := none }) := by
  show execIdleEntry s = _
  simp [execIdleEntry, hcl, hbusy, hsince]

/-- A cluster that has been idle for ten exit latencies of the state that its partition allows enters that state. -/
theorem idleEntry_enters {s : State} {t p : Nat} {i : Idle} (hcl : clusterOk s.turn.unit = true)
    (hidle : s.clusterIdle s.turn.unit = true) (hsince : (s.cluster s.turn.unit).idleSince = some t)
    (hpart : s.clusterPart s.turn.unit = some p) (hexit : (s.cluster s.turn.unit).idleExit = none)
    (hdeep : deepest (s.part p).lattol .i1 .i2 = some i)
    (hfrom : (s.cluster s.turn.unit).idle = .run ∨ ((s.cluster s.turn.unit).idle = .i1 ∧ i = .i2))
    (hlong : t + 10000 * exitUs i ≤ s.time) :
    Goes s .idleEntry (s.modCluster s.turn.unit fun k => { k with idle := i }) := by
  show execIdleEntry s = _
  simp [execIdleEntry, hcl, hidle, hsince, hpart, hexit, hdeep, hfrom, hlong]

/-- A partition that tolerates no exit latency keeps its clusters awake. -/
theorem idleEntry_stays {s : State} {t p : Nat} (hcl : clusterOk s.turn.unit = true)
    (hidle : s.clusterIdle s.turn.unit = true) (hsince : (s.cluster s.turn.unit).idleSince = some t)
    (hpart : s.clusterPart s.turn.unit = some p) (hdeep : deepest (s.part p).lattol .i1 .i2 = none) : Goes s .idleEntry s := by
  show execIdleEntry s = _
  simp [execIdleEntry, hcl, hidle, hsince, hpart, hdeep]

/-- The exit latencies of the states of a cluster and of the device, in microseconds. -/
theorem exitUs_cluster {i : Idle} {us : Nat} (h : (i, us) ∈ [(Idle.i1, 2), (Idle.i2, 50)]) : i ≠ .run ∧ exitUs i = us := by
  simp only [List.mem_cons, Prod.mk.injEq, List.not_mem_nil, or_false] at h
  obtain ⟨rfl, rfl⟩ | ⟨rfl, rfl⟩ := h <;> exact ⟨by decide, rfl⟩

theorem exitUs_device {i : Idle} {us : Nat} (h : (i, us) ∈ [(Idle.i3, 2000), (Idle.i4, 30000)]) : i ≠ .run ∧ exitUs i = us := by
  simp only [List.mem_cons, Prod.mk.injEq, List.not_mem_nil, or_false] at h
  obtain ⟨rfl, rfl⟩ | ⟨rfl, rfl⟩ := h <;> exact ⟨by decide, rfl⟩

theorem idleWake_cluster {s : State} {us : Nat} (hsub : s.turn.sub ≠ 1) (hcl : clusterOk s.turn.unit = true)
    (hidle : ((s.cluster s.turn.unit).idle, us) ∈ [(Idle.i1, 2), (Idle.i2, 50)])
    (hexit : (s.cluster s.turn.unit).idleExit = none) :
    Goes s .idleWake (s.modCluster s.turn.unit fun k => { k with idleExit := some (s.time + 1000 * us) }) := by
  show execIdleWake s = _
  obtain ⟨hasleep, hus⟩ := exitUs_cluster hidle
  simp [execIdleWake, hsub, hcl, State.wakeCluster, hasleep, hexit, State.modCluster, hus]

theorem idleWake_device {s : State} {us : Nat} (hsub : s.turn.sub = 1) (hidle : (s.idle, us) ∈ [(Idle.i3, 2000), (Idle.i4, 30000)])
    (hexit : s.idleExit = none) : Goes s .idleWake { s with idleExit := some (s.time + 1000 * us) } := by
  show execIdleWake s = _
  obtain ⟨hasleep, hus⟩ := exitUs_device hidle
  simp [execIdleWake, hsub, State.wakeDevice, hasleep, hexit, hus]

theorem idleExitDone_cluster {s : State} {t : Nat} (hsub : s.turn.sub ≠ 1) (hcl : clusterOk s.turn.unit = true)
    (hexit : (s.cluster s.turn.unit).idleExit = some t) (hover : t ≤ s.time) :
    Goes s .idleExitDone (s.modCluster s.turn.unit fun k => { k with idle := .run, idleExit := none, idleSince := none }) := by
  show execIdleExitDone s = _
  simp [execIdleExitDone, hsub, hcl, hexit, over?, hover]

theorem idleExitDone_device {s : State} {t : Nat} (hsub : s.turn.sub = 1) (hexit : s.idleExit = some t) (hover : t ≤ s.time) :
    Goes s .idleExitDone { s with idle := .run, idleExit := none, agenda := s.hostWaits ++ s.agenda, hostWaits := [] } := by
  show execIdleExitDone s = _
  simp [execIdleExitDone, hsub, hexit, over?, hover, State.awake]

/-! ## The device's idle states -/

/-- With its clusters idle, its links quiet and no work planned, nothing keeps the device awake. -/
theorem stirs_of_still {s : State} (hquiet : s.quiet = true) (hworks : s.planAwake.any s.works = false)
    (hidle : ∀ c, c ∈ s.clusters.map Prod.fst ∨ c ∈ s.cores.map (fun e => e.1 / 8) → s.clusterIdle c = true) : s.stirs = false := by
  have hall : s.usedClusters.all s.clusterIdle = true := by
    rw [List.all_eq_true]
    intro c hc
    exact hidle c (List.mem_append.mp (List.mem_eraseDups.mp hc))
  simp [State.stirs, hquiet, hworks, hall]

theorem deviceIdleEntry_enters {s : State} {i : Idle} (hrun : s.idle = .run) (hexit : s.idleExit = none) (hstirs : s.stirs = false)
    (hdeep : s.deviceIdle = some i) : Goes s .deviceIdleEntry { s with idle := i } := by
  show execDeviceIdleEntry s = _
  simp [execDeviceIdleEntry, hrun, hexit, hstirs, hdeep]

theorem deviceIdle_of_leastLattol {s : State} {us : Nat} (h : s.leastLattol = some us) :
    s.deviceIdle = if 30000 ≤ us then some .i4 else if 2000 ≤ us then some .i3 else none := by
  simp [State.deviceIdle, h, deepest_i3_i4]

/-! ## LATTOL -/

@[simp] theorem State.parts_wakeCluster (s : State) (cl : Nat) : (s.wakeCluster cl).parts = s.parts := by
  unfold State.wakeCluster
  dsimp only
  split_ifs <;> rfl

@[simp] theorem State.parts_wakeDevice (s : State) : s.wakeDevice.parts = s.parts := by
  unfold State.wakeDevice
  split_ifs <;> rfl

@[simp] theorem State.cores_wakeDevice (s : State) : s.wakeDevice.cores = s.cores := by
  unfold State.wakeDevice
  split_ifs <;> rfl

/-- A write of LATTOL may begin exits, and keeps the value. -/
theorem writeLattol_writes (s : State) (p : Nat) (v : Word) :
    ((s.writeLattol p v).part p).lattol = fieldOf v 31 0 ∧ (s.writeLattol p v).mem = s.mem ∧ (s.writeLattol p v).cores = s.cores := by
  have hwakes : ∀ (cls : List Nat) (u : State), (cls.foldl (fun s cl => s.wakeCluster cl) u).parts = u.parts
      ∧ (cls.foldl (fun s cl => s.wakeCluster cl) u).mem = u.mem ∧ (cls.foldl (fun s cl => s.wakeCluster cl) u).cores = u.cores :=
    fun cls u => ⟨foldl_keeps State.parts (fun s cl => s.parts_wakeCluster cl) cls u,
      foldl_keeps State.mem (fun s cl => State.mem_wakeCluster (s := s) cl) cls u,
      foldl_keeps State.cores (fun s cl => State.cores_wakeCluster (s := s) cl) cls u⟩
  unfold State.writeLattol
  dsimp only
  split_ifs <;> simp [State.part, hwakes, State.modPart]

theorem lattolWrite_writes {s : State} (hd : s.turn.unit < 8) (hvalid : (s.part s.turn.unit).valid = true)
    (hfrozen : (s.part s.turn.unit).frozen = false) :
    ∃ t, Goes s .lattolWrite t ∧ (t.part s.turn.unit).lattol = (s.given 0).toNat % 2 ^ 32 ∧ t.mem = s.mem ∧ t.cores = s.cores := by
  refine ⟨s.writeLattol s.turn.unit (s.given 0), ?_, ?_⟩
  · show execLattolWrite s = _
    have hd' : ¬8 ≤ s.turn.unit := by omega
    simp [execLattolWrite, hd', Partition.open, hvalid, hfrozen]
  · have h := writeLattol_writes s s.turn.unit (s.given 0)
    simpa [fieldOf, bitsOf] using h

/-! ## TIME -/

@[simp] theorem State.devidx_setInput (s : State) (i : Nat) (ps : List PodPacket) : (s.setInput i ps).devidx = s.devidx := by
  unfold State.setInput
  split_ifs <;> rfl

@[simp] theorem State.time_setInput (s : State) (i : Nat) (ps : List PodPacket) : (s.setInput i ps).time = s.time := by
  unfold State.setInput
  split_ifs <;> rfl

/-- A time message that arrived is taken, and counts where its sender has a lower index. -/
theorem timeMessage_taken {s : State} {p : PodPacket} {rest : List PodPacket} {n : Nat} (hd : s.turn.unit < 13)
    (htake : takeFirst (fun (p : PodPacket) => p.dst == s.devidx && p.body.timeOf.isSome && !p.stomped) (s.inputOf s.turn.unit)
      = some (p, rest)) (hbody : p.body = .time n) (hsub : s.turn.sub ≠ 1) :
    Goes s .timeMessage (if p.src < s.devidx then { s.setInput s.turn.unit rest with slew := (n : Int) - s.time }
      else s.setInput s.turn.unit rest) := by
  show execTimeMessage s = _
  have hd' : ¬13 ≤ s.turn.unit := by omega
  have htime : p.body.timeOf = some n := by rw [hbody]; rfl
  simp [execTimeMessage, hsub, hd', htake, htime]

theorem isReference_iff (s : State) (up : List Nat) : s.isReference up = true ↔ s.devidx ∈ up ∧ ∀ x ∈ up, s.devidx ≤ x := by
  simp [State.isReference]

/-- What sending a time message to each device of a list adds to what this device injects, and what it leaves. -/
theorem injectTimes (ds : List Nat) : ∀ s : State,
    let t := ds.foldl (fun s d => s.injectPkt { dst := d, cls := 1, body := .time s.time }) s
    t.mem = s.mem ∧ t.time = s.time ∧ t.inject.length = s.inject.length + ds.length ∧ (∀ q ∈ s.inject, q ∈ t.inject)
      ∧ ∀ x ∈ ds, ∃ q ∈ t.inject, q.dst = x ∧ q.cls = 1 ∧ q.body = .time s.time := by
  induction ds with
  | nil => exact fun s => ⟨rfl, rfl, rfl, fun _ h => h, by simp⟩
  | cons d ds ih =>
    intro s
    obtain ⟨hmem, htime, hlen, hkeep, hsent⟩ := ih (s.injectPkt { dst := d, cls := 1, body := .time s.time })
    refine ⟨hmem, htime, ?_, fun q hq => hkeep q (List.mem_append_left _ hq), fun x hx => ?_⟩
    · have hone : ∀ q : PodPacket, (s.injectPkt q).inject.length = s.inject.length + 1 := fun q => by simp [State.injectPkt]
      rw [hone] at hlen
      rw [List.foldl_cons, hlen, List.length_cons, Nat.add_assoc, Nat.add_comm 1]
    · obtain rfl | hx := List.mem_cons.mp hx
      · exact ⟨_, hkeep _ (List.mem_append_right _ (List.mem_singleton.mpr rfl)), rfl, rfl, rfl⟩
      · exact hsent x hx

/-- The reference sends its time to every other device of the list. -/
theorem timeMessage_sent {s : State} (hsub : s.turn.sub = 1)
    (href : s.devidx ∈ s.turn.words.map BitVec.toNat ∧ ∀ x ∈ s.turn.words.map BitVec.toNat, s.devidx ≤ x) :
    ∃ t, Goes s .timeMessage t ∧ t.mem = s.mem ∧ t.time = s.time
      ∧ t.inject.length = s.inject.length + ((s.turn.words.map BitVec.toNat).filter (· != s.devidx)).length
      ∧ ∀ x ∈ s.turn.words.map BitVec.toNat, x ≠ s.devidx → ∃ q ∈ t.inject, q.dst = x ∧ q.cls = 1 ∧ q.body = .time s.time := by
  have hsend := injectTimes ((s.turn.words.map BitVec.toNat).filter (· != s.devidx)) s
  obtain ⟨hmem, htime, hlen, -, hsent⟩ := hsend
  refine ⟨s.sendTime (s.turn.words.map BitVec.toNat), ?_, hmem, htime, hlen, fun x hx hne => hsent x ?_⟩
  · show execTimeMessage s = _
    simp only [execTimeMessage, hsub, if_true, (isReference_iff s _).mpr href]
  · simp [hx, hne]

theorem timeMessage_notReference {s : State} (hsub : s.turn.sub = 1)
    (href : ¬(s.devidx ∈ s.turn.words.map BitVec.toNat ∧ ∀ x ∈ s.turn.words.map BitVec.toNat, s.devidx ≤ x)) :
    Goes s .timeMessage s := by
  show execTimeMessage s = _
  simp only [execTimeMessage, hsub, if_true, mt (isReference_iff s _).mp href]
  rfl

/-- TIME gains at most as much as passes, and loses at most half of it. -/
theorem slewed_bounds (slew : Int) (ns : Nat) :
    ns / 2 ≤ slewed slew ns ∧ slewed slew ns ≤ 2 * ns ∧ (slew = 0 → slewed slew ns = ns) := by
  unfold slewed
  split_ifs <;> omega

@[simp] theorem State.time_count (s : State) (p kind n : Nat) : (s.count p kind n).time = s.time := by
  unfold State.count
  split <;> rfl

@[simp] theorem State.slew_count (s : State) (p kind n : Nat) : (s.count p kind n).slew = s.slew := by
  unfold State.count
  split <;> rfl

theorem State.time_countClocks (s : State) (clocks : Nat) : (s.countClocks clocks).time = s.time := by
  unfold State.countClocks
  refine foldl_keeps State.time (fun u p => ?_) _ _
  dsimp only
  split_ifs <;> simp only [State.time_count]

theorem State.slew_countClocks (s : State) (clocks : Nat) : (s.countClocks clocks).slew = s.slew := by
  unfold State.countClocks
  refine foldl_keeps State.slew (fun u p => ?_) _ _
  dsimp only
  split_ifs <;> simp only [State.slew_count]

@[simp] theorem State.time_mailUnserved (s : State) : s.mailUnserved.time = s.time := by
  unfold State.mailUnserved
  split
  · split_ifs <;> rfl
  · rfl

@[simp] theorem State.time_mailPost (s : State) : s.mailPost.time = s.time := by
  unfold State.mailPost
  dsimp only
  split
  · rfl
  · split_ifs <;> rfl

theorem State.time_passTime (s : State) (clocks ns : Nat) : (s.passTime clocks ns).time = s.time + slewed s.slew ns := by
  rw [State.passTime, State.time_mailPost, State.time_mailUnserved]
  show (s.countClocks clocks).time + slewed (s.countClocks clocks).slew ns = _
  rw [s.time_countClocks, s.slew_countClocks]

theorem passTime_bounds (s : State) (c ns : Nat) :
    s.time + ns / 2 ≤ (s.passTime c ns).time ∧ (s.passTime c ns).time ≤ s.time + 2 * ns
      ∧ (s.slew = 0 → (s.passTime c ns).time = s.time + ns) := by
  obtain ⟨hlow, hhigh, hzero⟩ := slewed_bounds s.slew ns
  rw [s.time_passTime]
  exact ⟨by omega, by omega, fun h => by rw [hzero h]⟩

/-- Settles O53: each row's outcome under its guards, and the bounds of what TIME gains. -/
theorem sleepSamplesAndTime : Obligations.SleepSamplesAndTime := by
  unfold Obligations.SleepSamplesAndTime
  intro s
  refine ⟨fun hcore hon hdue => ⟨pcSample_passes hcore hon hdue, fun j a hnext hact => pcSample_records hcore hon hdue hnext hact⟩,
    fun hcl hidle => ⟨idleEntry_seenIdle hcl hidle, ?_⟩, idleEntry_seenBusy, ?_,
    fun hsub hcl => ⟨fun us => idleWake_cluster hsub hcl, fun t => idleExitDone_cluster hsub hcl⟩,
    fun hsub => ⟨fun us => idleWake_device hsub, fun t => idleExitDone_device hsub⟩, lattolWrite_writes,
    fun hd p rest n => timeMessage_taken hd, fun hsub => ⟨timeMessage_sent hsub, timeMessage_notReference hsub⟩, passTime_bounds s⟩
  · intro t p hsince hpart hfrom hexit
    refine ⟨fun hus hlong => ?_, fun hlow hhigh hlong => ?_, fun hus => ?_⟩
    · exact idleEntry_enters hcl hidle hsince hpart hexit (by simp [deepest_i1_i2, hus]) (hfrom.imp_right fun h => ⟨h.1, rfl⟩)
        (by simpa [exitUs] using hlong)
    · have hrun : (s.cluster s.turn.unit).idle = .run := hfrom.resolve_right fun h => by omega
      exact idleEntry_enters hcl hidle hsince hpart hexit (by simp [deepest_i1_i2, hlow, hhigh]) (.inl hrun)
        (by simpa [exitUs] using hlong)
    · have hnot : ¬50 ≤ (s.part p).lattol ∧ ¬2 ≤ (s.part p).lattol := by omega
      exact idleEntry_stays hcl hidle hsince hpart (by simp [deepest_i1_i2, hnot])
  · intro hrun hexit hquiet hworks hidle
    exact ⟨fun i => deviceIdleEntry_enters hrun hexit (stirs_of_still hquiet hworks hidle), fun us => deviceIdle_of_leastLattol⟩

end Sys2Proof.Machine
end

section
/-!
SUPPORT. The host's side (22 R388-R390; 11 R425; 15 R377): what a write of WCTRL with a GO leaves, the bytes of a ring entry, the
range of BAR2, and what N0 changes when it passes an access on.
-/

namespace Sys2Proof.Machine

/-! ## End windows -/

theorem State.modWindow_modWindow (s : State) (p w : Nat) (f g : HostWindow → HostWindow) :
    (s.modWindow p w f).modWindow p w g = s.modWindow p w (g ∘ f) := by
  simp [State.modWindow, State.modPart, State.part]

@[simp] theorem State.window_modWindow (s : State) (p w : Nat) (f : HostWindow → HostWindow) :
    (s.modWindow p w f).window p w = f (s.window p w) := by
  simp [State.window, State.modWindow]

/-- Two changes of a window that agree on what it holds agree. -/
theorem State.modWindow_congr (s : State) (p w : Nat) {f g : HostWindow → HostWindow} (h : f (s.window p w) = g (s.window p w)) :
    s.modWindow p w f = s.modWindow p w g := by
  have h' : f (find (s.part p).windows w {}) = g (find (s.part p).windows w {}) := h
  simp only [State.modWindow, State.modPart, h']

/-- The GO of word 0 as WCTRL takes it: its WORDS, its LOST and the GO bit. -/
theorem wctrl_go (v : Word) : fieldOf (v ||| 0x8000000000000000#64) 3 0 = v.toNat % 16
    ∧ (v ||| 0x8000000000000000#64).getLsbD 61 = v.getLsbD 61 ∧ (v ||| 0x8000000000000000#64).getLsbD 63 = true := by
  refine ⟨?_, by simp, by simp⟩
  have hlow := Nat.or_mod_two_pow (a := v.toNat) (b := 2 ^ 63) (n := 4)
  simpa [fieldOf, bitsOf] using hlow

/-- A GO of an open function writes WCTRL, and then acts on what stands there. -/
theorem hostWindowGo_eq {s : State} (hp : s.turn.unit < 8) (hw : s.turn.sub < 16) (hval : s.turn.val ≠ 1)
    (hvalid : (s.part s.turn.unit).valid = true) (hfrozen : (s.part s.turn.unit).frozen = false) :
    Goes s .hostWindowGo ((s.modWindow s.turn.unit s.turn.sub fun x =>
      { x with words := min 4 ((s.given 0).toNat % 16), lost := x.lost && !(s.given 0).getLsbD 61 }).windowGo s.turn.unit s.turn.sub) := by
  show execHostWindowGo s = _
  have hp' : ¬8 ≤ s.turn.unit := by omega
  have hw' : ¬16 ≤ s.turn.sub := by omega
  obtain ⟨hwords, hlost, hgo⟩ := wctrl_go (s.given 0)
  simp only [execHostWindowGo, hp', hw', hval, decide_false, Bool.or_self, Bool.false_eq_true, if_false, Partition.open, hvalid,
    hfrozen, Bool.not_false, Bool.and_self, Bool.not_true, State.writeWctrl, hwords, hlost, hgo, if_true]

theorem State.windowGo_busy {s : State} {p w k : Nat} (hchan : (s.window p w).chan = some k) (hbusy : (s.window p w).busy = true) :
    s.windowGo p w = s.modWindow p w fun x => { x with lost := true } := by
  simp [State.windowGo, hchan, hbusy]

/-- The message of a GO of window `w` of partition `p`, whose channel is `k`, with the window's first words. -/
def State.goMsg (s : State) (p w k words : Nat) : Msg :=
  { kind := .data, chid := s.devidx * 2 ^ 24 + k, home := (s.chan k).home, seq := (s.window p w).seq, core := ioCluster 0 * 8
    part := p, words := (rangeFrom 0 words).map fun i => find (s.window p w).payload i 0#64, window := some (16 * p + w) }

theorem State.goMsg_modWindow {s : State} {p w : Nat} {f : HostWindow → HostWindow} (k words : Nat)
    (hpayload : (f (s.window p w)).payload = (s.window p w).payload) (hseq : (f (s.window p w)).seq = (s.window p w).seq) :
    (s.modWindow p w f).goMsg p w k words = s.goMsg p w k words := by
  rw [State.goMsg, State.window_modWindow, hpayload, hseq]
  rfl

theorem State.windowGo_sends {s : State} {p w k : Nat} (hchan : (s.window p w).chan = some k) (hbusy : (s.window p w).busy = false) :
    s.windowGo p w = (s.modWindow p w fun x => { x with busy := true, seq := (x.seq + 1) % 2 ^ 32 }).sendPkt (ioCluster 0)
      ((s.chan k).home / 4) p (.toHome (s.goMsg p w k (s.window p w).words)) := by
  simp only [State.windowGo, hchan, hbusy]
  rfl

/-- A window that is not busy sends its words as one message, and is busy. -/
theorem hostWindowGo_sends {s : State} {k : Nat} (hp : s.turn.unit < 8) (hw : s.turn.sub < 16) (hval : s.turn.val ≠ 1)
    (hvalid : (s.part s.turn.unit).valid = true) (hfrozen : (s.part s.turn.unit).frozen = false)
    (hchan : (s.window s.turn.unit s.turn.sub).chan = some k) (hbusy : (s.window s.turn.unit s.turn.sub).busy = false) :
    Goes s .hostWindowGo
      ((s.modWindow s.turn.unit s.turn.sub fun x =>
        { x with words := min 4 ((s.given 0).toNat % 16)
                 lost := (s.window s.turn.unit s.turn.sub).lost && !(s.given 0).getLsbD 61
                 busy := true, seq := (x.seq + 1) % 2 ^ 32 }).sendPkt (ioCluster 0) ((s.chan k).home / 4) s.turn.unit
        (.toHome (s.goMsg s.turn.unit s.turn.sub k (min 4 ((s.given 0).toNat % 16))))) := by
  have hgoes := hostWindowGo_eq hp hw hval hvalid hfrozen
  rw [State.windowGo_sends (k := k) (by simpa using hchan) (by simpa using hbusy), State.modWindow_modWindow] at hgoes
  rw [State.goMsg_modWindow k _ (by rfl) (by rfl), State.window_modWindow] at hgoes
  exact (State.modWindow_congr s _ _ (by rfl)) ▸ hgoes

/-- A GO of a busy window loses its words. -/
theorem hostWindowGo_loses {s : State} {k : Nat} (hp : s.turn.unit < 8) (hw : s.turn.sub < 16) (hval : s.turn.val ≠ 1)
    (hvalid : (s.part s.turn.unit).valid = true) (hfrozen : (s.part s.turn.unit).frozen = false)
    (hchan : (s.window s.turn.unit s.turn.sub).chan = some k) (hbusy : (s.window s.turn.unit s.turn.sub).busy = true) :
    Goes s .hostWindowGo (s.modWindow s.turn.unit s.turn.sub fun x =>
      { x with words := min 4 ((s.given 0).toNat % 16), lost := true }) := by
  have hgoes := hostWindowGo_eq hp hw hval hvalid hfrozen
  rwa [State.windowGo_busy (k := k) (by simpa using hchan) (by simpa using hbusy), State.modWindow_modWindow] at hgoes

/-- BUSY clears once the message has left N0. -/
theorem hostWindowGo_left {s : State} (hp : s.turn.unit < 8) (hw : s.turn.sub < 16) (hval : s.turn.val = 1)
    (hout : s.windowOut s.turn.unit s.turn.sub = false) :
    Goes s .hostWindowGo (s.modWindow s.turn.unit s.turn.sub fun x => { x with busy := false }) := by
  show execHostWindowGo s = _
  have hp' : ¬8 ≤ s.turn.unit := by omega
  have hw' : ¬16 ≤ s.turn.sub := by omega
  simp [execHostWindowGo, hp', hw', hval, hout]

/-! ## The event ring -/

theorem hostEventEntry_writes {s : State} {e : Evt} {es : List Evt} (hp : s.turn.unit < 8) (hw : s.turn.sub < 16)
    (hwaiting : (s.window s.turn.unit s.turn.sub).waiting = e :: es) (hbase : (s.window s.turn.unit s.turn.sub).evbase ≠ 0#64)
    (hroom : ((s.window s.turn.unit s.turn.sub).prod + 2 ^ 16 - (s.window s.turn.unit s.turn.sub).cons) % 2 ^ 16 ≠ 64) :
    let x := s.window s.turn.unit s.turn.sub
    let a := 0x800000000000 + (x.evbase.toNat + 128 * (x.prod % 64)) % 2 ^ 47
    Goes s .hostEventEntry ((({ s with mem := writeBytes s.mem a (ringEntry e) } : State)).modWindow s.turn.unit s.turn.sub fun x =>
      { x with waiting := es, prod := (x.prod + 1) % 2 ^ 16 }) := by
  intro x a
  show execHostEventEntry s = _
  have hp' : ¬8 ≤ s.turn.unit := by omega
  have hw' : ¬16 ≤ s.turn.sub := by omega
  have hring : (s.window s.turn.unit s.turn.sub).ringRoom = true := by
    simp only [HostWindow.ringRoom, Bool.and_eq_true, bne_iff_ne]
    exact ⟨hbase, hroom⟩
  simp only [execHostEventEntry, hp', hw', decide_false, Bool.or_self, Bool.false_eq_true, if_false, hwaiting, hring, Bool.not_true,
    hostAddr]
  rfl

/-- The bytes of a list of words are as many, and each word's stand at its place. -/
theorem length_wordBytes (ws : List Word) : ((ws.map fun w => bytesOfNat 8 w.toNat).flatten).length = 8 * ws.length := by
  induction ws with
  | nil => rfl
  | cons w ws ih =>
    rw [List.map_cons, List.flatten_cons, List.length_append, ih, length_bytesOfNat, List.length_cons]
    omega

theorem slice_wordBytes (ws : List Word) : ∀ k, k < ws.length →
    (((ws.map fun w => bytesOfNat 8 w.toNat).flatten).drop (8 * k)).take 8 = bytesOfNat 8 (ws.getD k 0#64).toNat := by
  induction ws with
  | nil => intro k hk; simp at hk
  | cons w ws ih =>
    intro k hk
    have hlen : (bytesOfNat 8 w.toNat).length = 8 := length_bytesOfNat 8 _
    cases k with
    | zero =>
      rw [List.map_cons, List.flatten_cons, Nat.mul_zero, List.drop_zero, List.take_append_of_le_length hlen.ge,
        List.take_of_length_le hlen.le, List.getD_cons_zero]
    | succ k =>
      rw [List.map_cons, List.flatten_cons, show 8 * (k + 1) = (bytesOfNat 8 w.toNat).length + 8 * k by omega,
        List.drop_length_add_append, List.getD_cons_succ]
      exact ih k (Nat.lt_of_succ_lt_succ hk)

theorem length_padWords (n : Nat) (ws : List Word) : (padWords n ws).length = n := by
  simp [padWords]
  omega

theorem getD_padWords {n k : Nat} (hk : k < n) (ws : List Word) : (padWords n ws).getD k 0#64 = ws.getD k 0#64 := by
  unfold padWords
  by_cases h : k < ws.length
  · rw [List.getD_append _ _ _ _ (by simp; omega)]
    simp [List.getD, hk]
  · rw [List.getD_append_right _ _ _ _ (by simp; omega)]
    simp [List.getD, List.getElem?_eq_none (Nat.le_of_not_lt h)]

theorem length_ringEntry (e : Evt) : (ringEntry e).length = 128 := by
  rw [ringEntry, length_wordBytes]
  simp [length_padWords]

/-- Word k + 1 of a ring entry is word k of the event's payload. -/
theorem slice_ringEntry (e : Evt) (k : Nat) (hk : k < 8) :
    ((ringEntry e).drop (8 * (k + 1))).take 8 = bytesOfNat 8 (e.payload.getD k 0#64).toNat := by
  have hpad : k < (padWords 8 e.payload).length := by rw [length_padWords]; exact hk
  rw [ringEntry, slice_wordBytes _ (k + 1) (by simp [length_padWords]; omega), List.cons_append, List.getD_cons_succ,
    List.getD_append _ _ _ _ hpad, getD_padWords hk]

/-! ## BAR2 -/

/-- BAR2 holds the partition's range. -/
theorem le_bar2Size (n : Nat) : n ≤ bar2Size n := by
  unfold bar2Size
  split_ifs with h
  · exact le_refl n
  · have hlog := Nat.lt_log2_self (n := n - 1)
    omega

theorem hostBar2Access_reads {s : State} (hp : s.turn.unit < 8) (hvalid : (s.part s.turn.unit).valid = true) {n : Nat}
    (hbytes : s.turn.bytes = []) (hn : n = min 4096 s.turn.val) (hpos : 0 < n)
    (hin : s.turn.sub + n ≤ (s.part s.turn.unit).msize) :
    ∃ t, Goes s .hostBar2Access t ∧ t.hostReply = readBytes s.mem ((s.part s.turn.unit).mbase + s.turn.sub) n ∧ t.mem = s.mem
      ∧ t.cores = s.cores := by
  have hp' : ¬8 ≤ s.turn.unit := by omega
  have hn' : n ≠ 0 := by omega
  have hbar : ¬bar2Size (s.part s.turn.unit).msize < s.turn.sub + n := by have := le_bar2Size (s.part s.turn.unit).msize; omega
  have hin' : ¬(s.part s.turn.unit).msize < s.turn.sub + n := by omega
  let lines := linesOf ((s.part s.turn.unit).mbase + s.turn.sub) n
  let x := lines.foldl (fun u l => u.lineAccess (homeOf l) l s.turn.unit 0 false) s
  have hmem : x.mem = s.mem := foldl_keeps State.mem (fun u l => State.mem_lineAccess (s := u) _ _ _ _ _) lines s
  have hcores : x.cores = s.cores := foldl_keeps State.cores (fun u l => State.cores_lineAccess (s := u) _ _ _ _ _) lines s
  refine ⟨{ x with hostReply := readBytes x.mem ((s.part s.turn.unit).mbase + s.turn.sub) n }, ?_, ?_, hmem, hcores⟩
  · show execHostBar2Access s = _
    simp [execHostBar2Access, hp', hbytes, hvalid, ← hn, hn', hbar, hin', x, lines]
  · rw [hmem]

theorem hostBar2Access_frozen {s : State} (hp : s.turn.unit < 8) (hbytes : s.turn.bytes ≠ [])
    (hfrozen : (s.part s.turn.unit).frozen = true) : Goes s .hostBar2Access s := by
  show execHostBar2Access s = _
  have hp' : ¬8 ≤ s.turn.unit := by omega
  simp [execHostBar2Access, hp', hbytes, hfrozen]

theorem hostBar2Access_writes {s : State} (hp : s.turn.unit < 8) (hvalid : (s.part s.turn.unit).valid = true)
    (hbytes : s.turn.bytes ≠ []) (hfrozen : (s.part s.turn.unit).frozen = false)
    (hin : s.turn.sub + s.turn.bytes.length ≤ (s.part s.turn.unit).msize) :
    Goes s .hostBar2Access (s.write { part := s.turn.unit, die := 4, kind := .host } ((s.part s.turn.unit).mbase + s.turn.sub)
      s.turn.bytes) := by
  show execHostBar2Access s = _
  have hp' : ¬8 ≤ s.turn.unit := by omega
  have hbar : ¬bar2Size (s.part s.turn.unit).msize < s.turn.sub + s.turn.bytes.length := by
    have := le_bar2Size (s.part s.turn.unit).msize
    omega
  have hin' : ¬(s.part s.turn.unit).msize < s.turn.sub + s.turn.bytes.length := by omega
  simp [execHostBar2Access, hp', hbytes, hvalid, hfrozen, hbar, hin']

/-- A write beyond the partition's range freezes the function, and changes neither memory nor a core. -/
theorem hostBar2Access_beyond {s : State} (hp : s.turn.unit < 8) (hvalid : (s.part s.turn.unit).valid = true)
    (hbytes : s.turn.bytes ≠ []) (hfrozen : (s.part s.turn.unit).frozen = false)
    (hout : (s.part s.turn.unit).msize < s.turn.sub + s.turn.bytes.length)
    (hbar : s.turn.sub + s.turn.bytes.length ≤ bar2Size (s.part s.turn.unit).msize) :
    ∃ t, Goes s .hostBar2Access t ∧ (t.part s.turn.unit).frozen = true ∧ t.mem = s.mem ∧ t.cores = s.cores
      ∧ t.keystone.posts.length = s.keystone.posts.length + 1 := by
  have hp' : ¬8 ≤ s.turn.unit := by omega
  have hbar' : ¬bar2Size (s.part s.turn.unit).msize < s.turn.sub + s.turn.bytes.length := by omega
  refine ⟨s.freezeFunction s.turn.unit, ?_, ?_, rfl, rfl, ?_⟩
  · show execHostBar2Access s = _
    simp [execHostBar2Access, hp', hbytes, hvalid, hfrozen, hout, hbar']
  · exact congrArg Partition.frozen (State.part_modPart_same s s.turn.unit fun q => { q with frozen := true })
  · simp [State.freezeFunction, State.tellHost]

theorem hostFunctionReset_thaws {s : State} (hp : s.turn.unit < 8) :
    ∃ t, Goes s .hostFunctionReset t ∧ (t.part s.turn.unit).frozen = false ∧ t.mem = s.mem ∧ t.cores = s.cores := by
  refine ⟨s.modPart s.turn.unit fun q => { q with frozen := false }, ?_, by simp, rfl, rfl⟩
  show execHostFunctionReset s = _
  have hp' : ¬8 ≤ s.turn.unit := by omega
  simp [execHostFunctionReset, hp']

/-! ## Accesses that N0 passes on -/

@[simp] theorem State.procs_crossDie (s : State) (src dst : Nat) : (s.crossDie src dst).procs = s.procs := by
  have happly : ∀ (u : State) (m : DieMsg), (u.applyDieMsg m).procs = u.procs := fun u m => by
    simp only [State.applyDieMsg, State.closeWindow]
    split <;> rfl
  unfold State.crossDie
  split_ifs
  · rfl
  · exact foldl_keeps State.procs happly _ _

@[simp] theorem State.hostReqs_crossDie (s : State) (src dst : Nat) : (s.crossDie src dst).hostReqs = s.hostReqs := by
  have happly : ∀ (u : State) (m : DieMsg), (u.applyDieMsg m).hostReqs = u.hostReqs := fun u m => by
    simp only [State.applyDieMsg, State.closeWindow]
    split <;> rfl
  unfold State.crossDie
  split_ifs
  · rfl
  · exact foldl_keeps State.hostReqs happly _ _

theorem hostCxlAccess_stores {s : State} {r : HostReq} {rs : List HostReq} {bs : List Byte} (hreqs : s.hostReqs = r :: rs)
    (hbytes : r.bytes = some bs) :
    ∃ t, Goes s .hostCxlAccess t ∧ t.hostReqs = rs ∧ t.mem = writeAt s.mem r.addrs bs ∧ t.cores = s.cores ∧ t.procs = s.procs := by
  refine ⟨({ s with hostReqs := rs } : State).passStore r bs, ?_, ?_, ?_, ?_, ?_⟩
  · show execHostCxlAccess s = _
    simp [execHostCxlAccess, hreqs, hbytes]
  all_goals simp [State.passStore]

theorem hostCxlAccess_loads {s : State} {r : HostReq} {rs : List HostReq} (hreqs : s.hostReqs = r :: rs) (hbytes : r.bytes = none) :
    ∃ t, Goes s .hostCxlAccess t ∧ t.mem = s.mem ∧ t.hostReqs = rs
      ∧ let own := s.turn.bytes.isEmpty
        let bs := if own then r.addrs.map (readByte s.mem) else s.turn.bytes.take r.size
        let x : Reply := { value := BitVec.ofNat 64 (natOfBytes bs), know := if own then s.knownAt r.addrs else [] }
        ∀ q, (s.ctx r.core r.ctx).pend = some q → q.id = r.req → (t.ctx r.core r.ctx).pend = some { q with reply := some x } := by
  refine ⟨({ s with hostReqs := rs } : State).passLoad r, ?_, rfl, rfl, fun q hpend hid => ?_⟩
  · show execHostCxlAccess s = _
    simp [execHostCxlAccess, hreqs, hbytes]
  · have hpend' : (({ s with hostReqs := rs } : State).ctx r.core r.ctx).pend = some q := hpend
    simp [State.passLoad, hpend', hid, wordOf, State.knownAt]

/-- Settles O51: each row's outcome under its guards. -/
theorem theHostReachesTheDevice : Obligations.TheHostReachesTheDevice := by
  unfold Obligations.TheHostReachesTheDevice
  refine ⟨fun s hp => ⟨fun hw hval hvalid hfrozen k hchan =>
      ⟨fun hbusy => ⟨_, rfl, rfl, rfl, rfl, rfl, hostWindowGo_sends hp hw hval hvalid hfrozen hchan hbusy⟩,
      hostWindowGo_loses hp hw hval hvalid hfrozen hchan⟩, hostWindowGo_left hp,
    fun hw e es hwaiting hbase hroom => ⟨hostEventEntry_writes hp hw hwaiting hbase hroom, length_ringEntry e, slice_ringEntry e⟩,
    fun hvalid => ⟨fun n => hostBar2Access_reads hp hvalid, hostBar2Access_frozen hp,
      fun hbytes hfrozen hin _ _ => hostBar2Access_writes hp hvalid hbytes hfrozen hin, hostBar2Access_beyond hp hvalid⟩,
    hostFunctionReset_thaws hp⟩, fun s r rs hreqs => ⟨fun bs => hostCxlAccess_stores hreqs, hostCxlAccess_loads hreqs⟩⟩

end Sys2Proof.Machine
end

section
/-!
SUPPORT. The mailbox commands (22 R392-R395, R398, R401): a command of MailIs runs, what its end leaves, what an answer to an SPDM
message is for each kind of request, and each row's outcome.
-/

namespace Sys2Proof.Machine

/-! ## A command runs and ends -/

theorem runs_of_mailIs {s : State} {code : Nat} (h : MailIs s code) : s.keystone.runs code = true := by
  obtain ⟨hbusy, hcode, hminimal⟩ := h
  have hfield : fieldOf s.keystone.cmd 7 0 = code := by simpa [fieldOf, bitsOf] using hcode
  simp [Keystone.runs, Keystone.code, hbusy, hfield, hminimal]

/-- A reply that fits the buffer is read back from it. -/
theorem mailDone_replies (s : State) (r : Nat) {bs : List Byte} (hlen : bs.length ≤ 4096) (hwf : s.keystone.buffer.wf = true) :
    readBytes (s.mailDone r bs).keystone.buffer 0 bs.length = bs := by
  simp [State.mailDone, List.take_of_length_le hlen, readBytes_writeBytes 0 bs hwf]

/-- A refused command ends with a result that is not 0. -/
theorem mailRefused_result (s : State) :
    ∃ r, r ≠ 0 ∧ s.mailRefused = ({ s with freeCount := s.freeCount + 1 } : State).mailDone r [] :=
  ⟨1 + (Config.freeWord s.freeCount).toNat % 65535, by omega, rfl⟩

/-! ## PART_SET -/

/-- A partition that is not valid gets its records and the masks of its dies, and nothing else. -/
theorem setPart_invalid (s : State) (p image : Nat) {q : Partition} (mask : Word) (h : q.valid = false) :
    s.setPart p q image mask
      = [0, 1, 2, 3].foldl (fun s d => s.modDie d fun k => k.setMask s.cyc p (mask.setWidth 16)) (s.modPart p fun _ => q) := by
  simp only [State.setPart, h, Bool.not_false, if_true]
  rfl

/-- The partition that the request in the buffer describes. -/
def State.mailedPart (s : State) : Partition :=
  { record := recordOf (BitVec.ofNat 512 (readNat s.keystone.buffer 0 64)),
    aperture := apertureOf (BitVec.ofNat 512 (readNat s.keystone.buffer 64 64)) }

theorem partSet_sets {s : State} (hmail : MailIs s 1) (hunit : s.turn.unit < 8) (hlen : s.keystone.len = 128)
    (hok : s.partRefused s.turn.unit s.mailedPart = false) :
    Goes s .partSet ((s.setPart s.turn.unit s.mailedPart (fieldOf (s.given 0) 51 0) (s.given 1)).mailDone 0 []) := by
  show execPartSet s = _
  have hunit' : ¬8 ≤ s.turn.unit := by omega
  have hok' := hok
  simp only [State.mailedPart] at hok'
  simp only [execPartSet, hunit', if_false, runs_of_mailIs hmail, Bool.not_true, Bool.false_eq_true, hlen, ne_eq, not_true_eq_false,
    decide_false, hok', Bool.or_self]
  rfl

theorem partSet_refuses {s : State} (hmail : MailIs s 1) (hunit : s.turn.unit < 8)
    (hno : s.partRefused s.turn.unit s.mailedPart = true) : Goes s .partSet s.mailRefused := by
  show execPartSet s = _
  have hunit' : ¬8 ≤ s.turn.unit := by omega
  have hno' := hno
  simp only [State.mailedPart] at hno'
  simp only [execPartSet, hunit', if_false, runs_of_mailIs hmail, Bool.not_true, Bool.false_eq_true, hno', Bool.or_true, if_true]

/-! ## DEV_SET -/

theorem devSet_writes {s : State} {r : DevReg} (hmail : MailIs s 2) (hreg : devRegAt (s.keystone.word 0).toNat = some r)
    (hwide : r.deviceWide = true) : Goes s .devSet ((s.devWrite (s.keystone.word 1) r).mailDone 0 []) := by
  show execDevSet s = _
  simp [execDevSet, runs_of_mailIs hmail, hreg, hwide]

/-! ## SPDM -/

/-- The request has a code that the device supports. -/
def spdmKnown (req : List Byte) : Prop := (req.getD 1 0#8).toNat ∈ [0x84, 0xE1, 0xE3, 0x81, 0x82, 0x83, 0xE0]

/-- The request asks for a signature. -/
def spdmAsksSignature (req : List Byte) : Prop :=
  req.getD 1 0#8 = 0x83#8 ∨ (req.getD 1 0#8 = 0xE0#8 ∧ (req.getD 2 0#8).getLsbD 0 = true)

theorem spdmKnown_iff (req : List Byte) : spdmCodes.contains (spdmCode req) = true ↔ spdmKnown req := by
  rw [List.contains_iff_mem]
  exact Iff.rfl

theorem spdmSigned_iff (req : List Byte) : spdmSigned req = true ↔ spdmAsksSignature req := by
  simp only [spdmSigned, spdmAsksSignature, spdmCode, Bool.or_eq_true, Bool.and_eq_true, beq_iff_eq, ← BitVec.toNat_inj]
  rfl

theorem spdmHead_eq (req : List Byte) : spdmHead req = [req.getD 0 0#8, req.getD 1 0#8 &&& 0x7F#8] := by
  have hcode : BitVec.ofNat 8 ((req.getD 1 0#8).toNat % 128) = req.getD 1 0#8 &&& 0x7F#8 := by
    apply BitVec.eq_of_toNat_eq
    have hmask := Nat.and_two_pow_sub_one_eq_mod (req.getD 1 0#8).toNat 7
    rw [BitVec.toNat_and, BitVec.toNat_ofNat, ← hmask]
    exact Nat.mod_eq_of_lt (lt_of_le_of_lt Nat.and_le_left (req.getD 1 0#8).isLt)
  rw [spdmHead, spdmCode, hcode]

theorem length_spdmBytes (i k n : Nat) : (spdmBytes i k n).length = n := by
  rw [spdmBytes, List.length_map, length_rangeFrom]

theorem answerSpdm_unknown (s : State) {req : List Byte} (flash : Bool) (n : Nat) (h : ¬spdmKnown req) :
    s.answerSpdm req flash n = ([req.getD 0 0#8, 0x7F#8, 0x07#8, req.getD 1 0#8], s) := by
  simp only [State.answerSpdm, mt (spdmKnown_iff req).mp h]
  rfl

theorem answerSpdm_plain (s : State) {req : List Byte} (flash : Bool) (n : Nat) (h : spdmKnown req) (hplain : ¬spdmAsksSignature req) :
    s.answerSpdm req flash n = ([req.getD 0 0#8, req.getD 1 0#8 &&& 0x7F#8] ++ spdmBytes s.freeCount 0 (max 2 (min 4094 n)),
      { s with freeCount := s.freeCount + 1 }) := by
  have hsigned : spdmSigned req = false := by simpa using mt (spdmSigned_iff req).mp hplain
  simp only [State.answerSpdm, (spdmKnown_iff req).mpr h, hsigned, spdmHead_eq]
  rfl

/-- A signature spends a leaf. -/
theorem answerSpdm_signed (s : State) {req : List Byte} {flash : Bool} (n : Nat) (h : spdmKnown req) (hsigned : spdmAsksSignature req)
    (hleaf : s.keystone.leaf < 2 ^ 20) (hflash : flash = true) :
    s.answerSpdm req flash n = ([req.getD 0 0#8, req.getD 1 0#8 &&& 0x7F#8] ++ spdmBytes s.freeCount 0 (max 2 (min 1170 n))
        ++ (bytesOfNat 4 s.keystone.leaf).reverse ++ spdmBytes s.freeCount 4096 2824 ++ spdmBytes s.freeCount 8192 96,
      { s with freeCount := s.freeCount + 1, keystone := { s.keystone with leaf := s.keystone.leaf + 1 } }) := by
  have hleaf' : ¬1048576 ≤ s.keystone.leaf := by omega
  simp only [State.answerSpdm, (spdmKnown_iff req).mpr h, (spdmSigned_iff req).mpr hsigned, hleaf', hflash, spdmSignedBytes,
    spdmHead_eq, lmsSignature, ecdsaSignature, State.takeFree, List.append_assoc]
  rfl

theorem answerSpdm_unsigned (s : State) {req : List Byte} {flash : Bool} (n : Nat) (h : spdmKnown req)
    (hsigned : spdmAsksSignature req) (hno : ¬(s.keystone.leaf < 2 ^ 20 ∧ flash = true)) :
    s.answerSpdm req flash n
      = ([req.getD 0 0#8, 0x7F#8, Config.spdmByte s.freeCount 0, Config.spdmByte s.freeCount 1],
        { s with freeCount := s.freeCount + 1 }) := by
  have hno' : (decide (1048576 ≤ s.keystone.leaf) || !flash) = true := by
    rw [Bool.or_eq_true, decide_eq_true_eq, Bool.not_eq_true']
    by_cases hflash : flash = true
    · exact .inl (Nat.le_of_not_lt fun hlt => hno ⟨hlt, hflash⟩)
    · exact .inr (by simpa using hflash)
  simp only [State.answerSpdm, (spdmKnown_iff req).mpr h, (spdmSigned_iff req).mpr hsigned, hno']
  rfl

/-- A row that hands on the device's answer to a request hands on one of the four kinds of answer. -/
theorem spdmRow_answers {s : State} {req : List Byte} {i : Instr} {done : State → List Byte → State}
    (hrow : ∀ bs u, s.answerSpdm req s.turn.ok s.turn.val = (bs, u) → Goes s i (done u bs)) :
    let t : State := { s with freeCount := s.freeCount + 1 }
    let head := [req.getD 0 0#8, req.getD 1 0#8 &&& 0x7F#8]
    let leaves := s.keystone.leaf < 2 ^ 20 ∧ s.turn.ok = true
    (¬spdmKnown req → Goes s i (done s [req.getD 0 0#8, 0x7F#8, 0x07#8, req.getD 1 0#8]))
    ∧ (spdmKnown req → ¬spdmAsksSignature req → ∃ bs, 2 ≤ bs.length ∧ Goes s i (done t (head ++ bs)))
    ∧ (spdmKnown req → spdmAsksSignature req → leaves → ∃ bs lms ecdsa, lms.length = 2824 ∧ ecdsa.length = 96
      ∧ Goes s i (done { t with keystone := { t.keystone with leaf := t.keystone.leaf + 1 } }
        (head ++ bs ++ (bytesOfNat 4 s.keystone.leaf).reverse ++ lms ++ ecdsa)))
    ∧ (spdmKnown req → spdmAsksSignature req → ¬leaves → ∃ x y : Byte, Goes s i (done t [req.getD 0 0#8, 0x7F#8, x, y])) :=
  ⟨fun h => hrow _ _ (answerSpdm_unknown s _ _ h),
    fun h hplain => ⟨_, by rw [length_spdmBytes]; omega, hrow _ _ (answerSpdm_plain s _ _ h hplain)⟩,
    fun h hsigned hleaves => ⟨_, _, _, length_spdmBytes _ _ _, length_spdmBytes _ _ _,
      hrow _ _ (answerSpdm_signed s _ h hsigned hleaves.1 hleaves.2)⟩,
    fun h hsigned hno => ⟨_, _, hrow _ _ (answerSpdm_unsigned s _ h hsigned hno)⟩⟩

theorem spdm_replies {s : State} (hmail : MailIs s 0x10) (bs : List Byte) (u : State)
    (h : s.answerSpdm (readBytes s.keystone.buffer 0 (min 4096 s.keystone.len)) s.turn.ok s.turn.val = (bs, u)) :
    Goes s .spdm (u.mailDone 0 bs) := by
  show execSpdm s = _
  simp [execSpdm, runs_of_mailIs hmail, h]

theorem mctp_replies {s : State} (hsub : s.turn.sub = 0) (bs : List Byte) (u : State)
    (h : s.answerSpdm s.turn.bytes s.turn.ok s.turn.val = (bs, u)) : Goes s .mctpI3cMessage { u with hostReply := bs } := by
  show execMctpI3cMessage s = _
  simp [execMctpI3cMessage, hsub, h]

theorem mctp_monitors {s : State} (hsub : s.turn.sub = 1) :
    ∃ bs, Goes s .mctpI3cMessage { s with freeCount := s.freeCount + 1, hostReply := bs } := by
  refine ⟨spdmBytes s.freeCount 0 (min 4096 s.turn.val), ?_⟩
  show execMctpI3cMessage s = _
  simp [execMctpI3cMessage, hsub, State.takeFree]

theorem mctp_stages {s : State} (hsub : s.turn.sub = 2) : Goes s .mctpI3cMessage
    { s with keystone := { s.keystone with stagedImg := s.keystone.stagedImg ++ [s.turn.bytes] } } := by
  show execMctpI3cMessage s = _
  simp [execMctpI3cMessage, hsub]

/-! ## IMAGE_LOAD and CKPT_START -/

theorem imageLoad_stages {s : State} (hmail : MailIs s 0x20) : Goes s .imageLoad
    (({ s with keystone := { s.keystone with
      stagedImg := s.keystone.stagedImg ++ [readBytes s.keystone.buffer 0 (min 4096 s.keystone.len)] } } : State).mailDone 0 []) := by
  show execImageLoad s = _
  simp [execImageLoad, runs_of_mailIs hmail]

theorem ckptStart_opens {s : State} (hmail : MailIs s 0x30) (hunit : s.turn.unit < 8) (hvalid : (s.part s.turn.unit).valid = true)
    (hdest : (s.part s.turn.unit).destOk (s.given 0).toNat = true) (hlow : (s.part s.turn.unit).mbase ≤ (s.given 1).toNat)
    (hhigh : (s.given 1).toNat + 2 ^ 26 ≤ (s.part s.turn.unit).mbase + (s.part s.turn.unit).msize)
    (hcut : s.cutting s.turn.unit = false) :
    Goes s .ckptStart (({ s with
      ckpts := put s.ckpts s.turn.unit { part := s.turn.unit, dest := (s.given 0).toNat, staging := (s.given 1).toNat } }
        : State).mailDone 0 []) := by
  show execCkptStart s = _
  have hunit' : ¬8 ≤ s.turn.unit := by omega
  have hlow' : ¬(s.given 1).toNat < (s.part s.turn.unit).mbase := by omega
  have hhigh' : ¬(s.part s.turn.unit).mbase + (s.part s.turn.unit).msize < (s.given 1).toNat + 2 ^ 26 := by omega
  simp only [execCkptStart, hunit', if_false, runs_of_mailIs hmail, Bool.not_true, Bool.false_eq_true, hvalid, hdest, hlow', hhigh',
    decide_false, hcut, Bool.or_self]

/-- Settles O50: each row's outcome, the SPDM rows through the kinds of answer. -/
theorem mailboxCommands : Obligations.MailboxCommands := by
  unfold Obligations.MailboxCommands
  refine fun s => ⟨fun r bs hlen => ⟨rfl, rfl, rfl, rfl, mailDone_replies s r hlen⟩,
    fun hmail hunit => ⟨fun hlen hok => ⟨partSet_sets hmail hunit hlen hok, setPart_invalid s _ _ _⟩, fun hno => ?_⟩,
    fun hmail r hreg hwide => devSet_writes hmail hreg ?_,
    ⟨fun hmail => spdmRow_answers (spdm_replies hmail),
      fun hsub => spdmRow_answers (done := fun u bs => { u with hostReply := bs }) (mctp_replies hsub), mctp_monitors, mctp_stages⟩,
    imageLoad_stages, fun hmail hunit hvalid hdest hlow hhigh hcut => ckptStart_opens hmail hunit hvalid hdest hlow hhigh hcut⟩
  · obtain ⟨r, hr, heq⟩ := mailRefused_result s
    exact ⟨r, hr, heq ▸ partSet_refuses hmail hunit hno⟩
  · obtain rfl | rfl | ⟨d, rfl⟩ | ⟨p, rfl⟩ := hwide <;> rfl

end Sys2Proof.Machine
end

section
/-!
SUPPORT. The move of a process after a hardware error (15 R374), where PLACE of its network image is no value of R328: an image is
tested at its launch and read again from memory at the move.
-/

namespace Sys2Proof.Machine

/-- Process 1 stands on core 0 and is to move. The image of its network lies at address 0 of partition 0, whose page the TLB of
cluster 0 holds; its PLACE reads 3, and its other bytes zero, so that WHERE names core 0. -/
def placeThree : State :=
  { State.reset with
    turn := { val := 1 }
    procs := [(1, { state := .resident, moving := true })]
    parts := [(0, { record := BitVec.ofNat 512 (2 ^ 464 + 2 ^ 350 + 2 ^ 256 + 1) })]
    clusters := [(0, { tlb := [{ rd := true }] })]
    mem := [(9, 3#8)] }

/-- The process waits for nothing, and by that PLACE the core it moves to is its own, which can hold it once more. -/
theorem placeThree_movesNowhere :
    placeThree.landsOut 1 = false ∧ placeThree.runs 1 = [] ∧ placeThree.begunOf (placeThree.proc 1) = false
      ∧ placeThree.movePlace (placeThree.proc 1) = some 0
      ∧ (placeThree.canHold 0 (placeThree.proc 1).part (placeThree.needsOf (placeThree.proc 1))).isSome = true := by
  decide +kernel

/-- Refutes O59: PROCESS_MOVE does not take a process to another core where PLACE of the image, read again, is neither 0, 1 nor 2:
the placement rule then tries the core of WHERE alone, also where the process stands on it. -/
theorem not_schedulerAndControlRows : ¬ Obligations.SchedulerAndControlRows := by
  unfold Obligations.SchedulerAndControlRows
  intro h
  obtain ⟨-, -, -, -, -, -, -, -, hmove, -⟩ := h placeThree
  obtain ⟨hlands, hruns, hbegun, hplace, hhold⟩ := placeThree_movesNowhere
  obtain ⟨⟨w, r⟩, hroom⟩ := Option.isSome_iff_exists.mp hhold
  obtain ⟨-, -, hfree⟩ := hmove rfl rfl
  obtain ⟨hother, -⟩ := (hfree hlands hruns hbegun).2 0 w r hplace hroom
  exact hother rfl

end Sys2Proof.Machine
end
